-- ==== Sys2Proof/Word.lean ====
section
/-! DEFINITION. The machine's words, lane vectors, identifiers of groups, and the packets that peers exchange
(R5, R7, R13, R300, R304). -/

namespace Sys2Proof

/-- A 32-bit register value of one lane. -/
abbrev Word := BitVec 32
/-- A 64-bit value, as held in a register pair (R13). -/
abbrev DWord := BitVec 64
/-- A byte of memory. -/
abbrev Byte := BitVec 8
/-- One value per lane of a group, lane 0 first (R5, R6). -/
abbrev Lanes (α : Type) := Vector α 32
/-- A 7-bit register field, v0 to v127 of the window (R21). -/
abbrev Reg := BitVec 7

/-- Names a group: grid slot, team index in the grid, group index in the team (R5, R103). -/
structure GKey where
  slot : Nat
  team : Nat
  g    : Nat
deriving DecidableEq, Repr

/-- Names a team: grid slot and team index (R103 TEAMHI, TEAMLO). -/
structure TKey where
  slot : Nat
  team : Nat
deriving DecidableEq, Repr

/-- The team of a group. -/
def GKey.tkey (k : GKey) : TKey := ⟨k.slot, k.team⟩

/-- One lane's piece of a remote request: lane number, offset, operand and expected value (R311, R313). -/
structure RLane where
  lane : Nat
  off  : Nat
  b    : DWord
  e    : DWord
deriving DecidableEq, Repr

/-- What a remote request asks of the peer (R312, R313, R319, R308). -/
inductive RKind where
  | load
  | store
  /-- Operation code of R313, 64-bit operation. -/
  | atom (op : Nat) (wide : Bool)
  /-- The checks of such an atomic, without its effect (R328, R330; log 70). -/
  | check (wide : Bool)
  | subscribe
  | unsubscribe
  /-- The re-key barrier packet of R308, step 4. -/
  | barrier
  /-- A tile copy of the peer reads bytes from the first lane's offset on, or writes them, some of them from an error (R164, R170). -/
  | read (n : Nat)
  | write (bytes : List Byte) (bad : Bool)
deriving DecidableEq, Repr

/-- A request packet between devices: source peer, domain, sequence number, whether its tag authenticates under the key
in force (R304, R305), and its lanes. -/
structure RPacket where
  src  : BitVec 9
  dom  : BitVec 10
  seq  : Nat
  auth : Bool
  kind : RKind
  lanes : List RLane
deriving DecidableEq, Repr

/-- What a peer answers for one lane: the bytes read or old value, NRM, or a reason code of R306, and the flags of a
floating addition (R313). -/
structure RAnswer where
  lane   : Nat
  value  : DWord
  absent : Bool
  fail   : Option Nat
  flags  : BitVec 5
deriving DecidableEq, Repr

end Sys2Proof
end

