-- ==== Sys2Proof/Config.lean ====
section
/-! DEFINITION. What the spec leaves open: values that no rule fixes. Each is a constant without a body, so that no proof can
depend on what it is. -/

namespace Sys2Proof.Config

/-- Picks one of the results that the bound of R61 allows an approximated function: the function's code of R131 and the operand
choose it, so that equal inputs give equal bits (R60). Only its remainder modulo the number of allowed results is used (log 9). -/
opaque sfuPick : Nat → Word → Nat

/-- What a byte reads as whose line was written under another key than the one it is read with (R366): a function of the physical
address, the key slot, how often the slot was loaded, and the stored block of 16 bytes (log 15). -/
opaque garbled : Nat → Nat → Nat → Nat → Byte

/-- The cause-specific detail of a health record, by kind and record number, whose contents no rule states (R367; log 25). -/
opaque healthDetail : Nat → Nat → Nat

/-- What a byte of a scratchpad reads as whose team has released it while the cluster goes on: no rule says. By team, offset, and
the number of instructions issued (log 26). -/
opaque releasedByte : Nat → Nat → Nat → Byte

/-- Which of the steps that are possible comes next, at each choice (log 3). -/
opaque pick : Nat → Nat

/-- For which address a walker or the tile engine translates ahead, at each choice: no rule says what starts a fetch (R169, R257; log 7). -/
opaque address : Nat → Nat

/-- Into how many flits the packet of a stream is cut, by domain, peer and number: no rule gives the packets' form (R302; log 68). Only its
remainder modulo 16 is used. -/
opaque flits : Nat → Nat → Nat → Nat

/-- The hash of peer and line that chooses the L2 slice of a subscribed line (R320; log 69). -/
opaque uSlice : Nat → Nat → Nat

/-- Whether a matrix operation sees a 4-byte word of its operands as it stood when the operation entered its queue, or as it stands when the
operation completes (R201; log 10). By operation and word. -/
opaque sees : Nat → Nat → Bool

end Sys2Proof.Config
end

