-- ==== Sys2Proof/Machine/Bits.lean ====
section
/-! DEFINITION. Lanes and masks, bit fields, the byte order of values, and what a prefix word
and a register field say (R6, R13, R15, R21, R26). -/

namespace Sys2Proof

/-- The lanes whose bit is set in a mask, ascending (R6, R15). -/
def maskLanes (m : Word) : List (Fin 32) := (List.finRange 32).filter fun L => m.getLsbD L

/-- A mask with the bits of the listed lanes. -/
def lanesMask (ls : List (Fin 32)) : Word := ls.foldl (fun m L => m ||| (1#32 <<< L.val)) 0#32

/-- The number of ones of a mask. -/
def popcount (m : Word) : Nat := (maskLanes m).length

/-- The lowest-numbered lane of a mask, lane 0 for the empty mask (R178, R204, R264: the lane f). -/
def lowestLane (m : Word) : Fin 32 := (maskLanes m).headD 0

/-- The same value in every lane. -/
def uniformLanes {α : Type} (v : α) : Lanes α := Vector.replicate 32 v

/-- One value per lane, from a function of the lane. -/
def lanesOf {α : Type} (f : Fin 32 → α) : Lanes α := Vector.ofFn f

/-- The lanes of `new` where the mask has a one and of `old` elsewhere (R72). -/
def mergeLanes {α : Type} (m : Word) (new old : Lanes α) : Lanes α :=
  Vector.ofFn fun L : Fin 32 => if m.getLsbD L then new[L] else old[L]

/-- The 64-bit value of a pair: bits [31:0] in the even register (R13). -/
def pairVal (lo hi : Word) : DWord := hi ++ lo
/-- The even half of a 64-bit value. -/
def loWord (v : DWord) : Word := v.extractLsb' 0 32
/-- The odd half of a 64-bit value. -/
def hiWord (v : DWord) : Word := v.extractLsb' 32 32

/-- The bits [hi:lo] of a natural number. -/
def natBits (x hi lo : Nat) : Nat := x / 2 ^ lo % 2 ^ (hi + 1 - lo)

/-- The little-endian bytes of a number, `n` of them (R13). -/
def bytesOf : Nat → Nat → List Byte
  | 0, _ => []
  | n + 1, x => BitVec.ofNat 8 x :: bytesOf n (x / 256)

/-- The number whose little-endian bytes these are (R13). -/
def ofBytes : List Byte → Nat
  | [] => 0
  | b :: bs => b.toNat + 256 * ofBytes bs

/-- A prefix word's payload, or no prefix (R26). -/
abbrev Pfx := Option (BitVec 21)
/-- The payload that the instruction reads: all zeros when it issues without a prefix (R26). -/
def payload (p : Pfx) : BitVec 21 := p.getD 0#21
/-- Payload bit [19] of the atomics: a 64-bit operation (R26); for AFADD, two BF16 halves. -/
def wideOp (p : Pfx) : Bool := (payload p).getLsbD 19
/-- Payload bit [20] of the atomics: no return (R26). -/
def noReturn (p : Pfx) : Bool := (payload p).getLsbD 20
/-- The bytes of the instruction, its prefix word included (R18, R27). -/
def pfxLen (p : Pfx) : Nat := match p with
  | none => 4
  | some _ => 8

/-- A field that names a pair holds an even number (R21). -/
def isEven (r : Reg) : Bool := r.toNat % 2 == 0
/-- A field that names four registers holds a multiple of 4 (R21). -/
def isQuad (r : Reg) : Bool := r.toNat % 4 == 0
/-- The instruction consumes a prefix whose bits outside the mask are zero (R25). -/
def payloadIn (p : Pfx) (m : BitVec 21) : Bool := payload p &&& ~~~m == 0#21
/-- The payload of a load or store: [20] reserved, and [19] only with size 3 (R26). -/
def sizedPayload (p : Pfx) (z : BitVec 2) : Bool := !(payload p).getLsbD 20 && (!(payload p).getLsbD 19 || z == 3#2)
/-- D is even when the condition holds (R21). -/
def pairIf (b : Bool) (r : Reg) : Bool := !b || isEven r
/-- The four-bit B field is even when the condition holds (R230). -/
def bPairIf (b : Bool) (r : BitVec 4) : Bool := !b || r.toNat % 2 == 0
/-- The data field of a load or store: any register, a pair for a doubleword, four registers for a quadword (R151, R229). -/
def dataReg (p : Pfx) (z : BitVec 2) (d : Reg) : Bool :=
  if (payload p).getLsbD 19 then isQuad d else pairIf (z == 3#2) d
/-- D and B of an integer atomic: pairs when 64 bits wide, and D zero with no return (R152, R230, R231). -/
def atomRegs (p : Pfx) (d : Reg) (b : BitVec 4) : Bool :=
  pairIf (wideOp p) d && bPairIf (wideOp p) b && (!noReturn p || d == 0#7)
/-- The operation and the D field of RATOM (R310, R313). -/
def ratomRegs (p : Pfx) (d : Reg) : Bool :=
  let op := (payload p).toNat % 16
  let w := (payload p).getLsbD 5
  decide (op ≤ 10) && !(op == 10 && w) &&
    (if op == 9 then (if w then isQuad d else isEven d) else pairIf w d)
/-- The special-register numbers that R103 assigns (R102). -/
def specialAssigned (n : Nat) : Bool :=
  decide (n ≤ 0x1B) || (decide (0x40 ≤ n) && decide (n ≤ 0x4B)) || (decide (0x60 ≤ n) && decide (n ≤ 0x64)) ||
    (decide (0x68 ≤ n) && decide (n ≤ 0x6D))

end Sys2Proof
end

