-- ==== Sys2Proof/Syntax.lean ====
section
/-! DEFINITION. The instruction set and the other steps of the device: one constructor for every row of the
opcode table. A row with a word carries the fields of its word (R17, R22); a row without one is a step that the device or the
world around it takes; what it acts on stands in the state (log 3). -/

namespace Sys2Proof

/-- Every row of the table of operations and events. -/
inductive Instr where
  /-- R334: Takes a SYSC trap with the call number as detail and return PC next_pc. -/
  | sysc (n : BitVec 7)
  /-- R86: Moves the whole current path to a PC-relative target. -/
  | bra (i : BitVec 21)
  /-- R86: Writes the link PC into D and moves the whole path to the target. -/
  | call (d : Reg) (i : BitVec 14)
  /-- R89: Jumps each lane to the byte offset in A, splitting the path by distinct target. -/
  | jmp (a : Reg)
  /-- R89: As JMP, and also writes the link PC into D. -/
  | jmpl (d a : Reg)
  /-- R87: Branches the lanes whose D is zero, splitting the path when lanes differ. -/
  | brz (d : Reg) (i : BitVec 14)
  /-- R87: Branches the lanes whose D is nonzero, splitting the path when lanes differ. -/
  | brnz (d : Reg) (i : BitVec 14)
  /-- R88: Moves the whole path when D is nonzero in at least one lane. -/
  | brany (d : Reg) (i : BitVec 14)
  /-- R88: Moves the whole path when D is nonzero in every lane. -/
  | brall (d : Reg) (i : BitVec 14)
  /-- R85: Pushes a mark entry naming the rejoin PC and the current mask and FMT. -/
  | mark (i : BitVec 14)
  /-- R90: Writes 1 when A is nonzero in any lane of exec. -/
  | voteAny (d a : Reg)
  /-- R90: Writes 1 when A is nonzero in every lane of exec. -/
  | voteAll (d a : Reg)
  /-- R90: Writes the mask of lanes whose A is nonzero. -/
  | voteBallot (d a : Reg)
  /-- R90: Writes the number of lanes whose A is nonzero. -/
  | voteCount (d a : Reg)
  /-- R90: Writes the lowest lane whose A is nonzero, or 0xFFFF_FFFF. -/
  | voteFirst (d a : Reg)
  /-- R267: Arrives at the team barrier without waiting and returns the phase count. -/
  | barArrive (d : Reg)
  /-- R267: Issues only once the named team barrier phase has completed, acquiring at core scope. -/
  | barWait (a : Reg)
  /-- R270: Loads a value and arms the group's monitor on its line in one step. -/
  | mona (p : Option (BitVec 21)) (d a : Reg) (s : BitVec 3) (z : BitVec 2) (pol : BitVec 2)
  /-- R272: Returns a pending monitor reason or suspends the path until one arrives or the timeout expires. -/
  | monw (d a : Reg)
  /-- R283: Reads futures, returning their values when all are full, otherwise parking or suspending. -/
  | fget (d a b : Reg)
  /-- R282: Fills an empty future atomically, returns the old state and wakes its waiters. -/
  | fput (d a b : Reg)
  /-- R276: Sends a task packet per lane to the owner team chosen by its owner address. -/
  | spawn (d a b : Reg)
  /-- R110: Copies register A into D in each lane of exec. -/
  | mov (d a : Reg)
  /-- R110: Copies register pair A into pair D in each lane of exec. -/
  | mov64 (d a : Reg)
  /-- R111: Writes a sign-extended or prefixed immediate into D as a uniform result. -/
  | movi (p : Option (BitVec 21)) (d : Reg) (i : BitVec 14)
  /-- R111: Replaces the high 14 bits of D with the immediate. -/
  | movhi (d : Reg) (i : BitVec 14)
  /-- R112: Sets the register window base to an absolute multiple of 8. -/
  | wbase (i : BitVec 14)
  /-- R112: Moves the register window base by a relative multiple of 8. -/
  | wbaseRel (i : BitVec 14)
  /-- R113: Reads a special register into D, subject to mode access checks. -/
  | sget (d : Reg) (n : BitVec 7)
  /-- R113: Writes a special register from A, for registers without behaviour of their own. -/
  | sset (a : Reg) (n : BitVec 7)
  /-- R114: Reads A from the lane indexed by B within the current path. -/
  | shfl (d a b : Reg)
  /-- R114: Reads A from the butterfly partner lane L xor B within the current path. -/
  | shflx (d a b : Reg)
  /-- R115: Selects A or B per lane by bit 0 of D. -/
  | csel (d a b : Reg)
  /-- R116: Stores a uniform A unchecked as the current path's FMT. -/
  | fmtSet (a : Reg)
  /-- R116: Writes the current path's FMT into D as a uniform result. -/
  | fmtGet (d : Reg)
  /-- R286: Pushes each lane's value at the deque's bottom through the block atomic unit. -/
  | dqPush (d a : Reg)
  /-- R286: Pops the newest deque entry at the bottom for each lane. -/
  | dqPop (d a : Reg)
  /-- R286: Takes the oldest deque entry at the top for each lane. -/
  | dqSteal (d a : Reg)
  /-- R286: Returns the deque's size as a uniform result. -/
  | dqSize (d a : Reg)
  /-- R288: Publishes the minimum over lanes into every copy of a cluster bound slot. -/
  | bndPubmin (d : Reg) (s : BitVec 3)
  /-- R288: Publishes the maximum over lanes into every copy of a cluster bound slot. -/
  | bndPubmax (d : Reg) (s : BitVec 3)
  /-- R288: Reads the local copy of a bound slot. -/
  | bndGet (d : Reg) (s : BitVec 3)
  /-- R288: Sets every copy of a bound slot to the value of lane f. -/
  | bndReset (d : Reg) (s : BitVec 3)
  /-- R280: Reads join records and returns counts when all are done, otherwise suspends. -/
  | tjoin (d a : Reg)
  /-- R280: Reads join records and returns their counts at once, with PENDING in bit 31. -/
  | tjoinTest (d a : Reg)
  /-- R291: Checks a launch record and admits the grid into a free slot or returns a refusal code. -/
  | launch (d a : Reg)
  /-- R312: Loads 4 bytes per lane from a peer's symmetric heap, replayed per peer, blocking. -/
  | rld (d a b : Reg)
  /-- R312: Posts 4-byte stores per lane to a peer's symmetric heap. -/
  | rst (d a b : Reg)
  /-- R121: Adds A and B modulo 2^32. -/
  | add (d a b : Reg)
  /-- R121: Subtracts B from A modulo 2^32. -/
  | sub (d a b : Reg)
  /-- R123: Adds a signed immediate to A. -/
  | addi (p : Option (BitVec 21)) (d a : Reg) (i : BitVec 7)
  /-- R121: Writes the low 32 bits of A times B. -/
  | mul (d a b : Reg)
  /-- R121: Writes the high 32 bits of the signed product. -/
  | mulhs (d a b : Reg)
  /-- R121: Writes the high 32 bits of the unsigned product. -/
  | mulhu (d a b : Reg)
  /-- R121: Adds the low product of A and B to D. -/
  | mad (d a b : Reg)
  /-- R122: Adds two register pairs modulo 2^64. -/
  | add64 (d a b : Reg)
  /-- R122: Adds a zero-extended, optionally shifted word to a 64-bit pair. -/
  | addz64 (p : Option (BitVec 21)) (d a b : Reg)
  /-- R122: Writes the exact signed 64-bit product into a pair. -/
  | mulws (d a b : Reg)
  /-- R122: Writes the exact unsigned 64-bit product into a pair. -/
  | mulwz (d a b : Reg)
  /-- R121: Writes the signed minimum of A and B. -/
  | min (d a b : Reg)
  /-- R121: Writes the signed maximum of A and B. -/
  | max (d a b : Reg)
  /-- R121: Writes the unsigned minimum of A and B. -/
  | minu (d a b : Reg)
  /-- R121: Writes the unsigned maximum of A and B. -/
  | maxu (d a b : Reg)
  /-- R121: Writes the bitwise AND of A and B. -/
  | and (d a b : Reg)
  /-- R121: Writes the bitwise OR of A and B. -/
  | or (d a b : Reg)
  /-- R121: Writes the bitwise XOR of A and B. -/
  | xor (d a b : Reg)
  /-- R123: ANDs A with a sign-extended immediate. -/
  | andi (p : Option (BitVec 21)) (d a : Reg) (i : BitVec 7)
  /-- R123: ORs A with a sign-extended immediate. -/
  | ori (p : Option (BitVec 21)) (d a : Reg) (i : BitVec 7)
  /-- R123: XORs A with a sign-extended immediate. -/
  | xori (p : Option (BitVec 21)) (d a : Reg) (i : BitVec 7)
  /-- R124: Shifts A left by the amount in B, giving 0 at 32 or more. -/
  | shl (d a b : Reg)
  /-- R124: Shifts A right logically by the amount in B. -/
  | shr (d a b : Reg)
  /-- R124: Shifts A right arithmetically by the amount in B. -/
  | sar (d a b : Reg)
  /-- R124: Shifts A left by an immediate amount. -/
  | shli (d a : Reg) (n : BitVec 5)
  /-- R124: Shifts A right logically by an immediate amount. -/
  | shri (d a : Reg) (n : BitVec 5)
  /-- R124: Shifts A right arithmetically by an immediate amount. -/
  | sari (d a : Reg) (n : BitVec 5)
  /-- R124: Rotates A left by an immediate amount. -/
  | roti (d a : Reg) (n : BitVec 5)
  /-- R124: Rotates A left by B mod 32. -/
  | rot (d a b : Reg)
  /-- R125: Counts leading zero bits of A. -/
  | clz (d a : Reg)
  /-- R125: Counts one bits of A. -/
  | popc (d a : Reg)
  /-- R125: Reverses the bits of A. -/
  | brev (d a : Reg)
  /-- R125: Writes the absolute value of signed A modulo 2^32. -/
  | abs (d a : Reg)
  /-- R125: Writes 0 minus A modulo 2^32. -/
  | neg (d a : Reg)
  /-- R125: Writes the bitwise complement of A. -/
  | not (d a : Reg)
  /-- R125: Sign-extends the low byte of A. -/
  | sextb (d a : Reg)
  /-- R125: Sign-extends the low halfword of A. -/
  | sexth (d a : Reg)
  /-- R125: Zero-extends the low byte of A. -/
  | zextb (d a : Reg)
  /-- R125: Zero-extends the low halfword of A. -/
  | zexth (d a : Reg)
  /-- R125: Counts trailing zero bits of A. -/
  | ctz (d a : Reg)
  /-- R126: Extracts a bit field of A, zero- or sign-extended, as B describes. -/
  | bfx (d a b : Reg)
  /-- R126: Inserts the low bits of A into a field of D that B describes. -/
  | bfi (d a b : Reg)
  /-- R121: Writes 1 when A equals B. -/
  | seq (d a b : Reg)
  /-- R121: Writes 1 when A is less than B, signed. -/
  | slt (d a b : Reg)
  /-- R121: Writes 1 when A is less than B, unsigned. -/
  | sltu (d a b : Reg)
  /-- R128: Adds two FP32 values, rounded RNE. -/
  | fadd (d a b : Reg)
  /-- R128: Subtracts two FP32 values, rounded RNE. -/
  | fsub (d a b : Reg)
  /-- R128: Multiplies two FP32 values, rounded RNE. -/
  | fmul (d a b : Reg)
  /-- R128: Computes A times B plus D in FP32 with one rounding. -/
  | ffma (d a b : Reg)
  /-- R129: Writes the smaller FP32 operand, ordering -0 below +0. -/
  | fmin (d a b : Reg)
  /-- R129: Writes the larger FP32 operand, ordering -0 below +0. -/
  | fmax (d a b : Reg)
  /-- R130: Writes 1 when two FP32 values are equal. -/
  | fseq (d a b : Reg)
  /-- R130: Writes 1 when A is less than B in FP32. -/
  | fslt (d a b : Reg)
  /-- R130: Writes 1 when A is at most B in FP32. -/
  | fsle (d a b : Reg)
  /-- R324: Reads and checks a collective record and starts it in a free slot, returning a ticket. -/
  | collStart (d a : Reg)
  /-- R324: Issues once the collective named by the ticket is complete and writes its status. -/
  | collWait (d a : Reg)
  /-- R324: Writes the collective's status at once, with PENDING while it runs. -/
  | collTest (d a : Reg)
  /-- R131: Writes A with its sign cleared. -/
  | fabs (d a : Reg)
  /-- R131: Writes A with its sign inverted. -/
  | fneg (d a : Reg)
  /-- R132: Rounds A to the nearest integral value, ties to even. -/
  | frndn (d a : Reg)
  /-- R132: Rounds A to an integral value toward zero. -/
  | frndz (d a : Reg)
  /-- R132: Rounds A to an integral value toward +infinity. -/
  | frndp (d a : Reg)
  /-- R132: Rounds A to an integral value toward -infinity. -/
  | frndm (d a : Reg)
  /-- R132: Writes a one-hot class mask of A. -/
  | fclass (d a : Reg)
  /-- R133: Computes 1/A on the special-function unit with latency 24. -/
  | frcp (d a : Reg)
  /-- R133: Computes 1/sqrt(A) on the special-function unit. -/
  | frsq (d a : Reg)
  /-- R133: Computes sqrt(A), correctly rounded. -/
  | fsqrt (d a : Reg)
  /-- R133: Computes 2^A within 2 ulp. -/
  | fex2 (d a : Reg)
  /-- R133: Computes log2 A within 2 ulp. -/
  | flg2 (d a : Reg)
  /-- R133: Computes sin A within 2 ulp. -/
  | fsin (d a : Reg)
  /-- R133: Computes cos A within 2 ulp. -/
  | fcos (d a : Reg)
  /-- R134: Adds paired BF16 halves. -/
  | badd2 (d a b : Reg)
  /-- R134: Multiplies paired BF16 halves. -/
  | bmul2 (d a b : Reg)
  /-- R134: Fused multiply-adds paired BF16 halves into D. -/
  | bfma2 (d a b : Reg)
  /-- R134: Fused multiply-adds paired FP16 halves into D. -/
  | hfma2 (d a b : Reg)
  /-- R319: Subscribes to a 4 KiB region of a peer's heap and writes a status. -/
  | rsubs (d a : Reg)
  /-- R319: Unsubscribes from a peer region, dropping its U copies. -/
  | rsubsOff (d a : Reg)
  /-- R313: Applies a remote atomic, selected by the prefix payload, at a peer's home agent. -/
  | ratom (p : Option (BitVec 21)) (d a b : Reg)
  /-- R135: Converts FP16 to FP32 exactly. -/
  | cvtF32F16 (d a : Reg)
  /-- R135: Converts BF16 to FP32 exactly. -/
  | cvtF32Bf16 (d a : Reg)
  /-- R135: Converts FP32 to FP16 by FMT rounding. -/
  | cvtF16F32 (d a : Reg)
  /-- R135: Converts FP32 to BF16 by FMT rounding. -/
  | cvtBf16F32 (d a : Reg)
  /-- R135: Converts signed INT32 to FP32. -/
  | cvtF32S32 (d a : Reg)
  /-- R135: Converts unsigned INT32 to FP32. -/
  | cvtF32Z32 (d a : Reg)
  /-- R135: Converts FP32 to signed INT32, saturating. -/
  | cvtS32F32 (d a : Reg)
  /-- R135: Converts FP32 to unsigned INT32, saturating. -/
  | cvtZ32F32 (d a : Reg)
  /-- R135: Converts E4M3 to FP32 exactly. -/
  | cvtF32E4m3 (d a : Reg)
  /-- R135: Converts E5M2 to FP32 exactly. -/
  | cvtF32E5m2 (d a : Reg)
  /-- R135: Converts E3M2 to FP32 exactly. -/
  | cvtF32E3m2 (d a : Reg)
  /-- R135: Converts E2M3 to FP32 exactly. -/
  | cvtF32E2m3 (d a : Reg)
  /-- R135: Converts E2M1 to FP32 exactly. -/
  | cvtF32E2m1 (d a : Reg)
  /-- R135: Converts FP32 to E4M3 by FMT rounding and saturation. -/
  | cvtE4m3F32 (d a : Reg)
  /-- R135: Converts FP32 to E5M2 by FMT rounding and saturation. -/
  | cvtE5m2F32 (d a : Reg)
  /-- R135: Converts FP32 to E3M2 by FMT rounding. -/
  | cvtE3m2F32 (d a : Reg)
  /-- R135: Converts FP32 to E2M3 by FMT rounding. -/
  | cvtE2m3F32 (d a : Reg)
  /-- R135: Converts FP32 to E2M1 by FMT rounding. -/
  | cvtE2m1F32 (d a : Reg)
  /-- R135: Converts an E8M0 scale to FP32 exactly. -/
  | cvtF32E8m0 (d a : Reg)
  /-- R135: Converts the magnitude of FP32 to an E8M0 scale. -/
  | cvtE8m0F32 (d a : Reg)
  /-- R135: Narrows signed INT32 to INT16, clamping or truncating by FMT. -/
  | cvtS16S32 (d a : Reg)
  /-- R135: Narrows signed INT32 to INT8. -/
  | cvtS8S32 (d a : Reg)
  /-- R135: Narrows unsigned INT32 to 16 bits. -/
  | cvtZ16Z32 (d a : Reg)
  /-- R135: Narrows unsigned INT32 to 8 bits. -/
  | cvtZ8Z32 (d a : Reg)
  /-- R135: Converts a signed INT64 pair to FP32. -/
  | cvtF32S64 (d a : Reg)
  /-- R135: Converts FP32 to a signed INT64 pair, saturating. -/
  | cvtS64F32 (d a : Reg)
  /-- R136: Converts two sources to FMT's A format and shifts them into D. -/
  | cvtp (d a b : Reg)
  /-- R138: Adds an exact dot product of four INT8 pairs into D, saturating. -/
  | dot4i (d a b : Reg)
  /-- R138: Adds an exact dot product of eight INT4 pairs into D, saturating. -/
  | dot8i (d a b : Reg)
  /-- R139: Adds four E4M3 products into D as one chunk. -/
  | dot4f (d a b : Reg)
  /-- R139: Adds eight E2M1 products into D as one chunk. -/
  | dot8f (d a b : Reg)
  /-- R139: Adds two BF16 products into D as one chunk. -/
  | dot2b (d a b : Reg)
  /-- R151: Loads from a near address decoded by near_decode. -/
  | ldn (p : Option (BitVec 21)) (d a : Reg) (z : BitVec 2)
  /-- R151: Stores to a near address decoded by near_decode. -/
  | stn (p : Option (BitVec 21)) (d a : Reg) (z : BitVec 2)
  /-- R152: Atomically adds to near memory, returning the old value. -/
  | atnAdd (p : Option (BitVec 21)) (d a : Reg) (b : BitVec 4)
  /-- R152: Atomic signed minimum on near memory. -/
  | atnMin (p : Option (BitVec 21)) (d a : Reg) (b : BitVec 4)
  /-- R152: Atomic signed maximum on near memory. -/
  | atnMax (p : Option (BitVec 21)) (d a : Reg) (b : BitVec 4)
  /-- R152: Atomic unsigned minimum on near memory. -/
  | atnMinu (p : Option (BitVec 21)) (d a : Reg) (b : BitVec 4)
  /-- R152: Atomic unsigned maximum on near memory. -/
  | atnMaxu (p : Option (BitVec 21)) (d a : Reg) (b : BitVec 4)
  /-- R152: Atomic AND on near memory. -/
  | atnAnd (p : Option (BitVec 21)) (d a : Reg) (b : BitVec 4)
  /-- R152: Atomic OR on near memory. -/
  | atnOr (p : Option (BitVec 21)) (d a : Reg) (b : BitVec 4)
  /-- R152: Atomic exchange on near memory. -/
  | atnXch (p : Option (BitVec 21)) (d a : Reg) (b : BitVec 4)
  /-- R153: Compare-and-swaps an aligned near word, returning the old value. -/
  | casn (d a b : Reg)
  /-- R154: Issues the team's next ring-rotate step over the cluster's scratchpads. -/
  | rrot (d a b : Reg)
  /-- R160: Sends a 128-byte beam entry to the twin's FIFO once a credit is free. -/
  | vput (a : Reg)
  /-- R160: Tries to send a beam entry and writes a status code. -/
  | vputNb (d a : Reg)
  /-- R161: Claims the oldest inbound beam entry once one is available. -/
  | vget (d : Reg)
  /-- R161: Tries to claim an inbound beam entry and writes a status. -/
  | vgetNb (d a : Reg)
  /-- R157: Writes the active lanes' words of a shared window slot. -/
  | twxWr (a : Reg) (s : BitVec 3)
  /-- R157: Reads a shared window slot into D. -/
  | twxRd (d : Reg) (s : BitVec 3)
  /-- R229: Loads from a global virtual address at a scope and policy. -/
  | ld (p : Option (BitVec 21)) (d a : Reg) (s : BitVec 3) (z : BitVec 2) (pol : BitVec 2)
  /-- R229: Stores to a global virtual address at a scope and policy. -/
  | st (p : Option (BitVec 21)) (d a : Reg) (s : BitVec 3) (z : BitVec 2) (pol : BitVec 2)
  /-- R231: Atomic add on global memory at the scope's coherence point. -/
  | aadd (p : Option (BitVec 21)) (d a : Reg) (s : BitVec 3) (b : BitVec 4)
  /-- R231: Atomic signed minimum on global memory. -/
  | amin (p : Option (BitVec 21)) (d a : Reg) (s : BitVec 3) (b : BitVec 4)
  /-- R231: Atomic signed maximum on global memory. -/
  | amax (p : Option (BitVec 21)) (d a : Reg) (s : BitVec 3) (b : BitVec 4)
  /-- R231: Atomic unsigned minimum on global memory. -/
  | aminu (p : Option (BitVec 21)) (d a : Reg) (s : BitVec 3) (b : BitVec 4)
  /-- R231: Atomic unsigned maximum on global memory. -/
  | amaxu (p : Option (BitVec 21)) (d a : Reg) (s : BitVec 3) (b : BitVec 4)
  /-- R231: Atomic AND on global memory. -/
  | aand (p : Option (BitVec 21)) (d a : Reg) (s : BitVec 3) (b : BitVec 4)
  /-- R231: Atomic OR on global memory. -/
  | aor (p : Option (BitVec 21)) (d a : Reg) (s : BitVec 3) (b : BitVec 4)
  /-- R231: Atomic XOR on global memory. -/
  | axor (p : Option (BitVec 21)) (d a : Reg) (s : BitVec 3) (b : BitVec 4)
  /-- R231: Atomic exchange on global memory. -/
  | axch (p : Option (BitVec 21)) (d a : Reg) (s : BitVec 3) (b : BitVec 4)
  /-- R231: Atomic compare-and-swap on global memory. -/
  | acas (p : Option (BitVec 21)) (d a : Reg) (s : BitVec 3) (b : BitVec 4)
  /-- R232: Atomic floating add of FP32 or two BF16 halves on global memory. -/
  | afadd (p : Option (BitVec 21)) (d a : Reg) (s : BitVec 3) (b : BitVec 4)
  /-- R233: Holds later memory instructions until earlier reads have taken their values. -/
  | fenceAcq (s : BitVec 3)
  /-- R233: Holds later writes until earlier events are performed at the scope. -/
  | fenceRel (s : BitVec 3)
  /-- R233: Combines the acquire and release holds. -/
  | fenceAcqrel (s : BitVec 3)
  /-- R233: Holds later memory instructions until earlier events are performed and the fence takes its place in the SC order. -/
  | fenceSc (s : BitVec 3)
  /-- R233: Holds later asynchronous operations until earlier events are performed at the scope. -/
  | fenceAsync (s : BitVec 3)
  /-- R234: Reports page status per lane and posts residency requests for absent pages. -/
  | touch (p : Option (BitVec 21)) (d a : Reg)
  /-- R261: Writes back dirty copies of the line within the scope instance. -/
  | cmaintWb (a : Reg) (s : BitVec 3)
  /-- R261: Invalidates clean copies of the line, scrubbing a poisoned line in privileged modes. -/
  | cmaintInv (a : Reg) (s : BitVec 3)
  /-- R261: Writes back then invalidates copies of the line within the scope instance. -/
  | cmaintWbinv (a : Reg) (s : BitVec 3)
  /-- R262: Shoots down translations of an ASID range and waits for completion. -/
  | cmaintTlb (d a : Reg) (s : BitVec 3)
  /-- R179: Reads and checks a tensor record from global memory and loads it into a handle slot. -/
  | trec (d a : Reg) (s : BitVec 4)
  /-- R179: Reads and checks a tensor record from near memory and loads it into a handle slot. -/
  | trecN (d a : Reg) (s : BitVec 4)
  /-- R180: Queues a tile copy from a tensor into the scratchpad. -/
  | tcopy (d a b : Reg)
  /-- R180: Queues a tile copy from the scratchpad to a tensor. -/
  | tstore (d a b : Reg)
  /-- R182: Closes the group's open copies into the next tile batch. -/
  | tcommit (d : Reg)
  /-- R182: Issues once batches up to n are complete and reports and clears copy status. -/
  | twaitb (d a : Reg)
  /-- R182: Reports copy status if batches are complete, else writes PENDING. -/
  | twaitbTest (d a : Reg)
  /-- R183: Initialises a count barrier cell with its arrival target. -/
  | cbarInit (d a : Reg)
  /-- R183: Adds an arrival to the cell's open generation and returns its number. -/
  | cbarArrive (d a : Reg)
  /-- R183: Adds announced bytes to the cell's BYTES count. -/
  | cbarExpect (d a : Reg)
  /-- R183: Issues once the named generation of the cell has completed. -/
  | cbarWait (d a : Reg)
  /-- R183: Reports whether a generation is complete and the ERR bit. -/
  | cbarTest (d a : Reg)
  /-- R181: Queues a linear copy between global, near and twin-column layer addresses. -/
  | lcopy (d a b : Reg)
  /-- R205: Records a gang mask, resets RVN, the cursor and the scale window. -/
  | gangSet (a : Reg)
  /-- R205: Sets the A cursor to global mode with c0 and c1. -/
  | gangCur (a : Reg)
  /-- R205: Sets the A cursor to near mode with NBASE and c0. -/
  | gangNear (a : Reg)
  /-- R205: Sets the scale window. -/
  | gangScl (a : Reg)
  /-- R206: Arrives at the gang's rendezvous for a matrix operation on an accumulator tile. -/
  | mma (p : Option (BitVec 21)) (d a b : Reg)
  /-- R197: Allocates consecutive accumulator tiles or returns a status, possibly waiting. -/
  | accAlloc (p : Option (BitVec 21)) (d a : Reg)
  /-- R198: Frees an accumulator tile to the reserve or the spare pool. -/
  | accFree (p : Option (BitVec 21)) (a : Reg)
  /-- R207: Sets every cell of a tile to zero. -/
  | accZero (p : Option (BitVec 21)) (a : Reg)
  /-- R208: Reads a half row of a tile as FP32. -/
  | accRdf32 (p : Option (BitVec 21)) (d a : Reg)
  /-- R208: Reads a tile row as pairs of BF16. -/
  | accRdbf2 (p : Option (BitVec 21)) (d a : Reg)
  /-- R208: Reads a half row of a tile as INT32. -/
  | accRdi32 (p : Option (BitVec 21)) (d a : Reg)
  /-- R208: Writes a half row of a tile from FP32 lanes. -/
  | accWrf32 (p : Option (BitVec 21)) (d a : Reg)
  /-- R209: Queues a write of a whole tile into the scratchpad in a chosen format. -/
  | accStn (p : Option (BitVec 21)) (d a : Reg)
  /-- R207: Reads and clears a tile's status word. -/
  | accStat (p : Option (BitVec 21)) (d a : Reg)
  /-- R210: Closes the group's matrix work into the next matrix batch. -/
  | mfence (d : Reg)
  /-- R210: Issues once matrix batches up to n are complete and reports status. -/
  | mwaitb (d a : Reg)
  /-- R210: Passes the partition's carry to the oldest request, if any. -/
  | cpass (d : Reg)
  /-- R210: Returns the licence, carry and idle status word. -/
  | lstat (d : Reg)
  /-- R82: Does nothing beyond its beat and its wait count. -/
  | nop
  /-- R82: Is a rotation point and always ends the run, giving up the rod pair. -/
  | yield
  /-- R83: Ends the lanes of the current path, pops emptied trap entries and settles. -/
  | exit
  /-- R84: At a mark's rejoin PC, either completes the mark or records the arrived lanes as joined and settles. -/
  | join
  /-- R337: Pops the topmost trap entry and resumes the trapped path at its return PC and mode. -/
  | tret
  /-- R337: Pops the topmost trap entry and resumes after the trapped instruction or PFX pair. -/
  | tretSkip
  /-- R336: Waits for earlier flags, then traps with ARITH in lanes whose enabled flags are set. -/
  | tfence
  /-- R335: Takes a BRK trap with detail 0x00 and return PC next_pc. -/
  | brk
  /-- R335: Traps into hypervisor mode from supervisor or hypervisor mode; raises PRIV in user mode. -/
  | hvc
  /-- R278: Ends a task lane, updating its join record, and then acts as EXIT. -/
  | texit
  /-- R338: Completes and asks the scheduler to pre-empt the team and hold it. -/
  | halt
  /-- R267: Arrives at the team barrier and suspends the path until the phase completes. -/
  | barTeam
  /-- R267: Arrives at the cluster barrier and suspends the path until the phase completes. -/
  | barClu
  /-- R267: Arrives at the grid barrier and suspends the path until the phase completes. -/
  | barGrid
  /-- R205: Clears the group's gang mask. -/
  | gangClr
  /-- R210: Queues a carry request for the group's gang. -/
  | ctake
  /-- R210: Marks the core's matrix licence for release. -/
  | lrel
  /-- R104: SGET of NRM waits for the lane's earlier loads, then returns and clears the absent-page bit. -/
  | nrmRead
  /-- R104: SGET of CYCLO returns the low cycle count and latches the high half into CYCHI. -/
  | cycloRead
  /-- R104: SGET of AFLAGS waits until every earlier instruction has set its flags, then returns them. -/
  | aflagsRead
  /-- R103: SSET of RSPEEK writes only the selector of the stack entry word that SGET returns. -/
  | rspeekWrite
  /-- R341: SSET of CTXBASE records a pending save-slot offset and sets PEND. -/
  | ctxbaseWrite
  /-- R341: Once the old slot holds no column image and no allotment reaches the new start, the pending offset takes effect and the directory moves. -/
  | ctxbaseTakeEffect
  /-- R288: A publish or reset reaches a remote copy of a bound slot within 300 cycles. -/
  | boundPublishArrival
  /-- R155: Once every rank has issued step k, the ring step moves each rank's source to the next rank. -/
  | ringStepStart
  /-- R155: The ring step completes, writing each rank's status with release and acquire at deck scope. -/
  | ringStepComplete
  /-- R160: A sent beam entry lands in the twin partition's inbound FIFO. -/
  | beamEntryArrival
  /-- R159: A credit returned by a claimed or discarded entry reaches the producer side. -/
  | beamCreditReturn
  /-- R163: 16 ms after the last realignment, realignment falls due and starts or is deferred. -/
  | beamRealignmentDue
  /-- R163: A deferred realignment starts once no transfer is in transit or after 4 ms. -/
  | beamRealignmentStart
  /-- R163: Realignment ends and paused beam transfers and instructions resume. -/
  | beamRealignmentComplete
  /-- R162: Pre-empts an upper deck's teams, saves their FIFOs and power-gates the deck. -/
  | upperDeckGate
  /-- R162: Ungates an upper deck, restoring FIFO entries and setting credits. -/
  | upperDeckUngate
  /-- R148: A column region begins a 180 ns refresh window at its period, stalling column accesses. -/
  | refreshWindowStart
  /-- R148: A refresh window ends and stalled column accesses proceed. -/
  | refreshWindowEnd
  /-- R148: Column temperature crossing 85 or 83 °C doubles or restores the refresh rate. -/
  | columnRefreshRateChange
  /-- R255: A posted residency request is written to the address space's ring at the header's home, or dropped with OVF. -/
  | residencyRequest
  /-- R258: An invalidation reaches a TLB or walker, removing entries and marking overlapping walks stale. -/
  | tlbInvalidationArrival
  /-- R258: A core or walker acknowledges an invalidation once stale walks and translated accesses are done. -/
  | tlbInvalidationAck
  /-- R259: All TLBs of the instance have acknowledged and the shootdown completes. -/
  | shootdownComplete
  /-- R251: A walk finishes reading table entries and fills or faults, discarding itself if stale. -/
  | tableWalk
  /-- R169: After a copy, the engine fetches translations for the next tile along TRAV. -/
  | walkAheadFetch
  /-- R168: A copy finishes, frees its queue entry, records status and signals its count barrier. -/
  | copyComplete
  /-- R192: With all members arrived, carry, licence and queue room, the operation is queued and every member's MMA issues. -/
  | rendezvousComplete
  /-- R185: The matrix unit starts the next queued operation, sampling TAR. -/
  | matrixOperationStart
  /-- R187: A matrix operation writes its last cell, ORs its status and leaves the queue. -/
  | matrixOperationComplete
  /-- R209: A queued tile store finishes writing the scratchpad and leaves the matrix queue. -/
  | accStnComplete
  /-- R197: The head of the core's ALLOC queue receives its tiles once they fit. -/
  | allocGrant
  /-- R193: A free carry passes to the oldest request in the partition's carry queue. -/
  | carryGrant
  /-- R194: A free matrix licence is granted to a requesting core within 64 cycles. -/
  | licenceGrant
  /-- R194: After 4,096 idle cycles with the twin waiting, the holder gives up the licence. -/
  | licenceIdleRelease
  /-- R194: A marked release takes effect once every matrix queue of the holder is empty. -/
  | licenceRelease
  /-- R66: A rod pair falls free and goes to the least recently issued ready group. -/
  | issueArbitration
  /-- R19: A run ends at its 24th instruction. -/
  | runLimit
  /-- R67: A ready resident group enters a free place in the partition's active set. -/
  | activeSetEntry
  /-- R67: A group with no ready run for 64 cycles leaves the active set while another waits. -/
  | activeSetEviction
  /-- R77: After 1,024 instructions for the current path the group rotates paths. -/
  | quantumExpiry
  /-- R68: A fixed-latency result is written to its register. -/
  | fixedLatencyWriteback
  /-- R69: A load or other interlocked result completes and writes its register, releasing waiting readers. -/
  | interlockedWriteComplete
  /-- R76: A suspended path's wait ends; it becomes ready and take_oldest runs if no path is current. -/
  | pathReady
  /-- R350: A user path about to issue at an enabled breakpoint PC takes a BRK trap. -/
  | breakpointTrap
  /-- R350: After one stepped instruction the group takes a BRK trap with detail 0x10. -/
  | singleStepTrap
  /-- R271: A write by another agent to the armed line records reason 0 and wakes MONW paths. -/
  | monitorWriteWake
  /-- R271: The armed line leaves the L1 and records reason 1. -/
  | monitorLineLoss
  /-- R272: A waiting MONW's timeout runs out and it resumes with reason 2. -/
  | monwTimeout
  /-- R274: A task packet reaches its owner's task store or the overflow area. -/
  | taskPacketArrival
  /-- R274: A packet returns from the overflow area to its resident owner's store. -/
  | overflowPacketReturn
  /-- R277: A wave starts in a free wave slot when 32 packets wait or the oldest has waited 1,000 cycles. -/
  | waveFormation
  /-- R284: A ready parked context resumes in a free wave slot and re-executes its FGET. -/
  | parkedContextResume
  /-- R292: The scheduler re-reads an admitted grid's wait counters and makes it eligible. -/
  | waitCounterCheck
  /-- R293: The scheduler places a waiting team or cluster on cores where its resources fit. -/
  | teamPlacement
  /-- R294: Each 50 ms without placement raises a grid's effective priority by one. -/
  | priorityAging
  /-- R295: A team's time slice expires and it is pre-empted or renewed. -/
  | sliceEnd
  /-- R339: A team's groups stop at their next instruction boundary and draining begins. -/
  | preemptionStop
  /-- R341: After the drain, the team's image is written and its resources released. -/
  | contextSave
  /-- R347: A saved team is reloaded onto a fitting core and starts a full slice. -/
  | contextRestore
  /-- R349: The scheduler drains and retires a team's lanes, ending tasks KILLED and releasing everything. -/
  | teamKill
  /-- R297: A finished grid's writes become visible, DONE is incremented and its slot is freed. -/
  | gridEnd
  /-- R352: A directory hold request makes the scheduler pre-empt and hold the named team. -/
  | holdRequest
  /-- R354: The debug monitor writes a hold request and waits for the held image. -/
  | debugHalt
  /-- R354: The debug monitor clears HELD of a held team. -/
  | debugResume
  /-- R354: Copies a selected item of a held image into the mailbox data area. -/
  | debugRdreg
  /-- R354: Writes a selected item of a held image from the data area. -/
  | debugWrreg
  /-- R354: Copies memory at ADDR into the mailbox data area. -/
  | debugRdmem
  /-- R354: Copies the mailbox data area to memory at ADDR. -/
  | debugWrmem
  /-- R354: Sets STEP in a held group's record and resumes the team. -/
  | debugStep
  /-- R354: Sets and enables a breakpoint in the held team's header. -/
  | debugSetbp
  /-- R354: Clears a breakpoint in the held team's header. -/
  | debugClrbp
  /-- R354: Writes the valid save-slot directory entries into the data area. -/
  | debugList
  /-- R241: A performed write reaches the home agent, invalidating copies outside the writer's branch. -/
  | writePropagation
  /-- R236: An uncorrectable cache error discards a clean line or poisons a dirty one. -/
  | cacheUncorrectableError
  /-- R242: A deck die failure is detected and directory removal or rebuild begins. -/
  | dieLoss
  /-- R242: The rebuild ends, lost lines become P and the die is fenced. -/
  | directoryRebuildComplete
  /-- R246: The always-powered responder answers a CXL snoop from the snoop filter. -/
  | hostSnoop
  /-- R247: A CXL.mem host read or write is performed at the home agent. -/
  | hostMemoryAccess
  /-- R300: A device resolves and performs a remote access arriving from a peer. -/
  | remoteRequestReceive
  /-- R311: A response to a remote request arrives and completes its lanes. -/
  | remoteResponseReceive
  /-- R305: A request with no valid response after 2 ms fails with UNKNOWN. -/
  | requestTimeout
  /-- R305: A sequence number missing 1 ms after a higher one is NACKed to its source. -/
  | sequenceGap
  /-- R305: A received NACK fails the named request with LOST. -/
  | nackReceive
  /-- R302: A flit failing its CRC is replayed from the sender's buffer. -/
  | flitReplay
  /-- R302: A port that fails 8 replays or loses training goes down and its plane stops taking new packets. -/
  | portDown
  /-- R302: After the down plane drains, its map entries point at the next live plane. -/
  | planeRemap
  /-- R302: A retrained plane takes back its map entries one at a time after each drains. -/
  | planeRecovery
  /-- R303: A port drops to one lane or returns to two at the next flit boundary. -/
  | portWidthChange
  /-- R320: A pushed line from a peer's home updates or installs a U copy and is acknowledged. -/
  | subscriptionPush
  /-- R307: The Oavos monitors run an SPDM session to let a device into a domain. -/
  | spdmSession
  /-- R308: The manager loads a fresh domain key into the unused slot and NEXTV reads 1. -/
  | domainKeyLoad
  /-- R308: The new member mask arrives, departed peers are dropped and remote traffic pauses. -/
  | memberMaskUpdate
  /-- R308: Once all requests are answered the member sends barrier packets under the old key. -/
  | rekeyBarrierSend
  /-- R308: With barriers from every continuing member, KSEL switches and streams reset. -/
  | rekeySwitch
  /-- R308: A member not completing step 4 within 10 ms is removed as a departure. -/
  | rekeyTimeout
  /-- R325: A collective writes its receive bytes, completes and increments DONEA. -/
  | collectiveComplete
  /-- R325: TMOMS runs out and the collective completes with TIMEOUT and zeroed receive buffer. -/
  | collectiveTimeout
  /-- R356: Every 100 µs the power manager adjusts Pt and the issue cap. -/
  | powerSample
  /-- R357: Every 10 µs the pair's TAR is computed from temperature and Pt. -/
  | tarUpdate
  /-- R359: A deck sensor at 105 °C pins TAR and caps issue until below 100 °C. -/
  | thermalTrip
  /-- R359: A sensor at 115 °C writes back host lines, sets THERMTRIP and removes power. -/
  | thermalShutdown
  /-- R361: Reset release boots the device, verifying images and setting READY or BOOTFAIL. -/
  | coldReset
  /-- R362: CONTROL bit 0 warm-resets the package after writing back cached lines. -/
  | warmReset
  /-- R360: The host link trains or falls back in rate and width. -/
  | hostLinkTrain
  /-- R364: Writing KILL with GO asks the scheduler to kill the named teams. -/
  | kill
  /-- R367: Reading a health counter returns and clears it. -/
  | healthCounterRead
  /-- R362: Writes a management aperture register that has no behaviour of its own. -/
  | managementRegisterWrite
  /-- R368: A core exceeding its error threshold is fenced and its teams moved. -/
  | coreFence
  /-- R368: A block whose L2 or directory fails is fenced with its cores. -/
  | blockFence
  /-- R366: Oavos loads a key slot with a fresh random key for a new owner. -/
  | ownerKeyAssign
  /-- R366: Releasing an owner zeroises its key slot. -/
  | ownerKeyRelease
  /-- R241: An issued store, atomic or write-back becomes performed at its scope's coherence point once its value is held there and the invalidations within the scope are acknowledged. -/
  | writePerformed
  /-- R298: The fabric manager assigns the device its peer number and, with its ports trained, SELFPEER [31] becomes 1. -/
  | peerNumberAssignment
deriving DecidableEq, Repr

end Sys2Proof
end

