-- ==== Sys2Proof/WellFormed.lean ====
section
/-! DEFINITION. Which terms of Instr are instructions: the register-number rules of R21, the prefix rules of R25 and R26,
and the reserved operand values of the owning chapters. A word that decodes to an ill-formed term raises ILLEGAL (R31). -/

namespace Sys2Proof

/-- The term is an instruction that some word or pair of words encodes. A step without a word is none. -/
def Instr.wellFormed (i : Instr) : Bool :=
  match i with
  | .sysc _ => true
  | .bra _ => true
  | .call _ _ => true
  | .jmp _ => true
  | .jmpl _ _ => true
  | .brz _ _ => true
  | .brnz _ _ => true
  | .brany _ _ => true
  | .brall _ _ => true
  | .mark _ => true
  | .voteAny _ _ => true
  | .voteAll _ _ => true
  | .voteBallot _ _ => true
  | .voteCount _ _ => true
  | .voteFirst _ _ => true
  | .barArrive _ => true
  | .barWait _ => true
  | .mona p d a _ z _ => payloadIn p 0x7FFFF#21 && isEven a && pairIf (z == 3#2) d
  | .monw _ _ => true
  | .fget d a _ => isEven d && isEven a
  | .fput d a _ => isEven d && isEven a
  | .spawn _ a b => isEven a && isEven b
  | .mov _ _ => true
  | .mov64 d a => isEven d && isEven a
  | .movi p _ _ => payloadIn p 0x3FFFF#21
  | .movhi _ _ => true
  | .wbase _ => true
  | .wbaseRel _ => true
  | .sget _ n => specialAssigned n.toNat
  | .sset _ n => specialAssigned n.toNat
  | .shfl _ _ _ => true
  | .shflx _ _ _ => true
  | .csel _ _ _ => true
  | .fmtSet _ => true
  | .fmtGet _ => true
  | .dqPush d a => isQuad d && isEven a
  | .dqPop d a => isQuad d && isEven a
  | .dqSteal d a => isQuad d && isEven a
  | .dqSize _ a => isEven a
  | .bndPubmin d _ => isEven d
  | .bndPubmax d _ => isEven d
  | .bndGet d _ => isEven d
  | .bndReset d _ => isEven d
  | .tjoin _ a => isEven a
  | .tjoinTest _ a => isEven a
  | .launch _ a => isEven a
  | .rld _ a _ => isEven a
  | .rst _ a _ => isEven a
  | .add _ _ _ => true
  | .sub _ _ _ => true
  | .addi p _ _ _ => payloadIn p 0x1FFFFF#21
  | .mul _ _ _ => true
  | .mulhs _ _ _ => true
  | .mulhu _ _ _ => true
  | .mad _ _ _ => true
  | .add64 d a b => isEven d && isEven a && isEven b
  | .addz64 p d a _ => payloadIn p 0x1F#21 && isEven d && isEven a
  | .mulws d _ _ => isEven d
  | .mulwz d _ _ => isEven d
  | .min _ _ _ => true
  | .max _ _ _ => true
  | .minu _ _ _ => true
  | .maxu _ _ _ => true
  | .and _ _ _ => true
  | .or _ _ _ => true
  | .xor _ _ _ => true
  | .andi p _ _ _ => payloadIn p 0x1FFFFF#21
  | .ori p _ _ _ => payloadIn p 0x1FFFFF#21
  | .xori p _ _ _ => payloadIn p 0x1FFFFF#21
  | .shl _ _ _ => true
  | .shr _ _ _ => true
  | .sar _ _ _ => true
  | .shli _ _ _ => true
  | .shri _ _ _ => true
  | .sari _ _ _ => true
  | .roti _ _ _ => true
  | .rot _ _ _ => true
  | .clz _ _ => true
  | .popc _ _ => true
  | .brev _ _ => true
  | .abs _ _ => true
  | .neg _ _ => true
  | .not _ _ => true
  | .sextb _ _ => true
  | .sexth _ _ => true
  | .zextb _ _ => true
  | .zexth _ _ => true
  | .ctz _ _ => true
  | .bfx _ _ _ => true
  | .bfi _ _ _ => true
  | .seq _ _ _ => true
  | .slt _ _ _ => true
  | .sltu _ _ _ => true
  | .fadd _ _ _ => true
  | .fsub _ _ _ => true
  | .fmul _ _ _ => true
  | .ffma _ _ _ => true
  | .fmin _ _ _ => true
  | .fmax _ _ _ => true
  | .fseq _ _ _ => true
  | .fslt _ _ _ => true
  | .fsle _ _ _ => true
  | .collStart _ a => isEven a
  | .collWait _ _ => true
  | .collTest _ _ => true
  | .fabs _ _ => true
  | .fneg _ _ => true
  | .frndn _ _ => true
  | .frndz _ _ => true
  | .frndp _ _ => true
  | .frndm _ _ => true
  | .fclass _ _ => true
  | .frcp _ _ => true
  | .frsq _ _ => true
  | .fsqrt _ _ => true
  | .fex2 _ _ => true
  | .flg2 _ _ => true
  | .fsin _ _ => true
  | .fcos _ _ => true
  | .badd2 _ _ _ => true
  | .bmul2 _ _ _ => true
  | .bfma2 _ _ _ => true
  | .hfma2 _ _ _ => true
  | .rsubs _ a => isEven a
  | .rsubsOff _ a => isEven a
  | .ratom p d a _ => payloadIn p 0x3F#21 && isEven a && ratomRegs p d
  | .cvtF32F16 _ _ => true
  | .cvtF32Bf16 _ _ => true
  | .cvtF16F32 _ _ => true
  | .cvtBf16F32 _ _ => true
  | .cvtF32S32 _ _ => true
  | .cvtF32Z32 _ _ => true
  | .cvtS32F32 _ _ => true
  | .cvtZ32F32 _ _ => true
  | .cvtF32E4m3 _ _ => true
  | .cvtF32E5m2 _ _ => true
  | .cvtF32E3m2 _ _ => true
  | .cvtF32E2m3 _ _ => true
  | .cvtF32E2m1 _ _ => true
  | .cvtE4m3F32 _ _ => true
  | .cvtE5m2F32 _ _ => true
  | .cvtE3m2F32 _ _ => true
  | .cvtE2m3F32 _ _ => true
  | .cvtE2m1F32 _ _ => true
  | .cvtF32E8m0 _ _ => true
  | .cvtE8m0F32 _ _ => true
  | .cvtS16S32 _ _ => true
  | .cvtS8S32 _ _ => true
  | .cvtZ16Z32 _ _ => true
  | .cvtZ8Z32 _ _ => true
  | .cvtF32S64 _ a => isEven a
  | .cvtS64F32 d _ => isEven d
  | .cvtp _ _ _ => true
  | .dot4i _ _ _ => true
  | .dot8i _ _ _ => true
  | .dot4f _ _ _ => true
  | .dot8f _ _ _ => true
  | .dot2b _ _ _ => true
  | .ldn p d _ z => sizedPayload p z && dataReg p z d
  | .stn p d _ z => sizedPayload p z && dataReg p z d
  | .atnAdd p d _ b => payloadIn p 0x1FFFFF#21 && atomRegs p d b
  | .atnMin p d _ b => payloadIn p 0x1FFFFF#21 && atomRegs p d b
  | .atnMax p d _ b => payloadIn p 0x1FFFFF#21 && atomRegs p d b
  | .atnMinu p d _ b => payloadIn p 0x1FFFFF#21 && atomRegs p d b
  | .atnMaxu p d _ b => payloadIn p 0x1FFFFF#21 && atomRegs p d b
  | .atnAnd p d _ b => payloadIn p 0x1FFFFF#21 && atomRegs p d b
  | .atnOr p d _ b => payloadIn p 0x1FFFFF#21 && atomRegs p d b
  | .atnXch p d _ b => payloadIn p 0x1FFFFF#21 && atomRegs p d b
  | .casn _ _ _ => true
  | .rrot _ a _ => isEven a
  | .vput _ => true
  | .vputNb _ _ => true
  | .vget _ => true
  | .vgetNb _ _ => true
  | .twxWr _ _ => true
  | .twxRd _ _ => true
  | .ld p d a _ z _ => sizedPayload p z && isEven a && dataReg p z d
  | .st p d a _ z _ => sizedPayload p z && isEven a && dataReg p z d
  | .aadd p d a _ b => payloadIn p 0x1FFFFF#21 && isEven a && atomRegs p d b
  | .amin p d a _ b => payloadIn p 0x1FFFFF#21 && isEven a && atomRegs p d b
  | .amax p d a _ b => payloadIn p 0x1FFFFF#21 && isEven a && atomRegs p d b
  | .aminu p d a _ b => payloadIn p 0x1FFFFF#21 && isEven a && atomRegs p d b
  | .amaxu p d a _ b => payloadIn p 0x1FFFFF#21 && isEven a && atomRegs p d b
  | .aand p d a _ b => payloadIn p 0x1FFFFF#21 && isEven a && atomRegs p d b
  | .aor p d a _ b => payloadIn p 0x1FFFFF#21 && isEven a && atomRegs p d b
  | .axor p d a _ b => payloadIn p 0x1FFFFF#21 && isEven a && atomRegs p d b
  | .axch p d a _ b => payloadIn p 0x1FFFFF#21 && isEven a && atomRegs p d b
  | .acas p d a _ b => payloadIn p 0x1FFFFF#21 && isEven a && pairIf (wideOp p) d && bPairIf (wideOp p) b
  | .afadd p d a _ _ => payloadIn p 0x1FFFFF#21 && isEven a && (!noReturn p || d == 0#7)
  | .fenceAcq _ => true
  | .fenceRel _ => true
  | .fenceAcqrel _ => true
  | .fenceSc _ => true
  | .fenceAsync _ => true
  | .touch p _ a => payloadIn p 0x7FFFF#21 && isEven a
  | .cmaintWb a _ => isEven a
  | .cmaintInv a _ => isEven a
  | .cmaintWbinv a _ => isEven a
  | .cmaintTlb _ a s => isEven a && decide (s.toNat ≠ 7)
  | .trec _ a _ => isEven a
  | .trecN _ _ _ => true
  | .tcopy d _ b => isEven d && decide (b.toNat ≤ 122)
  | .tstore d _ b => isEven d && decide (b.toNat ≤ 122)
  | .tcommit _ => true
  | .twaitb d _ => isQuad d
  | .twaitbTest d _ => isQuad d
  | .cbarInit _ _ => true
  | .cbarArrive _ _ => true
  | .cbarExpect _ _ => true
  | .cbarWait _ _ => true
  | .cbarTest _ _ => true
  | .lcopy d a b => isEven d && isEven a && isEven b
  | .gangSet _ => true
  | .gangCur a => isEven a
  | .gangNear a => isEven a
  | .gangScl _ => true
  | .mma p _ _ _ => payloadIn p 0x3#21
  | .accAlloc p _ _ => payloadIn p 0#21
  | .accFree p _ => payloadIn p 0#21
  | .accZero p _ => payloadIn p 0#21
  | .accRdf32 p _ _ => payloadIn p 0xFE0#21
  | .accRdbf2 p _ _ => payloadIn p 0xFC0#21
  | .accRdi32 p _ _ => payloadIn p 0xFE0#21
  | .accWrf32 p _ _ => payloadIn p 0xFE0#21
  | .accStn p _ _ => payloadIn p 0x3#21
  | .accStat p _ _ => payloadIn p 0#21
  | .mfence _ => true
  | .mwaitb d _ => isQuad d
  | .cpass _ => true
  | .lstat _ => true
  | .nop => true
  | .yield => true
  | .exit => true
  | .join => true
  | .tret => true
  | .tretSkip => true
  | .tfence => true
  | .brk => true
  | .hvc => true
  | .texit => true
  | .halt => true
  | .barTeam => true
  | .barClu => true
  | .barGrid => true
  | .gangClr => true
  | .ctake => true
  | .lrel => true
  | .nrmRead => false
  | .cycloRead => false
  | .aflagsRead => false
  | .rspeekWrite => false
  | .ctxbaseWrite => false
  | .ctxbaseTakeEffect => false
  | .boundPublishArrival => false
  | .ringStepStart => false
  | .ringStepComplete => false
  | .beamEntryArrival => false
  | .beamCreditReturn => false
  | .beamRealignmentDue => false
  | .beamRealignmentStart => false
  | .beamRealignmentComplete => false
  | .upperDeckGate => false
  | .upperDeckUngate => false
  | .refreshWindowStart => false
  | .refreshWindowEnd => false
  | .columnRefreshRateChange => false
  | .residencyRequest => false
  | .tlbInvalidationArrival => false
  | .tlbInvalidationAck => false
  | .shootdownComplete => false
  | .tableWalk => false
  | .walkAheadFetch => false
  | .copyComplete => false
  | .rendezvousComplete => false
  | .matrixOperationStart => false
  | .matrixOperationComplete => false
  | .accStnComplete => false
  | .allocGrant => false
  | .carryGrant => false
  | .licenceGrant => false
  | .licenceIdleRelease => false
  | .licenceRelease => false
  | .issueArbitration => false
  | .runLimit => false
  | .activeSetEntry => false
  | .activeSetEviction => false
  | .quantumExpiry => false
  | .fixedLatencyWriteback => false
  | .interlockedWriteComplete => false
  | .pathReady => false
  | .breakpointTrap => false
  | .singleStepTrap => false
  | .monitorWriteWake => false
  | .monitorLineLoss => false
  | .monwTimeout => false
  | .taskPacketArrival => false
  | .overflowPacketReturn => false
  | .waveFormation => false
  | .parkedContextResume => false
  | .waitCounterCheck => false
  | .teamPlacement => false
  | .priorityAging => false
  | .sliceEnd => false
  | .preemptionStop => false
  | .contextSave => false
  | .contextRestore => false
  | .teamKill => false
  | .gridEnd => false
  | .holdRequest => false
  | .debugHalt => false
  | .debugResume => false
  | .debugRdreg => false
  | .debugWrreg => false
  | .debugRdmem => false
  | .debugWrmem => false
  | .debugStep => false
  | .debugSetbp => false
  | .debugClrbp => false
  | .debugList => false
  | .writePropagation => false
  | .cacheUncorrectableError => false
  | .dieLoss => false
  | .directoryRebuildComplete => false
  | .hostSnoop => false
  | .hostMemoryAccess => false
  | .remoteRequestReceive => false
  | .remoteResponseReceive => false
  | .requestTimeout => false
  | .sequenceGap => false
  | .nackReceive => false
  | .flitReplay => false
  | .portDown => false
  | .planeRemap => false
  | .planeRecovery => false
  | .portWidthChange => false
  | .subscriptionPush => false
  | .spdmSession => false
  | .domainKeyLoad => false
  | .memberMaskUpdate => false
  | .rekeyBarrierSend => false
  | .rekeySwitch => false
  | .rekeyTimeout => false
  | .collectiveComplete => false
  | .collectiveTimeout => false
  | .powerSample => false
  | .tarUpdate => false
  | .thermalTrip => false
  | .thermalShutdown => false
  | .coldReset => false
  | .warmReset => false
  | .hostLinkTrain => false
  | .kill => false
  | .healthCounterRead => false
  | .managementRegisterWrite => false
  | .coreFence => false
  | .blockFence => false
  | .ownerKeyAssign => false
  | .ownerKeyRelease => false
  | .writePerformed => false
  | .peerNumberAssignment => false

end Sys2Proof
end

