-- ==== Sys2Proof/Decode.lean ====
section
/-! DEFINITION. Decoding of instruction words (R17 to R31), total on any bytes and rejecting by name, and the encoder written from
the same encoding tables. -/

namespace Sys2Proof

/-- The six fields of every instruction word (R17). -/
structure Fields where
  e  : Bool
  w  : BitVec 3
  op : BitVec 7
  d  : BitVec 7
  a  : BitVec 7
  b  : BitVec 7
deriving DecidableEq, Repr

/-- Why bytes are no instruction (R31; each of them raises ILLEGAL, truncated excepted). -/
inductive DecodeError where
  /-- Fewer bytes than the instruction has. -/
  | truncated
  /-- The major opcode is reserved, or a function code or a reserved field holds what no row of the table has (R24, R31). -/
  | undefinedWord
  /-- A prefix word with E or W nonzero, or one followed by another prefix word (R25). -/
  | badPrefix
  /-- A register number, payload or operand code that the instruction does not allow (R21, R25, R31). -/
  | illFormed
deriving DecidableEq, Repr

/-- The fields of a word: [31] E, [30:28] W, [27:21] OP, [20:14] D, [13:7] A, [6:0] B (R17). -/
def fieldsOf (w : Word) : Fields :=
  { e  := w.getLsbD 31
    w  := w.extractLsb' 28 3
    op := w.extractLsb' 21 7
    d  := w.extractLsb' 14 7
    a  := w.extractLsb' 7 7
    b  := w.extractLsb' 0 7 }

/-- The word of six fields (R17). -/
def wordOf (f : Fields) : Word := BitVec.ofBool f.e ++ f.w ++ f.op ++ f.d ++ f.a ++ f.b

/-- Major 0x00: SYSC, NOP, YIELD, EXIT, JOIN, TRET, TRET_SKIP, TFENCE, BRK, HVC, TEXIT, HALT. -/
def Fields.op00 (f : Fields) (_ : Pfx) : Option Instr :=
  if f.a == 0#7 && f.b == 7#7 then some (.sysc f.d)
  else if f.d == 0#7 && f.a == 0#7 && f.b == 0#7 then some (.nop)
  else if f.d == 0#7 && f.a == 0#7 && f.b == 1#7 then some (.yield)
  else if f.d == 0#7 && f.a == 0#7 && f.b == 2#7 then some (.exit)
  else if f.d == 0#7 && f.a == 0#7 && f.b == 3#7 then some (.join)
  else if f.d == 0#7 && f.a == 0#7 && f.b == 4#7 then some (.tret)
  else if f.d == 0#7 && f.a == 1#7 && f.b == 4#7 then some (.tretSkip)
  else if f.d == 0#7 && f.a == 0#7 && f.b == 5#7 then some (.tfence)
  else if f.d == 0#7 && f.a == 0#7 && f.b == 6#7 then some (.brk)
  else if f.d == 0#7 && f.a == 0#7 && f.b == 8#7 then some (.hvc)
  else if f.d == 0#7 && f.a == 0#7 && f.b == 9#7 then some (.texit)
  else if f.d == 0#7 && f.a == 0#7 && f.b == 10#7 then some (.halt)
  else none

/-- Major 0x01: BRA. -/
def Fields.op01 (f : Fields) (_ : Pfx) : Option Instr :=
  some (.bra (f.d ++ f.a ++ f.b))

/-- Major 0x02: CALL. -/
def Fields.op02 (f : Fields) (_ : Pfx) : Option Instr :=
  some (.call f.d (f.a ++ f.b))

/-- Major 0x03: JMP, JMPL. -/
def Fields.op03 (f : Fields) (_ : Pfx) : Option Instr :=
  if f.d == 0#7 && f.b == 0#7 then some (.jmp f.a)
  else if f.b == 1#7 then some (.jmpl f.d f.a)
  else none

/-- Major 0x04: BRZ. -/
def Fields.op04 (f : Fields) (_ : Pfx) : Option Instr :=
  some (.brz f.d (f.a ++ f.b))

/-- Major 0x05: BRNZ. -/
def Fields.op05 (f : Fields) (_ : Pfx) : Option Instr :=
  some (.brnz f.d (f.a ++ f.b))

/-- Major 0x06: BRANY. -/
def Fields.op06 (f : Fields) (_ : Pfx) : Option Instr :=
  some (.brany f.d (f.a ++ f.b))

/-- Major 0x07: BRALL. -/
def Fields.op07 (f : Fields) (_ : Pfx) : Option Instr :=
  some (.brall f.d (f.a ++ f.b))

/-- Major 0x08: MARK. -/
def Fields.op08 (f : Fields) (_ : Pfx) : Option Instr :=
  if f.d == 0#7 then some (.mark (f.a ++ f.b))
  else none

/-- Major 0x09: VOTE_ANY, VOTE_ALL, VOTE_BALLOT, VOTE_COUNT, VOTE_FIRST. -/
def Fields.op09 (f : Fields) (_ : Pfx) : Option Instr :=
  if f.b == 0#7 then some (.voteAny f.d f.a)
  else if f.b == 1#7 then some (.voteAll f.d f.a)
  else if f.b == 2#7 then some (.voteBallot f.d f.a)
  else if f.b == 3#7 then some (.voteCount f.d f.a)
  else if f.b == 4#7 then some (.voteFirst f.d f.a)
  else none

/-- Major 0x0A: BAR_ARRIVE, BAR_WAIT, BAR_TEAM, BAR_CLU, BAR_GRID. -/
def Fields.op0A (f : Fields) (_ : Pfx) : Option Instr :=
  if f.a == 0#7 && f.b == 3#7 then some (.barArrive f.d)
  else if f.d == 0#7 && f.b == 4#7 then some (.barWait f.a)
  else if f.d == 0#7 && f.a == 0#7 && f.b == 0#7 then some (.barTeam)
  else if f.d == 0#7 && f.a == 0#7 && f.b == 1#7 then some (.barClu)
  else if f.d == 0#7 && f.a == 0#7 && f.b == 2#7 then some (.barGrid)
  else none

/-- Major 0x0B: MONA. -/
def Fields.op0B (f : Fields) (p : Pfx) : Option Instr :=
  some (.mona p f.d f.a (f.b.extractLsb' 4 3) (f.b.extractLsb' 2 2) (f.b.extractLsb' 0 2))

/-- Major 0x0C: MONW. -/
def Fields.op0C (f : Fields) (_ : Pfx) : Option Instr :=
  if f.b == 0#7 then some (.monw f.d f.a)
  else none

/-- Major 0x0D: FGET. -/
def Fields.op0D (f : Fields) (_ : Pfx) : Option Instr :=
  some (.fget f.d f.a f.b)

/-- Major 0x0E: FPUT. -/
def Fields.op0E (f : Fields) (_ : Pfx) : Option Instr :=
  some (.fput f.d f.a f.b)

/-- Major 0x0F: SPAWN. -/
def Fields.op0F (f : Fields) (_ : Pfx) : Option Instr :=
  some (.spawn f.d f.a f.b)

/-- Major 0x10: MOV, MOV64. -/
def Fields.op10 (f : Fields) (_ : Pfx) : Option Instr :=
  if f.b == 0#7 then some (.mov f.d f.a)
  else if f.b == 1#7 then some (.mov64 f.d f.a)
  else none

/-- Major 0x11: MOVI. -/
def Fields.op11 (f : Fields) (p : Pfx) : Option Instr :=
  some (.movi p f.d (f.a ++ f.b))

/-- Major 0x12: MOVHI. -/
def Fields.op12 (f : Fields) (_ : Pfx) : Option Instr :=
  some (.movhi f.d (f.a ++ f.b))

/-- Major 0x13: WBASE, WBASE_REL. -/
def Fields.op13 (f : Fields) (_ : Pfx) : Option Instr :=
  if f.d == 0#7 then some (.wbase (f.a ++ f.b))
  else if f.d == 1#7 then some (.wbaseRel (f.a ++ f.b))
  else none

/-- Major 0x14: SGET. -/
def Fields.op14 (f : Fields) (_ : Pfx) : Option Instr :=
  if f.a == 0#7 then some (.sget f.d f.b)
  else none

/-- Major 0x15: SSET. -/
def Fields.op15 (f : Fields) (_ : Pfx) : Option Instr :=
  if f.d == 0#7 then some (.sset f.a f.b)
  else none

/-- Major 0x16: SHFL. -/
def Fields.op16 (f : Fields) (_ : Pfx) : Option Instr :=
  some (.shfl f.d f.a f.b)

/-- Major 0x17: SHFLX. -/
def Fields.op17 (f : Fields) (_ : Pfx) : Option Instr :=
  some (.shflx f.d f.a f.b)

/-- Major 0x18: CSEL. -/
def Fields.op18 (f : Fields) (_ : Pfx) : Option Instr :=
  some (.csel f.d f.a f.b)

/-- Major 0x19: FMT_SET, FMT_GET. -/
def Fields.op19 (f : Fields) (_ : Pfx) : Option Instr :=
  if f.d == 0#7 && f.b == 0#7 then some (.fmtSet f.a)
  else if f.a == 0#7 && f.b == 1#7 then some (.fmtGet f.d)
  else none

/-- Major 0x1A: DQ_PUSH, DQ_POP, DQ_STEAL, DQ_SIZE. -/
def Fields.op1A (f : Fields) (_ : Pfx) : Option Instr :=
  if f.b == 0#7 then some (.dqPush f.d f.a)
  else if f.b == 1#7 then some (.dqPop f.d f.a)
  else if f.b == 2#7 then some (.dqSteal f.d f.a)
  else if f.b == 3#7 then some (.dqSize f.d f.a)
  else none

/-- Major 0x1B: BND_PUBMIN, BND_PUBMAX, BND_GET, BND_RESET. -/
def Fields.op1B (f : Fields) (_ : Pfx) : Option Instr :=
  if f.a == 0#7 && f.b &&& 71#7 == 0#7 then some (.bndPubmin f.d (f.b.extractLsb' 3 3))
  else if f.a == 0#7 && f.b &&& 71#7 == 1#7 then some (.bndPubmax f.d (f.b.extractLsb' 3 3))
  else if f.a == 0#7 && f.b &&& 71#7 == 2#7 then some (.bndGet f.d (f.b.extractLsb' 3 3))
  else if f.a == 0#7 && f.b &&& 71#7 == 3#7 then some (.bndReset f.d (f.b.extractLsb' 3 3))
  else none

/-- Major 0x1C: TJOIN, TJOIN_TEST. -/
def Fields.op1C (f : Fields) (_ : Pfx) : Option Instr :=
  if f.b == 0#7 then some (.tjoin f.d f.a)
  else if f.b == 1#7 then some (.tjoinTest f.d f.a)
  else none

/-- Major 0x1D: LAUNCH. -/
def Fields.op1D (f : Fields) (_ : Pfx) : Option Instr :=
  if f.b == 0#7 then some (.launch f.d f.a)
  else none

/-- Major 0x1E: RLD. -/
def Fields.op1E (f : Fields) (_ : Pfx) : Option Instr :=
  some (.rld f.d f.a f.b)

/-- Major 0x1F: RST. -/
def Fields.op1F (f : Fields) (_ : Pfx) : Option Instr :=
  some (.rst f.d f.a f.b)

/-- Major 0x20: ADD. -/
def Fields.op20 (f : Fields) (_ : Pfx) : Option Instr :=
  some (.add f.d f.a f.b)

/-- Major 0x21: SUB. -/
def Fields.op21 (f : Fields) (_ : Pfx) : Option Instr :=
  some (.sub f.d f.a f.b)

/-- Major 0x22: ADDI. -/
def Fields.op22 (f : Fields) (p : Pfx) : Option Instr :=
  some (.addi p f.d f.a f.b)

/-- Major 0x23: MUL. -/
def Fields.op23 (f : Fields) (_ : Pfx) : Option Instr :=
  some (.mul f.d f.a f.b)

/-- Major 0x24: MULHS. -/
def Fields.op24 (f : Fields) (_ : Pfx) : Option Instr :=
  some (.mulhs f.d f.a f.b)

/-- Major 0x25: MULHU. -/
def Fields.op25 (f : Fields) (_ : Pfx) : Option Instr :=
  some (.mulhu f.d f.a f.b)

/-- Major 0x26: MAD. -/
def Fields.op26 (f : Fields) (_ : Pfx) : Option Instr :=
  some (.mad f.d f.a f.b)

/-- Major 0x27: ADD64. -/
def Fields.op27 (f : Fields) (_ : Pfx) : Option Instr :=
  some (.add64 f.d f.a f.b)

/-- Major 0x28: ADDZ64. -/
def Fields.op28 (f : Fields) (p : Pfx) : Option Instr :=
  some (.addz64 p f.d f.a f.b)

/-- Major 0x29: MULWS. -/
def Fields.op29 (f : Fields) (_ : Pfx) : Option Instr :=
  some (.mulws f.d f.a f.b)

/-- Major 0x2A: MULWZ. -/
def Fields.op2A (f : Fields) (_ : Pfx) : Option Instr :=
  some (.mulwz f.d f.a f.b)

/-- Major 0x2B: MIN. -/
def Fields.op2B (f : Fields) (_ : Pfx) : Option Instr :=
  some (.min f.d f.a f.b)

/-- Major 0x2C: MAX. -/
def Fields.op2C (f : Fields) (_ : Pfx) : Option Instr :=
  some (.max f.d f.a f.b)

/-- Major 0x2D: MINU. -/
def Fields.op2D (f : Fields) (_ : Pfx) : Option Instr :=
  some (.minu f.d f.a f.b)

/-- Major 0x2E: MAXU. -/
def Fields.op2E (f : Fields) (_ : Pfx) : Option Instr :=
  some (.maxu f.d f.a f.b)

/-- Major 0x2F: AND. -/
def Fields.op2F (f : Fields) (_ : Pfx) : Option Instr :=
  some (.and f.d f.a f.b)

/-- Major 0x30: OR. -/
def Fields.op30 (f : Fields) (_ : Pfx) : Option Instr :=
  some (.or f.d f.a f.b)

/-- Major 0x31: XOR. -/
def Fields.op31 (f : Fields) (_ : Pfx) : Option Instr :=
  some (.xor f.d f.a f.b)

/-- Major 0x32: ANDI. -/
def Fields.op32 (f : Fields) (p : Pfx) : Option Instr :=
  some (.andi p f.d f.a f.b)

/-- Major 0x33: ORI. -/
def Fields.op33 (f : Fields) (p : Pfx) : Option Instr :=
  some (.ori p f.d f.a f.b)

/-- Major 0x34: XORI. -/
def Fields.op34 (f : Fields) (p : Pfx) : Option Instr :=
  some (.xori p f.d f.a f.b)

/-- Major 0x35: SHL. -/
def Fields.op35 (f : Fields) (_ : Pfx) : Option Instr :=
  some (.shl f.d f.a f.b)

/-- Major 0x36: SHR. -/
def Fields.op36 (f : Fields) (_ : Pfx) : Option Instr :=
  some (.shr f.d f.a f.b)

/-- Major 0x37: SAR. -/
def Fields.op37 (f : Fields) (_ : Pfx) : Option Instr :=
  some (.sar f.d f.a f.b)

/-- Major 0x38: SHLI, SHRI, SARI, ROTI. -/
def Fields.op38 (f : Fields) (_ : Pfx) : Option Instr :=
  if f.b &&& 96#7 == 0#7 then some (.shli f.d f.a (f.b.extractLsb' 0 5))
  else if f.b &&& 96#7 == 32#7 then some (.shri f.d f.a (f.b.extractLsb' 0 5))
  else if f.b &&& 96#7 == 64#7 then some (.sari f.d f.a (f.b.extractLsb' 0 5))
  else if f.b &&& 96#7 == 96#7 then some (.roti f.d f.a (f.b.extractLsb' 0 5))
  else none

/-- Major 0x39: ROT. -/
def Fields.op39 (f : Fields) (_ : Pfx) : Option Instr :=
  some (.rot f.d f.a f.b)

/-- Major 0x3A: CLZ, POPC, BREV, ABS, NEG, NOT, SEXTB, SEXTH, ZEXTB, ZEXTH, CTZ. -/
def Fields.op3A (f : Fields) (_ : Pfx) : Option Instr :=
  if f.b == 0#7 then some (.clz f.d f.a)
  else if f.b == 1#7 then some (.popc f.d f.a)
  else if f.b == 2#7 then some (.brev f.d f.a)
  else if f.b == 3#7 then some (.abs f.d f.a)
  else if f.b == 4#7 then some (.neg f.d f.a)
  else if f.b == 5#7 then some (.not f.d f.a)
  else if f.b == 6#7 then some (.sextb f.d f.a)
  else if f.b == 7#7 then some (.sexth f.d f.a)
  else if f.b == 8#7 then some (.zextb f.d f.a)
  else if f.b == 9#7 then some (.zexth f.d f.a)
  else if f.b == 10#7 then some (.ctz f.d f.a)
  else none

/-- Major 0x3B: BFX. -/
def Fields.op3B (f : Fields) (_ : Pfx) : Option Instr :=
  some (.bfx f.d f.a f.b)

/-- Major 0x3C: BFI. -/
def Fields.op3C (f : Fields) (_ : Pfx) : Option Instr :=
  some (.bfi f.d f.a f.b)

/-- Major 0x3D: SEQ. -/
def Fields.op3D (f : Fields) (_ : Pfx) : Option Instr :=
  some (.seq f.d f.a f.b)

/-- Major 0x3E: SLT. -/
def Fields.op3E (f : Fields) (_ : Pfx) : Option Instr :=
  some (.slt f.d f.a f.b)

/-- Major 0x3F: SLTU. -/
def Fields.op3F (f : Fields) (_ : Pfx) : Option Instr :=
  some (.sltu f.d f.a f.b)

/-- Major 0x40: FADD. -/
def Fields.op40 (f : Fields) (_ : Pfx) : Option Instr :=
  some (.fadd f.d f.a f.b)

/-- Major 0x41: FSUB. -/
def Fields.op41 (f : Fields) (_ : Pfx) : Option Instr :=
  some (.fsub f.d f.a f.b)

/-- Major 0x42: FMUL. -/
def Fields.op42 (f : Fields) (_ : Pfx) : Option Instr :=
  some (.fmul f.d f.a f.b)

/-- Major 0x43: FFMA. -/
def Fields.op43 (f : Fields) (_ : Pfx) : Option Instr :=
  some (.ffma f.d f.a f.b)

/-- Major 0x44: FMIN. -/
def Fields.op44 (f : Fields) (_ : Pfx) : Option Instr :=
  some (.fmin f.d f.a f.b)

/-- Major 0x45: FMAX. -/
def Fields.op45 (f : Fields) (_ : Pfx) : Option Instr :=
  some (.fmax f.d f.a f.b)

/-- Major 0x46: FSEQ. -/
def Fields.op46 (f : Fields) (_ : Pfx) : Option Instr :=
  some (.fseq f.d f.a f.b)

/-- Major 0x47: FSLT. -/
def Fields.op47 (f : Fields) (_ : Pfx) : Option Instr :=
  some (.fslt f.d f.a f.b)

/-- Major 0x48: FSLE. -/
def Fields.op48 (f : Fields) (_ : Pfx) : Option Instr :=
  some (.fsle f.d f.a f.b)

/-- Major 0x49: COLL_START, COLL_WAIT, COLL_TEST. -/
def Fields.op49 (f : Fields) (_ : Pfx) : Option Instr :=
  if f.b == 0#7 then some (.collStart f.d f.a)
  else if f.b == 1#7 then some (.collWait f.d f.a)
  else if f.b == 2#7 then some (.collTest f.d f.a)
  else none

/-- Major 0x4A: FABS, FNEG, FRNDN, FRNDZ, FRNDP, FRNDM, FCLASS, FRCP, FRSQ, FSQRT, FEX2, FLG2, FSIN, FCOS. -/
def Fields.op4A (f : Fields) (_ : Pfx) : Option Instr :=
  if f.b == 0#7 then some (.fabs f.d f.a)
  else if f.b == 1#7 then some (.fneg f.d f.a)
  else if f.b == 2#7 then some (.frndn f.d f.a)
  else if f.b == 3#7 then some (.frndz f.d f.a)
  else if f.b == 4#7 then some (.frndp f.d f.a)
  else if f.b == 5#7 then some (.frndm f.d f.a)
  else if f.b == 6#7 then some (.fclass f.d f.a)
  else if f.b == 7#7 then some (.frcp f.d f.a)
  else if f.b == 8#7 then some (.frsq f.d f.a)
  else if f.b == 9#7 then some (.fsqrt f.d f.a)
  else if f.b == 10#7 then some (.fex2 f.d f.a)
  else if f.b == 11#7 then some (.flg2 f.d f.a)
  else if f.b == 12#7 then some (.fsin f.d f.a)
  else if f.b == 13#7 then some (.fcos f.d f.a)
  else none

/-- Major 0x4B: BADD2. -/
def Fields.op4B (f : Fields) (_ : Pfx) : Option Instr :=
  some (.badd2 f.d f.a f.b)

/-- Major 0x4C: BMUL2. -/
def Fields.op4C (f : Fields) (_ : Pfx) : Option Instr :=
  some (.bmul2 f.d f.a f.b)

/-- Major 0x4D: BFMA2. -/
def Fields.op4D (f : Fields) (_ : Pfx) : Option Instr :=
  some (.bfma2 f.d f.a f.b)

/-- Major 0x4E: HFMA2. -/
def Fields.op4E (f : Fields) (_ : Pfx) : Option Instr :=
  some (.hfma2 f.d f.a f.b)

/-- Major 0x4F: RSUBS, RSUBS_OFF. -/
def Fields.op4F (f : Fields) (_ : Pfx) : Option Instr :=
  if f.b == 0#7 then some (.rsubs f.d f.a)
  else if f.b == 1#7 then some (.rsubsOff f.d f.a)
  else none

/-- Major 0x50: RATOM. -/
def Fields.op50 (f : Fields) (p : Pfx) : Option Instr :=
  some (.ratom p f.d f.a f.b)

/-- Major 0x51: CVT_F32_F16, CVT_F32_BF16, CVT_F16_F32, CVT_BF16_F32, CVT_F32_S32, CVT_F32_Z32, CVT_S32_F32, CVT_Z32_F32, CVT_F32_E4M3, CVT_F32_E5M2, CVT_F32_E3M2, CVT_F32_E2M3, CVT_F32_E2M1, CVT_E4M3_F32, CVT_E5M2_F32, CVT_E3M2_F32, CVT_E2M3_F32, CVT_E2M1_F32, CVT_F32_E8M0, CVT_E8M0_F32, CVT_S16_S32, CVT_S8_S32, CVT_Z16_Z32, CVT_Z8_Z32, CVT_F32_S64, CVT_S64_F32. -/
def Fields.op51 (f : Fields) (_ : Pfx) : Option Instr :=
  if f.b == 0#7 then some (.cvtF32F16 f.d f.a)
  else if f.b == 1#7 then some (.cvtF32Bf16 f.d f.a)
  else if f.b == 2#7 then some (.cvtF16F32 f.d f.a)
  else if f.b == 3#7 then some (.cvtBf16F32 f.d f.a)
  else if f.b == 4#7 then some (.cvtF32S32 f.d f.a)
  else if f.b == 5#7 then some (.cvtF32Z32 f.d f.a)
  else if f.b == 6#7 then some (.cvtS32F32 f.d f.a)
  else if f.b == 7#7 then some (.cvtZ32F32 f.d f.a)
  else if f.b == 8#7 then some (.cvtF32E4m3 f.d f.a)
  else if f.b == 9#7 then some (.cvtF32E5m2 f.d f.a)
  else if f.b == 10#7 then some (.cvtF32E3m2 f.d f.a)
  else if f.b == 11#7 then some (.cvtF32E2m3 f.d f.a)
  else if f.b == 12#7 then some (.cvtF32E2m1 f.d f.a)
  else if f.b == 13#7 then some (.cvtE4m3F32 f.d f.a)
  else if f.b == 14#7 then some (.cvtE5m2F32 f.d f.a)
  else if f.b == 15#7 then some (.cvtE3m2F32 f.d f.a)
  else if f.b == 16#7 then some (.cvtE2m3F32 f.d f.a)
  else if f.b == 17#7 then some (.cvtE2m1F32 f.d f.a)
  else if f.b == 18#7 then some (.cvtF32E8m0 f.d f.a)
  else if f.b == 19#7 then some (.cvtE8m0F32 f.d f.a)
  else if f.b == 20#7 then some (.cvtS16S32 f.d f.a)
  else if f.b == 21#7 then some (.cvtS8S32 f.d f.a)
  else if f.b == 22#7 then some (.cvtZ16Z32 f.d f.a)
  else if f.b == 23#7 then some (.cvtZ8Z32 f.d f.a)
  else if f.b == 24#7 then some (.cvtF32S64 f.d f.a)
  else if f.b == 25#7 then some (.cvtS64F32 f.d f.a)
  else none

/-- Major 0x52: CVTP. -/
def Fields.op52 (f : Fields) (_ : Pfx) : Option Instr :=
  some (.cvtp f.d f.a f.b)

/-- Major 0x53: DOT4I. -/
def Fields.op53 (f : Fields) (_ : Pfx) : Option Instr :=
  some (.dot4i f.d f.a f.b)

/-- Major 0x54: DOT8I. -/
def Fields.op54 (f : Fields) (_ : Pfx) : Option Instr :=
  some (.dot8i f.d f.a f.b)

/-- Major 0x55: DOT4F. -/
def Fields.op55 (f : Fields) (_ : Pfx) : Option Instr :=
  some (.dot4f f.d f.a f.b)

/-- Major 0x56: DOT8F. -/
def Fields.op56 (f : Fields) (_ : Pfx) : Option Instr :=
  some (.dot8f f.d f.a f.b)

/-- Major 0x57: DOT2B. -/
def Fields.op57 (f : Fields) (_ : Pfx) : Option Instr :=
  some (.dot2b f.d f.a f.b)

/-- Major 0x58: LDN. -/
def Fields.op58 (f : Fields) (p : Pfx) : Option Instr :=
  if f.b &&& 115#7 == 0#7 then some (.ldn p f.d f.a (f.b.extractLsb' 2 2))
  else none

/-- Major 0x59: STN. -/
def Fields.op59 (f : Fields) (p : Pfx) : Option Instr :=
  if f.b &&& 115#7 == 0#7 then some (.stn p f.d f.a (f.b.extractLsb' 2 2))
  else none

/-- Major 0x5A: ATN_ADD, ATN_MIN, ATN_MAX, ATN_MINU, ATN_MAXU, ATN_AND, ATN_OR, ATN_XCH. -/
def Fields.op5A (f : Fields) (p : Pfx) : Option Instr :=
  if f.b &&& 112#7 == 0#7 then some (.atnAdd p f.d f.a (f.b.extractLsb' 0 4))
  else if f.b &&& 112#7 == 16#7 then some (.atnMin p f.d f.a (f.b.extractLsb' 0 4))
  else if f.b &&& 112#7 == 32#7 then some (.atnMax p f.d f.a (f.b.extractLsb' 0 4))
  else if f.b &&& 112#7 == 48#7 then some (.atnMinu p f.d f.a (f.b.extractLsb' 0 4))
  else if f.b &&& 112#7 == 64#7 then some (.atnMaxu p f.d f.a (f.b.extractLsb' 0 4))
  else if f.b &&& 112#7 == 80#7 then some (.atnAnd p f.d f.a (f.b.extractLsb' 0 4))
  else if f.b &&& 112#7 == 96#7 then some (.atnOr p f.d f.a (f.b.extractLsb' 0 4))
  else if f.b &&& 112#7 == 112#7 then some (.atnXch p f.d f.a (f.b.extractLsb' 0 4))
  else none

/-- Major 0x5B: CASN. -/
def Fields.op5B (f : Fields) (_ : Pfx) : Option Instr :=
  some (.casn f.d f.a f.b)

/-- Major 0x5C: RROT. -/
def Fields.op5C (f : Fields) (_ : Pfx) : Option Instr :=
  some (.rrot f.d f.a f.b)

/-- Major 0x5D: VPUT, VPUT_NB. -/
def Fields.op5D (f : Fields) (_ : Pfx) : Option Instr :=
  if f.d == 0#7 && f.b == 0#7 then some (.vput f.a)
  else if f.b == 1#7 then some (.vputNb f.d f.a)
  else none

/-- Major 0x5E: VGET, VGET_NB. -/
def Fields.op5E (f : Fields) (_ : Pfx) : Option Instr :=
  if f.a == 0#7 && f.b == 0#7 then some (.vget f.d)
  else if f.b == 1#7 then some (.vgetNb f.d f.a)
  else none

/-- Major 0x5F: TWX_WR, TWX_RD. -/
def Fields.op5F (f : Fields) (_ : Pfx) : Option Instr :=
  if f.d == 0#7 && f.b &&& 120#7 == 0#7 then some (.twxWr f.a (f.b.extractLsb' 0 3))
  else if f.a == 0#7 && f.b &&& 120#7 == 64#7 then some (.twxRd f.d (f.b.extractLsb' 0 3))
  else none

/-- Major 0x60: LD. -/
def Fields.op60 (f : Fields) (p : Pfx) : Option Instr :=
  some (.ld p f.d f.a (f.b.extractLsb' 4 3) (f.b.extractLsb' 2 2) (f.b.extractLsb' 0 2))

/-- Major 0x61: ST. -/
def Fields.op61 (f : Fields) (p : Pfx) : Option Instr :=
  some (.st p f.d f.a (f.b.extractLsb' 4 3) (f.b.extractLsb' 2 2) (f.b.extractLsb' 0 2))

/-- Major 0x62: AADD. -/
def Fields.op62 (f : Fields) (p : Pfx) : Option Instr :=
  some (.aadd p f.d f.a (f.b.extractLsb' 4 3) (f.b.extractLsb' 0 4))

/-- Major 0x63: AMIN. -/
def Fields.op63 (f : Fields) (p : Pfx) : Option Instr :=
  some (.amin p f.d f.a (f.b.extractLsb' 4 3) (f.b.extractLsb' 0 4))

/-- Major 0x64: AMAX. -/
def Fields.op64 (f : Fields) (p : Pfx) : Option Instr :=
  some (.amax p f.d f.a (f.b.extractLsb' 4 3) (f.b.extractLsb' 0 4))

/-- Major 0x65: AMINU. -/
def Fields.op65 (f : Fields) (p : Pfx) : Option Instr :=
  some (.aminu p f.d f.a (f.b.extractLsb' 4 3) (f.b.extractLsb' 0 4))

/-- Major 0x66: AMAXU. -/
def Fields.op66 (f : Fields) (p : Pfx) : Option Instr :=
  some (.amaxu p f.d f.a (f.b.extractLsb' 4 3) (f.b.extractLsb' 0 4))

/-- Major 0x67: AAND. -/
def Fields.op67 (f : Fields) (p : Pfx) : Option Instr :=
  some (.aand p f.d f.a (f.b.extractLsb' 4 3) (f.b.extractLsb' 0 4))

/-- Major 0x68: AOR. -/
def Fields.op68 (f : Fields) (p : Pfx) : Option Instr :=
  some (.aor p f.d f.a (f.b.extractLsb' 4 3) (f.b.extractLsb' 0 4))

/-- Major 0x69: AXOR. -/
def Fields.op69 (f : Fields) (p : Pfx) : Option Instr :=
  some (.axor p f.d f.a (f.b.extractLsb' 4 3) (f.b.extractLsb' 0 4))

/-- Major 0x6A: AXCH. -/
def Fields.op6A (f : Fields) (p : Pfx) : Option Instr :=
  some (.axch p f.d f.a (f.b.extractLsb' 4 3) (f.b.extractLsb' 0 4))

/-- Major 0x6B: ACAS. -/
def Fields.op6B (f : Fields) (p : Pfx) : Option Instr :=
  some (.acas p f.d f.a (f.b.extractLsb' 4 3) (f.b.extractLsb' 0 4))

/-- Major 0x6C: AFADD. -/
def Fields.op6C (f : Fields) (p : Pfx) : Option Instr :=
  some (.afadd p f.d f.a (f.b.extractLsb' 4 3) (f.b.extractLsb' 0 4))

/-- Major 0x6D: FENCE_ACQ, FENCE_REL, FENCE_ACQREL, FENCE_SC, FENCE_ASYNC. -/
def Fields.op6D (f : Fields) (_ : Pfx) : Option Instr :=
  if f.d == 0#7 && f.a == 0#7 && f.b &&& 15#7 == 0#7 then some (.fenceAcq (f.b.extractLsb' 4 3))
  else if f.d == 0#7 && f.a == 0#7 && f.b &&& 15#7 == 1#7 then some (.fenceRel (f.b.extractLsb' 4 3))
  else if f.d == 0#7 && f.a == 0#7 && f.b &&& 15#7 == 2#7 then some (.fenceAcqrel (f.b.extractLsb' 4 3))
  else if f.d == 0#7 && f.a == 0#7 && f.b &&& 15#7 == 3#7 then some (.fenceSc (f.b.extractLsb' 4 3))
  else if f.d == 0#7 && f.a == 0#7 && f.b &&& 15#7 == 4#7 then some (.fenceAsync (f.b.extractLsb' 4 3))
  else none

/-- Major 0x6E: TOUCH. -/
def Fields.op6E (f : Fields) (p : Pfx) : Option Instr :=
  if f.b == 0#7 then some (.touch p f.d f.a)
  else none

/-- Major 0x6F: CMAINT_WB, CMAINT_INV, CMAINT_WBINV, CMAINT_TLB. -/
def Fields.op6F (f : Fields) (_ : Pfx) : Option Instr :=
  if f.d == 0#7 && f.b &&& 15#7 == 0#7 then some (.cmaintWb f.a (f.b.extractLsb' 4 3))
  else if f.d == 0#7 && f.b &&& 15#7 == 1#7 then some (.cmaintInv f.a (f.b.extractLsb' 4 3))
  else if f.d == 0#7 && f.b &&& 15#7 == 2#7 then some (.cmaintWbinv f.a (f.b.extractLsb' 4 3))
  else if f.b &&& 15#7 == 5#7 then some (.cmaintTlb f.d f.a (f.b.extractLsb' 4 3))
  else none

/-- Major 0x70: TREC, TREC_N. -/
def Fields.op70 (f : Fields) (_ : Pfx) : Option Instr :=
  if f.b &&& 112#7 == 0#7 then some (.trec f.d f.a (f.b.extractLsb' 0 4))
  else if f.b &&& 112#7 == 64#7 then some (.trecN f.d f.a (f.b.extractLsb' 0 4))
  else none

/-- Major 0x71: TCOPY. -/
def Fields.op71 (f : Fields) (_ : Pfx) : Option Instr :=
  some (.tcopy f.d f.a f.b)

/-- Major 0x72: TSTORE. -/
def Fields.op72 (f : Fields) (_ : Pfx) : Option Instr :=
  some (.tstore f.d f.a f.b)

/-- Major 0x73: TCOMMIT. -/
def Fields.op73 (f : Fields) (_ : Pfx) : Option Instr :=
  if f.a == 0#7 && f.b == 0#7 then some (.tcommit f.d)
  else none

/-- Major 0x74: TWAITB, TWAITB_TEST. -/
def Fields.op74 (f : Fields) (_ : Pfx) : Option Instr :=
  if f.b == 0#7 then some (.twaitb f.d f.a)
  else if f.b == 1#7 then some (.twaitbTest f.d f.a)
  else none

/-- Major 0x75: CBAR_INIT, CBAR_ARRIVE, CBAR_EXPECT, CBAR_WAIT, CBAR_TEST. -/
def Fields.op75 (f : Fields) (_ : Pfx) : Option Instr :=
  if f.b == 0#7 then some (.cbarInit f.d f.a)
  else if f.b == 1#7 then some (.cbarArrive f.d f.a)
  else if f.b == 2#7 then some (.cbarExpect f.d f.a)
  else if f.b == 3#7 then some (.cbarWait f.d f.a)
  else if f.b == 4#7 then some (.cbarTest f.d f.a)
  else none

/-- Major 0x76: LCOPY. -/
def Fields.op76 (f : Fields) (_ : Pfx) : Option Instr :=
  some (.lcopy f.d f.a f.b)

/-- Major 0x78: GANG_SET, GANG_CUR, GANG_NEAR, GANG_SCL, GANG_CLR. -/
def Fields.op78 (f : Fields) (_ : Pfx) : Option Instr :=
  if f.d == 0#7 && f.b == 0#7 then some (.gangSet f.a)
  else if f.d == 0#7 && f.b == 1#7 then some (.gangCur f.a)
  else if f.d == 0#7 && f.b == 2#7 then some (.gangNear f.a)
  else if f.d == 0#7 && f.b == 3#7 then some (.gangScl f.a)
  else if f.d == 0#7 && f.a == 0#7 && f.b == 4#7 then some (.gangClr)
  else none

/-- Major 0x79: MMA. -/
def Fields.op79 (f : Fields) (p : Pfx) : Option Instr :=
  some (.mma p f.d f.a f.b)

/-- Major 0x7A: ACC_ALLOC, ACC_FREE, ACC_ZERO, ACC_RDF32, ACC_RDBF2, ACC_RDI32, ACC_WRF32, ACC_STN, ACC_STAT. -/
def Fields.op7A (f : Fields) (p : Pfx) : Option Instr :=
  if f.b == 0#7 then some (.accAlloc p f.d f.a)
  else if f.d == 0#7 && f.b == 1#7 then some (.accFree p f.a)
  else if f.d == 0#7 && f.b == 2#7 then some (.accZero p f.a)
  else if f.b == 3#7 then some (.accRdf32 p f.d f.a)
  else if f.b == 4#7 then some (.accRdbf2 p f.d f.a)
  else if f.b == 5#7 then some (.accRdi32 p f.d f.a)
  else if f.b == 6#7 then some (.accWrf32 p f.d f.a)
  else if f.b == 7#7 then some (.accStn p f.d f.a)
  else if f.b == 8#7 then some (.accStat p f.d f.a)
  else none

/-- Major 0x7B: MFENCE, MWAITB, CPASS, LSTAT, CTAKE, LREL. -/
def Fields.op7B (f : Fields) (_ : Pfx) : Option Instr :=
  if f.a == 0#7 && f.b == 0#7 then some (.mfence f.d)
  else if f.b == 1#7 then some (.mwaitb f.d f.a)
  else if f.a == 0#7 && f.b == 3#7 then some (.cpass f.d)
  else if f.a == 0#7 && f.b == 5#7 then some (.lstat f.d)
  else if f.d == 0#7 && f.a == 0#7 && f.b == 2#7 then some (.ctake)
  else if f.d == 0#7 && f.a == 0#7 && f.b == 4#7 then some (.lrel)
  else none

/-- The row of the opcode table that the fields of a word match, by major opcode (R29). -/
def Fields.toInstr (f : Fields) (p : Pfx) : Option Instr :=
  match f.op.toNat with
  | 0x00 => f.op00 p
  | 0x01 => f.op01 p
  | 0x02 => f.op02 p
  | 0x03 => f.op03 p
  | 0x04 => f.op04 p
  | 0x05 => f.op05 p
  | 0x06 => f.op06 p
  | 0x07 => f.op07 p
  | 0x08 => f.op08 p
  | 0x09 => f.op09 p
  | 0x0A => f.op0A p
  | 0x0B => f.op0B p
  | 0x0C => f.op0C p
  | 0x0D => f.op0D p
  | 0x0E => f.op0E p
  | 0x0F => f.op0F p
  | 0x10 => f.op10 p
  | 0x11 => f.op11 p
  | 0x12 => f.op12 p
  | 0x13 => f.op13 p
  | 0x14 => f.op14 p
  | 0x15 => f.op15 p
  | 0x16 => f.op16 p
  | 0x17 => f.op17 p
  | 0x18 => f.op18 p
  | 0x19 => f.op19 p
  | 0x1A => f.op1A p
  | 0x1B => f.op1B p
  | 0x1C => f.op1C p
  | 0x1D => f.op1D p
  | 0x1E => f.op1E p
  | 0x1F => f.op1F p
  | 0x20 => f.op20 p
  | 0x21 => f.op21 p
  | 0x22 => f.op22 p
  | 0x23 => f.op23 p
  | 0x24 => f.op24 p
  | 0x25 => f.op25 p
  | 0x26 => f.op26 p
  | 0x27 => f.op27 p
  | 0x28 => f.op28 p
  | 0x29 => f.op29 p
  | 0x2A => f.op2A p
  | 0x2B => f.op2B p
  | 0x2C => f.op2C p
  | 0x2D => f.op2D p
  | 0x2E => f.op2E p
  | 0x2F => f.op2F p
  | 0x30 => f.op30 p
  | 0x31 => f.op31 p
  | 0x32 => f.op32 p
  | 0x33 => f.op33 p
  | 0x34 => f.op34 p
  | 0x35 => f.op35 p
  | 0x36 => f.op36 p
  | 0x37 => f.op37 p
  | 0x38 => f.op38 p
  | 0x39 => f.op39 p
  | 0x3A => f.op3A p
  | 0x3B => f.op3B p
  | 0x3C => f.op3C p
  | 0x3D => f.op3D p
  | 0x3E => f.op3E p
  | 0x3F => f.op3F p
  | 0x40 => f.op40 p
  | 0x41 => f.op41 p
  | 0x42 => f.op42 p
  | 0x43 => f.op43 p
  | 0x44 => f.op44 p
  | 0x45 => f.op45 p
  | 0x46 => f.op46 p
  | 0x47 => f.op47 p
  | 0x48 => f.op48 p
  | 0x49 => f.op49 p
  | 0x4A => f.op4A p
  | 0x4B => f.op4B p
  | 0x4C => f.op4C p
  | 0x4D => f.op4D p
  | 0x4E => f.op4E p
  | 0x4F => f.op4F p
  | 0x50 => f.op50 p
  | 0x51 => f.op51 p
  | 0x52 => f.op52 p
  | 0x53 => f.op53 p
  | 0x54 => f.op54 p
  | 0x55 => f.op55 p
  | 0x56 => f.op56 p
  | 0x57 => f.op57 p
  | 0x58 => f.op58 p
  | 0x59 => f.op59 p
  | 0x5A => f.op5A p
  | 0x5B => f.op5B p
  | 0x5C => f.op5C p
  | 0x5D => f.op5D p
  | 0x5E => f.op5E p
  | 0x5F => f.op5F p
  | 0x60 => f.op60 p
  | 0x61 => f.op61 p
  | 0x62 => f.op62 p
  | 0x63 => f.op63 p
  | 0x64 => f.op64 p
  | 0x65 => f.op65 p
  | 0x66 => f.op66 p
  | 0x67 => f.op67 p
  | 0x68 => f.op68 p
  | 0x69 => f.op69 p
  | 0x6A => f.op6A p
  | 0x6B => f.op6B p
  | 0x6C => f.op6C p
  | 0x6D => f.op6D p
  | 0x6E => f.op6E p
  | 0x6F => f.op6F p
  | 0x70 => f.op70 p
  | 0x71 => f.op71 p
  | 0x72 => f.op72 p
  | 0x73 => f.op73 p
  | 0x74 => f.op74 p
  | 0x75 => f.op75 p
  | 0x76 => f.op76 p
  | 0x78 => f.op78 p
  | 0x79 => f.op79 p
  | 0x7A => f.op7A p
  | 0x7B => f.op7B p
  | _ => none

/-- The prefix payload inside an instruction that consumes one. -/
def Instr.payloadArg (i : Instr) : Pfx :=
  match i with
  | .sysc _ => none
  | .bra _ => none
  | .call _ _ => none
  | .jmp _ => none
  | .jmpl _ _ => none
  | .brz _ _ => none
  | .brnz _ _ => none
  | .brany _ _ => none
  | .brall _ _ => none
  | .mark _ => none
  | .voteAny _ _ => none
  | .voteAll _ _ => none
  | .voteBallot _ _ => none
  | .voteCount _ _ => none
  | .voteFirst _ _ => none
  | .barArrive _ => none
  | .barWait _ => none
  | .mona p _ _ _ _ _ => p
  | .monw _ _ => none
  | .fget _ _ _ => none
  | .fput _ _ _ => none
  | .spawn _ _ _ => none
  | .mov _ _ => none
  | .mov64 _ _ => none
  | .movi p _ _ => p
  | .movhi _ _ => none
  | .wbase _ => none
  | .wbaseRel _ => none
  | .sget _ _ => none
  | .sset _ _ => none
  | .shfl _ _ _ => none
  | .shflx _ _ _ => none
  | .csel _ _ _ => none
  | .fmtSet _ => none
  | .fmtGet _ => none
  | .dqPush _ _ => none
  | .dqPop _ _ => none
  | .dqSteal _ _ => none
  | .dqSize _ _ => none
  | .bndPubmin _ _ => none
  | .bndPubmax _ _ => none
  | .bndGet _ _ => none
  | .bndReset _ _ => none
  | .tjoin _ _ => none
  | .tjoinTest _ _ => none
  | .launch _ _ => none
  | .rld _ _ _ => none
  | .rst _ _ _ => none
  | .add _ _ _ => none
  | .sub _ _ _ => none
  | .addi p _ _ _ => p
  | .mul _ _ _ => none
  | .mulhs _ _ _ => none
  | .mulhu _ _ _ => none
  | .mad _ _ _ => none
  | .add64 _ _ _ => none
  | .addz64 p _ _ _ => p
  | .mulws _ _ _ => none
  | .mulwz _ _ _ => none
  | .min _ _ _ => none
  | .max _ _ _ => none
  | .minu _ _ _ => none
  | .maxu _ _ _ => none
  | .and _ _ _ => none
  | .or _ _ _ => none
  | .xor _ _ _ => none
  | .andi p _ _ _ => p
  | .ori p _ _ _ => p
  | .xori p _ _ _ => p
  | .shl _ _ _ => none
  | .shr _ _ _ => none
  | .sar _ _ _ => none
  | .shli _ _ _ => none
  | .shri _ _ _ => none
  | .sari _ _ _ => none
  | .roti _ _ _ => none
  | .rot _ _ _ => none
  | .clz _ _ => none
  | .popc _ _ => none
  | .brev _ _ => none
  | .abs _ _ => none
  | .neg _ _ => none
  | .not _ _ => none
  | .sextb _ _ => none
  | .sexth _ _ => none
  | .zextb _ _ => none
  | .zexth _ _ => none
  | .ctz _ _ => none
  | .bfx _ _ _ => none
  | .bfi _ _ _ => none
  | .seq _ _ _ => none
  | .slt _ _ _ => none
  | .sltu _ _ _ => none
  | .fadd _ _ _ => none
  | .fsub _ _ _ => none
  | .fmul _ _ _ => none
  | .ffma _ _ _ => none
  | .fmin _ _ _ => none
  | .fmax _ _ _ => none
  | .fseq _ _ _ => none
  | .fslt _ _ _ => none
  | .fsle _ _ _ => none
  | .collStart _ _ => none
  | .collWait _ _ => none
  | .collTest _ _ => none
  | .fabs _ _ => none
  | .fneg _ _ => none
  | .frndn _ _ => none
  | .frndz _ _ => none
  | .frndp _ _ => none
  | .frndm _ _ => none
  | .fclass _ _ => none
  | .frcp _ _ => none
  | .frsq _ _ => none
  | .fsqrt _ _ => none
  | .fex2 _ _ => none
  | .flg2 _ _ => none
  | .fsin _ _ => none
  | .fcos _ _ => none
  | .badd2 _ _ _ => none
  | .bmul2 _ _ _ => none
  | .bfma2 _ _ _ => none
  | .hfma2 _ _ _ => none
  | .rsubs _ _ => none
  | .rsubsOff _ _ => none
  | .ratom p _ _ _ => p
  | .cvtF32F16 _ _ => none
  | .cvtF32Bf16 _ _ => none
  | .cvtF16F32 _ _ => none
  | .cvtBf16F32 _ _ => none
  | .cvtF32S32 _ _ => none
  | .cvtF32Z32 _ _ => none
  | .cvtS32F32 _ _ => none
  | .cvtZ32F32 _ _ => none
  | .cvtF32E4m3 _ _ => none
  | .cvtF32E5m2 _ _ => none
  | .cvtF32E3m2 _ _ => none
  | .cvtF32E2m3 _ _ => none
  | .cvtF32E2m1 _ _ => none
  | .cvtE4m3F32 _ _ => none
  | .cvtE5m2F32 _ _ => none
  | .cvtE3m2F32 _ _ => none
  | .cvtE2m3F32 _ _ => none
  | .cvtE2m1F32 _ _ => none
  | .cvtF32E8m0 _ _ => none
  | .cvtE8m0F32 _ _ => none
  | .cvtS16S32 _ _ => none
  | .cvtS8S32 _ _ => none
  | .cvtZ16Z32 _ _ => none
  | .cvtZ8Z32 _ _ => none
  | .cvtF32S64 _ _ => none
  | .cvtS64F32 _ _ => none
  | .cvtp _ _ _ => none
  | .dot4i _ _ _ => none
  | .dot8i _ _ _ => none
  | .dot4f _ _ _ => none
  | .dot8f _ _ _ => none
  | .dot2b _ _ _ => none
  | .ldn p _ _ _ => p
  | .stn p _ _ _ => p
  | .atnAdd p _ _ _ => p
  | .atnMin p _ _ _ => p
  | .atnMax p _ _ _ => p
  | .atnMinu p _ _ _ => p
  | .atnMaxu p _ _ _ => p
  | .atnAnd p _ _ _ => p
  | .atnOr p _ _ _ => p
  | .atnXch p _ _ _ => p
  | .casn _ _ _ => none
  | .rrot _ _ _ => none
  | .vput _ => none
  | .vputNb _ _ => none
  | .vget _ => none
  | .vgetNb _ _ => none
  | .twxWr _ _ => none
  | .twxRd _ _ => none
  | .ld p _ _ _ _ _ => p
  | .st p _ _ _ _ _ => p
  | .aadd p _ _ _ _ => p
  | .amin p _ _ _ _ => p
  | .amax p _ _ _ _ => p
  | .aminu p _ _ _ _ => p
  | .amaxu p _ _ _ _ => p
  | .aand p _ _ _ _ => p
  | .aor p _ _ _ _ => p
  | .axor p _ _ _ _ => p
  | .axch p _ _ _ _ => p
  | .acas p _ _ _ _ => p
  | .afadd p _ _ _ _ => p
  | .fenceAcq _ => none
  | .fenceRel _ => none
  | .fenceAcqrel _ => none
  | .fenceSc _ => none
  | .fenceAsync _ => none
  | .touch p _ _ => p
  | .cmaintWb _ _ => none
  | .cmaintInv _ _ => none
  | .cmaintWbinv _ _ => none
  | .cmaintTlb _ _ _ => none
  | .trec _ _ _ => none
  | .trecN _ _ _ => none
  | .tcopy _ _ _ => none
  | .tstore _ _ _ => none
  | .tcommit _ => none
  | .twaitb _ _ => none
  | .twaitbTest _ _ => none
  | .cbarInit _ _ => none
  | .cbarArrive _ _ => none
  | .cbarExpect _ _ => none
  | .cbarWait _ _ => none
  | .cbarTest _ _ => none
  | .lcopy _ _ _ => none
  | .gangSet _ => none
  | .gangCur _ => none
  | .gangNear _ => none
  | .gangScl _ => none
  | .mma p _ _ _ => p
  | .accAlloc p _ _ => p
  | .accFree p _ => p
  | .accZero p _ => p
  | .accRdf32 p _ _ => p
  | .accRdbf2 p _ _ => p
  | .accRdi32 p _ _ => p
  | .accWrf32 p _ _ => p
  | .accStn p _ _ => p
  | .accStat p _ _ => p
  | .mfence _ => none
  | .mwaitb _ _ => none
  | .cpass _ => none
  | .lstat _ => none
  | .nop => none
  | .yield => none
  | .exit => none
  | .join => none
  | .tret => none
  | .tretSkip => none
  | .tfence => none
  | .brk => none
  | .hvc => none
  | .texit => none
  | .halt => none
  | .barTeam => none
  | .barClu => none
  | .barGrid => none
  | .gangClr => none
  | .ctake => none
  | .lrel => none
  | .nrmRead => none
  | .cycloRead => none
  | .aflagsRead => none
  | .rspeekWrite => none
  | .ctxbaseWrite => none
  | .ctxbaseTakeEffect => none
  | .boundPublishArrival => none
  | .ringStepStart => none
  | .ringStepComplete => none
  | .beamEntryArrival => none
  | .beamCreditReturn => none
  | .beamRealignmentDue => none
  | .beamRealignmentStart => none
  | .beamRealignmentComplete => none
  | .upperDeckGate => none
  | .upperDeckUngate => none
  | .refreshWindowStart => none
  | .refreshWindowEnd => none
  | .columnRefreshRateChange => none
  | .residencyRequest => none
  | .tlbInvalidationArrival => none
  | .tlbInvalidationAck => none
  | .shootdownComplete => none
  | .tableWalk => none
  | .walkAheadFetch => none
  | .copyComplete => none
  | .rendezvousComplete => none
  | .matrixOperationStart => none
  | .matrixOperationComplete => none
  | .accStnComplete => none
  | .allocGrant => none
  | .carryGrant => none
  | .licenceGrant => none
  | .licenceIdleRelease => none
  | .licenceRelease => none
  | .issueArbitration => none
  | .runLimit => none
  | .activeSetEntry => none
  | .activeSetEviction => none
  | .quantumExpiry => none
  | .fixedLatencyWriteback => none
  | .interlockedWriteComplete => none
  | .pathReady => none
  | .breakpointTrap => none
  | .singleStepTrap => none
  | .monitorWriteWake => none
  | .monitorLineLoss => none
  | .monwTimeout => none
  | .taskPacketArrival => none
  | .overflowPacketReturn => none
  | .waveFormation => none
  | .parkedContextResume => none
  | .waitCounterCheck => none
  | .teamPlacement => none
  | .priorityAging => none
  | .sliceEnd => none
  | .preemptionStop => none
  | .contextSave => none
  | .contextRestore => none
  | .teamKill => none
  | .gridEnd => none
  | .holdRequest => none
  | .debugHalt => none
  | .debugResume => none
  | .debugRdreg => none
  | .debugWrreg => none
  | .debugRdmem => none
  | .debugWrmem => none
  | .debugStep => none
  | .debugSetbp => none
  | .debugClrbp => none
  | .debugList => none
  | .writePropagation => none
  | .cacheUncorrectableError => none
  | .dieLoss => none
  | .directoryRebuildComplete => none
  | .hostSnoop => none
  | .hostMemoryAccess => none
  | .remoteRequestReceive => none
  | .remoteResponseReceive => none
  | .requestTimeout => none
  | .sequenceGap => none
  | .nackReceive => none
  | .flitReplay => none
  | .portDown => none
  | .planeRemap => none
  | .planeRecovery => none
  | .portWidthChange => none
  | .subscriptionPush => none
  | .spdmSession => none
  | .domainKeyLoad => none
  | .memberMaskUpdate => none
  | .rekeyBarrierSend => none
  | .rekeySwitch => none
  | .rekeyTimeout => none
  | .collectiveComplete => none
  | .collectiveTimeout => none
  | .powerSample => none
  | .tarUpdate => none
  | .thermalTrip => none
  | .thermalShutdown => none
  | .coldReset => none
  | .warmReset => none
  | .hostLinkTrain => none
  | .kill => none
  | .healthCounterRead => none
  | .managementRegisterWrite => none
  | .coreFence => none
  | .blockFence => none
  | .ownerKeyAssign => none
  | .ownerKeyRelease => none
  | .writePerformed => none
  | .peerNumberAssignment => none

/-- Major 0x7F is the prefix word (R25). -/
def isPfx (w : Word) : Bool := (fieldsOf w).op == 0x7F#7

/-- The payload [20:0] of a prefix word (R22). -/
def pfxPayload (w : Word) : BitVec 21 := w.extractLsb' 0 21

/-- A decoded instruction with the control fields of its word: E, the run ends after it, and W, the beats added before the
group's next instruction (R17, R19, R20). -/
structure Decoded where
  e : Bool
  w : BitVec 3
  i : Instr
deriving DecidableEq, Repr

/-- A word that follows the prefix payload `p`, or no prefix. A prefix goes only before an instruction that consumes it (R25). -/
def decodeAfter (p : Pfx) (w : Word) : Except DecodeError Decoded :=
  let f := fieldsOf w
  match f.toInstr p with
  | none => .error (if isPfx w then .badPrefix else .undefinedWord)
  | some i =>
    if i.payloadArg ≠ p then .error .badPrefix
    else if i.wellFormed then .ok ⟨f.e, f.w, i⟩ else .error .illFormed

/-- A prefix word has E and W zero (R25). -/
def pfxAllowed (w : Word) : Bool := !(fieldsOf w).e && (fieldsOf w).w == 0#3

/-- The instruction that starts at the first word; the second word counts only after a prefix word (R25, R27). -/
def decodeWords (w0 : Word) (w1 : Option Word) : Except DecodeError Decoded :=
  if isPfx w0 then
    if pfxAllowed w0 then
      match w1 with
      | none => .error .truncated
      | some w => decodeAfter (some (pfxPayload w0)) w
    else .error .badPrefix
  else decodeAfter none w0

/-- The little-endian word at the head of a list of bytes (R18). -/
def takeWord : List Byte → Option (Word × List Byte)
  | b0 :: b1 :: b2 :: b3 :: rest => some (b3 ++ b2 ++ b1 ++ b0, rest)
  | _ => none

/-- The instruction at the head of a list of bytes, with the bytes that follow it. -/
def decode (bs : List Byte) : Except DecodeError (Decoded × List Byte) :=
  match takeWord bs with
  | none => .error .truncated
  | some (w0, rest) =>
    if isPfx w0 then
      match takeWord rest with
      | none => (decodeWords w0 none).map fun i => (i, rest)
      | some (w1, rest') => (decodeWords w0 (some w1)).map fun i => (i, rest')
    else (decodeWords w0 none).map fun i => (i, rest)

/-- The fields of the instruction's own word, with its E and W; a step of the device that no word encodes has none. -/
def Instr.fields (i : Instr) (e : Bool) (w : BitVec 3) : Option Fields :=
  match i with
  | .sysc n => some ⟨e, w, 0x00#7, n, 0#7, 7#7⟩
  | .bra i => some ⟨e, w, 0x01#7, (i.extractLsb' 14 7), (i.extractLsb' 7 7), (i.extractLsb' 0 7)⟩
  | .call d i => some ⟨e, w, 0x02#7, d, (i.extractLsb' 7 7), (i.extractLsb' 0 7)⟩
  | .jmp a => some ⟨e, w, 0x03#7, 0#7, a, 0#7⟩
  | .jmpl d a => some ⟨e, w, 0x03#7, d, a, 1#7⟩
  | .brz d i => some ⟨e, w, 0x04#7, d, (i.extractLsb' 7 7), (i.extractLsb' 0 7)⟩
  | .brnz d i => some ⟨e, w, 0x05#7, d, (i.extractLsb' 7 7), (i.extractLsb' 0 7)⟩
  | .brany d i => some ⟨e, w, 0x06#7, d, (i.extractLsb' 7 7), (i.extractLsb' 0 7)⟩
  | .brall d i => some ⟨e, w, 0x07#7, d, (i.extractLsb' 7 7), (i.extractLsb' 0 7)⟩
  | .mark i => some ⟨e, w, 0x08#7, 0#7, (i.extractLsb' 7 7), (i.extractLsb' 0 7)⟩
  | .voteAny d a => some ⟨e, w, 0x09#7, d, a, 0#7⟩
  | .voteAll d a => some ⟨e, w, 0x09#7, d, a, 1#7⟩
  | .voteBallot d a => some ⟨e, w, 0x09#7, d, a, 2#7⟩
  | .voteCount d a => some ⟨e, w, 0x09#7, d, a, 3#7⟩
  | .voteFirst d a => some ⟨e, w, 0x09#7, d, a, 4#7⟩
  | .barArrive d => some ⟨e, w, 0x0A#7, d, 0#7, 3#7⟩
  | .barWait a => some ⟨e, w, 0x0A#7, 0#7, a, 4#7⟩
  | .mona _ d a s z pol => some ⟨e, w, 0x0B#7, d, a, (s ++ z ++ pol)⟩
  | .monw d a => some ⟨e, w, 0x0C#7, d, a, 0#7⟩
  | .fget d a b => some ⟨e, w, 0x0D#7, d, a, b⟩
  | .fput d a b => some ⟨e, w, 0x0E#7, d, a, b⟩
  | .spawn d a b => some ⟨e, w, 0x0F#7, d, a, b⟩
  | .mov d a => some ⟨e, w, 0x10#7, d, a, 0#7⟩
  | .mov64 d a => some ⟨e, w, 0x10#7, d, a, 1#7⟩
  | .movi _ d i => some ⟨e, w, 0x11#7, d, (i.extractLsb' 7 7), (i.extractLsb' 0 7)⟩
  | .movhi d i => some ⟨e, w, 0x12#7, d, (i.extractLsb' 7 7), (i.extractLsb' 0 7)⟩
  | .wbase i => some ⟨e, w, 0x13#7, 0#7, (i.extractLsb' 7 7), (i.extractLsb' 0 7)⟩
  | .wbaseRel i => some ⟨e, w, 0x13#7, 1#7, (i.extractLsb' 7 7), (i.extractLsb' 0 7)⟩
  | .sget d n => some ⟨e, w, 0x14#7, d, 0#7, n⟩
  | .sset a n => some ⟨e, w, 0x15#7, 0#7, a, n⟩
  | .shfl d a b => some ⟨e, w, 0x16#7, d, a, b⟩
  | .shflx d a b => some ⟨e, w, 0x17#7, d, a, b⟩
  | .csel d a b => some ⟨e, w, 0x18#7, d, a, b⟩
  | .fmtSet a => some ⟨e, w, 0x19#7, 0#7, a, 0#7⟩
  | .fmtGet d => some ⟨e, w, 0x19#7, d, 0#7, 1#7⟩
  | .dqPush d a => some ⟨e, w, 0x1A#7, d, a, 0#7⟩
  | .dqPop d a => some ⟨e, w, 0x1A#7, d, a, 1#7⟩
  | .dqSteal d a => some ⟨e, w, 0x1A#7, d, a, 2#7⟩
  | .dqSize d a => some ⟨e, w, 0x1A#7, d, a, 3#7⟩
  | .bndPubmin d s => some ⟨e, w, 0x1B#7, d, 0#7, (0#1 ++ s ++ 0#3)⟩
  | .bndPubmax d s => some ⟨e, w, 0x1B#7, d, 0#7, (0#1 ++ s ++ 1#3)⟩
  | .bndGet d s => some ⟨e, w, 0x1B#7, d, 0#7, (0#1 ++ s ++ 2#3)⟩
  | .bndReset d s => some ⟨e, w, 0x1B#7, d, 0#7, (0#1 ++ s ++ 3#3)⟩
  | .tjoin d a => some ⟨e, w, 0x1C#7, d, a, 0#7⟩
  | .tjoinTest d a => some ⟨e, w, 0x1C#7, d, a, 1#7⟩
  | .launch d a => some ⟨e, w, 0x1D#7, d, a, 0#7⟩
  | .rld d a b => some ⟨e, w, 0x1E#7, d, a, b⟩
  | .rst d a b => some ⟨e, w, 0x1F#7, d, a, b⟩
  | .add d a b => some ⟨e, w, 0x20#7, d, a, b⟩
  | .sub d a b => some ⟨e, w, 0x21#7, d, a, b⟩
  | .addi _ d a i => some ⟨e, w, 0x22#7, d, a, i⟩
  | .mul d a b => some ⟨e, w, 0x23#7, d, a, b⟩
  | .mulhs d a b => some ⟨e, w, 0x24#7, d, a, b⟩
  | .mulhu d a b => some ⟨e, w, 0x25#7, d, a, b⟩
  | .mad d a b => some ⟨e, w, 0x26#7, d, a, b⟩
  | .add64 d a b => some ⟨e, w, 0x27#7, d, a, b⟩
  | .addz64 _ d a b => some ⟨e, w, 0x28#7, d, a, b⟩
  | .mulws d a b => some ⟨e, w, 0x29#7, d, a, b⟩
  | .mulwz d a b => some ⟨e, w, 0x2A#7, d, a, b⟩
  | .min d a b => some ⟨e, w, 0x2B#7, d, a, b⟩
  | .max d a b => some ⟨e, w, 0x2C#7, d, a, b⟩
  | .minu d a b => some ⟨e, w, 0x2D#7, d, a, b⟩
  | .maxu d a b => some ⟨e, w, 0x2E#7, d, a, b⟩
  | .and d a b => some ⟨e, w, 0x2F#7, d, a, b⟩
  | .or d a b => some ⟨e, w, 0x30#7, d, a, b⟩
  | .xor d a b => some ⟨e, w, 0x31#7, d, a, b⟩
  | .andi _ d a i => some ⟨e, w, 0x32#7, d, a, i⟩
  | .ori _ d a i => some ⟨e, w, 0x33#7, d, a, i⟩
  | .xori _ d a i => some ⟨e, w, 0x34#7, d, a, i⟩
  | .shl d a b => some ⟨e, w, 0x35#7, d, a, b⟩
  | .shr d a b => some ⟨e, w, 0x36#7, d, a, b⟩
  | .sar d a b => some ⟨e, w, 0x37#7, d, a, b⟩
  | .shli d a n => some ⟨e, w, 0x38#7, d, a, (0#2 ++ n)⟩
  | .shri d a n => some ⟨e, w, 0x38#7, d, a, (1#2 ++ n)⟩
  | .sari d a n => some ⟨e, w, 0x38#7, d, a, (2#2 ++ n)⟩
  | .roti d a n => some ⟨e, w, 0x38#7, d, a, (3#2 ++ n)⟩
  | .rot d a b => some ⟨e, w, 0x39#7, d, a, b⟩
  | .clz d a => some ⟨e, w, 0x3A#7, d, a, 0#7⟩
  | .popc d a => some ⟨e, w, 0x3A#7, d, a, 1#7⟩
  | .brev d a => some ⟨e, w, 0x3A#7, d, a, 2#7⟩
  | .abs d a => some ⟨e, w, 0x3A#7, d, a, 3#7⟩
  | .neg d a => some ⟨e, w, 0x3A#7, d, a, 4#7⟩
  | .not d a => some ⟨e, w, 0x3A#7, d, a, 5#7⟩
  | .sextb d a => some ⟨e, w, 0x3A#7, d, a, 6#7⟩
  | .sexth d a => some ⟨e, w, 0x3A#7, d, a, 7#7⟩
  | .zextb d a => some ⟨e, w, 0x3A#7, d, a, 8#7⟩
  | .zexth d a => some ⟨e, w, 0x3A#7, d, a, 9#7⟩
  | .ctz d a => some ⟨e, w, 0x3A#7, d, a, 10#7⟩
  | .bfx d a b => some ⟨e, w, 0x3B#7, d, a, b⟩
  | .bfi d a b => some ⟨e, w, 0x3C#7, d, a, b⟩
  | .seq d a b => some ⟨e, w, 0x3D#7, d, a, b⟩
  | .slt d a b => some ⟨e, w, 0x3E#7, d, a, b⟩
  | .sltu d a b => some ⟨e, w, 0x3F#7, d, a, b⟩
  | .fadd d a b => some ⟨e, w, 0x40#7, d, a, b⟩
  | .fsub d a b => some ⟨e, w, 0x41#7, d, a, b⟩
  | .fmul d a b => some ⟨e, w, 0x42#7, d, a, b⟩
  | .ffma d a b => some ⟨e, w, 0x43#7, d, a, b⟩
  | .fmin d a b => some ⟨e, w, 0x44#7, d, a, b⟩
  | .fmax d a b => some ⟨e, w, 0x45#7, d, a, b⟩
  | .fseq d a b => some ⟨e, w, 0x46#7, d, a, b⟩
  | .fslt d a b => some ⟨e, w, 0x47#7, d, a, b⟩
  | .fsle d a b => some ⟨e, w, 0x48#7, d, a, b⟩
  | .collStart d a => some ⟨e, w, 0x49#7, d, a, 0#7⟩
  | .collWait d a => some ⟨e, w, 0x49#7, d, a, 1#7⟩
  | .collTest d a => some ⟨e, w, 0x49#7, d, a, 2#7⟩
  | .fabs d a => some ⟨e, w, 0x4A#7, d, a, 0#7⟩
  | .fneg d a => some ⟨e, w, 0x4A#7, d, a, 1#7⟩
  | .frndn d a => some ⟨e, w, 0x4A#7, d, a, 2#7⟩
  | .frndz d a => some ⟨e, w, 0x4A#7, d, a, 3#7⟩
  | .frndp d a => some ⟨e, w, 0x4A#7, d, a, 4#7⟩
  | .frndm d a => some ⟨e, w, 0x4A#7, d, a, 5#7⟩
  | .fclass d a => some ⟨e, w, 0x4A#7, d, a, 6#7⟩
  | .frcp d a => some ⟨e, w, 0x4A#7, d, a, 7#7⟩
  | .frsq d a => some ⟨e, w, 0x4A#7, d, a, 8#7⟩
  | .fsqrt d a => some ⟨e, w, 0x4A#7, d, a, 9#7⟩
  | .fex2 d a => some ⟨e, w, 0x4A#7, d, a, 10#7⟩
  | .flg2 d a => some ⟨e, w, 0x4A#7, d, a, 11#7⟩
  | .fsin d a => some ⟨e, w, 0x4A#7, d, a, 12#7⟩
  | .fcos d a => some ⟨e, w, 0x4A#7, d, a, 13#7⟩
  | .badd2 d a b => some ⟨e, w, 0x4B#7, d, a, b⟩
  | .bmul2 d a b => some ⟨e, w, 0x4C#7, d, a, b⟩
  | .bfma2 d a b => some ⟨e, w, 0x4D#7, d, a, b⟩
  | .hfma2 d a b => some ⟨e, w, 0x4E#7, d, a, b⟩
  | .rsubs d a => some ⟨e, w, 0x4F#7, d, a, 0#7⟩
  | .rsubsOff d a => some ⟨e, w, 0x4F#7, d, a, 1#7⟩
  | .ratom _ d a b => some ⟨e, w, 0x50#7, d, a, b⟩
  | .cvtF32F16 d a => some ⟨e, w, 0x51#7, d, a, 0#7⟩
  | .cvtF32Bf16 d a => some ⟨e, w, 0x51#7, d, a, 1#7⟩
  | .cvtF16F32 d a => some ⟨e, w, 0x51#7, d, a, 2#7⟩
  | .cvtBf16F32 d a => some ⟨e, w, 0x51#7, d, a, 3#7⟩
  | .cvtF32S32 d a => some ⟨e, w, 0x51#7, d, a, 4#7⟩
  | .cvtF32Z32 d a => some ⟨e, w, 0x51#7, d, a, 5#7⟩
  | .cvtS32F32 d a => some ⟨e, w, 0x51#7, d, a, 6#7⟩
  | .cvtZ32F32 d a => some ⟨e, w, 0x51#7, d, a, 7#7⟩
  | .cvtF32E4m3 d a => some ⟨e, w, 0x51#7, d, a, 8#7⟩
  | .cvtF32E5m2 d a => some ⟨e, w, 0x51#7, d, a, 9#7⟩
  | .cvtF32E3m2 d a => some ⟨e, w, 0x51#7, d, a, 10#7⟩
  | .cvtF32E2m3 d a => some ⟨e, w, 0x51#7, d, a, 11#7⟩
  | .cvtF32E2m1 d a => some ⟨e, w, 0x51#7, d, a, 12#7⟩
  | .cvtE4m3F32 d a => some ⟨e, w, 0x51#7, d, a, 13#7⟩
  | .cvtE5m2F32 d a => some ⟨e, w, 0x51#7, d, a, 14#7⟩
  | .cvtE3m2F32 d a => some ⟨e, w, 0x51#7, d, a, 15#7⟩
  | .cvtE2m3F32 d a => some ⟨e, w, 0x51#7, d, a, 16#7⟩
  | .cvtE2m1F32 d a => some ⟨e, w, 0x51#7, d, a, 17#7⟩
  | .cvtF32E8m0 d a => some ⟨e, w, 0x51#7, d, a, 18#7⟩
  | .cvtE8m0F32 d a => some ⟨e, w, 0x51#7, d, a, 19#7⟩
  | .cvtS16S32 d a => some ⟨e, w, 0x51#7, d, a, 20#7⟩
  | .cvtS8S32 d a => some ⟨e, w, 0x51#7, d, a, 21#7⟩
  | .cvtZ16Z32 d a => some ⟨e, w, 0x51#7, d, a, 22#7⟩
  | .cvtZ8Z32 d a => some ⟨e, w, 0x51#7, d, a, 23#7⟩
  | .cvtF32S64 d a => some ⟨e, w, 0x51#7, d, a, 24#7⟩
  | .cvtS64F32 d a => some ⟨e, w, 0x51#7, d, a, 25#7⟩
  | .cvtp d a b => some ⟨e, w, 0x52#7, d, a, b⟩
  | .dot4i d a b => some ⟨e, w, 0x53#7, d, a, b⟩
  | .dot8i d a b => some ⟨e, w, 0x54#7, d, a, b⟩
  | .dot4f d a b => some ⟨e, w, 0x55#7, d, a, b⟩
  | .dot8f d a b => some ⟨e, w, 0x56#7, d, a, b⟩
  | .dot2b d a b => some ⟨e, w, 0x57#7, d, a, b⟩
  | .ldn _ d a z => some ⟨e, w, 0x58#7, d, a, (0#3 ++ z ++ 0#2)⟩
  | .stn _ d a z => some ⟨e, w, 0x59#7, d, a, (0#3 ++ z ++ 0#2)⟩
  | .atnAdd _ d a b => some ⟨e, w, 0x5A#7, d, a, (0#3 ++ b)⟩
  | .atnMin _ d a b => some ⟨e, w, 0x5A#7, d, a, (1#3 ++ b)⟩
  | .atnMax _ d a b => some ⟨e, w, 0x5A#7, d, a, (2#3 ++ b)⟩
  | .atnMinu _ d a b => some ⟨e, w, 0x5A#7, d, a, (3#3 ++ b)⟩
  | .atnMaxu _ d a b => some ⟨e, w, 0x5A#7, d, a, (4#3 ++ b)⟩
  | .atnAnd _ d a b => some ⟨e, w, 0x5A#7, d, a, (5#3 ++ b)⟩
  | .atnOr _ d a b => some ⟨e, w, 0x5A#7, d, a, (6#3 ++ b)⟩
  | .atnXch _ d a b => some ⟨e, w, 0x5A#7, d, a, (7#3 ++ b)⟩
  | .casn d a b => some ⟨e, w, 0x5B#7, d, a, b⟩
  | .rrot d a b => some ⟨e, w, 0x5C#7, d, a, b⟩
  | .vput a => some ⟨e, w, 0x5D#7, 0#7, a, 0#7⟩
  | .vputNb d a => some ⟨e, w, 0x5D#7, d, a, 1#7⟩
  | .vget d => some ⟨e, w, 0x5E#7, d, 0#7, 0#7⟩
  | .vgetNb d a => some ⟨e, w, 0x5E#7, d, a, 1#7⟩
  | .twxWr a s => some ⟨e, w, 0x5F#7, 0#7, a, (0#4 ++ s)⟩
  | .twxRd d s => some ⟨e, w, 0x5F#7, d, 0#7, (8#4 ++ s)⟩
  | .ld _ d a s z pol => some ⟨e, w, 0x60#7, d, a, (s ++ z ++ pol)⟩
  | .st _ d a s z pol => some ⟨e, w, 0x61#7, d, a, (s ++ z ++ pol)⟩
  | .aadd _ d a s b => some ⟨e, w, 0x62#7, d, a, (s ++ b)⟩
  | .amin _ d a s b => some ⟨e, w, 0x63#7, d, a, (s ++ b)⟩
  | .amax _ d a s b => some ⟨e, w, 0x64#7, d, a, (s ++ b)⟩
  | .aminu _ d a s b => some ⟨e, w, 0x65#7, d, a, (s ++ b)⟩
  | .amaxu _ d a s b => some ⟨e, w, 0x66#7, d, a, (s ++ b)⟩
  | .aand _ d a s b => some ⟨e, w, 0x67#7, d, a, (s ++ b)⟩
  | .aor _ d a s b => some ⟨e, w, 0x68#7, d, a, (s ++ b)⟩
  | .axor _ d a s b => some ⟨e, w, 0x69#7, d, a, (s ++ b)⟩
  | .axch _ d a s b => some ⟨e, w, 0x6A#7, d, a, (s ++ b)⟩
  | .acas _ d a s b => some ⟨e, w, 0x6B#7, d, a, (s ++ b)⟩
  | .afadd _ d a s b => some ⟨e, w, 0x6C#7, d, a, (s ++ b)⟩
  | .fenceAcq s => some ⟨e, w, 0x6D#7, 0#7, 0#7, (s ++ 0#4)⟩
  | .fenceRel s => some ⟨e, w, 0x6D#7, 0#7, 0#7, (s ++ 1#4)⟩
  | .fenceAcqrel s => some ⟨e, w, 0x6D#7, 0#7, 0#7, (s ++ 2#4)⟩
  | .fenceSc s => some ⟨e, w, 0x6D#7, 0#7, 0#7, (s ++ 3#4)⟩
  | .fenceAsync s => some ⟨e, w, 0x6D#7, 0#7, 0#7, (s ++ 4#4)⟩
  | .touch _ d a => some ⟨e, w, 0x6E#7, d, a, 0#7⟩
  | .cmaintWb a s => some ⟨e, w, 0x6F#7, 0#7, a, (s ++ 0#4)⟩
  | .cmaintInv a s => some ⟨e, w, 0x6F#7, 0#7, a, (s ++ 1#4)⟩
  | .cmaintWbinv a s => some ⟨e, w, 0x6F#7, 0#7, a, (s ++ 2#4)⟩
  | .cmaintTlb d a s => some ⟨e, w, 0x6F#7, d, a, (s ++ 5#4)⟩
  | .trec d a s => some ⟨e, w, 0x70#7, d, a, (0#3 ++ s)⟩
  | .trecN d a s => some ⟨e, w, 0x70#7, d, a, (4#3 ++ s)⟩
  | .tcopy d a b => some ⟨e, w, 0x71#7, d, a, b⟩
  | .tstore d a b => some ⟨e, w, 0x72#7, d, a, b⟩
  | .tcommit d => some ⟨e, w, 0x73#7, d, 0#7, 0#7⟩
  | .twaitb d a => some ⟨e, w, 0x74#7, d, a, 0#7⟩
  | .twaitbTest d a => some ⟨e, w, 0x74#7, d, a, 1#7⟩
  | .cbarInit d a => some ⟨e, w, 0x75#7, d, a, 0#7⟩
  | .cbarArrive d a => some ⟨e, w, 0x75#7, d, a, 1#7⟩
  | .cbarExpect d a => some ⟨e, w, 0x75#7, d, a, 2#7⟩
  | .cbarWait d a => some ⟨e, w, 0x75#7, d, a, 3#7⟩
  | .cbarTest d a => some ⟨e, w, 0x75#7, d, a, 4#7⟩
  | .lcopy d a b => some ⟨e, w, 0x76#7, d, a, b⟩
  | .gangSet a => some ⟨e, w, 0x78#7, 0#7, a, 0#7⟩
  | .gangCur a => some ⟨e, w, 0x78#7, 0#7, a, 1#7⟩
  | .gangNear a => some ⟨e, w, 0x78#7, 0#7, a, 2#7⟩
  | .gangScl a => some ⟨e, w, 0x78#7, 0#7, a, 3#7⟩
  | .mma _ d a b => some ⟨e, w, 0x79#7, d, a, b⟩
  | .accAlloc _ d a => some ⟨e, w, 0x7A#7, d, a, 0#7⟩
  | .accFree _ a => some ⟨e, w, 0x7A#7, 0#7, a, 1#7⟩
  | .accZero _ a => some ⟨e, w, 0x7A#7, 0#7, a, 2#7⟩
  | .accRdf32 _ d a => some ⟨e, w, 0x7A#7, d, a, 3#7⟩
  | .accRdbf2 _ d a => some ⟨e, w, 0x7A#7, d, a, 4#7⟩
  | .accRdi32 _ d a => some ⟨e, w, 0x7A#7, d, a, 5#7⟩
  | .accWrf32 _ d a => some ⟨e, w, 0x7A#7, d, a, 6#7⟩
  | .accStn _ d a => some ⟨e, w, 0x7A#7, d, a, 7#7⟩
  | .accStat _ d a => some ⟨e, w, 0x7A#7, d, a, 8#7⟩
  | .mfence d => some ⟨e, w, 0x7B#7, d, 0#7, 0#7⟩
  | .mwaitb d a => some ⟨e, w, 0x7B#7, d, a, 1#7⟩
  | .cpass d => some ⟨e, w, 0x7B#7, d, 0#7, 3#7⟩
  | .lstat d => some ⟨e, w, 0x7B#7, d, 0#7, 5#7⟩
  | .nop => some ⟨e, w, 0x00#7, 0#7, 0#7, 0#7⟩
  | .yield => some ⟨e, w, 0x00#7, 0#7, 0#7, 1#7⟩
  | .exit => some ⟨e, w, 0x00#7, 0#7, 0#7, 2#7⟩
  | .join => some ⟨e, w, 0x00#7, 0#7, 0#7, 3#7⟩
  | .tret => some ⟨e, w, 0x00#7, 0#7, 0#7, 4#7⟩
  | .tretSkip => some ⟨e, w, 0x00#7, 0#7, 1#7, 4#7⟩
  | .tfence => some ⟨e, w, 0x00#7, 0#7, 0#7, 5#7⟩
  | .brk => some ⟨e, w, 0x00#7, 0#7, 0#7, 6#7⟩
  | .hvc => some ⟨e, w, 0x00#7, 0#7, 0#7, 8#7⟩
  | .texit => some ⟨e, w, 0x00#7, 0#7, 0#7, 9#7⟩
  | .halt => some ⟨e, w, 0x00#7, 0#7, 0#7, 10#7⟩
  | .barTeam => some ⟨e, w, 0x0A#7, 0#7, 0#7, 0#7⟩
  | .barClu => some ⟨e, w, 0x0A#7, 0#7, 0#7, 1#7⟩
  | .barGrid => some ⟨e, w, 0x0A#7, 0#7, 0#7, 2#7⟩
  | .gangClr => some ⟨e, w, 0x78#7, 0#7, 0#7, 4#7⟩
  | .ctake => some ⟨e, w, 0x7B#7, 0#7, 0#7, 2#7⟩
  | .lrel => some ⟨e, w, 0x7B#7, 0#7, 0#7, 4#7⟩
  | .nrmRead => none
  | .cycloRead => none
  | .aflagsRead => none
  | .rspeekWrite => none
  | .ctxbaseWrite => none
  | .ctxbaseTakeEffect => none
  | .boundPublishArrival => none
  | .ringStepStart => none
  | .ringStepComplete => none
  | .beamEntryArrival => none
  | .beamCreditReturn => none
  | .beamRealignmentDue => none
  | .beamRealignmentStart => none
  | .beamRealignmentComplete => none
  | .upperDeckGate => none
  | .upperDeckUngate => none
  | .refreshWindowStart => none
  | .refreshWindowEnd => none
  | .columnRefreshRateChange => none
  | .residencyRequest => none
  | .tlbInvalidationArrival => none
  | .tlbInvalidationAck => none
  | .shootdownComplete => none
  | .tableWalk => none
  | .walkAheadFetch => none
  | .copyComplete => none
  | .rendezvousComplete => none
  | .matrixOperationStart => none
  | .matrixOperationComplete => none
  | .accStnComplete => none
  | .allocGrant => none
  | .carryGrant => none
  | .licenceGrant => none
  | .licenceIdleRelease => none
  | .licenceRelease => none
  | .issueArbitration => none
  | .runLimit => none
  | .activeSetEntry => none
  | .activeSetEviction => none
  | .quantumExpiry => none
  | .fixedLatencyWriteback => none
  | .interlockedWriteComplete => none
  | .pathReady => none
  | .breakpointTrap => none
  | .singleStepTrap => none
  | .monitorWriteWake => none
  | .monitorLineLoss => none
  | .monwTimeout => none
  | .taskPacketArrival => none
  | .overflowPacketReturn => none
  | .waveFormation => none
  | .parkedContextResume => none
  | .waitCounterCheck => none
  | .teamPlacement => none
  | .priorityAging => none
  | .sliceEnd => none
  | .preemptionStop => none
  | .contextSave => none
  | .contextRestore => none
  | .teamKill => none
  | .gridEnd => none
  | .holdRequest => none
  | .debugHalt => none
  | .debugResume => none
  | .debugRdreg => none
  | .debugWrreg => none
  | .debugRdmem => none
  | .debugWrmem => none
  | .debugStep => none
  | .debugSetbp => none
  | .debugClrbp => none
  | .debugList => none
  | .writePropagation => none
  | .cacheUncorrectableError => none
  | .dieLoss => none
  | .directoryRebuildComplete => none
  | .hostSnoop => none
  | .hostMemoryAccess => none
  | .remoteRequestReceive => none
  | .remoteResponseReceive => none
  | .requestTimeout => none
  | .sequenceGap => none
  | .nackReceive => none
  | .flitReplay => none
  | .portDown => none
  | .planeRemap => none
  | .planeRecovery => none
  | .portWidthChange => none
  | .subscriptionPush => none
  | .spdmSession => none
  | .domainKeyLoad => none
  | .memberMaskUpdate => none
  | .rekeyBarrierSend => none
  | .rekeySwitch => none
  | .rekeyTimeout => none
  | .collectiveComplete => none
  | .collectiveTimeout => none
  | .powerSample => none
  | .tarUpdate => none
  | .thermalTrip => none
  | .thermalShutdown => none
  | .coldReset => none
  | .warmReset => none
  | .hostLinkTrain => none
  | .kill => none
  | .healthCounterRead => none
  | .managementRegisterWrite => none
  | .coreFence => none
  | .blockFence => none
  | .ownerKeyAssign => none
  | .ownerKeyRelease => none
  | .writePerformed => none
  | .peerNumberAssignment => none

/-- The prefix word with a payload: E and W zero, major 0x7F (R25). -/
def pfxWord (p : BitVec 21) : Word := 0#4 ++ 0x7F#7 ++ p

/-- The words of an instruction, the prefix word first; none for a step without a word. -/
def encode (e : Bool) (w : BitVec 3) (i : Instr) : Option (List Word) :=
  match i.fields e w with
  | none => none
  | some f =>
    match i.payloadArg with
    | none => some [wordOf f]
    | some p => some [pfxWord p, wordOf f]

/-- The bytes of a word as the hardware stores them (R18). -/
def wordBytes (w : Word) : List Byte :=
  [w.extractLsb' 0 8, w.extractLsb' 8 8, w.extractLsb' 16 8, w.extractLsb' 24 8]

/-- The bytes of a number's first `nbits` bits, then zero bytes up to the eight of the longest instruction. -/
def tableBytes (nbits w : Nat) : List Byte := bytesOf 8 (w % 2 ^ nbits)

/-- What the decoder reads from an instruction whose bits are `w`. -/
def decodeTableWord (nbits w : Nat) : Option Instr :=
  match decode (tableBytes nbits w) with
  | .ok (d, _) => some d.i
  | .error _ => none

end Sys2Proof
end

