-- ==== Sys2Proof/Machine/State.lean ====
section
/-! DEFINITION. The state of the machine: everything the spec gives the device, as plain data, and its value at reset. -/

namespace Sys2Proof.Machine

/-- A finite map as a list of key and value pairs; the first pair of a key counts. -/
abbrev KMap (κ α : Type) := List (κ × α)

/-- The three modes of R326. -/
inductive Mode where
  | user
  | supervisor
  | hypervisor
deriving DecidableEq, Repr

/-- The trap causes of R332. -/
inductive Cause where
  | illegal | uniform | priv | sysc | hvc | brk | arith | stallchk
  | pageInvalid | pagePerm | align | nearRange | poison | fabric | key | gangBroken | rsOverflow | window | accum
deriving DecidableEq, Repr

/-- The current path of a group: program counter, active mask and FMT (R72, R106). -/
structure Path where
  pc  : Word
  ex  : Word
  fmt : Word
deriving DecidableEq, Repr

/-- What a suspended path waits for, and what it writes when it becomes ready (R265). -/
inductive Wait where
  /-- MONW (R272): allocation register of the reason, deadline cycle if any. -/
  | monw (reg : Nat) (deadline : Option Nat)
  /-- TJOIN (R280) on join records at these physical addresses; the path re-executes. -/
  | join (recs : List Nat)
  /-- FGET (R283) on futures at these physical addresses; the path re-executes. -/
  | future (cells : List Nat)
  /-- A barrier phase (R267): 0 team, 1 cluster, 2 grid. -/
  | barrier (which : Nat)
  /-- The wait has ended; the path becomes ready at PATH_READY (R76). -/
  | over
deriving DecidableEq, Repr

/-- The state of a path entry (R73): ready, joined at its mark, or suspended. -/
inductive PathState where
  | ready
  | joined
  | suspended (w : Wait)
deriving DecidableEq, Repr

/-- The kind of a stack entry, with what only that kind holds (R73). -/
inductive EntryKind where
  | mark
  | path (st : PathState)
  /-- The mode before the trap, and its trapping lanes when its cause is not SYSC, HVC or BRK (R278). -/
  | trap (mode : Mode) (faulted : Word)
deriving DecidableEq, Repr

/-- An entry of the reconvergence stack (R73). -/
structure Entry where
  kind : EntryKind
  pc   : Word
  mask : Word
  fmt  : Word
deriving DecidableEq, Repr

/-- The trap registers of one mode (R103, R105). -/
structure Bank where
  tvec   : Word := 0#32
  tcause : Word := 0#32
  taddr  : DWord := 0#64
  tmask  : Word := 0#32
  tpc    : Word := 0#32
deriving DecidableEq, Repr

/-- An allocation register: its value in each lane, and its uniform tag (R95, R100). -/
structure RegVal where
  vals : Lanes Word
  uni  : Bool
deriving DecidableEq, Repr

/-- A register write that has issued and not completed (R68, R69): the allocation register and lanes it is bound to (R99), the
values, the flags that its computation raised (R57), the lanes whose load met an absent page (R104), for a fixed latency the counted beats that are left (none marks an interlocked
result), and, for a result that another step of the device brings, its number and the lanes that have no answer yet. -/
structure PendWrite where
  reg    : Nat
  mask   : Word
  vals   : Lanes Word
  flags  : Lanes (BitVec 5) := uniformLanes 0#5
  absent : Word := 0#32
  left   : Option Nat
  await  : Option (Nat × Word) := none
deriving DecidableEq, Repr

/-- The monitor of a group (R270, R271): whether it is armed, the address of its line, the physical line where the page is resident, and a
pending reason. -/
structure Monitor where
  armed  : Bool := false
  addr   : DWord := 0#64
  line   : Option Nat := none
  reason : Option (BitVec 2) := none
deriving DecidableEq, Repr

/-- The batch state of tile copies or of matrix operations (R172, R173, R200). TDONE and MDONE follow from it and from the work in
flight. -/
structure Batch where
  committed : Word := 0#32
  /-- Operations issued so far in the open batch. -/
  opened    : Nat := 0
  /-- Status accumulator. -/
  status    : Word := 0#32
  /-- The first-fault record: batch, index in the batch, and the offset or handle. -/
  fault     : Option (Word × Word × Word) := none
deriving DecidableEq, Repr

/-- A lane of a remote instruction that has failed: lane, offset, reason code of R306. -/
structure RFail where
  lane   : Nat
  off    : Nat
  reason : Nat
deriving DecidableEq, Repr

/-- A posted remote instruction that lacks responses: its number, its offset, the requests without a response, and the lanes that have
failed (R311, R315). -/
structure PostedOp where
  id      : Nat
  pc      : Word
  waiting : List Nat
  fails   : List RFail
  /-- It is an atomic, whose read a fence may wait for (R316). -/
  reads   : Bool := false
deriving DecidableEq, Repr

/-- A blocking remote instruction whose requests are out (R311, R314): its path and next PC, the allocation register of D and its width in
words, the beats and the counted distance that it takes, the requests without a response, whether some lane is misaligned, and what has come. -/
structure RemoteOp where
  path    : Path
  npc     : Word
  reg     : Nat
  words   : Nat
  beats   : Nat
  w       : Nat
  waiting : List Nat
  align   : Bool
  answers : List RAnswer
  fails   : List RFail
  /-- The requests to the device itself, which it serves once the others have their responses (R328). -/
  own     : List Nat := []
  /-- The requests ask for the checks of the lanes alone (R328, R330). -/
  probe   : Bool := false
deriving DecidableEq, Repr

/-- An unreported failure of a posted remote instruction, by the instruction's number (R315). -/
structure PFail where
  id     : Nat
  offset : DWord
  pc     : Word
  lanes  : Word
  reason : BitVec 8
deriving DecidableEq, Repr

/-- A fence whose wait is not over (R233): its kind and scope as encoded. -/
structure FenceRec where
  kind  : Nat
  scope : Nat
deriving DecidableEq, Repr

/-- The A cursor and scale window of a group (R189, R190). -/
structure Cursor where
  near : Bool := false
  c0   : Word := 0#32
  /-- c1 in the global mode, NBASE in the near mode. -/
  c1   : Word := 0#32
  win  : Word := 0xFFFFFFFF#32
deriving DecidableEq, Repr

/-- A resident group (R5, R72 to R107, R345). -/
structure Group where
  wsize  : Nat := 8
  regs   : KMap Nat RegVal := []
  /-- Writes on their way, oldest first. -/
  pend   : List PendWrite := []
  wbasev : Nat := 0
  cur    : Option Path := none
  /-- The reconvergence stack, bottom first. -/
  stack  : List Entry := []
  mode   : Mode := .user
  quantum : Nat := 0
  runLen  : Nat := 0
  sbank  : Bank := {}
  hbank  : Bank := {}
  aflags : Lanes (BitVec 5) := uniformLanes 0#5
  aen    : Lanes (BitVec 5) := uniformLanes 0#5
  nrm    : Word := 0#32
  cychi  : Word := 0#32
  /-- RSPEEK: entry index and word (R103). -/
  rspeek : BitVec 7 := 0#7
  /-- GANGV: mask and validity; RVN (R103, R192). -/
  gang   : BitVec 24 := 0#24
  rvn    : BitVec 7 := 0#7
  gangOk : Bool := false
  cursor : Cursor := {}
  tb     : Batch := {}
  mb     : Batch := {}
  mon    : Monitor := {}
  /-- Lanes arrived in the open phase of the team, cluster and grid barrier (R266). -/
  arrTeam : Word := 0#32
  arrClu  : Word := 0#32
  arrGrid : Word := 0#32
  /-- Posted remote instructions without all their responses (R311), and unreported failures, oldest first (R315). -/
  posted : List PostedOp := []
  pfail  : List PFail := []
  /-- A blocking remote instruction that waits for its responses (R311). -/
  remote : Option RemoteOp := none
  /-- STEP (R350). -/
  step   : Bool := false
  /-- The BRK of a single step is due once the group has a path (R350). -/
  stepDue : Bool := false
  /-- The PC at which the next instruction is exempt from a breakpoint (R350). -/
  exempt : Option Word := none
  /-- The PC of the remote atomic whose lanes have all passed their checks before any takes effect (R328, R330; log 70). -/
  checked : Option Word := none
  /-- A wave group (R277): its task lanes and their join records. -/
  wave   : Bool := false
  tasks  : Word := 0#32
  joins  : Lanes DWord := uniformLanes 0#64
  /-- Fences whose waits are not over, oldest first (R233). -/
  fences : List FenceRec := []
  /-- Number of its last instruction in the order of issue, 0 before its first (R66), and the cycle from which it has had no ready run (R67). -/
  lastIssue : Nat := 0
  unready : Option Nat := none
  /-- The first cycle at which a run may start after entry into the active set, and the registers in the register cache, newest first (R67). -/
  runFrom : Nat := 0
  cached  : List Nat := []
deriving DecidableEq, Repr

/-- A launch record's fields (R289). -/
structure LaunchRec where
  codeBase : DWord := 0#64
  entry    : Word := 0#32
  teamsm1  : Word := 0#32
  param    : DWord := 0#64
  tsize    : Nat := 1
  regs     : Nat := 0
  clw      : Nat := 0
  clh      : Nat := 0
  coloc    : Nat := 0
  prio     : Nat := 0
  stchk    : Bool := false
  tiles    : Nat := 0
  taskw    : Nat := 0
  beam     : Bool := false
  tlbs     : Nat := 0
  lright   : Bool := false
  colu     : Nat := 0
  pword    : Word := 0#32
  sprows   : Nat := 0
  sliceus  : Nat := 0
  wait0a   : DWord := 0#64
  wait0t   : DWord := 0#64
  wait1a   : DWord := 0#64
  wait1t   : DWord := 0#64
  done     : DWord := 0#64
  shb      : DWord := 0#64
  ptb      : DWord := 0#64
  asid     : BitVec 16 := 0#16
  tdom     : BitVec 10 := 0#10
  isSealed : Bool := false
  ownkey   : BitVec 12 := 0#12
  tqovf    : DWord := 0#64
  tqlog    : Nat := 0
deriving DecidableEq, Repr

/-- A handle slot (R167): generation and tensor record. -/
structure HandleSlot where
  gen : BitVec 8 := 0#8
  tr  : Option (BitVec 1024) := none
deriving DecidableEq, Repr

/-- An accumulator tile slot (R196, R199). -/
structure Tile where
  alloc  : Bool := false
  gen    : BitVec 8 := 0#8
  /-- 64 rows of 64 columns of 40-bit cells, row by row; a cell that is not listed is zero. -/
  cells  : KMap Nat (BitVec 40) := []
  status : Word := 0#32
deriving DecidableEq, Repr

/-- Where an image goes (R341, R342): the directory entry, whether it lies in the overflow area, its address, and its length in bytes. -/
structure ImageRoom where
  entry : Nat
  ovf   : Bool
  addr  : Nat
  len   : Nat
deriving DecidableEq, Repr

/-- A resident team (R5, R95, R142, R143, R344). -/
structure Team where
  core     : Nat := 0
  base     : Nat := 0
  /-- Scratchpad bytes that are not zero, and words in error (R142, R146). -/
  spad     : List Host.Cell := []
  spadBad  : List Nat := []
  spRows   : Nat := 0
  /-- The column allotment: first unit and number of units of 64 KiB (R143). -/
  colUnit  : Nat := 0
  colUnits : Nat := 0
  handles  : KMap Nat HandleSlot := []
  tiles    : KMap Nat Tile := []
  allocN   : BitVec 8 := 0#8
  teamC    : Word := 0#32
  cluC     : Word := 0#32
  /-- RROT steps issued (R154). -/
  ringN    : Word := 0#32
  asid     : BitVec 16 := 0#16
  ptb      : DWord := 0#64
  tdom     : BitVec 10 := 0#10
  isSealed : Bool := false
  ownkey   : BitVec 12 := 0#12
  shb      : DWord := 0#64
  /-- The cycle at which the slice ends (R295). -/
  slice    : Nat := 0
  /-- BP0 to BP3 (R344). -/
  bps      : KMap Nat Word := []
  usedMatrix : Bool := false
  /-- The slice of the L1 TLB: first set and number of sets (R256). -/
  tlbBase  : Nat := 0
  tlbSets  : Nat := 64
  /-- Saves so far (R344 SEQ). -/
  seq      : Nat := 0
  /-- The team has been stopped for a pre-emption, whether it is then held, the directory entry that a hold request named, and whether it is
  to be rotated off a hot pair (R296, R338, R339, R352). -/
  stop     : Bool := false
  hold     : Bool := false
  holdAt   : Option Nat := none
  rotate   : Bool := false
  /-- The room kept for the image of a team that has been stopped (R341). -/
  room     : Option ImageRoom := none
  /-- A pre-emption waits for room for the images (R341). -/
  asked    : Bool := false
  /-- The kill of the team has been asked for (R349). -/
  killed   : Bool := false
  /-- Its last group has retired: what is left of it waits for its copies, matrix operations and ring steps (R92, R155, R176, R198). -/
  gone     : Bool := false
deriving DecidableEq, Repr

/-- A task packet (R276): its owner team, entry PC, argument and join addresses and task id; the sender's pending result and lane; and
the cycle from which it waits in the store (R277). -/
structure Packet where
  owner : TKey
  entry : Word
  arg   : DWord
  join  : DWord
  id    : Word
  sender : GKey
  token : Nat
  lane  : Nat
  since : Nat
deriving DecidableEq, Repr

/-- An issued step of a cluster's ring sequence (R154, R155): the team's source, destination and length, the pending status, and, once the
step has started, the bytes that the team sends and its words in error among them. -/
structure RingStep where
  team  : TKey
  step  : Word
  src   : Nat
  dst   : Nat
  len   : Nat
  key   : GKey
  token : Nat
  sent  : Option (List Byte × List Nat) := none
deriving DecidableEq, Repr

/-- A bound slot of a cluster (R287, R288): the value that every copy holds, and the publishes and resets after it that some copy lacks,
in issue order, with the ranks that they have reached. -/
structure BoundOp where
  id    : Nat
  /-- 0 PUBMIN, 1 PUBMAX, 3 RESET. -/
  fn    : Nat
  value : DWord
  seen  : List Nat
  /-- The cycle of its issue (R288). -/
  since : Nat := 0
deriving DecidableEq, Repr
/-- A bound slot (R287). -/
structure Bound where
  base : DWord := 0#64
  ops  : List BoundOp := []
deriving DecidableEq, Repr

/-- A group in a spare context (R284): its registers that the live mask names, the mask, and the futures of its lanes. -/
structure Parked where
  team  : TKey
  g     : Group
  live  : Word
  cells : List Nat
deriving DecidableEq, Repr

/-- What a copy moves (R180, R181). -/
inductive CopyKind where
  /-- TCOPY and TSTORE: the record, the scratchpad offset, and the origins. -/
  | tile (store : Bool) (record : BitVec 1024) (spad : Nat) (origin : List Int)
  /-- LCOPY: source and destination layer address and the length. -/
  | layer (src dst : DWord) (len : Nat)
deriving DecidableEq, Repr

/-- A copy that has issued and is not complete (R168 to R176). -/
structure Copy where
  id    : Nat
  key   : GKey
  core  : Nat
  kind  : CopyKind
  bar   : Option Nat
  mode  : Mode
  batch : Word
  idx   : Nat
  /-- Its group has retired: its status is dropped (R176). -/
  orphan : Bool := false
deriving DecidableEq, Repr

/-- A gang of a partition (R191). -/
structure GangId where
  team : TKey
  mask : BitVec 24
deriving DecidableEq, Repr

/-- A member that waits at the latch (R192): its path, the offset of its next instruction, its first slice register in the allocation, its
wait count, and the lanes that will have issued. -/
structure Arrival where
  key  : GKey
  path : Path
  npc  : Word
  breg : Nat
  w    : Nat
deriving DecidableEq, Repr

/-- An open rendezvous (R192): the operand set that the first arrival recorded, the record its handle named, and the arrivals. -/
structure Latch where
  gang    : GangId
  d       : Word
  a       : Word
  fmt     : Word
  cursor  : Cursor
  payload : Nat
  rvn     : BitVec 7
  record  : BitVec 1024
  arrivals : List Arrival
deriving DecidableEq, Repr

/-- A write to global memory that has issued and is not at its home yet (R214, R241): its number, the writing core, the bytes
from a physical address on, the scope it was issued at, and the scope within which it is visible so far. -/
structure PWrite where
  id    : Nat
  core  : Nat
  pa    : Nat
  bytes : List Byte
  scope : Nat
  reach : Nat
  /-- The cycle of its issue (R241). -/
  since : Nat
deriving DecidableEq, Repr

/-- Where a byte lies: at a physical address, in the scratchpad of a team, or in the column of a core. -/
inductive Place where
  | mem (pa : Nat)
  | spad (t : TKey) (off : Nat)
  | column (core off : Nat)
deriving DecidableEq, Repr

/-- A byte that a group has written since its last FENCE.ASYNC, over which no other agent has written since, and its value before: an asynchronous
operation of the group may still find it as it was (R201). -/
structure OwnNote where
  key   : GKey
  place : Place
  old   : Byte
deriving DecidableEq, Repr

/-- What an operation may have seen of memory when it entered its queue (R201): global memory, and its team's scratchpad and core's column, with
their errors. -/
structure Sight where
  mem      : List Host.Cell
  writes   : List PWrite
  poisoned : List Nat
  lost     : List (Nat × Nat)
  keyGen   : KMap Nat Nat
  lineKeys : KMap Nat (Nat × Nat)
  spad     : List Host.Cell
  spadBad  : List Nat
  column   : List Host.Cell
  colBad   : List Nat
deriving DecidableEq, Repr

/-- A member of a queued operation: its batch, its index there, and its slice of B (R188, R200). -/
structure MatMember where
  key   : GKey
  batch : Word
  idx   : Nat
  slice : List (Lanes Word)
  /-- The allocation register at which the slice starts (R188, R201). -/
  breg  : Nat := 0
  /-- The member has retired: its status is dropped (R202). -/
  orphan : Bool := false
deriving DecidableEq, Repr

/-- An operation or ACC STN in a matrix queue (R184, R187, R209). -/
structure MatOp where
  id      : Nat
  team    : TKey
  members : List MatMember
  handle  : Word
  fmt     : Word
  half    : Bool := false
  cursor  : Cursor := {}
  record  : BitVec 1024 := 0
  /-- For an STN: the scratchpad offset and the format. -/
  stn     : Option (Nat × Nat) := none
  /-- TAR as sampled at the start (R185). -/
  tar     : Option Nat := none
  old     : Option Sight := none
deriving DecidableEq, Repr

/-- An admitted grid (R289 to R297). -/
structure Grid where
  lr       : LaunchRec := {}
  launcher : Mode := .user
  eligible : Bool := false
  /-- The wait counters that have been seen at their thresholds (R292). -/
  seen0    : Bool := false
  seen1    : Bool := false
  /-- Raise of the priority by ageing, and the cycle it counts from (R294). -/
  raise    : Nat := 0
  agedAt   : Nat := 0
  gridC    : Word := 0#32
  /-- The next team index to place, and the teams that have ended (R293, R297). -/
  nextTeam : Nat := 0
  ended    : List Nat := []
  /-- The RROT counts of teams that have ended (R155). -/
  ringEnd  : KMap Nat Word := []
  /-- Teams that have arrived in the open phase of the grid barrier (R266). -/
  arrived  : List Nat := []
  /-- Task packets in the overflow area, oldest first (R274). -/
  overflow : List Packet := []
  /-- Co-location: any core of the instance chosen (R293). -/
  instOf   : Option Nat := none
deriving DecidableEq, Repr

/-- The state of a core that no team owns (R1, R4, R93, R103, R197, R210, R274, R341, R368). -/
structure Core where
  /-- The partition word in force (R93). -/
  pword   : Word := 0#32
  /-- Column bytes that are not zero, and 32-byte bursts in error (R4, R146). -/
  column  : List Host.Cell := []
  colBad  : List Nat := []
  /-- Fenced; corrected errors of the last hour (R368). -/
  fenced  : Bool := false
  corrected : Nat := 0
  /-- CTXBASE [21:16], and the pending offset (R341). -/
  ctx     : Nat := 0x24
  ctxPend : Option Nat := none
  /-- SPAWNs counted (R276), and the task store, oldest packet first (R274). -/
  spawnN  : Nat := 0
  store   : List Packet := []
  /-- Groups whose ALLOC waits for tiles, with their counts; 0 where a grant to the team has ended the wait (R197). -/
  allocQ  : List (GKey × Nat) := []
  /-- The cycle since which the matrix units are idle (R194, R210). -/
  idleFrom : Nat := 0
deriving DecidableEq, Repr

/-- The state of a partition (R1). -/
structure Part where
  /-- The groups of the active set, at most eight (R67). -/
  active : List GKey := []
  /-- Credits toward the twin's inbound FIFO, and those on their way back (R159). -/
  credits : Nat := 16
  returning : Nat := 0
  /-- The inbound FIFO, and the entries on their way to it, oldest first (R156, R160). -/
  fifo    : List (Lanes Word) := []
  transit : List (Lanes Word) := []
  /-- Entries in transit, the oldest, whose holder is gone: they are discarded when they arrive (R156). -/
  doomed  : Nat := 0
  /-- The carry and its queue (R193), the latches (R192) and the matrix queue (R184). -/
  carry   : Option GangId := none
  carryQ  : List GangId := []
  latches : List Latch := []
  matQ    : List MatOp := []
  /-- Spare contexts in use (R284). -/
  parked  : List Parked := []
deriving DecidableEq, Repr

/-- How far a realignment of a beam has come (R163). -/
inductive Realign where
  | idle
  | deferred
  | running
deriving DecidableEq, Repr

/-- The state of a pair (R3, R4, R148, R156, R163, R194, R357, R358). -/
structure Pair where
  /-- The window: slot s of partition p at 8p + s; a slot that is not listed is zero. -/
  window  : KMap Nat (Lanes Word) := []
  realign : Realign := .idle
  /-- The core that holds the matrix licence, the cores that ask for it, the mark of LREL, and that of a core without matrix-using teams. -/
  licence : Option Nat := none
  wants   : List Nat := []
  /-- The cycle of the last request for the licence. -/
  askedAt : Nat := 0
  lrelp   : Bool := false
  ldrop   : Bool := false
  tar     : Nat := 0x10000
  pt      : Nat := 0x10000
  hot     : Bool := false
  hotAt   : Nat := 0xA000
  clearAt : Nat := 0xC000
  /-- The column region of the pair: the reading of its sensor, doubled rate, refresh window (R4, R148, R357). -/
  temp    : Nat := 0
  doubled : Bool := false
  refresh : Bool := false
deriving DecidableEq, Repr

/-- A saved team (R341 to R347): the core whose directory names it and the entry's index, where its image lies and its length in KiB; and what
the image layout has no field for: the team's other state, that of its groups with their waits, its parked contexts with their partitions, the
entries of its inbound FIFOs, the packets that the overflow area did not take, and the count of grid barrier phases at the save. -/
structure Saved where
  team    : TKey
  core    : Nat
  entry   : Nat
  ovf     : Bool
  addr    : Nat
  lenK    : Nat
  keep    : Team
  groups  : KMap GKey Group
  parks   : List (Nat × Parked)
  fifo    : List Nat
  packets : List Packet
  gridC   : Word
  /-- A beam team whose deck has been gated since its save (R162). -/
  gatedOff : Bool := false
deriving DecidableEq, Repr

/-- A domain entry and member mask (R298, R299), and the steps of a re-key in progress (R308). -/
structure Domain where
  heapb   : DWord := 0#64
  heapsz  : DWord := 0#64
  ptb     : DWord := 0#64
  asid    : BitVec 16 := 0#16
  ownkey  : BitVec 12 := 0#12
  valid   : Bool := false
  isSealed : Bool := false
  ksel    : Bool := false
  nextv   : Bool := false
  members : List Nat := []
  paused  : Bool := false
  /-- Members that join with this re-key, the own barrier sent, and the members whose barriers have come. -/
  joining : List Nat := []
  sentBarrier : Bool := false
  barriers : List Nat := []
deriving DecidableEq, Repr

/-- The receiving end of a stream (R305): the highest number accepted, those accepted within the window with the cycle of each, and those that a
NACK has given up. -/
structure StreamIn where
  high  : Option Nat := none
  seen  : List (Nat × Nat) := []
  given : List Nat := []
deriving DecidableEq, Repr

/-- Who waits for a remote request: a blocking instruction, a posted one by its number, an RSUBS with the number of its result, or no group. -/
inductive Asker where
  | blocking (key : GKey)
  | posted (key : GKey) (op : Nat)
  | status (key : GKey) (token : Nat)
  /-- The posted instruction `op` of a group that has retired since, on a core (R315). -/
  | retired (core op : Nat)
  /-- An RSUBS of a grid that has ended since (R318). -/
  | lapsed
  | nobody
deriving DecidableEq, Repr

/-- A request without a response (R305, R311): domain, peer, sequence number, plane and its entry in the plane map, what it asks, who asked, and
the cycle at which it was sent. -/
structure Request where
  id    : Nat
  dom   : Nat
  peer  : Nat
  seq   : Nat
  plane : Nat
  entry : Nat
  kind  : RKind
  lanes : List RLane
  asker : Asker
  sent  : Nat
deriving DecidableEq, Repr

/-- What a packet of the device carries (R302 to R320). -/
inductive Body where
  | request (kind : RKind) (lanes : List RLane)
  /-- The answers to a request, by its number, and the line that they touch. -/
  | response (num : Nat) (answers : List RAnswer) (line : List Byte)
  | status (num code : Nat)
  /-- A number of the receiver's stream that has not come (R305). -/
  | nack (num : Nat)
  /-- Bytes that a tile copy writes into a peer's heap, and whether they come from an error (R170). -/
  | write (off : Nat) (bytes : List Byte) (bad : Bool)
  | push (off : Nat) (bytes : List Byte) (bad : Bool)
  | ack (off : Nat)
  | barrier
  /-- A tile copy asks for bytes of a peer's heap. -/
  | read (off n : Nat)
  /-- What a participant tells the others of a collective before data moves: tag, OP, DTYPE, REDOP, COUNT, ROOT and PSET (R325), and elements of its
  send buffer, with those that are poisoned. -/
  | collHead (tag : Nat) (bytes : List Byte)
  | collData (tag : Nat) (bytes : List Byte) (bad : List Nat)
deriving DecidableEq, Repr

/-- A packet that the device has sent (R301, R304): the receiver, the domain, its number in the stream, its plane, the key slot in use, the IV, and
whether a seal and its tag end it. -/
structure OutPacket where
  peer  : Nat
  dom   : Nat
  seq   : Nat
  plane : Nat
  slot  : Nat
  iv    : BitVec 96
  tag   : Bool
  body  : Body
deriving DecidableEq, Repr

/-- A packet that waits until it may go (R302, R309): the receiver, the domain, the device whose line it concerns, the offset, and what it carries;
a request also has who asked. -/
structure HeldPacket where
  peer  : Nat
  dom   : Nat
  home  : Nat
  off   : Nat
  body  : Body
  asker : Option Asker := none
deriving DecidableEq, Repr

/-- A flit of a packet of a stream (R302). -/
structure Flit where
  dom  : Nat
  peer : Nat
  seq  : Nat
  idx  : Nat
deriving DecidableEq, Repr

/-- A push that its subscriber has not acknowledged (R320). -/
structure PushOut where
  id   : Nat
  peer : Nat
  dom  : Nat
  off  : Nat
deriving DecidableEq, Repr

/-- A response that waits for the acknowledgements of pushes (R316). -/
structure Owed where
  peer    : Nat
  dom     : Nat
  num     : Nat
  answers : List RAnswer
  off     : Nat
  waits   : List PushOut
deriving DecidableEq, Repr

/-- A fabric port (R302, R303). -/
structure Port where
  up    : Bool := false
  lanes : Nat := 2
  /-- The last 64 flits that are not acknowledged, oldest first, and the replays that the oldest of them has failed. -/
  replay : List Flit := []
  tries : Nat := 0
deriving DecidableEq, Repr

/-- A subscribed region of a peer's heap (R318): the grid that made it. -/
structure Subscription where
  slot : Nat
  peer : Nat
  dom  : Nat
  page : Nat
deriving DecidableEq, Repr

/-- A region of the own heap that peers subscribe to (R318): offset / 4096, and the subscribers. -/
structure HomeRegion where
  dom  : Nat
  page : Nat
  subs : List Nat
deriving DecidableEq, Repr

/-- A line of a subscribed region in state U, by its offset / 128, or in state P, in the L2 slice of a block (R235, R237, R320). -/
structure UCopy where
  block : Nat
  peer  : Nat
  dom   : Nat
  line  : Nat
  bytes : List Byte
  bad   : Bool
deriving DecidableEq, Repr

/-- A collective at work (R321, R325): its record, the participants, its domain, and the cycle of its start. -/
structure CollRun where
  record : BitVec 512
  parts  : List Nat
  dom    : Nat
  start  : Nat
deriving DecidableEq, Repr

/-- A collective slot (R324): generation, the grid that last took it, and what runs in it; the status once it has completed, and a number that
grows with each completion. -/
structure Coll where
  gen     : BitVec 8 := 0#8
  slot    : Option Nat := none
  running : Option CollRun := none
  /-- The address space of the starter, its mode, and its core (R325). -/
  asid    : BitVec 16 := 0#16
  ptb     : DWord := 0#64
  ownkey  : BitVec 12 := 0#12
  mode    : Mode := .user
  core    : Nat := 0
  status  : Word := 0#32
  doneAt  : Nat := 0
deriving DecidableEq, Repr

/-- The states of a cached copy (R237); I is the absence of a copy. -/
inductive LineState where
  | m | o | e | s | u | p
deriving DecidableEq, Repr

/-- A cache: the L1 of a core or the L2 slice of a block (R235). -/
inductive CacheUnit where
  | l1 (core : Nat)
  | l2 (block : Nat)
deriving DecidableEq, Repr

/-- A cached copy: a 128-byte line of the device's memory, or a 64-byte sector of host memory, by its base (R235, R244). -/
structure CacheLine where
  cache : CacheUnit
  base  : Nat
  st    : LineState
  /-- The policy of the access that brought it (R215). -/
  pol   : Nat := 0
deriving DecidableEq, Repr

/-- Where a TLB stands: the L1 TLB or the walk-ahead TLB of a core, the L2 TLB of a block (R169, R256, R257). -/
inductive TlbUnit where
  | l1 (core : Nat)
  | ahead (core : Nat)
  | l2 (block : Nat)
deriving DecidableEq, Repr

/-- A TLB entry: its set, address space, level of the leaf, page number at that level, and the leaf entry (R250, R256). -/
structure TlbEntry where
  tlb  : TlbUnit
  set  : Nat
  asid : BitVec 16
  lvl  : Nat
  page : Nat
  leaf : DWord
deriving DecidableEq, Repr

/-- A table entry that a block's walker has cached (R257): address space, level, page number at that level, and the next table. -/
structure TableEntry where
  block : Nat
  asid  : BitVec 16
  lvl   : Nat
  page  : Nat
  next  : Nat
deriving DecidableEq, Repr

/-- A walk in flight (R257, R258): the TLB it will fill, what it translates, the leaf it has read, and whether an invalidation has
made it stale. -/
structure WalkRec where
  tlb   : TlbUnit
  asid  : BitVec 16
  va    : Nat
  lvl   : Nat
  leaf  : DWord
  stale : Bool
deriving DecidableEq, Repr

/-- A shootdown in progress (R258, R259, R262): the group that waits for it, the range, and the units that have not acknowledged. -/
structure Shootdown where
  id    : Nat
  key   : GKey
  asid  : BitVec 16
  lo    : Nat
  hi    : Nat
  /-- TLBs that the invalidation has not reached, and those that have not acknowledged it. -/
  unreached : List TlbUnit
  unacked   : List TlbUnit
deriving DecidableEq, Repr

/-- What the host sees of its accesses, its snoops and its reads of the aperture, in order (R246, R247, R362). -/
inductive HostAnswer where
  | register (off : Nat) (value : Word)
  | data (addr : Nat) (bytes : List Byte)
  | poison (addr : Nat)
  | refused (addr : Nat)
  | snoopClean (sector : Nat)
  | snoopDirty (sector : Nat)
  | snoopPoison (sector : Nat)
  /-- A back-invalidation snoop of a line of device memory that the host caches. -/
  | backInvalidate (line : Nat)
deriving DecidableEq, Repr

/-- Numbers of the host link as trained (R360). -/
structure HostLink where
  trained : Bool := false
  /-- GT/s per lane. -/
  rate    : Nat := 0
  width   : Nat := 0
deriving DecidableEq, Repr

/-- What a step of the device acts on; each such step's definition names the fields it reads. -/
structure EvArg where
  core : Nat := 0
  part : Nat := 0
  key  : GKey := ⟨0, 0, 0⟩
  n    : Nat := 0
  m    : Nat := 0
  k    : Nat := 0
  flag : Bool := false
  data : List Byte := []
  pkt  : Option RPacket := none
  pkts : List RPacket := []
  ans  : List RAnswer := []
deriving DecidableEq, Repr

/-- A step of the device that is due, with what it acts on. -/
structure Due where
  op  : Instr
  arg : EvArg := {}
deriving DecidableEq, Repr

/-- The whole state of the machine. -/
structure State where
  -- the package's memory and its writes on their way
  /-- Bytes of HBM and host memory that are not zero, by physical address (R396, R251). -/
  mem      : List Host.Cell := []
  /-- Writes not yet at their home, in coherence order (R219, R241). -/
  writes   : List PWrite := []
  nextWrite : Nat := 0
  /-- Lines in state P (R237, R238). -/
  poisoned : List Nat := []
  /-- Key slots that are loaded, how often each has been loaded anew, and the slot and load under which each line was last
  written (R252, R366). -/
  keys     : List Nat := [0]
  keyGen   : KMap Nat Nat := []
  lineKeys : KMap Nat (Nat × Nat) := []
  /-- Cached copies (R237), and host sectors that the snoop filter records as poisoned (R246). -/
  caches   : List CacheLine := []
  snoopBad : List Nat := []
  /-- Decks whose directories are being removed or rebuilt, and the lines lost with each (R242). -/
  rebuild  : List Nat := []
  lost     : List (Nat × Nat) := []
  /-- Steps that wait for the end of a rebuild (R243). -/
  delayed  : List Due := []
  /-- Bytes that groups have written without a FENCE.ASYNC since (R201). -/
  notes    : List OwnNote := []
  -- translation
  tlb      : List TlbEntry := []
  tables   : List TableEntry := []
  walks    : List WalkRec := []
  shoots   : List Shootdown := []
  nextShoot : Nat := 0
  -- the management aperture (R362, R363, R367)
  ready    : Bool := false
  bootFail : Bool := false
  fatal    : Bool := false
  thermTrip : Bool := false
  replace  : Bool := false
  degraded : Bool := false
  hlogb    : DWord := 0#64
  hlogn    : BitVec 16 := 0#16
  hlogt    : Word := 0#32
  killReg  : Word := 0#32
  killTeam : Word := 0#32
  /-- The teams that the last KILL named (R364). -/
  killNames : List TKey := []
  hcnt     : KMap Nat Word := []
  /-- What the host has been answered and asked (R246, R247), and the lines of device memory that it caches (R247). -/
  hostOut  : List HostAnswer := []
  hostCached : List Nat := []
  hostLink : HostLink := {}
  /-- The package is shut down, or before its first cold reset has no power (R359, R361). -/
  off      : Bool := false
  /-- Overflow image area and its length (R341), and the base of the mailboxes (R353). -/
  imgBase  : Nat := 0
  imgLen   : Nat := 0
  dbgBase  : Nat := 0
  -- power and heat
  /-- Sensors of block positions, by block number (R357). -/
  sensors  : KMap Nat Nat := []
  /-- Issue caps: of the package, and of decks with a sensor at 105 °C (R356, R359). -/
  capAll   : Bool := false
  hotDecks : List Nat := []
  /-- Upper decks that are power-gated (R162). -/
  gated    : List Nat := []
  /-- Upper decks that are to be gated once their teams are saved. -/
  gating   : List Nat := []
  -- the fabric
  selfPeer : Word := 0#32
  /-- The fabric manager has assigned a peer number (R298). -/
  numbered : Bool := false
  domains  : KMap Nat Domain := []
  ports    : KMap Nat Port := []
  planeMap : KMap Nat Nat := []
  /-- Entries of the plane map that a recovery moves, with their new planes (R302). -/
  moving   : List (Nat × Nat) := []
  /-- Next sequence number of each outgoing stream, by domain and peer, and the incoming streams (R304, R305). -/
  seqOut   : KMap (Nat × Nat) Nat := []
  seqIn    : KMap (Nat × Nat) StreamIn := []
  requests : List Request := []
  sent     : List OutPacket := []
  heldOut  : List HeldPacket := []
  /-- Domains for which the device has asked for a re-key (R305). -/
  rekeyAsks : List Nat := []
  /-- Pushes without an acknowledgement, and responses that wait for them. -/
  pushes   : List PushOut := []
  owed     : List Owed := []
  /-- Managing members that hold a secured session with this device (R307). -/
  sessions : List Nat := []
  subs     : List Subscription := []
  homes    : List HomeRegion := []
  ucopies  : List UCopy := []
  colls    : KMap Nat Coll := []
  -- resident work
  grids    : KMap Nat Grid := []
  teams    : KMap TKey Team := []
  groups   : KMap GKey Group := []
  saved    : List Saved := []
  /-- The grid served last at each priority (R294). -/
  served   : KMap Nat Nat := []
  copies   : List Copy := []
  rings    : List RingStep := []
  /-- Bound slots by grid slot, cluster and slot (R287). -/
  bounds   : KMap (Nat × Nat × Nat) Bound := []
  /-- Task packets on their way (R276). -/
  packets  : List Packet := []
  -- units
  cores    : KMap Nat Core := []
  parts    : KMap Nat Part := []
  pairs    : KMap Nat Pair := []
  /-- Numbers for results, copies, operations, requests and publishes. -/
  fresh    : Nat := 0
  -- time and the order of steps
  /-- The cycle counter of R104. -/
  cycle    : Nat := 0
  /-- Instructions issued so far (R66). -/
  issued   : Nat := 0
  /-- The groups whose runs hold a rod pair (R63, R66), and the one whose instruction comes next. -/
  runs     : List GKey := []
  focus    : Option GKey := none
  /-- Groups whose next instruction was held since a run last ended (R66). -/
  stalled  : List GKey := []
  /-- E and W of the instruction that issues (R17). -/
  slotE    : Bool := false
  slotW    : BitVec 3 := 0#3
  /-- Steps that are due, the next one first. -/
  agenda   : List Due := []
  /-- What the step that executes acts on. -/
  ev       : EvArg := {}
  /-- What the world outside does, in order, and how many choices among possible steps have been made. -/
  inputs   : List Due := []
  picks    : Nat := 0
deriving DecidableEq, Repr

/-- Why the machine stops. -/
inductive Fault where
  /-- An instruction's meaning was asked for in a state in which no group issues. No step raises it; safe. -/
  | noIssuer
deriving DecidableEq, Repr

/-- Why the model has no answer. -/
inductive Refusal where
  /-- The instruction has no meaning in this model yet; raised by Dispatch only; safe. -/
  | notModelled (mnemonic : String)
deriving DecidableEq, Repr

/-- The machine right after reset. -/
def State.reset : State := {}

end Sys2Proof.Machine
end

