-- ==== Sys2Proof/Machine/Ops.lean ====
section
/-! DEFINITION. The operations that the instructions share: maps, memory cells, registers and their pending writes, paths and
the reconvergence stack, taking a trap and returning from one, and the issue of one instruction. -/

namespace Sys2Proof.Machine

-- ## Finite maps

/-- The value of a key. -/
def kfind {κ α : Type} [DecidableEq κ] : KMap κ α → κ → Option α
  | [], _ => none
  | (k', v) :: m, k => if k' = k then some v else kfind m k

/-- Sets the value of a key, in place when the key is listed. -/
def kput {κ α : Type} [DecidableEq κ] : KMap κ α → κ → α → KMap κ α
  | [], k, v => [(k, v)]
  | (k', v') :: m, k, v => if k' = k then (k, v) :: m else (k', v') :: kput m k v

/-- Removes a key. -/
def kdel {κ α : Type} [DecidableEq κ] (m : KMap κ α) (k : κ) : KMap κ α := m.filter fun p => p.1 ≠ k

/-- Some key of the map has a value that satisfies the test. -/
def kany {κ α : Type} (m : KMap κ α) (f : κ → α → Bool) : Bool := m.any fun p => f p.1 p.2

-- ## Memory cells: strictly rising addresses, and no byte that an unlisted address reads as

/-- What an unlisted address reads as (log 1). -/
def blankByte : Byte := 0#8

/-- The byte at an address. -/
def cellGet : List Host.Cell → Nat → Byte
  | [], _ => blankByte
  | (a', b) :: m, a => if a' < a then cellGet m a else if a' = a then b else blankByte

/-- Puts a byte before the cells above its address; a blank byte is not listed. -/
def cellCons (a : Nat) (b : Byte) (m : List Host.Cell) : List Host.Cell :=
  if b = blankByte then m else (a, b) :: m

/-- The cells of consecutive bytes. -/
def cellsFrom : Nat → List Byte → List Host.Cell
  | _, [] => []
  | a, b :: bs => cellCons a b (cellsFrom (a + 1) bs)

/-- Writes consecutive bytes, and keeps the canonical form. -/
def cellWrite (m : List Host.Cell) (a : Nat) (bs : List Byte) : List Host.Cell :=
  m.takeWhile (fun c => decide (c.1 < a)) ++ cellsFrom a bs ++ m.dropWhile fun c => decide (c.1 < a + bs.length)

/-- Reads `n` consecutive bytes. -/
def cellRead (m : List Host.Cell) (a n : Nat) : List Byte :=
  let t := m.dropWhile fun c => decide (c.1 < a)
  (List.range n).map fun i => cellGet t (a + i)

/-- The canonical form: every address above the one before it, and no listed byte blank. -/
def Memory.wfFrom : Nat → List Host.Cell → Bool
  | _, [] => true
  | lo, (a, b) :: m => decide (lo ≤ a) && decide (b ≠ blankByte) && Memory.wfFrom (a + 1) m

/-- The memory has its canonical form. -/
def Memory.wf (m : List Host.Cell) : Bool := Memory.wfFrom 0 m

-- ## Units

/-- The two cores lie in one instance of the scope (R7, R8); a core's number carries its coordinates (R2). Scope 0 is that of one group, and
two agents named by their cores alone are not known to be one group. -/
def scopeHas (scope c1 c2 : Nat) : Bool :=
  match scope with
  | 0 => false
  | 1 => c1 == c2
  | 2 => c1 / 16 == c2 / 16
  | 3 => c1 / 256 == c2 / 256
  | 4 => c1 / 512 == c2 / 512
  | 5 => c1 / 1024 == c2 / 1024
  | _ => true

/-- The twin of a core (R3). -/
def twinOf (c : Nat) : Nat := if c / 256 % 2 = 0 then c + 256 else c - 256

/-- The pair of a core, named by the lower deck's core. -/
def pairOf (c : Nat) : Nat := if c / 256 % 2 = 0 then c else c - 256

/-- The mesh column and row of a core (R2). -/
def meshX (c : Nat) : Nat := 4 * (c / 16 % 16 % 4) + c % 16 % 4
/-- The mesh row of a core (R2). -/
def meshY (c : Nat) : Nat := 4 * (c / 16 % 16 / 4) + c % 16 / 4

/-- The core of a deck (its number / 256) at a mesh position (R2). -/
def coreAt (deck x y : Nat) : Nat := deck * 256 + (4 * (y / 4) + x / 4) * 16 + (4 * (y % 4) + x % 4)

def State.group (s : State) (k : GKey) : Group := (kfind s.groups k).getD {}
def State.setGroup (s : State) (k : GKey) (g : Group) : State := { s with groups := kput s.groups k g }
/-- Changes a resident group; a group that has retired stays so. -/
def State.modGroup (s : State) (k : GKey) (f : Group → Group) : State :=
  match kfind s.groups k with
  | none => s
  | some g => s.setGroup k (f g)
def State.team (s : State) (t : TKey) : Team := (kfind s.teams t).getD {}
def State.setTeam (s : State) (t : TKey) (x : Team) : State := { s with teams := kput s.teams t x }
def State.modTeam (s : State) (t : TKey) (f : Team → Team) : State :=
  match kfind s.teams t with
  | none => s
  | some x => s.setTeam t (f x)
def State.grid (s : State) (n : Nat) : Grid := (kfind s.grids n).getD {}
def State.modGrid (s : State) (n : Nat) (f : Grid → Grid) : State :=
  match kfind s.grids n with
  | none => s
  | some x => { s with grids := kput s.grids n (f x) }
def State.core (s : State) (c : Nat) : Core := (kfind s.cores c).getD {}
def State.modCore (s : State) (c : Nat) (f : Core → Core) : State := { s with cores := kput s.cores c (f (s.core c)) }
/-- The partition `p` of core `c`. -/
def State.part (s : State) (c p : Nat) : Part := (kfind s.parts (4 * c + p)).getD {}
def State.modPart (s : State) (c p : Nat) (f : Part → Part) : State :=
  { s with parts := kput s.parts (4 * c + p) (f (s.part c p)) }

/-- The core a group runs on, and its partition (R5). -/
def State.coreOf (s : State) (k : GKey) : Nat := (s.team k.tkey).core
/-- Group g sits in partition g mod 4 (R5). -/
def partOf (k : GKey) : Nat := k.g % 4

/-- scope_contains for two groups (R8): an instance of scope 0 is one group. -/
def State.scopeContains (s : State) (scope : Nat) (j k : GKey) : Bool :=
  if scope = 0 then j == k else scopeHas scope (s.coreOf j) (s.coreOf k)

/-- Puts steps that are due at the end of the agenda. -/
def State.later (s : State) (ds : List Due) : State := { s with agenda := s.agenda ++ ds }
/-- Puts steps that are due before everything else. -/
def State.sooner (s : State) (ds : List Due) : State := { s with agenda := ds ++ s.agenda }

-- ## Registers (R68 to R71, R95 to R100)

/-- An allocation register; one that nothing has written holds zero (R289). -/
def Group.reg (g : Group) (n : Nat) : RegVal := (kfind g.regs n).getD ⟨uniformLanes 0#32, true⟩

/-- The lanes of the group that have not exited: those of the current path and of the path entries (R72). -/
def Group.live (g : Group) : Word :=
  g.stack.foldl (fun m e => match e.kind with
    | .path _ => m ||| e.mask
    | _ => m) (match g.cur with
      | some p => p.ex
      | none => 0#32)

/-- Whether the lanes of a mask all hold one value, and that of its lowest lane. -/
def sameOver (mask : Word) (v : Lanes Word) : Bool := (maskLanes mask).all fun L => v[L] == v[lowestLane mask]

/-- A register after a write of the lanes of a mask, with its uniform tag (R100). A value that every lane left in the group receives is
stored as one copy, which stands in the positions of exited lanes too. -/
def RegVal.written (old : RegVal) (live mask : Word) (vals : Lanes Word) : RegVal :=
  let v := vals[lowestLane mask]
  if sameOver mask vals && mask &&& live == live then ⟨uniformLanes v, true⟩
  else ⟨mergeLanes mask vals old.vals, sameOver mask vals && old.uni && old.vals[lowestLane mask] == v⟩

/-- Writes the lanes of a mask; the register is now the one written most recently, of which the register cache holds six (R67, R100);
so is one that a result reaches while the group is outside the active set (DESIGN CHOICE, log 82). -/
def Group.put (g : Group) (n : Nat) (mask : Word) (vals : Lanes Word) : Group :=
  { g with
    regs := kput g.regs n ((g.reg n).written g.live mask vals)
    cached := (n :: g.cached.filter (· ≠ n)).take 6 }

/-- The write raises a flag in some lane. -/
def PendWrite.raises (p : PendWrite) : Bool := (List.finRange 32).any fun L => p.flags[L] != 0#5

/-- Takes lanes away from the earlier writes to a register that are still on their way (R71); what they leave for AFLAGS and NRM stays. -/
def dropLanes (n : Nat) (mask : Word) (ps : List PendWrite) : List PendWrite :=
  (ps.map fun p => if p.reg = n then { p with mask := p.mask &&& ~~~mask } else p).filter
    fun p => decide (p.reg ≠ n) || p.mask ≠ 0#32 || p.absent ≠ 0#32 || p.raises

/-- A write whose result the next instruction reads (R68). -/
def Group.write (g : Group) (n : Nat) (mask : Word) (vals : Lanes Word) : Group :=
  { g with pend := dropLanes n mask g.pend }.put n mask vals

/-- A write on its way. -/
def Group.writeLater (g : Group) (p : PendWrite) : Group := { g with pend := g.pend ++ [p] }

/-- ORs flags into AFLAGS (R57). -/
def Group.orFlags (g : Group) (fl : Lanes (BitVec 5)) : Group := { g with aflags := lanesOf fun L => g.aflags[L] ||| fl[L] }

/-- Completes the pending write `p`, which lies after the writes `before` and before the writes `after`: its flags are set in the same step,
those of a discarded result too (R57, R71). -/
def Group.completeWrite (g : Group) (before : List PendWrite) (p : PendWrite) (after : List PendWrite) : Group :=
  let g1 : Group := { g.orFlags p.flags with pend := dropLanes p.reg p.mask before ++ after, nrm := g.nrm ||| p.absent }
  if p.mask = 0#32 then g1 else g1.put p.reg p.mask p.vals

/-- Completes the pending writes that satisfy a test, oldest first. -/
def Group.completeAll (test : PendWrite → Bool) : List PendWrite → List PendWrite → Group → Group
  | before, [], g => { g with pend := before }
  | before, p :: rest, g =>
    if test p then
      let g' := g.completeWrite before p rest
      completeAll test (dropLanes p.reg p.mask before) rest g'
    else completeAll test (before ++ [p]) rest g

/-- The write has a fixed latency. -/
def PendWrite.isFixed (p : PendWrite) : Bool := p.left.isSome

/-- All fixed-latency writes of the group complete (R68: trap entry, TRET, pre-emption, entry into the active set). -/
def Group.drainFixed (g : Group) : Group := Group.completeAll PendWrite.isFixed [] g.pend g
/-- The fixed-latency writes whose counted beats are over complete (R68). -/
def Group.drainDue (g : Group) : Group := Group.completeAll (fun p => p.left == some 0) [] g.pend g
/-- Every pending write completes, loads included. -/
def Group.drainAll (g : Group) : Group := Group.completeAll (fun _ => true) [] g.pend g

/-- An answer to a pending result in some of its lanes: when no lane lacks one, the write can complete. -/
def PendWrite.answer (token : Nat) (lanes : Word) (vals : Lanes Word) (p : PendWrite) : PendWrite :=
  match p.await with
  | some (t, m) =>
    if t = token then
      { p with vals := mergeLanes lanes vals p.vals, await := if m &&& ~~~lanes = 0#32 then none else some (t, m &&& ~~~lanes) }
    else p
  | none => p

/-- Answers a pending result of the group. -/
def Group.answer (g : Group) (token : Nat) (lanes : Word) (vals : Lanes Word) : Group :=
  { g with pend := g.pend.map (PendWrite.answer token lanes vals) }

/-- Counts `n` beats for the fixed-latency writes on their way (R68). -/
def Group.count (g : Group) (n : Nat) : Group :=
  { g with pend := g.pend.map fun p => { p with left := p.left.map (· - n) } }

/-- Of the writes on their way, newest first, whether a reader of one lane waits for an interlocked one (R69), and whether it
comes too early after a fixed-latency one (R70). -/
def laneHeld (n : Nat) (L : Fin 32) : List PendWrite → Bool × Bool
  | [] => (false, false)
  | p :: ps =>
    if p.reg = n && p.mask.getLsbD L then
      match p.left with
      | none => (true, false)
      | some 0 => (false, false)
      | some (_ + 1) => ((laneHeld n L ps).1, true)
    else laneHeld n L ps

/-- The value that a reader sees in one lane, from the writes on their way, newest first, and the register (R70, R71). -/
def laneSeen (n : Nat) (L : Fin 32) (old : Word) : List PendWrite → Word
  | [] => old
  | p :: ps =>
    if p.reg = n && p.mask.getLsbD L then
      match p.left with
      | some 0 => p.vals[L]
      | _ => laneSeen n L old ps
    else laneSeen n L old ps

/-- The value of a register that an instruction reads. -/
def Group.read (g : Group) (n : Nat) : Lanes Word :=
  let r := (g.reg n).vals
  if g.pend.isEmpty then r else
    let ps := g.pend.reverse
    lanesOf fun L => laneSeen n L r[L] ps

/-- A reader of these registers waits in some lane of the mask (R69). -/
def Group.waits (g : Group) (regs : List Nat) (mask : Word) : Bool :=
  if g.pend.isEmpty then false else
    let ps := g.pend.reverse
    regs.any fun n => (maskLanes mask).any fun L => (laneHeld n L ps).1
/-- A reader of these registers comes too early in some lane of the mask (R70). -/
def Group.early (g : Group) (regs : List Nat) (mask : Word) : Bool :=
  if g.pend.isEmpty then false else
    let ps := g.pend.reverse
    regs.any fun n => (maskLanes mask).any fun L => (laneHeld n L ps).2

-- ## Paths and the reconvergence stack (R72 to R80)

def Entry.isMark (e : Entry) : Bool := match e.kind with
  | .mark => true
  | _ => false
def Entry.isPath (e : Entry) : Bool := match e.kind with
  | .path _ => true
  | _ => false
def Entry.isTrap (e : Entry) : Bool := match e.kind with
  | .trap _ _ => true
  | _ => false
def Entry.isReady (e : Entry) : Bool := e.kind = .path .ready
def Entry.isJoined (e : Entry) : Bool := e.kind = .path .joined

/-- The index of the topmost entry that satisfies a test. -/
def topIdx (f : Entry → Bool) (st : List Entry) : Option Nat :=
  (st.zipIdx.filter fun p => f p.1).getLast?.map (·.2)

/-- One above the topmost trap entry (R75). -/
def stackFloor (st : List Entry) : Nat := match topIdx Entry.isTrap st with
  | some i => i + 1
  | none => 0

/-- The index of the innermost mark (R75). -/
def innermostMark (st : List Entry) : Option Nat := match topIdx Entry.isMark st with
  | some i => if stackFloor st ≤ i then some i else none
  | none => none

/-- The lowest index of the frame (R75). -/
def frameBase (st : List Entry) : Nat := match innermostMark st with
  | some i => i + 1
  | none => stackFloor st

/-- The eligible entry of lowest index (R75). -/
def oldestReady (st : List Entry) : Option (Nat × Entry) :=
  ((st.zipIdx.drop (frameBase st)).find? fun p => p.1.isReady).map fun p => (p.2, p.1)

/-- The path that an entry holds. -/
def Entry.asPath (e : Entry) : Path := ⟨e.pc, e.mask, e.fmt⟩

/-- Mark and path entries in use; at most 24 (R74). -/
def Group.used (g : Group) : Nat := (g.stack.filter fun e => !e.isTrap).length

/-- No 25th mark or path entry fits (R74). -/
def Group.full (g : Group) : Bool := decide (24 ≤ g.used)

/-- take_oldest of R76. -/
def Group.takeOldest (g : Group) : Group :=
  match oldestReady g.stack with
  | none => { g with cur := none }
  | some (i, e) => { g with stack := g.stack.eraseIdx i, cur := some e.asPath, quantum := 0 }

/-- rotate of R76; the flag says that another path became current. -/
def Group.rotate (g : Group) (p : Path) (next : Word) : Group × Bool :=
  match oldestReady g.stack with
  | none => ({ g with cur := some { p with pc := next }, quantum := 0 }, false)
  | some (i, e) =>
    ({ g with
        stack := g.stack.eraseIdx i ++ [⟨.path .ready, next, p.ex, p.fmt⟩]
        cur := some e.asPath
        quantum := 0 }, true)

/-- The mask of the joined entry of the frame, 0 without one (R76). -/
def joinedMask (st : List Entry) : Word :=
  match (st.drop (frameBase st)).find? Entry.isJoined with
  | some e => e.mask
  | none => 0#32

/-- settle of R76, with the current path empty. Each turn of its loop pops a mark, so the depth of the stack bounds it. -/
def Group.settleN : Nat → Group → Group
  | 0, g => g.takeOldest
  | n + 1, g =>
    match innermostMark g.stack with
    | none => g.takeOldest
    | some i =>
      match g.stack[i]? with
      | none => g.takeOldest
      | some m =>
        if joinedMask g.stack ≠ m.mask then g.takeOldest
        else
          let g' := { g with stack := g.stack.take i }
          if m.mask ≠ 0#32 then { g' with cur := some ⟨m.pc + 4#32, m.mask, m.fmt⟩, quantum := 0 }
          else settleN n g'

def Group.settle (g : Group) : Group := Group.settleN (g.stack.length + 1) { g with cur := none }

/-- The trap entries that the EXIT emptied are popped from the top, with all above each (R83). -/
def Group.popEmptyTraps : Nat → Group → Group
  | 0, g => g
  | n + 1, g =>
    match topIdx Entry.isTrap g.stack with
    | none => g
    | some i =>
      match g.stack[i]? with
      | some ⟨.trap mode _, _, mask, _⟩ =>
        if mask ≠ 0#32 then g else popEmptyTraps n { g with stack := g.stack.take i, mode := mode }
      | _ => g

/-- EXIT of R83: the lanes of the current path end. -/
def Group.exitLanes (g : Group) (lanes : Word) : Group :=
  let st := g.stack.map fun e => if e.isPath then e else { e with mask := e.mask &&& ~~~lanes }
  (Group.popEmptyTraps (st.length + 1) { g with stack := st, cur := none }).settle

/-- A suspension of the current path (R265). -/
def Group.suspend (g : Group) (p : Path) (resume : Word) (w : Wait) : Group :=
  Group.settle { g with stack := g.stack ++ [⟨.path (.suspended w), resume, p.ex, p.fmt⟩] }

/-- A suspended entry becomes ready; without a current path the group takes its oldest (R76). -/
def Group.wake (g : Group) (i : Nat) : Group :=
  match g.stack[i]? with
  | some e =>
    let g' := { g with stack := g.stack.set i { e with kind := .path .ready } }
    if g'.cur.isNone then g'.takeOldest else g'
  | none => g

-- ## Traps (R326 to R332)

/-- The codes of R332. -/
def Cause.code : Cause → Nat
  | .illegal => 0x01 | .uniform => 0x02 | .priv => 0x03 | .sysc => 0x04 | .hvc => 0x05 | .brk => 0x06 | .arith => 0x07
  | .stallchk => 0x08 | .pageInvalid => 0x10 | .pagePerm => 0x11 | .align => 0x12 | .nearRange => 0x13 | .poison => 0x14
  | .fabric => 0x15 | .key => 0x16 | .gangBroken => 0x17 | .rsOverflow => 0x18 | .window => 0x19 | .accum => 0x1A

/-- The causes that are no fault of the lanes: SYSC, HVC and BRK (R192, R278). -/
def Cause.isCall : Cause → Bool
  | .sysc | .hvc | .brk => true
  | _ => false

/-- The MODE encoding (R103). -/
def Mode.code : Mode → Nat
  | .user => 0 | .supervisor => 1 | .hypervisor => 2

/-- A trap to be taken: cause, trapping lanes, whether the return PC is the next instruction, the split flag, fault address,
detail, and the TPC where it is not the pc (R330, R332). -/
structure TrapReq where
  cause  : Cause
  lanes  : Word
  next   : Bool := false
  split  : Bool := false
  addr   : DWord := 0#64
  detail : Nat := 0
  tpc    : Option Word := none
deriving DecidableEq, Repr

/-- The modes that the open traps entered, in stack order: each trap entry holds the mode before its trap, so a trap entered
the mode that the next entry holds, and the last one the current mode (R329, R73). -/
def Group.entered (g : Group) : List Mode :=
  (g.stack.filterMap fun e => match e.kind with
    | .trap m _ => some m
    | _ => none).tail ++ (if g.stack.any Entry.isTrap then [g.mode] else [])

/-- The open traps into a mode; at most four (R329). -/
def Group.openInto (g : Group) (m : Mode) : Nat := ((g.entered).filter (· = m)).length

/-- The mode that a trap targets before the limits of R329. -/
def trapTarget (mode : Mode) (c : Cause) : Mode :=
  match c with
  | .hvc | .key => .hypervisor
  | _ => match mode with
    | .user => .supervisor
    | m => m

/-- A vector with bits [1:0] nonzero (R327). -/
def badVector (v : Word) : Bool := v.toNat % 4 ≠ 0

/-- The bank of a mode; user mode has none and never asks (R105). -/
def Group.bank (g : Group) (m : Mode) : Bank := match m with
  | .hypervisor => g.hbank
  | _ => g.sbank
def Group.setBank (g : Group) (m : Mode) (b : Bank) : Group := match m with
  | .hypervisor => { g with hbank := b }
  | _ => { g with sbank := b }

/-- The entry into a mode's handler: the pushes, the bank and the new path of take_trap (R330). The results of fixed latency
complete first (R68). -/
def Group.enterTrap (g : Group) (p : Path) (npc : Word) (r : TrapReq) (target : Mode) (code detail : Nat) (addr : DWord) : Group :=
  let g := g.drainFixed
  let ret := if r.next then npc else p.pc
  let splits := r.split && r.lanes ≠ p.ex
  let h := if splits then r.lanes else p.ex
  let rest := if splits then [(⟨.path .ready, npc, p.ex &&& ~~~r.lanes, p.fmt⟩ : Entry)] else []
  let b : Bank :=
    { tvec   := (g.bank target).tvec
      tcause := BitVec.ofNat 32 (code + 256 * (detail % 128))
      taddr  := addr
      tmask  := r.lanes
      tpc    := r.tpc.getD p.pc }
  { g.setBank target b with
    stack := g.stack ++ rest ++ [⟨.trap g.mode (if r.cause.isCall then 0#32 else r.lanes), ret, h, p.fmt⟩]
    mode := target
    cur := some ⟨b.tvec, h, p.fmt⟩
    quantum := 0
    runLen := 0
    exempt := none
    checked := none }

/-- A trap that ends in hypervisor mode: with four traps open there, or with a misaligned vector, the team is killed (R327, R329). -/
def Group.enterHyper (g : Group) (p : Path) (npc : Word) (r : TrapReq) (code detail : Nat) (addr : DWord) : Option Group :=
  if 4 ≤ g.openInto .hypervisor || badVector g.hbank.tvec then none
  else some (g.enterTrap p npc r .hypervisor code detail addr)

/-- take_trap of R330 for the current path `p`, the next instruction's offset being `npc`; none where the scheduler kills the
team instead (R327, R329). -/
def Group.takeTrap (g : Group) (p : Path) (npc : Word) (r : TrapReq) : Option Group :=
  match trapTarget g.mode r.cause with
  | .hypervisor => g.enterHyper p npc r r.cause.code r.detail r.addr
  | _ =>
    if 4 ≤ g.openInto .supervisor then g.enterHyper p npc r r.cause.code r.detail r.addr
    else if badVector g.sbank.tvec then
      g.enterHyper p npc r Cause.align.code r.cause.code ((0#32 ++ g.sbank.tvec : BitVec 64))
    else some (g.enterTrap p npc r .supervisor r.cause.code r.detail r.addr)

/-- The topmost trap entry, when no mark or path entry lies above it (R337). -/
def Group.openTrap (g : Group) : Option (Word × Word × Word × Mode) :=
  match g.stack.getLast? with
  | some ⟨.trap m _, pc, mask, fmt⟩ => some (pc, mask, fmt, m)
  | _ => none

/-- The return from a trap to the offset `r` (R337): the entry's mode, lanes and FMT. -/
def Group.returnFrom (g : Group) (r mask fmt : Word) (m : Mode) : Group :=
  { g.drainFixed with
    stack := g.stack.dropLast
    mode := m
    cur := some ⟨r, mask, fmt⟩
    quantum := 0
    exempt := some r }

-- ## Issue of one instruction (R17 to R32, R64 to R70, R77)

/-- What an instruction sees when it issues: the state in which it is counted as issued, the group, and its current path. -/
structure View where
  s : State
  k : GKey
  g : Group
  p : Path
  /-- The offset of the instruction that follows. -/
  npc : Word

def View.ex (v : View) : Word := v.p.ex
/-- The value of a register of the window (R97). -/
def View.rd (v : View) (r : Nat) : Lanes Word := v.g.read (v.g.wbasev + r)
/-- The 64-bit values of the pair that starts at a register (R13). -/
def View.rd2 (v : View) (r : Nat) : Lanes DWord :=
  let lo := v.rd r
  let hi := v.rd (r + 1)
  lanesOf fun L => pairVal lo[L] hi[L]
/-- The value in lane f, the lowest active lane. -/
def View.f (v : View) : Fin 32 := lowestLane v.ex
def View.core (v : View) : Nat := v.s.coreOf v.k
def View.team (v : View) : Team := v.s.team v.k.tkey

/-- Writes a register of the window in the lanes of a mask; the next instruction reads it. -/
def View.wrm (v : View) (s : State) (r : Nat) (mask : Word) (vals : Lanes Word) : State :=
  s.modGroup v.k fun g => g.write (v.g.wbasev + r) mask vals
/-- Writes a register of the window in every active lane. -/
def View.wr (v : View) (s : State) (r : Nat) (vals : Lanes Word) : State := v.wrm s r v.ex vals
/-- Writes a pair of registers in the lanes of a mask. -/
def View.wrm2 (v : View) (s : State) (r : Nat) (mask : Word) (vals : Lanes DWord) : State :=
  v.wrm (v.wrm s r mask (lanesOf fun L => loWord vals[L])) (r + 1) mask (lanesOf fun L => hiWord vals[L])
/-- Writes a pair of registers in every active lane. -/
def View.wr2 (v : View) (s : State) (r : Nat) (vals : Lanes DWord) : State := v.wrm2 s r v.ex vals
/-- The flags of the active lanes. -/
def View.activeFlags (v : View) (fl : Lanes (BitVec 5)) : Lanes (BitVec 5) := lanesOf fun L => if v.ex.getLsbD L then fl[L] else 0#5
/-- A write of fixed latency (R68), with the flags that are set when it is made (R57). -/
def View.wrFixed (v : View) (s : State) (r : Nat) (latency : Nat) (vals : Lanes Word) (fl : Lanes (BitVec 5) := uniformLanes 0#5) : State :=
  s.modGroup v.k fun g => g.writeLater
    { reg := v.g.wbasev + r, mask := v.ex, vals := vals, flags := v.activeFlags fl, left := some latency }
/-- An interlocked write (R69), with the lanes that met an absent page. -/
def View.wrLater (v : View) (s : State) (r : Nat) (mask : Word) (vals : Lanes Word) (absent : Word := 0#32) : State :=
  s.modGroup v.k fun g => g.writeLater { reg := v.g.wbasev + r, mask := mask, vals := vals, absent := absent, left := none }
/-- An interlocked write with the flags that are set when it is made (R57). -/
def View.wrLaterFlags (v : View) (s : State) (r : Nat) (mask : Word) (vals : Lanes Word) (fl : Lanes (BitVec 5)) : State :=
  s.modGroup v.k fun g => g.writeLater { reg := v.g.wbasev + r, mask := mask, vals := vals, flags := v.activeFlags fl, left := none }
/-- An interlocked write whose values another step of the device brings under a number. -/
def View.wrAwait (v : View) (s : State) (r : Nat) (mask : Word) (token : Nat) : State :=
  s.modGroup v.k fun g => g.writeLater
    { reg := v.g.wbasev + r, mask := mask, vals := uniformLanes 0#32, left := none, await := some (token, mask) }
/-- An interlocked uniform result (R264). -/
def View.wrLaterAll (v : View) (s : State) (r : Nat) (x : Word) : State := v.wrLater s r v.ex (uniformLanes x)
/-- Flags that an operation without a result in a register sets when it completes (R57, R232). -/
def View.flagLater (v : View) (s : State) (fl : Lanes (BitVec 5)) : State :=
  let p : PendWrite := { reg := 0, mask := 0#32, vals := uniformLanes 0#32, flags := v.activeFlags fl, left := none }
  if p.raises then s.modGroup v.k fun g => g.writeLater p else s
/-- ORs flags into AFLAGS of the active lanes (R57). -/
def View.flag (v : View) (s : State) (fl : Lanes (BitVec 5)) : State :=
  s.modGroup v.k fun g => { g with aflags := lanesOf fun L => if v.ex.getLsbD L then g.aflags[L] ||| fl[L] else g.aflags[L] }

/-- What an instruction demands before its effect. Registers are named by window number. -/
structure Form where
  pfx     : Pfx := none
  /-- Registers that it names (R98). -/
  names   : List Nat := []
  /-- Registers that it reads (R69, R70). -/
  reads   : List Nat := []
  /-- Registers that it reads in every lane, for which it waits at a latch and not here (R188, R192). -/
  late    : List Nat := []
  /-- Registers that must be uniform (R101). -/
  unif    : List Nat := []
  /-- A check of step 2 of R32 fails. -/
  illegal : Bool := false
  /-- A check of step 3 of R32 fails. -/
  priv    : Bool := false
  /-- It reports posted remote failures (R315), and waits for responses before it does; a fence issues at once (R233). -/
  check   : Bool := false
  checkWaits : Bool := true
  /-- Beats per lane (R64, R117). -/
  factor  : Nat := 1
  /-- It takes one beat whatever it reads. -/
  oneBeat : Bool := false

/-- What comes of an instruction that passes the checks of its form. -/
inductive Res where
  /-- It completes, and the path goes on at the next instruction. -/
  | ok (s : State)
  /-- It completes and has set the path itself; the flag says that the run ends (R80). -/
  | went (s : State) (ended : Bool)
  /-- It traps; the state holds the effects of the lanes that complete. -/
  | trap (r : TrapReq) (s : State)
  /-- It does not issue; these steps of the device would end the wait. -/
  | hold (ds : List Due)
  /-- It does not issue, and its arrival is recorded. -/
  | await (f : State → State)

/-- The beats that an instruction adds for sources that neither the register cache holds nor the first beat reads from the board (R67). -/
def boardBeats (g : Group) (f : Form) : Nat :=
  ((f.reads.map (g.wbasev + ·)).eraseDups.filter fun n => !g.cached.contains n).length - 2

/-- The beats of an instruction (R64, R67): the tags of its sources are those that go with the values it reads, results of fixed latency
whose counted beats are over included. -/
def beats (g : Group) (f : Form) (ex : Word) : Nat :=
  let seen := g.drainDue
  (if f.oneBeat || (f.factor == 1 && f.reads.all fun r => (seen.reg (g.wbasev + r)).uni) then 1
   else max (popcount (ex &&& 0x0000FFFF#32)) (popcount (ex &&& 0xFFFF0000#32)) * f.factor) + boardBeats seen f

/-- The beats and the wait beats of an instruction pass (R64 to R66), of one that traps too. -/
def State.spend (s : State) (n : Nat) : State := { s with cycle := s.cycle + n + s.slotW.toNat }

/-- The run of a group ends (R19); the groups whose last instruction was held may try again. -/
def State.endRun (s : State) (k : GKey) : State :=
  { s.modGroup k fun g => { g with runLen := 0 } with runs := s.runs.filter (· ≠ k), stalled := [] }

/-- The instruction is held: its group gives up its rod pair with its path unchanged, and has no ready run (R66, R67). -/
def State.holdIssue (s : State) (k : GKey) (ds : List Due) : State :=
  { (s.modGroup k fun g => { g with runLen := 0, unready := some (g.unready.getD s.cycle) }).later ds with runs := s.runs.filter (· ≠ k), stalled := k :: s.stalled }

/-- A step of a stepped user path (R350): STEP clears, and the BRK follows when the instruction took no trap. -/
def State.stepped (s : State) (k : GKey) (g : Group) (trapped : Bool) : State :=
  if g.step && g.mode = .user then
    let s' := s.modGroup k fun g => { g with step := false }
    if trapped then s' else s'.sooner [⟨.singleStepTrap, { key := k }⟩]
  else s

/-- Takes a trap in a group, or asks the scheduler to kill its team (R329, R330). -/
def State.trapAlone (s : State) (k : GKey) (p : Path) (npc : Word) (r : TrapReq) : State :=
  match (s.group k).takeTrap p npc r with
  | some g => (s.setGroup k g).endRun k
  | none => (s.endRun k).sooner [⟨.teamKill, { key := k, flag := true }⟩]

/-- The gang of a group's mask (R191). -/
def Group.gangId (g : Group) (k : GKey) : Option GangId := if g.gangOk then some ⟨k.tkey, g.gang⟩ else none

/-- A latch at which members of a gang wait whose mask names the group (R191, R192). -/
def Latch.namesMember (l : Latch) (k : GKey) : Bool := l.gang.team = k.tkey && l.gang.mask.getLsbD (k.g / 4)

/-- Every member that waits at the latch of a gang traps at its MMA, and the latch empties; members that wait at another latch whose mask names one of
those raise GANG_BROKEN (R192). Their MMAs take one beat together, as at a rendezvous, and then their wait beats (R64, R66; DEDUCED, log 87). Each turn empties a latch, so their number bounds the turns. -/
def State.emptyLatchN : Nat → State → GKey → GangId → Cause → State
  | 0, s, _, _, _ => s
  | n + 1, s, k, gang, c =>
    let part := s.part (s.coreOf k) (partOf k)
    let s1 := s.modPart (s.coreOf k) (partOf k) fun p => { p with latches := p.latches.filter (·.gang ≠ gang) }
    match part.latches.find? fun l => l.gang = gang with
    | none => s
    | some l =>
      let s2 := l.arrivals.foldl (fun s a =>
        let g := s.group a.key
        (({ s with cycle := s.cycle + a.w } : State).trapAlone a.key a.path a.npc { cause := c, lanes := a.path.ex }).stepped a.key g true)
        { s1 with cycle := s1.cycle + 1 }
      ((part.latches.filter fun x => x.gang ≠ gang && l.arrivals.any fun a => x.namesMember a.key).map (·.gang)).foldl
        (fun s h => emptyLatchN n s k h .gangBroken) s2

/-- The latch of the group's gang empties (R192). -/
def State.emptyLatch (s : State) (k : GKey) (gang : GangId) (c : Cause) : State :=
  s.emptyLatchN (s.part (s.coreOf k) (partOf k)).latches.length k gang c

/-- A group that a gang's mask names leaves while members wait at the latch: they raise GANG_BROKEN (R191, R192, R328). -/
def State.breakGang (s : State) (k : GKey) : State :=
  ((s.part (s.coreOf k) (partOf k)).latches.filter (·.namesMember k)).foldl (fun s l => s.emptyLatch k l.gang .gangBroken) s

/-- Takes a trap in a group (R328 to R330). -/
def State.trap (s : State) (k : GKey) (p : Path) (npc : Word) (r : TrapReq) : State :=
  if r.cause.isCall then s.trapAlone k p npc r else (s.trapAlone k p npc r).breakGang k

/-- The failure of the lowest lane among those of a remote instruction (R314, R315). -/
def lowestFail (fs : List RFail) : RFail := (fs.find? fun f => fs.all fun g => f.lane ≤ g.lane).getD ⟨0, 0, 0⟩

/-- The instruction has completed: its beats pass, the pending writes count them, and its run goes on or ends, at 24 instructions in any case (R19, R37,
R65, R68, R77). -/
def State.finish (s : State) (k : GKey) (n : Nat) (ended : Bool) : State :=
  let w := s.slotW.toNat
  let s : State := { s.modGroup k fun g => g.count (1 + w) with cycle := s.cycle + n + w }
  let s := if s.slotE || ended then s.endRun k
    else if (s.group k).runLen = 24 then s.sooner [⟨.runLimit, { key := k }⟩] else s
  if (s.group k).quantum = 1024 then s.sooner [⟨.quantumExpiry, { key := k }⟩] else s

/-- The path goes on at the next instruction, and the run ends (R19). -/
def View.endingRun (v : View) (s : State) : Res := .went (s.modGroup v.k fun g => { g with cur := some { v.p with pc := v.npc } }) true

/-- The path is suspended (R265), or RS_OVERFLOW is raised where no entry is free. -/
def View.suspend (v : View) (s : State) (resume : Word) (w : Wait) : Res :=
  if v.g.full then .trap { cause := .rsOverflow, lanes := v.ex } v.s
  else .went (s.modGroup v.k fun g => g.suspend v.p resume w) true

/-- A trap that every active lane takes with the return PC at the instruction (R332). -/
def View.whole (v : View) (c : Cause) : Res := .trap { cause := c, lanes := v.ex } v.s

/-- The registers of a form agree over the active lanes (R101). -/
def View.uniform (v : View) (r : Nat) : Bool := sameOver v.ex (v.rd r)

/-- The first posted failure of a check point, which may first wait for outstanding posted responses (R315). -/
def View.postedCheck (v : View) (waits : Bool) (body : Unit → Res) : Res :=
  if waits && decide (v.g.posted ≠ []) then .hold []
  else match v.g.pfail with
    | [] => body ()
    | f :: rest =>
      .trap { cause := .fabric, lanes := f.lanes &&& v.g.live, addr := f.offset, detail := f.reason.toNat, tpc := some f.pc }
        (v.s.modGroup v.k fun g => { g with pfail := rest })

/-- What follows once every earlier instruction of the group has set its flags (R104, R336): results on their way, and posted floating
additions without a response (R313). -/
def View.flagsSettled (v : View) (body : Unit → Res) : Res :=
  if v.g.pend.any PendWrite.raises then .hold [⟨.aflagsRead, { key := v.k }⟩]
  else if v.s.requests.any fun r => (match r.asker, r.kind with
      | .posted k _, .atom 10 _ => k = v.k
      | _, _ => false) then .hold []
  else body ()

/-- The checks of steps 2 to 7 of R32, in their order, and then the effect. -/
def View.checked (v : View) (f : Form) (body : View → Res) : Res :=
  if f.illegal then v.whole .illegal
  else if f.priv then v.whole .priv
  else if f.names.any fun r => decide (v.g.wsize ≤ v.g.wbasev + r) then v.whole .window
  else if (v.s.grid v.k.slot).lr.stchk &&
      (v.g.early (f.reads.map (v.g.wbasev + ·)) v.ex || v.g.early (f.late.map (v.g.wbasev + ·)) 0xFFFFFFFF#32) then v.whole .stallchk
  else if f.unif.any fun r => !v.uniform r then v.whole .uniform
  else if f.check then v.postedCheck f.checkWaits fun _ => body v
  else body v

/-- The group as it stands once the instruction counts as issued (R19, R66, R67, R77, R350). -/
def Group.counted (g : Group) (n : Nat) : Group :=
  { g with quantum := g.quantum + 1, runLen := g.runLen + 1, exempt := none, lastIssue := n + 1, unready := none }

/-- An instruction of the focus group: it waits for its sources (R69), unless a stall check is to trap it (R70), is checked in the order of R32, takes
its effect, and the group moves on (R330 where lanes fault: a split that finds the stack full raises RS_OVERFLOW with no effect). Its beats pass whether
it completes or traps (R64 to R66). -/
def issue (form : View → Form) (body : View → Res) (s : State) : Host.Outcome State Fault Refusal :=
  match s.focus with
  | none => .fault .noIssuer
  | some k =>
    match kfind s.groups k with
    | none => .fault .noIssuer
    | some g =>
      match g.cur with
      | none => .fault .noIssuer
      | some p =>
        let f := form ⟨s, k, g, p, p.pc + 4#32⟩
        let npc := p.pc + BitVec.ofNat 32 (pfxLen f.pfx)
        let srcs := f.reads.map (g.wbasev + ·)
        if g.waits srcs p.ex && !((s.grid k.slot).lr.stchk && g.early srcs p.ex) then
          .next (s.holdIssue k [⟨.interlockedWriteComplete, { key := k }⟩])
        else
          let s1 := { s.setGroup k (g.counted s.issued) with issued := s.issued + 1 }
          let v : View := ⟨s1, k, g.counted s.issued, p, npc⟩
          match v.checked f body with
          | .ok s2 =>
            .next (((s2.modGroup k fun g => { g with cur := some { p with pc := npc } }).finish k (beats g f p.ex) false).stepped k g false)
          | .went s2 ended => .next ((s2.finish k (beats g f p.ex) ended).stepped k g false)
          | .trap r s2 =>
            let n := beats g f p.ex
            if r.split && r.lanes ≠ p.ex && g.full then
              .next (((s1.spend n).trap k p npc { cause := .rsOverflow, lanes := p.ex }).stepped k g true)
            else .next (((s2.spend n).trap k p npc r).stepped k g true)
          | .hold ds => .next (s.holdIssue k ds)
          | .await h => .next (h (s.holdIssue k []))

end Sys2Proof.Machine
end

