-- ==== Sys2Proof/Machine/Operands.lean ====
section
/-! DEFINITION. The operand forms: immediates and branch targets, prefix payloads, addresses, and data in one, two or four
registers (R21 to R27). -/

namespace Sys2Proof.Machine

/-- The branch target of an FL branch, from the offset of the instruction (R23). -/
def target14 (pc : Word) (i : BitVec 14) : Word := pc + 4#32 * i.signExtend 32
/-- The branch target of BRA (R23). -/
def target21 (pc : Word) (i : BitVec 21) : Word := pc + 4#32 * i.signExtend 32
/-- A target at or below the instruction makes it a rotation point (R77). -/
def isBackward (pc target : Word) : Bool := decide (target.toNat ≤ pc.toNat)

/-- The immediate of the imm7 forms: sign-extended from 7 bits, or from 28 with a prefix (R26, R123). -/
def imm7 (p : Pfx) (i : BitVec 7) : Word := match p with
  | none => i.signExtend 32
  | some x => (x ++ i : BitVec 28).signExtend 32
/-- The immediate of MOVI (R26, R111). -/
def imm14 (p : Pfx) (i : BitVec 14) : Word := match p with
  | none => i.signExtend 32
  | some x => x.extractLsb' 0 18 ++ i
/-- The signed byte offset of a memory instruction's prefix, 64 bits wide (R26). -/
def offset64 (p : Pfx) : DWord := ((payload p).extractLsb' 0 19).signExtend 64
/-- The signed byte offset of a near-memory instruction's prefix (R26). -/
def offset32 (p : Pfx) : Word := ((payload p).extractLsb' 0 19).signExtend 32
/-- A quadword access (R26). -/
def isQuadword (p : Pfx) : Bool := (payload p).getLsbD 19
/-- The bytes of an access: 2 to the size, or 16 (R22, R26). -/
def accessBytes (p : Pfx) (z : BitVec 2) : Nat := if isQuadword p then 16 else 2 ^ z.toNat
/-- The registers of a field that holds `n` bytes of data (R21). -/
def dataRegs (d n : Nat) : List Nat := (List.range ((n + 3) / 4)).map (d + ·)
/-- The pair that a field names (R21). -/
def pairRegs (d : Nat) : List Nat := [d, d + 1]

/-- The global address of each lane: the pair plus the prefix's offset, modulo 2^64 (R211). -/
def View.gaddr (v : View) (a : Nat) (p : Pfx) : Lanes DWord :=
  let x := v.rd2 a
  lanesOf fun L => x[L] + offset64 p
/-- The near address of each lane, modulo 2^32 (R26). -/
def View.naddr (v : View) (a : Nat) (p : Pfx) : Lanes Word :=
  let x := v.rd a
  lanesOf fun L => x[L] + offset32 p

/-- The `n` bytes that a lane stores from the registers of a field (R13, R151, R229). -/
def View.dataBytes (v : View) (d n : Nat) (L : Fin 32) : List Byte :=
  if n ≤ 4 then bytesOf n ((v.rd d)[L]).toNat
  else ((dataRegs d n).map fun r => bytesOf 4 ((v.rd r)[L]).toNat).flatten

/-- The word that a lane's register `i` of a loaded field receives: loads of less than 4 bytes are zero-extended (R151, R229). -/
def loadedWord (bs : List Byte) (i : Nat) : Word := BitVec.ofNat 32 (ofBytes ((bs.drop (4 * i)).take 4))

/-- The 64-bit value of a word or of a pair in each lane. -/
def View.operand (v : View) (wide : Bool) (r : Nat) : Lanes DWord :=
  if wide then v.rd2 r else
    let x := v.rd r
    lanesOf fun L => x[L].setWidth 64

/-- Inserts a number into a rising list without repeats. -/
def insertRising (x : Nat) : List Nat → List Nat
  | [] => [x]
  | y :: ys => if x < y then x :: y :: ys else if x = y then y :: ys else y :: insertRising x ys

/-- The distinct values of a list, rising. -/
def rising (xs : List Nat) : List Nat := xs.foldr insertRising []

end Sys2Proof.Machine
end

