-- ==== Sys2Proof/Machine/Flags.lean ====
section
/-! DEFINITION. Number formats, exact arithmetic on their values, rounding, and the arithmetic flags (R40 to R62). -/

namespace Sys2Proof.Machine

/-- The five sticky flags (R56). -/
abbrev Flags := BitVec 5
def flagNV : Flags := 0x10#5
def flagDZ : Flags := 0x08#5
def flagOF : Flags := 0x04#5
def flagUF : Flags := 0x02#5
def flagNX : Flags := 0x01#5
/-- The flag when the condition holds. -/
def flagIf (b : Bool) (f : Flags) : Flags := if b then f else 0#5

/-- How a format treats its top exponent (R41, R42). -/
inductive FKind where
  /-- Infinity and NaNs at the all-ones exponent. -/
  | ieee
  /-- Only S.1111.111 is NaN, and there is no infinity. -/
  | e4m3
  /-- Every encoding is a number. -/
  | finite
  /-- E8M0: unsigned powers of two. -/
  | scale
deriving DecidableEq, Repr

/-- A floating format: its bits, fraction bits, bias, and the encoding of its largest finite value (R41). -/
structure FFormat where
  kind  : FKind
  bits  : Nat
  frac  : Nat
  bias  : Nat
  maxEnc : Nat
deriving DecidableEq, Repr

def fp32 : FFormat := ⟨.ieee, 32, 23, 127, 0x7F7FFFFF⟩
def fp16 : FFormat := ⟨.ieee, 16, 10, 15, 0x7BFF⟩
def bf16 : FFormat := ⟨.ieee, 16, 7, 127, 0x7F7F⟩
def fE4m3 : FFormat := ⟨.e4m3, 8, 3, 7, 0x7E⟩
def fE5m2 : FFormat := ⟨.ieee, 8, 2, 15, 0x7B⟩
def fE3m2 : FFormat := ⟨.finite, 6, 2, 3, 0x1F⟩
def fE2m3 : FFormat := ⟨.finite, 6, 3, 1, 0x1F⟩
def fE2m1 : FFormat := ⟨.finite, 4, 1, 1, 0x7⟩
def fE8m0 : FFormat := ⟨.scale, 8, 0, 127, 0xFE⟩
def fE8m31 : FFormat := ⟨.ieee, 40, 31, 127, 0x7F7FFFFFFF⟩

/-- The value of an encoding, exactly: a NaN, with whether it raises NV as an operand; an infinity; or a number
(−1)^neg × mag × 2^exp, whose zeros keep their sign. -/
inductive FVal where
  | nan (sig : Bool)
  | inf (neg : Bool)
  | num (neg : Bool) (mag : Nat) (exp : Int)
deriving DecidableEq, Repr

/-- The value of an encoding (R42, R43). -/
def FFormat.decode (F : FFormat) (x : Nat) : FVal :=
  let m := F.frac
  let f := x % 2 ^ m
  match F.kind with
  | .scale => if x % 256 = 255 then .nan false else .num false 1 (x % 256 - 127 : Int)
  | kind =>
    let ebits := F.bits - 1 - m
    let e := x / 2 ^ m % 2 ^ ebits
    let neg := x / 2 ^ (F.bits - 1) % 2 == 1
    let ordinary : FVal :=
      if e = 0 then .num neg f (1 - (F.bias : Int) - m) else .num neg (2 ^ m + f) ((e : Int) - F.bias - m)
    if e = 2 ^ ebits - 1 then
      match kind with
      | .ieee => if f = 0 then .inf neg else .nan (decide (f < 2 ^ (m - 1)))
      | .e4m3 => if f = 2 ^ m - 1 then .nan false else ordinary
      | _ => ordinary
    else ordinary

/-- The sign bit of an encoding. -/
def FFormat.signBit (F : FFormat) (neg : Bool) : Nat := if neg && F.kind ≠ .scale then 2 ^ (F.bits - 1) else 0

/-- The canonical NaN (R41). A format without NaN never asks. -/
def FFormat.canonical (F : FFormat) : Nat := match F.kind with
  | .ieee => (2 ^ (F.bits - 1 - F.frac) - 1) * 2 ^ F.frac + 2 ^ (F.frac - 1)
  | .e4m3 => 0x7F
  | .finite => 0
  | .scale => 0xFF

/-- The encoding of infinity of the formats that have one. -/
def FFormat.infinity (F : FFormat) : Nat := F.maxEnc + 1

/-- The rounding modes of FMT [18:17] (R52). -/
inductive RMode where
  | rne | rz | ru | rd
deriving DecidableEq, Repr

def RMode.ofCode : Nat → RMode
  | 0 => .rne | 1 => .rz | 2 => .ru | _ => .rd

/-- Rounds mag / 2^d to an integer (R53); the flag says that the result is not exact. -/
def roundShift (mode : RMode) (neg : Bool) (mag d : Nat) : Nat × Bool :=
  let k := mag / 2 ^ d
  let r := mag % 2 ^ d
  let up := match mode with
    | .rne => decide (2 ^ d < 2 * r) || (2 * r == 2 ^ d && k % 2 == 1)
    | .rz => false
    | .ru => !neg && r != 0
    | .rd => neg && r != 0
  (if up then k + 1 else k, r != 0)

/-- Rounds mag × 2^exp to a multiple of 2^q, in units of 2^q. -/
def roundAt (mode : RMode) (neg : Bool) (mag : Nat) (exp q : Int) : Nat × Bool :=
  if q ≤ exp then (mag * 2 ^ (exp - q).toNat, false) else roundShift mode neg mag (q - exp).toNat

/-- The mode rounds away from zero for the sign: "directed" of R54. -/
def roundsAway (mode : RMode) (neg : Bool) : Bool := match mode with
  | .rne => true
  | .rz => false
  | .ru => !neg
  | .rd => neg

/-- The result of a finite overflow (R54). -/
def FFormat.overflow (F : FFormat) (sat : Bool) (mode : RMode) (neg : Bool) : Nat :=
  let top := F.signBit neg + F.maxEnc
  match F.kind with
  | .ieee => if !sat && roundsAway mode neg then F.signBit neg + F.infinity else top
  | .e4m3 => if !sat && roundsAway mode neg then F.canonical else top
  | .finite => top
  | .scale => if sat then F.maxEnc else F.canonical

/-- The lowest exponent at which the spacing of the format is 2^(e − m): 1 − bias, and −127 for E8M0, whose smallest value is
2^−127 (R41, R53; DEDUCED, log 11). -/
def FFormat.emin (F : FFormat) : Int := if F.kind = .scale then -127 else 1 - F.bias

/-- round(x, F, mode) of R53 and R54, with FMT's saturate bit: the encoding and the flags. -/
def FFormat.round (F : FFormat) (mode : RMode) (sat : Bool) (x : FVal) : Nat × Flags :=
  match x with
  | .nan sig =>
    match F.kind with
    | .finite => (0, flagNV)
    | _ => (F.canonical, flagIf sig flagNV)
  | .inf neg =>
    match F.kind with
    | .ieee => (F.signBit neg + F.infinity, 0#5)
    | .e4m3 => (if sat then F.signBit neg + F.maxEnc else F.canonical, flagNV)
    | .finite => (F.signBit neg + F.maxEnc, flagNV)
    | .scale => (F.canonical, flagNV)
  | .num neg mag exp =>
    if mag = 0 then
      if F.kind = .scale then (F.canonical, flagNV) else (F.signBit neg, 0#5)
    else
      let top : Int := (Nat.log2 mag : Int) + exp
      let tiny := decide (top < F.emin)
      if F.kind = .scale && tiny then (0, flagUF ||| flagNX)
      else
        let neg' := neg && F.kind ≠ .scale
        let e := max top F.emin
        let r := roundAt mode neg' mag exp (e - F.frac)
        let enc := if F.kind = .scale then (e + 127).toNat + r.1 - 1 else (e + F.bias - 1).toNat * 2 ^ F.frac + r.1
        if F.maxEnc < enc then (F.overflow sat mode neg', flagOF ||| flagNX)
        else (F.signBit neg' + enc, if r.2 then (if tiny then flagUF ||| flagNX else flagNX) else 0#5)

/-- round_rne, without saturation (R53). -/
def FFormat.rne (F : FFormat) (x : FVal) : Nat × Flags := F.round .rne false x

/-- The value with the sign inverted. -/
def FVal.neg : FVal → FVal
  | .nan s => .nan s
  | .inf n => .inf !n
  | .num n m e => .num (!n) m e

/-- The exact product (R50, R59, R128): 0 × ∞ is a NaN that raises NV. -/
def FVal.mul : FVal → FVal → FVal
  | .nan s, .nan t => .nan (s || t)
  | .nan s, _ => .nan s
  | _, .nan s => .nan s
  | .inf a, .inf b => .inf (a != b)
  | .inf a, .num b m _ => if m = 0 then .nan true else .inf (a != b)
  | .num b m _, .inf a => if m = 0 then .nan true else .inf (a != b)
  | .num a m e, .num b n f => .num (a != b) (m * n) (e + f)

/-- The value times 2^k. -/
def FVal.scale (x : FVal) (k : Int) : FVal := match x with
  | .num n m e => .num n m (e + k)
  | x => x

/-- The signed magnitude of a number in units of 2^q, for q at most its exponent. -/
def FVal.units (q : Int) : FVal → Int
  | .num n m e => (if n then -1 else 1) * (m * 2 ^ (e - q).toNat : Nat)
  | _ => 0

def FVal.isNan : FVal → Bool
  | .nan _ => true
  | _ => false
def FVal.isSig : FVal → Bool
  | .nan s => s
  | _ => false
def FVal.isInf (neg : Bool) (x : FVal) : Bool := x == .inf neg
/-- −0. -/
def FVal.isNegZero : FVal → Bool
  | .num n m _ => n && m == 0
  | _ => false
/-- The exponent of a nonzero number; zeros take no part. -/
def FVal.expOf : FVal → Option Int
  | .num _ m e => if m = 0 then none else some e
  | _ => none

/-- The exact sum of the terms of a chunk, with R59's rules for special terms and zero: a NaN of the result says whether NV is set. -/
def sumTerms (ts : List FVal) : FVal :=
  if ts.any FVal.isNan then .nan (ts.any FVal.isSig)
  else if ts.any (FVal.isInf false) then (if ts.any (FVal.isInf true) then .nan true else .inf false)
  else if ts.any (FVal.isInf true) then .inf true
  else
    let q := (ts.filterMap FVal.expOf).foldl min (((ts.filterMap FVal.expOf).head?).getD 0)
    let t := (ts.map (FVal.units q)).foldl (· + ·) 0
    if t = 0 then .num (ts.all FVal.isNegZero) 0 0 else .num (decide (t < 0)) t.natAbs q

/-- Rounds a value to an integer (R55). -/
def FVal.toInteger (mode : RMode) : FVal → Int × Bool
  | .num n m e =>
    let r := roundAt mode n m e 0
    ((if n then -1 else 1) * (r.1 : Int), r.2)
  | _ => (0, false)

/-- Converts to an integer between two ends (R55). -/
def toIntRange (mode : RMode) (lo hi : Int) (x : FVal) : Int × Flags :=
  match x with
  | .nan _ => (0, flagNV)
  | .inf neg => (if neg then lo else hi, flagNV)
  | x =>
    let r := x.toInteger mode
    if r.1 < lo then (lo, flagNV) else if hi < r.1 then (hi, flagNV) else (r.1, flagIf r.2 flagNX)

/-- The value of an integer. -/
def intVal (i : Int) : FVal := .num (decide (i < 0)) i.natAbs 0

/-- The value between two ends that is nearest to an integer. -/
def clampInt (lo hi i : Int) : Int := if i < lo then lo else if hi < i then hi else i

/-! FMT (R106, R107). -/

def fmtAF (x : Word) : Nat := natBits x.toNat 3 0
def fmtBF (x : Word) : Nat := natBits x.toNat 7 4
def fmtABlk (x : Word) : Nat := 16 * 2 ^ natBits x.toNat 9 8
def fmtBBlk (x : Word) : Nat := 16 * 2 ^ natBits x.toNat 11 10
def fmtAsc (x : Word) : Bool := x.getLsbD 12
def fmtBsc (x : Word) : Bool := x.getLsbD 13
def fmtMN (x : Word) : Bool := x.getLsbD 14
def fmtKsl (x : Word) : Nat := natBits x.toNat 16 15
def fmtRnd (x : Word) : RMode := RMode.ofCode (natBits x.toNat 18 17)
def fmtSat (x : Word) : Bool := x.getLsbD 19
def fmtAccf (x : Word) : Nat := natBits x.toNat 21 20
/-- A reserved bit of FMT is set (R107). -/
def fmtReserved (x : Word) : Bool := natBits x.toNat 31 22 ≠ 0

/-- The floating formats of codes 0 to 6 (R46). -/
def codeFormat : Nat → Option FFormat
  | 0 => some bf16 | 1 => some fp16 | 2 => some fE4m3 | 3 => some fE5m2 | 4 => some fE3m2 | 5 => some fE2m3 | 6 => some fE2m1
  | _ => none

/-- The element width of a format code (R46). -/
def codeBits : Nat → Nat
  | 0 | 1 => 16
  | 2 | 3 | 7 | 8 => 8
  | 4 | 5 => 6
  | _ => 4

/-- The signed value of the low `n` bits. -/
def signedOf (n x : Nat) : Int := if x % 2 ^ n < 2 ^ (n - 1) then (x % 2 ^ n : Nat) else (x % 2 ^ n : Nat) - (2 ^ n : Nat)

/-- The value of an element of a format code 0 to 10 (R46). -/
def codeValue (code x : Nat) : FVal :=
  match codeFormat code with
  | some F => F.decode x
  | none => match code with
    | 7 => intVal (signedOf 8 x)
    | 8 => intVal (x % 256 : Nat)
    | 9 => intVal (signedOf 4 x)
    | _ => intVal (x % 16 : Nat)

/-! Square roots of integers, a bit at a time. -/

/-- The largest r + 2^(n) − 1 at most, whose square is at most M, fixing n more bits of r. -/
def isqrtFrom (M : Nat) : Nat → Nat → Nat
  | 0, r => r
  | n + 1, r => isqrtFrom M n (if (r + 2 ^ n) * (r + 2 ^ n) ≤ M then r + 2 ^ n else r)

/-- The integer square root. -/
def isqrt (M : Nat) : Nat := isqrtFrom M (Nat.log2 M / 2 + 1) 0

end Sys2Proof.Machine
end

