-- ==== Sys2Proof/Machine/Float.lean ====
section
/-! DEFINITION. FP32, the one-operand functions, paired BF16 and FP16, conversions, and dot products (R128 to R139). -/

namespace Sys2Proof.Machine

/-- A floating instruction: reads the named registers, computes value and flags of each lane from their values there, and writes D,
with a fixed latency where there is one (R117, R119); the flags come with the result (R57). -/
def floatOp (regs : List Nat) (d : Reg) (factor : Nat) (latency : Option Nat) (f : Word → List Word → Word × Flags) (s : State) :
    Host.Outcome State Fault Refusal :=
  issue (fun _ => { names := d.toNat :: regs, reads := regs, factor := factor }) (fun v =>
    let xs := regs.map v.rd
    let r : Lanes (Word × Flags) := lanesOf fun L => f v.p.fmt (xs.map fun x => x[L])
    let fl := lanesOf fun L => r[L].2
    let out := lanesOf fun L => r[L].1
    .ok (match latency with
      | none => v.wr (v.flag v.s fl) d.toNat out
      | some n => v.wrFixed v.s d.toNat n out fl)) s

/-- A floating instruction of A and B. -/
def float2 (f : Word → Word → Word × Flags) (d a b : Reg) (s : State) : Host.Outcome State Fault Refusal :=
  floatOp [a.toNat, b.toNat] d 1 none (fun _ xs => match xs with
    | [x, y] => f x y
    | _ => (0#32, 0#5)) s

/-- A floating instruction of D, A and B. -/
def float3 (latency : Option Nat) (f : Word → Word → Word → Word × Flags) (d a b : Reg) (s : State) :
    Host.Outcome State Fault Refusal :=
  floatOp [d.toNat, a.toNat, b.toNat] d 1 latency (fun _ xs => match xs with
    | [z, x, y] => f z x y
    | _ => (0#32, 0#5)) s

/-- A floating instruction of A. -/
def float1 (factor : Nat) (latency : Option Nat) (f : Word → Word × Flags) (d a : Reg) (s : State) :
    Host.Outcome State Fault Refusal :=
  floatOp [a.toNat] d factor latency (fun _ xs => match xs with
    | [x] => f x
    | _ => (0#32, 0#5)) s

/-- A result of rounding as a word. -/
def asWord (r : Nat × Flags) : Word × Flags := (BitVec.ofNat 32 r.1, r.2)

/-- The FP32 value of a word. -/
def f32 (x : Word) : FVal := fp32.decode x.toNat
/-- A value rounded to FP32, to nearest even. -/
def toF32 (x : FVal) : Word × Flags := asWord (fp32.rne x)

/-! FP32 arithmetic (R128). -/

def execFadd (d a b : Reg) (s : State) : Host.Outcome State Fault Refusal :=
  float2 (fun a b => toF32 (sumTerms [f32 a, f32 b])) d a b s
def execFsub (d a b : Reg) (s : State) : Host.Outcome State Fault Refusal :=
  float2 (fun a b => toF32 (sumTerms [f32 a, (f32 b).neg])) d a b s
def execFmul (d a b : Reg) (s : State) : Host.Outcome State Fault Refusal :=
  float2 (fun a b => toF32 ((f32 a).mul (f32 b))) d a b s
def execFfma (d a b : Reg) (s : State) : Host.Outcome State Fault Refusal :=
  float3 none (fun d a b => toF32 (sumTerms [(f32 a).mul (f32 b), f32 d])) d a b s

/-- The order of FP32 encodings that are not NaN: the sign-magnitude integer, in which +0 and −0 are equal (R130). -/
def orderKey (x : Word) : Int := if x.msb then -(x.toNat % 2 ^ 31 : Nat) else (x.toNat % 2 ^ 31 : Nat)

/-- FMIN and FMAX (R129): −0 orders below +0, and a NaN gives way to the other operand. -/
def minMax (max : Bool) (a b : Word) : Word × Flags :=
  let nv := flagIf ((f32 a).isSig || (f32 b).isSig) flagNV
  let below := decide (orderKey a < orderKey b) || (orderKey a == orderKey b && a.msb && !b.msb)
  let r := match (f32 a).isNan, (f32 b).isNan with
    | true, true => BitVec.ofNat 32 fp32.canonical
    | true, false => b
    | false, true => a
    | false, false => if below != max then a else b
  (r, nv)

def execFmin (d a b : Reg) (s : State) : Host.Outcome State Fault Refusal := float2 (minMax false) d a b s
def execFmax (d a b : Reg) (s : State) : Host.Outcome State Fault Refusal := float2 (minMax true) d a b s

/-- A comparison (R130): 0 with a NaN operand, which sets NV when it signals, or always in the ordered comparisons. -/
def compareF (ordered : Bool) (test : Int → Int → Bool) (a b : Word) : Word × Flags :=
  if (f32 a).isNan || (f32 b).isNan then (0#32, flagIf (ordered || (f32 a).isSig || (f32 b).isSig) flagNV)
  else (if test (orderKey a) (orderKey b) then 1#32 else 0#32, 0#5)

def execFseq (d a b : Reg) (s : State) : Host.Outcome State Fault Refusal :=
  float2 (compareF false fun x y => x == y) d a b s
def execFslt (d a b : Reg) (s : State) : Host.Outcome State Fault Refusal :=
  float2 (compareF true fun x y => decide (x < y)) d a b s
def execFsle (d a b : Reg) (s : State) : Host.Outcome State Fault Refusal :=
  float2 (compareF true fun x y => decide (x ≤ y)) d a b s

/-! FUN on the FMA unit (R131, R132). -/

/-- A function of FP32 that gives the canonical NaN for a NaN, with NV when it signals (R132). -/
def onNumber (f : Word → Word) (a : Word) : Word × Flags :=
  match f32 a with
  | .nan sig => (BitVec.ofNat 32 fp32.canonical, flagIf sig flagNV)
  | _ => (f a, 0#5)

def execFabs (d a : Reg) (s : State) : Host.Outcome State Fault Refusal :=
  float1 1 none (onNumber fun x => x &&& 0x7FFFFFFF#32) d a s
def execFneg (d a : Reg) (s : State) : Host.Outcome State Fault Refusal :=
  float1 1 none (onNumber fun x => x ^^^ 0x80000000#32) d a s

/-- Rounds to an integral value; the sign is kept, and infinities and magnitudes of 2^23 or more are unchanged (R132). -/
def integral (mode : RMode) (x : Word) : Word :=
  match f32 x with
  | .num neg mag exp =>
    if 0 ≤ exp then x else
      let r := roundAt mode neg mag exp 0
      BitVec.ofNat 32 (fp32.rne (.num neg r.1 0)).1
  | _ => x

def execFrndn (d a : Reg) (s : State) : Host.Outcome State Fault Refusal := float1 1 none (onNumber (integral .rne)) d a s
def execFrndz (d a : Reg) (s : State) : Host.Outcome State Fault Refusal := float1 1 none (onNumber (integral .rz)) d a s
def execFrndp (d a : Reg) (s : State) : Host.Outcome State Fault Refusal := float1 1 none (onNumber (integral .ru)) d a s
def execFrndm (d a : Reg) (s : State) : Host.Outcome State Fault Refusal := float1 1 none (onNumber (integral .rd)) d a s

/-- The class mask (R132). -/
def classOf (a : Word) : Word :=
  match f32 a with
  | .nan sig => if sig then 0x100#32 else 0x200#32
  | .inf neg => if neg then 0x001#32 else 0x080#32
  | .num neg mag _ =>
    if mag = 0 then (if neg then 0x008#32 else 0x010#32)
    else if mag < 2 ^ 23 then (if neg then 0x004#32 else 0x020#32)
    else (if neg then 0x002#32 else 0x040#32)

def execFclass (d a : Reg) (s : State) : Host.Outcome State Fault Refusal := float1 1 none (fun x => (classOf x, 0#5)) d a s

/-! Paired 16-bit instructions (R134). -/

/-- Half `h` of a word (R47). -/
def half (x : Word) (h : Nat) : Nat := natBits x.toNat (16 * h + 15) (16 * h)

/-- Both halves of a result, with the flags of both. -/
def halves (lo hi : Nat × Flags) : Word × Flags := (BitVec.ofNat 32 (lo.1 + 65536 * hi.1), lo.2 ||| hi.2)

/-- A sum or product of halves. -/
def paired2 (F : FFormat) (f : FVal → FVal → FVal) (a b : Word) : Word × Flags :=
  halves (F.rne (f (F.decode (half a 0)) (F.decode (half b 0)))) (F.rne (f (F.decode (half a 1)) (F.decode (half b 1))))

/-- A fused multiply-add of halves. -/
def paired3 (F : FFormat) (d a b : Word) : Word × Flags :=
  let one (h : Nat) := F.rne (sumTerms [(F.decode (half a h)).mul (F.decode (half b h)), F.decode (half d h)])
  halves (one 0) (one 1)

def execBadd2 (d a b : Reg) (s : State) : Host.Outcome State Fault Refusal :=
  float2 (paired2 bf16 fun x y => sumTerms [x, y]) d a b s
def execBmul2 (d a b : Reg) (s : State) : Host.Outcome State Fault Refusal := float2 (paired2 bf16 FVal.mul) d a b s
def execBfma2 (d a b : Reg) (s : State) : Host.Outcome State Fault Refusal := float3 none (paired3 bf16) d a b s
def execHfma2 (d a b : Reg) (s : State) : Host.Outcome State Fault Refusal := float3 none (paired3 fp16) d a b s

/-! Dot products (R137 to R139): fixed latency 10. -/

/-- Element `i` of `n` bits (R47). -/
def element (x : Word) (n i : Nat) : Nat := natBits x.toNat (n * i + n - 1) (n * i)

/-- DOT4I and DOT8I (R138): an exact sum, saturated to 32 bits without a flag. -/
def dotInt (bits : Nat) (d a b : Word) : Word × Flags :=
  let t := ((List.range (32 / bits)).map fun i => signedOf bits (element a bits i) * signedOf bits (element b bits i)).foldl (· + ·) d.toInt
  (BitVec.ofInt 32 (clampInt (-2 ^ 31) (2 ^ 31 - 1) t), 0#5)

/-- DOT4F, DOT8F and DOT2B (R139): one chunk, closed to FP32. -/
def dotFloat (F : FFormat) (d a b : Word) : Word × Flags :=
  let ps := (List.range (32 / F.bits)).map fun i => (F.decode (element a F.bits i)).mul (F.decode (element b F.bits i))
  toF32 (sumTerms (f32 d :: ps))

def execDot4i (d a b : Reg) (s : State) : Host.Outcome State Fault Refusal := float3 (some 10) (dotInt 8) d a b s
def execDot8i (d a b : Reg) (s : State) : Host.Outcome State Fault Refusal := float3 (some 10) (dotInt 4) d a b s
def execDot4f (d a b : Reg) (s : State) : Host.Outcome State Fault Refusal := float3 (some 10) (dotFloat fE4m3) d a b s
def execDot8f (d a b : Reg) (s : State) : Host.Outcome State Fault Refusal := float3 (some 10) (dotFloat fE2m1) d a b s
def execDot2b (d a b : Reg) (s : State) : Host.Outcome State Fault Refusal := float3 (some 10) (dotFloat bf16) d a b s

end Sys2Proof.Machine
end

