-- ==== Sys2Proof/Machine/Convert.lean ====
section
/-! DEFINITION. Conversions (R135, R136). -/

namespace Sys2Proof.Machine

/-- CVT of one register: FMT is checked for its reserved bits, and `f` maps FMT and the source to the result and flags (R135). -/
def convert (f : Word → Word → Word × Flags) (d a : Reg) (s : State) : Host.Outcome State Fault Refusal :=
  issue (fun v => { names := [d.toNat, a.toNat], reads := [a.toNat], illegal := fmtReserved v.p.fmt }) (fun v =>
    let x := v.rd a.toNat
    let r : Lanes (Word × Flags) := lanesOf fun L => f v.p.fmt x[L]
    .ok (v.wr (v.flag v.s (lanesOf fun L => r[L].2)) d.toNat (lanesOf fun L => r[L].1))) s

/-- An exact widening to FP32 of the low bits of the source (R135). -/
def widen (F : FFormat) (_fmt x : Word) : Word × Flags := toF32 (F.decode (x.toNat % 2 ^ F.bits))
/-- A conversion from FP32 that rounds and saturates by FMT. -/
def narrow (F : FFormat) (fmt x : Word) : Word × Flags := asWord (F.round (fmtRnd fmt) (fmtSat fmt) (f32 x))
/-- An integer converted to FP32 in the mode of FMT (R55). -/
def fromInt (fmt : Word) (i : Int) : Word × Flags := asWord (fp32.round (fmtRnd fmt) (fmtSat fmt) (intVal i))
/-- FP32 converted to an integer between two ends, in `n` bits (R55). -/
def intOf (n : Nat) (lo hi : Int) (fmt x : Word) : BitVec n × Flags :=
  let r := toIntRange (fmtRnd fmt) lo hi (f32 x)
  (BitVec.ofInt n r.1, r.2)
/-- An integer narrowed to `n` bits and read as signed: clamped when FMT [19] is 1, else its low bits (R55). -/
def narrowS (n : Nat) (fmt x : Word) : Word × Flags :=
  let i := x.toInt
  (BitVec.ofInt 32 (if fmtSat fmt then clampInt (-2 ^ (n - 1)) (2 ^ (n - 1) - 1) i else signedOf n x.toNat), 0#5)
/-- An unsigned integer narrowed to `n` bits (R55). -/
def narrowZ (n : Nat) (fmt x : Word) : Word × Flags :=
  (BitVec.ofNat 32 (if fmtSat fmt then min x.toNat (2 ^ n - 1) else x.toNat % 2 ^ n), 0#5)

def execCvtF32F16 (d a : Reg) (s : State) : Host.Outcome State Fault Refusal := convert (widen fp16) d a s
def execCvtF32Bf16 (d a : Reg) (s : State) : Host.Outcome State Fault Refusal := convert (widen bf16) d a s
def execCvtF16F32 (d a : Reg) (s : State) : Host.Outcome State Fault Refusal := convert (narrow fp16) d a s
def execCvtBf16F32 (d a : Reg) (s : State) : Host.Outcome State Fault Refusal := convert (narrow bf16) d a s
def execCvtF32S32 (d a : Reg) (s : State) : Host.Outcome State Fault Refusal := convert (fun m x => fromInt m x.toInt) d a s
def execCvtF32Z32 (d a : Reg) (s : State) : Host.Outcome State Fault Refusal := convert (fun m x => fromInt m x.toNat) d a s
def execCvtS32F32 (d a : Reg) (s : State) : Host.Outcome State Fault Refusal :=
  convert (intOf 32 (-2 ^ 31) (2 ^ 31 - 1)) d a s
def execCvtZ32F32 (d a : Reg) (s : State) : Host.Outcome State Fault Refusal := convert (intOf 32 0 (2 ^ 32 - 1)) d a s
def execCvtF32E4m3 (d a : Reg) (s : State) : Host.Outcome State Fault Refusal := convert (widen fE4m3) d a s
def execCvtF32E5m2 (d a : Reg) (s : State) : Host.Outcome State Fault Refusal := convert (widen fE5m2) d a s
def execCvtF32E3m2 (d a : Reg) (s : State) : Host.Outcome State Fault Refusal := convert (widen fE3m2) d a s
def execCvtF32E2m3 (d a : Reg) (s : State) : Host.Outcome State Fault Refusal := convert (widen fE2m3) d a s
def execCvtF32E2m1 (d a : Reg) (s : State) : Host.Outcome State Fault Refusal := convert (widen fE2m1) d a s
def execCvtE4m3F32 (d a : Reg) (s : State) : Host.Outcome State Fault Refusal := convert (narrow fE4m3) d a s
def execCvtE5m2F32 (d a : Reg) (s : State) : Host.Outcome State Fault Refusal := convert (narrow fE5m2) d a s
def execCvtE3m2F32 (d a : Reg) (s : State) : Host.Outcome State Fault Refusal := convert (narrow fE3m2) d a s
def execCvtE2m3F32 (d a : Reg) (s : State) : Host.Outcome State Fault Refusal := convert (narrow fE2m3) d a s
def execCvtE2m1F32 (d a : Reg) (s : State) : Host.Outcome State Fault Refusal := convert (narrow fE2m1) d a s
def execCvtF32E8m0 (d a : Reg) (s : State) : Host.Outcome State Fault Refusal := convert (widen fE8m0) d a s
def execCvtE8m0F32 (d a : Reg) (s : State) : Host.Outcome State Fault Refusal := convert (narrow fE8m0) d a s
def execCvtS16S32 (d a : Reg) (s : State) : Host.Outcome State Fault Refusal := convert (narrowS 16) d a s
def execCvtS8S32 (d a : Reg) (s : State) : Host.Outcome State Fault Refusal := convert (narrowS 8) d a s
def execCvtZ16Z32 (d a : Reg) (s : State) : Host.Outcome State Fault Refusal := convert (narrowZ 16) d a s
def execCvtZ8Z32 (d a : Reg) (s : State) : Host.Outcome State Fault Refusal := convert (narrowZ 8) d a s

/-- CVT.F32.S64 (R135): the source is a signed pair. -/
def execCvtF32S64 (d a : Reg) (s : State) : Host.Outcome State Fault Refusal :=
  issue (fun v => { names := d.toNat :: pairRegs a.toNat, reads := pairRegs a.toNat, illegal := fmtReserved v.p.fmt }) (fun v =>
    let x := v.rd2 a.toNat
    let r : Lanes (Word × Flags) := lanesOf fun L => fromInt v.p.fmt x[L].toInt
    .ok (v.wr (v.flag v.s (lanesOf fun L => r[L].2)) d.toNat (lanesOf fun L => r[L].1))) s

/-- CVT.S64.F32 (R135): the result is a pair. -/
def execCvtS64F32 (d a : Reg) (s : State) : Host.Outcome State Fault Refusal :=
  issue (fun v => { names := pairRegs d.toNat ++ [a.toNat], reads := [a.toNat], illegal := fmtReserved v.p.fmt }) (fun v =>
    let x := v.rd a.toNat
    let r : Lanes (DWord × Flags) := lanesOf fun L => intOf 64 (-2 ^ 63) (2 ^ 63 - 1) v.p.fmt x[L]
    .ok (v.wr2 (v.flag v.s (lanesOf fun L => r[L].2)) d.toNat (lanesOf fun L => r[L].1))) s

/-- conv of R136: the element of format code `af`, and its flags. -/
def convertElement (fmt : Word) (x : Word) : Nat × Flags :=
  let af := fmtAF fmt
  match codeFormat af with
  | some F => F.round (fmtRnd fmt) (fmtSat fmt) (f32 x)
  | none =>
    let n := codeBits af
    if af = 7 ∨ af = 9 then ((narrowS n fmt x).1.toNat % 2 ^ n, 0#5) else ((narrowZ n fmt x).1.toNat % 2 ^ n, 0#5)

/-- One lane of CVTP (R136): the old elements move down by two, and the two new ones come on top. -/
def shiftIn (fmt d a b : Word) : Word × Flags :=
  let w := codeBits (fmtAF fmt)
  let top := if w = 6 then 24 else 32
  let x := convertElement fmt a
  let y := convertElement fmt b
  let t := (d.toNat % 2 ^ top) / 2 ^ (2 * w) + x.1 * 2 ^ (top - 2 * w) + y.1 * 2 ^ (top - w)
  (BitVec.ofNat 32 t, x.2 ||| y.2)

/-- CVTP (R136): AF 11 to 15 is ILLEGAL. -/
def execCvtp (d a b : Reg) (s : State) : Host.Outcome State Fault Refusal :=
  issue (fun v => { names := [d.toNat, a.toNat, b.toNat], reads := [d.toNat, a.toNat, b.toNat]
                    illegal := fmtReserved v.p.fmt || decide (11 ≤ fmtAF v.p.fmt) }) (fun v =>
    let z := v.rd d.toNat
    let x := v.rd a.toNat
    let y := v.rd b.toNat
    let r : Lanes (Word × Flags) := lanesOf fun L => shiftIn v.p.fmt z[L] x[L] y[L]
    .ok (v.wr (v.flag v.s (lanesOf fun L => r[L].2)) d.toNat (lanesOf fun L => r[L].1))) s

end Sys2Proof.Machine
end

