-- ==== Sys2Proof/Machine/Memory.lean ====
section
/-! DEFINITION. Global memory: the home and the writes on their way to it, keys, cached copies, translation, and the checks of an
access (R211 to R228, R235 to R252). -/

namespace Sys2Proof.Machine

/-- Bytes of HBM (R396). -/
def hbmBytes : Nat := 0x4800000000
/-- Host frames lie at PA[51] = 1 (R251). -/
def isHost (pa : Nat) : Bool := decide (2 ^ 51 ≤ pa)
/-- The HBM stack whose home agent serves an address of device memory (R240). -/
def homeStack (pa : Nat) : Nat := Nat.xor (Nat.xor (natBits pa 9 7) (natBits pa 12 10)) (natBits pa 15 13)
/-- The interposer of an HBM stack (R240). -/
def homeInterposer (stack : Nat) : Nat := stack / 4
/-- The line of an address (R235). -/
def lineOf (pa : Nat) : Nat := pa / 128
/-- The base of the line or host sector that a cache holds (R235, R244). -/
def copyBase (pa : Nat) : Nat := if isHost pa then pa / 64 * 64 else pa / 128 * 128

/-- Bytes at the home: what the walker, the host and the scheduler read (R240, R247, R248). -/
def State.homeRead (s : State) (pa n : Nat) : List Byte := cellRead s.mem pa n
/-- A little-endian number at the home. -/
def State.homeNat (s : State) (pa n : Nat) : Nat := ofBytes (s.homeRead pa n)

/-- The bytes [pa, pa+n) with the part that a write covers replaced. -/
def overlay (pa : Nat) (bs : List Byte) (wpa : Nat) (ws : List Byte) : List Byte :=
  bs.zipIdx.map fun p => if wpa ≤ pa + p.2 then ws.getD (pa + p.2 - wpa) p.1 else p.1

/-- The two ranges have a byte in common. -/
def overlaps (a n b m : Nat) : Bool := decide (a < b + m) && decide (b < a + n)

/-- A write is visible to a core (R214, R241). -/
def PWrite.seenBy (w : PWrite) (core : Nat) : Bool := scopeHas w.reach w.core core

/-- Bytes as a core sees them: the newest visible write in coherence order, else the home (R219, R241). -/
def State.coreRead (s : State) (core pa n : Nat) : List Byte :=
  s.writes.foldl (fun bs w => if w.seenBy core && overlaps pa n w.pa w.bytes.length then overlay pa bs w.pa w.bytes else bs)
    (s.homeRead pa n)

/-- Bytes of the newest write in coherence order, wherever it has got to: what a read-modify-write reads (R219). -/
def State.newestRead (s : State) (pa n : Nat) : List Byte :=
  s.writes.foldl (fun bs w => if overlaps pa n w.pa w.bytes.length then overlay pa bs w.pa w.bytes else bs) (s.homeRead pa n)

/-- A physical page as a translation gives it: the address, whether the page is sequentially consistent, and its key slot (R250). -/
structure Frame where
  pa  : Nat
  sc  : Bool
  key : Nat
deriving DecidableEq, Repr

/-- An access to the line raises POISON; a line lost with a die counts from its loss on (R237, R243). -/
def State.isPoisoned (s : State) (pa : Nat) : Bool := s.poisoned.contains (lineOf pa) || s.lost.any fun x => x.2 == lineOf pa

/-! Keys (R252, R366). -/

/-- The slot and load of a key slot now. -/
def State.keyTag (s : State) (slot : Nat) : Nat × Nat := (slot, (kfind s.keyGen slot).getD 0)

/-- The line was last written under another key than the one that the slot holds. -/
def State.wrongKey (s : State) (pa slot : Nat) : Bool :=
  match kfind s.lineKeys (lineOf pa) with
  | some t => !isHost pa && t != s.keyTag slot
  | none => false

/-- What the bytes [pa, pa+n) decrypt to under a slot whose key is not theirs (R366). -/
def State.garbledBytes (s : State) (pa n slot : Nat) : List Byte :=
  (List.range n).map fun i =>
    Config.garbled (pa + i) slot (s.keyTag slot).2 (s.homeNat ((pa + i) / 16 * 16) 16)

/-- Bytes at their home as the key of the page that names them decrypts them (R252, R366). -/
def State.homeBytes (s : State) (f : Frame) (n : Nat) : List Byte :=
  if s.wrongKey f.pa f.key then s.garbledBytes f.pa n f.key else s.homeRead f.pa n

/-- The key slot that a line was last written under; slot 0 where it was never written (R366). -/
def State.lineSlot (s : State) (pa : Nat) : Nat := ((kfind s.lineKeys (lineOf pa)).map (·.1)).getD 0

/-- The key slot that a line is encrypted under is empty (R366). -/
def State.lineLocked (s : State) (pa : Nat) : Bool := !s.keys.contains (s.lineSlot pa)

/-- What the device's own engines read at a home: the walker, and the scheduler of a launch. They name no page, so the bytes are those that the
line's own slot decrypts; of a line whose slot is empty or loaded anew, nothing of the old bytes (R366; DESIGN CHOICE, log 84). -/
def State.engineBytes (s : State) (pa n : Nat) : List Byte :=
  if s.lineLocked pa then s.garbledBytes pa n (s.lineSlot pa) else s.homeBytes ⟨pa, false, s.lineSlot pa⟩ n

/-- A little-endian number that the device's own engines read. -/
def State.engineNat (s : State) (pa n : Nat) : Nat := ofBytes (s.engineBytes pa n)

/-! Translation (R248 to R253, R256, R257). -/

/-- Who translates: address space, owner key and mode (R248, R251, R252). -/
structure Space where
  asid   : BitVec 16
  ptb    : Nat
  ownkey : Nat
  user   : Bool
deriving DecidableEq, Repr

def Team.space (t : Team) (m : Mode) : Space := ⟨t.asid, t.ptb.toNat, t.ownkey.toNat, m == .user⟩

/-- The space that a fetch ahead names (R169): its ASID in `k`, its table root and owner key in `data`, its mode in `m`. -/
def EvArg.space (a : EvArg) : Space := ⟨BitVec.ofNat 16 a.k, ofBytes (a.data.take 8), ofBytes (a.data.drop 8), a.m != 1⟩

/-- A fetch ahead of an address by the tile engine of a core, in a space (R169). -/
def Space.aheadArg (sp : Space) (core va : Nat) (write : Bool) : EvArg :=
  { core := core, n := va, m := if sp.user then 0 else 1, k := sp.asid.toNat, flag := write, data := bytesOf 8 sp.ptb ++ bytesOf 2 sp.ownkey }

/-- What an access needs (R212). -/
inductive Need where
  | read | write | both | fetch
deriving DecidableEq, Repr

/-- How a walk ends (R251). -/
inductive Walk where
  | invalid
  | poison
  | leaf (lvl : Nat) (e : Nat)
deriving DecidableEq, Repr

/-- The lowest address bit that the index of a level covers (R248). -/
def levelShift (lvl : Nat) : Nat := 46 - 10 * lvl
/-- The entries of a table of a level (R248). -/
def levelEntries (lvl : Nat) : Nat := if lvl = 0 then 2048 else 1024

/-- The physical address of the frame of a leaf entry. -/
def leafFrame (e : Nat) : Nat := natBits e 51 16 * 65536

/-- The conditions of R251 on a leaf entry with V = 1 at a level, permissions and keys apart. -/
def leafValid (lvl e : Nat) : Bool :=
  decide (lvl ≠ 0) && natBits e 15 10 == 0 &&
    (natBits e 1 1 == 1 ||
      (let fr := leafFrame e
       let kind := natBits e 9 8
       fr % 2 ^ levelShift lvl == 0 &&
         ((kind == 0 && decide (fr < hbmBytes)) || (kind == 1 && isHost fr && natBits e 63 52 == 0))))

/-- The next table that a table entry of a level names, if it passes the checks of R251 and is no leaf. -/
def tableNext (lvl e : Nat) : Option Nat :=
  let next := natBits e 51 13 * 8192
  if e % 2 = 0 || natBits e 2 2 = 1 || lvl = 3 || natBits e 1 1 = 1 || natBits e 63 52 ≠ 0 || natBits e 12 3 ≠ 0 || decide (hbmBytes ≤ next) then none
  else some next

/-- A walk from the table at `base` (R248, R251). -/
def State.walkFrom (s : State) (va : Nat) : List Nat → Nat → Walk
  | [], _ => .invalid
  | lvl :: rest, base =>
    let a := base + 8 * (va / 2 ^ levelShift lvl % levelEntries lvl)
    if s.isPoisoned a then .poison
    else
      let e := s.engineNat a 8
      if e % 2 = 0 then .invalid
      else if natBits e 2 2 = 1 then (if leafValid lvl e then .leaf lvl e else .invalid)
      else match tableNext lvl e with
        | some next => walkFrom s va rest next
        | none => .invalid

/-- The walk of an address space (R248): a root at or above 2^52, or one outside HBM, makes every access invalid. -/
def State.walk (s : State) (ptb va : Nat) : Walk :=
  if hbmBytes ≤ ptb then .invalid else s.walkFrom va [0, 1, 2, 3] ptb

/-- A TLB entry translates the address (R256). -/
def TlbEntry.hits (e : TlbEntry) (asid : BitVec 16) (va : Nat) : Bool := e.asid == asid && e.page == va / 2 ^ levelShift e.lvl

/-- The leaf that a core finds: in its L1 TLB, then in its block's L2 TLB, else by a walk (R256, R257). -/
def State.findLeaf (s : State) (core : Nat) (sp : Space) (va : Nat) (ahead : Bool := false) : Walk :=
  match s.tlb.find? fun e => (e.tlb == .l1 core || e.tlb == .l2 (core / 16) || (ahead && e.tlb == .ahead core)) && e.hits sp.asid va with
  | some e => .leaf e.lvl e.leaf.toNat
  | none => s.walk sp.ptb va

/-- What an access meets (R212, R213): a frame, an absent page at a level, or a cause with the number of its check. -/
inductive Xlat where
  | ok (f : Frame)
  | absent (lvl : Nat)
  | bad (check : Nat) (c : Cause)
deriving DecidableEq, Repr

/-- The entry gives the permission that the access needs (R212, R250, R251). -/
def leafAllows (e : Nat) (user : Bool) (need : Need) : Bool :=
  (!user || natBits e 6 6 == 1) &&
    (match need with
      | .read => natBits e 3 3 == 1
      | .write => natBits e 4 4 == 1
      | .both => natBits e 3 3 == 1 && natBits e 4 4 == 1
      | .fetch => natBits e 5 5 == 1)

/-- Check 5 refuses the space (R252, R366): the rule is for HBM pages and for absent ones. -/
def State.keyRefuses (s : State) (sp : Space) (e : Nat) : Bool :=
  (natBits e 1 1 == 1 || natBits e 9 8 == 0) &&
    (let k := natBits e 63 52
     !((k == sp.ownkey || k == 0) && s.keys.contains k))

/-- Translation of an address with bits [63:57] zero: checks 3 to 5 of R212, and absence (R213). Where a page begins in HBM and runs past its end, only
an address beyond the end is refused, after checks 4 and 5 (DEDUCED, log 32). -/
def State.translate (s : State) (core : Nat) (sp : Space) (va : Nat) (need : Need) (ahead : Bool := false) : Xlat :=
  match s.findLeaf core sp va ahead with
  | .invalid => .bad 3 .pageInvalid
  | .poison => .bad 6 .poison
  | .leaf lvl e =>
    if !leafAllows e sp.user need then .bad 4 .pagePerm
    else if s.keyRefuses sp e then .bad 5 .key
    else if natBits e 1 1 = 1 then .absent lvl
    else
      let pa := leafFrame e + va % 2 ^ levelShift lvl
      if !isHost pa && decide (hbmBytes ≤ pa) then .bad 3 .pageInvalid
      else .ok ⟨pa, natBits e 7 7 == 1, natBits e 63 52⟩

/-- The word at an offset of the code window (R18), or the fetch fault: an absent page counts as invalid, and so does a walk that meets a
poisoned table entry (R251), and a page that the key rule refuses; a code line in state P raises POISON (R237; DEDUCED, log 13). The bytes are
those at their home at the fetch, in every grid (DESIGN CHOICE, log 64), as the page's key decrypts them (R252, R366). -/
def State.fetchWord (s : State) (k : GKey) (mode : Mode) (pc : Word) : Except (Cause × DWord) Word :=
  let a := (s.grid k.slot).lr.codeBase + pc.setWidth 64
  if natBits a.toNat 63 57 ≠ 0 then .error (.pageInvalid, a)
  else
    match s.translate (s.coreOf k) ((s.team k.tkey).space mode) a.toNat .fetch with
    | .ok f =>
      if s.isPoisoned f.pa then .error (.poison, a)
      else .ok (BitVec.ofNat 32 (ofBytes (s.homeBytes f 4)))
    | .absent _ => .error (.pageInvalid, a)
    | .bad _ c => .error (if c = .pagePerm then .pagePerm else .pageInvalid, a)

/-- All checks of R212 on the address of one lane, `n` bytes wide. -/
def State.access (s : State) (core : Nat) (sp : Space) (a : DWord) (n : Nat) (need : Need) : Xlat :=
  if natBits a.toNat 63 57 ≠ 0 then .bad 1 .pageInvalid
  else if a.toNat % n ≠ 0 then .bad 2 .align
  else match s.translate core sp a.toNat need with
    | .ok f => if s.isPoisoned f.pa then .bad 6 .poison else .ok f
    | .absent lvl => if need = .read then .absent lvl else .bad 3 .pageInvalid
    | x => x

/-! Peers: what an access from a peer meets, and what the device sends (R300, R301, R304, R320). -/

/-- A domain's address space, in user mode with its owner key (R300). -/
def Domain.space (e : Domain) : Space := ⟨e.asid, e.ptb.toNat, e.ownkey.toNat, true⟩

/-- How remote_resolve ends (R300): a frame, an absent page with its level and address, or a reason of R306. -/
inductive Resolved where
  | ok (f : Frame)
  | absent (lvl va : Nat)
  | fail (reason : Nat)
deriving DecidableEq, Repr

/-- A core number that stands for an agent outside the cores: no TLB holds anything for it. -/
def noCore : Nat := 2048

/-- remote_resolve of R300 for an access of `n` bytes at offset `o` of domain `dom` from peer `src`, poisoned lines apart. -/
def State.resolveFrame (s : State) (dom src o n : Nat) (need : Need) : Resolved :=
  match kfind s.domains dom with
  | none => .fail 2
  | some e =>
    if !e.valid || !e.members.contains src then .fail 2
    else if e.heapsz.toNat < o + n then .fail 3
    else
      let a := e.heapb.toNat + o
      if 2 ^ 57 ≤ a then .fail 4
      else match s.translate noCore e.space a need with
        | .ok f => .ok f
        | .absent lvl => .absent lvl a
        | .bad _ c => match c with
          | .pagePerm | .key => .fail 5
          | .poison => .fail 7
          | _ => .fail 4

/-- remote_resolve of R300. -/
def State.resolve (s : State) (dom src o n : Nat) (need : Need) : Resolved :=
  match s.resolveFrame dom src o n need with
  | .ok f => if s.isPoisoned f.pa then .fail 7 else .ok f
  | x => x

/-- This device's peer number (R298). -/
def State.selfNum (s : State) : Nat := natBits s.selfPeer.toNat 8 0

def State.port (s : State) (n : Nat) : Port := (kfind s.ports n).getD {}

/-- The entry of the plane map for an offset at a peer (R301). -/
def planeEntry (peer o : Nat) : Nat :=
  Nat.xor (Nat.xor (natBits peer 4 0) (natBits o 11 7)) (Nat.xor (natBits o 16 12) (natBits o 21 17))
/-- The plane map (R301). -/
def State.planeOf (s : State) (entry : Nat) : Nat := (kfind s.planeMap entry).getD entry

/-- New packets of an entry of the plane map wait: its plane is down, or the entry is about to move (R302). -/
def State.planeHeld (s : State) (entry : Nat) : Bool := !(s.port (s.planeOf entry)).up || s.moving.any fun m => m.1 = entry

/-- Every plane is down (R302). -/
def State.noPlane (s : State) : Bool := (List.range 32).all fun p => !(s.port p).up

/-- The stream to a peer has no number left (R305). -/
def State.usedUp (s : State) (dom peer : Nat) : Bool := decide (2 ^ 48 - 1 ≤ (kfind s.seqOut (dom, peer)).getD 0)

/-- The IV of a packet (R304): the number of its stream, the source and the destination. -/
def packetIv (seq src dst : Nat) : BitVec 96 := BitVec.ofNat 96 (seq * 2 ^ 48 + src % 512 * 2 ^ 39 + dst % 512 * 2 ^ 30)

/-- The flits of a packet: 1 to 16 (R302). -/
def flitsOf (dom peer seq : Nat) : List Flit := (List.range (1 + Config.flits dom peer seq % 16)).map fun i => ⟨dom, peer, seq, i⟩

/-- The device asks for a re-key of a domain one of whose streams has come to half its numbers (R305). -/
def State.askRekey (s : State) (dom : Nat) : State :=
  if s.rekeyAsks.contains dom then s else { s with rekeyAsks := s.rekeyAsks ++ [dom] }

/-- A port with other flits to replay; the failed replays are those of its oldest flit (R302). -/
def Port.withReplay (p : Port) (fs : List Flit) : Port := { p with replay := fs, tries := if fs.head? = p.replay.head? then p.tries else 0 }

/-- A packet goes out as the next of its stream (R304), on the plane of the line that it concerns, whose home is device `home` (R301), and its flits
wait for their acknowledgement (R302); a stream that is used up sends nothing (R305). -/
def State.sendNow (s : State) (peer dom home o : Nat) (b : Body) : State :=
  let n := (kfind s.seqOut (dom, peer)).getD 0
  let plane := s.planeOf (planeEntry home o)
  let e := (kfind s.domains dom).getD {}
  let q := s.port plane
  let flits := q.replay ++ flitsOf dom peer n
  if 2 ^ 48 - 1 ≤ n then s
  else
    let s1 : State := { s with
      seqOut := kput s.seqOut (dom, peer) (n + 1)
      sent := s.sent ++ [⟨peer, dom, n, plane, if e.ksel then 1 else 0, packetIv n s.selfNum peer, e.isSealed, b⟩]
      ports := kput s.ports plane (q.withReplay (flits.drop (flits.length - 64))) }
    if n = 2 ^ 47 then s1.askRekey dom else s1

/-- A packet goes out, or waits for its plane (R302). -/
def State.send (s : State) (peer dom home o : Nat) (b : Body) : State :=
  if s.planeHeld (planeEntry home o) then { s with heldOut := s.heldOut ++ [⟨peer, dom, home, o, b, none⟩] } else s.sendNow peer dom home o b

/-- The receiver's check of a packet (R305); none where it drops it. -/
def State.acceptFrom (s : State) (p : RPacket) : Option State :=
  let dom := p.dom.toNat
  let src := p.src.toNat
  match kfind s.domains dom with
  | none => none
  | some e =>
    if !e.valid || !e.members.contains src || (e.isSealed && !p.auth) then none
    else
      let st := (kfind s.seqIn (dom, src)).getD {}
      let take := fun (h : Nat) =>
        let seen := ((p.seq, s.cycle) :: st.seen).filter fun x => decide (h ≤ x.1 + 4096)
        let s := if 2 ^ 47 ≤ p.seq && decide (st.high.getD 0 < 2 ^ 47) then s.askRekey dom else s
        some { s with seqIn := kput s.seqIn (dom, src) ⟨some h, seen, st.given.filter fun x => decide (h ≤ x + 4096)⟩ }
      match st.high with
      | none => take p.seq
      | some h =>
        if h < p.seq then take p.seq
        else if h ≤ p.seq + 4096 && p.seq ≠ h && !(st.seen.any fun x => x.1 = p.seq) && !st.given.contains p.seq then take h
        else none

/-- The packets that have come together are checked one after the other; the flag says that none was dropped. -/
def State.acceptAll (s : State) (ps : List RPacket) : State × Bool :=
  ps.foldl (fun a p => match a.1.acceptFrom p with
    | some s => (s, a.2)
    | none => (a.1, false)) (s, true)

/-- Where a line lies in a region of the own heap, if the region's page now holds it: its offset there, and the page's key (R318, R320). -/
def State.inRegion (s : State) (r : HomeRegion) (pa : Nat) : Option (Nat × Nat) :=
  match s.resolveFrame r.dom (r.subs.headD 0) (r.page * 4096) 1 .read with
  | .ok f => if f.pa ≤ pa && decide (pa < f.pa + 4096) then some (r.page * 4096 + (pa - f.pa) / 128 * 128, f.key) else none
  | _ => none

/-- The new line goes to every subscriber of a region that holds it (R320). -/
def State.pushLine (s : State) (pa : Nat) : State :=
  s.homes.foldl (fun s r =>
    match s.inRegion r pa with
    | none => s
    | some (o, key) =>
      let bs := s.homeBytes ⟨lineOf pa * 128, false, key⟩ 128
      r.subs.foldl (fun s q =>
        let s1 := s.send q r.dom s.selfNum o (.push o bs (s.isPoisoned pa))
        { s1 with fresh := s1.fresh + 1, pushes := s1.pushes ++ [⟨s1.fresh, q, r.dom, o⟩] }) s) s

/-! Monitors hear of writes as they become visible to their core (R271). -/

/-- The physical line that a group's monitor watches: where its page was absent when it was armed, the one that its address leads to now (R270,
R271). -/
def State.watched (s : State) (k : GKey) (g : Group) : Option Nat :=
  if !g.mon.armed then none
  else match g.mon.line with
    | some l => some l
    | none => match s.translate (s.coreOf k) ((s.team k.tkey).space .supervisor) g.mon.addr.toNat .read with
      | .ok f => some (lineOf f.pa)
      | _ => none

/-- Wakes for the monitors on a line that a write has newly reached, the writer's own group apart; a write at its home is pushed to the
subscribers of its line (R320). -/
def State.noteWrite (s : State) (pa core : Nat) (before after : Option Nat) (self : Option GKey) : State :=
  let due := s.groups.filter fun kg =>
    kg.2.mon.armed && s.watched kg.1 kg.2 == some (lineOf pa) && some kg.1 != self &&
      (match after with
        | some r => scopeHas r core (s.coreOf kg.1)
        | none => true) &&
      !(match before with
        | some r => scopeHas r core (s.coreOf kg.1)
        | none => false)
  (if after.isNone then s.pushLine pa else s).later (due.map fun kg => ⟨.monitorWriteWake, { key := kg.1, n := lineOf pa }⟩)

/-! Cached copies (R237, R239, R241). They carry no value; what a read returns is said above. -/

/-- The core's own caches. -/
def CacheUnit.core : CacheUnit → Nat
  | .l1 c => c
  | .l2 b => 16 * b

/-- The cache lies in the instance of the scope that holds the core. -/
def CacheUnit.within (u : CacheUnit) (scope core : Nat) : Bool := match u with
  | .l1 c => scopeHas scope core c
  | .l2 b => scopeHas (max scope 2) core (16 * b) && decide (2 ≤ scope)

def State.hasCopy (s : State) (u : CacheUnit) (base : Nat) : Bool := s.caches.any fun c => c.cache == u && c.base == base

/-- Copies that satisfy a test become invalid; those of an L1 wake monitors with reason 1 (R239, R271). -/
def State.dropIf (s : State) (test : CacheLine → Bool) : State :=
  let s' : State := { s with caches := s.caches.filter fun c => !test c }
  s'.later ((s.caches.filter test).filterMap fun c => match c.cache with
    | .l1 k => some ⟨.monitorLineLoss, { core := k, n := c.base / 128 }⟩
    | .l2 _ => none)

/-- Copies of a line within a scope of a core become invalid, those that a test keeps apart (R241). -/
def State.dropCopies (s : State) (scope core base : Nat) (keep : CacheUnit → Bool) : State :=
  s.dropIf fun c => c.base == base && c.cache.within scope core && !keep c.cache

/-- Ways and sets of a cache (R235). -/
def CacheUnit.ways : CacheUnit → Nat
  | .l1 _ => 8
  | .l2 _ => 16
def CacheUnit.sets : CacheUnit → Nat
  | .l1 _ => 128
  | .l2 _ => 2048

/-- The set of a cache that an address falls into: the line's number modulo the sets (DESIGN CHOICE, log 65). -/
def CacheUnit.setOf (u : CacheUnit) (base : Nat) : Nat := base / 128 % u.sets

/-- Copies of subscribed lines in a set of an L2 slice (R235, R320). -/
def State.uInSet (s : State) (b set : Nat) : List UCopy := s.ucopies.filter fun u => u.block == b && u.line % 2048 == set

/-- The line that gives way in a full set (R215): one marked .strm first, one marked .keep last, the oldest among equals. -/
def State.victim (s : State) (u : CacheUnit) (set : Nat) : Option Nat :=
  let here := s.caches.filter fun c => c.cache == u && u.setOf c.base == set
  let lines := (here.map fun c => c.base / 128).eraseDups
  let held := lines.length + (match u with
    | .l1 _ => 0
    | .l2 b => (s.uInSet b set).length)
  if held < u.ways then none
  else (((here.find? fun c => c.pol == 1).or (here.find? fun c => c.pol != 3)).or here.head?).map fun c => c.base / 128

/-- Makes room for one line in a set of a cache (R215, R235, R236): the line that gives way leaves the L1s below an L2 slice too, which is inclusive,
and the dirty data of a line that leaves its slice goes to the home. -/
def State.makeRoom (s : State) (u : CacheUnit) (set : Nat) : State :=
  match s.victim u set with
  | none => s
  | some l =>
    let leaves := fun (c : CacheLine) => c.base / 128 == l && (match u with
      | .l1 _ => c.cache == u
      | .l2 b => c.cache.core / 16 == b)
    match u with
    | .l1 _ => s.dropIf leaves
    | .l2 b => (s.dropIf leaves).later ((s.writes.filter fun w => lineOf w.pa == l && w.core / 16 == b).flatMap fun w =>
        List.replicate (6 - w.reach) ⟨.writePropagation, { n := w.id }⟩)

/-- Host sectors that the snoop filter records: 65,536 at most (R244). -/
def filterLimit : Nat := 65536

/-- Before a host sector is cached that the full snoop filter does not record, a recorded sector is evicted (R244); data written to host memory
is at the host at once (R214). -/
def State.filterRoom (s : State) (base : Nat) : State :=
  let held := ((s.caches.filter fun c => isHost c.base).map (·.base)).eraseDups
  if !isHost base || held.contains base || decide (held.length < filterLimit) then s
  else s.dropIf fun c => c.base == held.headD 0

/-- Puts a copy into a cache that has none of its line; one that is there keeps the policy that it came with (DESIGN CHOICE, log 65). -/
def State.addCopy (s : State) (u : CacheUnit) (base : Nat) (st : LineState) (pol : Nat) : State :=
  if s.hasCopy u base then s
  else
    let s0 := s.filterRoom base
    let s1 := if s0.caches.any fun c => c.cache == u && c.base / 128 == base / 128 then s0 else s0.makeRoom u (u.setOf base)
    { s1 with caches := s1.caches ++ [⟨u, base, st, pol⟩] }

/-- A read by a core fills its block's L2 and its L1, the policy .nla keeping the line out of the L1 (R215, R235, R237). -/
def State.fillCopy (s : State) (core base pol : Nat) : State :=
  let mine := fun (u : CacheUnit) => u == .l1 core || u == .l2 (core / 16)
  let others := s.caches.any fun c => c.base == base && !mine c.cache
  let st := if others then LineState.s else .e
  let share := fun (c : CacheLine) =>
    if c.base == base && !mine c.cache then
      { c with st := match c.st with
        | .m => .o
        | .e => .s
        | x => x }
    else c
  let shared : State := { s with caches := s.caches.map share }
  let s1 := shared.addCopy (.l2 (core / 16)) base st pol
  if pol = 2 then s1 else s1.addCopy (.l1 core) base st pol

/-- The cache is the L1 of the core or the L2 slice of its block. -/
def CacheUnit.servesCore (u : CacheUnit) (core : Nat) : Bool := u == .l1 core || u == .l2 (core / 16)

/-- A write makes the copies of the writer's own caches dirty: M, or O while others that it has not reached are valid, of which none is the only
one any more (R237, R241). The policy .nla keeps the line out of the L1 (R215). -/
def State.ownCopy (s : State) (core base pol : Nat) : State :=
  let others := s.caches.any fun c => c.base == base && !c.cache.servesCore core
  let st := if others then LineState.o else .m
  let mark := fun (c : CacheLine) =>
    if c.base != base then c
    else if c.cache.servesCore core then { c with st := st }
    else { c with st := match c.st with
      | .m => .o
      | .e => .s
      | x => x }
  let s1 : State := { s with caches := s.caches.map mark }
  let s2 := s1.addCopy (.l2 (core / 16)) base st pol
  if pol = 2 then s2 else s2.addCopy (.l1 core) base st pol

/-- A write that has reached a scope from a core comes to a wider one: the directories on the way invalidate the copies outside its branch, and keep
those inside, which are updated; its own dirty copy is M once no other is left (R237, R241). -/
def State.reachCopies (s : State) (core base before after : Nat) : State :=
  let s1 := s.dropCopies after core base fun u => u.servesCore core || u.within before core
  if s1.caches.any fun c => c.base == base && !c.cache.servesCore core then s1
  else { s1 with caches := s1.caches.map fun c => if c.base == base && c.st == .o then { c with st := .m } else c }

/-- The dirty copies of a line below which no write to it is left on its way are clean (R237, R241). -/
def State.cleanCopies (s : State) (base : Nat) : State :=
  { s with caches := s.caches.map fun c =>
      if c.base == base && !s.writes.any fun w => copyBase w.pa == base && c.cache.servesCore w.core then
        { c with st := match c.st with
          | .m => .e
          | .o => .s
          | x => x }
      else c }

/-! Writes (R214, R216, R219, R241). -/

/-- Before a device write to a line that the host caches, the home agent recalls it with a back-invalidation snoop (R247). -/
def State.recallHost (s : State) (pa : Nat) : State :=
  if s.hostCached.contains (lineOf pa) then
    { s with hostCached := s.hostCached.filter (· ≠ lineOf pa), hostOut := s.hostOut ++ [.backInvalidate (128 * lineOf pa)] }
  else s

/-- One write at its home. -/
def State.homeWrite (s : State) (pa : Nat) (bs : List Byte) : State := { s with mem := cellWrite s.mem pa bs }

/-- A write reaches its home (R241). -/
def State.arriveHome (s : State) (w : PWrite) : State :=
  ((((s.recallHost w.pa).homeWrite w.pa w.bytes).noteWrite w.pa w.core (some w.reach) none none).reachCopies w.core (copyBase w.pa) w.reach 6).cleanCopies
    (copyBase w.pa)

/-- The writes that go home when those that satisfy the test do, and the writes that stay: with a write go those before it in the coherence order of
one of its bytes, and no others (R219, R220, R241). -/
def homeBound (test : PWrite → Bool) : List PWrite → List PWrite × List PWrite
  | [] => ([], [])
  | w :: ws =>
    let r := homeBound test ws
    if test w || r.1.any fun x => overlaps w.pa w.bytes.length x.pa x.bytes.length then (w :: r.1, r.2) else (r.1, w :: r.2)

/-- Every write that satisfies the test goes home, with those before it in coherence order. -/
def State.propagate (s : State) (test : PWrite → Bool) : State :=
  (homeBound test s.writes).1.foldl State.arriveHome { s with writes := (homeBound test s.writes).2 }

/-- Every write on its way to a byte of the range goes home. -/
def State.settleRange (s : State) (pa n : Nat) : State := s.propagate fun w => overlaps pa n w.pa w.bytes.length

/-! Bytes that groups have written without a FENCE.ASYNC since (R201). -/

/-- A group, or another agent, writes bytes that lie at some places, where `old` are the values before: what other groups have noted of them is
over, and the group notes those that it has not noted yet. -/
def State.noteAt (s : State) (self : Option GKey) (place : Nat → Place) (old : List Byte) : State :=
  let new := match self with
    | none => []
    | some k => (old.zipIdx.map fun b => (⟨k, place b.2, b.1⟩ : OwnNote)).filter fun x => !s.notes.any fun y => y.key = k && y.place = x.place
  { s with notes := (s.notes.filter fun x => some x.key = self || !((List.range old.length).map place).contains x.place) ++ new }

/-- The notes of some groups are over: of one that issues a FENCE.ASYNC, or that leaves (R201). -/
def State.forget (s : State) (test : GKey → Bool) : State := { s with notes := s.notes.filter fun x => !test x.key }

/-- A write to global memory, by a group or by another agent, is noted. -/
def State.noteOwn (s : State) (self : Option GKey) (pa : Nat) (bs : List Byte) : State :=
  s.noteAt self (fun i => .mem (pa + i)) (s.newestRead pa bs.length)

/-- A line's other bytes under a key that is not theirs: they become what they decrypt to, for every agent (R201, R366). -/
def State.rekeyLine (s : State) (pa slot : Nat) : State :=
  if isHost pa then s
  else
    let base := lineOf pa * 128
    let s1 :=
      if s.wrongKey pa slot then
        let s0 := s.settleRange base 128
        (s0.noteAt none (fun i => .mem (base + i)) (List.replicate 128 0#8)).homeWrite base (s0.garbledBytes base 128 slot)
      else s
    { s1 with lineKeys := kput s1.lineKeys (lineOf pa) (s1.keyTag slot) }

/-- An access to host memory or to a sequentially consistent page is performed at once at its home (R214, R225). -/
def Frame.atHome (f : Frame) : Bool := f.sc || isHost f.pa

/-- The bytes that a load of a core returns (R219, R366). -/
def State.loadBytes (s : State) (core : Nat) (f : Frame) (n : Nat) : List Byte :=
  if s.wrongKey f.pa f.key then s.garbledBytes f.pa n f.key
  else if f.atHome then s.newestRead f.pa n else s.coreRead core f.pa n

/-- A write performed at its home at once: no other core keeps a copy of the line (R225, R241), and a host that caches it gives it up
first (R247). -/
def State.writeHome (s : State) (core : Nat) (self : Option GKey) (pa : Nat) (bs : List Byte) : State :=
  (((((s.settleRange pa bs.length).recallHost pa).homeWrite pa bs).noteWrite pa core none none self).reachCopies core (copyBase pa) 0 6).cleanCopies
    (copyBase pa)

/-- A write that the device itself makes at a home (R238, R254, R367): after the writes on their way there, with no copy left in a cache or at the
host, and heard by monitors (R241, R247, R271). -/
def State.deviceWrite (s : State) (pa : Nat) (bs : List Byte) : State := (s.noteOwn none pa bs).writeHome noCore none pa bs

/-- A write of a core, with the policy of its line, which its caches then hold: at its home at once, or on its way, visible to its own core so far
(R214, R215, R241). The halves of a 16-byte write stay together (DESIGN CHOICE, log 81). -/
def State.storeBytes (s : State) (core scope : Nat) (self : Option GKey) (f : Frame) (bs : List Byte) (pol : Nat := 0) : State :=
  let s := (s.rekeyLine f.pa f.key).noteOwn self f.pa bs
  if f.atHome then (s.writeHome core self f.pa bs).fillCopy core (copyBase f.pa) pol
  else
    let s' : State := { s with
      writes := s.writes ++ [⟨s.nextWrite, core, f.pa, bs, scope, 1, s.cycle⟩]
      nextWrite := s.nextWrite + 1 }
    (s'.ownCopy core (copyBase f.pa) pol).noteWrite f.pa core none (some 1) self

/-- A write on its way becomes visible within a wider scope (R241). -/
def State.widen (s : State) (id reach : Nat) : State :=
  match s.writes.find? fun w => w.id == id with
  | none => s
  | some w =>
    if s.writes.all fun x => x.id != id || decide (reach ≤ x.reach) then s
    else if 6 ≤ reach then s.propagate fun x => x.id == id
    else
      let s' : State := { s with writes := s.writes.map fun x => if x.id == id then { x with reach := max x.reach reach } else x }
      (s'.noteWrite w.pa w.core (some w.reach) (some reach) none).reachCopies w.core (copyBase w.pa) w.reach reach

/-- The smallest scope that holds both cores. -/
def commonScope (c1 c2 : Nat) : Nat := ((List.range 6).find? fun r => scopeHas r c1 c2).getD 6

/-- What a core has read of the newest bytes it sees from then on, and so does what it orders (R219, R224): the writes to those bytes reach it. -/
def State.observe (s : State) (core pa n : Nat) : State :=
  (s.writes.filter fun w => overlaps pa n w.pa w.bytes.length && !w.seenBy core).foldl (fun s w => s.widen w.id (commonScope w.core core)) s

/-- What a core has read of several frames (R219, R224). -/
def State.observeAll (s : State) (core n : Nat) (fs : List Frame) : State := fs.foldl (fun s f => s.observe core f.pa n) s

/-- A load has read its bytes: what it saw of a page whose accesses are performed at the home its core sees from then on, and its line is cached
(R215, R219, R225, R235). -/
def State.loaded (s : State) (core : Nat) (f : Frame) (n pol : Nat) : State :=
  (if f.atHome then s.observe core f.pa n else s).fillCopy core (copyBase f.pa) pol

/-- The write of a read-modify-write, performed at the coherence point of its scope at once (R231, R241); its core has read the bytes (R219). -/
def State.rmwWrite (s : State) (core scope : Nat) (self : Option GKey) (f : Frame) (bs : List Byte) : State :=
  let s := s.observe core f.pa bs.length
  if f.atHome || decide (6 ≤ scope) then ((s.rekeyLine f.pa f.key).noteOwn self f.pa bs).writeHome core self f.pa bs
  else
    let id := s.nextWrite
    (s.storeBytes core scope self f bs).widen id (max 1 scope)

/-- What a read-modify-write reads (R219, R366). -/
def State.rmwRead (s : State) (f : Frame) (n : Nat) : List Byte :=
  if s.wrongKey f.pa f.key then s.garbledBytes f.pa n f.key else s.newestRead f.pa n

/-- A write from a peer at its home: no cached copy of its line is left. -/
def State.peerWrite (s : State) (f : Frame) (bs : List Byte) : State :=
  s.rmwWrite noCore 7 none f bs

/-- What a core has observed (R224): the writes that it sees, and those before them in the coherence order of one of their bytes, which a read of
the core has passed over. -/
def State.releaseSet (s : State) (core : Nat) : List PWrite := (homeBound (fun w => w.seenBy core) s.writes).1

/-- The scope within which a release of a core at a scope makes a write visible: one that holds the core and the writer too. -/
def PWrite.releaseScope (w : PWrite) (core scope : Nat) : Nat := if 6 ≤ scope then 6 else max scope (commonScope w.core core)

/-- Every write that a core has observed becomes visible within the scope: what a release there orders (R222, R224, R233, R241). -/
def State.release (s : State) (core scope : Nat) : State :=
  if 6 ≤ scope then s.propagate fun w => w.seenBy core
  else (s.releaseSet core).foldl (fun s w => s.widen w.id (w.releaseScope core scope)) s

/-- A directory of a level, or the home agent, gives up its entry for a line (R239, R247): the data of the writers below it goes home, and every copy
that it tracks, the host's at the home agent, is recalled. -/
def State.recallLine (s : State) (level core line : Nat) : State :=
  let s1 := s.propagate fun w => lineOf w.pa == line && scopeHas level core w.core
  let s2 := s1.dropIf fun c => c.base / 128 == line && c.cache.within level core
  if 6 ≤ level then s2.recallHost (128 * line) else s2

/-! Fences whose waits go on (R233). -/

/-- What an instruction does to global memory, for the fences before it (R226, R233, R316): a read, a write, an asynchronous operation, or a
read or a write on a peer. -/
inductive MemKind where
  | read | write | async | remoteRead | remoteWrite
deriving DecidableEq, Repr

/-- A fence holds a later instruction until what came before it is performed (R233): kinds 1 REL and 2 ACQREL hold writes, 3 SC every memory
instruction, 4 ASYNC asynchronous operations; a fence below .fab orders local events only (R220). -/
def FenceRec.holds (f : FenceRec) : MemKind → Bool
  | .read => f.kind == 3
  | .write => f.kind == 1 || f.kind == 2 || f.kind == 3
  | .async => f.kind == 4
  | .remoteRead => f.scope == 7 && f.kind == 3
  | .remoteWrite => f.scope == 7 && (f.kind == 1 || f.kind == 2 || f.kind == 3)

/-- A fence of kind 0 ACQ or 2 ACQREL at .fab holds a later memory instruction until the reads before it have taken their values: those of posted
remote atomics, since every other read has when it issues (R220, R233, R316). -/
def FenceRec.acquires (f : FenceRec) (m : MemKind) : Bool := (f.kind == 0 || f.kind == 2) && f.scope == 7 && m != .async

/-- A directory that a core's accesses ask for at a scope is being rebuilt (R242, R243): that of its own die, or the stack directory, which
is lost with the lower deck. -/
def State.dirBusy (s : State) (core scope : Nat) : Bool :=
  s.rebuild.any fun d => (core / 256 == d && decide (2 ≤ scope)) || (d % 2 == 0 && core / 512 == d / 2 && decide (4 ≤ scope))

/-- A stack holds a copy of the line with this base, or a write to it that has not left the stack: a directory above asks the stack directory before
another writes the line. -/
def State.inStack (s : State) (base stack : Nat) : Bool :=
  (s.caches.any fun c => c.base == base && c.cache.core / 512 == stack) ||
    s.writes.any fun w => copyBase w.pa == base && w.core / 512 == stack && decide (w.reach ≤ 4)

/-- A stack may hold the newest data of the line: a directory above asks the stack directory before it gives them to a reader. -/
def State.ownedInStack (s : State) (base stack : Nat) : Bool :=
  (s.caches.any fun c => c.base == base && c.cache.core / 512 == stack && (c.st == .m || c.st == .o || c.st == .e)) ||
    s.writes.any fun w => copyBase w.pa == base && w.core / 512 == stack && decide (w.reach ≤ 4)

/-- A core of another stack, or an agent outside the cores, needs an answer from a stack directory under rebuild for an access at a scope that holds
that stack, where the stack holds the line (R243). -/
def State.farBusy (s : State) (core scope : Nat) (held : Nat → Bool) : Bool :=
  s.rebuild.any fun d => d % 2 == 0 && core / 512 != d / 2 && scopeHas scope core (256 * d) && held (d / 2)

/-- A write on its way must wait, before it comes to a wider scope, for a directory under rebuild (R243): on its own way, or where the line is held. -/
def State.wayBusy (s : State) (w : PWrite) (reach : Nat) : Bool :=
  decide (w.reach < reach) && (s.dirBusy w.core reach || s.farBusy w.core reach (s.inStack (copyBase w.pa)))

/-- A write that goes on, and those that go home with it, must wait (R219, R243). -/
def State.goBusy (s : State) (w : PWrite) (reach : Nat) : Bool :=
  if 6 ≤ reach then (homeBound (fun x => x.id == w.id) s.writes).1.any fun x => s.wayBusy x 6 else s.wayBusy w reach

/-- A release of a core at a scope must wait for a directory under rebuild (R243). -/
def State.releaseBusy (s : State) (core scope : Nat) : Bool :=
  s.dirBusy core scope || (!s.rebuild.isEmpty && (s.releaseSet core).any fun w => s.wayBusy w (w.releaseScope core scope))

/-- A read or a read-modify-write of a frame needs an answer from a directory under rebuild (R243): at the scope where it is performed; above
the core's deck, where no copy of the line lies within the deck; or of another stack, which may hold the newest data, where none lies within the
core's own. -/
def State.mustAsk (s : State) (core scope : Nat) (f : Frame) : Bool :=
  s.dirBusy core scope ||
    (s.dirBusy core 6 && (f.atHome || !s.caches.any fun c => c.base == copyBase f.pa && c.cache.within 3 core && c.st != .p)) ||
    (s.farBusy core 6 (s.ownedInStack (copyBase f.pa)) && (f.atHome || decide (6 ≤ scope) ||
      !s.caches.any fun c => c.base == copyBase f.pa && c.cache.within 4 core && c.st != .p))

/-- A write of a frame at its home, or one that claims a line under another key, needs an answer from a directory under rebuild (R243, R366). -/
def State.mustClaim (s : State) (core : Nat) (f : Frame) : Bool :=
  (f.atHome || s.wrongKey f.pa f.key) && (s.dirBusy core 6 || s.farBusy core 6 (s.inStack (copyBase f.pa)))

/-- What a fence waits for has come about, or can come about now (R214, R233, R243, R316). -/
def State.fenceReady (s : State) (core : Nat) (g : Group) (f : FenceRec) : Bool :=
  !s.releaseBusy core f.scope && (f.scope != 7 || g.posted.isEmpty)

/-- Accesses at package scope to some frames wait for a directory under rebuild (R243). -/
def View.pkgBusy (v : View) (fs : List Frame) : Bool := v.s.dirBusy v.core 6 || fs.any (v.s.mustAsk v.core 6)

/-- An arrival is recorded in a state to which something has been done first. -/
def Res.after (pre : State → State) : Res → Res
  | .await f => .await fun s => f (pre s)
  | r => r

/-- The fences that hold the instruction (R233): it waits until each can be performed, which then makes what the group sees visible. -/
def View.fenced (v : View) (m : MemKind) (body : View → Res) : Res :=
  let mine := v.g.fences.filter (·.holds m)
  if v.g.fences.any (·.acquires m) && v.g.posted.any (·.reads) then .hold []
  else if mine.isEmpty then body v
  else if mine.all (v.s.fenceReady v.core v.g) then
    let left := fun (g : Group) => { g with fences := g.fences.filter fun f => !f.holds m }
    let pre := fun (s : State) => (mine.foldl (fun s f => s.release v.core (max 1 f.scope)) s).modGroup v.k left
    (body { v with s := pre v.s, g := left v.g }).after pre
  else .hold []

/-! Lines in state P (R237, R238). -/

/-- A line enters P, at its home and in every cache that holds it (R237, R238). -/
def State.poisonLine (s : State) (line : Nat) : State :=
  if s.poisoned.contains line then s
  else State.pushLine { s with
    poisoned := line :: s.poisoned
    caches := s.caches.map fun c => if c.base / 128 == line then { c with st := .p } else c } (128 * line)

/-- Counts health events, saturating (R367). -/
def State.countHealth (s : State) (kind : Nat) (times : Nat := 1) : State :=
  { s with hcnt := kput s.hcnt kind (BitVec.ofNat 32 (min 0xFFFFFFFF (((kfind s.hcnt kind).getD 0#32).toNat + times))) }

/-- Writes a fault record to the health log, and counts it (R367). -/
def State.healthRecord (s : State) (kind addr core : Nat) : State :=
  let s := s.countHealth kind
  let rec32 := kind + 256 * (Config.healthDetail kind s.hlogt.toNat % 2 ^ 120) + 2 ^ 128 * s.hlogt.toNat + 2 ^ 160 * core +
    2 ^ 192 * (addr % 2 ^ 64)
  let s' := if s.hlogn = 0#16 then s
    else s.deviceWrite (s.hlogb.toNat + 32 * (s.hlogt.toNat % s.hlogn.toNat)) (bytesOf 32 rec32)
  { s' with hlogt := s.hlogt + 1#32 }

/-- A lane that faults: the lane, the number of its check, the cause and the address. -/
structure LaneFault where
  lane  : Fin 32
  check : Nat
  cause : Cause
  addr  : DWord
deriving DecidableEq, Repr

/-- The report of R212 and R150: the earliest check among the lanes gives the cause, TMASK holds every faulting lane, and the address is
that of the lowest lane with that cause. -/
def faultReq (fs : List LaneFault) (near split : Bool) : TrapReq :=
  match fs with
  | [] => { cause := .illegal, lanes := 0#32 }
  | f0 :: rest =>
    let first := rest.foldl (fun b f => if f.check < b.check then f else b) f0
    let at0 := ((f0 :: rest).find? fun f => f.cause == first.cause).getD first
    { cause := first.cause, lanes := lanesMask ((f0 :: rest).map (·.lane)), split := split, addr := at0.addr
      detail := if near then 1 else 0 }

/-- The team's space in the group's mode. -/
def View.space (v : View) : Space := v.team.space v.g.mode

/-- Checks an address per active lane: the lanes that pass with what they met, and those that fault. -/
def View.accessLanes (v : View) (addr : Lanes DWord) (n : Nat) (need : Need) : List (Fin 32 × Xlat) × List LaneFault :=
  let rs := (maskLanes v.ex).map fun L => (L, v.s.access v.core v.space addr[L] n need)
  (rs.filter fun p => match p.2 with
    | .bad _ _ => false
    | _ => true,
   rs.filterMap fun p => match p.2 with
    | .bad c k => some ⟨p.1, c, k, addr[p.1]⟩
    | _ => none)

/-- The result of a per-lane memory instruction: complete, or a trap of the lanes that fault (R212, R330). -/
def laneOutcome (fs : List LaneFault) (near : Bool) (s : State) : Res :=
  if fs.isEmpty then .ok s else .trap (faultReq fs near true) s

end Sys2Proof.Machine
end

