-- ==== Sys2Proof/Machine/Global.lean ====
section
/-! DEFINITION. Loads, stores, atomics and fences of global memory, and TOUCH (R229 to R234). -/

namespace Sys2Proof.Machine

/-- The registers of a load or store: the address pair and the data registers (R229). -/
def accessRegs (d a n : Nat) : List Nat := pairRegs a ++ dataRegs d n

/-- Makes the effect of some lanes, one after the other in ascending lane order (R15, R216). -/
def overLanes (ls : List (Fin 32 × Xlat)) (f : State → Fin 32 → Frame → State) (s : State) : State :=
  ls.foldl (fun s p => match p.2 with
    | .ok fr => f s p.1 fr
    | _ => s) s

/-- What each lane of a load reads: zeros from an absent page (R213). -/
def View.loadedLanes (v : View) (ls : List (Fin 32 × Xlat)) (n : Nat) : Lanes (List Byte) :=
  lanesOf fun L => match ls.find? fun p => p.1 == L with
    | some (_, .ok fr) => v.s.loadBytes v.core fr n
    | _ => List.replicate n 0#8

/-- The lanes that met an absent page. -/
def absentLanes (ls : List (Fin 32 × Xlat)) : Word :=
  lanesMask ((ls.filter fun p => match p.2 with
    | .absent _ => true
    | _ => false).map (·.1))

/-- Some lane's access needs an answer from a directory under rebuild, and the instruction waits (R243). -/
def View.asksAny (v : View) (ls : List (Fin 32 × Xlat)) (scope : Nat) : Bool := ls.any fun p => match p.2 with
  | .ok fr => v.s.mustAsk v.core scope fr
  | _ => false

/-- Writes loaded bytes to the registers of a field as interlocked results (R69, R229). The lanes that met an absent page set NRM
when the load completes (R104). -/
def View.writeLoaded (v : View) (s : State) (d n : Nat) (mask absent : Word) (bs : Lanes (List Byte)) : State :=
  (List.range ((n + 3) / 4)).foldl (fun s i =>
    v.wrLater s (d + i) mask (lanesOf fun L => loadedWord bs[L] i) (if i = 0 then absent else 0#32)) s

/-- LD (R229). -/
def execLd (p : Pfx) (d a : Reg) (_scope : BitVec 3) (z : BitVec 2) (pol : BitVec 2) (s : State) :
    Host.Outcome State Fault Refusal :=
  let n := accessBytes p z
  issue (fun _ => { pfx := p, names := accessRegs d.toNat a.toNat n, reads := pairRegs a.toNat }) (fun v => v.fenced .read fun v =>
    let r := v.accessLanes (v.gaddr a.toNat p) n .read
    let mask := lanesMask (r.1.map (·.1))
    let s1 := overLanes r.1 (fun s _ fr => s.loaded v.core fr n pol.toNat) v.s
    if v.asksAny r.1 1 then .hold []
    else laneOutcome r.2 false (v.writeLoaded s1 d.toNat n mask (absentLanes r.1) (v.loadedLanes r.1 n))) s

/-- ST (R229): where lanes name the same bytes, the highest lane's write is the only one (R216). -/
def execSt (p : Pfx) (d a : Reg) (scope : BitVec 3) (z : BitVec 2) (pol : BitVec 2) (s : State) :
    Host.Outcome State Fault Refusal :=
  let n := accessBytes p z
  issue (fun _ => { pfx := p, names := accessRegs d.toNat a.toNat n, reads := accessRegs d.toNat a.toNat n }) (fun v => v.fenced .write fun v =>
    let r := v.accessLanes (v.gaddr a.toNat p) n .write
    let last := r.1.filter fun x => !(r.1.any fun y => decide (x.1.val < y.1.val) && (match x.2, y.2 with
      | .ok f, .ok g => f.pa == g.pa
      | _, _ => false))
    if r.1.any fun x => match x.2 with
      | .ok f => v.s.mustClaim v.core f
      | _ => false then .hold []
    else laneOutcome r.2 false (overLanes last (fun s L fr =>
      s.storeBytes v.core scope.toNat (some v.k) fr (v.dataBytes d.toNat n L) pol.toNat) v.s)) s

/-- The registers of an atomic: the address pair, the operand and the old value, one or two words wide (R230). -/
def wordOrPair (wide : Bool) (r : Nat) : List Nat := if wide then pairRegs r else [r]

/-- The scope's coherence point as a reach (R214). -/
def scopeReach (scope : BitVec 3) : Nat := scope.toNat

/-- One operation per lane in ascending lane order: `op` maps the lane, the old value and the operand to the value written, none where
nothing is written, and the flags of the lane. Answers the state, each lane's old value, and the flags. -/
def View.atomicLanes (v : View) (ls : List (Fin 32 × Xlat)) (n scope : Nat)
    (op : Fin 32 → DWord → Option DWord × Flags) : State × KMap (Fin 32) (DWord × Flags) :=
  ls.foldl (fun acc p => match p.2 with
    | .ok fr =>
      let old := BitVec.ofNat 64 (ofBytes (acc.1.rmwRead fr n))
      let r := op p.1 old
      let s' := match r.1 with
        | some x => acc.1.rmwWrite v.core scope (some v.k) fr (bytesOf n x.toNat)
        | none => acc.1.observe v.core fr.pa n
      (s', acc.2 ++ [(p.1, old, r.2)])
    | _ => acc) (v.s, [])

/-- An atomic of global memory (R231, R232): `reads` are its sources, `ret` says that D receives the old value. -/
def globalAtomic (p : Pfx) (d a : Reg) (scope : BitVec 3) (b : BitVec 4) (wide readsD ret : Bool)
    (op : View → Fin 32 → DWord → Option DWord × Flags) (s : State) : Host.Outcome State Fault Refusal :=
  let n := if wide then 8 else 4
  issue (fun _ =>
    { pfx := p
      names := pairRegs a.toNat ++ wordOrPair wide b.toNat ++ (if ret || readsD then wordOrPair wide d.toNat else [])
      reads := pairRegs a.toNat ++ wordOrPair wide b.toNat ++ (if readsD then wordOrPair wide d.toNat else []) }) (fun v => v.fenced .write fun v =>
    let r := v.accessLanes (v.gaddr a.toNat p) n .both
    let t := v.atomicLanes r.1 n (scopeReach scope) (op v)
    let mask := lanesMask (r.1.map (·.1))
    let old : Lanes DWord := lanesOf fun L => ((kfind t.2 L).map (·.1)).getD 0#64
    let fl : Lanes (BitVec 5) := lanesOf fun L => ((kfind t.2 L).map (·.2)).getD 0#5
    let s2 := if ret then v.wrLaterFlags t.1 d.toNat mask (lanesOf fun L => loWord old[L]) fl else v.flagLater t.1 fl
    let s3 := if ret && wide then v.wrLater s2 (d.toNat + 1) mask (lanesOf fun L => hiWord old[L]) else s2
    if v.asksAny r.1 scope.toNat then .hold [] else laneOutcome r.2 false s3) s

/-- The signed value of an operand of 32 or 64 bits. -/
def signedOperand (wide : Bool) (x : DWord) : Int := if wide then x.toInt else (loWord x).toInt

/-- An integer atomic: the new value from the old one and the operand (R230). -/
def integerAtomic (p : Pfx) (d a : Reg) (scope : BitVec 3) (b : BitVec 4) (f : Bool → DWord → DWord → DWord) (s : State) :
    Host.Outcome State Fault Refusal :=
  globalAtomic p d a scope b (wideOp p) false (!noReturn p) (fun v L o =>
    (some (f (wideOp p) o (v.operand (wideOp p) b.toNat)[L]), 0#5)) s

/-- The new values of R230 for the two-operand atomics. -/
def atomAdd (_ : Bool) (o b : DWord) : DWord := o + b
def atomMin (w : Bool) (o b : DWord) : DWord := if signedOperand w o ≤ signedOperand w b then o else b
def atomMax (w : Bool) (o b : DWord) : DWord := if signedOperand w o ≥ signedOperand w b then o else b
def atomMinu (_ : Bool) (o b : DWord) : DWord := if o.toNat ≤ b.toNat then o else b
def atomMaxu (_ : Bool) (o b : DWord) : DWord := if o.toNat ≥ b.toNat then o else b
def atomAnd (_ : Bool) (o b : DWord) : DWord := o &&& b
def atomOr (_ : Bool) (o b : DWord) : DWord := o ||| b
def atomXor (_ : Bool) (o b : DWord) : DWord := o ^^^ b
def atomXch (_ : Bool) (_o b : DWord) : DWord := b

def execAadd (p : Pfx) (d a : Reg) (sc : BitVec 3) (b : BitVec 4) (s : State) : Host.Outcome State Fault Refusal :=
  integerAtomic p d a sc b atomAdd s
def execAmin (p : Pfx) (d a : Reg) (sc : BitVec 3) (b : BitVec 4) (s : State) : Host.Outcome State Fault Refusal :=
  integerAtomic p d a sc b atomMin s
def execAmax (p : Pfx) (d a : Reg) (sc : BitVec 3) (b : BitVec 4) (s : State) : Host.Outcome State Fault Refusal :=
  integerAtomic p d a sc b atomMax s
def execAminu (p : Pfx) (d a : Reg) (sc : BitVec 3) (b : BitVec 4) (s : State) : Host.Outcome State Fault Refusal :=
  integerAtomic p d a sc b atomMinu s
def execAmaxu (p : Pfx) (d a : Reg) (sc : BitVec 3) (b : BitVec 4) (s : State) : Host.Outcome State Fault Refusal :=
  integerAtomic p d a sc b atomMaxu s
def execAand (p : Pfx) (d a : Reg) (sc : BitVec 3) (b : BitVec 4) (s : State) : Host.Outcome State Fault Refusal :=
  integerAtomic p d a sc b atomAnd s
def execAor (p : Pfx) (d a : Reg) (sc : BitVec 3) (b : BitVec 4) (s : State) : Host.Outcome State Fault Refusal :=
  integerAtomic p d a sc b atomOr s
def execAxor (p : Pfx) (d a : Reg) (sc : BitVec 3) (b : BitVec 4) (s : State) : Host.Outcome State Fault Refusal :=
  integerAtomic p d a sc b atomXor s
def execAxch (p : Pfx) (d a : Reg) (sc : BitVec 3) (b : BitVec 4) (s : State) : Host.Outcome State Fault Refusal :=
  integerAtomic p d a sc b atomXch s

/-- ACAS (R231): D is the expected value; nothing is written where it differs from the old one. -/
def execAcas (p : Pfx) (d a : Reg) (sc : BitVec 3) (b : BitVec 4) (s : State) : Host.Outcome State Fault Refusal :=
  globalAtomic p d a sc b (wideOp p) true (!noReturn p) (fun v L o =>
    (if o = (v.operand (wideOp p) d.toNat)[L] then some (v.operand (wideOp p) b.toNat)[L] else none, 0#5)) s

/-- The sum of AFADD (R232): FP32, or two BF16 halves. -/
def atomFadd (halved : Bool) (o b : Word) : Word × Flags :=
  if halved then paired2 bf16 (fun x y => sumTerms [x, y]) o b else toF32 (sumTerms [f32 o, f32 b])

/-- AFADD (R232). -/
def execAfadd (p : Pfx) (d a : Reg) (sc : BitVec 3) (b : BitVec 4) (s : State) : Host.Outcome State Fault Refusal :=
  globalAtomic p d a sc b false false (!noReturn p) (fun v L o =>
    let r := atomFadd (wideOp p) (loWord o) (v.rd b.toNat)[L]
    (some (r.1.setWidth 64), r.2)) s

/-- FENCE.ACQ (R233): every earlier read has taken its value when it issued, but for those of posted remote atomics, which a fence at .fab waits for
(R316). At .fab a fence is a check point (R315), which issues at once. -/
def execFenceAcq (scope : BitVec 3) (s : State) : Host.Outcome State Fault Refusal :=
  issue (fun _ => { oneBeat := true, check := scope == 7#3, checkWaits := false }) (fun v =>
    if scope = 7#3 && v.g.posted.any (·.reads) then .ok (v.s.modGroup v.k fun g => { g with fences := g.fences ++ [⟨0, 7⟩] })
    else .ok v.s) s

/-- FENCE of a kind that waits for the group's earlier events (R233, R241): it issues at once. What the group sees becomes visible within the scope
with it, unless a directory is being rebuilt (R243) or posted remote work lacks its responses at .fab (R316): then the fence stands, and holds
the later instructions of its kind until that can be. After FENCE.ASYNC, asynchronous operations find what the group wrote before it (R201, R233). -/
def fencePush (kind : Nat) (scope : BitVec 3) (s : State) : Host.Outcome State Fault Refusal :=
  issue (fun _ => { oneBeat := true, check := scope == 7#3, checkWaits := false }) (fun v =>
    let f : FenceRec := ⟨kind, scope.toNat⟩
    let s1 := if kind = 4 then v.s.forget (· = v.k) else v.s
    if v.s.fenceReady v.core v.g f then .ok (s1.release v.core (max 1 f.scope))
    else .ok (s1.modGroup v.k fun g => { g with fences := g.fences ++ [f] })) s

def execFenceRel (scope : BitVec 3) (s : State) : Host.Outcome State Fault Refusal := fencePush 1 scope s
def execFenceAcqrel (scope : BitVec 3) (s : State) : Host.Outcome State Fault Refusal := fencePush 2 scope s
def execFenceSc (scope : BitVec 3) (s : State) : Host.Outcome State Fault Refusal := fencePush 3 scope s
def execFenceAsync (scope : BitVec 3) (s : State) : Host.Outcome State Fault Refusal := fencePush 4 scope s

/-- The status that TOUCH gives a lane, and the page it asks for, if any: the level and base address (R234). -/
def View.touchLane (v : View) (a : DWord) : Word × Option (Nat × Nat) :=
  if natBits a.toNat 63 57 ≠ 0 then (2#32, none)
  else match v.s.translate v.core v.space a.toNat .read with
    | .ok _ => (0#32, none)
    | .absent lvl => (1#32, some (lvl, a.toNat / 2 ^ levelShift lvl * 2 ^ levelShift lvl))
    | .bad _ c => match c with
      | .pagePerm | .key => (3#32, none)
      | _ => (2#32, none)

/-- TOUCH (R234): one residency request for each page that lanes find absent. -/
def execTouch (p : Pfx) (d a : Reg) (s : State) : Host.Outcome State Fault Refusal :=
  issue (fun _ => { pfx := p, names := d.toNat :: pairRegs a.toNat, reads := pairRegs a.toNat }) (fun v =>
    let addr := v.gaddr a.toNat p
    let r := lanesOf fun L => v.touchLane addr[L]
    let pages := ((maskLanes v.ex).filterMap fun L => r[L].2).eraseDups
    let s1 := v.wr v.s d.toNat (lanesOf fun L => r[L].1)
    .ok (s1.later (pages.map fun pg => ⟨.residencyRequest,
      { core := v.core, n := pg.2, m := pg.1, k := v.team.asid.toNat, data := bytesOf 8 v.team.ptb.toNat }⟩))) s

end Sys2Proof.Machine
end

