-- ==== Sys2Proof/Machine/Cache.lean ====
section
/-! DEFINITION. CMAINT, and the steps of the caches, the directories, the walkers and the host's access to device memory
(R235 to R262). -/

namespace Sys2Proof.Machine

/-- The scope of CMAINT: .grp acts as .core, and .fab as .pkg (R260). -/
def maintScope (s : BitVec 3) : Nat := if s = 0#3 then 1 else if s = 7#3 then 6 else s.toNat

/-- A copy below the coherence point of the scope (R214, R261). -/
def belowPoint (scope : Nat) : CacheUnit → Bool
  | .l1 _ => decide (2 ≤ scope)
  | .l2 _ => decide (3 ≤ scope)

/-- WB of one line: dirty data of the copies within the instance goes to the coherence point, and M becomes E, O becomes S (R261). -/
def State.writeBack (s : State) (scope core base : Nat) : State :=
  let s1 := (s.writes.filter fun w => copyBase w.pa == base && scopeHas scope core w.core).foldl (fun s w => s.widen w.id scope) s
  { s1 with caches := s1.caches.map fun c =>
      if c.base == base && c.cache.within scope core then
        { c with st := match c.st with
          | .m => .e
          | .o => .s
          | x => x }
      else c }

/-- The scrub of a line in P: zero to every byte at its home, which is the host for a line of host memory, as one write at package scope, under the
key of the page that names the line; the line is in I in every cache (R238, R366). -/
def State.scrubLine (s : State) (line key : Nat) : State :=
  let s0 : State := { s with
    writes := s.writes.filter fun w => lineOf w.pa != line
    poisoned := s.poisoned.filter (· != line)
    lineKeys := if isHost (128 * line) then s.lineKeys else kput s.lineKeys line (s.keyTag key) }
  (s0.deviceWrite (128 * line) (List.replicate 128 0#8)).dropIf fun c => c.base / 128 == line

/-- INV of one line: clean copies below the coherence point become invalid, and in a privileged mode a line in P is scrubbed (R261). -/
def State.invalidate (s : State) (scope core base key : Nat) (priv : Bool) : State :=
  let s1 := s.dropIf fun c => c.base == base && c.cache.within scope core && belowPoint scope c.cache &&
    (c.st == .e || c.st == .s || c.st == .u)
  if priv && s1.poisoned.contains (lineOf base) then s1.scrubLine (lineOf base) key else s1

/-- WBINV of one line (R261): WB, then every copy below the coherence point but U becomes invalid. -/
def State.writeBackInvalidate (s : State) (scope core base : Nat) : State :=
  (s.writeBack scope core base).dropIf fun c => c.base == base && c.cache.within scope core && belowPoint scope c.cache && c.st != .u

/-- The copies that make up the 128-byte line of an address: one of device memory, or two sectors of host memory (R244, R261). -/
def lineBases (pa : Nat) : List Nat := if isHost pa then [128 * lineOf pa, 128 * lineOf pa + 64] else [128 * lineOf pa]

/-- The write-back of a line within an instance has data that must pass a directory under rebuild (R243). -/
def State.backWaits (s : State) (scope core base : Nat) : Bool := s.writes.any fun w =>
  copyBase w.pa == base && scopeHas scope core w.core && decide (w.reach < scope) && s.goBusy w scope

/-- A data form of CMAINT (R261): `f` acts once on the line of each lane whose page is resident, given the base of a copy and the page's key; it does
not issue while a line must wait. -/
def cmaint (a : Reg) (waits : View → Nat → Bool) (f : View → State → Nat × Nat → State) (s : State) : Host.Outcome State Fault Refusal :=
  issue (fun _ => { names := pairRegs a.toNat, reads := pairRegs a.toNat }) (fun v =>
    let addr := v.rd2 a.toNat
    let rs := (maskLanes v.ex).map fun L =>
      (L, if natBits addr[L].toNat 63 57 ≠ 0 then Xlat.bad 1 .pageInvalid else v.s.translate v.core v.space addr[L].toNat .read)
    let lines := (rs.flatMap fun p => match p.2 with
      | .ok fr => (lineBases fr.pa).map fun b => (b, fr.key)
      | _ => []).eraseDups
    let faults := rs.filterMap fun p => match p.2 with
      | .bad c k => some (⟨p.1, c, k, addr[p.1]⟩ : LaneFault)
      | _ => none
    if lines.any fun b => waits v b.1 then .hold [] else laneOutcome faults false (lines.foldl (f v) v.s)) s

def execCmaintWb (a : Reg) (sc : BitVec 3) (s : State) : Host.Outcome State Fault Refusal :=
  cmaint a (fun v => v.s.backWaits (maintScope sc) v.core) (fun v s b => s.writeBack (maintScope sc) v.core b.1) s
def execCmaintInv (a : Reg) (sc : BitVec 3) (s : State) : Host.Outcome State Fault Refusal :=
  cmaint a (fun _ _ => false) (fun v s b => s.invalidate (maintScope sc) v.core b.1 b.2 (v.g.mode != .user)) s
def execCmaintWbinv (a : Reg) (sc : BitVec 3) (s : State) : Host.Outcome State Fault Refusal :=
  cmaint a (fun v => v.s.backWaits (maintScope sc) v.core) (fun v s b => s.writeBackInvalidate (maintScope sc) v.core b.1) s

/-- A TLB stands in the instance of the scope that holds a core. -/
def TlbUnit.within (u : TlbUnit) (scope core : Nat) : Bool := match u with
  | .l1 c | .ahead c => scopeHas scope core c
  | .l2 b => scopeHas (max scope 2) core (16 * b)

/-- The block of a TLB. -/
def TlbUnit.block : TlbUnit → Nat
  | .l1 c | .ahead c => c / 16
  | .l2 b => b

/-- The TLBs and walkers of an instance that hold anything, or through which accesses are under way; the others acknowledge at once. A
block where a TLB holds anything, a walk is in flight or a table entry is cached has its L2 TLB and walker named (R258, R262). -/
def State.tlbUnits (s : State) (scope core : Nat) : List TlbUnit :=
  let units := s.tlb.map (·.tlb) ++ s.walks.map (·.tlb) ++ s.tables.map (fun e => TlbUnit.l2 e.block) ++ s.writes.map fun w => TlbUnit.l1 w.core
  ((units ++ units.map fun u => TlbUnit.l2 u.block).filter fun u => u.within scope core).eraseDups

/-- CMAINT.TLB (R262): the group's earlier writes are performed at package scope, the invalidation is on its way, and the group issues
nothing until it is complete. The writes wait for a directory under rebuild (R243). -/
def execCmaintTlb (d a : Reg) (sc : BitVec 3) (s : State) : Host.Outcome State Fault Refusal :=
  issue (fun v =>
    let inWin := decide (v.g.wbasev + d.toNat < v.g.wsize)
    { names := d.toNat :: pairRegs a.toNat, reads := d.toNat :: pairRegs a.toNat, oneBeat := true
      priv := v.g.mode == .user ||
        (v.g.mode == .supervisor && inWin && natBits (v.rd d.toNat)[v.f].toNat 15 0 != v.team.asid.toNat) }) (fun v =>
    let va := (v.rd2 a.toNat)[v.f].toNat
    let c := (v.rd d.toNat)[v.f].toNat
    let count := natBits c 31 16
    if count ≠ 0 && va % 65536 ≠ 0 then .trap { cause := .align, lanes := v.ex, addr := BitVec.ofNat 64 va } v.s
    else if v.s.releaseBusy v.core 6 then .hold []
    else
      let s1 := v.s.release v.core 6
      let hi := if count = 0 then 2 ^ 57 else min (va + count * 65536) (2 ^ 57)
      let lo := if count = 0 then 0 else va
      let s2 : State := { s1 with
        shoots := s1.shoots ++ [⟨s1.nextShoot, v.k, BitVec.ofNat 16 c, lo, hi, s1.tlbUnits (maintScope sc) v.core, []⟩]
        nextShoot := s1.nextShoot + 1 }
      .went (s2.modGroup v.k fun g => { g with cur := some { v.p with pc := v.npc } }) true) s

/-- An entry or walk of an address space overlaps a range. -/
def inRange (asid : BitVec 16) (lo hi : Nat) (sh : Shootdown) : Bool :=
  asid == sh.asid && decide (lo < sh.hi) && decide (sh.lo < hi)

/-- A TLB entry lies in the range of a shootdown (R262). -/
def TlbEntry.inShoot (e : TlbEntry) (sh : Shootdown) : Bool :=
  inRange e.asid (e.page * 2 ^ levelShift e.lvl) ((e.page + 1) * 2 ^ levelShift e.lvl) sh

/-- A walk overlaps the range of a shootdown (R258). -/
def WalkRec.inShoot (w : WalkRec) (sh : Shootdown) : Bool :=
  inRange w.asid (w.va / 2 ^ levelShift w.lvl * 2 ^ levelShift w.lvl) ((w.va / 2 ^ levelShift w.lvl + 1) * 2 ^ levelShift w.lvl) sh

/-- Changes the shootdown of a number. -/
def State.modShoot (s : State) (id : Nat) (f : Shootdown → Shootdown) : State :=
  { s with shoots := s.shoots.map fun x => if x.id == id then f x else x }

/-- An invalidation that has reached `u` acts on `x`: the L2 TLB and the walker of a block act for every TLB of the block, which they fill. -/
def TlbUnit.reaches (u x : TlbUnit) : Bool := match u with
  | .l2 b => x.block == b
  | _ => x == u

/-- The cached table entry covers part of the range of a shootdown (R262). -/
def TableEntry.inShoot (e : TableEntry) (sh : Shootdown) : Bool :=
  inRange e.asid (e.page * 2 ^ levelShift e.lvl) ((e.page + 1) * 2 ^ levelShift e.lvl) sh

/-- TLB_INVALIDATION_ARRIVAL (R258): shootdown `n` reaches the `m`-th TLB that it has not reached: its entries and its walker's table
entries go, and overlapping walks become stale. -/
def execTlbInvalidationArrival (s : State) : Host.Outcome State Fault Refusal :=
  match s.shoots.find? fun x => x.id == s.ev.n with
  | none => .next s
  | some sh =>
    match sh.unreached[s.ev.m]? with
    | none => .next s
    | some u =>
      let s1 : State := { s with
        tlb := s.tlb.filter fun e => !(u.reaches e.tlb && e.inShoot sh)
        tables := s.tables.filter fun e => !(u == .l2 e.block && e.inShoot sh)
        walks := s.walks.map fun w => if u.reaches w.tlb && w.inShoot sh then { w with stale := true } else w }
      .next (s1.modShoot sh.id fun x => { x with unreached := x.unreached.filter (· != u), unacked := x.unacked ++ [u] })

/-- No resident team waits for a walk any more: none of its address space is on the walk's core. -/
def State.walkLapsed (s : State) (w : WalkRec) : Bool := !s.teams.any fun t => TlbUnit.l1 t.2.core == w.tlb && t.2.asid == w.asid

/-- TLB_INVALIDATION_ACK (R258): the `m`-th TLB that shootdown `n` has reached acknowledges, once its stale walks are gone: one that a team waits for
begins again at TABLE_WALK, and one that none waits for is discarded here. The accesses that the TLB translated are performed at their own
scopes; while one of them needs a directory under rebuild, the acknowledgement waits (R243). -/
def execTlbInvalidationAck (s : State) : Host.Outcome State Fault Refusal :=
  match s.shoots.find? fun x => x.id == s.ev.n with
  | none => .next s
  | some sh =>
    match sh.unacked[s.ev.m]? with
    | none => .next s
    | some u =>
      let s : State := { s with walks := s.walks.filter fun w => !(u.reaches w.tlb && w.stale && s.walkLapsed w) }
      let mine := s.writes.filter fun w => u.within 1 w.core
      if s.walks.any fun w => u.reaches w.tlb && w.stale then .next s
      else if mine.any fun w => s.goBusy w w.scope then .next s
      else
        let s1 := mine.foldl (fun s w => s.widen w.id w.scope) s
        .next (s1.modShoot sh.id fun x => { x with unacked := x.unacked.filter (· != u) })

/-- SHOOTDOWN_COMPLETE (R259): every TLB has acknowledged shootdown `n`, and its group may issue again. -/
def execShootdownComplete (s : State) : Host.Outcome State Fault Refusal :=
  .next { s with shoots := s.shoots.filter fun x => !(x.id == s.ev.n && x.unreached.isEmpty && x.unacked.isEmpty) }

/-- The tables that a walk goes through from the table at `base`: the level and the next table of each entry that names one (R248). -/
def State.tablesFrom (s : State) (va : Nat) : List Nat → Nat → List (Nat × Nat)
  | [], _ => []
  | lvl :: rest, base =>
    let a := base + 8 * (va / 2 ^ levelShift lvl % levelEntries lvl)
    if s.isPoisoned a then []
    else match tableNext lvl (s.engineNat a 8) with
      | some next => (lvl, next) :: tablesFrom s va rest next
      | none => []

/-- Where a block's walker begins a walk: after the deepest table entry that it has cached, else at the root (R257). -/
def State.walkStart (s : State) (block : Nat) (sp : Space) (va : Nat) : List Nat × Nat :=
  let found := fun (lvl : Nat) => s.tables.find? fun e => e.block == block && e.asid == sp.asid && e.lvl == lvl && e.page == va / 2 ^ levelShift lvl
  match found 2 with
  | some e => ([3], e.next)
  | none => match found 1 with
    | some e => ([2, 3], e.next)
    | none => match found 0 with
      | some e => ([1, 2, 3], e.next)
      | none => ([0, 1, 2, 3], sp.ptb)

/-- A walk of a block's walker (R257). -/
def State.blockWalk (s : State) (block : Nat) (sp : Space) (va : Nat) : Walk :=
  let w := s.walkStart block sp va
  if hbmBytes ≤ w.2 then .invalid else s.walkFrom va w.1 w.2

/-- The walker caches the table entries that a walk from some start goes through (R257). -/
def State.cacheTables (s : State) (block : Nat) (sp : Space) (va : Nat) (w : List Nat × Nat) : State :=
  let seen := if hbmBytes ≤ w.2 then [] else s.tablesFrom va w.1 w.2
  let new := seen.map fun e => (⟨block, sp.asid, e.1, va / 2 ^ levelShift e.1, e.2⟩ : TableEntry)
  { s with tables := s.tables ++ new.filter fun e => !s.tables.contains e }

/-- The leaf of a walk that may come into a TLB: resident and not refused (R253), and, for an access of a kind, permitted. -/
def State.fillLeaf (s : State) (sp : Space) (need : Option Need) (w : Walk) : Option (Nat × Nat) :=
  match w with
  | .leaf lvl e =>
    if natBits e 1 1 = 0 && !s.keyRefuses sp e && (match need with
      | some n => leafAllows e sp.user n
      | none => true) then some (lvl, e) else none
  | _ => none

/-- The leaf that a walk of a block's walker may bring into a TLB. -/
def State.fillable (s : State) (block : Nat) (sp : Space) (va : Nat) (need : Option Need) : Option (Nat × Nat) :=
  s.fillLeaf sp need (s.blockWalk block sp va)

/-- The entries of a set of a TLB (R169, R256, R257). -/
def TlbUnit.ways : TlbUnit → Nat
  | .l1 _ => 8
  | .l2 _ => 16
  | .ahead _ => 128

/-- The set of a TLB that a translation of a team fills: in the L1 TLB its slice's base plus the page number modulo the slice; of the L2
TLB the page number modulo the sets (DESIGN CHOICE, log 66); the walk-ahead TLB is one set (R169, R256, R257). -/
def TlbUnit.setFor (u : TlbUnit) (t : Team) (page : Nat) : Nat := match u with
  | .l1 _ => t.tlbBase + page % t.tlbSets
  | .l2 _ => page % 256
  | .ahead _ => 0

/-- Puts an entry into a set of a TLB, in place of one for the same page, or of the oldest where the set is full. -/
def State.fillTlb (s : State) (u : TlbUnit) (set : Nat) (asid : BitVec 16) (va lvl leaf : Nat) : State :=
  let e : TlbEntry := ⟨u, set, asid, lvl, va / 2 ^ levelShift lvl, BitVec.ofNat 64 leaf⟩
  let others := s.tlb.filter fun x => !(x.tlb == u && x.asid == asid && x.lvl == lvl && x.page == e.page)
  let here := others.filter fun x => x.tlb == u && x.set == set
  { s with tlb := (if here.length < u.ways then others else others.filter fun x => some x != here.head?) ++ [e] }

/-- Fills a TLB for a team. -/
def State.fillFor (s : State) (u : TlbUnit) (t : Team) (va lvl leaf : Nat) : State :=
  s.fillTlb u (u.setFor t (va / 2 ^ levelShift lvl)) t.asid va lvl leaf

/-- TABLE_WALK (R251, R257, R258): for address `n` of the team of `key`, in the L1 TLB of its core. Without a walk in flight for it, one of the
eight that its block's walker runs begins and reads the tables; with one, it ends: it fills the TLBs, or, stale, it discards its result and
begins again at the root. -/
def execTableWalk (s : State) : Host.Outcome State Fault Refusal :=
  let t := s.team s.ev.key.tkey
  let sp := t.space .supervisor
  let u := TlbUnit.l1 t.core
  let va := s.ev.n % 2 ^ 57
  let mine := fun (w : WalkRec) => w.tlb == u && w.asid == t.asid && w.va == va
  let others := s.walks.filter fun w => !mine w
  let begun := fun (w : Walk) => ((s.fillLeaf sp none w).map fun r => (⟨u, t.asid, va, r.1, BitVec.ofNat 64 r.2, false⟩ : WalkRec)).toList
  match s.walks.find? mine with
  | none => if (s.walks.filter fun w => w.tlb.block == u.block).length < 8 then
      .next { s.cacheTables u.block sp va (s.walkStart u.block sp va) with walks := s.walks ++ begun (s.blockWalk u.block sp va) } else .next s
  | some w =>
    if w.stale then .next { s.cacheTables u.block sp va ([0, 1, 2, 3], sp.ptb) with walks := others ++ begun (s.walk sp.ptb va) }
    else
      let s1 : State := { s with walks := others }
      .next ((s1.fillFor u t va w.lvl w.leaf.toNat).fillFor (.l2 u.block) t va w.lvl w.leaf.toNat)

/-- WALK_AHEAD_FETCH (R169): the tile engine of core `core` fetches the translation of address `n` for a read, or, flagged, a write, in the space
that the step names; a page that is absent, invalid or forbidden leaves nothing. -/
def execWalkAheadFetch (s : State) : Host.Outcome State Fault Refusal :=
  let sp := s.ev.space
  let va := s.ev.n % 2 ^ 57
  match s.fillable (s.ev.core / 16) sp va (some (if s.ev.flag then .write else .read)) with
  | some (lvl, e) => .next (s.fillTlb (.ahead s.ev.core) 0 sp.asid va lvl e)
  | none => .next s

/-- RESIDENCY_REQUEST (R254, R255): for page `n` at level `m` of address space `k`, asked by core `core`; `data` holds the root. The ring holds 2^LOGN
entries for each nonzero LOGN, 1 to 3 and 17 to 31 too, and an entry is written wherever RBASE says, in a line in state P or
outside HBM too; a descriptor page whose header line is in state P is read and written as it stands (DESIGN CHOICE, log 76). -/
def execResidencyRequest (s : State) : Host.Outcome State Fault Refusal :=
  let h := ofBytes s.ev.data + 0x4000
  let x := s.engineNat h 64
  let logn := natBits x 68 64
  let tail := natBits x 159 128
  let head := natBits x 223 192
  if logn = 0 || decide (2 ^ logn ≤ (tail + 2 ^ 32 - head) % 2 ^ 32) then
    .next (s.deviceWrite (h + 20) (bytesOf 4 (natBits x 191 160 / 2 * 2 + 1)))
  else
    let entry := s.ev.n + 2 ^ 64 * (s.ev.k % 2 ^ 16) + 2 ^ 80 * s.ev.core + 2 ^ 91 * s.ev.m + 2 ^ 96 * tail
    let s1 := s.deviceWrite (natBits x 51 0 + 16 * (tail % 2 ^ logn)) (bytesOf 16 entry)
    .next (s1.deviceWrite (h + 16) (bytesOf 4 (tail + 1)))

/-- WRITE_PERFORMED (R241): write number `n` becomes performed at its scope, unless it needs a directory under rebuild (R243). -/
def execWritePerformed (s : State) : Host.Outcome State Fault Refusal :=
  match s.writes.find? fun w => w.id == s.ev.n with
  | none => .next s
  | some w =>
    if s.goBusy w w.scope then .next s else .next (s.widen w.id w.scope)

/-- WRITE_PROPAGATION (R241): write number `n` comes one directory further on its way, whose copies outside its branch become invalid, and from the
interposer to its home agent, those before it in the coherence order of its bytes first. -/
def execWritePropagation (s : State) : Host.Outcome State Fault Refusal :=
  match s.writes.find? fun w => w.id == s.ev.n with
  | none => .next s
  | some w => if s.goBusy w (w.reach + 1) then .next s else .next (s.widen w.id (w.reach + 1))

/-- An uncorrectable error in a copy of a cache (R236, R238): a clean copy is discarded and fetched again, so that it stands as before, and the
line of a dirty one enters P, there too; a dirty host sector is recorded as poisoned (R246). -/
def State.copyError (s : State) (u : CacheUnit) (base core : Nat) : State :=
  match s.caches.find? fun c => c.cache == u && c.base == base with
  | none => s
  | some c =>
    if (c.st == .m || c.st == .o) && isHost base then
      { s.countHealth 2 with snoopBad := base :: s.snoopBad, caches := s.caches.filter fun x => x.base != base }
    else if c.st == .m || c.st == .o then
      let s1 : State := { s with writes := s.writes.filter fun w => lineOf w.pa != lineOf base }
      (s1.poisonLine (lineOf base)).healthRecord 2 base core
    else s.countHealth 2

/-- An uncorrectable error in the HBM data of an address, which its home agent reads (R238, R240). -/
def State.hbmError (s : State) (pa core : Nat) : State :=
  if hbmBytes ≤ pa then s else (s.poisonLine (lineOf pa)).healthRecord 2 pa core

/-- CACHE_UNCORRECTABLE_ERROR (R146, R236, R238, R246): an uncorrectable error. `part` says where: 0 in the copy at `n` of the L1 of core `core`, or,
flagged, of its block's L2; 1 in HBM data at `n`, of stack `k`; 2 in the scratchpad word at offset `n` of the team of `key`; 3 in the column burst at
`n` of core `core`; 4 in the write-back of the host sector at `n`, which cannot complete. -/
def execCacheUncorrectableError (s : State) : Host.Outcome State Fault Refusal :=
  let n := s.ev.n
  match s.ev.part with
  | 0 => .next (s.copyError (if s.ev.flag then CacheUnit.l2 (s.ev.core / 16) else CacheUnit.l1 s.ev.core) (copyBase n) s.ev.core)
  | 1 => if homeStack n = s.ev.k then .next (s.hbmError n s.ev.core) else .next s
  | 2 => .next ((s.modTeam s.ev.key.tkey fun t => { t with spadBad := n / 4 :: t.spadBad.filter (· ≠ n / 4) }).countHealth 2)
  | 3 => .next ((s.modCore s.ev.core fun c => { c with colBad := n / 32 :: c.colBad.filter (· ≠ n / 32) }).countHealth 2)
  | 4 =>
    if isHost n then
      .next { s.countHealth 2 with
        snoopBad := copyBase n :: s.snoopBad.filter (· ≠ copyBase n), caches := s.caches.filter fun c => c.base != copyBase n }
    else .next s
  | _ => .next s

/-- A write has been performed nowhere beyond a deck: nor beyond the stack directory, which is lost with a lower deck (R242). -/
def PWrite.onlyIn (w : PWrite) (deck : Nat) : Bool := w.core / 256 == deck && decide (w.reach ≤ if deck % 2 = 0 then 4 else 3)

/-- DIE_LOSS (R242): deck `k` fails. Writes whose only copy lay in it are lost with their lines, its caches and TLBs are gone, the teams on it and
the saved teams whose images or column allotments lie in its columns are killed (R349), and the rebuild begins. -/
def execDieLoss (s : State) : Host.Outcome State Fault Refusal :=
  let d := s.ev.k
  let gone := s.writes.filter (·.onlyIn d)
  let dead := (s.teams.filter fun t => t.2.core / 256 == d).map (·.1) ++
    (s.saved.filter fun x => (!x.ovf && x.core / 256 == d) || (decide (0 < x.keep.colUnits) && x.keep.core / 256 == d)).map (·.team)
  let s1 : State := { s with
    writes := s.writes.filter fun w => !w.onlyIn d
    lost := s.lost ++ (gone.map fun w => (d, lineOf w.pa)).eraseDups
    caches := s.caches.filter fun c => c.cache.core / 256 != d
    ucopies := s.ucopies.filter fun c => c.block / 16 != d
    tlb := s.tlb.filter fun e => !e.tlb.within 3 (256 * d)
    tables := s.tables.filter fun e => e.block / 16 != d
    walks := s.walks.filter fun w => !w.tlb.within 3 (256 * d)
    rebuild := d :: s.rebuild.filter (· != d) }
  .next (s1.sooner (dead.map fun t => ⟨.teamKill, { key := ⟨t.slot, t.team, 0⟩, flag := true }⟩))

/-- Every cached copy of some cores is written back and invalid, the copies of peers' lines in their L2 slices too (R245). -/
def State.flushCaches (s : State) (mine : Nat → Bool) : State :=
  let s1 := (s.propagate fun w => mine w.core).dropIf fun c => mine c.cache.core
  { s1 with ucopies := s1.ucopies.filter fun c => !mine (16 * c.block) }

/-- Fences a core: the scheduler never places there again, STATUS says so, and it asks for the licence no more (R194, R368). HCNT7 counts
each core, and not the block or deck that it lies in once more (R367; DESIGN CHOICE, log 96). -/
def State.fenceCore (s : State) (c : Nat) : State :=
  if (s.core c).fenced then s
  else
    let s1 := (s.modCore c fun x => { x with fenced := true }).countHealth 7
    { s1 with
      degraded := true, replace := true
      pairs := s1.pairs.map fun p => if p.1 = pairOf c then (p.1, { p.2 with wants := p.2.wants.filter (· ≠ c) }) else p }

/-- The rebuild for a deck ends: its lost lines are in P, and the die is fenced (R242); the steps that have waited for it are due (R243). -/
def State.endRebuild (s : State) (d : Nat) : State :=
  let s1 : State := { s with
    rebuild := s.rebuild.filter (· != d), lost := s.lost.filter fun x => x.1 != d, agenda := s.agenda ++ s.delayed, delayed := [] }
  let s2 := (s.lost.filter fun x => x.1 == d).foldl (fun s l => (s.poisonLine l.2).healthRecord 2 (128 * l.2) (256 * d)) s1
  (List.range 256).foldl (fun s i => s.fenceCore (256 * d + i)) s2

/-- DIRECTORY_REBUILD_COMPLETE (R242): the rebuild for deck `k` ends. -/
def execDirectoryRebuildComplete (s : State) : Host.Outcome State Fault Refusal :=
  .next (if s.rebuild.contains s.ev.k then s.endRebuild s.ev.k else s)

/-- HOST_SNOOP (R237, R246): of the host sector at `n`; flagged, it takes the device's copies away, else it leaves them shared. One whose line is in
P is answered with poison, and its copies stay in P. -/
def execHostSnoop (s : State) : Host.Outcome State Fault Refusal :=
  let base := copyBase s.ev.n
  let dirty := s.caches.any fun c => c.base == base && (c.st == .m || c.st == .o)
  let s1 : State := { s with hostOut := s.hostOut ++
    [if s.snoopBad.contains base || s.isPoisoned base then .snoopPoison base else if dirty then .snoopDirty base else .snoopClean base] }
  if s.ev.flag then .next (s1.dropIf fun c => c.base == base && c.st != .p)
  else .next { s1 with caches := s1.caches.map fun c => if c.base == base && c.st != .p then { c with st := .s } else c }

/-- HOST_MEMORY_ACCESS (R247, R366): a host read of `m` bytes at address `n`, or, flagged, a host write of `data` there, performed within one line at
the home agent, under the line's key slot, or at the host where the address is one of host memory; a write there ends a sector's poison (R246). Of a line of
host memory in P the host reads poison, and its write there lands, with the line and its copies left in P until a scrub (R237, R238; DESIGN CHOICE,
log 90). With `k` = 1 the host keeps a copy of the line that it reads. A package that is shut down serves none of its memory (R359). -/
def execHostMemoryAccess (s : State) : Host.Outcome State Fault Refusal :=
  let a := s.ev.n
  let bad := s.isPoisoned a || s.lineLocked a || decide (hbmBytes ≤ a) || s.off
  if isHost a then
    if s.ev.flag then
      let s1 : State := { ((s.noteOwn none a s.ev.data).homeWrite a s.ev.data) with snoopBad := s.snoopBad.filter (· ≠ copyBase a) }
      .next ((s1.noteWrite a 0 none none none).dropIf fun c => c.base == copyBase a && c.st != .p)
    else .next { s with hostOut := s.hostOut ++ [if s.isPoisoned a then .poison a else .data a (s.homeRead a s.ev.m)] }
  else if s.ev.flag then
    if bad then .next { s with hostOut := s.hostOut ++ [.refused a] }
    else
      let s1 := (((s.rekeyLine a (s.lineSlot a)).noteOwn none a s.ev.data).settleRange a s.ev.data.length).homeWrite a s.ev.data
      .next ((s1.noteWrite a 0 none none none).dropIf fun c => c.base == copyBase a)
  else if bad then .next { s with hostOut := s.hostOut ++ [.poison a] }
  else .next { s with
    hostOut := s.hostOut ++ [.data a (s.homeBytes ⟨a, false, s.lineSlot a⟩ s.ev.m)]
    hostCached := if s.ev.k = 1 then lineOf a :: s.hostCached.filter (· ≠ lineOf a) else s.hostCached }

end Sys2Proof.Machine
end

