-- ==== Sys2Proof/Machine/Work.lean ====
section
/-! DEFINITION. Clusters, barriers and join records, and how lanes, groups and teams come to an end (R5, R83, R92, R266, R278, R297). -/

namespace Sys2Proof.Machine

-- ## Clusters (R5)

/-- The launch record of a team's grid. -/
def State.record (s : State) (t : TKey) : LaunchRec := (s.grid t.slot).lr
/-- Teams of a cluster (R103 CLSIZE). -/
def LaunchRec.clusterSize (r : LaunchRec) : Nat := (r.clw + 1) * (r.clh + 1)
/-- The cluster of a team in its grid. -/
def State.clusterOf (s : State) (t : TKey) : Nat := t.team / (s.record t).clusterSize
/-- The rank of a team in its cluster (R5). -/
def State.rankOf (s : State) (t : TKey) : Nat := t.team % (s.record t).clusterSize
/-- The team at a rank of the team's cluster. -/
def State.atRank (s : State) (t : TKey) (r : Nat) : TKey := ⟨t.slot, s.clusterOf t * (s.record t).clusterSize + r⟩
/-- The teams of a team's cluster in rank order. -/
def State.clusterTeams (s : State) (t : TKey) : List TKey := (List.range (s.record t).clusterSize).map (s.atRank t)
/-- The team is resident. -/
def State.isResident (s : State) (t : TKey) : Bool := (kfind s.teams t).isSome
/-- The team is saved. -/
def State.isSaved (s : State) (t : TKey) : Bool := s.saved.any (·.team = t)
/-- The team has ended. -/
def State.hasEnded (s : State) (t : TKey) : Bool := (s.grid t.slot).ended.contains t.team

/-- Teams in a grid. -/
def LaunchRec.teamCount (r : LaunchRec) : Nat := r.teamsm1.toNat + 1

/-- The keys of a team's resident groups. -/
def State.groupsOf (s : State) (t : TKey) : List GKey := (s.groups.map (·.1)).filter fun k => k.tkey = t

/-- Applies a change to every resident group of a team. -/
def State.modGroups (s : State) (t : TKey) (f : Group → Group) : State :=
  { s with groups := s.groups.map fun kg => if kg.1.tkey = t then (kg.1, f kg.2) else kg }

-- ## Suspended paths

/-- Waits that satisfy a test are over: their paths become ready at PATH_READY (R76). -/
def Group.endWaits (g : Group) (test : Wait → Bool) : Group :=
  { g with stack := g.stack.map fun e => match e.kind with
      | .path (.suspended w) => if test w then { e with kind := .path (.suspended .over) } else e
      | _ => e }

/-- Ends waits in the groups that satisfy a test. -/
def State.endWaitsIn (s : State) (who : GKey → Bool) (test : Wait → Bool) : State :=
  { s with groups := s.groups.map fun kg => if who kg.1 then (kg.1, kg.2.endWaits test) else kg }

-- ## Barriers (R266, R267)

/-- The lanes of a group that have arrived at a barrier: 0 team, 1 cluster, 2 grid. -/
def Group.arrived (g : Group) (which : Nat) : Word := match which with
  | 0 => g.arrTeam
  | 1 => g.arrClu
  | _ => g.arrGrid
def Group.setArrived (g : Group) (which : Nat) (m : Word) : Group := match which with
  | 0 => { g with arrTeam := m }
  | 1 => { g with arrClu := m }
  | _ => { g with arrGrid := m }

/-- A resident team has arrived: every member group has arrived or retired, and some member has not retired. -/
def State.teamArrived (s : State) (t : TKey) (which : Nat) : Bool :=
  let members := s.groups.filter fun kg => kg.1.tkey = t && !kg.2.wave
  !members.isEmpty && members.all fun kg => kg.2.arrived which &&& kg.2.live == kg.2.live

/-- No member group of a resident team is left. -/
def State.membersGone (s : State) (t : TKey) : Bool := s.groups.all fun kg => kg.1.tkey ≠ t || kg.2.wave

/-- The phase of a team's barrier is complete for this resident team: arrived or retired. -/
def State.passes (s : State) (t : TKey) (which : Nat) : Bool := s.teamArrived t which || (s.isResident t && s.membersGone t)

/-- A phase completes for a resident team: arrivals clear, and the paths that wait become ready. -/
def State.openBarrier (s : State) (t : TKey) (which : Nat) : State :=
  s.modGroups t fun g => (g.setArrived which 0#32).endWaits fun w => w = .barrier which

/-- Completes the team barrier of a team if its team has arrived. -/
def State.checkTeamBarrier (s : State) (t : TKey) : State :=
  if s.teamArrived t 0 then (s.modTeam t fun x => { x with teamC := x.teamC + 1#32 }).openBarrier t 0 else s

/-- Completes the cluster barrier if every team of the cluster has arrived or ended. -/
def State.checkClusterBarrier (s : State) (t : TKey) : State :=
  let ts := s.clusterTeams t
  if (ts.any fun u => s.teamArrived u 1) && ts.all fun u => s.hasEnded u || s.passes u 1 then
    ts.foldl (fun s u => (s.modTeam u fun x => { x with cluC := x.cluC + 1#32 }).openBarrier u 1) s
  else s

/-- Every team of the grid has been placed, or has ended before it was. -/
def Grid.allPlaced (g : Grid) : Bool :=
  decide (g.lr.teamCount ≤ g.nextTeam + (g.ended.filter fun i => decide (g.nextTeam ≤ i)).length)

/-- Completes the grid barrier if every team of the grid has arrived or ended; a saved team's arrival stands with the scheduler, and one of
whose members none is left counts in every phase (R266). -/
def State.checkGridBarrier (s : State) (slot : Nat) : State :=
  match kfind s.grids slot with
  | none => s
  | some gr =>
    let away := fun (i : Nat) => s.saved.any fun x => x.team = ⟨slot, i⟩ && x.groups.all (·.2.wave)
    let done := fun (i : Nat) => gr.ended.contains i || gr.arrived.contains i || s.passes ⟨slot, i⟩ 2 || away i
    let here := s.teams.any fun t => t.1.slot = slot && s.teamArrived t.1 2
    if (here || !gr.arrived.isEmpty) && gr.allPlaced && (List.range gr.lr.teamCount).all done then
      let s1 := s.modGrid slot fun g => { g with gridC := g.gridC + 1#32, arrived := [] }
      (s.teams.filter fun t => t.1.slot = slot).foldl (fun s t => s.openBarrier t.1 2) s1
    else s

/-- Barriers that an arrival or an end of lanes may complete. -/
def State.checkBarriers (s : State) (t : TKey) : State :=
  ((s.checkTeamBarrier t).checkClusterBarrier t).checkGridBarrier t.slot

-- ## Join records (R278, R279, R281)

/-- Wakes the paths that wait on an address, on the core or the cores of the grid that WLINK names (R281, R282). -/
def State.wakeLinked (s : State) (slot : Nat) (wlink : Word) (test : Wait → Bool) : State :=
  if wlink = 0#32 then s
  else s.endWaitsIn (fun k => if wlink = 0xFFFFFFFF#32 then k.slot = slot else wlink = 0x80000000#32 ||| BitVec.ofNat 32 (s.coreOf k)) test

/-- How a task lane ends (R278). -/
inductive TaskEnd where
  | normal | faulted | killed
deriving DecidableEq, Repr

/-- The first eight bytes of a join record after a child's end. -/
def joinAfter (v : Nat) (how : TaskEnd) : Nat :=
  let pending := (natBits v 31 0 + 2 ^ 32 - 1) % 2 ^ 32
  let nf := natBits v 47 32
  let nk := natBits v 62 48
  let nf' := if how = .faulted then min (nf + 1) 0xFFFF else nf
  let nk' := if how = .killed then min (nk + 1) 0x7FFF else nk
  pending + 2 ^ 32 * nf' + 2 ^ 48 * nk' + 2 ^ 63 * natBits v 63 63

/-- A team's address space as its tasks end in it, resident or not: the grid's record gives it (R278, R289). -/
def State.taskSpace (s : State) (t : TKey) : Space :=
  let r := s.record t
  match kfind s.teams t with
  | some x => x.space .user
  | none => ⟨r.asid, r.ptb.toNat, r.ownkey.toNat, true⟩

/-- The join record update of a task that ends (R278): one read-modify-write at package scope, dropped where its address fails R212. -/
def State.endTask (s : State) (t : TKey) (j : DWord) (how : TaskEnd) : State :=
  if j = 0#64 then s
  else
    let core := (s.team t).core
    match s.access core (s.taskSpace t) j 16 .both with
    | .ok f =>
      let old := s.rmwRead f 16
      let v := ofBytes old
      let s1 := (s.observe core f.pa 16).rmwWrite core 6 none f (bytesOf 8 (joinAfter (v % 2 ^ 64) how))
      s1.wakeLinked t.slot (BitVec.ofNat 32 (natBits v 127 96)) fun w => match w with
        | .join rs => rs.contains f.pa
        | _ => false
    | _ => s.healthRecord 4 j.toNat core

/-- The lanes of the mask that are task lanes end (R278); each ends once. -/
def State.endTaskLanes (s : State) (k : GKey) (lanes : Word) (how : TaskEnd) : State :=
  let g := s.group k
  let mine := lanes &&& g.tasks
  let s1 := s.modGroup k fun g => { g with tasks := g.tasks &&& ~~~mine }
  (maskLanes mine).foldl (fun s L => s.endTask k.tkey g.joins[L] how) s1

/-- The trapping lanes of open traps whose cause is not SYSC, HVC or BRK (R278). -/
def Group.faultedLanes (g : Group) : Word :=
  g.stack.foldl (fun m e => match e.kind with
    | .trap _ f => m ||| f
    | _ => m) 0#32

-- ## The end of groups and teams (R92, R156, R176, R194)

/-- Takes a group out of its active set; its register cache goes back to the board (R67). -/
def State.leaveActive (s : State) (k : GKey) : State :=
  (s.modPart (s.coreOf k) (partOf k) fun p => { p with active := p.active.filter (· ≠ k) }).modGroup k fun g => { g with cached := [] }

/-- The core has a team that holds the beam, resident or saved for restore there (R156). -/
def State.hasBeamTeam (s : State) (core : Nat) : Bool :=
  (s.teams.any fun t => t.2.core = core && !t.2.gone && (s.record t.1).beam) || s.saved.any fun x => x.core = core && (s.record x.team).beam

/-- Changes the record of a pair. -/
def State.pair (s : State) (c : Nat) : Pair := (kfind s.pairs (pairOf c)).getD {}
def State.modPair (s : State) (c : Nat) (f : Pair → Pair) : State := { s with pairs := kput s.pairs (pairOf c) (f (s.pair c)) }

/-- A core that has lost its beam team: its FIFOs empty, their credits go back to the twin, what is on its way there is to be discarded, and the
window is zeroed when neither core of the pair has a beam team (R156). -/
def State.releaseBeam (s : State) (core : Nat) : State :=
  if s.hasBeamTeam core then s
  else
    let s1 := (List.range 4).foldl (fun s p =>
      let n := (s.part core p).fifo.length
      (s.modPart core p fun x => { x with fifo := [], doomed := x.transit.length }).modPart (twinOf core) p fun x =>
        { x with returning := x.returning + n }) s
    if s.hasBeamTeam (twinOf core) then s1 else s1.modPair core fun x => { x with window := [] }

/-- Work of the team that is still in flight (R92, R155, R176, R198). -/
def State.teamBusy (s : State) (t : TKey) : Bool :=
  s.copies.any (·.key.tkey = t) || s.rings.any (·.team = t) ||
    s.parts.any fun p => p.2.matQ.any fun o => o.team = t

/-- A gang of a partition exists: some group there holds its mask valid (R191). -/
def State.gangAlive (s : State) (part : Nat) (g : GangId) : Bool :=
  s.groups.any fun kg => partOf kg.1 = part && kg.2.gangId kg.1 = some g

/-- The carry is free once no group of the partition holds its gang's mask, requests of such gangs are dropped (DESIGN CHOICE, log 85), and a free
carry goes at once to the oldest request (R193). -/
def State.dropCarry (s : State) (core part : Nat) : State :=
  s.modPart core part fun p =>
    let q := p.carryQ.filter (s.gangAlive part)
    match p.carry.filter (s.gangAlive part) with
    | some g => { p with carry := some g, carryQ := q }
    | none => { p with carry := q.head?, carryQ := q.tail }

/-- The core has an open rendezvous (R192). -/
def State.hasLatch (s : State) (core : Nat) : Bool := (List.range 4).any fun p => (s.part core p).latches ≠ []

/-- When a matrix-using team of a core retires or is pre-empted and was the last one there, the core's licence is to be released (R194). -/
def State.dropLicence (s : State) (core : Nat) (x : Team) : State :=
  if !x.usedMatrix || s.teams.any fun t => t.2.core = core && !t.2.gone && t.2.usedMatrix then s
  else s.modPair core fun p => { p with ldrop := p.ldrop || p.licence = some core }

/-- A team's last group retires (R92, R95, R156, R194): its slot run, register rows, TLB slice, beam and licence are free at once; what its
copies, matrix operations and ring steps still use is not. -/
def State.leaveTeam (s : State) (t : TKey) : State :=
  let x := s.team t
  let s1 := s.modTeam t fun x => { x with gone := true }
  (((List.range 4).foldl (fun s p => s.dropCarry x.core p) s1).releaseBeam x.core).dropLicence x.core x

/-- A team ends: what is left of it is released (R92, R142, R143, R155, R167, R287). -/
def State.releaseTeam (s : State) (t : TKey) : State :=
  let x := s.team t
  let s1 : State := if x.gone then { s with teams := kdel s.teams t } else
    let s0 := s.leaveTeam t
    { s0 with teams := kdel s0.teams t }
  let s2 := s1.modGrid t.slot fun g => { g with
    ended := if g.ended.contains t.team then g.ended else t.team :: g.ended
    ringEnd := kput g.ringEnd t.team x.ringN }
  let s3 := if (s2.clusterTeams t).all s2.hasEnded
    then { s2 with bounds := s2.bounds.filter fun b => !(b.1.1 = t.slot && b.1.2.1 = s2.clusterOf t) } else s2
  (s3.checkClusterBarrier t).checkGridBarrier t.slot

/-- A team whose last group has retired leaves its places, its tiles once its operations are complete (R198), and ends once its work is; the teams
of a task grid stay until the grid ends (R92, R297). -/
def State.endTeamIfDone (s : State) (t : TKey) : State :=
  if s.isResident t && (s.groupsOf t).isEmpty && ((s.record t).taskw = 0 || (s.team t).killed) then
    let s1 := if (s.team t).gone then s else s.leaveTeam t
    let s2 := if s1.parts.any fun p => p.2.matQ.any fun o => o.team = t then s1 else s1.modTeam t fun x => { x with tiles := [] }
    if s2.teamBusy t then s2 else s2.releaseTeam t
  else s

/-- What a retired group has in flight goes on without it, and what it has noted is over (R201): its copies, its part in matrix operations, and its posted remote instructions, whose
statuses and failures no later group of the same slot receives (R176, R202, R315). Of a posted instruction that has failed no further response
matters. -/
def State.orphanWork (s : State) (k : GKey) : State :=
  let core := s.coreOf k
  let failed := fun (op : Nat) => (s.group k).posted.any fun p => p.id = op && !p.fails.isEmpty
  { s with
    copies := s.copies.map fun c => if c.key = k then { c with orphan := true } else c
    parts := s.parts.map fun p => (p.1, { p.2 with
      matQ := p.2.matQ.map fun o => { o with members := o.members.map fun m => if m.key = k then { m with orphan := true } else m } })
    requests := s.requests.map fun r => match r.asker with
      | .posted j op => if j = k then { r with asker := if failed op then .nobody else .retired core op } else r
      | _ => r
    notes := s.notes.filter fun x => x.key ≠ k
    stalled := s.stalled.filter (· ≠ k) }

/-- A group with no lane left retires (R92): its pending register writes are discarded and its slot, registers, stack and active-set place
are released; unreported remote failures, those of instructions that still lack responses among them, are dropped with one record for each instruction (R315); waiting
members of its gang raise GANG_BROKEN (R192). -/
def State.retireGroup (s : State) (k : GKey) : State :=
  let g := s.group k
  let core := s.coreOf k
  let told := (g.posted.filter fun p => !p.fails.isEmpty).map fun p => lowestFail p.fails
  let s0 := g.pfail.foldl (fun s f => s.healthRecord 4 f.offset.toNat core) (s.breakGang k)
  let s1 := told.foldl (fun s f => s.healthRecord 4 f.off core) s0
  let s2 : State := { (s1.leaveActive k).orphanWork k with groups := kdel s1.groups k, runs := s1.runs.filter (· ≠ k) }
  let s3 := (s2.dropCarry core (partOf k)).modCore core fun c => { c with allocQ := c.allocQ.filter (·.1 ≠ k) }
  (s3.checkBarriers k.tkey).endTeamIfDone k.tkey

end Sys2Proof.Machine
end

