-- ==== Sys2Proof/Machine/Beam.lean ====
section
/-! DEFINITION. The beam: window, FIFOs and credits, gating, realignment, and the refresh of the column (R148, R156 to R163). -/

namespace Sys2Proof.Machine

/-- The core lies on an upper deck (R2). -/
def isUpper (c : Nat) : Bool := c / 256 % 2 = 1

/-- The twin of the core is power-gated, or about to be, or its beam team, saved for the gating, has not been restored; or it is fenced, which
reads alike (R162, R368). -/
def State.twinGated (s : State) (c : Nat) : Bool :=
  s.gated.contains (twinOf c / 256) || s.gating.contains (twinOf c / 256) || (s.core (twinOf c)).fenced ||
    s.saved.any fun x => x.core = twinOf c && x.gatedOff

/-- NOHOLDER (R103, R156). -/
def State.noHolder (s : State) (c : Nat) : Bool := !s.hasBeamTeam (twinOf c)

/-- The credit count as BFREE reads it (R159, R160, R162). -/
def State.beamFree (s : State) (c p : Nat) : Nat := if s.noHolder c || s.twinGated c then 0 else (s.part c p).credits

/-- A realignment of the core's beam is in progress (R163). -/
def State.realigning (s : State) (c : Nat) : Bool := (s.pair c).realign = .running

/-- The team holds the beam (R156). -/
def View.holdsBeam (v : View) : Bool := (v.s.record v.k.tkey).beam

/-- A beam instruction: NEAR_RANGE in every lane unless the team holds the beam (R156). It takes one beat but for a VPUT.NB,
whose entry states no beat count (R64, R160; DEDUCED, log 93). -/
def beam (names reads : List Nat) (one : Bool) (body : View → Res) (s : State) : Host.Outcome State Fault Refusal :=
  issue (fun _ => { names := names, reads := reads, oneBeat := one }) (fun v =>
    if v.holdsBeam then body v else v.whole .nearRange) s

/-- The entry that a VPUT builds (R160). -/
def View.entry (v : View) (a : Nat) : Lanes Word :=
  let x := v.rd a
  lanesOf fun L => if v.ex.getLsbD L then x[L] else 0#32

/-- Sends an entry: a credit is taken, and the entry is on its way to the twin's FIFO (R159, R160). -/
def View.send (v : View) (a : Nat) : State :=
  let p := partOf v.k
  (v.s.modPart v.core p fun x => { x with credits := x.credits - 1 }).modPart (twinOf v.core) p fun x =>
    { x with transit := x.transit ++ [v.entry a] }

/-- VPUT (R160): it waits for a credit, for the end of a realignment (R163), and, as the release that it may be (R158), for the fences that hold a
write. -/
def execVput (a : Reg) (s : State) : Host.Outcome State Fault Refusal :=
  beam [a.toNat] [a.toNat] true (fun v => v.fenced .write fun v =>
    if v.s.beamFree v.core (partOf v.k) = 0 || v.s.realigning v.core then .hold [] else .ok (v.send a.toNat)) s

/-- VPUT.NB (R160), after the fences that hold a write (R158). -/
def execVputNb (d a : Reg) (s : State) : Host.Outcome State Fault Refusal :=
  beam [d.toNat, a.toNat] [a.toNat] false (fun v => v.fenced .write fun v =>
    let give := fun (s : State) (x : Word) => Res.ok (v.wr s d.toNat (uniformLanes x))
    if v.s.noHolder v.core then give v.s 3#32
    else if v.s.twinGated v.core then give v.s 2#32
    else if (v.s.part v.core (partOf v.k)).credits = 0 then give v.s 1#32
    else if v.s.realigning v.core then .hold []
    else give (v.send a.toNat) 0#32) s

/-- Claims the oldest entry of the partition's FIFO; its credit is on its way back (R159, R161). -/
def View.claim (v : View) (d : Nat) (e : Lanes Word) (rest : List (Lanes Word)) : State :=
  let p := partOf v.k
  let s1 := v.s.modPart v.core p fun x => { x with fifo := rest }
  v.wrLater (s1.modPart (twinOf v.core) p fun x => { x with returning := x.returning + 1 }) d v.ex e

/-- VGET (R161). -/
def execVget (d : Reg) (s : State) : Host.Outcome State Fault Refusal :=
  beam [d.toNat] [] true (fun v =>
    match (v.s.part v.core (partOf v.k)).fifo with
    | [] => .hold []
    | e :: rest => .ok (v.claim d.toNat e rest)) s

/-- VGET.NB (R161): A receives whether an entry was claimed. -/
def execVgetNb (d a : Reg) (s : State) : Host.Outcome State Fault Refusal :=
  beam [d.toNat, a.toNat] [] true (fun v =>
    match (v.s.part v.core (partOf v.k)).fifo with
    | [] => .ok (v.wr v.s a.toNat (uniformLanes 1#32))
    | e :: rest =>
      let s1 := v.wr v.s a.toNat (uniformLanes 0#32)
      .ok (View.claim { v with s := s1 } d.toNat e rest)) s

/-- The index of a slot of the group's partition in the window (R156). -/
def View.windowSlot (v : View) (n : BitVec 3) : Nat := 8 * partOf v.k + n.toNat

/-- A TWX that would cross the beam waits for the end of a realignment: the window lies on the lower deck (R156, R163). -/
def View.crossing (v : View) : Bool := isUpper v.core && v.s.realigning v.core

/-- The image of a window slot (R157). -/
def Pair.slot (p : Pair) (i : Nat) : Lanes Word := (kfind p.window i).getD (uniformLanes 0#32)

/-- TWX write (R157). -/
def execTwxWr (a : Reg) (n : BitVec 3) (s : State) : Host.Outcome State Fault Refusal :=
  beam [a.toNat] [a.toNat] true (fun v =>
    if v.crossing then .hold []
    else .ok (v.s.modPair v.core fun p =>
      { p with window := kput p.window (v.windowSlot n) (mergeLanes v.ex (v.rd a.toNat) (p.slot (v.windowSlot n))) })) s

/-- TWX read (R157). -/
def execTwxRd (d : Reg) (n : BitVec 3) (s : State) : Host.Outcome State Fault Refusal :=
  beam [d.toNat] [] true (fun v =>
    if v.crossing then .hold []
    else .ok (v.wr v.s d.toNat ((v.s.pair v.core).slot (v.windowSlot n)))) s

/-- BEAM_ENTRY_ARRIVAL (R156, R160): the oldest entry on its way to partition `part` of core `core` lands, or is discarded where no team
holds the beam or its holder is gone, its credit going back. A realignment pauses it (R163). -/
def execBeamEntryArrival (s : State) : Host.Outcome State Fault Refusal :=
  let c := s.ev.core
  let p := s.ev.part
  match (s.part c p).transit with
  | [] => .next s
  | e :: rest =>
    if s.realigning c then .next s
    else
      let s1 := s.modPart c p fun x => { x with transit := rest, doomed := x.doomed - 1 }
      if s.hasBeamTeam c && (s.part c p).doomed = 0 then .next (s1.modPart c p fun x => { x with fifo := x.fifo ++ [e] })
      else .next (s1.modPart (twinOf c) p fun x => { x with returning := x.returning + 1 })

/-- BEAM_CREDIT_RETURN (R159): a credit reaches partition `part` of core `core`. -/
def execBeamCreditReturn (s : State) : Host.Outcome State Fault Refusal :=
  .next (s.modPart s.ev.core s.ev.part fun x =>
    if x.returning = 0 then x else { x with returning := x.returning - 1, credits := min 16 (x.credits + 1) })

/-- Something is in transit across the beam of a pair: an entry, or an LCOPY that names the twin's column (R163, R181). -/
def State.beamBusy (s : State) (c : Nat) : Bool :=
  (List.range 4).any (fun p => (s.part c p).transit ≠ [] || (s.part (twinOf c) p).transit ≠ []) ||
    s.copies.any fun x => pairOf x.core = pairOf c && (match x.kind with
      | .layer src dst _ => natBits src.toNat 63 60 = 9 || natBits dst.toNat 63 60 = 9
      | .tile _ _ _ _ => false)

/-- BEAM_REALIGNMENT_DUE (R163): for the pair of core `core`; it starts at once, or is deferred while something is in transit. -/
def execBeamRealignmentDue (s : State) : Host.Outcome State Fault Refusal :=
  .next (s.modPair s.ev.core fun p =>
    if p.realign = .idle then { p with realign := if s.beamBusy s.ev.core then .deferred else .running } else p)

/-- BEAM_REALIGNMENT_START (R163): a deferred realignment starts, with nothing in transit or, flagged, after 4 ms regardless. -/
def execBeamRealignmentStart (s : State) : Host.Outcome State Fault Refusal :=
  .next (s.modPair s.ev.core fun p =>
    if p.realign = .deferred && (s.ev.flag || !s.beamBusy s.ev.core) then { p with realign := .running } else p)

/-- BEAM_REALIGNMENT_COMPLETE (R163). -/
def execBeamRealignmentComplete (s : State) : Host.Outcome State Fault Refusal :=
  .next (s.modPair s.ev.core fun p => if p.realign = .running then { p with realign := .idle } else p)

/-- UPPER_DECK_GATE (R162): the teams of upper deck `k` are pre-empted; once none is resident its caches are written
back (R245), and the deck is gated. -/
def execUpperDeckGate (s : State) : Host.Outcome State Fault Refusal :=
  let d := s.ev.k
  if d % 2 = 0 || s.gated.contains d then .next s
  else
    let here := s.teams.filter fun t => t.2.core / 256 = d
    let asked := s.gating.filter (· ≠ d)
    let off := fun (x : Saved) => if x.core / 256 = d && (s.record x.team).beam then { x with gatedOff := true } else x
    if here.isEmpty then .next { s.flushCaches (fun c => c / 256 == d) with gated := d :: s.gated, gating := asked, saved := s.saved.map off }
    else
      let stops := (here.filter fun t => !t.2.stop).map fun t => (⟨.preemptionStop, { key := ⟨t.1.slot, t.1.team, 0⟩, n := 1 }⟩ : Due)
      .next (State.later { s with gating := d :: asked } stops)

/-- The credits toward an ungated FIFO (R162): those that were on their way are back, so that the count is 16 less the entries that the FIFO
holds, that its saved image holds, or that are in transit. -/
def Part.ungated (p : Part) : Part := { p with credits := min 16 (p.credits + p.returning), returning := 0 }

/-- UPPER_DECK_UNGATE (R162): the deck takes teams again, and the lower deck's credits are set; TWIN_GATED of a core stays until the twin's beam
team is restored. -/
def execUpperDeckUngate (s : State) : Host.Outcome State Fault Refusal :=
  let d := s.ev.k
  let parts := s.parts.map fun p => (p.1, if twinOf (p.1 / 4) / 256 = d then p.2.ungated else p.2)
  if s.gated.contains d then .next { s with gated := s.gated.filter (· ≠ d), parts := parts } else .next s

/-- REFRESH_WINDOW_START (R148): a refresh window of the column region of the pair of core `core` begins. -/
def execRefreshWindowStart (s : State) : Host.Outcome State Fault Refusal :=
  .next (s.modPair s.ev.core fun p => { p with refresh := true })
/-- REFRESH_WINDOW_END (R148): the window ends, and accesses that waited proceed. -/
def execRefreshWindowEnd (s : State) : Host.Outcome State Fault Refusal :=
  .next { s.modPair s.ev.core (fun p => { p with refresh := false }) with stalled := [] }

end Sys2Proof.Machine
end

