-- ==== Sys2Proof/Machine/Special.lean ====
section
/-! DEFINITION. SGET and SSET, and the special registers (R102 to R105, R113). -/

namespace Sys2Proof.Machine

-- ## Batches (R172, R200)

/-- A batch number counts as `n` or lower (R172). -/
def batchLe (m n : Word) : Bool := (n - m).toNat < 2 ^ 31

/-- The lowest of a list of batch numbers, each counted from a base. -/
def lowestBatch (base : Word) : List Word → Option Word
  | [] => none
  | b :: bs => some (bs.foldl (fun x y => if (base - x).toNat < (base - y).toNat then y else x) b)

/-- The highest batch such that it and every lower one is complete, from the batches of the work in flight (R172). -/
def batchDone (committed : Word) (inFlight : List Word) : Word :=
  match lowestBatch committed (inFlight.filter fun b => batchLe b committed) with
  | some b => b - 1#32
  | none => committed

/-- The batches of a group's copies in flight; those of a group that has retired are of no other (R176). -/
def State.copyBatches (s : State) (k : GKey) : List Word := (s.copies.filter fun c => c.key = k && !c.orphan).map (·.batch)

/-- The matrix operations and STNs in flight on a core. -/
def State.matOpsOn (s : State) (core : Nat) : List MatOp := (List.range 4).flatMap fun p => (s.part core p).matQ

/-- The batches of a group's matrix work in flight; those of a group that has retired are of no other (R202). -/
def State.matBatches (s : State) (k : GKey) : List Word :=
  (s.matOpsOn (s.coreOf k)).flatMap fun o => (o.members.filter fun m => m.key = k && !m.orphan).map (·.batch)

-- ## The words of the registers (R103)

/-- The words of a stack entry (R73). -/
def Entry.words (e : Entry) : List Word :=
  let ctl : Word := match e.kind with
    | .mark => 0#32
    | .path st => 1#32 ||| (match st with
      | .ready => 0#32
      | .joined => 0x10#32
      | .suspended _ => 0x20#32)
    | .trap m _ => 2#32 ||| BitVec.ofNat 32 (64 * m.code)
  [e.pc, e.mask, e.fmt, ctl]

/-- GANGV (R103). -/
def Group.gangWord (g : Group) : Word :=
  (if g.gangOk then 0x80000000#32 else 0#32) ||| (g.rvn.setWidth 32 <<< 24) ||| g.gang.setWidth 32

/-- COREID (R2, R103). -/
def coreId (c : Nat) : Word := BitVec.ofNat 32 (c + 65536 * meshX c + 1048576 * meshY c)

/-- LIC and the low bits of LSTAT (R103, R210). -/
def State.licence (s : State) (c : Nat) : Word :=
  let p := s.pair c
  (if p.licence = some c then 1#32 else 0#32) ||| (if p.wants.contains c then 2#32 else 0#32) |||
    (if p.wants.contains (twinOf c) then 4#32 else 0#32)

/-- BSTAT (R103, R163). -/
def State.bstat (s : State) (c : Nat) : Word :=
  let r := (s.pair c).realign
  (if r = .deferred then 3#32 else 0#32) ||| (if s.twinGated c then 4#32 else 0#32) ||| (if r = .running then 8#32 else 0#32) |||
    (if s.noHolder c then 16#32 else 0#32)

/-- COLTEMP (R148). -/
def Pair.coltemp (c : Pair) : Word := BitVec.ofNat 32 (c.temp % 256 + (if c.doubled then 256 else 0) + (if c.refresh then 512 else 0))

/-- CTXBASE (R103, R341). -/
def Core.ctxbase (c : Core) : Word := match c.ctxPend with
  | none => BitVec.ofNat 32 (65536 * (c.ctx % 64))
  | some p => BitVec.ofNat 32 (2 ^ 31 + 16777216 * (p % 64) + 65536 * (c.ctx % 64))

/-- The register of a bank: TVEC, TCAUSE, TADDRLO, TADDRHI, TMASK, TPC (R103). -/
def Bank.word (b : Bank) (i : Nat) : Word := match i with
  | 0 => b.tvec
  | 1 => b.tcause
  | 2 => loWord b.taddr
  | 3 => hiWord b.taddr
  | 4 => b.tmask
  | _ => b.tpc

/-- Writes the register of a bank; TCAUSE [31:15] stays 0. -/
def Bank.setWord (b : Bank) (i : Nat) (x : Word) : Bank := match i with
  | 0 => { b with tvec := x }
  | 1 => { b with tcause := x &&& 0x7FFF#32 }
  | 2 => { b with taddr := pairVal x (hiWord b.taddr) }
  | 3 => { b with taddr := pairVal (loWord b.taddr) x }
  | 4 => { b with tmask := x }
  | _ => { b with tpc := x }

/-- The word that RSPEEK selects (R103). -/
def Group.peek (g : Group) : Word :=
  match g.stack[(g.rspeek.extractLsb' 0 5).toNat]? with
  | some e => e.words.getD (g.rspeek.extractLsb' 5 2).toNat 0#32
  | none => 0#32

/-- A special register that has one value for the group, by number (R103); 0 for a number that is none. -/
def View.special (v : View) (n : Nat) : Word :=
  let t := v.team
  let r := v.s.record v.k.tkey
  match n with
  | 0x01 => BitVec.ofNat 32 v.k.g
  | 0x02 => BitVec.ofNat 32 v.k.team
  | 0x03 => BitVec.ofNat 32 v.k.slot
  | 0x04 => coreId v.core
  | 0x05 => BitVec.ofNat 32 (v.s.rankOf v.k.tkey)
  | 0x06 => BitVec.ofNat 32 (r.clusterSize + 65536 * r.clw + 1048576 * r.clh)
  | 0x07 => v.s.selfPeer
  | 0x08 => v.ex
  | 0x0C => BitVec.ofNat 32 v.g.wbasev
  | 0x0D => BitVec.ofNat 32 v.g.wsize
  | 0x0E => BitVec.ofNat 32 (v.s.beamFree v.core (partOf v.k))
  | 0x0F => v.s.bstat v.core
  | 0x10 => v.g.tb.committed
  | 0x11 => batchDone v.g.tb.committed (v.s.copyBatches v.k)
  | 0x12 => v.g.mb.committed
  | 0x13 => batchDone v.g.mb.committed (v.s.matBatches v.k)
  | 0x14 => v.s.licence v.core
  | 0x15 => BitVec.ofNat 32 (v.s.pair v.core).tar
  | 0x16 => BitVec.ofNat 32 v.s.cycle
  | 0x17 => v.g.cychi
  | 0x18 => v.g.gangWord
  | 0x19 => loWord t.shb
  | 0x1A => hiWord t.shb
  | 0x1B => (v.s.pair v.core).coltemp
  | 0x40 => BitVec.ofNat 32 v.g.mode.code
  | 0x41 | 0x42 | 0x43 | 0x44 | 0x45 | 0x46 => (v.g.bank v.g.mode).word (n - 0x41)
  | 0x47 => BitVec.ofNat 32 v.g.stack.length
  | 0x48 => v.g.peek
  | 0x49 => BitVec.ofNat 32 (t.slice - v.s.cycle)
  | 0x4A => (v.s.core v.core).ctxbase
  | 0x4B => (v.s.core v.core).pword
  | 0x60 => t.asid.setWidth 32
  | 0x61 => loWord t.ptb
  | 0x62 => hiWord t.ptb
  | 0x63 => (if t.isSealed then 0x80000000#32 else 0#32) ||| t.tdom.setWidth 32
  | 0x64 => t.ownkey.setWidth 32
  | 0x68 | 0x69 | 0x6A | 0x6B | 0x6C | 0x6D => v.g.sbank.word (n - 0x68)
  | _ => 0#32

/-- A number that R103 assigns. -/
def isSpecial (n : Nat) : Bool :=
  decide (n ≤ 0x1B) || (decide (0x40 ≤ n) && decide (n ≤ 0x4B)) || (decide (0x60 ≤ n) && decide (n ≤ 0x64)) ||
    (decide (0x68 ≤ n) && decide (n ≤ 0x6D))

/-- The mode cannot reach the number (R102). -/
def specialRefused (m : Mode) (n : Nat) : Bool := match m with
  | .user => decide (0x40 ≤ n)
  | .supervisor => decide (0x60 ≤ n)
  | .hypervisor => false

-- ## SGET (R113)

/-- SGET of NRM (R104): once every load that the group issued earlier in the reading lanes has completed, one whose D a later write has overwritten
too, the bit is returned and cleared. -/
def View.readNrm (v : View) (d : Nat) : Res :=
  let loads := v.g.pend.filter fun p => p.left.isNone && p.await.isNone && (p.mask ||| p.absent) &&& v.ex ≠ 0#32
  if loads.isEmpty then
    let s1 := v.wr v.s d (lanesOf fun L => if v.g.nrm.getLsbD L then 1#32 else 0#32)
    .ok (s1.modGroup v.k fun g => { g with nrm := g.nrm &&& ~~~v.ex })
  else .hold [⟨.nrmRead, { key := v.k }⟩]

/-- SGET (R113): per-lane registers lane by lane, NRM and CYCLO with their side effects (R104), others as a uniform value. -/
def execSget (d : Reg) (n : BitVec 7) (s : State) : Host.Outcome State Fault Refusal :=
  issue (fun v =>
    { names := [d.toNat], illegal := !isSpecial n.toNat, priv := specialRefused v.g.mode n.toNat }) (fun v =>
    match n.toNat with
    | 0x00 => .ok (v.wr v.s d.toNat (lanesOf fun L => BitVec.ofNat 32 L.val))
    | 0x09 => v.readNrm d.toNat
    | 0x0A => v.flagsSettled fun _ => .ok (v.wr v.s d.toNat (lanesOf fun L => v.g.aflags[L].setWidth 32))
    | 0x0B => .ok (v.wr v.s d.toNat (lanesOf fun L => v.g.aen[L].setWidth 32))
    | 0x16 =>
      let s1 := v.wr v.s d.toNat (uniformLanes (BitVec.ofNat 32 v.s.cycle))
      .ok (s1.modGroup v.k fun g => { g with cychi := BitVec.ofNat 32 (v.s.cycle / 2 ^ 32) })
    | m => .ok (v.wr v.s d.toNat (uniformLanes (v.special m)))) s

-- ## SSET (R113)

/-- The write of a register that has one value for the group; a read-only one keeps its value (R102, R103). -/
def View.setSpecial (v : View) (n : Nat) (x : Word) : State :=
  let s := v.s
  let grp := fun (f : Group → Group) => s.modGroup v.k f
  let team := fun (f : Team → Team) => s.modTeam v.k.tkey f
  match n with
  | 0x41 | 0x42 | 0x43 | 0x44 | 0x45 | 0x46 => grp fun g => g.setBank g.mode ((g.bank g.mode).setWord (n - 0x41) x)
  | 0x48 => grp fun g => { g with rspeek := x.setWidth 7 }
  | 0x4A => s.modCore v.core fun c => { c with ctxPend := some (natBits x.toNat 21 16) }
  | 0x60 => team fun t => { t with asid := x.setWidth 16 }
  | 0x61 => team fun t => { t with ptb := pairVal (x &&& 0xFFFFE000#32) (hiWord t.ptb) }
  | 0x62 => team fun t => { t with ptb := pairVal (loWord t.ptb) (x &&& 0x01FFFFFF#32) }
  | 0x63 => team fun t => { t with tdom := x.setWidth 10, isSealed := x.getLsbD 31 }
  | 0x64 => team fun t => { t with ownkey := x.setWidth 12 }
  | 0x68 | 0x69 | 0x6A | 0x6B | 0x6C | 0x6D => grp fun g => { g with sbank := g.sbank.setWord (n - 0x68) x }
  | _ => s

/-- A register held per lane or per partition: LANE, NRM, AFLAGS, AEN, BFREE and BSTAT; every other is held per group, team, core or pair, and its
source must be uniform (R101, R103, R113). -/
def takesAnySource (n : Nat) : Bool := n == 0x00 || n == 0x09 || n == 0x0A || n == 0x0B || n == 0x0E || n == 0x0F

/-- SSET (R113). -/
def execSset (a : Reg) (n : BitVec 7) (s : State) : Host.Outcome State Fault Refusal :=
  issue (fun v =>
    { names := [a.toNat], reads := [a.toNat], unif := if takesAnySource n.toNat then [] else [a.toNat]
      illegal := !isSpecial n.toNat, priv := specialRefused v.g.mode n.toNat }) (fun v =>
    let x := v.rd a.toNat
    let lanes := fun (old : Lanes (BitVec 5)) => lanesOf fun L => if v.ex.getLsbD L then x[L].setWidth 5 else old[L]
    match n.toNat with
    | 0x0A => .ok (v.s.modGroup v.k fun g => { g with aflags := lanes g.aflags })
    | 0x0B => .ok (v.s.modGroup v.k fun g => { g with aen := lanes g.aen })
    | m => .ok (v.setSpecial m x[v.f])) s

-- ## The steps of the sampled registers

/-- NRM_READ (R104): the loads that an SGET of NRM in the group of `key` waits for complete, and the read may go on. -/
def execNrmRead (s : State) : Host.Outcome State Fault Refusal :=
  .next { s.modGroup s.ev.key (fun g => Group.completeAll (fun p => p.left.isNone && p.await.isNone) [] g.pend g) with
    stalled := s.stalled.filter (· ≠ s.ev.key) }

/-- CYCLO_READ (R104): the latch of CYCHI in the group of `key`, in the cycle of the read. -/
def execCycloRead (s : State) : Host.Outcome State Fault Refusal :=
  .next (s.modGroup s.ev.key fun g => { g with cychi := BitVec.ofNat 32 (s.cycle / 2 ^ 32) })

/-- Every result on its way sets its flags: an interlocked one completes with them, and one of fixed latency keeps its counted beats
(DEDUCED, log 30). -/
def Group.settleFlags (g : Group) : Group :=
  let g1 := Group.completeAll (fun p => p.left.isNone && p.await.isNone && p.raises) [] g.pend g
  { g1.pend.foldl (fun g p => g.orFlags p.flags) g1 with pend := g1.pend.map fun p => { p with flags := uniformLanes 0#5 } }

/-- AFLAGS_READ (R104): every instruction that an SGET of AFLAGS or a TFENCE in the group of `key` waits for has set its flags. -/
def execAflagsRead (s : State) : Host.Outcome State Fault Refusal :=
  .next { s.modGroup s.ev.key Group.settleFlags with stalled := s.stalled.filter (· ≠ s.ev.key) }

/-- RSPEEK_WRITE (R103): selector `n` of the group of `key`. -/
def execRspeekWrite (s : State) : Host.Outcome State Fault Refusal :=
  .next (s.modGroup s.ev.key fun g => { g with rspeek := BitVec.ofNat 7 s.ev.n })

/-- CTXBASE_WRITE (R341): offset `n` becomes pending on core `core`. -/
def execCtxbaseWrite (s : State) : Host.Outcome State Fault Refusal :=
  .next (s.modCore s.ev.core fun c => { c with ctxPend := some (s.ev.n % 64) })

end Sys2Proof.Machine
end

