-- ==== Sys2Proof/Machine/Near.lean ====
section
/-! DEFINITION. Near memory: addresses, loads, stores, atomics and ring-rotate (R141 to R155). -/

namespace Sys2Proof.Machine

-- ## Near addresses (R141)

/-- A place in near memory: a scratchpad offset of a team, or an offset of a core's column. -/
inductive NearAt where
  | spad (t : TKey) (off : Nat)
  | column (core off : Nat)
deriving DecidableEq, Repr

/-- SPBYTES of a team (R141). -/
def Team.spBytes (x : Team) : Nat := x.spRows * 1024

/-- near_decode (R141) for a group of the team in a mode; none is NEAR_RANGE. -/
def State.nearDecode (s : State) (t : TKey) (m : Mode) (a n : Nat) : Option NearAt :=
  let x := s.team t
  if a < 2 ^ 31 then
    if a + n ≤ x.spBytes then some (.spad t a)
    else if 0x400000 ≤ a && decide (a + n ≤ 0x800000) then
      let o := a - 0x400000
      if m ≠ .user then some (.column x.core o)
      else if o + n ≤ x.colUnits * 65536 then some (.column x.core (x.colUnit * 65536 + o))
      else none
    else none
  else
    let r := natBits a 30 23
    let o := natBits a 22 0
    if (s.record t).clusterSize ≤ r || decide (x.spBytes < o + n) then none else some (.spad (s.atRank t r) o)

/-- Bytes of near memory; a scratchpad that its team has released holds values that no rule gives (log 26). -/
def State.nearRead (s : State) (at_ : NearAt) (n : Nat) : List Byte :=
  match at_ with
  | .spad t o =>
    match kfind s.teams t with
    | some x => cellRead x.spad o n
    | none => (List.range n).map fun i => Config.releasedByte t.team (o + i) s.issued
  | .column c o => cellRead (s.core c).column o n

/-- Where a byte of near memory lies, counted from a place on. -/
def NearAt.place (at_ : NearAt) (i : Nat) : Place := match at_ with
  | .spad t o => .spad t (o + i)
  | .column c o => .column c (o + i)

/-- Writes bytes of near memory, by a group or by another agent, which is noted (R201). -/
def State.nearWrite (s : State) (at_ : NearAt) (bs : List Byte) (self : Option GKey := none) : State :=
  let s := s.noteAt self at_.place (s.nearRead at_ bs.length)
  match at_ with
  | .spad t o => s.modTeam t fun x => { x with spad := cellWrite x.spad o bs }
  | .column c o => s.modCore c fun x => { x with column := cellWrite x.column o bs }

/-- Numbers for the words of columns and of scratchpads, apart from physical addresses (R201). -/
def columnPlace : Nat := 2 ^ 60
def spadPlace : Nat := 2 ^ 61

/-- The protected units that a range touches: words of the scratchpad, bursts of the column (R146). -/
def NearAt.units (at_ : NearAt) (n : Nat) : List Nat :=
  match at_ with
  | .spad _ o => (List.range ((o + n - 1) / 4 + 1 - o / 4)).map (o / 4 + ·)
  | .column _ o => (List.range ((o + n - 1) / 32 + 1 - o / 32)).map (o / 32 + ·)

/-- A protected unit at this place is in error (R146). -/
def State.nearBad (s : State) (at_ : NearAt) (u : Nat) : Bool :=
  match at_ with
  | .spad t _ => (s.team t).spadBad.contains u
  | .column c _ => (s.core c).colBad.contains u

/-- Some byte of the range lies in a unit in error. -/
def State.nearPoisoned (s : State) (at_ : NearAt) (n : Nat) : Bool := (at_.units n).any (s.nearBad at_)

/-- The errors of the units are cleared (R146). -/
def State.nearClear (s : State) (at_ : NearAt) (us : List Nat) : State :=
  match at_ with
  | .spad t _ => s.modTeam t fun x => if x.spadBad.isEmpty then x else { x with spadBad := x.spadBad.filter (!us.contains ·) }
  | .column c _ => s.modCore c fun x => if x.colBad.isEmpty then x else { x with colBad := x.colBad.filter (!us.contains ·) }

/-- The bytes of a unit at this place, as places. -/
def NearAt.unitBytes (at_ : NearAt) (u : Nat) : List NearAt :=
  match at_ with
  | .spad t _ => (List.range 4).map fun i => .spad t (4 * u + i)
  | .column c _ => (List.range 32).map fun i => .column c (32 * u + i)

/-- The place `i` bytes on. -/
def NearAt.plus (at_ : NearAt) (i : Nat) : NearAt := match at_ with
  | .spad t o => .spad t (o + i)
  | .column c o => .column c (o + i)

/-- The column is in a refresh window that a column access waits for (R148). -/
def State.nearStalled (s : State) (at_ : NearAt) : Bool := match at_ with
  | .column c _ => (s.pair c).refresh
  | .spad _ _ => false

-- ## Per-lane checks (R150)

/-- Where a lane's address leads, before errors are looked at: ALIGN, then NEAR_RANGE. -/
def View.nearLane (v : View) (a : Word) (n : Nat) : Except (Nat × Cause) NearAt :=
  if a.toNat % n ≠ 0 then .error (1, .align)
  else match v.s.nearDecode v.k.tkey v.g.mode a.toNat n with
    | some x => .ok x
    | none => .error (2, .nearRange)

/-- The lanes of exec whose addresses lead somewhere. -/
def View.nearPlaces (v : View) (addr : Lanes Word) (n : Nat) : List (Fin 32 × NearAt) :=
  (maskLanes v.ex).filterMap fun L => match v.nearLane addr[L] n with
    | .ok x => some (L, x)
    | .error _ => none

/-- The lanes that fault, a test telling which places meet an error. -/
def View.nearFaults (v : View) (addr : Lanes Word) (n : Nat) (bad : NearAt → Bool) : List LaneFault :=
  (maskLanes v.ex).filterMap fun L => match v.nearLane addr[L] n with
    | .error e => some ⟨L, e.1, e.2, addr[L].setWidth 64⟩
    | .ok x => if bad x then some ⟨L, 3, .poison, addr[L].setWidth 64⟩ else none

/-- A near instruction: the lanes that pass take effect, the others fault (R150); a column access waits for the end of a refresh window
(R148). -/
def View.nearAccess (v : View) (addr : Lanes Word) (n : Nat) (bad : NearAt → Bool) (effect : List (Fin 32 × NearAt) → State) : Res :=
  let places := v.nearPlaces addr n
  let faults := v.nearFaults addr n bad
  let ok := places.filter fun p => !bad p.2
  if ok.any fun p => v.s.nearStalled p.2 then .hold [⟨.refreshWindowEnd, { core := v.core }⟩]
  else laneOutcome faults true (effect ok)

-- ## LDN and STN (R151)

/-- LDN (R151), after the fences that hold a read (R145, R233). -/
def execLdn (p : Pfx) (d a : Reg) (z : BitVec 2) (s : State) : Host.Outcome State Fault Refusal :=
  let n := accessBytes p z
  issue (fun _ => { pfx := p, names := a.toNat :: dataRegs d.toNat n, reads := [a.toNat] }) (fun v => v.fenced .read fun v =>
    v.nearAccess (v.naddr a.toNat p) n (fun x => v.s.nearPoisoned x n) fun ok =>
      let bs : Lanes (List Byte) := lanesOf fun L => match ok.find? fun q => q.1 == L with
        | some (_, x) => v.s.nearRead x n
        | none => []
      v.writeLoaded v.s d.toNat n (lanesMask (ok.map (·.1))) 0#32 bs) s

/-- The units that the lanes of one STN overwrite as a whole (R146). -/
def wholeUnits (places : List NearAt) (n : Nat) (x : NearAt) : List Nat :=
  (x.units n).filter fun u => (x.unitBytes u).all fun b => places.any fun y => (List.range n).any fun i => y.plus i == b

/-- STN (R151): where lanes write the same byte, the highest lane's value remains (R145); a whole overwritten unit loses its error, and a
part of one in error faults (R146). The fences that hold a write come first (R145, R233). -/
def execStn (p : Pfx) (d a : Reg) (z : BitVec 2) (s : State) : Host.Outcome State Fault Refusal :=
  let n := accessBytes p z
  issue (fun _ =>
    { pfx := p, names := a.toNat :: dataRegs d.toNat n, reads := a.toNat :: dataRegs d.toNat n }) (fun v => v.fenced .write fun v =>
    let places := (v.nearPlaces (v.naddr a.toNat p) n).map (·.2)
    let bad := fun x => v.s.nearPoisoned x n && ((x.units n).filter fun u => v.s.nearBad x u).any fun u => !(wholeUnits places n x).contains u
    v.nearAccess (v.naddr a.toNat p) n bad fun ok =>
      ok.foldl (fun s q =>
        let s1 := s.nearWrite q.2 (v.dataBytes d.toNat n q.1) (some v.k)
        if v.s.nearPoisoned q.2 n then s1.nearClear q.2 (wholeUnits places n q.2) else s1) v.s) s

-- ## Atomics (R152, R153)

/-- Near atomics of a group's lanes in ascending order: each lane's old value, and the state. -/
def State.nearAtomics (s : State) (k : GKey) (ok : List (Fin 32 × NearAt)) (n : Nat) (f : Fin 32 → DWord → Option DWord) :
    State × KMap (Fin 32) DWord :=
  ok.foldl (fun acc q =>
    let old := BitVec.ofNat 64 (ofBytes (acc.1.nearRead q.2 n))
    let s' := match f q.1 old with
      | some x => acc.1.nearWrite q.2 (bytesOf n x.toNat) (some k)
      | none => acc.1
    (s', acc.2 ++ [(q.1, old)])) (s, [])

/-- An ATN or CASN: `reads` are the sources besides the address, `n` the bytes, `ret` whether D receives the old value. -/
def nearAtomic (p : Pfx) (d a : Reg) (n : Nat) (sources : List Nat) (ret : Bool) (f : View → Fin 32 → DWord → Option DWord) (s : State) :
    Host.Outcome State Fault Refusal :=
  issue (fun _ =>
    { pfx := p
      names := a.toNat :: (sources ++ if ret then dataRegs d.toNat n else [])
      reads := a.toNat :: sources }) (fun v => v.fenced .write fun v =>
    v.nearAccess (v.naddr a.toNat p) n (fun x => v.s.nearPoisoned x n) fun ok =>
      let r := v.s.nearAtomics v.k ok n (f v)
      let mask := lanesMask (ok.map (·.1))
      let old : Lanes DWord := lanesOf fun L => (kfind r.2 L).getD 0#64
      if ret then
        let s1 := v.wrLater r.1 d.toNat mask (lanesOf fun L => loWord old[L])
        if n = 8 then v.wrLater s1 (d.toNat + 1) mask (lanesOf fun L => hiWord old[L]) else s1
      else r.1) s

/-- An ATN of an operation (R152). -/
def atn (p : Pfx) (d a : Reg) (b : BitVec 4) (f : Bool → DWord → DWord → DWord) (s : State) : Host.Outcome State Fault Refusal :=
  nearAtomic p d a (if wideOp p then 8 else 4) (wordOrPair (wideOp p) b.toNat) (!noReturn p) (fun v L o =>
    some (f (wideOp p) o (v.operand (wideOp p) b.toNat)[L])) s

def execAtnAdd (p : Pfx) (d a : Reg) (b : BitVec 4) (s : State) : Host.Outcome State Fault Refusal := atn p d a b atomAdd s
def execAtnMin (p : Pfx) (d a : Reg) (b : BitVec 4) (s : State) : Host.Outcome State Fault Refusal := atn p d a b atomMin s
def execAtnMax (p : Pfx) (d a : Reg) (b : BitVec 4) (s : State) : Host.Outcome State Fault Refusal := atn p d a b atomMax s
def execAtnMinu (p : Pfx) (d a : Reg) (b : BitVec 4) (s : State) : Host.Outcome State Fault Refusal := atn p d a b atomMinu s
def execAtnMaxu (p : Pfx) (d a : Reg) (b : BitVec 4) (s : State) : Host.Outcome State Fault Refusal := atn p d a b atomMaxu s
def execAtnAnd (p : Pfx) (d a : Reg) (b : BitVec 4) (s : State) : Host.Outcome State Fault Refusal := atn p d a b atomAnd s
def execAtnOr (p : Pfx) (d a : Reg) (b : BitVec 4) (s : State) : Host.Outcome State Fault Refusal := atn p d a b atomOr s
def execAtnXch (p : Pfx) (d a : Reg) (b : BitVec 4) (s : State) : Host.Outcome State Fault Refusal := atn p d a b atomXch s

/-- CASN (R153): D is the expected value, B the new one. -/
def execCasn (d a b : Reg) (s : State) : Host.Outcome State Fault Refusal :=
  nearAtomic none d a 4 [d.toNat, b.toNat] true (fun v L o =>
    if loWord o = (v.rd d.toNat)[L] then some ((v.rd b.toNat)[L].setWidth 64) else none) s

-- ## Ring-rotate (R154, R155)

/-- Answers a pending result in every lane that waits for it. -/
def State.answerAll (s : State) (k : GKey) (token : Nat) (x : Word) : State :=
  s.modGroup k fun g => g.answer token 0xFFFFFFFF#32 (uniformLanes x)

/-- The faults of RROT, in the order of R154: the cause, the address and whether it is one. -/
def rrotFault (src dst len : Word) (spBytes : Nat) : Option (Cause × Option Word) :=
  if src.toNat % 128 ≠ 0 then some (.align, some src)
  else if dst.toNat % 128 ≠ 0 then some (.align, some dst)
  else if len.toNat % 128 ≠ 0 then some (.align, none)
  else if len = 0#32 || decide (65536 < len.toNat) then some (.nearRange, none)
  else if src.getLsbD 31 || decide (spBytes < src.toNat + len.toNat) then some (.nearRange, some src)
  else if dst.getLsbD 31 || decide (spBytes < dst.toNat + len.toNat) then some (.nearRange, some dst)
  else none

/-- An issue-time fault of every lane, with a near address as fault address when there is one (R332). -/
def View.nearWhole (v : View) (c : Cause) (a : Option Word) : Res :=
  .trap { cause := c, lanes := v.ex, addr := (a.getD 0#32).setWidth 64, detail := if a.isSome then 1 else 0 } v.s

/-- RROT (R154). A cluster of one team completes the step at once (R155). -/
def execRrot (d a b : Reg) (s : State) : Host.Outcome State Fault Refusal :=
  issue (fun _ =>
    { names := d.toNat :: b.toNat :: pairRegs a.toNat, reads := b.toNat :: pairRegs a.toNat, oneBeat := true }) (fun v =>
    let src := (v.rd a.toNat)[v.f]
    let dst := (v.rd (a.toNat + 1))[v.f]
    let len := (v.rd b.toNat)[v.f]
    match rrotFault src dst len v.team.spBytes with
    | some (c, x) => v.nearWhole c x
    | none => v.fenced .async fun v =>
      let st : RingStep := ⟨v.k.tkey, v.team.ringN, src.toNat, dst.toNat, len.toNat, v.k, v.s.fresh, none⟩
      let s1 : State := { v.s with fresh := v.s.fresh + 1, rings := v.s.rings ++ [st] }
      let s2 := v.wrAwait (s1.modTeam v.k.tkey fun x => { x with ringN := x.ringN + 1#32 }) d.toNat v.ex v.s.fresh
      if (v.s.record v.k.tkey).clusterSize = 1 then
        .ok (s2.sooner [⟨.ringStepStart, { key := v.k, n := v.team.ringN.toNat }⟩, ⟨.ringStepComplete, { key := v.k, n := v.team.ringN.toNat }⟩])
      else .ok s2) s

/-- The issued step of a number of each rank of a cluster, in rank order. -/
def State.ringSteps (s : State) (t : TKey) (n : Nat) : List (Option RingStep) :=
  (s.clusterTeams t).map fun u => s.rings.find? fun r => r.team = u && r.step.toNat = n

/-- RING_STEP_START (R155): step `n` of the cluster of `key`'s team starts once every rank has issued it; every rank's source is read. -/
def execRingStepStart (s : State) : Host.Outcome State Fault Refusal :=
  let t := s.ev.key.tkey
  if ((s.ringSteps t s.ev.n).all (·.isSome)) && (s.clusterTeams t).all s.isResident then
    let ts := s.clusterTeams t
    .next { s with rings := s.rings.map fun r =>
      if ts.contains r.team && r.step.toNat = s.ev.n && r.sent.isNone then
        { r with sent := some (s.nearRead (.spad r.team r.src) r.len,
          (s.team r.team).spadBad.filterMap fun u => if r.src ≤ 4 * u && 4 * u < r.src + r.len then some (u - r.src / 4) else none) }
      else r }
  else .next s

/-- A rank of the cluster has retired before issuing step `n` (R155). -/
def State.ringBroken (s : State) (t : TKey) (n : Nat) : Bool :=
  (s.clusterTeams t).any fun u => match kfind s.teams u with
    | some x => x.gone && decide (x.ringN.toNat ≤ n)
    | none => s.hasEnded u && decide (((kfind (s.grid u.slot).ringEnd u.team).getD 0#32).toNat ≤ n)

/-- The bytes of one rank go to the next rank's destination, with their errors (R155; log 27). -/
def State.ringMove (s : State) (src dst : RingStep) : State :=
  match src.sent with
  | none => s
  | some (bs, bad) =>
    let n := min src.len dst.len
    let s1 := s.nearWrite (.spad dst.team dst.dst) (bs.take n)
    s1.modTeam dst.team fun x => if x.spadBad.isEmpty && bad.isEmpty then x else
      { x with spadBad := (x.spadBad.filter fun u => !(dst.dst ≤ 4 * u && 4 * u < dst.dst + n)) ++
          (bad.filter fun u => decide (4 * u < n)).map (· + dst.dst / 4) }

/-- RING_STEP_COMPLETE (R155): step `n` of the cluster of `key`'s team: every rank's destination is written and its status is given; or,
when a rank's team has ended before it issued the step, the status is 2 and nothing is written. The step is a release by the sender and
an acquire by the receiver at deck scope, and waits for a directory under rebuild (R243). -/
def execRingStepComplete (s : State) : Host.Outcome State Fault Refusal :=
  let t := s.ev.key.tkey
  let steps := s.ringSteps t s.ev.n
  let here := steps.filterMap id
  let finish := fun (s : State) (code : Word) =>
    let s1 : State := { s with rings := s.rings.filter fun r => !here.contains r }
    let s2 := here.foldl (fun s r => s.answerAll r.key r.token code) s1
    (s.clusterTeams t).foldl (fun s u => s.endTeamIfDone u) s2
  if !steps.isEmpty && here.length = steps.length && here.all (·.sent.isSome) && (s.clusterTeams t).all s.isResident then
    if here.any fun r => s.releaseBusy (s.team r.team).core 3 then .next s else
    let s1 := here.foldl (fun s r => s.release (s.team r.team).core 3) s
    let s2 := (here.zip (here.tail ++ here.take 1)).foldl (fun s p => s.ringMove p.1 p.2) s1
    .next (finish s2 (if here.all fun r => here.all fun q => r.len = q.len then 0#32 else 1#32))
  else if s.ringBroken t s.ev.n && here.all (fun r => s.isResident r.team) then .next (finish s 2#32)
  else .next s

end Sys2Proof.Machine
end

