-- ==== Sys2Proof/Machine/Tensor.lean ====
section
/-! DEFINITION. Tensor records: their fields, their checks, and the placement and movement of the elements of a tile (R147, R164 to R171). -/

namespace Sys2Proof.Machine

-- ## The record (R164)

/-- A tensor record, field by field. -/
structure Tensor where
  base  : Nat
  ew    : Nat
  ef    : Nat
  ndim  : Nat
  layer : Nat
  peer  : Nat
  scope : Nat
  pol   : Nat
  skw   : Nat
  oobf  : Nat
  exp   : Nat
  mxb   : Nat
  trav  : Nat
  fill  : Nat
  /-- SIZE0 to SIZE5, STR0 (0) to STR5 as their 64 bits, and the extents BOX0 + 1 to BOX5 + 1. -/
  size  : List Nat
  str   : List Nat
  box   : List Nat
  sc    : Nat
  zp    : Nat
deriving DecidableEq, Repr

/-- The fields of a record (R164). -/
def Tensor.ofRecord (r : BitVec 1024) : Tensor :=
  let x := r.toNat
  { base := natBits x 63 0, ew := natBits x 67 64, ef := natBits x 71 68, ndim := natBits x 74 72, layer := natBits x 77 76
    peer := natBits x 88 80, scope := natBits x 94 92, pol := natBits x 97 96, skw := natBits x 99 98, oobf := natBits x 101 100
    exp := natBits x 103 102, mxb := natBits x 105 104, trav := natBits x 108 106, fill := natBits x 159 128
    size := (List.range 6).map fun i => natBits x (223 + 32 * i) (192 + 32 * i)
    str := 0 :: (List.range 5).map fun i => natBits x (447 + 64 * i) (384 + 64 * i)
    box := (List.range 6).map fun i => natBits x (713 + 10 * i) (704 + 10 * i) + 1
    sc := natBits x 831 768, zp := natBits x 895 832 }

/-- The element width w in bits (R164). -/
def Tensor.w (t : Tensor) : Nat := match t.ew with
  | 0 => 4 | 1 => 6 | 2 => 8 | 3 => 16 | 4 => 32 | _ => 64
/-- The width w′ in the scratchpad image (R165). -/
def Tensor.w' (t : Tensor) : Nat := if t.exp = 0 then t.w else 16
/-- ROWB (R165). -/
def Tensor.rowB (t : Tensor) : Nat := t.box.headD 1 * t.w' / 8
/-- Rows of the tile (R165). -/
def Tensor.rows (t : Tensor) : Nat := t.box.tail.foldl (· * ·) 1
/-- Bytes of the tile (R165). -/
def Tensor.tileBytes (t : Tensor) : Nat := t.rowB * t.rows
/-- The block size along dimension 0 (R164). -/
def Tensor.block (t : Tensor) : Nat := 16 * 2 ^ t.mxb
/-- The skew in bytes per row (R164). -/
def Tensor.skew (t : Tensor) : Nat := match t.skw with
  | 0 => 0 | 1 => 4 | 2 => 8 | _ => 16

/-- The reserved bits of a record (R164). -/
def recordReserved (x : Nat) : Bool :=
  natBits x 1023 896 ≠ 0 || natBits x 767 764 ≠ 0 || natBits x 191 160 ≠ 0 || natBits x 127 109 ≠ 0 || natBits x 95 95 ≠ 0 ||
    natBits x 91 89 ≠ 0 || natBits x 79 78 ≠ 0 || natBits x 75 75 ≠ 0

/-- The checks of R166: the status code, 0 for a record that passes. -/
def recordStatus (r : BitVec 1024) (joined : Bool) : Nat :=
  let t := Tensor.ofRecord r
  let unused := (List.range 6).drop t.ndim
  if recordReserved r.toNat || t.str.any (fun x => decide (2 ^ 48 ≤ x)) ||
      unused.any (fun i => t.size.getD i 0 ≠ 0 || t.str.getD i 0 ≠ 0 || t.box.getD i 1 ≠ 1) then 0x01
  else if t.ndim = 0 || decide (6 < t.ndim) then 0x02
  else if decide (5 < t.ew) || (decide (12 ≤ t.ef) && t.ef ≠ 15) || t.exp = 3 || t.scope = 7 ||
      (decide (t.ef ≤ 11) && codeBits t.ef ≠ t.w) || (decide (4 ≤ t.ew) && t.ef ≠ 15) ||
      (t.layer = 3 && (t.exp ≠ 0 || !joined)) || (t.exp = 1 && !(t.ew = 0 && t.ef = 6 && t.layer = 2)) ||
      (t.exp = 2 && !(t.ew = 0 && t.ef = 11)) || (t.oobf = 2 && decide (t.ew ≤ 1)) || (t.peer ≠ 0 && t.layer ≠ 3) ||
      (t.mxb ≠ 0 && t.exp = 0) then 0x03
  else if t.base % 32 ≠ 0 || (t.str.take t.ndim).any (fun x => x % 32 ≠ 0) ||
      (if t.exp = 0 then t.sc ≠ 0 else t.sc % 32 ≠ 0) || (if t.exp = 2 then t.zp % 32 ≠ 0 else t.zp ≠ 0) ||
      (t.size.take t.ndim).any (fun x => x = 0) || t.size.headD 0 * t.w % 8 ≠ 0 || (t.w = 6 && t.size.headD 0 % 16 ≠ 0) ||
      t.box.headD 1 * t.w' % 128 ≠ 0 || decide (65536 < t.tileBytes) then 0x04
  else 0

-- ## Handles (R167)

/-- A handle slot; one that no TREC has loaded has generation 0 (R167). -/
def Team.slotOf (x : Team) (n : Nat) : HandleSlot := (kfind x.handles n).getD {}

/-- A handle names its slot with the slot's generation (R167). -/
def Team.handleValid (x : Team) (h : Word) : Bool :=
  h.getLsbD 31 && natBits h.toNat 30 16 == 0 && natBits h.toNat 7 4 == 0 && (x.slotOf (natBits h.toNat 3 0)).gen.toNat == natBits h.toNat 15 8

/-- The record that a valid handle names; that of an empty slot is all zeros (DESIGN CHOICE, log 71). -/
def Team.handleRecord (x : Team) (h : Word) : BitVec 1024 := ((x.slotOf (natBits h.toNat 3 0)).tr).getD 0

-- ## Bytes of the layers (R164, R170)

def stNonres : Nat := 2
def stPoison : Nat := 4
def stFault : Nat := 8
def stFabric : Nat := 16

/-- Who copies: the core, the team, the space that translates, the policy of its global accesses, and what it has of a peer: whether the team may
reach it and the step has, its number, the window of its heap that the step has brought (its base and bytes), and the answers for chunks of 16
bytes that the peer has refused, each by an offset in the chunk. -/
structure Mover where
  core  : Nat
  team  : TKey
  space : Space
  pol   : Nat := 0
  reach : Bool := false
  dest  : Nat := 0
  peer  : Nat × List Byte := (0, [])
  answers : List RAnswer := []
  /-- For a matrix operation, its number and what it may have seen before (R201). -/
  old   : Option (Nat × Sight) := none
deriving DecidableEq, Repr

/-- Memory as a queued operation finds it (R201). -/
def State.sight (s : State) (t : TKey) (core : Nat) : Sight :=
  let x := s.team t
  let c := s.core core
  ⟨s.mem, s.writes, s.poisoned, s.lost, s.keyGen, s.lineKeys, x.spad, x.spadBad, c.column, c.colBad⟩

/-- The state with the memory of a sight. -/
def State.asSeen (s : State) (o : Sight) (t : TKey) (core : Nat) : State :=
  State.modCore (State.modTeam
      { s with mem := o.mem, writes := o.writes, poisoned := o.poisoned, lost := o.lost, keyGen := o.keyGen, lineKeys := o.lineKeys }
      t fun x => { x with spad := o.spad, spadBad := o.spadBad })
    core fun c => { c with column := o.column, colBad := o.colBad }

/-- Reads bytes from a place on, each 4-byte word as it was or as it is (R201). -/
def Mover.mix (mv : Mover) (s : State) (place : Nat) (read : State → List (Byte × Nat)) : List (Byte × Nat) :=
  match mv.old with
  | none => read s
  | some (id, o) =>
    ((read (s.asSeen o mv.team mv.core)).zip (read s)).zipIdx.map fun x => if Config.sees id ((place + x.2) / 4) then x.1.1 else x.1.2

/-- A sight of a team on a core in which one byte that a member has written without a FENCE.ASYNC since is as it was before; the note of a byte
over which another agent has written since is gone, so such a byte stays (R201). -/
def Sight.undoByte (t : TKey) (core : Nat) (o : Sight) (x : OwnNote) : Sight := match x.place with
  | .mem pa => { o with writes := o.writes ++ [⟨0, core, pa, [x.old], 7, 7, 0⟩] }
  | .spad u off => if u = t then { o with spad := cellWrite o.spad off [x.old] } else o
  | .column c off => if c = core then { o with column := cellWrite o.column off [x.old] } else o

/-- A sight without what the members of an operation have written since their last FENCE.ASYNC (R201). -/
def Sight.undo (t : TKey) (core : Nat) (notes : List OwnNote) (o : Sight) : Sight := notes.foldl (Sight.undoByte t core) o

/-- What the peer has answered for the chunk of an offset. -/
def Mover.answerAt (mv : Mover) (a : Nat) : Option RAnswer := mv.answers.find? fun r => r.value.toNat / 16 == a / 16

/-- The status of a copy's access to a heap that fails for a reason of R306: FABRIC, and the status that R170 gives the condition (DEDUCED,
log 45). -/
def reasonStatus (reason : Nat) : Nat :=
  stFabric + (match reason with
    | 4 | 5 => stFault
    | 6 => stNonres
    | 7 => stPoison
    | _ => 0)

/-- The chunks of at most 16 bytes, aligned to 16, of a range: address and length. No chunk crosses a page, a line, or a burst. -/
def chunksOf (a n : Nat) : List (Nat × Nat) :=
  ((List.range ((a + n + 15) / 16 - a / 16)).map fun i =>
    let lo := max a (16 * (a / 16 + i))
    (lo, min (a + n) (16 * (a / 16 + i + 1)) - lo)).filter fun c => c.2 ≠ 0

/-- Bytes that are not delivered: zeros, with a status (R170). -/
def failedBytes (n st : Nat) : List (Byte × Nat) := List.replicate n (0#8, st)

/-- Reads a near range with the status of each byte: those of a unit in error are not delivered (R146, R170). -/
def State.nearMarked (s : State) (at_ : NearAt) (n : Nat) : List (Byte × Nat) :=
  if s.nearPoisoned at_ n then
    ((s.nearRead at_ n).zipIdx).map fun p => if s.nearPoisoned (at_.plus p.2) 1 then (0#8, stPoison) else (p.1, 0)
  else (s.nearRead at_ n).map fun b => (b, 0)

/-- Where the first byte of a list that carries a status stands. -/
def firstMarked (bs : List (Byte × Nat)) : Nat := (bs.takeWhile fun b => b.2 = 0).length

/-- The status of an access that translation refuses, and of one that succeeds in the other kind of memory (R170). -/
def Xlat.status (layer : Nat) : Xlat → Nat
  | .ok f => if isHost f.pa == (layer == 1) then 0 else stFault
  | .absent _ => stNonres
  | .bad _ .poison => stPoison
  | .bad _ _ => stFault

/-- The translation of a copy's address (R169, R170). -/
def State.copyXlat (s : State) (mv : Mover) (a : Nat) (need : Need) : Xlat :=
  if 2 ^ 57 ≤ a % 2 ^ 64 then .bad 1 .pageInvalid else s.translate mv.core mv.space (a % 2 ^ 64) need true

/-- A team, resident or saved: a saved one keeps its column allotment (R143, R156). -/
def State.teamAnywhere (s : State) (t : TKey) : Team :=
  match kfind s.teams t with
  | some x => x
  | none => ((s.saved.find? (·.team = t)).map (·.keep)).getD {}

/-- An offset of the team's column allotment (R164). -/
def State.columnAt (s : State) (t : TKey) (o n : Nat) : Option NearAt :=
  let x := s.teamAnywhere t
  if o + n ≤ x.colUnits * 65536 then some (.column x.core (x.colUnit * 65536 + o)) else none

/-- Reads bytes of a frame. -/
def State.frameBytes (core : Nat) (f : Frame) (n : Nat) (s : State) : List (Byte × Nat) :=
  if s.isPoisoned f.pa then failedBytes n stPoison else (s.loadBytes core f n).map fun b => (b, 0)

/-- Reads at most 16 bytes within a chunk of a layer, with the status of each byte (R170). -/
def State.readChunk (s : State) (mv : Mover) (layer a n : Nat) : List (Byte × Nat) :=
  match layer with
  | 0 | 1 =>
    match s.copyXlat mv a .read with
    | .ok f =>
      if isHost f.pa != (layer == 1) then failedBytes n stFault else mv.mix s f.pa (State.frameBytes mv.core f n)
    | x => failedBytes n (x.status layer)
  | 2 =>
    match s.columnAt mv.team a n with
    | none => failedBytes n stFault
    | some at_ => mv.mix s (columnPlace + a) fun s => s.nearMarked at_ n
  | _ =>
    if !mv.reach then failedBytes n stFabric
    else if mv.dest = s.selfNum then match s.resolve (s.team mv.team).tdom.toNat mv.dest a n .read with
      | .ok f => mv.mix s f.pa fun s => (s.rmwRead f n).map fun b => (b, 0)
      | .absent _ _ => failedBytes n stNonres
      | .fail r => failedBytes n (reasonStatus r)
    else match mv.answerAt a with
      | some r => failedBytes n (if r.absent then stNonres else reasonStatus (r.fail.getD 9))
      | none =>
        if mv.peer.1 ≤ a && decide (a + n ≤ mv.peer.1 + mv.peer.2.length) then ((mv.peer.2.drop (a - mv.peer.1)).take n).map fun b => (b, 0)
        else failedBytes n stFabric

/-- A read of a copy or an operation fills the caches of its core with the lines that it reads, and its core sees from then on what it has read at a
home (R164, R215, R219, R235). -/
def State.fillRead (s : State) (mv : Mover) (host : Bool) (a n : Nat) : State := match s.copyXlat mv a .read with
  | .ok f => if isHost f.pa != host || s.isPoisoned f.pa then s else s.loaded mv.core f n mv.pol
  | _ => s

/-- The lines of the ranges that a copy or an operation reads from a layer are cached (R164, R206, R215, R235). -/
def State.fillReads (s : State) (mv : Mover) (layer : Nat) (ranges : List (Nat × Nat)) : State :=
  if 2 ≤ layer then s else (ranges.flatMap fun x => chunksOf x.1 x.2).eraseDups.foldl (fun s c => s.fillRead mv (layer == 1) c.1 c.2) s

/-- Some access of a copy or an operation to the ranges of a layer needs an answer from a directory under rebuild (R243). -/
def State.asksRange (s : State) (mv : Mover) (layer scope : Nat) (write : Bool) (ranges : List (Nat × Nat)) : Bool :=
  !s.rebuild.isEmpty && decide (layer < 2) && (ranges.flatMap fun x => chunksOf x.1 x.2).any fun c =>
    match s.copyXlat mv c.1 (if write then .write else .read) with
    | .ok f => if write then s.dirBusy mv.core scope || (f.atHome && s.dirBusy mv.core 6) ||
          s.farBusy mv.core (if f.atHome then 6 else scope) (s.inStack (copyBase f.pa)) else s.mustAsk mv.core scope f
    | _ => false

/-- Reads a range of a layer. -/
def State.readLayer (s : State) (mv : Mover) (layer a n : Nat) : List (Byte × Nat) :=
  (chunksOf a n).flatMap fun c => s.readChunk mv layer c.1 c.2

/-- Performs a write of a copy at a scope, with the policy of its record (R164, R175). -/
def State.copyStore (s : State) (core scope pol : Nat) (f : Frame) (bs : List Byte) : State :=
  let id := s.nextWrite
  let s1 := s.storeBytes core scope none f bs pol
  if f.atHome then s1 else s1.widen id (max 1 scope)

/-- Writes a chunk of the own heap that the record of a copy names as a peer's (R300, R311). -/
def State.heapChunk (s : State) (mv : Mover) (a : Nat) (bs : List Byte) (bad : Bool) : State × Nat :=
  match s.resolve (s.team mv.team).tdom.toNat mv.dest a bs.length .write with
  | .ok f => (let s1 := s.peerWrite f bs; if bad then (s1.poisonLine (lineOf f.pa)).healthRecord 2 f.pa mv.core else s1, 0)
  | .absent _ _ => (s, reasonStatus 6)
  | .fail r => (s, reasonStatus r)

/-- Writes at most 16 bytes within a chunk of a layer; bytes that come from an error make the destination poisoned (R170). The status is that of the
destination alone. A column burst that is in error counts as a line in state P does: the bytes are not written and the burst stays in error (DESIGN
CHOICE, log 28). -/
def State.writeChunk (s : State) (mv : Mover) (layer scope a : Nat) (bs : List Byte) (bad : Bool) : State × Nat :=
  match layer with
  | 0 | 1 =>
    match s.copyXlat mv a .write with
    | .ok f =>
      if isHost f.pa != (layer == 1) then (s, stFault)
      else if s.isPoisoned f.pa then (s, stPoison)
      else if bad then ((s.copyStore mv.core scope mv.pol f bs).poisonLine (lineOf f.pa) |>.healthRecord 2 f.pa mv.core, 0)
      else (s.copyStore mv.core scope mv.pol f bs, 0)
    | x => (s, x.status layer)
  | 2 =>
    match s.columnAt mv.team a bs.length with
    | none => (s, stFault)
    | some at_ =>
      if s.nearPoisoned at_ bs.length then (s, stPoison)
      else
        let s1 := s.nearWrite at_ bs
        if bad then (s1.modCore (s.teamAnywhere mv.team).core fun c => { c with colBad := c.colBad ++ at_.units bs.length }, 0) else (s1, 0)
  | _ =>
    if !mv.reach then (s, stFabric)
    else if mv.dest = s.selfNum then s.heapChunk mv a bs bad
    else
      (s.sendNow mv.dest (s.team mv.team).tdom.toNat mv.dest a (.write a bs bad),
        ((mv.answerAt a).map fun r => reasonStatus (r.fail.getD 9)).getD 0)

-- ## Elements (R165, R170, R171)

/-- The coordinates j1 to j5 of a row of the tile. -/
def rowIndex : List Nat → Nat → List Nat
  | [], _ => []
  | b :: bs, r => r % b :: rowIndex bs (r / b)

/-- The coordinates x1 to x5 of a row: dimensions at and above NDIM stay 0. -/
def Tensor.rowCoords (t : Tensor) (origin : List Int) (row : Nat) : List Int :=
  ((rowIndex t.box.tail row).zipIdx 1).map fun p => if p.2 < t.ndim then origin.getD p.2 0 + p.1 else 0

/-- A coordinate is within its dimension. -/
def Tensor.within (t : Tensor) (i : Nat) (x : Int) : Bool := decide (t.ndim ≤ i) || (decide (0 ≤ x) && decide (x < t.size.getD i 0))

/-- The row is in bounds. -/
def Tensor.rowWithin (t : Tensor) (xs : List Int) : Bool := (xs.zipIdx 1).all fun p => t.within p.2 p.1

/-- Clamps a coordinate into its dimension (R170). -/
def Tensor.clampAt (t : Tensor) (i : Nat) (x : Int) : Int := if i < t.ndim then max 0 (min x ((t.size.getD i 0 : Int) - 1)) else 0

/-- The byte address of a row's dimension 0 origin (R165), modulo 2^64. -/
def Tensor.rowAddr (t : Tensor) (xs : List Int) : Nat :=
  ((xs.zipIdx 1).foldl (fun (a : Int) p => a + p.1 * (t.str.getD p.2 0 : Int)) t.base).toNat % 2 ^ 64

/-- The index of an element in its scale tensor (R165). -/
def Tensor.scaleIndex (t : Tensor) (x0 : Nat) (xs : List Int) : Nat :=
  let dims := ((t.size.headD 0 + t.block - 1) / t.block) :: t.size.tail
  let coords := (x0 / t.block) :: xs.map Int.toNat
  ((dims.zip coords).take t.ndim).reverse.foldl (fun acc p => acc * p.1 + p.2) 0

/-- The address ranges of the rows of a tile at an origin that lie in the tensor: address and length. -/
def Tensor.rowRanges (t : Tensor) (origin : List Int) : List (Nat × Nat) :=
  let c0 := origin.headD 0
  let lo := (max 0 c0).toNat
  let hi := (max 0 (min (c0 + (t.box.headD 1 : Nat)) (t.size.headD 0 : Int))).toNat
  ((List.range t.rows).filter fun row => t.rowWithin (t.rowCoords origin row) && decide (lo < hi)).map fun row =>
    (t.rowAddr (t.rowCoords origin row) + lo * t.w / 8, ((hi * t.w + 7) / 8 - lo * t.w / 8))

/-- The ranges of elements, scales and zero points that a row from coordinate `lo` to `hi` takes (R165, R170, R171). -/
def Tensor.runRanges (t : Tensor) (lo hi : Nat) (xs : List Int) : List (Nat × Nat) :=
  let i := t.scaleIndex lo xs
  let n := t.scaleIndex hi xs + 1 - i
  (t.rowAddr xs + lo * t.w / 8, ((hi + 1) * t.w + 7) / 8 - lo * t.w / 8) :: (match t.exp with
    | 0 => []
    | 1 => [(t.sc + i, n)]
    | _ => [(t.sc + 2 * i, 2 * n), (t.zp + i, n)])

/-- The address ranges that a read of a tile at an origin takes: those of its rows in the tensor, and with the clamping fill those of the nearest
elements (R165, R170). -/
def Tensor.readRanges (t : Tensor) (origin : List Int) : List (Nat × Nat) :=
  let c0 := origin.headD 0
  let last := c0 + (t.box.headD 1 : Nat) - 1
  ((List.range t.rows).flatMap fun row =>
    let xs := t.rowCoords origin row
    if t.oobf = 3 then t.runRanges (t.clampAt 0 c0).toNat (t.clampAt 0 last).toNat ((xs.zipIdx 1).map fun p => t.clampAt p.2 p.1)
    else if t.rowWithin xs && decide (max 0 c0 ≤ min last ((t.size.headD 0 : Int) - 1)) then
      t.runRanges (max 0 c0).toNat (min last ((t.size.headD 0 : Int) - 1)).toNat xs
    else []).eraseDups

/-- The lines of address ranges. -/
def rangeLines (ranges : List (Nat × Nat)) : List Nat :=
  (ranges.flatMap fun x => (List.range ((x.1 + x.2 + 127) / 128 - x.1 / 128)).map fun i => x.1 / 128 + i).eraseDups

/-- The number and the status of a run of bytes. -/
def gathered (bs : List (Byte × Nat)) : Nat × Nat := (ofBytes (bs.map (·.1)), bs.foldl (fun m b => m ||| b.2) 0)

/-- Expands an MXFP4 element with its scale byte (R147): the BF16 code, its status and flags. -/
def expandMx (e : Nat × Nat) (sc : Nat × Nat) : Nat × Nat :=
  if (sc.2 ||| e.2) &&& (stNonres + stFault) ≠ 0 then (0, sc.2 ||| e.2)
  else if sc.2 ≠ 0 || e.2 ≠ 0 then (0x7FC0, sc.2 ||| e.2)
  else if sc.1 = 255 then (0x7FC0, 0)
  else
    let r := bf16.rne ((fE2m1.decode e.1).scale ((sc.1 : Int) - 127))
    (r.1, 256 * r.2.toNat)

/-- The value of a code 11 element with its scale and zero point, and its flags (R51). Where q = z under a scale that is not zero, the zero is +0 as for
a zero scale (DEDUCED, log 40). -/
def expandInt4 (q sc z : Nat) : Nat × Flags :=
  let x : Int := (q : Int) - z
  match bf16.decode sc with
  | .nan sig => (bf16.canonical, flagIf sig flagNV)
  | .num neg mag exp =>
    if mag = 0 || x = 0 then (bf16.signBit (decide (x < 0)), 0#5) else bf16.rne ((intVal x).mul (.num neg mag exp))
  | v => bf16.rne ((intVal x).mul v)

/-- Reads and expands one element that lies in bounds (R165, R171): its code, and its status with the flags in [12:8]. -/
def State.elementAt (s : State) (mv : Mover) (t : Tensor) (x0 : Nat) (xs : List Int) : Nat × Nat :=
  let a := t.rowAddr xs
  let lo := x0 * t.w / 8
  let hi := (x0 * t.w + t.w + 7) / 8
  let raw := gathered (s.readLayer mv t.layer (a + lo) (hi - lo))
  let e : Nat × Nat := (raw.1 / 2 ^ (x0 * t.w % 8) % 2 ^ t.w, raw.2)
  match t.exp with
  | 0 => (if e.2 = 0 then e.1 else 0, e.2)
  | 1 => expandMx e (gathered (s.readLayer mv t.layer (t.sc + t.scaleIndex x0 xs) 1))
  | _ =>
    let i := t.scaleIndex x0 xs
    let sc := gathered (s.readLayer mv t.layer (t.sc + 2 * i) 2)
    let z := gathered (s.readLayer mv t.layer (t.zp + i) 1)
    let st := e.2 ||| sc.2 ||| z.2
    if st ≠ 0 then (0, st)
    else
      let r := expandInt4 e.1 sc.1 z.1
      (r.1, 256 * r.2.toNat)

/-- The column bytes in error, among the element and scale bytes that an expanding TCOPY reads for a row of EXP = 1, ascending per element (R147). -/
def State.expandErrors (s : State) (mv : Mover) (t : Tensor) (c0 : Int) (n : Nat) (xs : List Int) : List Nat :=
  ((List.range n).flatMap fun i =>
    let inside := t.within 0 (c0 + i) && t.rowWithin xs
    let x0 := (if inside then c0 + i else t.clampAt 0 (c0 + i)).toNat
    let ys := if inside then xs else (xs.zipIdx 1).map fun p => t.clampAt p.2 p.1
    let at_ := [t.rowAddr ys + x0 * t.w / 8, t.sc + t.scaleIndex x0 ys]
    if inside || t.oobf == 3 then at_.filter fun a => (s.readLayer mv t.layer a 1).any fun b => b.2 == stPoison else []).eraseDups

/-- The canonical NaN of a format code in OOBF 1 (R41, R170). -/
def codeNaN (code : Nat) : Nat := match codeFormat code with
  | some F => F.canonical
  | none => 0

/-- The value given to an element out of bounds by fills 0 to 2 (R170). -/
def Tensor.fillValue (t : Tensor) : Nat := match t.oobf with
  | 0 => 0
  | 1 => if t.exp = 0 then codeNaN t.ef else 0x7FC0
  | _ => if t.w' = 64 then t.fill + 2 ^ 32 * t.fill else t.fill % 2 ^ t.w'

/-- The element of the tile at dimension-0 coordinate x0 of a row: read, filled or clamped (R170). -/
def State.tileElement (s : State) (mv : Mover) (t : Tensor) (x0 : Int) (xs : List Int) : Nat × Nat :=
  if t.within 0 x0 && t.rowWithin xs then s.elementAt mv t x0.toNat xs
  else if t.oobf = 3 then
    s.elementAt mv t (t.clampAt 0 x0).toNat ((xs.zipIdx 1).map fun p => t.clampAt p.2 p.1)
  else (t.fillValue, 0)

/-- Elements of an in-bounds part of a row that needs no expansion, read together: codes and statuses. -/
def State.plainRun (s : State) (mv : Mover) (t : Tensor) (x0 n : Nat) (xs : List Int) : List (Nat × Nat) :=
  let lo := x0 * t.w / 8
  let bs := s.readLayer mv t.layer (t.rowAddr xs + lo) ((x0 * t.w + n * t.w + 7) / 8 - lo)
  (List.range n).map fun i =>
    let bit := (x0 + i) * t.w - 8 * lo
    let e := gathered ((bs.drop (bit / 8)).take ((bit % 8 + t.w + 7) / 8))
    (if e.2 = 0 then e.1 / 2 ^ (bit % 8) % 2 ^ t.w else 0, e.2)

/-- The elements of a row from coordinate `c0` on. -/
def State.rowElements (s : State) (mv : Mover) (t : Tensor) (c0 : Int) (n : Nat) (xs : List Int) : List (Nat × Nat) :=
  if t.exp = 0 && t.rowWithin xs && t.within 0 c0 && t.within 0 (c0 + n - 1) then s.plainRun mv t c0.toNat n xs
  else (List.range n).map fun (i : Nat) => s.tileElement mv t (c0 + i) xs

-- ## Rows of the scratchpad image (R165)

/-- Rotates a row by its skew: the byte at unskewed offset q moves to (q + row × k) mod ROWB. -/
def Tensor.skewRow (t : Tensor) (row : Nat) {α : Type} (bs : List α) : List α :=
  let r := row * t.skew % t.rowB
  bs.drop (t.rowB - r) ++ bs.take (t.rowB - r)

/-- Undoes the rotation of a row. -/
def Tensor.unskewRow (t : Tensor) (row : Nat) {α : Type} (bs : List α) : List α :=
  let r := row * t.skew % t.rowB
  bs.drop r ++ bs.take r

/-- The number whose n-bit digits these are, the first lowest. -/
def packBits (n : Nat) : List Nat → Nat
  | [] => 0
  | e :: es => e + 2 ^ n * packBits n es

/-- The bytes of a row of elements. -/
def Tensor.rowBytes (t : Tensor) (es : List Nat) : List Byte := bytesOf t.rowB (packBits t.w' es)

/-- Bytes of a team's scratchpad, with a status for each (R170). -/
def State.spadMarked (team : TKey) (o n : Nat) (s : State) : List (Byte × Nat) :=
  let bs := s.nearRead (.spad team o) n
  let bad := (s.team team).spadBad
  if bad.isEmpty then bs.map fun b => (b, 0)
  else (bs.zipIdx).map fun p => if bad.contains ((o + p.2) / 4) then (0#8, stPoison) else (p.1, 0)

/-- A row of the image in a team's scratchpad, unskewed, with a status for each byte (R165, R170). -/
def State.imageRow (s : State) (mv : Mover) (t : Tensor) (origin row : Nat) : List (Byte × Nat) :=
  let o := origin + row * t.rowB
  t.unskewRow row (mv.mix s (spadPlace + o) (State.spadMarked mv.team o t.rowB))

end Sys2Proof.Machine
end

