-- ==== Sys2Proof/Machine/Tile.lean ====
section
/-! DEFINITION. The tile engine: TREC, the copies, their batches and status, and count barriers (R166 to R183). -/

namespace Sys2Proof.Machine

/-- An issue-time fault of every lane with a global address (R332). -/
def View.faultAt (v : View) (c : Cause) (a : DWord) : Res := .trap { cause := c, lanes := v.ex, addr := a } v.s

/-- The register lies within the group's allocation (R98). -/
def View.inWindow (v : View) (r : Nat) : Bool := decide (v.g.wbasev + r < v.g.wsize)

-- ## TREC (R166, R179)

/-- Ends a TREC with a record read: the status, or the slot loaded and its new handle (R167). -/
def View.loadRecord (v : View) (d slot : Nat) (bs : List Byte) : Res :=
  let r := BitVec.ofNat 1024 (ofBytes bs)
  match recordStatus r (v.s.selfPeer.getLsbD 31) with
  | 0 =>
    let gen := ((kfind v.team.handles slot).map (·.gen)).getD 0#8 + 1#8
    let s1 := v.s.modTeam v.k.tkey fun x => { x with handles := kput x.handles slot ⟨gen, some r⟩ }
    .ok (v.wrLaterAll s1 d (0x80000000#32 ||| (gen.setWidth 32 <<< 8) ||| BitVec.ofNat 32 slot))
  | c => .ok (v.wrLaterAll v.s d (BitVec.ofNat 32 c))

/-- TREC (R179): it reads as a load at core scope does, after the fences that hold one (R233), and fills the caches (R215, R235). -/
def execTrec (d a : Reg) (slot : BitVec 4) (s : State) : Host.Outcome State Fault Refusal :=
  issue (fun _ => { names := d.toNat :: pairRegs a.toNat, reads := pairRegs a.toNat, oneBeat := true }) (fun v => v.fenced .read fun v =>
    let x := (v.rd2 a.toNat)[v.f]
    if x.toNat % 128 ≠ 0 then v.faultAt .align x
    else if natBits x.toNat 63 57 ≠ 0 then v.faultAt .pageInvalid x
    else match v.s.translate v.core v.space x.toNat .read with
      | .bad _ c => v.faultAt c x
      | .absent _ => .ok (v.wrLaterAll v.s d.toNat 0x05#32)
      | .ok f =>
        if v.s.isPoisoned f.pa then v.faultAt .poison x
        else if v.s.mustAsk v.core 1 f then .hold []
        else View.loadRecord { v with s := v.s.loaded v.core f 128 0 } d.toNat slot.toNat (v.s.loadBytes v.core f 128)) s

/-- TREC.N (R179): after the fences that hold a read (R145, R233). -/
def execTrecN (d a : Reg) (slot : BitVec 4) (s : State) : Host.Outcome State Fault Refusal :=
  issue (fun _ => { names := [d.toNat, a.toNat], reads := [a.toNat], oneBeat := true }) (fun v => v.fenced .read fun v =>
    let x := (v.rd a.toNat)[v.f]
    if x.toNat % 128 ≠ 0 then v.nearWhole .align (some x)
    else match v.s.nearDecode v.k.tkey v.g.mode x.toNat 128 with
      | none => v.nearWhole .nearRange (some x)
      | some at_ =>
        if v.s.nearPoisoned at_ 128 then v.nearWhole .poison (some x)
        else if v.s.nearStalled at_ then .hold [⟨.refreshWindowEnd, { core := v.core }⟩]
        else v.loadRecord d.toNat slot.toNat (v.s.nearRead at_ 128)) s

-- ## TCOPY, TSTORE and LCOPY (R168, R180, R181)

/-- Some lane of exec holds no valid handle in the register (R178); a register beyond the allocation is left to WINDOW. -/
def View.badHandle (v : View) (a : Nat) : Bool :=
  v.inWindow a && (maskLanes v.ex).any fun L => !v.team.handleValid (v.rd a)[L]

/-- The tensor that lane f's handle names. -/
def View.tensor (v : View) (a : Nat) : BitVec 1024 := v.team.handleRecord (v.rd a)[v.f]

/-- Puts a copy into the queue, or waits for an entry of the partition's 64 (R168). The copy joins the open batch (R172). -/
def View.queueCopy (v : View) (kind : CopyKind) (bar : Word) : Res :=
  let used := v.s.copies.filter fun c => c.core = v.core && partOf c.key = partOf v.k
  if 64 ≤ used.length then .hold []
  else v.fenced .async fun v =>
    let c : Copy :=
      { id := v.s.fresh, key := v.k, core := v.core, kind := kind, bar := if bar = 0xFFFFFFFF#32 then none else some bar.toNat
        mode := v.g.mode, batch := v.g.tb.committed + 1#32, idx := min v.g.tb.opened 0xFFFF }
    let s1 : State := { v.s with fresh := v.s.fresh + 1, copies := v.s.copies ++ [c] }
    .ok (s1.modGroup v.k fun g => { g with tb := { g.tb with opened := g.tb.opened + 1 } })

/-- The cell operand of a copy is misaligned, or lies beyond the scratchpad (R180). -/
def badCellAlign (bar : Word) : Bool := bar ≠ 0xFFFFFFFF#32 && bar.toNat % 8 ≠ 0
def badCellRange (bar : Word) (sp : Nat) : Bool := bar ≠ 0xFFFFFFFF#32 && (bar.getLsbD 31 || decide (sp < bar.toNat + 8))

/-- TCOPY and TSTORE (R180). An expanding record makes a TSTORE illegal, and a TCOPY check the reserved bits of FMT (R171). -/
def tileCopy (store : Bool) (d a b : Reg) (s : State) : Host.Outcome State Fault Refusal :=
  let coords := (List.range 6).map (b.toNat + ·)
  issue (fun v =>
    { names := a.toNat :: (pairRegs d.toNat ++ coords), reads := a.toNat :: (pairRegs d.toNat ++ coords), unif := [a.toNat], oneBeat := true
      illegal := v.badHandle a.toNat ||
        (v.inWindow a.toNat && (Tensor.ofRecord (v.tensor a.toNat)).exp ≠ 0 && (store || fmtReserved v.p.fmt)) }) (fun v =>
    let r := v.tensor a.toNat
    let t := Tensor.ofRecord r
    let o := (v.rd d.toNat)[v.f]
    let bar := (v.rd (d.toNat + 1))[v.f]
    let origin := coords.map fun i => ((v.rd i)[v.f]).toInt
    let sp := v.team.spBytes
    if o.toNat % 128 ≠ 0 then v.nearWhole .align (some o)
    else if origin.headD 0 * t.w % 128 ≠ 0 then v.nearWhole .align none
    else if badCellAlign bar then v.nearWhole .align (some bar)
    else if o.getLsbD 31 || decide (sp < o.toNat + t.tileBytes) then v.nearWhole .nearRange (some o)
    else if badCellRange bar sp then v.nearWhole .nearRange (some bar)
    else v.queueCopy (.tile store r o.toNat origin) bar) s

def execTcopy (d a b : Reg) (s : State) : Host.Outcome State Fault Refusal := tileCopy false d a b s
def execTstore (d a b : Reg) (s : State) : Host.Outcome State Fault Refusal := tileCopy true d a b s

/-- The forms of a layer address (R181). -/
inductive Layer where
  | global (a : Nat)
  | near (a : Nat)
  | twin (off : Nat)
  | bad
deriving DecidableEq, Repr

/-- Decodes a layer address (R181). -/
def layerOf (x : DWord) : Layer :=
  let n := x.toNat
  if natBits n 63 57 = 0 then .global n
  else if natBits n 63 60 = 8 && natBits n 59 32 = 0 then .near (natBits n 31 0)
  else if natBits n 63 60 = 9 && natBits n 59 22 = 0 then .twin (natBits n 21 0)
  else .bad

/-- A fault that records a layer address (R332): the near form by its near address, others in full. -/
def View.layerFault (v : View) (c : Cause) (x : DWord) : Res :=
  match layerOf x with
  | .near a => v.nearWhole c (some (BitVec.ofNat 32 a))
  | .twin _ => .trap { cause := c, lanes := v.ex, addr := x, detail := 1 } v.s
  | _ => v.faultAt c x

/-- A near layer address whose range near_decode refuses. -/
def View.badNearLayer (v : View) (x : DWord) (n : Nat) : Bool := match layerOf x with
  | .near a => (v.s.nearDecode v.k.tkey v.g.mode a n).isNone
  | _ => false
/-- A layer address in the twin's column. -/
def isTwinLayer (x : DWord) : Bool := match layerOf x with
  | .twin _ => true
  | _ => false

/-- LCOPY (R181). -/
def execLcopy (d a b : Reg) (s : State) : Host.Outcome State Fault Refusal :=
  issue (fun _ =>
    { names := pairRegs d.toNat ++ pairRegs a.toNat ++ pairRegs b.toNat
      reads := pairRegs d.toNat ++ pairRegs a.toNat ++ pairRegs b.toNat, oneBeat := true }) (fun v =>
    let dst := (v.rd2 d.toNat)[v.f]
    let src := (v.rd2 a.toNat)[v.f]
    let len := (v.rd b.toNat)[v.f]
    let bar := (v.rd (b.toNat + 1))[v.f]
    let n := len.toNat
    if layerOf src = .bad then v.faultAt .pageInvalid src
    else if layerOf dst = .bad then v.faultAt .pageInvalid dst
    else if src.toNat % 16 ≠ 0 then v.layerFault .align src
    else if dst.toNat % 16 ≠ 0 then v.layerFault .align dst
    else if n % 16 ≠ 0 then v.nearWhole .align none
    else if badCellAlign bar then v.nearWhole .align (some bar)
    else if n = 0 || decide (16777216 < n) then v.nearWhole .nearRange none
    else if v.badNearLayer src n then v.layerFault .nearRange src
    else if v.badNearLayer dst n then v.layerFault .nearRange dst
    else if isTwinLayer src && isTwinLayer dst then v.layerFault .nearRange src
    else if isTwinLayer src && !v.holdsBeam then v.layerFault .nearRange src
    else if isTwinLayer dst && !v.holdsBeam then v.layerFault .nearRange dst
    else if badCellRange bar v.team.spBytes then v.nearWhole .nearRange (some bar)
    else v.queueCopy (.layer src dst n) bar) s

-- ## Count barriers (R174, R183)

/-- A count barrier cell (R174). -/
structure Cell where
  gen    : Nat
  err    : Bool
  target : Nat
  arrived : Nat
  bytes  : Int
deriving DecidableEq, Repr

/-- The cell in a doubleword. -/
def Cell.ofNat (x : Nat) : Cell := ⟨natBits x 63 56, natBits x 55 55 == 1, natBits x 51 40, natBits x 39 28, signedOf 28 x⟩
/-- The doubleword of a cell. -/
def Cell.toNat (c : Cell) : Nat :=
  2 ^ 56 * (c.gen % 256) + (if c.err then 2 ^ 55 else 0) + 2 ^ 40 * (c.target % 4096) + 2 ^ 28 * (c.arrived % 4096) + (c.bytes % 2 ^ 28).toNat

/-- check_generation (R174). -/
def Cell.check (c : Cell) : Cell :=
  if c.target ≠ 0 && c.arrived = c.target && c.bytes = 0 then { c with gen := (c.gen + 1) % 256, arrived := 0 } else c

/-- Adds to the byte count, or notes that the sum is out of range. -/
def Cell.addBytes (c : Cell) (n : Int) : Cell :=
  if c.bytes + n < -2 ^ 27 || decide (2 ^ 27 - 1 < c.bytes + n) then { c with err := true } else { c with bytes := c.bytes + n }

/-- Generation t is complete (R183). -/
def Cell.passed (c : Cell) (t : Nat) : Bool := decide ((c.gen + 511 - t % 256) % 256 < 128)

/-- The cell at an offset of a team's scratchpad. -/
def State.cellAt (s : State) (t : TKey) (a : Nat) : Cell := Cell.ofNat (ofBytes (s.nearRead (.spad t a) 8))
/-- Writes the cell; bits [54:52] become 0 with a copy's signal too, and a cell whose word is in error is read and written as any other, and keeps the
error mark (DESIGN CHOICE, log 72). -/
def State.setCell (s : State) (t : TKey) (a : Nat) (c : Cell) : State := s.nearWrite (.spad t a) (bytesOf 8 c.check.toNat)

/-- A CBAR function (R183): ALIGN and NEAR_RANGE of the cell address, and then `body` on the address and lane f's D. The fences before it may hold
it (R233). -/
def cbar (kind : MemKind) (reads : List Nat) (d a : Reg) (body : View → Nat → Word → Res) (s : State) : Host.Outcome State Fault Refusal :=
  issue (fun _ => { names := [d.toNat, a.toNat], reads := a.toNat :: reads, oneBeat := true }) (fun v => v.fenced kind fun v =>
    let x := (v.rd a.toNat)[v.f]
    if x.toNat % 8 ≠ 0 then v.nearWhole .align (some x)
    else if x.getLsbD 31 || decide (v.team.spBytes < x.toNat + 8) then v.nearWhole .nearRange (some x)
    else body v x.toNat (v.rd d.toNat)[v.f]) s

/-- CBAR INIT (R183). -/
def execCbarInit (d a : Reg) (s : State) : Host.Outcome State Fault Refusal :=
  cbar .write [d.toNat] d a (fun v x m =>
    let bad := m = 0#32 || decide (4095 < m.toNat)
    .ok (v.s.setCell v.k.tkey x ⟨0, bad, if bad then 0 else m.toNat, 0, 0⟩)) s

/-- CBAR EXPECT (R183). -/
def execCbarExpect (d a : Reg) (s : State) : Host.Outcome State Fault Refusal :=
  cbar .write [d.toNat] d a (fun v x m => .ok (v.s.setCell v.k.tkey x ((v.s.cellAt v.k.tkey x).addBytes m.toInt))) s

/-- CBAR ARRIVE (R175, R183): a release at core scope. -/
def execCbarArrive (d a : Reg) (s : State) : Host.Outcome State Fault Refusal :=
  cbar .write [] d a (fun v x _ =>
    let c := v.s.cellAt v.k.tkey x
    let c' := if c.target = 0 || c.arrived = c.target then { c with err := true } else { c with arrived := c.arrived + 1 }
    .ok (v.wrLaterAll ((v.s.release v.core 1).setCell v.k.tkey x c') d.toNat (BitVec.ofNat 32 c.gen))) s

/-- CBAR WAIT (R183): it does not issue while the generation is incomplete. -/
def execCbarWait (d a : Reg) (s : State) : Host.Outcome State Fault Refusal :=
  cbar .read [d.toNat] d a (fun v x t => if (v.s.cellAt v.k.tkey x).passed t.toNat then .ok v.s else .hold []) s

/-- CBAR TEST (R183). -/
def execCbarTest (d a : Reg) (s : State) : Host.Outcome State Fault Refusal :=
  cbar .read [d.toNat] d a (fun v x t =>
    let c := v.s.cellAt v.k.tkey x
    .ok (v.wrLaterAll v.s d.toNat ((if c.passed t.toNat then 1#32 else 0#32) ||| (if c.err then 2#32 else 0#32)))) s

-- ## Batches (R172, R173, R182)

/-- TCOMMIT (R182). -/
def execTcommit (d : Reg) (s : State) : Host.Outcome State Fault Refusal :=
  issue (fun _ => { names := [d.toNat], oneBeat := true }) (fun v =>
    let n := v.g.tb.committed + 1#32
    .ok (v.wr (v.s.modGroup v.k fun g => { g with tb := { g.tb with committed := n, opened := 0 } }) d.toNat (uniformLanes n))) s

/-- Writes the four words of TWAITB or MWAITB, and clears the accumulator and the record (R173, R200). -/
def View.reportBatch (v : View) (d : Nat) (b : Batch) (clear : Group → Group) : Res :=
  let f := b.fault.getD (0#32, 0#32, 0#32)
  let s1 := v.wrLaterAll (v.s.modGroup v.k clear) d b.status
  let s2 := v.wrLaterAll s1 (d + 1) f.1
  let s3 := v.wrLaterAll s2 (d + 2) f.2.1
  .ok (v.wrLaterAll s3 (d + 3) f.2.2)

/-- A batch with its report taken. -/
def Batch.cleared (b : Batch) : Batch := { b with status := 0#32, fault := none }

/-- Every batch of tile copies numbered `n` or lower is complete (R172, R182). -/
def View.tileBatchDone (v : View) (n : Word) : Bool := batchLe n (batchDone v.g.tb.committed (v.s.copyBatches v.k))

/-- TWAITB, wait form (R182). -/
def execTwaitb (d a : Reg) (s : State) : Host.Outcome State Fault Refusal :=
  issue (fun _ => { names := a.toNat :: dataRegs d.toNat 16, reads := [a.toNat], oneBeat := true }) (fun v =>
    if v.tileBatchDone (v.rd a.toNat)[v.f] then v.reportBatch d.toNat v.g.tb fun g => { g with tb := g.tb.cleared }
    else .hold []) s

/-- TWAITB, test form (R182). -/
def execTwaitbTest (d a : Reg) (s : State) : Host.Outcome State Fault Refusal :=
  issue (fun _ => { names := a.toNat :: dataRegs d.toNat 16, reads := [a.toNat], oneBeat := true }) (fun v =>
    if v.tileBatchDone (v.rd a.toNat)[v.f] then v.reportBatch d.toNat v.g.tb fun g => { g with tb := g.tb.cleared }
    else .ok (v.wrLaterAll v.s d.toNat 0x80000000#32)) s

/-- A completed copy or operation reports a nonzero status to its group: it is ORed in, and recorded when it is lower than the recorded one
or none is (R173). -/
def Batch.report (b : Batch) (st : Nat) (batch : Word) (idx : Nat) (what : Word) : Batch :=
  if st = 0 then b
  else
    let mine : Word × Word × Word := (batch, BitVec.ofNat 32 (min idx 0xFFFF), what)
    let lower := match b.fault with
      | none => true
      | some (b0, i0, _) => if batch = b0 then decide (idx < i0.toNat) else batchLe batch b0
    { b with status := b.status ||| BitVec.ofNat 32 st, fault := if lower then some mine else b.fault }

-- ## The copies at work (R170, R171, R181)

/-- The outcome of a copy so far: the state, the status, and the lowest affected element or byte. -/
structure Progress where
  s   : State
  st  : Nat := 0
  off : Option Nat := none

/-- Notes a status at an element. -/
def Progress.note (p : Progress) (i st : Nat) : Progress :=
  if st = 0 then p
  else { p with st := p.st ||| st, off := match p.off with
    | none => some i
    | some j => some (min i j) }

/-- A team may reach the peer of a record (R298, R300). -/
def State.peerOpen (s : State) (t : TKey) (peer : Nat) : Bool :=
  let x := s.team t
  match kfind s.domains x.tdom.toNat with
  | none => false
  | some e => s.selfPeer.getLsbD 31 && e.valid && x.isSealed == e.isSealed && e.members.contains peer

/-- Requests of the team to a peer can go out: it may reach the peer, and, unless that is the device itself, a plane is up and the stream has numbers
left (R298, R302, R305, R311). -/
def State.peerReach (s : State) (t : TKey) (peer : Nat) : Bool :=
  s.peerOpen t peer && (peer == s.selfNum || (!s.noPlane && !s.usedUp (s.team t).tdom.toNat peer))

/-- What reads or writes the tensor needs the answers of another device. -/
def State.needsPeer (s : State) (t : TKey) (r : Tensor) : Bool := r.layer == 3 && r.peer != s.selfNum && s.peerReach t r.peer

/-- The record of a tile copy. -/
def Copy.record (c : Copy) : Option Tensor := match c.kind with
  | .tile _ r _ _ => some (Tensor.ofRecord r)
  | .layer _ _ _ => none

/-- The mover of a copy in a step whose argument brings what a peer has answered: its heap from offset `m` on is `data`, `ans` lists the chunks that it
has refused, and a flag says that it could not be reached. -/
def State.mover (s : State) (c : Copy) (a : EvArg) : Mover :=
  let t := c.key.tkey
  let mv : Mover := { core := c.core, team := t, space := (s.team t).space c.mode }
  match c.record with
  | some r => { mv with pol := r.pol, reach := !a.flag && s.peerReach t r.peer, dest := r.peer, peer := (a.m, a.data), answers := a.ans }
  | none => mv

/-- Notes the statuses of a row of elements; one that only raised a flag of its expansion counts as affected for FOFF (R173; DESIGN CHOICE, log 94). -/
def Progress.noteRow (p : Progress) (i0 : Nat) (sts : List Nat) : Progress :=
  (sts.zipIdx).foldl (fun (p : Progress) (e : Nat × Nat) => p.note (i0 + e.2) e.1) p

/-- Clears the errors of the words that a whole write covers (R146). -/
def State.rewriteSpad (s : State) (t : TKey) (o : Nat) (bs : List Byte) : State :=
  let s1 := s.nearWrite (.spad t o) bs
  s1.modTeam t fun x => if x.spadBad.isEmpty then x
    else { x with spadBad := x.spadBad.filter fun u => !(o ≤ 4 * u && decide (4 * u + 4 ≤ o + bs.length)) }

/-- TCOPY at work (R165, R170): row after row, every element of the tile goes into the scratchpad; the column port writes a fault record for each scale
or element byte in error (R147, R367). -/
def State.runTcopy (s : State) (mv : Mover) (t : Tensor) (spad : Nat) (origin : List Int) : Progress :=
  let n := t.box.headD 1
  (List.range t.rows).foldl (fun p row =>
    let es := p.s.rowElements mv t (origin.headD 0) n (t.rowCoords origin row)
    let s1 := p.s.rewriteSpad mv.team (spad + row * t.rowB) (t.skewRow row (t.rowBytes (es.map (·.1))))
    let errors := if t.exp = 1 && es.any (fun e => e.2 &&& stPoison ≠ 0) then p.s.expandErrors mv t (origin.headD 0) n (t.rowCoords origin row) else []
    let q : Progress := { p with s := errors.foldl (fun s a => s.healthRecord 5 a mv.core) s1 }
    q.noteRow (row * n) (es.map (·.2))) { s := s }

/-- TSTORE at work (R165, R170): the in-bounds part of each row goes to the tensor. -/
def State.runTstore (s : State) (mv : Mover) (t : Tensor) (spad : Nat) (origin : List Int) : Progress :=
  let c0 := origin.headD 0
  let n := t.box.headD 1
  let lo := (max 0 (-c0)).toNat
  let hi := (max 0 (min (n : Int) ((t.size.headD 0 : Int) - c0))).toNat
  (List.range t.rows).foldl (fun p row =>
    let xs := t.rowCoords origin row
    if !t.rowWithin xs || decide (hi ≤ lo) then p
    else
      let bs := ((p.s.imageRow mv t spad row).drop (lo * t.w / 8)).take ((hi - lo) * t.w / 8)
      let a := t.rowAddr xs + (c0 + lo).toNat * t.w / 8
      (chunksOf a bs.length).foldl (fun p c =>
        let part := (bs.drop (c.1 - a)).take c.2
        let bad := part.any fun b => b.2 ≠ 0
        let r := p.s.writeChunk mv t.layer t.scope c.1 (part.map (·.1)) bad
        let q : Progress := { p with s := r.1 }
        let q := q.note (row * n + lo + (c.1 - a) * 8 / t.w) r.2
        q.note (row * n + lo + (c.1 - a + firstMarked part) * 8 / t.w) (if bad then stPoison else 0)) p) { s := s }

/-- Where the column of the twin's beam team lies, which holds the beam saved as well as resident (R156, R181). -/
def State.twinColumn (s : State) (core : Nat) : Option TKey :=
  if s.twinGated core then none
  else (((s.teams.find? fun t => t.2.core = twinOf core && !t.2.gone && (s.record t.1).beam)).map (·.1)).or
    ((s.saved.find? fun x => x.core = twinOf core && (s.record x.team).beam).map (·.team))

/-- Reads a unit of 16 bytes from a layer address of an LCOPY (R181). -/
def State.readUnit (s : State) (mv : Mover) (mode : Mode) (x : DWord) (i : Nat) : List (Byte × Nat) :=
  match layerOf x with
  | .global a =>
    match s.copyXlat mv (a + i) .read with
    | .ok f => if s.isPoisoned f.pa then failedBytes 16 stPoison else (s.loadBytes mv.core f 16).map fun b => (b, 0)
    | .absent _ => failedBytes 16 stNonres
    | .bad _ .poison => failedBytes 16 stPoison
    | .bad _ _ => failedBytes 16 stFault
  | .near a =>
    match s.nearDecode mv.team mode (a + i) 16 with
    | some at_ => s.nearMarked at_ 16
    | none => failedBytes 16 stFault
  | .twin o =>
    match s.twinColumn mv.core with
    | some t => s.readChunk { mv with team := t } 2 (o + i) 16
    | none => failedBytes 16 stFault
  | .bad => failedBytes 16 stFault

/-- Marks the units of a near range as in error whose bytes come from an error (R170). -/
def State.nearSpoil (s : State) (at_ : NearAt) (bs : List (Byte × Nat)) : State :=
  let us := (bs.zipIdx.filter fun b => b.1.2 &&& stPoison ≠ 0).flatMap fun b => (at_.plus b.2).units 1
  match at_ with
  | .spad t _ => s.modTeam t fun x => { x with spadBad := (x.spadBad ++ us).eraseDups }
  | .column c _ => s.modCore c fun x => { x with colBad := (x.colBad ++ us).eraseDups }

/-- Writes a unit of 16 bytes, each with its status, to a layer address of an LCOPY (R170, R181). The status is that of the
destination alone. -/
def State.writeUnit (s : State) (mv : Mover) (mode : Mode) (x : DWord) (i : Nat) (got : List (Byte × Nat)) : State × Nat :=
  let bs := got.map (·.1)
  let bad := got.any fun b => b.2 &&& stPoison ≠ 0
  match layerOf x with
  | .global a =>
    match s.copyXlat mv (a + i) .write with
    | .ok f => s.writeChunk mv (if isHost f.pa then 1 else 0) 6 (a + i) bs bad
    | .absent _ => (s, stNonres)
    | .bad _ .poison => (s, stPoison)
    | .bad _ _ => (s, stFault)
  | .near a =>
    match s.nearDecode mv.team mode (a + i) 16 with
    | none => (s, stFault)
    | some at_ =>
      match at_ with
      | .spad t o => (if bad then (s.rewriteSpad t o bs).nearSpoil at_ got else s.rewriteSpad t o bs, 0)
      | .column _ _ =>
        if s.nearPoisoned at_ 16 then (s, stPoison)
        else (if bad then (s.nearWrite at_ bs).nearSpoil at_ got else s.nearWrite at_ bs, 0)
  | .twin o =>
    match s.twinColumn mv.core with
    | some t => s.writeChunk { mv with team := t } 2 0 (o + i) bs bad
    | none => (s, stFault)
  | .bad => (s, stFault)

/-- The read of a unit of 16 bytes from a global layer address fills the caches of the core (R181, R215). -/
def State.fillUnit (s : State) (mv : Mover) (x : DWord) (i : Nat) : State := match layerOf x with
  | .global a => match s.copyXlat mv (a + i) .read with
    | .ok f => s.fillRead mv (isHost f.pa) (a + i) 16
    | _ => s
  | _ => s

/-- LCOPY at work (R181): ascending units of 16 bytes; with the twin out of reach no twin byte moves. -/
def State.runLcopy (s : State) (mv : Mover) (mode : Mode) (src dst : DWord) (len : Nat) : Progress :=
  if (isTwinLayer src || isTwinLayer dst) && (s.twinColumn mv.core).isNone then { s := s, st := stFault, off := some 0 }
  else (List.range (len / 16)).foldl (fun p u =>
    let s1 := p.s.fillUnit mv src (16 * u)
    let got := s1.readUnit mv mode src (16 * u)
    let r := s1.writeUnit mv mode dst (16 * u) got
    let q : Progress := { p with s := r.1 }
    let q := q.note (16 * u) r.2
    q.note (16 * u + firstMarked got) (got.foldl (fun m b => m ||| b.2) 0)) { s := s }

/-- Bytes that a copy signals (R174). -/
def Copy.signalled (c : Copy) : Nat := match c.kind with
  | .tile _ r _ _ => (Tensor.ofRecord r).tileBytes
  | .layer _ _ n => n

/-- Where the bytes of a global range lie: the pieces of its 64 KiB frames, each where a write to it is translated (R168). -/
def State.placesOf (s : State) (mv : Mover) (a n : Nat) : List (Nat × Nat × Nat) :=
  ((List.range ((a + n + 65535) / 65536 - a / 65536)).filterMap fun i =>
    let lo := max a (65536 * (a / 65536 + i))
    match s.copyXlat mv lo .write with
    | .ok f => some (0, f.pa, min (a + n) (65536 * (a / 65536 + i + 1)) - lo)
    | _ => none)

/-- Where the bytes of a range of the own heap lie, page by page, named as a peer's memory (R168, R300). -/
def State.heapPlaces (s : State) (mv : Mover) (a n : Nat) : List (Nat × Nat × Nat) :=
  ((List.range ((a + n + 65535) / 65536 - a / 65536)).filterMap fun i =>
    let lo := max a (65536 * (a / 65536 + i))
    match s.resolveFrame (s.team mv.team).tdom.toNat mv.dest lo 1 .write with
    | .ok f => some (0, f.pa, min (a + n) (65536 * (a / 65536 + i + 1)) - lo)
    | _ => none)

/-- The ranges that a copy writes: what kind of memory, where, and how much (R168). Global bytes are named by their physical addresses. -/
def State.copyTargets (s : State) (c : Copy) : List (Nat × Nat × Nat) :=
  let mv := s.mover c {}
  match c.kind with
  | .tile false r o _ => [(100, o, (Tensor.ofRecord r).tileBytes)]
  | .tile true r _ origin =>
    let t := Tensor.ofRecord r
    (List.range t.rows).flatMap fun row =>
      let a := ((t.rowAddr (t.rowCoords origin row) : Int) + origin.headD 0 * t.w / 8).toNat
      match t.layer with
      | 2 => [(101, a + (s.team c.key.tkey).colUnit * 65536, t.rowB)]
      | 3 => if t.peer = s.selfNum then s.heapPlaces mv a t.rowB else [(200 + t.peer, a, t.rowB)]
      | _ => s.placesOf mv a t.rowB
  | .layer _ dst n => match layerOf dst with
    | .global a => s.placesOf mv a n
    | .near a => match s.nearDecode c.key.tkey c.mode a n with
      | some (.spad t o) => [(if t = c.key.tkey then 100 else 1000 + t.team, o, n)]
      | some (.column _ o) => [(101, o, n)]
      | none => []
    | .twin o => [(102, o, n)]
    | .bad => []

/-- An earlier copy of the same group writes some of the same bytes: this one waits (R168). -/
def State.copyWaits (s : State) (c : Copy) : Bool :=
  let mine := s.copyTargets c
  (s.copies.filter fun e => e.key = c.key && decide (e.id < c.id)).any fun e => (s.copyTargets e).any fun x =>
    mine.any fun y => x.1 = y.1 && overlaps x.2.1 x.2.2 y.2.1 y.2.2

/-- The fetches of walk-ahead after a copy of a team: the pages of the tile whose origin lies one box further along TRAV, for the access, in the space
and in the mode of the copy (R169). They go on when the team ends with this copy. -/
def Copy.ahead (c : Copy) (x : Team) : List Due := match c.kind with
  | .tile store r _ origin =>
    let t := Tensor.ofRecord r
    let next := origin.zipIdx.map fun p => if p.2 = t.trav then p.1 + (t.box.getD p.2 1 : Int) else p.1
    let pages := (((t.rowRanges next).flatMap fun x =>
      (List.range ((x.1 + x.2 + 65535) / 65536 - x.1 / 65536)).map fun i => x.1 / 65536 + i).eraseDups)
    if t.trav ≤ 5 && decide (t.layer ≤ 1) then
      pages.map fun q => ⟨.walkAheadFetch, (x.space c.mode).aheadArg c.core (65536 * q) store⟩
    else []
  | _ => []

/-- The request packets of a read of a tile from a peer, one for each line (R301, R304). -/
def State.askPeer (s : State) (team : TKey) (t : Tensor) (origin : List Int) : State :=
  if s.needsPeer team t then
    (rangeLines (t.readRanges origin)).foldl (fun s l => s.sendNow t.peer (s.team team).tdom.toNat t.peer (128 * l) (.read (128 * l) 128)) s
  else s

/-- Packets for a tile in a peer's heap wait for their planes (R302), or for the end of a pause (R308, R309). -/
def State.peerHeld (s : State) (team : TKey) (t : Tensor) (ranges : List (Nat × Nat)) : Bool :=
  t.layer == 3 && (((kfind s.domains (s.team team).tdom.toNat).map (·.paused)).getD false ||
    (s.needsPeer team t && (rangeLines ranges).any fun l => s.planeHeld (planeEntry t.peer (128 * l))))

/-- A tile in the own heap, named as a peer's: a page that is found absent is asked for, once (R300). -/
def State.askAbsent (s : State) (team : TKey) (t : Tensor) (origin : List Int) (need : Need) : State :=
  let x := s.team team
  let e := (kfind s.domains x.tdom.toNat).getD {}
  let found := fun (_ : Unit) => (if need = .read then t.readRanges origin else t.rowRanges origin).findSome? fun q => (chunksOf q.1 q.2).findSome? fun p =>
    match s.resolve x.tdom.toNat t.peer p.1 p.2 need with
    | .absent lvl va => some (lvl, va)
    | _ => none
  if t.layer ≠ 3 || t.peer ≠ s.selfNum || !s.peerOpen team t.peer then s
  else match found () with
    | none => s
    | some (lvl, va) => s.later [⟨.residencyRequest,
        { n := va / 2 ^ levelShift lvl * 2 ^ levelShift lvl, m := lvl, k := e.asid.toNat, data := bytesOf 8 e.ptb.toNat }⟩]

/-- The global range of a layer address of an LCOPY. -/
def globalRange (x : DWord) (n : Nat) : List (Nat × Nat) := match layerOf x with
  | .global a => [(a, n)]
  | _ => []

/-- A copy touches a column in a refresh window, a beam under realignment, a directory under rebuild, or a peer to which its packets must wait (R148,
R163, R243, R302, R308). -/
def State.copyPaused (s : State) (c : Copy) : Bool :=
  let mv := s.mover c {}
  match c.kind with
  | .tile store r _ origin =>
    let t := Tensor.ofRecord r
    let ranges := if store then t.rowRanges origin else t.readRanges origin
    (t.layer = 2 && (s.pair c.core).refresh) || s.peerHeld c.key.tkey t ranges || s.asksRange mv t.layer t.scope store ranges
  | .layer src dst n =>
    s.asksRange mv 0 6 false (globalRange src n) || s.asksRange mv 0 6 true (globalRange dst n) ||
    ((isTwinLayer src || isTwinLayer dst) && (s.realigning c.core || (s.pair c.core).refresh)) ||
      [src, dst].any fun x => match layerOf x with
        | .near a => ((s.nearDecode c.key.tkey c.mode a n).map s.nearStalled).getD false
        | _ => false

/-- Subtracts a copy's bytes from its cell (R174). -/
def State.signalCell (s : State) (c : Copy) : State := match c.bar with
  | none => s
  | some a => s.setCell c.key.tkey a ((s.cellAt c.key.tkey a).addBytes (-(c.signalled : Int)))

/-- The bytes of a copy move (R170, R171, R180, R181). -/
def State.runCopy (s : State) (c : Copy) (a : EvArg) : Progress :=
  let mv := s.mover c a
  match c.kind with
  | .tile false r o origin =>
    let t := Tensor.ofRecord r
    (((s.askAbsent c.key.tkey t origin .read).askPeer c.key.tkey t origin).fillReads mv t.layer (t.readRanges origin)).runTcopy mv t o origin
  | .tile true r o origin =>
    let t := Tensor.ofRecord r
    (s.askAbsent c.key.tkey t origin .write).runTstore mv t o origin
  | .layer src dst n => s.runLcopy mv c.mode src dst n

/-- What a peer has answered counts only in packets that the receiver accepts, from that peer and in the team's domain (R305): the state after their
checks, and whether they count. Nothing is needed where no other device answers, or where the step says that it could not be reached. -/
def State.takeAnswers (s : State) (team : TKey) (r : Tensor) (a : EvArg) : State × Bool :=
  if !s.needsPeer team r || a.flag then (s, true)
  else
    let came := s.acceptAll a.pkts
    (came.1, came.2 && !a.pkts.isEmpty && a.pkts.all fun p => p.src.toNat = r.peer && p.dom.toNat = (s.team team).tdom.toNat)

/-- COPY_COMPLETE (R168, R173, R174): copy `n` moves its bytes, reports its status to its group unless that has retired (R176), and signals its cell.
For a peer's memory, `data` is the peer's heap from offset `m` on, `ans` lists the chunks of 16 bytes that it has refused, each by an offset, and a
flag says that the peer could not be reached; the packets with headers `pkts` have brought them (R305). -/
def execCopyComplete (s : State) : Host.Outcome State Fault Refusal :=
  match s.copies.find? fun c => c.id = s.ev.n with
  | none => .next s
  | some c =>
    if s.copyWaits c || s.copyPaused c then .next s
    else
      let came := match c.record with
        | some r => s.takeAnswers c.key.tkey r s.ev
        | none => (s, true)
      if !came.2 then .next came.1 else
      let p := came.1.runCopy c s.ev
      let s1 : State := { p.s with copies := p.s.copies.filter (·.id ≠ c.id), stalled := [] }
      let s2 := if c.orphan then s1 else s1.modGroup c.key fun g => { g with tb := g.tb.report p.st c.batch c.idx (BitVec.ofNat 32 (p.off.getD 0)) }
      .next (((s2.signalCell c).later (c.ahead (s2.team c.key.tkey))).endTeamIfDone c.key.tkey)

end Sys2Proof.Machine
end

