-- ==== Sys2Proof/Machine/Accum.lean ====
section
/-! DEFINITION. Accumulator tiles: their allocation, the ACC functions, ACC STN, and the matrix batches (R44, R45, R196 to R200, R207 to R209). -/

namespace Sys2Proof.Machine

-- ## Handles (R196)

/-- The slot of a tile handle. -/
def tileSlot (h : Word) : Nat := natBits h.toNat 4 0

/-- A handle names an allocated slot with its generation (R196). -/
def Team.tileValid (x : Team) (h : Word) : Bool :=
  h.getLsbD 31 && natBits h.toNat 30 16 == 0 && natBits h.toNat 7 5 == 0 &&
    (match kfind x.tiles (tileSlot h) with
      | some t => t.alloc && t.gen.toNat == natBits h.toNat 15 8
      | none => false)

/-- The tile that a valid handle names. -/
def Team.tile (x : Team) (h : Word) : Tile := (kfind x.tiles (tileSlot h)).getD {}

/-- Changes the tile of a slot. -/
def State.modTile (s : State) (t : TKey) (h : Word) (f : Tile → Tile) : State :=
  s.modTeam t fun x => { x with tiles := kput x.tiles (tileSlot h) (f (x.tile h)) }

/-- A cell; one that is not listed is zero. -/
def Tile.cell (t : Tile) (i : Nat) : Nat := ((kfind t.cells i).getD 0#40).toNat

/-- Some operation or STN on the tile is incomplete (R198). -/
def State.tileBusy (s : State) (t : TKey) (h : Word) : Bool :=
  (s.matOpsOn (s.team t).core).any fun o => o.team = t && tileSlot o.handle = tileSlot h

-- ## Allocation (R197, R198)

/-- Tiles of a core under its partition word (R93). -/
def Core.tileTotal (c : Core) : Nat := (1536 - natBits c.pword.toNat 10 0 - natBits c.pword.toNat 21 11) / 20

/-- Tiles that a team holds. -/
def Team.held (x : Team) : Nat := (x.tiles.filter fun p => p.2.alloc).length

/-- The teams placed on a core. -/
def State.teamsOn (s : State) (core : Nat) : List (TKey × Team) := s.teams.filter fun t => t.2.core = core

/-- The tiles set aside for a team of a core; one that has left keeps its reserve only while its operations run (R92, R198). -/
def State.reserve (s : State) (t : TKey × Team) : Nat := if t.2.gone && t.2.tiles.isEmpty then 0 else (s.record t.1).tiles

/-- The spare capacity of a core: its tiles that no placed team reserves. -/
def State.spareCap (s : State) (core : Nat) : Nat :=
  (s.core core).tileTotal - ((s.teamsOn core).map s.reserve).foldl (· + ·) 0

/-- Spare tiles in use. -/
def State.spareUsed (s : State) (core : Nat) : Nat :=
  ((s.teamsOn core).map fun t => t.2.held - (s.record t.1).tiles).foldl (· + ·) 0

/-- `n` more tiles fit the team's reserve and the spare pool now. -/
def State.tilesFit (s : State) (t : TKey) (n : Nat) : Bool :=
  let x := s.team t
  let r := (s.record t).tiles
  decide ((x.held + n - r) - (x.held - r) + s.spareUsed x.core ≤ s.spareCap x.core)

/-- The first of `n` consecutive free slots of the team's table. -/
def Team.freeRun (x : Team) (n : Nat) : Option Nat :=
  (List.range (33 - n)).find? fun b => (List.range n).all fun i => !((kfind x.tiles (b + i)).map (·.alloc)).getD false

/-- Fills `n` slots from `b` on with the next generation; the tiles read as zero with a clear status. -/
def Team.fillTiles (x : Team) (b n : Nat) : Team :=
  { x with
    allocN := x.allocN + 1#8
    tiles := (List.range n).foldl (fun m i => kput m (b + i) { alloc := true, gen := x.allocN + 1#8 }) x.tiles }

/-- Groups that wait in a core's ALLOC queue (R197). -/
def Core.waiting (c : Core) : List (GKey × Nat) := c.allocQ.filter fun e => e.2 ≠ 0

/-- Takes a group out of the queue after a grant to its team: every other waiting ALLOC of the team is to issue with WOULDHOLD. -/
def Core.granted (c : Core) (k : GKey) : Core :=
  { c with allocQ := (c.allocQ.filter (·.1 ≠ k)).map fun e => if e.1.tkey = k.tkey then (e.1, 0) else e }

/-- Gives a group its tiles. -/
def View.grantTiles (v : View) (d n : Nat) : Res :=
  match v.team.freeRun n with
  | none => .ok (v.wrLaterAll v.s d 0x02#32)
  | some b =>
    let s1 := (v.s.modTeam v.k.tkey fun x => x.fillTiles b n).modCore v.core fun c => c.granted v.k
    .ok (v.wrLaterAll s1 d (0x80000000#32 ||| ((v.team.allocN + 1#8).setWidth 32 <<< 8) ||| BitVec.ofNat 32 b))

/-- ACC ALLOC (R197, R207). A waiting one is granted from the head of the queue only, or ends with WOULDHOLD after a grant to its team. -/
def execAccAlloc (p : Pfx) (d a : Reg) (s : State) : Host.Outcome State Fault Refusal :=
  issue (fun _ => { pfx := p, names := [d.toNat, a.toNat], reads := [a.toNat], oneBeat := true }) (fun v =>
    let n := ((v.rd a.toNat)[v.f]).toNat
    let give := fun (x : Word) => Res.ok (v.wrLaterAll v.s d.toNat x)
    let c := v.s.core v.core
    let r := (v.s.record v.k.tkey).tiles
    let h := v.team.held
    match c.allocQ.find? fun e => e.1 = v.k with
    | some (_, 0) => .ok (v.wrLaterAll (v.s.modCore v.core fun c => { c with allocQ := c.allocQ.filter (·.1 ≠ v.k) }) d.toNat 0x01#32)
    | some (_, m) => if (c.waiting.head?).map (·.1) = some v.k && v.s.tilesFit v.k.tkey m then v.grantTiles d.toNat m else .hold []
    | none =>
      if n = 0 || decide (16 < n) then give 0x04#32
      else if (v.team.freeRun n).isNone then give 0x02#32
      else if r - min h r + v.s.spareCap v.core < n then give 0x03#32
      else if c.waiting.isEmpty && v.s.tilesFit v.k.tkey n then v.grantTiles d.toNat n
      else if h ≠ 0 then give 0x01#32
      else .await fun s => s.modCore v.core fun c => { c with allocQ := c.allocQ ++ [(v.k, n)] }) s

/-- ALLOC_GRANT (R197): the head of the ALLOC queue of core `core` may issue once its tiles fit, and so may an ALLOC whose team has been
granted tiles. -/
def execAllocGrant (s : State) : Host.Outcome State Fault Refusal :=
  let c := s.core s.ev.core
  let ended := (c.allocQ.filter fun e => e.2 = 0).map (·.1)
  let first := match c.waiting.head? with
    | some e => if s.tilesFit e.1.tkey e.2 then [e.1] else []
    | none => []
  .next { s with stalled := s.stalled.filter fun k => !(ended ++ first).contains k }

-- ## ACC functions on a tile (R204, R207, R208)

/-- An ACC function on the tile of handle A: `body` gets the handle, once no earlier work on the tile is incomplete (R198). -/
def onTile (p : Pfx) (a : Reg) (names reads : List Nat) (illegal : View → Bool) (body : View → Word → Res) (s : State) :
    Host.Outcome State Fault Refusal :=
  issue (fun v =>
    { pfx := p, names := a.toNat :: names, reads := a.toNat :: reads, unif := [a.toNat], oneBeat := true, illegal := illegal v }) (fun v =>
    let h := (v.rd a.toNat)[v.f]
    if !v.team.tileValid h then v.whole .accum
    else if v.s.tileBusy v.k.tkey h then .hold []
    else body v h) s

/-- ACC FREE (R198, R202). The slot is empty from then on: a context image holds zeros for its generation and status (DESIGN CHOICE, log 74). -/
def execAccFree (p : Pfx) (a : Reg) (s : State) : Host.Outcome State Fault Refusal :=
  onTile p a [] [] (fun _ => false) (fun v h => .ok (v.s.modTeam v.k.tkey fun x => { x with tiles := kdel x.tiles (tileSlot h) })) s

/-- ACC ZERO (R207). -/
def execAccZero (p : Pfx) (a : Reg) (s : State) : Host.Outcome State Fault Refusal :=
  onTile p a [] [] (fun _ => false) (fun v h => .ok (v.s.modTile v.k.tkey h fun t => { t with cells := [] })) s

/-- ACC STAT (R199, R207). -/
def execAccStat (p : Pfx) (d a : Reg) (s : State) : Host.Outcome State Fault Refusal :=
  onTile p a [d.toNat] [] (fun _ => false) (fun v h =>
    .ok (v.wrLaterAll (v.s.modTile v.k.tkey h fun t => { t with status := 0#32 }) d.toNat (v.team.tile h).status)) s

/-- FMT as the converting ACC functions read it (R107). -/
def fmtBadAcc (x : Word) : Bool := fmtReserved x || decide (2 ≤ fmtAccf x)
/-- The cells are INT40 (R106). -/
def fmtInt (x : Word) : Bool := fmtAccf x == 1

/-- The value of a cell in the tile's format (R44, R45). -/
def cellVal (fmt : Word) (c : Nat) : FVal := if fmtInt fmt then intVal (signedOf 40 c) else fE8m31.decode c

/-- A cell converted to FP32 or BF16 (R208). -/
def cellFloat (F : FFormat) (fmt : Word) (c : Nat) : Nat × Flags := F.round (fmtRnd fmt) (fmtSat fmt) (cellVal fmt c)

/-- A cell converted to INT32 (R208). -/
def cellInt (fmt : Word) (c : Nat) : Nat × Flags :=
  if fmtInt fmt then
    let i := signedOf 40 c
    ((BitVec.ofInt 32 (if fmtSat fmt then clampInt (-2 ^ 31) (2 ^ 31 - 1) i else i)).toNat, 0#5)
  else
    let r := toIntRange (fmtRnd fmt) (-2 ^ 31) (2 ^ 31 - 1) (fE8m31.decode c)
    ((BitVec.ofInt 32 r.1).toNat, r.2)

/-- The row and column half of a selector (R203). -/
def selRow (p : Pfx) : Nat := natBits (payload p).toNat 11 6
def selHalf (p : Pfx) : Nat := natBits (payload p).toNat 5 5

/-- A read of a row (R208): each active lane receives what `f` gives of FMT, the tile and its number. -/
def accRead (p : Pfx) (d a : Reg) (f : Word → Tile → Fin 32 → Nat × Flags) (s : State) : Host.Outcome State Fault Refusal :=
  onTile p a [d.toNat] [] (fun v => fmtBadAcc v.p.fmt) (fun v h =>
    let r : Lanes (Nat × Flags) := lanesOf fun L => if v.ex.getLsbD L then f v.p.fmt (v.team.tile h) L else (0, 0#5)
    .ok (v.wrLaterFlags v.s d.toNat v.ex (lanesOf fun L => BitVec.ofNat 32 r[L].1) (lanesOf fun L => r[L].2))) s

/-- ACC RDF32 (R208). -/
def execAccRdf32 (p : Pfx) (d a : Reg) (s : State) : Host.Outcome State Fault Refusal :=
  accRead p d a (fun m t L => cellFloat fp32 m (t.cell (64 * selRow p + 32 * selHalf p + L.val))) s

/-- ACC RDBF2 (R208). -/
def execAccRdbf2 (p : Pfx) (d a : Reg) (s : State) : Host.Outcome State Fault Refusal :=
  accRead p d a (fun m t L =>
    let lo := cellFloat bf16 m (t.cell (64 * selRow p + 2 * L.val))
    let hi := cellFloat bf16 m (t.cell (64 * selRow p + 2 * L.val + 1))
    (lo.1 + 65536 * hi.1, lo.2 ||| hi.2)) s

/-- ACC RDI32 (R208). -/
def execAccRdi32 (p : Pfx) (d a : Reg) (s : State) : Host.Outcome State Fault Refusal :=
  accRead p d a (fun m t L => cellInt m (t.cell (64 * selRow p + 32 * selHalf p + L.val))) s

/-- The cell that an FP32 value gives, its flags, and whether it was clamped (R45, R208). -/
def cellOf (fmt : Word) (x : Word) : Nat × Flags × Bool :=
  if fmtInt fmt then
    let top : Int := 2 ^ 39 - 1
    let r := toIntRange (fmtRnd fmt) (-top) top (f32 x)
    ((BitVec.ofInt 40 r.1).toNat, r.2, r.2 == flagNV && !(f32 x).isNan)
  else
    let r := fE8m31.rne (f32 x)
    (r.1, r.2, false)

/-- Puts a cell of a tile. -/
def Tile.setCell (t : Tile) (i c : Nat) : Tile := { t with cells := kput t.cells i (BitVec.ofNat 40 c) }

/-- ACCOVF of a tile status (R199). -/
def stAccovf : Nat := 0x20

/-- ACC WRF32 (R208); a clamp sets the tile's overflow flag as well (R45). -/
def execAccWrf32 (p : Pfx) (d a : Reg) (s : State) : Host.Outcome State Fault Refusal :=
  onTile p a [d.toNat] [d.toNat] (fun v => fmtBadAcc v.p.fmt) (fun v h =>
    let x := v.rd d.toNat
    let r : Lanes (Nat × Flags × Bool) := lanesOf fun L => cellOf v.p.fmt x[L]
    let clamped := (maskLanes v.ex).any fun L => r[L].2.2
    let s1 := v.flag v.s (lanesOf fun L => r[L].2.1)
    .ok (s1.modTile v.k.tkey h fun t =>
      let t1 := (maskLanes v.ex).foldl (fun t L => t.setCell (64 * selRow p + 32 * selHalf p + L.val) r[L].1) t
      { t1 with status := t1.status ||| BitVec.ofNat 32 (if clamped then stAccovf else 0) })) s

-- ## ACC STN (R209)

/-- Bytes of a cell by STN format. -/
def stnBytes (z : Nat) : Nat := match z with
  | 0 => 4 | 1 => 2 | 2 => 4 | _ => 8

/-- A cell in an STN format (R209). -/
def stnCell (z : Nat) (fmt : Word) (c : Nat) : Nat × Flags := match z with
  | 0 => cellFloat fp32 fmt c
  | 1 => cellFloat bf16 fmt c
  | 2 => cellInt fmt c
  | _ => (c, 0#5)

/-- An operation of a group as its batch names it (R200). -/
def Group.matMember (g : Group) (k : GKey) (slice : List (Lanes Word)) (breg : Nat := 0) : MatMember :=
  { key := k, batch := g.mb.committed + 1#32, idx := min g.mb.opened 0xFFFF, slice := slice, breg := breg }

/-- A group's open batch has one more operation (R200). -/
def Group.openedMat (g : Group) : Group := { g with mb := { g.mb with opened := g.mb.opened + 1 } }

/-- ACC STN (R209): it waits for a place in the partition's queue of four (R184). -/
def execAccStn (p : Pfx) (d a : Reg) (s : State) : Host.Outcome State Fault Refusal :=
  let z := natBits (payload p).toNat 1 0
  issue (fun v =>
    { pfx := p, names := [d.toNat, a.toNat], reads := [d.toNat, a.toNat], unif := [a.toNat], oneBeat := true
      illegal := z ≠ 3 && fmtBadAcc v.p.fmt }) (fun v =>
    let h := (v.rd a.toNat)[v.f]
    let o := (v.rd d.toNat)[v.f]
    if !v.team.tileValid h then v.whole .accum
    else if o.toNat % 128 ≠ 0 then v.nearWhole .align (some o)
    else if o.getLsbD 31 || decide (v.team.spBytes < o.toNat + 4096 * stnBytes z) then v.nearWhole .nearRange (some o)
    else if 4 ≤ (v.s.part v.core (partOf v.k)).matQ.length then .hold []
    else v.fenced .async fun v =>
      let op : MatOp :=
        { id := v.s.fresh, team := v.k.tkey, members := [v.g.matMember v.k []], handle := h, fmt := v.p.fmt, stn := some (o.toNat, z) }
      let s1 : State := { v.s with fresh := v.s.fresh + 1 }
      .ok ((s1.modPart v.core (partOf v.k) fun x => { x with matQ := x.matQ ++ [op] }).modGroup v.k Group.openedMat)) s

-- ## The queue (R184, R198, R199, R200)

/-- An operation on the same tile entered its queue earlier and is incomplete (R198). -/
def State.opWaits (s : State) (core : Nat) (o : MatOp) : Bool :=
  (s.matOpsOn core).any fun x => x.team = o.team && tileSlot x.handle = tileSlot o.handle && decide (x.id < o.id)

/-- Every matrix queue of a core is empty. -/
def State.matIdle (s : State) (core : Nat) : Bool := (s.matOpsOn core).isEmpty

/-- The head of a queue leaves it: its status goes to the tile and to its members, those that have retired apart, and the units may fall idle (R199, R200, R210). -/
def State.leaveQueue (s : State) (core part : Nat) (o : MatOp) (st : Nat) : State :=
  let s1 := s.modPart core part fun p => { p with matQ := p.matQ.tail }
  let s2 := s1.modTile o.team o.handle fun t => { t with status := t.status ||| BitVec.ofNat 32 st }
  let s3 := (o.members.filter fun m => !m.orphan).foldl (fun s m => s.modGroup m.key fun g => { g with mb := g.mb.report st m.batch m.idx o.handle }) s2
  let s4 : State := { (if s3.matIdle core then s3.modCore core fun c => { c with idleFrom := s3.cycle } else s3) with stalled := [] }
  s4.endTeamIfDone o.team

/-- Row `m` of an STN: its bytes and flags. -/
def Tile.stnRow (t : Tile) (z : Nat) (fmt : Word) (m : Nat) : List Byte × Flags :=
  let cs := (List.range 64).map fun n => stnCell z fmt (t.cell (64 * m + n))
  (cs.flatMap fun c => bytesOf (stnBytes z) c.1, cs.foldl (fun f c => f ||| c.2) 0#5)

/-- ACC_STN_COMPLETE (R209): the STN at the head of the queue of partition `part` of core `core` has written the scratchpad. -/
def execAccStnComplete (s : State) : Host.Outcome State Fault Refusal :=
  match (s.part s.ev.core s.ev.part).matQ with
  | [] => .next s
  | o :: _ =>
    match o.stn with
    | none => .next s
    | some (at_, z) =>
      if s.opWaits s.ev.core o then .next s
      else
        let t := (s.team o.team).tile o.handle
        let rows := (List.range 64).map (t.stnRow z o.fmt)
        let s1 := s.rewriteSpad o.team at_ (rows.flatMap (·.1))
        .next (s1.leaveQueue s.ev.core s.ev.part o (256 * (rows.foldl (fun f r => f ||| r.2) 0#5).toNat))

-- ## MFENCE and MWAITB (R200, R210)

/-- MFENCE (R210). -/
def execMfence (d : Reg) (s : State) : Host.Outcome State Fault Refusal :=
  issue (fun _ => { names := [d.toNat], oneBeat := true }) (fun v =>
    let n := v.g.mb.committed + 1#32
    .ok (v.wr (v.s.modGroup v.k fun g => { g with mb := { g.mb with committed := n, opened := 0 } }) d.toNat (uniformLanes n))) s

/-- MWAITB (R210). -/
def execMwaitb (d a : Reg) (s : State) : Host.Outcome State Fault Refusal :=
  issue (fun _ => { names := a.toNat :: dataRegs d.toNat 16, reads := [a.toNat], oneBeat := true }) (fun v =>
    if batchLe (v.rd a.toNat)[v.f] (batchDone v.g.mb.committed (v.s.matBatches v.k)) then
      v.reportBatch d.toNat v.g.mb fun g => { g with mb := g.mb.cleared }
    else .hold []) s

end Sys2Proof.Machine
end

