-- ==== Sys2Proof/Machine/Remote.lean ====
section
/-! DEFINITION. Remote loads, stores and atomics, subscriptions, and the requests and responses behind them (R300, R305, R306,
R310 to R320). -/

namespace Sys2Proof.Machine

-- ## The way to a peer (R298, R301, R302, R305)

/-- The domain entry of a team. -/
def State.domainOf (s : State) (t : TKey) : Domain := (kfind s.domains (s.team t).tdom.toNat).getD {}

/-- The team may reach peers (R298). -/
def State.joined (s : State) (t : TKey) : Bool :=
  s.selfPeer.getLsbD 31 && (s.domainOf t).valid && (s.team t).isSealed == (s.domainOf t).isSealed

-- ## Subscribed lines (R318, R320)

/-- The region of an offset is in the subscriber table. -/
def State.subscribed (s : State) (peer dom off : Nat) : Bool := s.subs.any fun x => x.peer = peer && x.dom = dom && x.page = off / 4096

/-- The U copy of an offset's line. -/
def State.ucopy (s : State) (peer dom off : Nat) : Option UCopy :=
  s.ucopies.find? fun u => u.peer = peer && u.dom = dom && u.line = off / 128

/-- The L2 slice of a subscribed line (R320). -/
def sliceOf (peer line : Nat) : Nat := Config.uSlice peer line % 128

/-- The U copies in the set of an offset's line; a set has two U ways (R235). -/
def State.uSet (s : State) (peer off : Nat) : List UCopy := s.uInSet (sliceOf peer (off / 128)) (off / 128 % 2048)

/-- Puts a line into its U copy; an absent one takes a U way of its set, in which the oldest U copy gives way when none is free (R235). -/
def State.setUcopy (s : State) (peer dom off : Nat) (bs : List Byte) (bad : Bool) : State :=
  let b := sliceOf peer (off / 128)
  let mine := fun (u : UCopy) => u.peer == peer && u.dom == dom && u.line == off / 128
  let new : UCopy := ⟨b, peer, dom, off / 128, bs, bad⟩
  if s.ucopies.any mine then { s with ucopies := s.ucopies.map fun u => if mine u then new else u }
  else
    let old := (s.uSet peer off).take ((s.uSet peer off).length - 1)
    let s1 := if old.isEmpty then s.makeRoom (.l2 b) (off / 128 % 2048) else s
    { s1 with ucopies := (s1.ucopies.filter fun u => !old.contains u) ++ [new] }

/-- Subscriptions that satisfy a test end, and the U copies of regions that no entry names any more are dropped (R318, R320). -/
def State.dropSubs (s : State) (test : Subscription → Bool) : State :=
  let s1 : State := { s with subs := s.subs.filter fun x => !test x }
  { s1 with ucopies := s1.ucopies.filter fun u => s1.subscribed u.peer u.dom (u.line * 128) }

-- ## Serving an access (R300, R312, R313)

/-- The new value and the flags of a remote atomic, from its operation code, operand, expected value and old value (R313). -/
def remoteAtom (op : Nat) (wide : Bool) (b e o : DWord) : Option DWord × Flags :=
  match op with
  | 0 => (some (atomAdd wide o b), 0#5)
  | 1 => (some (atomMin wide o b), 0#5)
  | 2 => (some (atomMax wide o b), 0#5)
  | 3 => (some (atomMinu wide o b), 0#5)
  | 4 => (some (atomMaxu wide o b), 0#5)
  | 5 => (some (atomAnd wide o b), 0#5)
  | 6 => (some (atomOr wide o b), 0#5)
  | 7 => (some (atomXor wide o b), 0#5)
  | 8 => (some (atomXch wide o b), 0#5)
  | 9 => (if o = e then some b else none, 0#5)
  | _ => let r := atomFadd false (loWord o) (loWord b); (some (r.1.setWidth 64), r.2)

/-- Bytes that a lane of a request moves (R311). -/
def kindBytes : RKind → Nat
  | .atom _ true | .check true => 8
  | _ => 4

/-- One lane of a request: the state after it, its answer, and the page that it found absent, if any. -/
def State.serveLane (s : State) (dom src : Nat) (kind : RKind) (l : RLane) : State × RAnswer × Option (Nat × Nat) :=
  let need := match kind with
    | .load => Need.read
    | .store => .write
    | _ => .both
  match s.resolve dom src l.off (kindBytes kind) need with
  | .fail r => (s, ⟨l.lane, 0#64, false, some r, 0#5⟩, none)
  | .absent lvl va =>
    (s, if need = .read then ⟨l.lane, 0#64, true, none, 0#5⟩ else ⟨l.lane, 0#64, false, some 6, 0#5⟩, some (lvl, va))
  | .ok f =>
    match kind with
    | .load => (s.observe noCore f.pa 4, ⟨l.lane, BitVec.ofNat 64 (ofBytes (s.rmwRead f 4)), false, none, 0#5⟩, none)
    | .store => (s.peerWrite f (bytesOf 4 l.b.toNat), ⟨l.lane, 0#64, false, none, 0#5⟩, none)
    | .atom op wide =>
      let old := BitVec.ofNat 64 (ofBytes (s.rmwRead f (kindBytes kind)))
      let r := remoteAtom op wide l.b l.e old
      let s1 := match r.1 with
        | some x => s.peerWrite f (bytesOf (kindBytes kind) x.toNat)
        | none => s.observe noCore f.pa (kindBytes kind)
      (s1, ⟨l.lane, old, false, none, r.2⟩, none)
    | _ => (s, ⟨l.lane, 0#64, false, none, 0#5⟩, none)

/-- One chunk of what a peer's tile copy reads: the state after it, the bytes, and the refusal of the chunk, named by its offset, if any (R170,
R300). -/
def State.serveRead (s : State) (dom src off n : Nat) : State × List Byte × Option RAnswer :=
  match s.resolve dom src off n .read with
  | .ok f => (s.observe noCore f.pa n, s.rmwRead f n, none)
  | .absent _ _ => (s, List.replicate n 0#8, some ⟨0, BitVec.ofNat 64 off, true, none, 0#5⟩)
  | .fail r => (s, List.replicate n 0#8, some ⟨0, BitVec.ofNat 64 off, false, some r, 0#5⟩)

/-- One chunk of what a peer's tile copy writes; bytes that come from an error leave the line poisoned (R170, R300). -/
def State.serveWrite (s : State) (dom src off : Nat) (bs : List Byte) (bad : Bool) : State × Option RAnswer :=
  match s.resolve dom src off bs.length .write with
  | .ok f => (let s1 := s.peerWrite f bs; if bad then (s1.poisonLine (lineOf f.pa)).healthRecord 2 f.pa noCore else s1, none)
  | .absent _ _ => (s, some ⟨0, BitVec.ofNat 64 off, false, some 6, 0#5⟩)
  | .fail r => (s, some ⟨0, BitVec.ofNat 64 off, false, some r, 0#5⟩)

/-- The first absent page among the chunks of a range, as a peer finds it. -/
def State.absentIn (s : State) (dom src off n : Nat) (need : Need) : Option (Nat × Nat) :=
  (chunksOf off n).findSome? fun c => match s.resolve dom src c.1 c.2 need with
    | .absent lvl va => some (lvl, va)
    | _ => none

/-- A domain's page that an access of a peer has found absent is asked for (R255, R300). -/
def State.askPage (s : State) (dom : Nat) (found : Option (Nat × Nat)) : State :=
  let e := (kfind s.domains dom).getD {}
  match found with
  | none => s
  | some (lvl, va) => s.later [⟨.residencyRequest,
      { n := va / 2 ^ levelShift lvl * 2 ^ levelShift lvl, m := lvl, k := e.asid.toNat, data := bytesOf 8 e.ptb.toNat }⟩]

/-- The chunks of a peer's read or write, in order (R170, R300): the state, the refusals, and the bytes read. -/
def State.serveCopy (s : State) (dom src off : Nat) : RKind → State × List RAnswer × List Byte
  | .read n =>
    let r := (chunksOf off n).foldl (fun (a : State × List RAnswer × List Byte) c =>
      let x := a.1.serveRead dom src c.1 c.2
      (x.1, a.2.1 ++ x.2.2.toList, a.2.2 ++ x.2.1)) (s, [], [])
    (r.1.askPage dom (s.absentIn dom src off n .read), r.2)
  | .write bs bad =>
    let r := (chunksOf off bs.length).foldl (fun (a : State × List RAnswer) c =>
      let x := a.1.serveWrite dom src c.1 ((bs.drop (c.1 - off)).take c.2) bad
      (x.1, a.2 ++ x.2.toList)) (s, [])
    (r.1.askPage dom (s.absentIn dom src off bs.length .write), r.2, [])
  | _ => (s, [], [])

/-- Of several lanes that store to the same bytes only the highest makes a write (R216, R312). -/
def laneYields (kind : RKind) (lanes : List RLane) (l : RLane) : Bool := kind == .store && lanes.any fun x => l.lane < x.lane && x.off == l.off

/-- The lanes of a request in ascending order; the first absent page is asked for, once for the packet (R300). -/
def State.serve (s : State) (dom src : Nat) (kind : RKind) (lanes : List RLane) : State × List RAnswer :=
  let r := lanes.foldl (fun (acc : State × List RAnswer × Option (Nat × Nat)) l =>
    let x := acc.1.serveLane dom src kind l
    (if laneYields kind lanes l then acc.1 else x.1, acc.2.1 ++ [x.2.1], acc.2.2.or x.2.2)) (s, [], none)
  (r.1.askPage dom r.2.2, r.2.1)

-- ## What a remote instruction writes (R312 to R315)

/-- The mask of lanes given by number. -/
def laneBits (ls : List Nat) : Word := lanesMask ((List.finRange 32).filter fun L => ls.contains L.val)

/-- Failing lanes of a remote instruction. -/
def failLanes (fs : List RFail) : Word := laneBits (fs.map (·.lane))

/-- The trap of a blocking form (R314). -/
def RemoteOp.request (o : RemoteOp) : TrapReq :=
  { cause := if o.align then .align else .fabric, lanes := failLanes o.fails, split := true
    addr := BitVec.ofNat 64 (lowestFail o.fails).off, detail := if o.align then 0 else (lowestFail o.fails).reason }

/-- ORs the flags of answers into AFLAGS (R57, R313). -/
def Group.orAnswerFlags (g : Group) (as : List RAnswer) : Group :=
  { g with aflags := lanesOf fun L => g.aflags[L] ||| ((as.find? fun a => a.lane = L.val).map (·.flags)).getD 0#5 }

/-- The lanes that have succeeded write D and set their flags, and the absent ones NRM (R312, R313). -/
def Group.giveAnswers (g : Group) (o : RemoteOp) : Group :=
  let mask := laneBits (o.answers.map (·.lane))
  let vals : Lanes DWord := lanesOf fun L => ((o.answers.find? fun a => a.lane = L.val).map (·.value)).getD 0#64
  let g1 := if mask = 0#32 then g else g.write o.reg mask (lanesOf fun L => loWord vals[L])
  let g2 := if mask = 0#32 || decide (o.words < 2) then g1 else g1.write (o.reg + 1) mask (lanesOf fun L => hiWord vals[L])
  { g2.orAnswerFlags o.answers with nrm := g2.nrm ||| laneBits ((o.answers.filter (·.absent)).map (·.lane)) }

/-- Every lane of a remote atomic has passed its checks: its group issues it again, and then it takes effect (R328, R330). -/
def State.passChecks (s : State) (k : GKey) (o : RemoteOp) : State :=
  { s.modGroup k fun g => { g with remote := none, checked := some o.path.pc } with stalled := s.stalled.filter (· ≠ k) }

/-- A blocking remote instruction has all its responses: it completes, or traps with its failing lanes, or, where the stack has no room for the
split that this needs, raises RS_OVERFLOW (R32, R74, R311, R314, R330). -/
def State.completeRemote (s : State) (k : GKey) (o : RemoteOp) : State :=
  let g0 := s.group k
  let s1 : State := { s with issued := s.issued + 1, slotW := BitVec.ofNat 3 o.w }
  let s2 := s1.modGroup k fun g => { g.counted s.issued with remote := none, checked := none }
  if o.probe && o.fails.isEmpty then s.passChecks k o
  else if o.fails.isEmpty then
    let s3 := s2.modGroup k fun g => { g.giveAnswers o with cur := some { o.path with pc := o.npc } }
    (s3.finish k o.beats true).stepped k g0 false
  else if o.request.lanes ≠ o.path.ex && g0.full then
    ((s2.spend o.beats).trap k o.path o.npc { cause := .rsOverflow, lanes := o.path.ex }).stepped k g0 true
  else (((s2.modGroup k fun g => g.giveAnswers o).spend o.beats).trap k o.path o.npc o.request).stepped k g0 true

/-- A response to a request of a blocking instruction is noted. -/
def State.noteAnswers (s : State) (k : GKey) (id : Nat) (good : List RAnswer) (bad : List RFail) : State :=
  s.modGroup k fun g =>
    { g with remote := g.remote.map fun o =>
        { o with waiting := o.waiting.filter (· ≠ id), own := o.own.filter (· ≠ id), answers := o.answers ++ good, fails := o.fails ++ bad } }

/-- The answers that fail, each with its reason and its lane's offset. -/
def failedAnswers (answers : List RAnswer) (lanes : List RLane) : List RFail := answers.filterMap fun a => a.fail.map fun c =>
  ⟨a.lane, ((lanes.find? fun l => l.lane = a.lane).map (·.off)).getD 0, c⟩

/-- The device serves one of its own requests of a blocking instruction; the answer to a write waits for the acknowledgements of its pushes (R311,
R316). -/
def State.serveOwn (k : GKey) (s : State) (r : Request) : State :=
  let x := s.serve r.dom r.peer r.kind r.lanes
  let waits := x.1.pushes.drop s.pushes.length
  if waits.isEmpty then
    State.noteAnswers { x.1 with requests := x.1.requests.filter fun q => q.id ≠ r.id } k r.id (x.2.filter (·.fail.isNone)) (failedAnswers x.2 r.lanes)
  else
    State.modGroup { x.1 with owed := x.1.owed ++ [⟨r.peer, r.dom, r.id, x.2, 0, waits⟩] } k fun g =>
      { g with remote := g.remote.map fun o => { o with own := o.own.filter (· ≠ r.id) } }

/-- The lanes of a blocking request to the device itself that fail (R300). -/
def State.ownFails (s : State) (r : Request) : List RFail := r.lanes.filterMap fun l =>
  match s.resolve r.dom r.peer l.off (kindBytes r.kind) (if r.kind = .load then .read else .both) with
  | .ok _ => none
  | .absent _ _ => if r.kind = .load then none else some ⟨l.lane, l.off, 6⟩
  | .fail c => some ⟨l.lane, l.off, c⟩

/-- The group's blocking instruction goes on as its responses come in. Its requests to the device itself are served last, when it is known which lanes
of the others fail: a trap that the stack has no room to split is RS_OVERFLOW, with no effect of theirs (R32, R74, R328, R330; log 70). With every response
it completes. -/
def State.settleRemote (s : State) (k : GKey) : State :=
  match (s.group k).remote with
  | none => s
  | some o =>
    let mine := s.requests.filter fun r => o.own.contains r.id
    let fails := o.fails ++ mine.flatMap s.ownFails
    if !o.waiting.all o.own.contains then s
    else if mine.isEmpty then (if o.waiting.isEmpty then s.completeRemote k o else s)
    else if (s.group k).full && !fails.isEmpty && failLanes fails ≠ o.path.ex then
      State.completeRemote { s with requests := s.requests.filter fun r => !o.own.contains r.id } k { o with fails := fails }
    else
      let s1 := mine.foldl (State.serveOwn k) s
      match (s1.group k).remote with
      | some q => if q.waiting.isEmpty then s1.completeRemote k q else s1
      | none => s1

/-- Puts a failure among the unreported ones, in the order of the instructions. -/
def insertFail (f : PFail) : List PFail → List PFail
  | [] => [f]
  | x :: xs => if f.id < x.id then f :: x :: xs else x :: insertFail f xs

/-- With no posted atomic left that lacks a response, the acquire part of the fences is over (R220, R233, R316): kind 0 ACQ is done, and of 2 ACQREL
the part of 1 REL is left. -/
def Group.acquired (g : Group) : Group :=
  if g.posted.any (·.reads) then g
  else { g with fences := (g.fences.filter fun f => f.kind ≠ 0).map fun f => if f.kind = 2 then { f with kind := 1 } else f }

/-- A posted instruction with all its responses leaves the list; its failing lanes are kept for a check point (R315). -/
def Group.settlePosted (g : Group) (op : Nat) : Group :=
  match g.posted.find? fun p => p.id = op with
  | none => g
  | some p =>
    if !p.waiting.isEmpty then g
    else
      let g1 := Group.acquired { g with posted := g.posted.filter fun q => q.id ≠ op }
      if p.fails.isEmpty then g1
      else
        let f := lowestFail p.fails
        { g1 with pfail := insertFail ⟨p.id, BitVec.ofNat 64 f.off, p.pc, failLanes p.fails, BitVec.ofNat 8 f.reason⟩ g1.pfail }

/-- The flits of a request are acknowledged with its response at the latest (R302). -/
def State.ackFlits (s : State) (r : Request) : State :=
  { s with ports := s.ports.map fun p => (p.1, p.2.withReplay (p.2.replay.filter fun f => !(f.dom = r.dom && f.peer = r.peer && f.seq = r.seq))) }

/-- A request has its answers; a region that an ended grid's RSUBS has been given is given back (R318). `line` is the new line of its offset where
the response carries it (R311, R314, R315, R319, R320). A posted instruction whose group has retired gets its one record with its first failing
response (R315; DESIGN CHOICE, log 88). -/
def State.respond (s : State) (id : Nat) (answers : List RAnswer) (line : List Byte) : State :=
  match s.requests.find? fun r => r.id = id with
  | none => s
  | some r =>
    let off := (r.lanes.head?.map (·.off)).getD 0
    let good := answers.filter (·.fail.isNone)
    let bad := failedAnswers answers r.lanes
    let s0 : State := { s with requests := s.requests.filter fun r => r.id ≠ id }
    let fills := !line.isEmpty && ((r.kind = .load && s.subscribed r.peer r.dom off) || (s.ucopy r.peer r.dom off).isSome)
    let s1 := (if fills then s0.setUcopy r.peer r.dom off line false else s0).ackFlits r
    match r.asker with
    | .blocking k => (s1.noteAnswers k id good bad).settleRemote k
    | .lapsed =>
      if r.kind = .subscribe && bad.isEmpty && decide (((good.head?.map (·.value.toNat)).getD 0) < 2) && !s1.subscribed r.peer r.dom off then
        { s1 with heldOut := s1.heldOut ++ [⟨r.peer, r.dom, r.peer, off, .request .unsubscribe [⟨0, off, 0#64, 0#64⟩], some .nobody⟩] }
      else s1
    | .retired core op =>
      if bad.isEmpty then s1
      else (State.healthRecord { s1 with requests := s1.requests.map fun q => if q.asker = .retired core op then { q with asker := .nobody } else q }
        4 (lowestFail bad).off core)
    | .posted k op =>
      s1.modGroup k fun g =>
        Group.settlePosted { g.orAnswerFlags good with posted := g.posted.map fun p =>
          if p.id = op then { p with waiting := p.waiting.filter (· ≠ id), fails := p.fails ++ bad } else p } op
    | .status k token =>
      let code := if bad.isEmpty then ((good.head?.map (·.value.toNat)).getD 0) else 4
      let mine := fun (x : Subscription) => x.peer = r.peer && x.dom = r.dom && x.page = off / 4096
      let s2 :=
        if 2 ≤ code then s1
        else if r.kind = .subscribe then
          (if s1.subs.any mine || (kfind s1.grids k.slot).isNone then s1
           else { s1 with subs := s1.subs ++ [⟨k.slot, r.peer, r.dom, off / 4096⟩] })
        else s1.dropSubs mine
      s2.modGroup k fun g => g.answer token 0xFFFFFFFF#32 (uniformLanes (BitVec.ofNat 32 code))
    | .nobody => s1

/-- A request fails in every lane (R305, R306). -/
def State.failRequest (s : State) (id reason : Nat) : State :=
  match s.requests.find? fun r => r.id = id with
  | none => s
  | some r => s.respond id (r.lanes.map fun l => ⟨l.lane, 0#64, false, some reason, 0#5⟩) []

/-- A request goes out (R301, R304, R305); one to the device itself uses no port (R311), and one of a stream that is used up fails with EXHAUSTED
(R305). -/
def State.ask (s : State) (dom peer : Nat) (kind : RKind) (lanes : List RLane) (asker : Asker) : State :=
  let off := (lanes.head?.map (·.off)).getD 0
  let entry := planeEntry peer off
  let r : Request := ⟨s.fresh, dom, peer, (kfind s.seqOut (dom, peer)).getD 0, s.planeOf entry, entry, kind, lanes, asker, s.cycle⟩
  let s1 : State := { s with fresh := s.fresh + 1, requests := s.requests ++ [r] }
  if peer = s.selfNum then s1
  else if s.usedUp dom peer then s1.failRequest s.fresh 10
  else s1.sendNow peer dom peer off (.request kind lanes)

/-- A packet that a pause holds: a request of an instruction, a copy or a collective; responses, acknowledgements, pushes and barriers go on (R308,
R309). -/
def HeldPacket.pauses (p : HeldPacket) : Bool := p.asker.isSome || (match p.body with
  | .request _ _ | .read _ _ | .write _ _ _ | .collHead _ _ | .collData _ _ _ => true
  | _ => false)

/-- A packet must wait: its plane takes none (R302), or its domain is paused (R308, R309). -/
def State.packetHeld (s : State) (p : HeldPacket) : Bool :=
  s.planeHeld (planeEntry p.home p.off) || (p.pauses && ((kfind s.domains p.dom).getD {}).paused)

/-- A packet that waited goes out. -/
def State.sendHeldOne (s : State) (p : HeldPacket) : State := match p.body, p.asker with
  | .request kind lanes, some a => s.ask p.dom p.peer kind lanes a
  | b, _ => s.sendNow p.peer p.dom p.home p.off b

/-- Packets that wait and may go now go out, in their order (R302, R309). -/
def State.sendHeld (s : State) : State :=
  (s.heldOut.filter fun p => !s.packetHeld p).foldl State.sendHeldOne { s with heldOut := s.heldOut.filter s.packetHeld }

/-- A request that no group waits for goes out as soon as it may (R302, R309). -/
def State.askWhenFree (s : State) (dom peer off : Nat) (kind : RKind) : State :=
  State.sendHeld { s with heldOut := s.heldOut ++ [⟨peer, dom, peer, off, .request kind [⟨0, off, 0#64, 0#64⟩], some .nobody⟩] }

/-- The device serves a request of its own (R311), for its monitors as another agent (R271); the response of a write waits for the acknowledgements of its pushes (R316). -/
def State.serveSelf (s : State) (id : Nat) : State :=
  match s.requests.find? fun r => r.id = id with
  | none => s
  | some r =>
    if r.peer ≠ s.selfNum then s
    else
      let x := s.serve r.dom r.peer r.kind r.lanes
      let waits := x.1.pushes.drop s.pushes.length
      if waits.isEmpty then x.1.respond id x.2 []
      else { x.1 with owed := x.1.owed ++ [⟨r.peer, r.dom, id, x.2, 0, waits⟩] }

-- ## RLD, RST and RATOM (R310 to R314)

/-- What becomes of a lane before anything is sent: it fails, it reads a U copy, or it is part of a request. -/
inductive Fate where
  | fails (reason : Nat)
  | cached (u : UCopy)
  | sends
deriving DecidableEq, Repr

/-- The checks of R298, R305 and R311 on a lane; reason 0 stands for ALIGN, which comes first (R311). The rules do not order the reasons of R306 where
several hold at once: NOTJOINED comes before BADPEER, and LOST with every plane down before EXHAUSTED (DESIGN CHOICE, log 89). -/
def View.fate (v : View) (kind : RKind) (peer off : Nat) : Fate :=
  let dom := v.team.tdom.toNat
  if off % (kindBytes kind) ≠ 0 then .fails 0
  else if !v.s.joined v.k.tkey then .fails 1
  else if 512 ≤ peer || !(v.s.domainOf v.k.tkey).members.contains peer then .fails 2
  else if peer = v.s.selfNum then .sends
  else match if kind = .load then v.s.ucopy peer dom off else none with
    | some u => if u.bad then .fails 7 else .cached u
    | none => if v.s.noPlane then .fails 8 else if v.s.usedUp dom peer then .fails 10 else .sends

/-- A lane with its peer, its piece of a request, and its fate. -/
structure LaneFate where
  peer : Nat
  l    : RLane
  fate : Fate
deriving DecidableEq, Repr

/-- The requests of a remote instruction: one for each peer and line, peers in ascending order (R301, R311). -/
def requestsOf (fs : List LaneFate) : List (Nat × List RLane) :=
  let out := fs.filter fun f => f.fate = .sends
  (rising (out.map (·.peer))).flatMap fun p =>
    let mine := out.filter fun f => f.peer = p
    (mine.map fun f => f.l.off / 128).eraseDups.map fun line => (p, (mine.filter fun f => f.l.off / 128 = line).map (·.l))

/-- A lane must wait before it can send: its plane, or an own write to a subscribed line that it would read (R302, R320). -/
def View.mustWait (v : View) (kind : RKind) (f : LaneFate) : Bool :=
  let dom := v.team.tdom.toNat
  f.peer ≠ v.s.selfNum &&
    ((f.fate = .sends && v.s.planeHeld (planeEntry f.peer f.l.off)) ||
      (kind = .load && v.s.subscribed f.peer dom f.l.off && v.s.requests.any fun r =>
        r.peer = f.peer && r.dom = dom && r.kind ≠ .load && r.kind ≠ .subscribe && r.kind ≠ .unsubscribe && r.kind ≠ .check true && r.kind ≠ .check false &&
          (r.lanes.head?.map (·.off / 128)) = some (f.l.off / 128)))

/-- The lane's answer from a U copy. -/
def LaneFate.answer (f : LaneFate) : Option RAnswer := match f.fate with
  | .cached u => some ⟨f.l.lane, BitVec.ofNat 64 (ofBytes ((u.bytes.drop (f.l.off % 128)).take 4)), false, none, 0#5⟩
  | _ => none
/-- The lane's failure before anything is sent. -/
def LaneFate.failure (f : LaneFate) : Option RFail := match f.fate with
  | .fails r => some ⟨f.l.lane, f.l.off, r⟩
  | _ => none

/-- The beats of the replays, one for each distinct peer (R311). -/
def replayBeats (fs : List LaneFate) (uniform : Bool) : Nat :=
  ((rising (fs.map (·.peer))).map fun p =>
    let m := laneBits ((fs.filter fun f => f.peer = p).map (·.l.lane))
    if uniform then 1 else max (popcount (m &&& 0xFFFF#32)) (popcount (m &&& 0xFFFF0000#32))).sum

/-- A remote atomic with return whose trap may need a split for which the stack has no room has the checks of all its lanes made first (R74, R328,
R330; log 70): the width of its accesses. -/
def View.probes (v : View) (kind : RKind) (words : Nat) : Option Bool := match kind with
  | .atom _ wide => if words ≠ 0 && v.g.full && decide (1 < popcount v.ex) && v.g.checked ≠ some v.p.pc then some wide else none
  | _ => none

/-- A remote instruction (R311): `regs` are its sources, `words` the registers that D receives, 0 for the posted forms. It takes the beats of its
replays, and those of sources that the register cache does not hold (R67). -/
def View.remote (v : View) (kind : RKind) (d words a b : Nat) (regs : List Nat) (op exp : Lanes DWord) : Res :=
  let off := v.rd2 a
  let peer := v.rd b
  let fs := (maskLanes v.ex).map fun L =>
    (⟨peer[L].toNat, ⟨L.val, off[L].toNat, op[L], exp[L]⟩, v.fate kind peer[L].toNat off[L].toNat⟩ : LaneFate)
  if (v.s.domainOf v.k.tkey).paused || fs.any (v.mustWait kind) || (words = 0 && decide (32 ≤ v.g.posted.length)) then .hold []
  else
    let reqs := requestsOf fs
    let fails := fs.filterMap (·.failure)
    let uniform := regs.all fun r => (v.g.drainDue.reg (v.g.wbasev + r)).uni
    let dom := v.team.tdom.toNat
    let asks := ((v.probes kind words).map RKind.check).getD kind
    let ask := fun (s : State) (asker : Asker) => reqs.foldl (fun (s : State) r => s.ask dom r.1 asks r.2 asker) s
    let n := replayBeats fs uniform + boardBeats v.g.drainDue { reads := regs }
    if words ≠ 0 then
      .await fun s =>
        let o : RemoteOp :=
          { path := v.p, npc := v.npc, reg := v.g.wbasev + d, words := words, beats := n, w := v.s.slotW.toNat, probe := (v.probes kind words).isSome
            waiting := (List.range reqs.length).map (s.fresh + ·), align := fails.any fun f => f.reason = 0
            answers := fs.filterMap (·.answer), fails := fails
            own := (reqs.zipIdx.filter fun r => r.1.1 = s.selfNum).map (s.fresh + ·.2) }
        (ask (s.modGroup v.k fun g => { g with remote := some o }) (.blocking v.k)).settleRemote v.k
    else
      let id := v.s.fresh
      let p : PostedOp :=
        { id := id, pc := v.p.pc, waiting := (List.range reqs.length).map (id + 1 + ·), fails := fails.filter fun f => f.reason ≠ 0
          reads := match kind with
            | .atom _ _ => true
            | _ => false }
      let s1 := ({ v.s with fresh := id + 1, cycle := v.s.cycle + n - beats v.g { reads := regs } v.ex } : State).modGroup v.k
        fun g => { g with posted := g.posted ++ [p] }
      let s2 := ((List.range reqs.length).foldl (fun (s : State) i => s.serveSelf (id + 1 + i)) (ask s1 (.posted v.k id))).modGroup v.k fun g => g.settlePosted id
      let mis := fails.filter fun f => f.reason = 0
      if mis.isEmpty then .ok s2
      else .trap { cause := .align, lanes := failLanes mis, split := true, addr := BitVec.ofNat 64 (lowestFail mis).off } s2

/-- Zero operands. -/
def noOperand : Lanes DWord := uniformLanes 0#64

/-- RLD (R312). -/
def execRld (d a b : Reg) (s : State) : Host.Outcome State Fault Refusal :=
  issue (fun _ => { names := d.toNat :: b.toNat :: pairRegs a.toNat, reads := b.toNat :: pairRegs a.toNat, check := true }) (fun v =>
    v.fenced .remoteRead fun v => v.remote .load d.toNat 1 a.toNat b.toNat (b.toNat :: pairRegs a.toNat) noOperand noOperand) s

/-- RST (R312). -/
def execRst (d a b : Reg) (s : State) : Host.Outcome State Fault Refusal :=
  let regs := d.toNat :: b.toNat :: pairRegs a.toNat
  issue (fun _ => { names := regs, reads := regs }) (fun v =>
    v.fenced .remoteWrite fun v => v.remote .store d.toNat 0 a.toNat b.toNat regs (v.operand false d.toNat) noOperand) s

/-- Payload bit [5] of RATOM: a 64-bit operation (R26). -/
def ratomWide (p : Pfx) : Bool := (payload p).getLsbD 5
/-- Payload bit [4] of RATOM: no return (R26). -/
def ratomNoReturn (p : Pfx) : Bool := (payload p).getLsbD 4

/-- The registers of RATOM's D field that it reads: operand, and expected value before it (R313). -/
def ratomSources (p : Pfx) (d : Nat) : List Nat :=
  let n := if ratomWide p then 2 else 1
  (List.range (if (payload p).toNat % 16 = 9 then 2 * n else n)).map (d + ·)

/-- RATOM (R313). -/
def execRatom (p : Pfx) (d a b : Reg) (s : State) : Host.Outcome State Fault Refusal :=
  let op := (payload p).toNat % 16
  let wide := ratomWide p
  let regs := b.toNat :: (pairRegs a.toNat ++ ratomSources p d.toNat)
  let n := if wide then 2 else 1
  issue (fun _ => { pfx := p, names := regs, reads := regs, check := !ratomNoReturn p }) (fun v =>
    v.fenced .remoteWrite fun v =>
    let first := v.operand wide d.toNat
    v.remote (.atom op wide) d.toNat (if ratomNoReturn p then 0 else n) a.toNat b.toNat regs
      (if op = 9 then v.operand wide (d.toNat + n) else first) (if op = 9 then first else noOperand)) s

-- ## RSUBS (R319)

/-- Entries of the subscriber table that are kept for regions whose RSUBS has not been answered (R318). -/
def State.entriesAsked (s : State) : Nat := (s.requests.filter fun r => r.kind = .subscribe).length

/-- RSUBS and RSUBS.OFF: `on` subscribes. -/
def rsubs (on : Bool) (d a : Reg) (s : State) : Host.Outcome State Fault Refusal :=
  issue (fun _ => { names := d.toNat :: pairRegs a.toNat, reads := d.toNat :: pairRegs a.toNat, oneBeat := true }) (fun v =>
    let off := ((v.rd2 a.toNat)[v.f]).toNat
    let peer := ((v.rd d.toNat)[v.f]).toNat
    let dom := v.team.tdom.toNat
    let done := fun (x : Word) => Res.ok (v.wrLaterAll v.s d.toNat x)
    if (v.s.domainOf v.k.tkey).paused then .hold []
    else if off % 4096 ≠ 0 then .trap { cause := .align, lanes := v.ex, addr := BitVec.ofNat 64 off } v.s
    else if !v.s.joined v.k.tkey || decide (512 ≤ peer) || !(v.s.domainOf v.k.tkey).members.contains peer || peer = v.s.selfNum then done 4#32
    else if v.s.subscribed peer dom off == on then done 1#32
    else if on && decide (1024 ≤ v.s.subs.length + v.s.entriesAsked) then done 2#32
    else if v.s.noPlane || v.s.usedUp dom peer then done 4#32
    else if v.s.planeHeld (planeEntry peer off) then .hold []
    else
      let token := v.s.fresh
      let s1 : State := { v.s with fresh := token + 1 }
      .ok ((v.wrAwait s1 d.toNat v.ex token).ask dom peer (if on then .subscribe else .unsubscribe) [⟨0, off, 0#64, 0#64⟩] (.status v.k token))) s

/-- RSUBS. -/
def execRsubs (d a : Reg) (s : State) : Host.Outcome State Fault Refusal := rsubs true d a s
/-- RSUBS.OFF. -/
def execRsubsOff (d a : Reg) (s : State) : Host.Outcome State Fault Refusal := rsubs false d a s

-- ## Packets from peers (R300, R305, R316, R320)

/-- A subscriber's request for a region, or for its end, at the home (R318, R319): the status. -/
def State.serveSubscribe (s : State) (dom src off : Nat) (on : Bool) : State × Nat :=
  let e := (kfind s.domains dom).getD {}
  let page := off / 4096
  let here := fun (r : HomeRegion) => r.dom = dom && r.page = page
  let has := s.homes.any fun r => here r && r.subs.contains src
  if e.heapsz.toNat < off + 4096 then (s, 4)
  else if has == on then (s, 1)
  else if !on then
    ({ s with homes := (s.homes.map fun r => if here r then { r with subs := r.subs.filter (· ≠ src) } else r).filter fun r => !r.subs.isEmpty }, 0)
  else if s.homes.any here then ({ s with homes := s.homes.map fun r => if here r then { r with subs := r.subs ++ [src] } else r }, 0)
  else if 4096 ≤ s.homes.length then (s, 3)
  else ({ s with homes := s.homes ++ [⟨dom, page, [src]⟩] }, 0)

/-- The line of an offset as a peer reads it, which a response carries (R320). -/
def State.lineFor (s : State) (dom src off : Nat) : List Byte :=
  match s.resolve dom src (off / 128 * 128) 128 .read with
  | .ok f => s.homeBytes f 128
  | _ => []

/-- REMOTE_REQUEST_RECEIVE (R300, R305): packet `pkt` arrives; it is dropped, or performed and answered once the pushes that it causes are
acknowledged (R316). A peer's tile copy is answered with the bytes that it reads and with the chunks that are refused. -/
def execRemoteRequestReceive (s : State) : Host.Outcome State Fault Refusal :=
  match s.ev.pkt with
  | none => .next s
  | some p =>
    match s.acceptFrom p with
    | none => .next s
    | some s1 =>
      let dom := p.dom.toNat
      let src := p.src.toNat
      let off := (p.lanes.head?.map (·.off)).getD 0
      match p.kind with
      | .barrier => .next { s1 with domains := kput s1.domains dom (let e := (kfind s1.domains dom).getD {}; { e with barriers := src :: e.barriers }) }
      | .subscribe =>
        let r := s1.serveSubscribe dom src off true
        .next (r.1.send src dom s.selfNum off (.status p.seq r.2))
      | .unsubscribe =>
        let r := s1.serveSubscribe dom src off false
        .next (r.1.send src dom s.selfNum off (.status p.seq r.2))
      | .read n =>
        let r := s1.serveCopy dom src off (.read n)
        .next (r.1.send src dom s.selfNum off (.response p.seq r.2.1 r.2.2))
      | .write bs bad =>
        let r := s1.serveCopy dom src off (.write bs bad)
        let waits := r.1.pushes.drop s1.pushes.length
        if waits.isEmpty then .next (r.1.send src dom s.selfNum off (.response p.seq r.2.1 []))
        else .next { r.1 with owed := r.1.owed ++ [⟨src, dom, p.seq, r.2.1, off, waits⟩] }
      | kind =>
        let r := s1.serve dom src kind p.lanes
        let waits := r.1.pushes.drop s1.pushes.length
        if waits.isEmpty then .next (r.1.send src dom s.selfNum off (.response p.seq r.2 (r.1.lineFor dom src off)))
        else .next { r.1 with owed := r.1.owed ++ [⟨src, dom, p.seq, r.2, off, waits⟩] }

/-- Responses that wait for no acknowledgement any more go out (R316). -/
def State.payOwed (s : State) : State :=
  let due := s.owed.filter fun o => o.waits.isEmpty
  let s1 : State := { s with owed := s.owed.filter fun o => !o.waits.isEmpty }
  due.foldl (fun s o =>
    if o.peer = s.selfNum then s.respond o.num o.answers []
    else
      s.send o.peer o.dom s.selfNum o.off (.response o.num o.answers (s.lineFor o.dom o.peer o.off))) s1

/-- Pushes that satisfy a test are no longer waited for. -/
def State.endPushes (s : State) (test : PushOut → Bool) : State :=
  State.payOwed { s with
    pushes := s.pushes.filter fun p => !test p
    owed := s.owed.map fun o => { o with waits := o.waits.filter fun p => !test p } }

/-- REMOTE_RESPONSE_RECEIVE (R305, R311, R316): the packet with header `pkt` answers request `n` with `ans`, and with `data`, the line where it
carries it; flagged, it acknowledges the oldest push of offset `n` to its source. -/
def execRemoteResponseReceive (s : State) : Host.Outcome State Fault Refusal :=
  match s.ev.pkt with
  | none => .next s
  | some p =>
    match s.acceptFrom p with
    | none => .next s
    | some s1 =>
      if s.ev.flag then
        match s1.pushes.find? fun x => x.peer = p.src.toNat && x.dom = p.dom.toNat && x.off = s.ev.n with
        | some q => .next (s1.endPushes fun x => x.id = q.id)
        | none => .next s1
      else if s1.requests.any fun r => r.id = s.ev.n && r.dom = p.dom.toNat && r.peer = p.src.toNat then .next (s1.respond s.ev.n s.ev.ans s.ev.data).sendHeld
      else .next s1

/-- REQUEST_TIMEOUT (R305): request `n` has no response 2 ms after it was sent, and fails with UNKNOWN. -/
def execRequestTimeout (s : State) : Host.Outcome State Fault Refusal :=
  if s.requests.any fun r => r.id = s.ev.n && r.peer ≠ s.selfNum && decide (r.sent + 4800000 ≤ s.cycle) then .next (s.failRequest s.ev.n 9) else .next s

/-- NACK_RECEIVE (R305): the packet with header `pkt` names number `n` of the stream to its source; the request of that number fails with
LOST. -/
def execNackReceive (s : State) : Host.Outcome State Fault Refusal :=
  match s.ev.pkt with
  | none => .next s
  | some p =>
    match s.acceptFrom p with
    | none => .next s
    | some s1 =>
      match s1.requests.find? fun r => r.dom = p.dom.toNat && r.peer = p.src.toNat && r.seq = s.ev.n with
      | none => .next s1
      | some r => .next (s1.failRequest r.id 8)

/-- Number `n` of a stream has been missing for 1 ms after a higher one was accepted (R305). -/
def StreamIn.gap (st : StreamIn) (n now : Nat) : Bool :=
  match st.high with
  | none => false
  | some h => decide (n < h) && decide (h ≤ n + 4096) && !(st.seen.any fun x => x.1 = n) && !st.given.contains n &&
      st.seen.any fun x => decide (n < x.1) && decide (x.2 + 2400000 ≤ now)

/-- The missing numbers of a stream that are to be given up now (R305). -/
def StreamIn.gaps (st : StreamIn) (now : Nat) : List Nat := match st.high with
  | none => []
  | some h => ((List.range (min h 4096)).map fun i => h - 1 - i).filter fun n => st.gap n now

/-- SEQUENCE_GAP (R305): number `n` of the stream from peer `m` in domain `k` is given up with a NACK. -/
def execSequenceGap (s : State) : Host.Outcome State Fault Refusal :=
  let st := (kfind s.seqIn (s.ev.k, s.ev.m)).getD {}
  if st.gap s.ev.n s.cycle then
    let s1 : State := { s with seqIn := kput s.seqIn (s.ev.k, s.ev.m) { st with given := s.ev.n :: st.given } }
    .next (s1.send s.ev.m s.ev.k s.ev.m 0 (.nack s.ev.n))
  else .next s

/-- SUBSCRIPTION_PUSH (R320, R238): the packet with header `pkt` brings the line `data` of offset `n`, poisoned when `k` is 1. An absent line
is installed when a U way of its set is free; a poisoned one counts as an uncorrectable error (R367). It is acknowledged in every case. -/
def execSubscriptionPush (s : State) : Host.Outcome State Fault Refusal :=
  match s.ev.pkt with
  | none => .next s
  | some p =>
    match s.acceptFrom p with
    | none => .next s
    | some s1 =>
      let peer := p.src.toNat
      let dom := p.dom.toNat
      let takes := s1.subscribed peer dom s.ev.n && ((s1.ucopy peer dom s.ev.n).isSome || decide ((s1.uSet peer s.ev.n).length < 2))
      let s2 := if takes then s1.setUcopy peer dom s.ev.n s.ev.data (s.ev.k == 1) else s1
      let s2 := if takes && s.ev.k == 1 then s2.countHealth 2 else s2
      .next (s2.send peer dom peer s.ev.n (.ack s.ev.n))

end Sys2Proof.Machine
end

