-- ==== Sys2Proof/Machine/Coll.lean ====
section
/-! DEFINITION. Collectives (R321 to R325). -/

namespace Sys2Proof.Machine

/-- A collective's record (R321). -/
structure CollRec where
  send  : Nat
  recv  : Nat
  pset  : Nat
  donea : DWord
  count : Nat
  tag   : Nat
  op    : Nat
  dtype : Nat
  redop : Nat
  root  : Nat
  tmoms : Nat
deriving DecidableEq, Repr

def CollRec.ofRecord (x : Nat) : CollRec :=
  ⟨natBits x 63 0, natBits x 127 64, natBits x 191 128, BitVec.ofNat 64 (natBits x 255 192), natBits x 287 256, natBits x 319 288, natBits x 323 320,
    natBits x 327 324, natBits x 331 328, natBits x 344 336, natBits x 383 352⟩

/-- Bytes of an element. -/
def CollRec.size (r : CollRec) : Nat := match r.dtype with
  | 1 | 2 => 2
  | 5 => 8
  | _ => 4

/-- Elements of the buffers with `n` participants (R322). -/
def CollRec.sendLen (r : CollRec) (n : Nat) : Nat := match r.op with
  | 1 | 4 => n * r.count
  | 5 => 0
  | _ => r.count
def CollRec.recvLen (r : CollRec) (n : Nat) : Nat := match r.op with
  | 2 | 4 => n * r.count
  | 5 => 0
  | _ => r.count

/-- Code 0x01 of R324. -/
def CollRec.malformed (r : CollRec) (x : Nat) : Bool :=
  natBits x 511 384 ≠ 0 || natBits x 351 345 ≠ 0 || natBits x 335 332 ≠ 0 || decide (6 ≤ r.op) || decide (6 ≤ r.redop) || decide (6 ≤ r.dtype) ||
    (r.root ≠ 0 && r.op ≠ 3) || (decide (3 ≤ r.redop) && decide (r.dtype ≤ 2)) || (r.count ≠ 0 && r.op = 5)

/-- Code 0x04 of R324. -/
def CollRec.badBuffers (r : CollRec) (n heapsz : Nat) : Bool :=
  let a := r.sendLen n * r.size
  let b := r.recvLen n * r.size
  decide (heapsz < r.send + a) || decide (heapsz < r.recv + b) ||
    (overlaps r.send a r.recv b && !((r.op = 0 || r.op = 3) && r.send = r.recv))

/-- The bytes of the participant mask, or the fault of its address (R212, R324). -/
def View.maskBytes (v : View) (a : Nat) : Except (Cause × DWord) (List Byte) :=
  (chunksOf a 64).foldl (fun acc c => match acc with
    | .error e => .error e
    | .ok bs =>
      let x := BitVec.ofNat 64 c.1
      match v.s.access v.core v.space x 1 .read with
      | .ok f => .ok (bs ++ v.s.loadBytes v.core f c.2)
      | .absent _ => .ok (bs ++ List.replicate c.2 0#8)
      | .bad _ k => .error (k, x)) (.ok [])

/-- A collective with the tag runs in the domain. -/
def State.tagRuns (s : State) (dom tag : Nat) : Bool := s.colls.any fun c => match c.2.running with
  | some q => q.dom = dom && (CollRec.ofRecord q.record.toNat).tag = tag
  | none => false

/-- Codes 0x03 to 0x06 of R324, 0 where the record is accepted. -/
def View.collRefusal (v : View) (r : CollRec) (ps : List Nat) : Nat :=
  let e := v.s.domainOf v.k.tkey
  if !ps.contains v.s.selfNum || !(ps.all e.members.contains) || (r.op = 3 && !ps.contains r.root) then 3
  else if r.badBuffers ps.length e.heapsz.toNat then 4
  else if !v.s.joined v.k.tkey then 5
  else if v.s.tagRuns v.team.tdom.toNat r.tag then 6
  else 0

def State.coll (s : State) (n : Nat) : Coll := (kfind s.colls n).getD {}

/-- The free slot that has been complete the longest (R324). -/
def State.freeColl (s : State) : Option Nat :=
  let free := (List.range 64).filter fun n => (s.coll n).running.isNone
  free.find? fun n => free.all fun m => (s.coll n).doneAt ≤ (s.coll m).doneAt

/-- What participants compare: the participant mask and the record (R325). -/
def collHeader (parts : List Nat) (rec_ : Nat) : List Byte := bytesOf 64 (parts.map (2 ^ ·)).sum ++ bytesOf 64 rec_

/-- The TAG of a header: with the domain, what participants match on (R325). -/
def headerTag (bs : List Byte) : Nat := natBits (ofBytes (bs.drop 64)) 319 288

/-- The fields that must agree, of a header: OP, DTYPE and REDOP, ROOT, COUNT and the mask (R325). -/
def headerKey (bs : List Byte) : Nat × Nat × Nat × Nat :=
  let x := ofBytes (bs.drop 64)
  (natBits x 331 320, natBits x 344 336, natBits x 287 256, ofBytes (bs.take 64))

/-- The other participants. -/
def State.otherParts (s : State) (parts : List Nat) : List Nat := parts.filter (· ≠ s.selfNum)

/-- A packet goes to every other participant that is still a member of the domain (R304, R308, R325). -/
def State.tellParts (s : State) (dom off : Nat) (parts : List Nat) (b : Nat → Option Body) : State :=
  ((s.otherParts parts).filter ((kfind s.domains dom).getD {}).members.contains).foldl (fun s p => match b p with
    | some x => s.send p dom p off x
    | none => s) s

/-- The collective starts in a slot, tells the others its record, and gives its ticket (R324, R325). -/
def View.startColl (v : View) (s : State) (d n : Nat) (rec_ : Nat) (ps : List Nat) : State :=
  let x := v.team
  let gen := (s.coll n).gen + 1#8
  let c : Coll :=
    { gen := gen, slot := some v.k.slot, running := some ⟨BitVec.ofNat 512 rec_, ps, x.tdom.toNat, s.cycle⟩, asid := x.asid, ptb := x.ptb
      ownkey := x.ownkey, mode := v.g.mode, core := v.core, status := 0#32, doneAt := (s.coll n).doneAt }
  let r := CollRec.ofRecord rec_
  v.wrLaterAll (State.tellParts { s with colls := kput s.colls n c } x.tdom.toNat r.send ps fun _ => some (.collHead r.tag (collHeader ps rec_))) d (BitVec.ofNat 32 (2 ^ 31 + 256 * gen.toNat + n))

/-- COLL START (R324): it reads its record as a load at package scope does (R215, R235, R243). On an absent page the record reads as zeros, and NRM of
lane f is set (R213). -/
def execCollStart (d a : Reg) (s : State) : Host.Outcome State Fault Refusal :=
  issue (fun _ => { names := d.toNat :: pairRegs a.toNat, reads := pairRegs a.toNat, oneBeat := true, check := true }) (fun v =>
    let x := (v.rd2 a.toNat)[v.f]
    if (v.s.domainOf v.k.tkey).paused || v.s.releaseBusy v.core 6 then .hold []
    else v.fenced .async fun v => v.fenced .read fun v => match v.s.access v.core v.space x 64 .read with
      | .bad _ c => .trap { cause := c, lanes := v.ex, addr := x } v.s
      | t =>
        let rec_ := match t with
          | .ok f => ofBytes (v.s.loadBytes v.core f 64)
          | _ => 0
        let s1 := match t with
          | .ok f => v.s.loaded v.core f 64 0
          | _ => v.s.modGroup v.k fun g => { g with nrm := g.nrm ||| (1#32 <<< v.f.val) }
        let r := CollRec.ofRecord rec_
        let give := fun (n : Nat) => Res.ok (v.wrLaterAll s1 d.toNat (BitVec.ofNat 32 n))
        if r.malformed rec_ then give 1
        else if r.send % 16 ≠ 0 || r.recv % 16 ≠ 0 || r.donea.toNat % 8 ≠ 0 then give 2
        else match v.maskBytes r.pset with
          | .error e => .trap { cause := e.1, lanes := v.ex, addr := e.2 } v.s
          | .ok bs =>
            let ps := (List.range 512).filter (ofBytes bs).testBit
            match v.collRefusal r ps with
            | 0 =>
              match v.s.freeColl with
              | none => .hold []
              | some n => .ok (v.startColl s1 d.toNat n rec_ ps)
            | c => give c) s

/-- A ticket that names nothing (R324). -/
def badTicket (t : Word) : Bool := !t.getLsbD 31 || natBits t.toNat 30 16 ≠ 0 || natBits t.toNat 7 6 ≠ 0

/-- COLL WAIT and TEST (R324). -/
def collStatus (test : Bool) (d a : Reg) (s : State) : Host.Outcome State Fault Refusal :=
  issue (fun v =>
    { names := [d.toNat, a.toNat], reads := [a.toNat], oneBeat := true
      illegal := v.inWindow a.toNat && badTicket (v.rd a.toNat)[v.f] }) (fun v =>
    let t := ((v.rd a.toNat)[v.f]).toNat
    let c := v.s.coll (natBits t 5 0)
    if c.gen.toNat ≠ natBits t 15 8 || c.slot ≠ some v.k.slot then .ok (v.wrLaterAll v.s d.toNat 0x40000000#32)
    else if c.running.isSome then (if test then .ok (v.wrLaterAll v.s d.toNat 0x80000000#32) else .hold [])
    else .ok (v.wrLaterAll v.s d.toNat c.status)) s

/-- COLL WAIT. -/
def execCollWait (d a : Reg) (s : State) : Host.Outcome State Fault Refusal := collStatus false d a s
/-- COLL TEST. -/
def execCollTest (d a : Reg) (s : State) : Host.Outcome State Fault Refusal := collStatus true d a s

-- ## fold (R323)

/-- The sign and magnitude of an encoding as an integer that orders the numbers. -/
def FFormat.orderKey (F : FFormat) (x : Nat) : Int :=
  if x.testBit (F.bits - 1) then -(x % 2 ^ (F.bits - 1) : Nat) else (x % 2 ^ (F.bits - 1) : Nat)

/-- FMIN and FMAX of R129 in a format: −0 orders below +0, and a NaN gives way to the other operand. -/
def FFormat.minMax (F : FFormat) (max : Bool) (a b : Nat) : Nat × Flags :=
  let x := F.decode a
  let y := F.decode b
  let neg := fun (z : Nat) => z.testBit (F.bits - 1)
  let below := decide (F.orderKey a < F.orderKey b) || (F.orderKey a == F.orderKey b && neg a && !neg b)
  (match x.isNan, y.isNan with
    | true, true => F.canonical
    | true, false => b
    | false, true => a
    | false, false => if below != max then a else b, flagIf (x.isSig || y.isSig) flagNV)

/-- combine on integers of `n` bits; `uns` orders them without sign. -/
def combineInt (n redop : Nat) (uns : Bool) (a b : Nat) : Nat :=
  let le := if uns then decide (a ≤ b) else decide (signedOf n a ≤ signedOf n b)
  match redop with
  | 0 => (a + b) % 2 ^ n
  | 1 => if le then a else b
  | 2 => if le then b else a
  | 3 => Nat.land a b
  | 4 => Nat.lor a b
  | _ => Nat.xor a b

/-- combine in a floating format. -/
def combineFloat (F : FFormat) (redop a b : Nat) : Nat × Flags := match redop with
  | 0 => F.rne (sumTerms [F.decode a, F.decode b])
  | 1 => F.minMax false a b
  | _ => F.minMax true a b

/-- combine (R323). -/
def CollRec.combine (r : CollRec) (a b : Nat) : Nat × Flags := match r.dtype with
  | 0 => combineFloat fp32 r.redop a b
  | 1 => combineFloat bf16 r.redop a b
  | 2 => combineFloat fp16 r.redop a b
  | 5 => (combineInt 64 r.redop false a b, 0#5)
  | d => (combineInt 32 r.redop (d == 4) a b, 0#5)

/-- fold (R323): values in ascending participant order. -/
def CollRec.fold (r : CollRec) : List Nat → Nat × Flags
  | [] => (0, 0#5)
  | x :: xs => xs.foldl (fun acc y => let c := r.combine acc.1 y; (c.1, acc.2 ||| c.2)) (x, 0#5)

-- ## The completion of a collective (R322, R325)

/-- An element of a send buffer: its value, and whether it was read from a poisoned line. -/
abbrev Elem := Nat × Bool

/-- The elements of a result at participant `i` of `n`, each with its flags, from the elements of every participant's send buffer (R322). -/
def CollRec.results (r : CollRec) (i n root : Nat) (el : Nat → Nat → Elem) : List (Elem × Flags) :=
  let folded := fun (j : Nat) =>
    let xs := (List.range n).map fun p => el p j
    let v := r.fold (xs.map (·.1))
    (((v.1, xs.any (·.2)) : Elem), v.2)
  match r.op with
  | 0 => (List.range r.count).map folded
  | 1 => (List.range r.count).map fun j => folded (i * r.count + j)
  | 2 => (List.range n).flatMap fun p => (List.range r.count).map fun j => (el p j, 0#5)
  | 3 => (List.range r.count).map fun j => (el root j, 0#5)
  | 4 => (List.range n).flatMap fun p => (List.range r.count).map fun j => (el p (i * r.count + j), 0#5)
  | _ => []

/-- Own bytes of the heap with their errors: each byte, whether it is poisoned, and whether the access failed (R300). A collective reads the newest
bytes (R226, R325; DESIGN CHOICE, log 10). -/
def State.heapBytes (s : State) (dom off n : Nat) : List (Byte × Bool × Bool) :=
  (chunksOf off n).flatMap fun c => match s.resolve dom s.selfNum c.1 c.2 .read with
    | .ok f => (s.rmwRead f c.2).map fun b => (b, false, false)
    | .absent _ _ => List.replicate c.2 (0#8, false, false)
    | .fail 7 => List.replicate c.2 (0#8, true, false)
    | .fail _ => List.replicate c.2 (0#8, false, true)

/-- Writes one chunk of own bytes of the heap, and notes where it holds poison; the flag says that some access failed. -/
def writeHeapChunk (dom off : Nat) (bs : List (Byte × Bool)) (acc : State × Bool × List Nat) (c : Nat × Nat) : State × Bool × List Nat :=
  let part := (bs.drop (c.1 - off)).take c.2
  match acc.1.resolve dom acc.1.selfNum c.1 c.2 .write with
  | .ok f =>
    (acc.1.peerWrite f (part.map (·.1)), acc.2.1,
      if part.any (·.2) && !(acc.2.2.any fun a => lineOf a == lineOf f.pa) then acc.2.2 ++ [f.pa] else acc.2.2)
  | _ => (acc.1, true, acc.2.2)

/-- Writes own bytes of the heap; once all are written, the lines with bad bytes enter P (R325). The flag says that some access failed. -/
def State.heapWrite (s : State) (dom off : Nat) (bs : List (Byte × Bool)) : State × Bool :=
  let r := (chunksOf off bs.length).foldl (writeHeapChunk dom off bs) (s, false, [])
  (r.2.2.foldl (fun s a => (s.poisonLine (lineOf a)).healthRecord 2 a 0) r.1, r.2.1)

/-- The receive buffer becomes zero (R325). -/
def State.clearRecv (s : State) (q : CollRun) : State :=
  let r := CollRec.ofRecord q.record.toNat
  (s.heapWrite q.dom r.recv (List.replicate (r.recvLen q.parts.length * r.size) (0#8, false))).1

/-- The done counter of a collective adds 1, or the update is dropped with a record (R325, R367). -/
def State.collDone (s : State) (c : Coll) (a : DWord) : State :=
  if a = 0#64 then s
  else match s.access c.core ⟨c.asid, c.ptb.toNat, c.ownkey.toNat, c.mode == .user⟩ a 8 .both with
    | .ok f => s.rmwWrite c.core 6 none f (bytesOf 8 (ofBytes (s.rmwRead f 8) + 1))
    | _ => s.healthRecord 4 a.toNat c.core

/-- The writes on their way to own bytes of the heap go home. -/
def State.settleHeap (s : State) (dom off len : Nat) : State :=
  (chunksOf off len).foldl (fun s c => match s.resolve dom s.selfNum c.1 c.2 .read with
    | .ok f => s.settleRange f.pa c.2
    | _ => s) s

/-- What stands in the own named buffers is visible to whoever observes the completion (R226, R325). -/
def State.releaseBuffers (s : State) (q : CollRun) : State :=
  let r := CollRec.ofRecord q.record.toNat
  (s.settleHeap q.dom r.send (r.sendLen q.parts.length * r.size)).settleHeap q.dom r.recv (r.recvLen q.parts.length * r.size)

/-- A collective completes with a status (R324, R325): a release and an acquire on its buffers, before its done counter adds 1 (R226). -/
def State.finishColl (s : State) (n : Nat) (c : Coll) (q : CollRun) (status : Nat) : State :=
  let s1 := (s.releaseBuffers q).collDone c (CollRec.ofRecord q.record.toNat).donea
  { s1 with
    fresh := s1.fresh + 1
    colls := kput s1.colls n { c with running := none, status := BitVec.ofNat 32 status, doneAt := s1.fresh + 1 } }

/-- The elements of a buffer of `size`-byte elements. -/
def elemAt (size : Nat) (bs : List (Byte × Bool)) (j : Nat) : Elem :=
  let x := (bs.drop (j * size)).take size
  (ofBytes (x.map (·.1)), x.any (·.2))

/-- The elements of the own send buffer that participant `i` needs, as a range, from participant `me` (R322). -/
def CollRec.sentTo (r : CollRec) (i me root : Nat) : Nat × Nat := match r.op with
  | 1 | 4 => (i * r.count, r.count)
  | 3 => (0, if me = root then r.count else 0)
  | 5 => (0, 0)
  | _ => (0, r.count)

/-- The others can be reached: a plane is up, the streams to them have numbers left, and none has departed (R302, R305, R308). -/
def State.collReach (s : State) (q : CollRun) : Bool :=
  (s.otherParts q.parts).isEmpty || (!s.noPlane && !(s.otherParts q.parts).any (s.usedUp q.dom) &&
    (s.otherParts q.parts).all ((kfind s.domains q.dom).getD {}).members.contains)

/-- The next packet of a collective waits: its domain is paused, or a plane takes none (R302, R309). -/
def State.collHeld (s : State) (q : CollRun) : Bool :=
  ((kfind s.domains q.dom).getD {}).paused ||
    (s.collReach q && (s.otherParts q.parts).any fun p => s.planeHeld (planeEntry p (CollRec.ofRecord q.record.toNat).send))

/-- The own elements go to the participants that need them, with those that are poisoned (R322, R325; how the data travels is DESIGN CHOICE,
log 77). -/
def State.sendElems (s : State) (q : CollRun) (own : List (Byte × Bool × Bool)) : State :=
  let r := CollRec.ofRecord q.record.toNat
  let at_ := fun (p : Nat) => q.parts.findIdx fun x => x == p
  s.tellParts q.dom r.send q.parts fun p =>
    let x := r.sentTo (at_ p) (at_ s.selfNum) (at_ r.root)
    let part := (own.drop (x.1 * r.size)).take (x.2 * r.size)
    if x.2 = 0 then none
    else some (.collData r.tag (part.map (·.1)) ((List.range x.2).filter fun j => ((part.drop (j * r.size)).take r.size).any fun b => b.2.1))

/-- COLLECTIVE_COMPLETE (R322, R323, R325): the collective in slot `n`. `data` holds, for each participant in their order, its header and its send
buffer, the own ones unread; `ans` lists the others' poisoned elements as participant (`lane`) and element (`value`); flagged, a participant was lost
or a request failed. What the others sent has come in the packets with headers `pkts`: unless the receiver accepts them all (R305), with one at least
from each, nothing completes, nor where a header names another TAG (R325). A header that disagrees otherwise ends it with MISMATCH. A packet that must
wait lets nothing move (R309). -/
def execCollectiveComplete (s : State) : Host.Outcome State Fault Refusal :=
  let c := s.coll s.ev.n
  match c.running with
  | none => .next s
  | some q =>
    let r := CollRec.ofRecord q.record.toNat
    let parts := q.parts
    let me := parts.findIdx fun p => p == s.selfNum
    let len := r.sendLen parts.length * r.size
    let block := fun (p : Nat) => (s.ev.data.drop (p * (128 + len))).take (128 + len)
    let disagrees := (List.range parts.length).any fun p =>
      p != me && headerKey ((block p).take 128) != headerKey (collHeader parts q.record.toNat)
    if s.collHeld q then .next s
    else if s.ev.flag || !s.collReach q then .next ((s.clearRecv q).finishColl s.ev.n c q 16)
    else
    let came := s.acceptAll s.ev.pkts
    let s := came.1
    if !came.2 || !(s.otherParts parts).all (fun p => s.ev.pkts.any fun x => x.src.toNat = p) ||
        !s.ev.pkts.all (fun x => x.dom.toNat = q.dom && parts.contains x.src.toNat) ||
        (List.range parts.length).any (fun p => p != me && headerTag ((block p).take 128) != r.tag) then .next s
    else if disagrees then .next (s.finishColl s.ev.n c q 8)
    else
      let reads := r.op ≠ 3 || r.root = s.selfNum
      let own := if reads then s.heapBytes q.dom r.send len else []
      if own.any fun b => b.2.2 then .next ((s.clearRecv q).finishColl s.ev.n c q 16)
      else
        let el := fun (p j : Nat) =>
          if p = me then elemAt r.size (own.map fun b => (b.1, b.2.1)) j
          else ((elemAt r.size (((block p).drop 128).map fun b => (b, false)) j).1, s.ev.ans.any fun a => a.lane = p && a.value.toNat = j)
        let out := r.results me parts.length (parts.findIdx fun p => p == r.root) el
        let flags := out.foldl (fun f e => f ||| e.2) 0#5
        let bad := out.any fun e => e.1.2
        let w := (s.sendElems q own).heapWrite q.dom r.recv (out.flatMap fun e => (bytesOf r.size e.1.1).map fun b => (b, e.1.2))
        if w.2 then .next ((w.1.clearRecv q).finishColl s.ev.n c q 16)
        else .next (w.1.finishColl s.ev.n c q (256 * flags.toNat + if bad then 4 else 0))

/-- The collective in a slot has run out of its time (R321, R324). -/
def State.collLate (s : State) (n : Nat) : Bool := match (s.coll n).running with
  | none => false
  | some q =>
    let t := (CollRec.ofRecord q.record.toNat).tmoms
    t ≠ 0 && decide (q.start + t * 2400000 ≤ s.cycle)

/-- COLLECTIVE_TIMEOUT (R325): the collective in slot `n` completes with TIMEOUT, its receive buffer zero. -/
def execCollectiveTimeout (s : State) : Host.Outcome State Fault Refusal :=
  match (s.coll s.ev.n).running with
  | none => .next s
  | some q => if s.collLate s.ev.n then .next ((s.clearRecv q).finishColl s.ev.n (s.coll s.ev.n) q 2) else .next s

end Sys2Proof.Machine
end

