-- ==== Sys2Proof/Machine/Control.lean ====
section
/-! DEFINITION. Control flow: NOP, YIELD, EXIT, JOIN, MARK, branches, calls, jumps and votes (R81 to R91). -/

namespace Sys2Proof.Machine

/-- Makes a path the current one. -/
def View.setPath (v : View) (s : State) (p : Path) : State := s.modGroup v.k fun g => { g with cur := some p }

/-- The path `p` goes on at `dest`, after some further beats where the run goes on (R65): not with E, at the 24th instruction of a run, nor where the
quantum ends and another path is ready, one that the instruction has pushed included (R19, R77); at a rotation point it rotates (R77). -/
def View.goOn (v : View) (s : State) (p : Path) (dest : Word) (rotates : Bool) (more : Nat) : Res :=
  let expires := v.g.quantum = 1024 && !rotates && (oldestReady (s.group v.k).stack).isSome
  let late := fun (s : State) => if s.slotE || v.g.runLen = 24 || expires then s else { s with cycle := s.cycle + more }
  if rotates then
    let r := (s.group v.k).rotate p dest
    .went (if r.2 then s.setGroup v.k r.1 else late (s.setGroup v.k r.1)) r.2
  else .went (late (v.setPath s { p with pc := dest })) false

/-- A branch or jump is taken to `dest`: two beats pass before the first instruction there, unless the run ends (R65). -/
def View.goTo (v : View) (s : State) (p : Path) (dest : Word) (rotates : Bool) : Res := v.goOn s p dest rotates 2

/-- NOP (R82). -/
def execNop (s : State) : Host.Outcome State Fault Refusal := issue (fun _ => {}) (fun v => .ok v.s) s

/-- YIELD (R82): a rotation point that ends the run (R80). -/
def execYield (s : State) : Host.Outcome State Fault Refusal :=
  issue (fun _ => {}) (fun v => .went (v.s.setGroup v.k (v.g.rotate v.p v.npc).1) true) s

/-- The lanes of the current path end (R83); a group without lanes retires (R92). -/
def View.exit (v : View) (s : State) : Res :=
  let g := (s.group v.k).exitLanes v.ex
  let s' := s.setGroup v.k g
  .went (if g.live = 0#32 then s'.retireGroup v.k else s'.checkBarriers v.k.tkey) true

/-- EXIT and TEXIT update join records where lanes of a task end: a write, for the fences before it (R220, R233), which waits for a directory under
rebuild (R243). -/
def View.ending (v : View) (body : View → Res) : Res :=
  if v.ex &&& v.g.tasks = 0#32 then body v else v.fenced .write fun v => if v.s.releaseBusy v.core 6 then .hold [] else body v

/-- EXIT (R83): task lanes end FAULTED or KILLED (R278). -/
def execExit (s : State) : Host.Outcome State Fault Refusal :=
  issue (fun _ => {}) (fun v => v.ending fun v =>
    let f := v.g.faultedLanes
    v.exit ((v.s.endTaskLanes v.k (v.ex &&& f) .faulted).endTaskLanes v.k (v.ex &&& ~~~f) .killed)) s

/-- TEXIT (R278): task lanes end normally, with a release at package scope, or FAULTED in a fault's handler. -/
def execTexit (s : State) : Host.Outcome State Fault Refusal :=
  issue (fun _ => {}) (fun v => v.ending fun v =>
    let f := v.g.faultedLanes
    let normal := v.ex &&& v.g.tasks &&& ~~~f
    let s1 := if normal = 0#32 then v.s else v.s.release v.core 6
    v.exit ((s1.endTaskLanes v.k normal .normal).endTaskLanes v.k (v.ex &&& f) .faulted)) s

/-- JOIN (R84). -/
def execJoin (s : State) : Host.Outcome State Fault Refusal :=
  issue (fun _ => {}) (fun v =>
    let st := v.g.stack
    match innermostMark st with
    | none => .ok v.s
    | some i =>
      match st[i]? with
      | none => .ok v.s
      | some m =>
        if m.pc ≠ v.p.pc then .ok v.s
        else if v.ex ||| joinedMask st = m.mask then
          .went (v.s.setGroup v.k { v.g with
            stack := st.take i, cur := some ⟨v.npc, m.mask, m.fmt⟩, quantum := 0 }) false
        else
          match topIdx (fun e => e.isJoined) (st.drop (frameBase st)) with
          | some j =>
            let j := j + frameBase st
            let st' := st.modify j fun e => { e with mask := e.mask ||| v.ex }
            .went (v.s.setGroup v.k (Group.settle { v.g with stack := st' })) true
          | none =>
            if v.g.full then v.whole .rsOverflow
            else
              let st' := st ++ [⟨.path .joined, v.p.pc, v.ex, v.p.fmt⟩]
              .went (v.s.setGroup v.k (Group.settle { v.g with stack := st' })) true) s

/-- MARK (R85). -/
def execMark (i : BitVec 14) (s : State) : Host.Outcome State Fault Refusal :=
  issue (fun _ => {}) (fun v =>
    if v.g.full then v.whole .rsOverflow
    else .ok (v.s.setGroup v.k { v.g with stack := v.g.stack ++ [⟨.mark, target14 v.p.pc i, v.ex, v.p.fmt⟩] })) s

/-- BRA (R86). -/
def execBra (i : BitVec 21) (s : State) : Host.Outcome State Fault Refusal :=
  issue (fun _ => {}) (fun v =>
    let t := target21 v.p.pc i
    v.goTo v.s v.p t (isBackward v.p.pc t)) s

/-- CALL (R86). -/
def execCall (d : Reg) (i : BitVec 14) (s : State) : Host.Outcome State Fault Refusal :=
  issue (fun _ => { names := [d.toNat] }) (fun v =>
    let t := target14 v.p.pc i
    v.goTo (v.wr v.s d.toNat (uniformLanes v.npc)) v.p t (isBackward v.p.pc t)) s

/-- The lanes of exec whose register is zero, or not zero (R87). -/
def View.zeroLanes (v : View) (r : Nat) : Word :=
  let x := v.rd r
  lanesMask ((maskLanes v.ex).filter fun L => x[L] == 0#32)

/-- BRZ and BRNZ, from the lanes that take the branch (R87). -/
def View.branch (v : View) (taken target : Word) : Res :=
  if taken = 0#32 then .ok v.s
  else if taken = v.ex then v.goTo v.s v.p target (isBackward v.p.pc target)
  else if v.g.full then v.whole .rsOverflow
  else
    let s' := v.s.setGroup v.k { v.g with stack := v.g.stack ++ [⟨.path .ready, target, taken, v.p.fmt⟩] }
    v.goOn s' { v.p with ex := v.ex &&& ~~~taken } v.npc (isBackward v.p.pc target) 0

/-- BRZ (R87). -/
def execBrz (d : Reg) (i : BitVec 14) (s : State) : Host.Outcome State Fault Refusal :=
  issue (fun _ => { names := [d.toNat], reads := [d.toNat] }) (fun v =>
    v.branch (v.zeroLanes d.toNat) (target14 v.p.pc i)) s

/-- BRNZ (R87). -/
def execBrnz (d : Reg) (i : BitVec 14) (s : State) : Host.Outcome State Fault Refusal :=
  issue (fun _ => { names := [d.toNat], reads := [d.toNat] }) (fun v =>
    v.branch (v.ex &&& ~~~v.zeroLanes d.toNat) (target14 v.p.pc i)) s

/-- BRANY and BRALL move the whole path or none of it (R88). -/
def View.branchAll (v : View) (takes : Bool) (target : Word) : Res :=
  if takes then v.goTo v.s v.p target (isBackward v.p.pc target) else .ok v.s

/-- BRANY (R88). -/
def execBrany (d : Reg) (i : BitVec 14) (s : State) : Host.Outcome State Fault Refusal :=
  issue (fun _ => { names := [d.toNat], reads := [d.toNat] }) (fun v =>
    v.branchAll (v.zeroLanes d.toNat != v.ex) (target14 v.p.pc i)) s

/-- BRALL (R88). -/
def execBrall (d : Reg) (i : BitVec 14) (s : State) : Host.Outcome State Fault Refusal :=
  issue (fun _ => { names := [d.toNat], reads := [d.toNat] }) (fun v =>
    v.branchAll (v.zeroLanes d.toNat == 0#32) (target14 v.p.pc i)) s

/-- The lanes of exec whose target is `u`. -/
def View.lanesAt (v : View) (t : Lanes Word) (u : Nat) : Word :=
  lanesMask ((maskLanes v.ex).filter fun L => t[L].toNat == u)

/-- JMP and JMPL (R89), with the link register of JMPL. -/
def View.jump (v : View) (a : Nat) (link : Option Nat) : Res :=
  let t := v.rd a
  let bad := lanesMask ((maskLanes v.ex).filter fun L => t[L].toNat % 4 != 0)
  if bad ≠ 0#32 then
    .trap { cause := .align, lanes := bad, addr := t[lowestLane bad].setWidth 64 } v.s
  else
    match rising ((maskLanes v.ex).map fun L => t[L].toNat) with
    | [] => .ok v.s
    | u0 :: us =>
      if 24 < v.g.used + us.length then v.whole .rsOverflow
      else
        let s1 := match link with
          | none => v.s
          | some d => v.wr v.s d (uniformLanes v.npc)
        let s2 := s1.modGroup v.k fun g => { g with
          stack := g.stack ++ us.map fun u => ⟨.path .ready, BitVec.ofNat 32 u, v.lanesAt t u, v.p.fmt⟩ }
        v.goTo s2 { v.p with ex := v.lanesAt t u0 } (BitVec.ofNat 32 u0) (decide (u0 ≤ v.p.pc.toNat))

/-- JMP (R89). -/
def execJmp (a : Reg) (s : State) : Host.Outcome State Fault Refusal :=
  issue (fun _ => { names := [a.toNat], reads := [a.toNat] }) (fun v => v.jump a.toNat none) s

/-- JMPL (R89). -/
def execJmpl (d a : Reg) (s : State) : Host.Outcome State Fault Refusal :=
  issue (fun _ => { names := [d.toNat, a.toNat], reads := [a.toNat] }) (fun v => v.jump a.toNat (some d.toNat)) s

/-- A vote: its result from the lanes of exec whose source is not zero (R90). -/
def vote (d a : Reg) (f : Word → Word → Word) (s : State) : Host.Outcome State Fault Refusal :=
  issue (fun _ => { names := [d.toNat, a.toNat], reads := [a.toNat] }) (fun v =>
    .ok (v.wr v.s d.toNat (uniformLanes (f v.ex (v.ex &&& ~~~v.zeroLanes a.toNat))))) s

/-- VOTE.ANY (R90). -/
def execVoteAny (d a : Reg) (s : State) : Host.Outcome State Fault Refusal :=
  vote d a (fun _ t => if t = 0#32 then 0#32 else 1#32) s
/-- VOTE.ALL (R90). -/
def execVoteAll (d a : Reg) (s : State) : Host.Outcome State Fault Refusal :=
  vote d a (fun ex t => if t = ex then 1#32 else 0#32) s
/-- VOTE.BALLOT (R90). -/
def execVoteBallot (d a : Reg) (s : State) : Host.Outcome State Fault Refusal := vote d a (fun _ t => t) s
/-- VOTE.COUNT (R90). -/
def execVoteCount (d a : Reg) (s : State) : Host.Outcome State Fault Refusal :=
  vote d a (fun _ t => BitVec.ofNat 32 (popcount t)) s
/-- VOTE.FIRST (R90). -/
def execVoteFirst (d a : Reg) (s : State) : Host.Outcome State Fault Refusal :=
  vote d a (fun _ t => if t = 0#32 then 0xFFFFFFFF#32 else BitVec.ofNat 32 (lowestLane t).val) s

end Sys2Proof.Machine
end

