-- ==== Sys2Proof/Machine/Matrix.lean ====
section
/-! DEFINITION. Gangs, the rendezvous latch, matrix operations, the carry and the licence (R184 to R195, R201 to R206, R210). -/

namespace Sys2Proof.Machine

-- ## Classes and shapes (R186)

/-- An operation's class: wc, and whether its accumulator is INT40 (R186). -/
def fmtClass (x : Word) : Option (Nat × Bool) :=
  let a := fmtAF x
  let b := fmtBF x
  if (a = 0 || a = 1 || a = 11) && (b = 0 || b = 1) && fmtAccf x = 0 then some (16, false)
  else if (a = 2 || a = 3) && (b = 2 || b = 3) && fmtAccf x = 0 then some (8, false)
  else if (a = 7 || a = 8) && (b = 7 || b = 8) && fmtAccf x = 1 then some (8, true)
  else if (a = 4 || a = 5 || a = 6) && (b = 4 || b = 5 || b = 6) && fmtAccf x = 0 then some (4, false)
  else if (a = 9 || a = 10) && (b = 9 || b = 10) && fmtAccf x = 1 then some (4, true)
  else none

/-- FMT as an MMA reads it is refused (R107, R186). -/
def fmtBadMma (x : Word) : Bool :=
  fmtReserved x || decide (2 ≤ fmtKsl x) || (fmtClass x).isNone || (fmtAsc x && decide (7 ≤ fmtAF x)) || (fmtBsc x && decide (7 ≤ fmtBF x))

/-- wc (R186). -/
def fmtWc (x : Word) : Nat := ((fmtClass x).map (·.1)).getD 16
/-- The slice S (R186). -/
def fmtS (x : Word) : Nat := 256 / fmtWc x * (1 + fmtKsl x)
/-- The chunk size of R58 (R186). -/
def fmtChunk (x : Word) : Nat := 128 / fmtWc x
/-- N (R186). -/
def fmtN (x : Word) : Nat := if fmtMN x then 64 else 32
/-- nB (R188). -/
def fmtNB (x : Word) : Nat := fmtS x * fmtN x * codeBits (fmtBF x) / 1024
/-- The registers of the B slice. -/
def sliceRegs (fmt : Word) (b : Nat) : List Nat := (List.range (fmtNB fmt)).map (b + ·)

/-- SA and SB (R190). -/
def scaleA (fmt : Word) (k : Nat) : Nat := if fmtAsc fmt then 64 * k / fmtABlk fmt else 0
def scaleB (fmt : Word) (k : Nat) : Nat := if fmtBsc fmt then fmtN fmt * k / fmtBBlk fmt else 0

-- ## GANG (R205)

/-- The groups of a mask of team slots in a group's partition, in ascending slot (R191). -/
def gangMembers (k : GKey) (mask : Nat) : List GKey :=
  ((List.range 24).filter fun j => mask.testBit j).map fun j => ⟨k.slot, k.team, 4 * j + partOf k⟩

/-- Ones of a mask. -/
def bitCount (x : Nat) : Nat := ((List.range 24).filter x.testBit).length

/-- GANG SET (R205). -/
def execGangSet (a : Reg) (s : State) : Host.Outcome State Fault Refusal :=
  issue (fun v =>
    { names := [a.toNat], reads := [a.toNat], unif := [a.toNat], oneBeat := true
      illegal := v.inWindow a.toNat && (maskLanes v.ex).any fun L =>
        let m := ((v.rd a.toNat)[L]).toNat
        natBits m 31 24 ≠ 0 || decide (bitCount m < 2) || decide (6 < bitCount m) }) (fun v =>
    let m := ((v.rd a.toNat)[v.f]).toNat
    let ks := gangMembers v.k m
    if !ks.contains v.k || ks.any fun j => (kfind v.s.groups j).isNone then v.whole .accum
    else
      let s1 := v.s.modGroup v.k fun g => { g with gang := BitVec.ofNat 24 m, rvn := 0#7, gangOk := true, cursor := {} }
      .ok (s1.dropCarry v.core (partOf v.k))) s

/-- A GANG form that changes the cursor or the window of a group with a gang. -/
def gangForm (regs : List Nat) (body : View → Res) (s : State) : Host.Outcome State Fault Refusal :=
  issue (fun _ => { names := regs, reads := regs, unif := regs, oneBeat := true }) (fun v =>
    if !v.g.gangOk then v.whole .accum else body v) s

/-- GANG CUR (R205). -/
def execGangCur (a : Reg) (s : State) : Host.Outcome State Fault Refusal :=
  gangForm (pairRegs a.toNat) (fun v =>
    .ok (v.s.modGroup v.k fun g =>
      { g with cursor := ⟨false, (v.rd a.toNat)[v.f], (v.rd (a.toNat + 1))[v.f], g.cursor.win⟩ })) s

/-- GANG NEAR (R205). -/
def execGangNear (a : Reg) (s : State) : Host.Outcome State Fault Refusal :=
  gangForm (pairRegs a.toNat) (fun v =>
    let x := (v.rd a.toNat)[v.f]
    if x.toNat % 128 ≠ 0 then v.nearWhole .align (some x)
    else if x.getLsbD 31 || decide (v.team.spBytes ≤ x.toNat) then v.nearWhole .nearRange (some x)
    else .ok (v.s.modGroup v.k fun g => { g with cursor := ⟨true, (v.rd (a.toNat + 1))[v.f], x, g.cursor.win⟩ })) s

/-- GANG SCL (R205). -/
def execGangScl (a : Reg) (s : State) : Host.Outcome State Fault Refusal :=
  gangForm [a.toNat] (fun v =>
    .ok (v.s.modGroup v.k fun g => { g with cursor := { g.cursor with win := (v.rd a.toNat)[v.f] } })) s

/-- GANG CLR (R205). -/
def execGangClr (s : State) : Host.Outcome State Fault Refusal :=
  issue (fun _ => { oneBeat := true }) (fun v =>
    let s1 := v.s.modGroup v.k fun g => { g with gang := 0#24, rvn := 0#7, gangOk := false }
    .ok (s1.dropCarry v.core (partOf v.k))) s

-- ## The carry (R193)

/-- A request for the carry, unless the gang holds it or has one queued; a free carry is granted at once. -/
def State.askCarry (s : State) (core part : Nat) (g : GangId) : State :=
  let p := s.part core part
  if p.carry = some g || p.carryQ.contains g then s
  else
    let s1 := s.modPart core part fun p => { p with carryQ := p.carryQ ++ [g] }
    if p.carry.isNone then s1.sooner [⟨.carryGrant, { core := core, part := part }⟩] else s1

/-- CARRY_GRANT (R193): the free carry of partition `part` of core `core` goes to the oldest request. -/
def execCarryGrant (s : State) : Host.Outcome State Fault Refusal :=
  .next (s.modPart s.ev.core s.ev.part fun p =>
    match p.carry, p.carryQ with
    | none, g :: rest => { p with carry := some g, carryQ := rest }
    | _, _ => p)

/-- CTAKE (R210). -/
def execCtake (s : State) : Host.Outcome State Fault Refusal :=
  issue (fun _ => { oneBeat := true }) (fun v =>
    match v.g.gangId v.k with
    | none => v.whole .accum
    | some g => .ok (v.s.askCarry v.core (partOf v.k) g)) s

/-- CPASS (R210). -/
def execCpass (d : Reg) (s : State) : Host.Outcome State Fault Refusal :=
  issue (fun _ => { names := [d.toNat], oneBeat := true }) (fun v =>
    let p := v.s.part v.core (partOf v.k)
    let give := fun (s : State) (x : Word) => Res.ok (v.wr s d.toNat (uniformLanes x))
    if (v.g.gangId v.k).isNone || p.carry ≠ v.g.gangId v.k then give v.s 2#32
    else match p.carryQ with
      | [] => give v.s 1#32
      | g :: rest => give (v.s.modPart v.core (partOf v.k) fun p => { p with carry := some g, carryQ := rest }) 0#32) s

-- ## The licence (R194)

/-- The core may run matrix operations. -/
def Pair.licensed (p : Pair) (core : Nat) : Bool := p.licence = some core && !p.lrelp && !p.ldrop

/-- A rendezvous asks for the licence; of two requests of one cycle that of the lower deck comes first (R194). A fenced core asks no more: its twin
has the licence free of contest (R368). -/
def State.askLicence (s : State) (core : Nat) : State :=
  s.modPair core fun p =>
    if p.licensed core || p.wants.contains core || (s.core core).fenced then p
    else { p with
      wants := if p.askedAt = s.cycle && core % 512 < 256 then core :: p.wants else p.wants ++ [core]
      askedAt := s.cycle }

/-- The holder gives up the licence; its own requests, and that of a rendezvous that waits on its core, come after its twin's (R194). -/
def State.giveUp (s : State) (core : Nat) : State :=
  s.modPair core fun p =>
    { p with
      licence := none, lrelp := false, ldrop := false
      wants := p.wants.filter (· ≠ core) ++ (if (s.hasLatch core && !(s.core core).fenced) || p.wants.contains core then [core] else []) }

/-- LICENCE_GRANT (R194): the free licence of the pair of core `core` goes to the core that asked first. -/
def execLicenceGrant (s : State) : Host.Outcome State Fault Refusal :=
  .next (s.modPair s.ev.core fun p =>
    match p.licence, p.wants with
    | none, c :: rest => { p with licence := some c, wants := rest, lrelp := false, ldrop := false }
    | _, _ => p)

/-- Idle cycles of a core's matrix units (R210). -/
def State.matIdleFor (s : State) (core : Nat) : Nat := if s.matIdle core then s.cycle - (s.core core).idleFrom else 0

/-- LICENCE_IDLE_RELEASE (R194): core `core` holds the licence, its units have been idle for 4,096 cycles, and its twin
asks; idle cycles before the request count too (DESIGN CHOICE, log 67). -/
def execLicenceIdleRelease (s : State) : Host.Outcome State Fault Refusal :=
  let c := s.ev.core
  let p := s.pair c
  if p.licence = some c && p.wants.contains (twinOf c) && decide (4096 ≤ s.matIdleFor c) then .next (s.giveUp c) else .next s

/-- LICENCE_RELEASE (R194): a release marked for core `core` takes effect once its queues are empty. -/
def execLicenceRelease (s : State) : Host.Outcome State Fault Refusal :=
  let c := s.ev.core
  let p := s.pair c
  if p.licence = some c && (p.lrelp || p.ldrop) && s.matIdle c then .next (s.giveUp c) else .next s

/-- LREL (R210). -/
def execLrel (s : State) : Host.Outcome State Fault Refusal :=
  issue (fun _ => { oneBeat := true }) (fun v =>
    .ok (if (v.s.pair v.core).licence = some v.core then v.s.modPair v.core fun p => { p with lrelp := true } else v.s)) s

/-- LSTAT (R210). -/
def execLstat (d : Reg) (s : State) : Host.Outcome State Fault Refusal :=
  issue (fun _ => { names := [d.toNat], oneBeat := true }) (fun v =>
    let p := v.s.part v.core (partOf v.k)
    let q := v.s.pair v.core
    let gang := v.g.gangId v.k
    let bit := fun (b : Bool) (n : Nat) => if b then (1#32 <<< n : Word) else 0#32
    let x := (BitVec.ofNat 32 (min 0xFFFF (v.s.matIdleFor v.core)) <<< 16) |||
      bit (p.carryQ.any fun g => gang = some g) 7 ||| bit (gang.isSome && p.carry = gang) 6 |||
      bit (q.lrelp && q.licence = some v.core) 3 ||| v.s.licence v.core
    .ok (v.wr v.s d.toNat (uniformLanes x))) s

-- ## MMA (R206)

/-- The A code of an image in the scratchpad (R189). -/
def Tensor.imageCode (t : Tensor) : Nat := if t.exp = 0 then t.ef else 0

/-- The record and cursor conditions of R189 that raise ACCUM. A record with EXP = 0, EF = 11 and the A code 11 passes, and its elements, which have
no scales, are BF16 bits as they stand (DESIGN CHOICE, log 73). -/
def badCursor (t : Tensor) (c : Cursor) (fmt : Word) (k : Nat) : Bool :=
  if c.near then
    fmtAF fmt ≠ t.imageCode || fmtAF fmt = 11 || decide (t.rows < 64) || decide (t.box.headD 1 < c.c0.toNat + k)
  else
    !((t.exp = 0 && t.ef = fmtAF fmt) || (t.exp = 1 && t.layer = 2 && fmtAF fmt = 0 && !fmtAsc fmt) || (t.exp = 2 && fmtAF fmt = 11))

/-- The window conditions of R190 that raise ACCUM. -/
def badScales (c : Cursor) (fmt : Word) (k : Nat) : Bool :=
  (fmtAsc fmt && k % fmtABlk fmt ≠ 0) || (fmtBsc fmt && k % fmtBBlk fmt ≠ 0) || ((fmtAsc fmt || fmtBsc fmt) && c.win = 0xFFFFFFFF#32)

/-- The A image of the near mode leaves the scratchpad (R189). -/
def imageOutside (t : Tensor) (c : Cursor) (sp : Nat) : Bool := c.near && decide (sp < c.c1.toNat + 64 * t.rowB)

/-- The scale window leaves the scratchpad (R190). -/
def scalesOutside (c : Cursor) (fmt : Word) (k sp : Nat) : Bool :=
  (fmtAsc fmt || fmtBsc fmt) && (c.win.getLsbD 31 || decide (sp < c.win.toNat + scaleA fmt k + scaleB fmt k))

/-- The checks of a record, cursor and window (R189, R190): the cause, and the address if there is one. -/
def mmaFault (t : Tensor) (c : Cursor) (fmt : Word) (k sp : Nat) : Option (Cause × Option Word) :=
  if badCursor t c fmt k || badScales c fmt k then some (.accum, none)
  else if imageOutside t c sp then some (.nearRange, some c.c1)
  else if scalesOutside c fmt k sp then some (.nearRange, some c.win)
  else none

/-- The operand sets agree field by field (R192). -/
def Latch.agrees (l : Latch) (d a fmt : Word) (c : Cursor) (payload : Nat) (rvn : BitVec 7) : Bool :=
  l.d = d && l.a = a && l.fmt = fmt && l.cursor = c && l.payload = payload && l.rvn = rvn

/-- The arrival of a member: the rendezvous opens or is joined, and the carry and the licence are asked for (R192 to R194). -/
def State.arrive (s : State) (core part : Nat) (l : Latch) (a : Arrival) : State :=
  let s1 := s.modPart core part fun p =>
    if p.latches.any fun x => x.gang = l.gang then
      { p with latches := p.latches.map fun x => if x.gang = l.gang then { x with arrivals := x.arrivals ++ [a] } else x }
    else { p with latches := p.latches ++ [{ l with arrivals := [a] }] }
  (s1.askLicence core).askCarry core part l.gang

/-- MMA (R206): after its checks the member waits at the latch of its gang, and RENDEZVOUS_COMPLETE issues it, with the record as the first arrival
finds it (R192; DESIGN CHOICE, log 85). -/
def execMma (p : Pfx) (d a b : Reg) (s : State) : Host.Outcome State Fault Refusal :=
  issue (fun v =>
    let slice := sliceRegs v.p.fmt b.toNat
    { pfx := p, names := d.toNat :: a.toNat :: slice, reads := [d.toNat, a.toNat], late := slice, unif := [d.toNat, a.toNat], oneBeat := true
      illegal := fmtBadMma v.p.fmt || ((payload p).getLsbD 0 && fmtMN v.p.fmt) || decide (128 < b.toNat + fmtNB v.p.fmt) ||
        v.badHandle a.toNat }) (fun v =>
    let x := (v.rd d.toNat)[v.f]
    let h := (v.rd a.toNat)[v.f]
    let fmt := v.p.fmt
    match v.g.gangId v.k with
    | none => v.whole .accum
    | some gang =>
      if !v.team.tileValid x then v.whole .accum
      else
        let r := v.team.handleRecord h
        let k := bitCount v.g.gang.toNat * fmtS fmt
        match mmaFault (Tensor.ofRecord r) v.g.cursor fmt k v.team.spBytes with
        | some (c, at_) => v.nearWhole c at_
        | none => v.fenced .async fun v =>
          let part := partOf v.k
          let l : Latch := ⟨gang, x, h, fmt, v.g.cursor, (payload p).toNat, v.g.rvn, r, []⟩
          let here : Arrival := ⟨v.k, v.p, v.npc, v.g.wbasev + b.toNat, v.s.slotW.toNat⟩
          match (v.s.part v.core part).latches.find? fun y => y.gang = gang with
          | none => .await fun s => s.arrive v.core part l here
          | some y =>
            if y.arrivals.any fun z => z.key = v.k then .hold []
            else if y.agrees x h fmt v.g.cursor (payload p).toNat v.g.rvn then .await fun s => s.arrive v.core part l here
            else .trap { cause := .uniform, lanes := v.ex } (v.s.emptyLatch v.k gang .uniform)) s

/-- The slice registers of an arrival have no write on its way (R69, R192). -/
def State.sliceReady (s : State) (l : Latch) (a : Arrival) : Bool :=
  (s.group a.key).pend.all fun w => !(w.left.isNone && w.mask ≠ 0#32 && decide (a.breg ≤ w.reg) && decide (w.reg < a.breg + fmtNB l.fmt))

/-- Every member of the gang has joined, and carry, licence, queue and slices allow the operation (R192). -/
def State.meets (s : State) (core part : Nat) (l : Latch) : Bool :=
  let p := s.part core part
  (gangMembers ⟨l.gang.team.slot, l.gang.team.team, part⟩ l.gang.mask.toNat).all (fun k => l.arrivals.any fun a => a.key = k) &&
    p.carry = some l.gang && (s.pair core).licensed core && decide (p.matQ.length < 4) && l.arrivals.all (s.sliceReady l)

/-- The arrivals in the order of the members. -/
def Latch.inOrder (l : Latch) (part : Nat) : List Arrival :=
  (gangMembers ⟨l.gang.team.slot, l.gang.team.team, part⟩ l.gang.mask.toNat).filterMap fun k => l.arrivals.find? fun a => a.key = k

/-- A cursor after an operation with the advance bit (R189, R190). -/
def Cursor.advance (c : Cursor) (fmt : Word) (k : Nat) : Cursor :=
  { c with c0 := c.c0 + BitVec.ofNat 32 k, win := c.win + BitVec.ofNat 32 (scaleA fmt k + scaleB fmt k) }

/-- A member's MMA issues (R192): its RVN adds 1, its open batch grows, its cursor advances, and its path goes on. -/
def State.issueMember (s : State) (l : Latch) (k : Nat) (a : Arrival) : State :=
  let g0 := s.group a.key
  let s1 : State := { s with issued := s.issued + 1, slotW := BitVec.ofNat 3 a.w }
  let s2 := s1.modGroup a.key fun g =>
    { (g.counted s.issued).openedMat with
      rvn := g.rvn + 1#7
      cursor := if l.payload.testBit 1 then g.cursor.advance l.fmt k else g.cursor
      cur := some { a.path with pc := a.npc } }
  (s2.finish a.key 0 true).stepped a.key g0 false

/-- RENDEZVOUS_COMPLETE (R192): the rendezvous of the gang of group `key` completes. A tile handle that is no longer valid raises ACCUM in
every member. The slices and what the operation may see of memory are taken as they stand, and without what the members have written since their last
FENCE.ASYNC (R201; log 10). -/
def execRendezvousComplete (s : State) : Host.Outcome State Fault Refusal :=
  let core := s.coreOf s.ev.key
  let part := partOf s.ev.key
  match (s.part core part).latches.find? fun l => l.arrivals.any fun a => a.key = s.ev.key with
  | none => .next s
  | some l =>
    if !s.meets core part l then .next s
    else if !(s.team l.gang.team).tileValid l.d then .next (s.emptyLatch s.ev.key l.gang .accum)
    else
      let as_ := l.inOrder part
      let k := as_.length * fmtS l.fmt
      let members := as_.map fun a =>
        let g := s.group a.key
        g.matMember a.key ((List.range (fmtNB l.fmt)).map fun i => g.read (a.breg + i)) a.breg
      let op : MatOp :=
        { id := s.fresh, team := l.gang.team, members := members, handle := l.d, fmt := l.fmt, half := l.payload.testBit 0
          cursor := l.cursor, record := l.record
          old := some ((s.sight l.gang.team core).undo l.gang.team core (s.notes.filter fun x => as_.any fun a => a.key = x.key)) }
      let s1 : State := { s with fresh := s.fresh + 1 }
      let s2 := s1.modPart core part fun p =>
        { p with matQ := p.matQ ++ [op], latches := p.latches.filter fun x => x.gang ≠ l.gang }
      let s3 := s2.modTeam l.gang.team fun x => { x with usedMatrix := true }
      let s4 := as_.foldl (fun s a => s.issueMember l k a) s3
      .next { s4 with cycle := s4.cycle + 1 }

-- ## The operation (R185, R187 to R190)

/-- MATRIX_OPERATION_START (R185): the head of the queue of partition `part` of core `core` starts, and TAR is sampled. -/
def execMatrixOperationStart (s : State) : Host.Outcome State Fault Refusal :=
  let c := s.ev.core
  match (s.part c s.ev.part).matQ with
  | [] => .next s
  | o :: rest =>
    if o.stn.isSome || o.tar.isSome || s.opWaits c o then .next s
    else .next (s.modPart c s.ev.part fun p => { p with matQ := { o with tar := some (max 0x2000 (s.pair c).tar) } :: rest })

/-- Cycles of an operation at the TAR sampled (R185). -/
def MatOp.cycles (o : MatOp) : Nat :=
  let t := fmtN o.fmt * (o.members.length * fmtS o.fmt) * fmtWc o.fmt / 64
  (t * 65536 + o.tar.getD 65536 - 1) / o.tar.getD 65536

/-- A byte of scale, with its status (R190). -/
def State.scaleByte (s : State) (mv : Mover) (o : Nat) : Nat × Nat :=
  match mv.mix s (spadPlace + o) (State.spadMarked mv.team o 1) with
  | (b, 0) :: _ => (b.toNat, 0)
  | (_, st) :: _ => (0xFF, st)
  | [] => (0xFF, 0)

/-- A member's slice, each word of a lane as it was at the rendezvous or as its register is now (R201). -/
def State.sliceSeen (s : State) (id : Nat) (m : MatMember) : List (Lanes Word) :=
  let now := s.group m.key
  if m.orphan then m.slice
  else m.slice.zipIdx.map fun r => lanesOf fun L =>
    if Config.sees id (2 ^ 62 + (m.key.g * 1024 + r.2) * 32 + L.val) then r.1[L] else (now.read (m.breg + r.2))[L]

/-- The elements of row `m` of A from coordinate c0 on, with the status of each (R189). -/
def State.aRow (s : State) (mv : Mover) (t : Tensor) (c : Cursor) (k m : Nat) : List (Nat × Nat) :=
  if c.near then
    let bs := s.imageRow mv t c.c1.toNat m
    (List.range k).map fun i =>
      let bit := (c.c0.toNat + i) * t.w'
      let e := gathered ((bs.drop (bit / 8)).take ((bit % 8 + t.w' + 7) / 8))
      (if e.2 = 0 then e.1 / 2 ^ (bit % 8) % 2 ^ t.w' else 0, e.2)
  else
    let x1 := c.c1.toInt + m
    if t.ndim = 1 then
      (if x1 = 0 || t.oobf = 3 then s.rowElements mv t c.c0.toInt k [0, 0, 0, 0, 0] else List.replicate k (t.fillValue, 0))
    else s.rowElements mv t c.c0.toInt k [x1, 0, 0, 0, 0]

/-- The column `n` of a member's slice: its S elements (R188). -/
def sliceColumn (fmt : Word) (slice : List (Lanes Word)) (n : Nat) : List Nat :=
  let w := codeBits (fmtBF fmt)
  let words := fmtS fmt * w / 32
  let x := ofBytes ((List.range words).flatMap fun j =>
    let q := n * words + j
    bytesOf 4 (((slice.getD (q / 32) (uniformLanes 0#32))[Fin.ofNat 32 q]).toNat))
  (List.range (fmtS fmt)).map fun i => x / 2 ^ (w * i) % 2 ^ w

/-- The value of an A element: code 11 arrives expanded to BF16 (R51, R186). -/
def aValue (code x : Nat) : FVal := if code = 11 then bf16.decode x else codeValue code x

/-- An element with its scale byte, 127 where it has none (R49). -/
abbrev Scaled := FVal × Nat

/-- The product of two elements under their scales (R49, R59): under a NaN scale it is NaN, and signals where the elements' product does. -/
def mulScaled (x y : Scaled) : FVal :=
  let p := x.1.mul y.1
  if x.2 = 255 || y.2 = 255 then .nan p.isSig else p.scale ((x.2 : Int) + y.2 - 254)

/-- The chunks of R58 in a floating accumulator. -/
def floatChunks (c : Nat) : Nat → Nat × Flags → List FVal → Nat × Flags
  | 0, acc, _ => acc
  | n + 1, acc, ps =>
    if ps.isEmpty then acc
    else
      let r := fE8m31.rne (sumTerms (fE8m31.decode acc.1 :: ps.take c))
      floatChunks c n (r.1, acc.2 ||| r.2) (ps.drop c)

/-- The chunks of R58 in an INT40 accumulator, and whether one was clamped (R45). -/
def intChunks (c : Nat) : Nat → Int × Bool → List Int → Int × Bool
  | 0, acc, _ => acc
  | n + 1, acc, ps =>
    if ps.isEmpty then acc
    else
      let t := (ps.take c).foldl (· + ·) acc.1
      let r := clampInt (-(2 ^ 39 - 1)) (2 ^ 39 - 1) t
      intChunks c n (r, acc.2 || r ≠ t) (ps.drop c)

/-- A cell after the operation: its new bits, and its status (R58, R187, R199). -/
def cellAfter (fmt : Word) (c : Nat) (as_ bs : List Scaled) : Nat × Nat :=
  if ((fmtClass fmt).map (·.2)).getD false then
    let r := intChunks (fmtChunk fmt) as_.length (signedOf 40 c, false) ((as_.zip bs).map fun p => p.1.1.units 0 * p.2.1.units 0)
    ((BitVec.ofInt 40 r.1).toNat, if r.2 then stAccovf else 0)
  else
    let r := floatChunks (fmtChunk fmt) as_.length (c, 0#5) ((as_.zip bs).map fun p => mulScaled p.1 p.2)
    (r.1, 256 * r.2.toNat)

/-- The A side of an operation: the values of each row, and the status (R189, R190). -/
def State.aSide (s : State) (mv : Mover) (o : MatOp) (k : Nat) : List (List Scaled) × Nat :=
  let t := Tensor.ofRecord o.record
  let kA := fmtABlk o.fmt
  let rows := (List.range 64).map fun m =>
    let es := s.aRow mv t o.cursor k m
    let scs := if fmtAsc o.fmt then (List.range (k / kA)).map fun j => s.scaleByte mv (o.cursor.win.toNat + m * (k / kA) + j) else []
    let vals := es.zipIdx.map fun e =>
      (aValue (fmtAF o.fmt) e.1.1, if fmtAsc o.fmt then (scs.getD (e.2 / kA) (127, 0)).1 else 127)
    (vals, (es.foldl (fun st e => st ||| e.2) 0) ||| (scs.foldl (fun st e => st ||| e.2) 0))
  (rows.map (·.1), rows.foldl (fun st r => st ||| r.2) 0)

/-- The B side of an operation: the values of each column, and the status (R188, R190). -/
def State.bSide (s : State) (mv : Mover) (o : MatOp) (k : Nat) : List (List Scaled) × Nat :=
  let kB := fmtBBlk o.fmt
  let base := o.cursor.win.toNat + scaleA o.fmt k
  let slices := o.members.map (s.sliceSeen o.id)
  let cols := (List.range (fmtN o.fmt)).map fun n =>
    let es := slices.flatMap fun m => sliceColumn o.fmt m n
    let scs := if fmtBsc o.fmt then (List.range (k / kB)).map fun j => s.scaleByte mv (base + n * (k / kB) + j) else []
    let vals := es.zipIdx.map fun e =>
      (codeValue (fmtBF o.fmt) e.1, if fmtBsc o.fmt then (scs.getD (e.2 / kB) (127, 0)).1 else 127)
    (vals, scs.foldl (fun st e => st ||| e.2) 0)
  (cols.map (·.1), cols.foldl (fun st r => st ||| r.2) 0)

/-- The tile after an operation, and the operation's status (R187, R199). -/
def State.runOp (s : State) (mv : Mover) (o : MatOp) : Tile × Nat :=
  let t := (s.team o.team).tile o.handle
  let k := o.members.length * fmtS o.fmt
  let a := s.aSide mv o k
  let b := s.bSide mv o k
  let shift := if o.half then 32 else 0
  let new := a.1.zipIdx.flatMap fun row => b.1.zipIdx.map fun col =>
    let i := 64 * row.2 + col.2 + shift
    (i, cellAfter o.fmt (t.cell i) row.1 col.1)
  let kept := t.cells.filter fun c => c.1 % 64 < shift || shift + fmtN o.fmt ≤ c.1 % 64
  ({ t with cells := kept ++ new.filterMap fun c => if c.2.1 = 0 then none else some (c.1, BitVec.ofNat 40 c.2.1) },
    new.foldl (fun st c => st ||| c.2.2) (a.2 ||| b.2))

/-- The tile of A that an operation reads in the global mode, and its origin (R189). -/
def MatOp.aTile (o : MatOp) : Tensor × List Int :=
  ({ Tensor.ofRecord o.record with box := [o.members.length * fmtS o.fmt, 64, 1, 1, 1, 1] }, [o.cursor.c0.toInt, o.cursor.c1.toInt, 0, 0, 0, 0])

/-- No row of A is row 0 of a tensor of one dimension, which has no other: nothing is read, unless elements are clamped (R165, R170, R189). -/
def MatOp.rowless (o : MatOp) : Bool :=
  let t := o.aTile.1
  let c1 := o.cursor.c1.toInt
  t.ndim = 1 && t.oobf ≠ 3 && (decide (0 < c1) || decide (c1 < -63))

/-- The address ranges of A that an operation reads in the global mode (R165, R189). -/
def MatOp.aRanges (o : MatOp) : List (Nat × Nat) := if o.cursor.near || o.rowless then [] else o.aTile.1.readRanges o.aTile.2

/-- The mover of an operation in a step whose argument brings what a peer has answered (R164, R189, R201). -/
def State.opMover (s : State) (core : Nat) (o : MatOp) (a : EvArg) : Mover :=
  let r := Tensor.ofRecord o.record
  { core := core, team := o.team, space := (s.team o.team).space .user, pol := r.pol, reach := !a.flag && s.peerReach o.team r.peer, dest := r.peer
    peer := (a.m, a.data), answers := a.ans, old := o.old.map fun x => (o.id, x) }

/-- A lies in a column in a refresh window, behind a directory under rebuild, or with a peer to which its packets must wait (R148, R206, R243, R302,
R308). -/
def State.opPaused (s : State) (core : Nat) (o : MatOp) : Bool :=
  let t := o.aTile.1
  !o.cursor.near && ((t.layer = 2 && (s.pair core).refresh) || s.peerHeld o.team t o.aRanges ||
    s.asksRange (s.opMover core o {}) t.layer t.scope false o.aRanges)

/-- What an operation asks of a peer, or of the own heap's absent pages (R300, R301, R304); the lines of A that it reads are cached (R206, R215). -/
def State.askForA (s : State) (mv : Mover) (o : MatOp) : State :=
  if o.cursor.near then s
  else ((s.askAbsent o.team o.aTile.1 o.aTile.2 .read).askPeer o.team o.aTile.1 o.aTile.2).fillReads mv o.aTile.1.layer o.aRanges

/-- The column bytes in error that an expanding operation meets (R147, R189), one fault record for each. -/
def State.aErrors (s : State) (mv : Mover) (o : MatOp) : List Nat :=
  let t := o.aTile.1
  if o.cursor.near || t.exp ≠ 1 || o.rowless then []
  else ((List.range 64).flatMap fun row => s.expandErrors mv t o.cursor.c0.toInt (t.box.headD 1) (t.rowCoords o.aTile.2 row)).eraseDups

/-- MATRIX_OPERATION_COMPLETE (R187, R199, R200): the operation that partition `part` of core `core` runs reads A and its scales, writes its
tile and leaves the queue. A bad scale or element byte of an expanding record is recorded (R147). For A in a peer's memory, `data` is the peer's
heap from offset `m` on, `ans` lists the chunks that it has refused, and a flag says that the peer could not be reached; the packets with
headers `pkts` have brought them (R305). -/
def execMatrixOperationComplete (s : State) : Host.Outcome State Fault Refusal :=
  let core := s.ev.core
  match (s.part core s.ev.part).matQ with
  | [] => .next s
  | o :: _ =>
    if o.stn.isSome || o.tar.isNone || s.opWaits core o || s.opPaused core o then .next s
    else
      let came := if o.cursor.near then (s, true) else s.takeAnswers o.team o.aTile.1 s.ev
      if !came.2 then .next came.1 else
      let mv := came.1.opMover core o s.ev
      let r := came.1.runOp mv o
      let s1 := ((came.1.aErrors mv o).foldl (fun s a => s.healthRecord 5 a core) (came.1.askForA mv o)).modTile o.team o.handle fun t =>
        { t with cells := r.1.cells }
      .next (s1.leaveQueue core s.ev.part o r.2)

end Sys2Proof.Machine
end

