-- ==== Sys2Proof/Machine/Sync.lean ====
section
/-! DEFINITION. Barriers, monitors, join records, futures, deques and bound slots (R263 to R273, R279 to R288). -/

namespace Sys2Proof.Machine

-- ## Barriers (R266 to R268)

/-- The scope at which a barrier orders memory (R268): 0 team, 1 cluster, 2 grid. -/
def LaunchRec.barrierScope (r : LaunchRec) (which : Nat) : Nat := match which with
  | 0 => 1
  | 1 => 3
  | _ => if r.coloc = 0 then 6 else r.coloc

/-- The lanes of exec arrive at a barrier: a release at its scope (R267, R268). -/
def View.arrive (v : View) (s : State) (which : Nat) : State :=
  (s.release v.core ((s.record v.k.tkey).barrierScope which)).modGroup v.k fun g => g.setArrived which (g.arrived which ||| v.ex)

/-- The release of an arrival waits for a directory under rebuild (R243). -/
def View.arriveWaits (v : View) (which : Nat) : Bool := v.s.releaseBusy v.core ((v.s.record v.k.tkey).barrierScope which)

/-- Some lane of exec has arrived in the open phase (R266). -/
def View.hasArrived (v : View) (which : Nat) : Bool := v.g.arrived which &&& v.ex ≠ 0#32

/-- BAR TEAM, CLU and GRID (R267); a NOP in a wave (R266). -/
def barrier (which : Nat) (s : State) : Host.Outcome State Fault Refusal :=
  issue (fun _ => { oneBeat := true }) (fun v =>
    if v.g.wave then .ok v.s
    else if v.hasArrived which then .hold []
    else if v.g.full then .trap { cause := .rsOverflow, lanes := v.ex } v.s
    else if v.arriveWaits which then .hold []
    else
      let s1 := (v.arrive v.s which).modGroup v.k fun g => g.suspend v.p v.npc (.barrier which)
      .went (s1.checkBarriers v.k.tkey) true) s

/-- BAR.TEAM. -/
def execBarTeam (s : State) : Host.Outcome State Fault Refusal := barrier 0 s
/-- BAR.CLU. -/
def execBarClu (s : State) : Host.Outcome State Fault Refusal := barrier 1 s
/-- BAR.GRID. -/
def execBarGrid (s : State) : Host.Outcome State Fault Refusal := barrier 2 s

/-- BAR.ARRIVE (R267). -/
def execBarArrive (d : Reg) (s : State) : Host.Outcome State Fault Refusal :=
  issue (fun _ => { names := [d.toNat], oneBeat := true }) (fun v =>
    if v.g.wave then .ok v.s
    else if v.hasArrived 0 || v.arriveWaits 0 then .hold []
    else
      let s1 := v.arrive (v.wr v.s d.toNat (uniformLanes v.team.teamC)) 0
      .ok (s1.checkBarriers v.k.tkey)) s

/-- BAR.WAIT (R267). -/
def execBarWait (a : Reg) (s : State) : Host.Outcome State Fault Refusal :=
  issue (fun _ => { names := [a.toNat], reads := [a.toNat], oneBeat := true }) (fun v =>
    if v.g.wave then .ok v.s
    else if 2 ^ 31 ≤ (v.team.teamC - (v.rd a.toNat)[v.f] - 1#32).toNat then .hold []
    else .ok v.s) s

-- ## Monitors (R270 to R273)

/-- A path of the group is suspended in MONW. -/
def Group.inMonw (g : Group) : Bool := g.stack.any fun e => match e.kind with
  | .path (.suspended (.monw _ _)) => true
  | _ => false

/-- An armed monitor records a reason, which only a lower one replaces (R271). -/
def Monitor.record (m : Monitor) (r : BitVec 2) : Monitor :=
  if !m.armed then m
  else match m.reason with
    | none => { m with reason := some r }
    | some q => { m with reason := some (if r.toNat < q.toNat then r else q) }

/-- Records a reason in a group; the wait of its MONW paths ends (R272). -/
def State.monEvent (s : State) (k : GKey) (r : BitVec 2) : State :=
  let s1 := s.modGroup k fun g => { g with mon := g.mon.record r }
  let g := s1.group k
  if g.mon.reason.isSome && g.inMonw then s1.sooner [⟨.pathReady, { key := k }⟩] else s1

/-- Writes the data of a monitor's load, the same in every active lane; an absent page sets NRM of lane f (R270). -/
def View.writeLoadedAll (v : View) (s : State) (d n : Nat) (absent : Bool) (bs : List Byte) : State :=
  v.writeLoaded s d n v.ex (if absent then 1#32 <<< v.f.val else 0#32) (uniformLanes bs)

/-- The address of the line that MONA arms. -/
def monLine (a : DWord) : DWord := a &&& ~~~0x7F#64

/-- MONA (R270): the line is kept in the core's L1 whatever the policy; an absent page is an event of reason 3 (R271, R272). -/
def execMona (p : Pfx) (d a : Reg) (_scope : BitVec 3) (z : BitVec 2) (pol : BitVec 2) (s : State) :
    Host.Outcome State Fault Refusal :=
  let n := 2 ^ z.toNat
  issue (fun _ => { pfx := p, names := accessRegs d.toNat a.toNat n, reads := pairRegs a.toNat, oneBeat := true }) (fun v => v.fenced .read fun v =>
    let x := (v.gaddr a.toNat p)[v.f]
    let arm := fun (s : State) (m : Monitor) => s.modGroup v.k fun g => { g with mon := m }
    match v.s.access v.core v.space x n .read with
    | .bad _ c => .trap { cause := c, lanes := v.ex, addr := x } v.s
    | .absent _ => .ok (v.writeLoadedAll ((arm v.s ⟨true, monLine x, none, none⟩).monEvent v.k 3#2) d.toNat n true (List.replicate n 0#8))
    | .ok fr =>
      if v.s.mustAsk v.core 1 fr then .hold []
      else
      let s1 := arm (v.s.loaded v.core fr n (if pol = 2#2 then 0 else pol.toNat)) ⟨true, monLine x, some (lineOf fr.pa), none⟩
      .ok (v.writeLoadedAll s1 d.toNat n false (v.s.loadBytes v.core fr n))) s

/-- MONW (R272). -/
def execMonw (d a : Reg) (s : State) : Host.Outcome State Fault Refusal :=
  issue (fun _ => { names := [d.toNat, a.toNat], reads := [a.toNat], oneBeat := true }) (fun v =>
    let t := ((v.rd a.toNat)[v.f]).toNat
    if !v.g.mon.armed then .ok (v.wr v.s d.toNat (uniformLanes 3#32))
    else match v.g.mon.reason with
      | some r =>
        .ok (v.wr (v.s.modGroup v.k fun g => { g with mon := {} }) d.toNat (uniformLanes (r.setWidth 32)))
      | none => v.suspend v.s v.npc (.monw (v.g.wbasev + d.toNat) (if t = 0 then none else some (v.s.cycle + t)))) s

/-- MONITOR_WRITE_WAKE (R271): a write by another agent to line `n` has become visible to the core of group `key`. -/
def execMonitorWriteWake (s : State) : Host.Outcome State Fault Refusal :=
  if s.watched s.ev.key (s.group s.ev.key) = some s.ev.n then .next (s.monEvent s.ev.key 0#2) else .next s

/-- MONITOR_LINE_LOSS (R239, R271): line `n` leaves the L1 of core `core`, or has left it; with a `part` of 2 to 6 because the core's directory of
that level (block to package) recalls every copy that it tracks, which it does not while a directory is being rebuilt (R243). -/
def execMonitorLineLoss (s : State) : Host.Outcome State Fault Refusal :=
  let ks := (s.groups.filter fun kg => s.coreOf kg.1 = s.ev.core && s.watched kg.1 kg.2 = some s.ev.n).map (·.1)
  let s1 := ks.foldl (fun s k => s.monEvent k 1#2) { s with caches := s.caches.filter fun c => !(c.cache == .l1 s.ev.core && c.base / 128 == s.ev.n) }
  .next (if decide (2 ≤ s.ev.part) && s.rebuild.isEmpty then s1.recallLine s.ev.part s.ev.core s.ev.n else s1)

/-- Some MONW of the group has reached its deadline (R272). -/
def Group.monwDue (g : Group) (now : Nat) : Bool := g.stack.any fun e => match e.kind with
  | .path (.suspended (.monw _ (some t))) => decide (t ≤ now)
  | _ => false

/-- MONW_TIMEOUT (R272): the timeout of a MONW of group `key` has run out. -/
def execMonwTimeout (s : State) : Host.Outcome State Fault Refusal :=
  if (s.group s.ev.key).monwDue s.cycle then .next (s.monEvent s.ev.key 2#2) else .next s

/-- Every path that waits in MONW receives the reason and becomes ready, and the monitor is disarmed (R272). -/
def Group.endMonw (g : Group) (r : BitVec 2) : Group :=
  let g1 := g.stack.foldl (fun (g : Group) e => match e.kind with
    | .path (.suspended (.monw reg _)) => g.write reg e.mask (uniformLanes (r.setWidth 32))
    | _ => g) g
  { g1 with
    mon := {}
    stack := g1.stack.map fun e => match e.kind with
      | .path (.suspended (.monw _ _)) => { e with kind := .path .ready }
      | _ => e }

/-- PATH_READY (R76, R265, R272): a suspended path of group `key` whose wait is over becomes ready; a group without a current path takes its
oldest. -/
def execPathReady (s : State) : Host.Outcome State Fault Refusal :=
  .next (s.modGroup s.ev.key fun g =>
    match g.mon.reason, g.inMonw with
    | some r, true =>
      let g1 := g.endMonw r
      if g1.cur.isNone then g1.takeOldest else g1
    | _, _ =>
      match g.stack.findIdx? fun e => e.kind = .path (.suspended .over) with
      | some i => g.wake i
      | none => g)

-- ## Records and futures (R279 to R283)

/-- WLINK with one more waiter (R281). -/
def linkWith (w : Word) (core : Nat) : Word :=
  let mine := 0x80000000#32 ||| BitVec.ofNat 32 core
  if w = 0#32 then mine else if w = mine then w else 0xFFFFFFFF#32

/-- Checks the 16-byte cells of the lanes, in ascending lane order: an absent page counts as invalid, since the access is a read-modify-write (R213, R264). -/
def View.cellLanes (v : View) (a : Nat) (need : Need) : List (Fin 32 × Frame) × List LaneFault :=
  let addr := v.rd2 a
  let r := v.accessLanes addr 16 need
  let faults : List LaneFault := r.2 ++ r.1.filterMap fun p => match p.2 with
    | .absent _ => some ⟨p.1, 3, .pageInvalid, addr[p.1]⟩
    | _ => none
  (r.1.filterMap fun p => match p.2 with
    | .ok f => some (p.1, f)
    | _ => none,
   (maskLanes v.ex).filterMap fun L => faults.find? fun f => f.lane == L)

/-- Records this core as a waiter in the cells (R281). -/
def View.linkCells (v : View) (s : State) (fs : List Frame) : State :=
  fs.foldl (fun s f =>
    let w := BitVec.ofNat 32 (natBits (ofBytes (s.rmwRead f 16)) 127 96)
    s.rmwWrite v.core 6 (some v.k) { f with pa := f.pa + 12 } (bytesOf 4 (linkWith w v.core).toNat)) s

/-- What a TJOIN or an FGET does to memory, for the fences before it: it writes WLINK where a cell is still open (R220, R233, R281). -/
def View.linkKind (v : View) (a : Nat) (isOpen : Nat → Bool) : MemKind :=
  if (v.cellLanes a .read).1.any fun p => isOpen (ofBytes (v.s.rmwRead p.2 16)) then .write else .read

/-- TJOIN (R280); an access at package scope waits for a directory under rebuild (R243). -/
def join (test : Bool) (d a : Reg) (s : State) : Host.Outcome State Fault Refusal :=
  issue (fun _ => { names := d.toNat :: pairRegs a.toNat, reads := pairRegs a.toNat, oneBeat := true }) (fun v => v.fenced (v.linkKind a.toNat fun x => natBits x 31 0 != 0) fun v =>
    let r := v.cellLanes a.toNat .read
    if !r.2.isEmpty then .trap (faultReq r.2 false false) v.s
    else if v.pkgBusy (r.1.map (·.2)) then .hold []
    else
      let seen := v.s.observeAll v.core 16 (r.1.map (·.2))
      let cells := r.1.map fun p => (p, ofBytes (v.s.rmwRead p.2 16))
      let open_ := (cells.filter fun c => natBits c.2 31 0 ≠ 0).map (·.1.2)
      if open_.isEmpty || test then
        let out : Lanes Word := lanesOf fun L => match cells.find? fun c => c.1.1 = L with
          | some (_, x) => BitVec.ofNat 32 ((if natBits x 31 0 = 0 then 0 else 2 ^ 31) + 65536 * natBits x 62 48 + natBits x 47 32)
          | none => 0#32
        .ok (v.wrLater (v.linkCells seen open_) d.toNat v.ex out)
      else if v.g.full then .trap { cause := .rsOverflow, lanes := v.ex } v.s
      else .went ((v.linkCells seen open_).modGroup v.k fun g => g.suspend v.p v.p.pc (.join (open_.map (·.pa)))) true) s

/-- TJOIN. -/
def execTjoin (d a : Reg) (s : State) : Host.Outcome State Fault Refusal := join false d a s
/-- TJOIN.TEST. -/
def execTjoinTest (d a : Reg) (s : State) : Host.Outcome State Fault Refusal := join true d a s

/-- STATE of a future (R281). -/
def futureState (x : Nat) : Nat := natBits x 65 64

/-- One lane of an FPUT on a cell: the state, its old STATE, and WLINK where it filled the cell (R282). -/
def View.fillCell (v : View) (s : State) (f : Frame) (value : DWord) (st : Word) : State × Nat :=
  let x := ofBytes (s.rmwRead f 16)
  if futureState x ≠ 0 then (s.observe v.core f.pa 16, futureState x)
  else
    let new := natBits st.toNat 1 0
    let y := value.toNat + 2 ^ 64 * (if new = 0 then 1 else new) + 2 ^ 66 * natBits x 95 66
    let s1 := s.rmwWrite v.core 6 (some v.k) f (bytesOf 16 y)
    (s1.wakeLinked v.k.slot (BitVec.ofNat 32 (natBits x 127 96)) fun w => match w with
      | .future cs => cs.contains f.pa
      | _ => false, 0)

/-- FPUT (R282): lanes in ascending order; a fill is a release at package scope. It waits for a directory under rebuild (R243). -/
def execFput (d a b : Reg) (s : State) : Host.Outcome State Fault Refusal :=
  issue (fun _ =>
    { names := b.toNat :: (pairRegs d.toNat ++ pairRegs a.toNat), reads := b.toNat :: (pairRegs d.toNat ++ pairRegs a.toNat) }) (fun v => v.fenced .write fun v =>
    let r := v.cellLanes a.toNat .both
    let value := v.rd2 d.toNat
    let st := v.rd b.toNat
    let fills := r.1.any fun p => futureState (ofBytes (v.s.rmwRead p.2 16)) = 0
    let s0 := if fills then v.s.release v.core 6 else v.s
    let t := r.1.foldl (fun (acc : State × KMap (Fin 32) Nat) p =>
      let x := v.fillCell acc.1 p.2 value[p.1] st[p.1]
      (x.1, acc.2 ++ [(p.1, x.2)])) (s0, [])
    let out : Lanes Word := lanesOf fun L => BitVec.ofNat 32 ((kfind t.2 L).getD 0)
    if !r.1.isEmpty && (v.s.releaseBusy v.core 6 || v.pkgBusy (r.1.map (·.2))) then .hold [] else laneOutcome r.2 false (v.wrLater t.1 b.toNat (lanesMask (r.1.map (·.1))) out)) s

/-- The registers of the window that a live mask names (R283). -/
def liveRegs (m : Word) : List Nat := (List.range 32).filter m.toNat.testBit

/-- The group's work that a park waits for: loads and other results on their way, copies, matrix operations, and remote work (R284). -/
def View.draining (v : View) : Bool :=
  (v.g.pend.any fun p => p.left.isNone) || v.s.copies.any (fun c => c.key = v.k && !c.orphan) || !(v.s.matBatches v.k).isEmpty || v.g.posted ≠ []

/-- The group may be parked (R284). -/
def View.parks (v : View) : Bool :=
  v.g.wave && v.ex == v.g.live && v.g.stack.isEmpty && decide ((v.s.part v.core (partOf v.k)).parked.length < 8)

/-- What a spare context keeps of a group (R284). -/
def Group.toPark (g : Group) (m : Word) : Group :=
  let g := g.drainFixed
  { regs := (liveRegs m).map fun i => (g.wbasev + i, g.reg (g.wbasev + i))
    wsize := g.wsize, wbasev := g.wbasev, cur := g.cur, aflags := g.aflags, aen := g.aen, wave := true, tasks := g.tasks, joins := g.joins }

/-- FGET (R283, R284): a parked context waits for the future of every lane. An access at package scope waits for a directory under rebuild (R243). -/
def execFget (d a b : Reg) (s : State) : Host.Outcome State Fault Refusal :=
  issue (fun v =>
    { names := b.toNat :: (pairRegs d.toNat ++ pairRegs a.toNat ++ if decide (v.g.wbasev + b.toNat < v.g.wsize) then liveRegs (v.rd b.toNat)[v.f] else [])
      reads := b.toNat :: pairRegs a.toNat, unif := [b.toNat] }) (fun v => v.fenced (v.linkKind a.toNat fun x => futureState x == 0) fun v =>
    let m := (v.rd b.toNat)[v.f]
    let r := v.cellLanes a.toNat .read
    if !r.2.isEmpty then .trap (faultReq r.2 false false) v.s
    else if v.pkgBusy (r.1.map (·.2)) then .hold []
    else
      let seen := v.s.observeAll v.core 16 (r.1.map (·.2))
      let cells := r.1.map fun p => (p, ofBytes (v.s.rmwRead p.2 16))
      let empty := (cells.filter fun c => futureState c.2 = 0).map (·.1.2)
      let at_ : Lanes Nat := lanesOf fun L => ((cells.find? fun c => c.1.1 = L).map (·.2)).getD 0
      if empty.isEmpty then
        let s1 := v.wrLater seen d.toNat v.ex (lanesOf fun L => BitVec.ofNat 32 at_[L])
        let s2 := v.wrLater s1 (d.toNat + 1) v.ex (lanesOf fun L => BitVec.ofNat 32 (at_[L] / 2 ^ 32))
        .ok (v.wrLater s2 b.toNat v.ex (lanesOf fun L => BitVec.ofNat 32 (futureState at_[L])))
      else if v.parks then
        if v.draining then .hold [⟨.interlockedWriteComplete, { key := v.k }⟩]
        else
          let s1 := (v.linkCells seen empty).leaveActive v.k
          let ctx : Parked := ⟨v.k.tkey, v.g.toPark m, m, r.1.map (·.2.pa)⟩
          let s2 := s1.modPart v.core (partOf v.k) fun p => { p with parked := p.parked ++ [ctx] }
          .went { s2.forget (· = v.k) with groups := kdel s2.groups v.k } true
      else if v.g.full then .trap { cause := .rsOverflow, lanes := v.ex } v.s
      else .went ((v.linkCells seen empty).modGroup v.k fun g => g.suspend v.p v.p.pc (.future (empty.map (·.pa)))) true) s

-- ## Deques (R285, R286)

/-- A deque's header. -/
structure Deque where
  ring   : Nat
  logcap : Nat
  top    : Word
  bottom : Word
  spare  : Nat
deriving DecidableEq, Repr

def Deque.ofHeader (x : Nat) : Deque :=
  ⟨natBits x 63 0, natBits x 68 64, BitVec.ofNat 32 (natBits x 159 128), BitVec.ofNat 32 (natBits x 191 160),
    natBits x 127 69 + natBits x 511 192⟩
def Deque.size (q : Deque) : Word := q.bottom - q.top
/-- The header is malformed (R286, status 2). -/
def Deque.bad (q : Deque) : Bool :=
  q.spare ≠ 0 || q.logcap = 0 || decide (20 < q.logcap) || q.ring % 8 ≠ 0 || decide (2 ^ q.logcap < q.size.toNat)
/-- The address of an entry (R285). -/
def Deque.entry (q : Deque) (i : Word) : DWord := BitVec.ofNat 64 (q.ring + 8 * (i.toNat % 2 ^ q.logcap))

/-- The functions of DQ on a lane's entry. -/
inductive DqFn where
  | push | pop | steal
deriving DecidableEq, Repr

/-- What the lanes of a DQ have done so far: status and size of each lane, what it took, and the faults. -/
structure DqRun where
  s      : State
  st     : KMap (Fin 32) (Nat × Word) := []
  taken  : KMap (Fin 32) Nat := []
  faults : List LaneFault := []

/-- The header as it stands. -/
def State.deque (s : State) (f : Frame) : Deque := Deque.ofHeader (ofBytes (s.rmwRead f 64))

/-- One lane of a DQ (R286). -/
def View.dqLane (v : View) (fn : DqFn) (f : Frame) (value : Lanes DWord) (r : DqRun) (L : Fin 32) : DqRun :=
  let q := r.s.deque f
  let give := fun (s : State) (st : Nat) => (⟨s, r.st ++ [(L, st, (s.deque f).size)], r.taken, r.faults⟩ : DqRun)
  if q.bad then give r.s 2
  else if fn = .push && q.size.toNat = 2 ^ q.logcap then give r.s 1
  else if fn ≠ .push && q.size = 0#32 then give r.s 1
  else
    let i := match fn with
      | .push => q.bottom
      | .pop => q.bottom - 1#32
      | .steal => q.top
    let fault := fun (c : Nat) (x : Cause) => (⟨r.s, r.st, r.taken, r.faults ++ [⟨L, c, x, q.entry i⟩]⟩ : DqRun)
    let setIdx := fun (s : State) (off : Nat) (x : Word) =>
      s.rmwWrite v.core 6 (some v.k) { f with pa := f.pa + off } (bytesOf 4 x.toNat)
    match r.s.access v.core v.space (q.entry i) 8 (if fn = .push then .write else .read) with
    | .bad c x => fault c x
    | .absent _ => fault 3 .pageInvalid
    | .ok e =>
      match fn with
      | .push =>
        let s1 := r.s.rmwWrite v.core 6 (some v.k) e (bytesOf 8 (value[L]).toNat)
        give (setIdx s1 20 (q.bottom + 1#32)) 0
      | .pop =>
        let x := ofBytes (r.s.rmwRead e 8)
        let d := give (setIdx (r.s.observe v.core e.pa 8) 20 (q.bottom - 1#32)) 0
        { d with taken := d.taken ++ [(L, x)] }
      | .steal =>
        let x := ofBytes (r.s.rmwRead e 8)
        let d := give (setIdx (r.s.observe v.core e.pa 8) 16 (q.top + 1#32)) 0
        { d with taken := d.taken ++ [(L, x)] }

/-- The checks of a DQ header (R286), then `body` on its frame; an access at package scope waits for a directory under rebuild (R243). -/
def onHeader (kind : MemKind) (names reads : List Nat) (a : Reg) (body : View → Frame → Res) (s : State) : Host.Outcome State Fault Refusal :=
  issue (fun _ =>
    { names := pairRegs a.toNat ++ names, reads := pairRegs a.toNat ++ reads, unif := pairRegs a.toNat, oneBeat := true }) (fun v => v.fenced kind fun v =>
    let h := (v.rd2 a.toNat)[v.f]
    let bad := fun (c : Cause) => Res.trap { cause := c, lanes := v.ex, addr := h } v.s
    if h.toNat % 64 ≠ 0 then bad .align
    else match v.s.access v.core v.space h 64 .both with
      | .bad _ c => bad c
      | .absent _ => bad .pageInvalid
      | .ok f => if v.s.releaseBusy v.core 6 || v.pkgBusy [f] then .hold [] else body v f) s

/-- DQ PUSH, POP and STEAL (R286). -/
def dq (fn : DqFn) (d a : Reg) (s : State) : Host.Outcome State Fault Refusal :=
  onHeader .write (dataRegs d.toNat 16) (if fn = .push then pairRegs d.toNat else []) a (fun v f =>
    let s0 := (if fn = .push then v.s.release v.core 6 else v.s).observe v.core f.pa 64
    let r := (maskLanes v.ex).foldl (v.dqLane fn f (v.rd2 d.toNat)) { s := s0 }
    let took := lanesMask (r.taken.map (·.1))
    let done := lanesMask (r.st.map (·.1))
    let val : Lanes Nat := lanesOf fun L => (kfind r.taken L).getD 0
    let st : Lanes (Nat × Word) := lanesOf fun L => (kfind r.st L).getD (0, 0#32)
    let s1 := if took = 0#32 then r.s else
      v.wrLater (v.wrLater r.s d.toNat took (lanesOf fun L => BitVec.ofNat 32 val[L])) (d.toNat + 1) took
        (lanesOf fun L => BitVec.ofNat 32 (val[L] / 2 ^ 32))
    let s2 := v.wrLater s1 (d.toNat + 2) done (lanesOf fun L => BitVec.ofNat 32 st[L].1)
    laneOutcome r.faults false (v.wrLater s2 (d.toNat + 3) done (lanesOf fun L => st[L].2))) s

/-- DQ.PUSH. -/
def execDqPush (d a : Reg) (s : State) : Host.Outcome State Fault Refusal := dq .push d a s
/-- DQ.POP. -/
def execDqPop (d a : Reg) (s : State) : Host.Outcome State Fault Refusal := dq .pop d a s
/-- DQ.STEAL. -/
def execDqSteal (d a : Reg) (s : State) : Host.Outcome State Fault Refusal := dq .steal d a s

/-- DQ.SIZE. -/
def execDqSize (d a : Reg) (s : State) : Host.Outcome State Fault Refusal :=
  onHeader .read [d.toNat] [] a (fun v f => .ok (v.wrLaterAll (v.s.observe v.core f.pa 64) d.toNat (v.s.deque f).size)) s

-- ## Bound slots (R287, R288)

/-- One publish or reset at a copy. -/
def BoundOp.apply (o : BoundOp) (x : DWord) : DWord := match o.fn with
  | 0 => if o.value.toInt ≤ x.toInt then o.value else x
  | 1 => if x.toInt ≤ o.value.toInt then o.value else x
  | _ => o.value

/-- The copy at a rank: the operations that have reached it, in the order of issue. -/
def Bound.at (b : Bound) (rank : Nat) : DWord :=
  b.ops.foldl (fun x o => if o.seen.contains rank then o.apply x else x) b.base

/-- Operations that have reached every copy, from the first one on, become part of the base. -/
def settleOps (size : Nat) : List BoundOp → DWord → Bound
  | [], x => ⟨x, []⟩
  | o :: os, x => if (List.range size).all o.seen.contains then settleOps size os (o.apply x) else ⟨x, o :: os⟩

/-- A slot of a cluster. -/
def State.bound (s : State) (t : TKey) (n : Nat) : Bound := (kfind s.bounds (t.slot, s.clusterOf t, n)).getD {}
def State.setBound (s : State) (t : TKey) (n : Nat) (b : Bound) : State :=
  { s with bounds := kput s.bounds (t.slot, s.clusterOf t, n) (settleOps (s.record t).clusterSize b.ops b.base) }

/-- A publish or reset: it reaches the issuing core's copy at once, and the others within 300 cycles (R288). -/
def View.publish (v : View) (n fn : Nat) (x : DWord) : State :=
  let b := v.s.bound v.k.tkey n
  let s1 : State := { v.s with fresh := v.s.fresh + 1 }
  s1.setBound v.k.tkey n { b with ops := b.ops ++ [⟨v.s.fresh, fn, x, [v.s.rankOf v.k.tkey], v.s.cycle⟩] }

/-- The value that `pick` keeps of the values of the active lanes. -/
def View.overLanes64 (v : View) (d : Nat) (pick : DWord → DWord → DWord) : DWord :=
  let x := v.rd2 d
  (maskLanes v.ex).foldl (fun m L => pick m x[L]) x[v.f]

/-- BND.PUBMIN (R288). -/
def execBndPubmin (d : Reg) (n : BitVec 3) (s : State) : Host.Outcome State Fault Refusal :=
  issue (fun _ => { names := pairRegs d.toNat, reads := pairRegs d.toNat, oneBeat := true }) (fun v =>
    .ok (v.publish n.toNat 0 (v.overLanes64 d.toNat fun m x => if x.toInt < m.toInt then x else m))) s

/-- BND.PUBMAX (R288). -/
def execBndPubmax (d : Reg) (n : BitVec 3) (s : State) : Host.Outcome State Fault Refusal :=
  issue (fun _ => { names := pairRegs d.toNat, reads := pairRegs d.toNat, oneBeat := true }) (fun v =>
    .ok (v.publish n.toNat 1 (v.overLanes64 d.toNat fun m x => if m.toInt < x.toInt then x else m))) s

/-- BND.GET (R288). -/
def execBndGet (d : Reg) (n : BitVec 3) (s : State) : Host.Outcome State Fault Refusal :=
  issue (fun _ => { names := pairRegs d.toNat, oneBeat := true }) (fun v =>
    .ok (v.wr2 v.s d.toNat (uniformLanes ((v.s.bound v.k.tkey n.toNat).at (v.s.rankOf v.k.tkey))))) s

/-- BND.RESET (R288). -/
def execBndReset (d : Reg) (n : BitVec 3) (s : State) : Host.Outcome State Fault Refusal :=
  issue (fun _ => { names := pairRegs d.toNat, reads := pairRegs d.toNat, oneBeat := true }) (fun v =>
    .ok (v.publish n.toNat 3 (v.rd2 d.toNat)[v.f])) s

/-- BOUND_PUBLISH_ARRIVAL (R288): operation `m` on slot `n` of the cluster of `key`'s team reaches the copy at rank `k`. -/
def execBoundPublishArrival (s : State) : Host.Outcome State Fault Refusal :=
  let t := s.ev.key.tkey
  let b := s.bound t s.ev.n
  if b.ops.any fun o => o.id = s.ev.m && !o.seen.contains s.ev.k then
    .next (s.setBound t s.ev.n
      { b with ops := b.ops.map fun o => if o.id = s.ev.m then { o with seen := o.seen ++ [s.ev.k] } else o })
  else .next s

end Sys2Proof.Machine
end

