-- ==== Sys2Proof/Machine/Tasks.lean ====
section
/-! DEFINITION. Tasks: SPAWN, packets, waves and parked contexts; and LAUNCH with the records of grids (R274 to R278, R284, R289 to R291). -/

namespace Sys2Proof.Machine

-- ## The start of a group (R103, R277, R289, R327)

/-- The descriptor page of an address space: 8 KiB from 0x4000 after the level-0 table (R248). -/
def descriptorPage (ptb : DWord) : Nat := ptb.toNat + 0x4000

/-- The trap vectors that a group starts with (R327), as the scheduler reads them (log 84). -/
def State.startBanks (s : State) (ptb : DWord) : Bank × Bank :=
  ({ tvec := BitVec.ofNat 32 (s.engineNat (descriptorPage ptb + 0x40) 4) }, { tvec := BitVec.ofNat 32 (s.engineNat (descriptorPage ptb + 0x44) 4) })

/-- A group at its start: its lanes, its entry PC, and the values of its first registers. -/
def State.newGroup (s : State) (t : TKey) (pc lanes : Word) (regs : List (Lanes Word)) : Group :=
  let b := s.startBanks (s.team t).ptb
  { wsize := 8 * ((s.record t).regs + 1)
    regs := regs.zipIdx.map fun p => (p.2, ⟨p.1, sameOver lanes p.1⟩)
    cur := some ⟨pc, lanes, 0#32⟩, sbank := b.1, hbank := b.2 }

-- ## SPAWN (R275, R276)

/-- The owner of a task, as a team index (R275), or the fault of its address: its cause, and the address recorded (log 16). -/
def State.ownerOf (s : State) (t : TKey) (o : DWord) : Except (Cause × DWord) Nat :=
  let x := o.toNat
  if natBits x 63 60 = 8 && natBits x 59 32 = 0 then
    if !o.getLsbD 31 then .ok t.team
    else
      let r := natBits x 30 23
      if (s.record t).clusterSize ≤ r then .error (.nearRange, (loWord o).setWidth 64) else .ok (s.atRank t r).team
  else if natBits x 63 57 = 0 then
    let h := Nat.xor (natBits x 38 7) (natBits x 56 39)
    .ok (h * (s.record t).teamCount / 2 ^ 32)
  else .error (.pageInvalid, o)

/-- What a lane of SPAWN meets: its owner and the place of its argument record, or a fault. The owner is checked first. -/
def View.spawnLane (v : View) (o g : DWord) (L : Fin 32) : Except LaneFault (Nat × Frame) :=
  match v.s.ownerOf v.k.tkey o with
  | .error e => .error ⟨L, 0, e.1, e.2⟩
  | .ok t =>
    match v.s.access v.core v.space g 8 .read with
    | .ok f => .ok (t, f)
    | .absent _ => .error ⟨L, 3, .pageInvalid, g⟩
    | .bad c x => .error ⟨L, c, x, g⟩

/-- The report of SPAWN's faults: an owner address out of range is a near address (R332). -/
def spawnFault (fs : List LaneFault) : TrapReq :=
  let r := faultReq fs false true
  { r with detail := if r.cause = .nearRange then 1 else 0 }

/-- SPAWN (R276): a packet goes out for each lane, and D is given when it is accepted or refused. Its loads and its release are a write for the
fences before it (R220, R233), and wait for a directory under rebuild (R243). -/
def execSpawn (d a b : Reg) (s : State) : Host.Outcome State Fault Refusal :=
  issue (fun _ =>
    { names := d.toNat :: (pairRegs a.toNat ++ pairRegs b.toNat), reads := d.toNat :: (pairRegs a.toNat ++ pairRegs b.toNat)
      unif := [d.toNat] }) (fun v =>
    if (v.s.record v.k.tkey).taskw = 0 then .ok (v.wr v.s d.toNat (uniformLanes 0x80000002#32))
    else v.fenced .write fun v =>
    let e := (v.rd d.toNat)[v.f]
    if e.toNat % 4 ≠ 0 then .trap { cause := .align, lanes := v.ex, addr := e.setWidth 64 } v.s
    else
      let owner := v.rd2 a.toNat
      let arg := v.rd2 b.toNat
      let rs := (maskLanes v.ex).map fun L => (L, v.spawnLane owner[L] arg[L] L)
      let faults := rs.filterMap fun r => match r.2 with
        | .error f => some f
        | .ok _ => none
      let good := rs.filterMap fun r => match r.2 with
        | .ok x => some (r.1, x.1, x.2)
        | .error _ => none
      let n := (v.s.core v.core).spawnN
      let token := v.s.fresh
      let packets := good.zipIdx.map fun p =>
        ({ owner := ⟨v.k.slot, p.1.2.1⟩, entry := e, arg := arg[p.1.1]
           join := BitVec.ofNat 64 (ofBytes (v.s.loadBytes v.core p.1.2.2 8))
           id := BitVec.ofNat 32 (v.core * 2 ^ 20 + (n + p.2) % 2 ^ 20), sender := v.k, token := token, lane := p.1.1.val, since := 0 } : Packet)
      let s0 := good.foldl (fun s g => s.loaded v.core g.2.2 8 0) v.s
      let s1 := (if good.isEmpty then v.s else s0.release v.core 6).modCore v.core fun c => { c with spawnN := c.spawnN + good.length }
      let s2 : State := { s1 with fresh := token + 1, packets := s1.packets ++ packets }
      let s3 := if good.isEmpty then v.s else v.wrAwait s2 d.toNat (lanesMask (good.map (·.1))) token
      if !good.isEmpty && (v.s.releaseBusy v.core 6 || good.any fun g => v.s.mustAsk v.core 1 g.2.2) then .hold []
      else if faults.isEmpty then .ok s3 else .trap (spawnFault faults) s3) s

-- ## Packets (R274)

/-- Packets that the overflow area of a grid holds at most. -/
def LaunchRec.overflowCap (r : LaunchRec) : Nat := if r.tqovf = 0#64 then 0 else 2 ^ r.tqlog

/-- The store that can take a packet of an owner now: the owner is resident and its core's store has room. -/
def State.storeFor (s : State) (t : TKey) : Option Nat :=
  match kfind s.teams t with
  | some x => if (s.core x.core).store.length < 4096 then some x.core else none
  | none => none

/-- A packet enters a store. -/
def State.intoStore (s : State) (core : Nat) (p : Packet) : State :=
  s.modCore core fun c => { c with store := c.store ++ [{ p with since := s.cycle }] }

/-- A packet is accepted by its owner's store, behind those that wait for it in the overflow area, or by that area. A packet for a team that has ended
is no store's: where the area takes it, its task ends KILLED at once (R349; DEDUCED, log 51). None is the refusal of R276. What the bytes at TQOVF hold
meanwhile is the device's own: they stay as they were (R274; DESIGN CHOICE, log 92). -/
def State.acceptPacket (s : State) (p : Packet) : Option State :=
  let gr := s.grid p.owner.slot
  let area := decide (gr.overflow.length < gr.lr.overflowCap)
  if s.hasEnded p.owner then if area then some (s.endTask p.owner p.join .killed) else none
  else
    match if gr.overflow.any fun q => q.owner = p.owner then none else s.storeFor p.owner with
    | some c => some (s.intoStore c p)
    | none =>
      if area then some (s.modGrid p.owner.slot fun g => { g with overflow := g.overflow ++ [p] }) else none

/-- TASK_PACKET_ARRIVAL (R274, R276): the `n`-th packet on its way arrives, unless an earlier one of its lane has the same owner; its
sender's D is given. -/
def execTaskPacketArrival (s : State) : Host.Outcome State Fault Refusal :=
  match s.packets[s.ev.n]? with
  | none => .next s
  | some p =>
    if (s.packets.take s.ev.n).any fun q => q.sender = p.sender && q.lane = p.lane && q.owner = p.owner then .next s
    else
      let s1 : State := { s with packets := s.packets.eraseIdx s.ev.n }
      let r := match s1.acceptPacket p with
        | some s2 => (s2, p.id)
        | none => (s1, 0x80000001#32)
      .next (r.1.modGroup p.sender fun g => g.answer p.token (1#32 <<< p.lane) (uniformLanes r.2))

/-- OVERFLOW_PACKET_RETURN (R274): the oldest packet in the overflow area of grid `n` whose owner's store can take it goes there. -/
def execOverflowPacketReturn (s : State) : Host.Outcome State Fault Refusal :=
  let q := (s.grid s.ev.n).overflow
  match q.findIdx? fun p => (s.storeFor p.owner).isSome with
  | none => .next s
  | some i =>
    match q[i]? with
    | none => .next s
    | some p =>
      match s.storeFor p.owner with
      | none => .next s
      | some c => .next ((s.modGrid s.ev.n fun g => { g with overflow := g.overflow.eraseIdx i }).intoStore c p)

-- ## Waves (R277)

/-- The wave slots of a team that hold no group. -/
def State.freeWaves (s : State) (t : TKey) : List GKey :=
  let r := s.record t
  ((List.range r.taskw).map fun i => (⟨t.slot, t.team, r.tsize + i⟩ : GKey)).filter fun k => (kfind s.groups k).isNone

/-- The packets in a core's store with the owner and entry PC of a packet. -/
def Core.kin (c : Core) (p : Packet) : List Packet := c.store.filter fun q => q.owner = p.owner && q.entry = p.entry

/-- A wave can start with this packet as its oldest. -/
def State.formable (s : State) (c : Core) (p : Packet) : Bool :=
  ((c.kin p).head? == some p) && (decide (32 ≤ (c.kin p).length) || decide (p.since + 1000 ≤ s.cycle)) &&
    !(s.freeWaves p.owner).isEmpty && !(s.team p.owner).stop

/-- The packet that starts the next wave of a core. -/
def State.nextWave (s : State) (core : Nat) : Option Packet := (s.core core).store.find? (s.formable (s.core core))

/-- WAVE_FORMATION (R277): the formable wave of core `core` whose oldest packet is oldest starts in the lowest free wave slot of its team. -/
def execWaveFormation (s : State) : Host.Outcome State Fault Refusal :=
  match s.nextWave s.ev.core with
  | none => .next s
  | some p =>
    match s.freeWaves p.owner with
    | [] => .next s
    | k :: _ =>
      let take := ((s.core s.ev.core).kin p).take 32
      let at_ : Lanes (Option Packet) := lanesOf fun L => take[L.val]?
      let lanes := lanesMask ((List.finRange 32).filter fun L => decide (L.val < take.length))
      let val := fun (f : Packet → Word) => (lanesOf fun L => (at_[L].map f).getD 0#32 : Lanes Word)
      let g := s.newGroup p.owner p.entry lanes [val fun q => loWord q.arg, val fun q => hiWord q.arg, val (·.id)]
      let g' := { g with wave := true, tasks := lanes, joins := lanesOf fun L => (at_[L].map (·.join)).getD 0#64 }
      .next ((s.modCore s.ev.core fun c => { c with store := c.store.filter fun q => !take.contains q }).setGroup k g')

-- ## Parked contexts (R284)

/-- Every future that a parked context waits for is no longer EMPTY. -/
def State.parkReady (s : State) (p : Parked) : Bool := p.cells.all fun a => futureState (ofBytes (s.newestRead a 16)) ≠ 0

/-- The lowest free wave slot of the context's team in the partition (DESIGN CHOICE, log 86). -/
def State.parkSlot (s : State) (part : Nat) (p : Parked) : Option GKey := (s.freeWaves p.team).find? fun k => partOf k = part

/-- PARKED_CONTEXT_RESUME (R284): the `n`-th parked context of partition `part` of core `core` resumes when it is ready; as at every start of a
group, the trap vectors are loaded (R327). -/
def execParkedContextResume (s : State) : Host.Outcome State Fault Refusal :=
  match (s.part s.ev.core s.ev.part).parked[s.ev.n]? with
  | none => .next s
  | some p =>
    match s.parkSlot s.ev.part p with
    | none => .next s
    | some k =>
      if s.parkReady p && !(s.team p.team).stop then
        .next ((s.modPart s.ev.core s.ev.part fun x => { x with parked := x.parked.eraseIdx s.ev.n }).setGroup k
          { p.g with
            sbank := (s.startBanks (s.team p.team).ptb).1, hbank := (s.startBanks (s.team p.team).ptb).2 })
      else .next s

-- ## Launch records (R289, R290)

/-- The fields of a launch record (R289). -/
def LaunchRec.ofRecord (x : Nat) : LaunchRec :=
  let f := fun (hi lo : Nat) => natBits x hi lo
  let d := fun (lo : Nat) => BitVec.ofNat 64 (natBits x (lo + 63) lo)
  { codeBase := d 0, entry := BitVec.ofNat 32 (f 95 64), teamsm1 := BitVec.ofNat 32 (f 127 96), param := d 128, tsize := f 198 192
    regs := f 204 200, clw := f 211 208, clh := f 215 212, coloc := f 218 216, prio := f 222 220, stchk := x.testBit 223
    tiles := f 231 224, taskw := f 238 232, beam := x.testBit 239, tlbs := f 242 240, lright := x.testBit 243, colu := f 255 248
    pword := BitVec.ofNat 32 (f 287 256), sprows := f 298 288, sliceus := f 351 320, wait0a := d 384, wait0t := d 448, wait1a := d 512
    wait1t := d 576, done := d 640, shb := d 704, ptb := d 768, asid := BitVec.ofNat 16 (f 847 832), tdom := BitVec.ofNat 10 (f 857 848)
    isSealed := x.testBit 858, ownkey := BitVec.ofNat 12 (f 875 864), tqovf := d 896, tqlog := f 964 960 }

/-- A reserved field of a record is nonzero (R289). -/
def launchReserved (x : Nat) : Bool :=
  natBits x 2047 965 ≠ 0 || natBits x 895 876 ≠ 0 || natBits x 863 859 ≠ 0 || natBits x 383 352 ≠ 0 || natBits x 319 299 ≠ 0 ||
    natBits x 247 244 ≠ 0 || natBits x 219 219 ≠ 0 || natBits x 207 205 ≠ 0 || natBits x 199 199 ≠ 0

/-- Register rows, scratchpad rows and tiles of a partition word (R93). -/
def wordRegRows (w : Word) : Nat := natBits w.toNat 10 0
def wordSpRows (w : Word) : Nat := natBits w.toNat 21 11
def wordTiles (w : Word) : Nat := (1536 - wordRegRows w - wordSpRows w) / 20

/-- A partition word that R94 refuses. -/
def badWord (w : Word) : Bool :=
  wordRegRows w = 0 || wordRegRows w % 16 ≠ 0 || wordSpRows w % 16 ≠ 0 || decide (1536 < wordRegRows w + wordSpRows w) ||
    natBits w.toNat 31 22 ≠ 0

/-- The cores of a cluster's rectangle from mesh position (x, y) of a deck on, in rank order (R5). -/
def rectangle (r : LaunchRec) (deck x y : Nat) : List Nat :=
  let w := r.clw + 1
  (List.range r.clusterSize).map fun i =>
    let col := if i / w % 2 = 0 then i % w else w - 1 - i % w
    coreAt deck (x + col) (y + i / w)

/-- The rectangles of a cluster's shape on every deck, by the number of the core at their origin. -/
def rectangles (r : LaunchRec) : List (List Nat) :=
  (List.range 2048).filterMap fun c =>
    if meshX c + r.clw < 16 && decide (meshY c + r.clh < 16) then some (rectangle r (c / 256) (meshX c) (meshY c)) else none

/-- A core that is not fenced (R368). -/
def State.working (s : State) (c : Nat) : Bool := !(s.core c).fenced

/-- Code 0x01 of R290. -/
def LaunchRec.malformed (r : LaunchRec) (x : Nat) : Bool :=
  launchReserved x || (r.coloc = 1 || r.coloc = 2 || r.coloc = 7) || decide (4 < r.tlbs) || r.tsize = 0 || decide (96 < r.tsize) ||
    decide (96 < r.tsize + r.taskw) || natBits r.codeBase.toNat 15 0 ≠ 0 || r.entry.toNat % 4 ≠ 0 || natBits r.ptb.toNat 12 0 ≠ 0 ||
    natBits r.ptb.toNat 63 52 ≠ 0 ||
    (if r.tqovf = 0#64 then r.tqlog ≠ 0 else r.tqovf.toNat % 64 ≠ 0 || decide (r.tqlog < 8) || decide (24 < r.tqlog))

/-- Code 0x02 of R290. -/
def LaunchRec.neverFits (r : LaunchRec) : Bool :=
  badWord r.pword || decide (wordRegRows r.pword < (r.tsize + r.taskw) * (r.regs + 1)) || decide (wordSpRows r.pword < r.sprows) ||
    r.sprows % 16 ≠ 0 || decide (wordTiles r.pword < r.tiles) || decide (64 < r.colu)

/-- Code 0x05 of R290 for a launcher of a team in a mode. -/
def State.launchRefused (s : State) (r : LaunchRec) (t : TKey) (user : Bool) : Bool :=
  let x := s.team t
  (user && (r.asid ≠ x.asid || r.ptb ≠ x.ptb || r.tdom ≠ x.tdom || r.isSealed ≠ x.isSealed || r.ownkey ≠ x.ownkey ||
    decide ((s.record t).prio < r.prio))) || (r.isSealed && !s.selfPeer.getLsbD 31)

/-- The record's address space in a mode (R291). -/
def LaunchRec.space (r : LaunchRec) (user : Bool) : Space := ⟨r.asid, r.ptb.toNat, r.ownkey.toNat, user⟩

/-- A counter of code 0x06 of R290: misaligned, or on no valid, resident page with the permission; what its line holds does not matter. -/
def State.badCounter (s : State) (core : Nat) (sp : Space) (a : DWord) (need : Need) : Bool :=
  a ≠ 0#64 && (decide (a.toNat % 8 ≠ 0) || natBits a.toNat 63 57 != 0 || (match s.translate core sp a.toNat need with
    | .ok _ => false
    | _ => true))

/-- The refusal code of a record, 0 where it is admitted (R290). -/
def State.refusal (s : State) (core : Nat) (t : TKey) (m : Mode) (x : Nat) : Nat :=
  let r := LaunchRec.ofRecord x
  let user := m == .user
  let sp := r.space user
  if r.malformed x then 1
  else if r.neverFits then 2
  else if r.teamCount % r.clusterSize ≠ 0 || !(rectangles r).any (·.all s.working) then 3
  else if 256 ≤ s.grids.length then 4
  else if s.launchRefused r t user then 5
  else if s.badCounter core sp r.wait0a .read || s.badCounter core sp r.wait1a .read || s.badCounter core sp r.done .both then 6
  else 0

/-- Admits a grid (R291, R292): it is eligible at once when it names no wait counter. -/
def State.takeGrid (s : State) (n : Nat) (r : LaunchRec) (m : Mode) : State :=
  let g : Grid :=
    { lr := r, launcher := m, eligible := r.wait0a = 0#64 && r.wait1a = 0#64, seen0 := r.wait0a = 0#64, seen1 := r.wait1a = 0#64
      agedAt := s.cycle }
  { s with grids := kput s.grids n g }

/-- The launch right (R291). -/
def View.mayLaunch (v : View) : Bool := v.g.mode != .user || (v.s.record v.k.tkey).lright

/-- LAUNCH (R291): its load and its release are a write for the fences before it (R220, R233), and wait for a directory under rebuild (R243). -/
def execLaunch (d a : Reg) (s : State) : Host.Outcome State Fault Refusal :=
  issue (fun v =>
    { names := d.toNat :: pairRegs a.toNat, reads := pairRegs a.toNat, unif := pairRegs a.toNat, oneBeat := true, priv := !v.mayLaunch }) (fun v => v.fenced .write fun v =>
    let x := (v.rd2 a.toNat)[v.f]
    let bad := fun (c : Cause) => Res.trap { cause := c, lanes := v.ex, addr := x } v.s
    if x.toNat % 256 ≠ 0 then bad .align
    else match v.s.access v.core v.space x 256 .read with
      | .bad _ c => bad c
      | .absent _ => bad .pageInvalid
      | .ok f =>
        if v.s.isPoisoned (f.pa + 128) then bad .poison
        else if v.s.releaseBusy v.core 6 || v.pkgBusy [f, { f with pa := f.pa + 128 }] then .hold []
        else
          let seen := (v.s.loaded v.core f 128 0).loaded v.core { f with pa := f.pa + 128 } 128 0
          let rec_ := ofBytes (v.s.loadBytes v.core f 128 ++ v.s.loadBytes v.core { f with pa := f.pa + 128 } 128)
          match v.s.refusal v.core v.k.tkey v.g.mode rec_ with
          | 0 =>
            match (List.range 256).find? fun n => (kfind v.s.grids n).isNone with
            | none => .ok (v.wrLaterAll seen d.toNat 4#32)
            | some n =>
              let s1 := (seen.release v.core 6).takeGrid n (LaunchRec.ofRecord rec_) v.g.mode
              .ok (v.wrLaterAll s1 d.toNat (BitVec.ofNat 32 (2 ^ 31 + n)))
          | c => .ok (v.wrLaterAll seen d.toNat (BitVec.ofNat 32 c))) s

end Sys2Proof.Machine
end

