-- ==== Sys2Proof/Machine/Image.lean ====
section
/-! DEFINITION. Context images and slot directories (R341 to R345). -/

namespace Sys2Proof.Machine

-- ## Writing an image (R343 to R345)

/-- The bytes of words, lowest first. -/
def wordBytes (ws : List Word) : List Byte := ws.flatMap fun w => bytesOf 4 w.toNat
/-- One byte per lane. -/
def flagBytes (f : Lanes (BitVec 5)) : List Byte := (List.finRange 32).map fun L => f[L].setWidth 8
/-- The 128 bytes of a register or FIFO entry, lane 0 first. -/
def laneWords (x : Lanes Word) : List Byte := (List.finRange 32).flatMap fun L => bytesOf 4 x[L].toNat
/-- Zeros up to a length. -/
def padded (n : Nat) (bs : List Byte) : List Byte := (bs ++ List.replicate (n - bs.length) 0#8).take n

/-- TBATCH or MBATCH (R345): nothing is in flight at a save, so every committed batch is complete. -/
def Batch.imageWords (b : Batch) : List Word :=
  [b.committed, b.committed, b.status] ++ (match b.fault with
    | some (n, i, x) => [n, i ||| 0x80000000#32, x]
    | none => [0#32, 0#32, 0#32]) ++ [0#32, 0#32]

/-- MONCTL (R345). -/
def Monitor.word (m : Monitor) : Word :=
  (if m.armed then 1#32 else 0#32) ||| (match m.reason with
    | some r => 2#32 ||| (r.setWidth 32 <<< 2)
    | none => 0#32)

/-- A bank's words (R345). -/
def Bank.words (b : Bank) : List Word := (List.range 6).map b.word

/-- CTL of a live group (R345). -/
def Group.ctlWord (g : Group) : Word :=
  BitVec.ofNat 32 ((if g.cur.isSome then 1 else 0) + 2 * g.mode.code + 8 * (g.wbasev / 8 % 32) + 256 * g.rspeek.toNat +
    (if g.step then 0x8000 else 0) + 0x10000)

/-- An unreported failure's words (R345). -/
def PFail.words (f : PFail) : List Word := [0#32, f.reason.setWidth 32 <<< 24, f.lanes, f.pc, loWord f.offset, hiWord f.offset]

/-- A live group's record, 2 KiB (R345). -/
def Group.record (g : Group) : List Byte :=
  let p := g.cur.getD ⟨0#32, 0#32, 0#32⟩
  padded 512 (wordBytes (g.stack.flatMap Entry.words)) ++
    wordBytes ([p.pc, p.ex, p.fmt, g.ctlWord, g.gangWord, g.cychi, g.arrTeam, g.arrClu, g.arrGrid, g.mon.word, loWord g.mon.addr, hiWord g.mon.addr,
      g.tasks, g.nrm, BitVec.ofNat 32 (min 32 g.pfail.length), 0#32] ++ g.sbank.words ++ g.hbank.words) ++
    flagBytes g.aflags ++ flagBytes g.aen ++
    wordBytes (g.tb.imageWords ++ g.mb.imageWords ++ [if g.cursor.near then 1#32 else 0#32, g.cursor.c0, g.cursor.c1, g.cursor.win]) ++
    ((List.finRange 32).flatMap fun L => bytesOf 8 g.joins[L].toNat) ++
    padded 1024 (wordBytes ((g.pfail.take 32).flatMap PFail.words))

/-- A parked context's 4,608 bytes (R343). -/
def Parked.record (p : Parked) (part : Nat) : List Byte :=
  let c := p.g.cur.getD ⟨0#32, 0#32, 0#32⟩
  padded 64 (wordBytes [c.pc, c.fmt, BitVec.ofNat 32 p.g.wbasev, BitVec.ofNat 32 part, p.live, p.g.tasks]) ++ flagBytes p.g.aflags ++
    padded 160 (flagBytes p.g.aen) ++ ((List.finRange 32).flatMap fun L => bytesOf 8 p.g.joins[L].toNat) ++
    padded 4096 ((liveRegs p.live).flatMap fun i => laneWords (p.g.reg (p.g.wbasev + i)).vals)

/-- The tiles that a team holds, in slot order. -/
def Team.heldTiles (x : Team) : List (Nat × Tile) :=
  (List.range 32).filterMap fun i => match kfind x.tiles i with
    | some t => if t.alloc then some (i, t) else none
    | none => none

/-- The parked contexts of a team, with their partitions. -/
def State.parksOf (s : State) (t : TKey) : List (Nat × Parked) :=
  (List.range 4).flatMap fun p => ((s.part (s.team t).core p).parked.filter fun q => q.team = t).map fun q => (p, q)

/-- Group records of a team (R343 NGRP). -/
def LaunchRec.ngrp (r : LaunchRec) : Nat := r.tsize + r.taskw
/-- WSIZE of the groups of a team. -/
def LaunchRec.wsize (r : LaunchRec) : Nat := 8 * (r.regs + 1)

/-- The resident groups of a team in group order. -/
def State.liveKeys (s : State) (t : TKey) : List GKey :=
  ((List.range (s.record t).ngrp).map fun i => (⟨t.slot, t.team, i⟩ : GKey)).filter fun k => (kfind s.groups k).isSome

/-- The length of a team's image in bytes, rounded up to 4 KiB as R343 says; the traced run beside R380 does not round (DESIGN CHOICE, log 98). -/
def State.imageLength (s : State) (t : TKey) : Nat :=
  let r := s.record t
  let n := 12288 + 2048 * r.ngrp + 128 * (r.wsize * (s.liveKeys t).length) + 1024 * (s.team t).spRows + 20480 * (s.team t).heldTiles.length +
    4608 * (s.parksOf t).length
  (n + 4095) / 4096 * 4096

/-- The inbound FIFOs that a team holds (R156). -/
def State.fifosOf (s : State) (t : TKey) : List (List (Lanes Word)) :=
  (List.range 4).map fun p => if (s.record t).beam then (s.part (s.team t).core p).fifo else []

/-- An RROT step of the team that has issued and is not complete (R155). -/
def State.ringPending (s : State) (t : TKey) : Option RingStep := s.rings.find? (·.team = t)

/-- The team header (R344). -/
def State.header (s : State) (t : TKey) : Nat :=
  let x := s.team t
  let r := s.record t
  let held := x.heldTiles
  let bcnt := ((s.fifosOf t).zipIdx.map fun f => f.1.length % 32 * 2 ^ (604 + 5 * f.2)).sum
  let gens := ((List.range 16).map fun i => ((kfind x.handles i).getD {}).gen.toNat * 2 ^ (768 + 8 * i)).sum
  let bps := ((List.range 4).map fun i => ((kfind x.bps i).getD 0#32).toNat * 2 ^ (896 + 32 * i)).sum
  (x.seq + 1) % 2 ^ 32 * 2 ^ 448 + t.team * 2 ^ 480 + t.slot * 2 ^ 520 + s.imageLength t / 1024 * 2 ^ 528 + r.pword.toNat * 2 ^ 544 + r.ngrp * 2 ^ 591 +
    (s.parksOf t).length * 2 ^ 598 + bcnt + (if r.beam then 2 ^ 624 else 0) + (if (s.ringPending t).isSome then 2 ^ 625 else 0) +
    held.length * 2 ^ 626 + x.allocN.toNat * 2 ^ 632 + ((held.map fun h => 2 ^ h.1).sum) * 2 ^ 640 + x.ringN.toNat * 2 ^ 672 + x.teamC.toNat * 2 ^ 704 +
    x.cluC.toNat * 2 ^ 736 + gens + bps

/-- The first 12 KiB of an image (R343). -/
def State.imageHead (s : State) (t : TKey) : List Byte :=
  let x := s.team t
  let ring := match s.ringPending t with
    | some q => [BitVec.ofNat 32 q.src, BitVec.ofNat 32 q.dst, BitVec.ofNat 32 q.len, 0#32]
    | none => []
  let tile := fun (i : Nat) => (kfind x.tiles i).getD {}
  bytesOf 128 (s.header t) ++ ((List.range 32).map fun i => (tile i).gen) ++ wordBytes ((List.range 32).map fun i => (tile i).status) ++
    (if s.rankOf t = 0 then (List.range 8).flatMap fun n => bytesOf 8 ((s.bound t n).at 0).toNat else List.replicate 64 0#8) ++
    padded 1696 (wordBytes ring) ++
    ((List.range 16).flatMap fun i => bytesOf 128 ((((kfind x.handles i).bind (·.tr)).getD 0).toNat)) ++
    ((s.fifosOf t).flatMap fun f => padded 2048 (f.flatMap laneWords))

/-- The image of a team (R343). -/
def State.imageOf (s : State) (t : TKey) : List Byte :=
  let x := s.team t
  let r := s.record t
  let recs := (List.range r.ngrp).flatMap fun i => match kfind s.groups ⟨t.slot, t.team, i⟩ with
    | some g => g.record
    | none => List.replicate 2048 0#8
  let regs := (s.liveKeys t).flatMap fun k => (List.range r.wsize).flatMap fun n => laneWords ((s.group k).reg n).vals
  let tiles := x.heldTiles.flatMap fun h => (List.range 4096).flatMap fun i => bytesOf 5 (h.2.cell i)
  padded (s.imageLength t) (s.imageHead t ++ recs ++ regs ++ cellRead x.spad 0 (1024 * x.spRows) ++ tiles ++
    (s.parksOf t).flatMap fun q => q.2.record q.1)

-- ## Reading an image (R347)

/-- Reads a number of some bytes at an offset of an image. -/
abbrev ImageRead := Nat → Nat → Nat

/-- The word at an offset. -/
def imWord (im : ImageRead) (o : Nat) : Word := BitVec.ofNat 32 (im o 4)
/-- The 128 bytes of a register or FIFO entry. -/
def imLanes (im : ImageRead) (o : Nat) : Lanes Word := lanesOf fun L => imWord im (o + 4 * L.val)
/-- One 5-bit value a lane. -/
def imFlags (im : ImageRead) (o : Nat) : Lanes (BitVec 5) := lanesOf fun L => BitVec.ofNat 5 (im (o + L.val) 1)

/-- The mode of a code (R103). -/
def Mode.ofCode : Nat → Mode
  | 0 => .user
  | 1 => .supervisor
  | _ => .hypervisor

/-- A stack entry from its words (R73), with what the image has no field for from the entry as it was saved. -/
def Entry.ofWords (pc mask fmt ctl : Word) (was : Option Entry) : Entry :=
  let old : Option EntryKind := was.map (·.kind)
  let wait := match old with
    | some (EntryKind.path (PathState.suspended w)) => w
    | _ => .over
  let lanes := match old with
    | some (EntryKind.trap _ f) => f
    | _ => mask
  let kind := match natBits ctl.toNat 1 0, natBits ctl.toNat 5 4 with
    | 0, _ => EntryKind.mark
    | 1, 1 => .path .joined
    | 1, 2 => .path (.suspended wait)
    | 1, _ => .path .ready
    | 2, _ => .trap (.ofCode (natBits ctl.toNat 7 6)) lanes
    | _, _ => .mark
  ⟨kind, pc, mask, fmt⟩

/-- The stack of a record: an entry of zeros counts where the saved stack had one there and it was all zeros. -/
def imStack (im : ImageRead) (base : Nat) (was : List Entry) : List Entry :=
  let used := fun (i : Nat) => im (base + 16 * i) 16 ≠ 0 || (match was[i]? with
    | some e => e.words.all (· == 0#32)
    | none => false)
  let depth := match ((List.range 32).filter used).getLast? with
    | some i => i + 1
    | none => 0
  (List.range depth).map fun i =>
    let o := base + 16 * i
    Entry.ofWords (imWord im o) (imWord im (o + 4)) (imWord im (o + 8)) (imWord im (o + 12)) was[i]?

/-- A bank from its words; TCAUSE [31:15] reads 0 (R14, R103). -/
def imBank (im : ImageRead) (o : Nat) : Bank :=
  ⟨imWord im o, imWord im (o + 4) &&& 0x7FFF#32, pairVal (imWord im (o + 8)) (imWord im (o + 12)), imWord im (o + 16), imWord im (o + 20)⟩

/-- The bits that R173 and R199 give the status of copies and that of tiles and operations; the others read 0 (R14). -/
def copyStatusBits : Word := 0x1F1E#32
/-- The bits of a tile's or an operation's status (R199). -/
def tileStatusBits : Word := 0x1F3E#32

/-- TBATCH or MBATCH: of the status the bits that R173 or R199 gives it, and of FINDEX bits [15:0]; reserved bits read 0 (R14). -/
def imBatch (im : ImageRead) (o : Nat) (bits : Word) (was : Batch) : Batch :=
  { committed := imWord im o, opened := was.opened, status := imWord im (o + 8) &&& bits
    fault := if (imWord im (o + 16)).getLsbD 31 then some (imWord im (o + 12), imWord im (o + 16) &&& 0xFFFF#32, imWord im (o + 20)) else none }

/-- The monitor of a record (R345). -/
def imMonitor (im : ImageRead) (base : Nat) : Monitor :=
  let c := imWord im (base + 548)
  { armed := c.getLsbD 0, addr := pairVal (imWord im (base + 552)) (imWord im (base + 556))
    reason := if c.getLsbD 1 then some (c.extractLsb' 2 2) else none }

/-- An unreported failure of a record (R345). -/
def imFail (im : ImageRead) (o i : Nat) : PFail :=
  ⟨i, pairVal (imWord im (o + 16)) (imWord im (o + 20)), imWord im (o + 12), imWord im (o + 8), (imWord im (o + 4)).extractLsb' 24 8⟩

/-- A group from its record at `base` and its registers at `regs`, with what the image has no field for from the group as it was saved (R345,
R347): quantum 0, uniform tags clear. -/
def Group.ofImage (im : ImageRead) (base regs : Nat) (was : Group) : Group :=
  let c := imWord im (base + 524)
  let gv := imWord im (base + 528)
  let stack := imStack im base was.stack
  { wsize := was.wsize, wave := was.wave, pend := was.pend, exempt := was.exempt, stepDue := was.stepDue
    regs := (List.range was.wsize).map fun n => (n, ⟨imLanes im (regs + 128 * n), false⟩)
    wbasev := 8 * natBits c.toNat 7 3
    cur := if c.getLsbD 0 then some ⟨imWord im (base + 512), imWord im (base + 516), imWord im (base + 520)⟩ else none
    stack := stack, mode := .ofCode (natBits c.toNat 2 1), rspeek := c.extractLsb' 8 7, step := c.getLsbD 15
    gang := gv.extractLsb' 0 24, rvn := gv.extractLsb' 24 7, gangOk := gv.getLsbD 31, cychi := imWord im (base + 532)
    arrTeam := imWord im (base + 536), arrClu := imWord im (base + 540), arrGrid := imWord im (base + 544)
    mon := imMonitor im base, tasks := imWord im (base + 560), nrm := imWord im (base + 564)
    pfail := (List.range (natBits (im (base + 568) 4) 5 0)).map fun i => imFail im (base + 1024 + 24 * i) i
    sbank := imBank im (base + 576), hbank := imBank im (base + 600), aflags := imFlags im (base + 624), aen := imFlags im (base + 656)
    tb := imBatch im (base + 688) copyStatusBits was.tb, mb := imBatch im (base + 720) tileStatusBits was.mb
    cursor := ⟨(imWord im (base + 752)).getLsbD 0, imWord im (base + 756), imWord im (base + 760), imWord im (base + 764)⟩
    joins := lanesOf fun L => BitVec.ofNat 64 (im (base + 768 + 8 * L.val) 8) }

/-- A parked context from its record, WBASEV being a multiple of 8 below 256 (R14, R103); it waits for the futures that it named, and its FGET is then executed again (R284, R347). -/
def Parked.ofImage (im : ImageRead) (base : Nat) (was : Parked) : Nat × Parked :=
  let m := imWord im (base + 16)
  let w := im (base + 8) 1 / 8 * 8
  let regs := (liveRegs m).zipIdx.map fun r => (w + r.1, (⟨imLanes im (base + 512 + 128 * r.2), false⟩ : RegVal))
  (im (base + 12) 4 % 4, { was with
    live := m
    g := { was.g with
      wbasev := w, regs := regs, tasks := imWord im (base + 20), aflags := imFlags im (base + 64), aen := imFlags im (base + 96)
      cur := was.g.cur.map fun p => { p with pc := imWord im base, fmt := imWord im (base + 4) }
      joins := lanesOf fun L => BitVec.ofNat 64 (im (base + 256 + 8 * L.val) 8) } })

/-- The cells of a tile in an image that are not zero. -/
def imCells (im : ImageRead) (o : Nat) : KMap Nat (BitVec 40) :=
  (List.range 4096).filterMap fun i =>
    let c := im (o + 5 * i) 5
    if c = 0 then none else some (i, BitVec.ofNat 40 c)

/-- Where the parts of an image start: registers, scratchpad, tiles and parked contexts (R343). -/
structure ImageMap where
  live  : List Nat
  regs  : Nat
  spad  : Nat
  tiles : Nat
  parks : Nat
deriving DecidableEq, Repr

def imageMap (im : ImageRead) (r : LaunchRec) (spRows : Nat) : ImageMap :=
  let ngrp := natBits (im 0 128) 597 591
  let live := (List.range ngrp).filter fun i => (imWord im (0x3000 + 2048 * i + 524)).getLsbD 16
  let regs := 0x3000 + 2048 * ngrp
  let spad := regs + 128 * r.wsize * live.length
  let tiles := spad + 1024 * spRows
  ⟨live, regs, spad, tiles, tiles + 20480 * natBits (im 0 128) 631 626⟩

/-- The team as its image and what was kept beside it say; bit [1] of a breakpoint and the reserved bits of a tile's status read 0 (R14, R199,
R344). -/
def Team.ofImage (im : ImageRead) (m : ImageMap) (was : Team) : Team :=
  let h := im 0 128
  let held := (List.range 32).filter (natBits h 671 640).testBit
  { was with
    bps := (List.range 4).map fun i => (i, BitVec.ofNat 32 (natBits h (927 + 32 * i) (896 + 32 * i)) &&& 0xFFFFFFFD#32)
    handles := (List.range 16).map fun i =>
      let x := im (0x800 + 128 * i) 128
      (i, ⟨BitVec.ofNat 8 (natBits h (775 + 8 * i) (768 + 8 * i)), if x = 0 then none else some (BitVec.ofNat 1024 x)⟩)
    cluC := BitVec.ofNat 32 (natBits h 767 736), teamC := BitVec.ofNat 32 (natBits h 735 704), ringN := BitVec.ofNat 32 (natBits h 703 672)
    allocN := BitVec.ofNat 8 (natBits h 639 632), seq := natBits h 479 448
    tiles := (List.range 32).map fun i =>
      (i, { alloc := held.contains i, gen := BitVec.ofNat 8 (im (0x80 + i) 1), status := imWord im (0xA0 + 4 * i) &&& tileStatusBits
            cells := if held.contains i then imCells im (m.tiles + 20480 * (held.findIdx fun j => j == i)) else [] })
    spad := cellsFrom 0 ((List.range (1024 * was.spRows)).map fun i => BitVec.ofNat 8 (im (m.spad + i) 1)) }

/-- The entries of an inbound FIFO in an image. -/
def imFifo (im : ImageRead) (p : Nat) : List (Lanes Word) :=
  (List.range (natBits (im 0 128) (608 + 5 * p) (604 + 5 * p))).map fun i => imLanes im (0x1000 + 2048 * p + 128 * i)

-- ## Slots and directories (R341, R342)

/-- Bytes of a column. -/
def columnBytes : Nat := 0x400000
/-- The start of the save slot that a CTXBASE offset gives. -/
def slotStart (ctx : Nat) : Nat := if ctx = 0 then 0x3F0000 else ctx * 65536
/-- A directory entry: its words as one number. -/
def State.dirEntry (s : State) (core i : Nat) : Nat := ofBytes (cellRead (s.core core).column (slotStart (s.core core).ctx + 16 * i) 16)
/-- Writes column bytes of a core; bursts written whole lose their errors (R146). -/
def State.writeColumn (s : State) (core a : Nat) (bs : List Byte) : State :=
  (s.noteAt none (fun i => .column core (a + i)) bs).modCore core fun c =>
    { c with
      column := cellWrite c.column a bs
      colBad := c.colBad.filter fun u => !(decide (a ≤ 32 * u) && decide (32 * u + 32 ≤ a + bs.length)) }
def State.setDirEntry (s : State) (core i x : Nat) : State := s.writeColumn core (slotStart (s.core core).ctx + 16 * i) (bytesOf 16 x)

/-- The fields of a directory entry (R342). -/
def dirWord (t : TKey) (addr lenK : Nat) (ovf held : Bool) : Nat :=
  1 + (if held then 2 else 0) + (if ovf then 4 else 0) + 2 ^ 8 * (lenK % 2 ^ 16) + 2 ^ 24 * (t.slot % 256) + 2 ^ 32 * (t.team % 2 ^ 32) + 2 ^ 64 * addr

/-- The entry of a saved team says HELD. -/
def State.isHeld (s : State) (x : Saved) : Bool := (s.dirEntry x.core x.entry).testBit 1

/-- The rooms that are kept for the images of stopped teams, each with the team's core (R341). -/
def State.keptRooms (s : State) : List (Nat × ImageRoom) := s.teams.filterMap fun t => t.2.room.map fun r => (t.2.core, r)

/-- The lowest free entry of a core's directory. -/
def State.freeEntry (s : State) (core : Nat) : Option Nat :=
  (List.range 256).find? fun i => s.dirEntry core i % 4 = 0 && !(s.saved.any fun x => x.core = core && x.entry = i) &&
    !s.keptRooms.any fun r => r.1 = core && r.2.entry = i

/-- The lowest gap of `n` bytes at a 4 KiB boundary between `lo` and `hi` that no used range touches. -/
def lowestGap (lo hi n : Nat) (used : List (Nat × Nat)) : Option Nat :=
  ((lo :: used.map fun u => (u.1 + u.2 + 4095) / 4096 * 4096).filter fun a =>
    decide (lo ≤ a) && decide (a + n ≤ hi) && used.all fun u => !overlaps a n u.1 u.2).foldl (fun b a => match b with
      | none => some a
      | some c => some (min c a)) none

/-- Room in the column part of a core's slot (R341). -/
def State.columnRoom (s : State) (core n : Nat) : Option Nat :=
  let c := s.core core
  if c.ctx = 0 || c.ctxPend.isSome then none
  else lowestGap (slotStart c.ctx + 4096) columnBytes n
    (((s.saved.filter fun x => x.core = core && !x.ovf).map fun x => (x.addr, 1024 * x.lenK)) ++
      (s.keptRooms.filter fun r => r.1 = core && !r.2.ovf).map fun r => (r.2.addr, r.2.len))

/-- Room in the overflow image area (R341). -/
def State.overflowRoom (s : State) (n : Nat) : Option Nat :=
  lowestGap s.imgBase (s.imgBase + s.imgLen) n (((s.saved.filter (·.ovf)).map fun x => (x.addr, 1024 * x.lenK)) ++
    (s.keptRooms.filter fun r => r.2.ovf).map fun r => (r.2.addr, r.2.len))

/-- Where an image of `n` bytes of a team on a core goes. -/
def State.roomFor (s : State) (core n : Nat) (at_ : Option Nat) : Option ImageRoom :=
  match at_.or (s.freeEntry core) with
  | none => none
  | some i =>
    match s.columnRoom core n with
    | some a => some ⟨i, false, a, n⟩
    | none => (s.overflowRoom n).map fun a => ⟨i, true, a, n⟩

/-- Writes an image where it goes; one in the overflow area is written under the team's owner key. -/
def State.writeImage (s : State) (core : Nat) (ovf : Bool) (addr key : Nat) (bs : List Byte) : State :=
  if ovf then
    (chunksOf addr bs.length).foldl (fun s c => s.rmwWrite core 7 none ⟨c.1, false, key⟩ ((bs.drop (c.1 - addr)).take c.2)) s
  else s.writeColumn core addr bs

/-- Reads a saved team's image. -/
def State.imageRead (s : State) (x : Saved) : ImageRead := fun o n =>
  ofBytes (if x.ovf then s.rmwRead ⟨x.addr + o, false, x.keep.ownkey.toNat⟩ n else cellRead (s.core x.core).column (x.addr + o) n)

/-- The header of a saved team's image (R344). -/
def State.imageHeader (s : State) (x : Saved) : Nat := s.imageRead x 0 128
/-- GSLOT and TEAMLO: the team that the image is of. -/
def State.imageTeam (s : State) (x : Saved) : TKey := ⟨natBits (s.imageHeader x) 527 520, natBits (s.imageHeader x) 511 480⟩
/-- PWORD of an image; bits [31:22] read 0 (R14, R103). -/
def State.imagePword (s : State) (x : Saved) : Word := BitVec.ofNat 32 (natBits (s.imageHeader x) 565 544)
/-- RRPEND and BEAMH of an image. -/
def State.imageRrpend (s : State) (x : Saved) : Bool := (s.imageHeader x).testBit 625
def State.imageBeamh (s : State) (x : Saved) : Bool := (s.imageHeader x).testBit 624

/-- The image, as long as its LENK says, holds an uncorrectable error (R344, R347). -/
def State.badImage (s : State) (x : Saved) : Bool :=
  let lenK := natBits (s.imageHeader x) 543 528
  if x.ovf then (List.range (8 * lenK)).any fun i => s.isPoisoned (x.addr + 128 * i)
  else (s.core x.core).colBad.any fun u => overlaps (32 * u) 32 x.addr (1024 * lenK)

end Sys2Proof.Machine
end

