-- ==== Sys2Proof/Machine/Preempt.lean ====
section
/-! DEFINITION. Pre-emption: the stop, the save, the restore and the kill of teams, hold requests, and a new save slot (R339 to R349, R352). -/

namespace Sys2Proof.Machine

-- ## The stop (R339, R341)

/-- Cycles of a slice (R295): SLICEUS µs, or 2 ms. -/
def LaunchRec.sliceCycles (r : LaunchRec) : Nat := 2400 * (if r.sliceus = 0 then 2000 else r.sliceus)

/-- The resident teams of a team's cluster, but for killed ones of which only ring steps go on (R155, R349). -/
def State.clusterHere (s : State) (t : TKey) : List TKey :=
  (s.clusterTeams t).filter fun u => s.isResident u && !((s.team u).gone && (s.team u).killed)

/-- A team starts a new slice. -/
def State.newSlice (s : State) (t : TKey) : State := s.modTeam t fun x => { x with slice := s.cycle + (s.record t).sliceCycles }

/-- Keeps room for the image of a team; none where there is none. -/
def State.keepRoom (s : State) (t : TKey) : Option State :=
  let x := s.team t
  (s.roomFor x.core (s.imageLength t) x.holdAt).map fun r => s.modTeam t fun x => { x with room := some r }

/-- The state in which room is kept for the images of every resident team of the cluster at once, beside those of teams that have been stopped (R341);
none where there is not room for all. -/
def State.clusterRoom (s : State) (t : TKey) : Option State := (s.clusterHere t).foldl (fun acc u => acc.bind fun s => s.keepRoom u) (some s)

/-- A team stops: no group of it issues any more, its latches empty, and its waiting requests for tiles and the carry are dropped; the
instructions issue afresh after the restore. -/
def State.stopTeam (s : State) (rotate : Bool) (t : TKey) : State :=
  let x := s.team t
  let s1 := (s.modTeam t fun x => { x with stop := true, asked := false, rotate := rotate }).modGroups t fun g => { g with runLen := 0 }
  let s2 := (List.range 4).foldl (fun s p => s.modPart x.core p fun q =>
    { q with latches := q.latches.filter (·.gang.team ≠ t), carryQ := q.carryQ.filter (·.team ≠ t) }) s1
  { s2.modCore x.core fun c => { c with allocQ := c.allocQ.filter (·.1.tkey ≠ t) } with
    runs := s2.runs.filter (·.tkey ≠ t) }

/-- PREEMPTION_STOP (R339, R341): the cluster of `key`'s team stops; flagged, the team is held once it is saved. `n` is the cause: 2 a slice's end
or a grid barrier, 3 thermal rotation, which give up where no room is; 0 and 1 the others, which wait for it. While the kill of another team of the
cluster drains, the stop waits (R349). -/
def execPreemptionStop (s : State) : Host.Outcome State Fault Refusal :=
  let t := s.ev.key.tkey
  let here := s.clusterHere t
  let hold := fun (s : State) => if s.ev.flag then s.modTeam t fun x => { x with hold := true } else s
  let wait := fun (s : State) => (hold s).modTeam t fun x => { x with asked := true }
  if !s.isResident t || (s.team t).killed then .next s
  else if here.any fun u => (s.team u).killed then .next (if 2 ≤ s.ev.n then s else wait s)
  else if here.any fun u => (s.team u).stop then .next (hold s)
  else match s.clusterRoom t with
    | some s1 => .next (here.foldl (fun s u => s.stopTeam (s.ev.n == 3) u) (hold s1))
    | none =>
      if 2 ≤ s.ev.n then .next (here.foldl State.newSlice s)
      else .next (wait s)

-- ## The save (R340 to R346)

/-- A group of the team asked for a request. -/
def Asker.ofTeam (a : Asker) (t : TKey) : Bool := match a with
  | .blocking k | .posted k _ | .status k _ => k.tkey = t
  | .retired _ _ | .lapsed | .nobody => false

/-- The team's work in flight has drained (R228, R340): copies, matrix operations, remote requests, task packets that it sends or that are on their
way to it, shootdowns, beam entries, publishes on the bound slots, stores of its core not yet performed at their scope, and fences that need a
directory under rebuild. -/
def State.teamDrained (s : State) (t : TKey) : Bool :=
  let c := (s.team t).core
  !(s.copies.any (·.key.tkey = t)) && !(s.parts.any fun p => p.2.matQ.any (·.team = t)) && !(s.requests.any fun r => r.asker.ofTeam t) &&
    !(s.packets.any fun p => p.sender.tkey = t || p.owner = t) && !(s.shoots.any (·.key.tkey = t)) &&
    (s.writes.all fun w => w.core ≠ c || decide (w.scope ≤ w.reach)) &&
    (s.groups.all fun kg => kg.1.tkey ≠ t || kg.2.fences.all (s.fenceReady c kg.2)) &&
    (!(s.record t).beam || (List.range 4).all fun p => (s.part c p).transit.isEmpty && (s.part (twinOf c) p).transit.isEmpty) &&
    (List.range 8).all fun n => (s.bound t n).ops.isEmpty

/-- The fences of a drained team whose waits go on are performed (R233). -/
def State.settleFences (s : State) (t : TKey) : State :=
  let c := (s.team t).core
  (s.groupsOf t).foldl (fun s k =>
    ((s.group k).fences.foldl (fun s f => s.release c (max 1 f.scope)) s).modGroup k fun g => { g with fences := [] }) s

/-- What is kept of a group beside the image. -/
def Group.skeleton (g : Group) : Group := { g with regs := [] }

/-- The packets of a core's store that a team owns. -/
def State.storedFor (s : State) (t : TKey) : List Packet := (s.core (s.team t).core).store.filter (·.owner = t)

/-- Releases what a saved team held (R346); its column allotment stays, and so does a beam team's claim on the beam. -/
def State.releaseSaved (s : State) (t : TKey) : State :=
  let x := s.team t
  let s1 : State := { s with
    teams := kdel s.teams t, groups := s.groups.filter fun kg => kg.1.tkey ≠ t, stalled := s.stalled.filter (·.tkey ≠ t)
    notes := s.notes.filter fun n => n.key.tkey ≠ t }
  let s2 := (List.range 4).foldl (fun s p => (s.modPart x.core p fun q =>
    { q with
      active := q.active.filter (·.tkey ≠ t), parked := q.parked.filter (·.team ≠ t), fifo := if (s.record t).beam then [] else q.fifo }).dropCarry x.core p) s1
  (s2.modCore x.core fun c => { c with store := c.store.filter (·.owner ≠ t) }).dropLicence x.core x

/-- Saves a drained team into entry `i` of its core's directory, its image at `a`. The cached lines stay where they are (R236). Its queued packets go
to the overflow area, before the younger ones there, or all stay with the image (R274). -/
def State.saveTeam (s : State) (t : TKey) (i : Nat) (ovf : Bool) (a : Nat) : State :=
  let c := (s.team t).core
  let s0 := (s.modGroups t fun g => Group.completeAll (fun p => p.await.isNone) [] g.pend g).settleFences t
  let x := s0.team t
  let n := s0.imageLength t
  let s1 := s0.writeImage c ovf a x.ownkey.toNat (s0.imageOf t)
  let s2 := s1.setDirEntry c i (dirWord t a (n / 1024) ovf x.hold)
  let gr := s2.grid t.slot
  let mine := s2.storedFor t
  let room := decide (gr.overflow.length + mine.length ≤ gr.lr.overflowCap)
  let keep : Team := { x with seq := x.seq + 1, stop := false, hold := false, holdAt := none, asked := false, room := none }
  let kept : Saved :=
    { team := t, core := c, entry := i, ovf := ovf, addr := a, lenK := n / 1024, keep := keep, parks := s2.parksOf t, packets := if room then [] else mine
      groups := (s2.liveKeys t).map fun k => (k, (s2.group k).skeleton), fifo := (s2.fifosOf t).map (·.length), gridC := gr.gridC }
  let s3 := s2.modGrid t.slot fun g => { g with
    overflow := if room then mine ++ g.overflow else g.overflow
    arrived := if s2.passes t 2 then t.team :: g.arrived else g.arrived }
  ({ s3 with saved := s3.saved ++ [kept] } : State).releaseSaved t

/-- The room for a stopped team's image (R341): what was kept for it, in the entry that a hold request has named since; one in the column is no place for
a new image while a new save slot is pending, and a new place is looked for. -/
def State.savePlace (s : State) (t : TKey) : Option ImageRoom :=
  let x := s.team t
  match x.room with
  | some r =>
    if !r.ovf && (s.core x.core).ctxPend.isSome then s.roomFor x.core (s.imageLength t) (x.holdAt.or (some r.entry))
    else some { r with entry := x.holdAt.getD r.entry }
  | none => s.roomFor x.core (s.imageLength t) x.holdAt

/-- CONTEXT_SAVE (R340 to R346): the stopped team of `key` has drained and is saved. -/
def execContextSave (s : State) : Host.Outcome State Fault Refusal :=
  let t := s.ev.key.tkey
  let x := s.team t
  if s.isResident t && x.stop && !x.killed && s.teamDrained t then
    match s.savePlace t with
    | none => .next s
    | some r => .next (s.saveTeam t r.entry r.ovf r.addr)
  else .next s

-- ## The restore (R347, R348)

/-- The waits of a restored group (R347): MONW resumes with reason 3, FGET and TJOIN re-execute, a grid barrier whose phase is over lets its paths
go, and a group without a current path takes its oldest. How recently it counts as having issued is open: the model ranks it with the last
instruction issued (DESIGN CHOICE, log 75). -/
def Group.resumed (g : Group) (phaseOver : Bool) (line : Option Nat) (issued : Nat) : Group :=
  let g0 : Group := { g with arrGrid := 0#32 }
  let g1 := if phaseOver then g0.endWaits fun w => w = .barrier 2 else g
  let mon : Monitor := { g1.mon.record 3#2 with line := if g1.mon.armed then line else none }
  let g2 : Group := { g1 with mon := mon }
  let g3 := if g2.inMonw then g2.endMonw 3#2 else g2
  let stack := g3.stack.map fun (e : Entry) => match e.kind with
    | .path (.suspended (.barrier _)) => e
    | .path (.suspended _) => { e with kind := .path .ready }
    | _ => e
  let g4 : Group := { g3 with lastIssue := issued, stack := stack }
  if g4.cur.isNone then g4.takeOldest else g4

/-- The physical line of a monitored address as the group reaches it. -/
def State.monitorLine (s : State) (core : Nat) (x : Team) (g : Group) : Option Nat :=
  match s.translate core (x.space g.mode) (g.mon.addr.toNat % 2 ^ 57) .read with
  | .ok f => some (lineOf f.pa)
  | _ => none

/-- A column allotment moves to another core with its contents and their errors. -/
def State.moveColumn (s : State) (x : Saved) (core unit : Nat) : State :=
  if core = x.core || x.keep.colUnits = 0 then s
  else
    let lo := 65536 * x.keep.colUnit
    let n := 65536 * x.keep.colUnits
    let bs := cellRead (s.core x.core).column lo n
    let bad := (s.core x.core).colBad.filter fun u => overlaps (32 * u) 32 lo n
    let s1 := (s.writeColumn core (65536 * unit) bs).modCore core fun c => { c with colBad := c.colBad ++ bad.map fun u => u - lo / 32 + 2048 * unit }
    s1.writeColumn x.core lo (List.replicate n 0#8)

/-- Sets of a team's slice of the L1 TLB (R256, R289 TLBS). -/
def LaunchRec.sliceSets (r : LaunchRec) : Nat := 4 * 2 ^ r.tlbs

/-- The first set of the slice of the L1 TLB that a core gives a team: the lowest free aligned slice (DESIGN CHOICE, log 50), or
one that it shares (R256). -/
def State.tlbSlice (s : State) (core : Nat) (t : TKey) : Nat :=
  let n := (s.record t).sliceSets
  let free := ((List.range (64 / n)).map (· * n)).find? fun b => (s.teamsOn core).all fun u => u.2.gone || !overlaps b n u.2.tlbBase u.2.tlbSets
  free.getD (((t.team % 64) ^^^ (t.slot % 64)) % (64 / n) * n)

/-- The team that an image and what was kept give on a core. -/
def State.rebuilt (s : State) (x : Saved) (core base unit : Nat) : Team :=
  let im := s.imageRead x
  { Team.ofImage im (imageMap im (s.record x.team) x.keep.spRows) x.keep with
    core := core, base := base, colUnit := unit, tlbBase := s.tlbSlice core x.team, tlbSets := (s.record x.team).sliceSets, slice := s.cycle + (s.record x.team).sliceCycles, usedMatrix := false, rotate := false }

/-- The groups that an image and what was kept give, as they resume on a core. -/
def State.rebuiltGroups (s : State) (x : Saved) (core : Nat) : KMap GKey Group :=
  let im := s.imageRead x
  let r := s.record x.team
  let m := imageMap im r x.keep.spRows
  m.live.zipIdx.map fun p =>
    let k : GKey := ⟨x.team.slot, x.team.team, p.1⟩
    let was := (kfind x.groups k).getD { wsize := r.wsize, wave := decide (r.tsize ≤ p.1) }
    let g := Group.ofImage im (0x3000 + 2048 * p.1) (m.regs + 128 * r.wsize * p.2) was
    (k, g.resumed ((s.grid x.team.slot).gridC ≠ x.gridC) (s.monitorLine core x.keep g) s.issued)

/-- The parked contexts of an image. -/
def State.rebuiltParks (s : State) (x : Saved) : List (Nat × Parked) :=
  let im := s.imageRead x
  let m := imageMap im (s.record x.team) x.keep.spRows
  (x.parks.take (natBits (im 0 128) 603 598)).zipIdx.map fun p => Parked.ofImage im (m.parks + 4608 * p.2) p.1.2

/-- The pending ring step of an image goes on with the operands that it holds there (R155, R344 RRPEND). -/
def State.rebuiltRings (s : State) (x : Saved) : List RingStep :=
  let im := s.imageRead x
  match if s.imageRrpend x then s.ringPending x.team else none with
  | none => s.rings
  | some q => s.rings.map fun r => if r = q then { r with src := im 0x160 4, dst := im 0x164 4, len := im 0x168 4 } else r

/-- The bound slots of a cluster from the image of rank 0. -/
def State.rebuiltBounds (s : State) (x : Saved) : State :=
  if s.rankOf x.team ≠ 0 then s
  else (List.range 8).foldl (fun st n => st.setBound x.team n ⟨BitVec.ofNat 64 (s.imageRead x (0x120 + 8 * n) 8), []⟩) s

/-- A saved team forgets its image, and its directory entry is cleared. -/
def State.dropSaved (s : State) (x : Saved) : State :=
  let s1 : State := { s with saved := s.saved.filter fun y => y.team ≠ x.team }
  s1.setDirEntry x.core x.entry 0

/-- The entries of a beam team's image return in their order; after a gate the twin's credits are then 16 less the entries (R162, R344 BEAMH). -/
def State.rebuiltFifos (s : State) (x : Saved) (im : ImageRead) (core : Nat) : State :=
  (List.range 4).foldl (fun s p =>
    let q := s.part core p
    let entries := imFifo im p ++ q.fifo
    let s1 := s.modPart core p fun q => { q with fifo := entries }
    if x.gatedOff then s1.modPart (twinOf core) p fun q' => { q' with credits := 16 - (entries.length + q.transit.length), returning := 0 } else s1) s

/-- The entries of a saved beam team's image are discarded: their credits return to the twin (R156). -/
def State.returnImage (s : State) (x : Saved) : State :=
  x.fifo.zipIdx.foldl (fun s f => s.modPart (twinOf x.core) f.2 fun q => { q with returning := q.returning + f.1 }) s

/-- Restores a saved team, the one that its image's header names, on a core, at a slot run and a first column unit (R344, R347). On another core,
what the old one saw becomes visible first. Packets that stayed with the image wait in the store from now on (R277). -/
def State.restoreTeam (s : State) (x : Saved) (core base unit : Nat) : State :=
  let x' : Saved := { x with team := s.imageTeam x }
  let t := x'.team
  let im := s.imageRead x
  let s0 := if core = x.core then s else s.release x.core 6
  let s1 := ((s0.rebuiltBounds x').moveColumn x' core unit).dropSaved x
  let s2 : State := { s1 with
    teams := kput s1.teams t (s.rebuilt x' core base unit), groups := s1.groups ++ s.rebuiltGroups x' core, rings := s.rebuiltRings x' }
  let s3 := (s.rebuiltParks x').foldl (fun s p => s.modPart core p.1 fun q => { q with parked := q.parked ++ [p.2] }) s2
  let s4 := if s.imageBeamh x then s3.rebuiltFifos x im core else s3
  (s4.modCore core fun c => { c with pword := s.imagePword x, store := c.store ++ x.packets.map fun p => { p with since := s.cycle } }).modGrid t.slot fun g =>
    { g with arrived := g.arrived.filter (· ≠ t.team) }

-- ## Kill (R349)

/-- The task lanes of a parked context end (R349). -/
def State.endParked (s : State) (p : Parked) : State :=
  (maskLanes p.g.tasks).foldl (fun s L => s.endTask p.team p.g.joins[L] .killed) s

/-- A drained team's lanes, tasks and packets end, its groups retire, and it is released, once the ring steps that it issued have ended (R155,
R349). -/
def State.finishKill (s : State) (t : TKey) (parks : List Parked) (packets : List Packet) : State :=
  let ks := (s.groups.map (·.1)).filter fun k => k.tkey = t
  let queued := packets ++ s.storedFor t ++ (s.grid t.slot).overflow.filter (·.owner = t)
  let s1 := (s.modCore (s.team t).core fun c => { c with store := c.store.filter (·.owner ≠ t) }).modGrid t.slot fun g =>
    { g with overflow := g.overflow.filter (·.owner ≠ t) }
  let s2 := (List.range 4).foldl (fun st p => st.modPart (s.team t).core p fun q => { q with parked := q.parked.filter (·.team ≠ t) }) s1
  let s3 := ks.foldl (fun s k => s.endTaskLanes k 0xFFFFFFFF#32 .killed) s2
  let s4 := queued.foldl (fun s p => s.endTask t p.join .killed) s3
  let s5 := parks.foldl State.endParked s4
  (ks.foldl State.retireGroup s5).endTeamIfDone t

/-- Counts a killed team, with a fault record when flagged (R347, R367). -/
def State.countKill (s : State) (core : Nat) (record : Bool) : State := if record then s.healthRecord 6 0 core else s.countHealth 6

/-- A saved team is killed: what was kept beside its image gives its groups, and its image's FIFO entries return their credits (R156). -/
def State.killSaved (s : State) (x : Saved) : State :=
  let s1 := s.dropSaved x
  let s2 : State := { s1 with teams := kput s1.teams x.team { x.keep with core := x.core, stop := true, killed := true }, groups := s1.groups ++ x.groups }
  (s2.returnImage x).finishKill x.team (x.parks.map (·.2)) x.packets

/-- TEAM_KILL (R349): the team of `key` stops and drains, or its saved image is taken, and its lanes then retire; flagged, a fault record is
written. A team that has not been placed never will be, and its packets in the overflow area end (R278). -/
def execTeamKill (s : State) : Host.Outcome State Fault Refusal :=
  let t := s.ev.key.tkey
  if s.hasEnded t || (kfind s.grids t.slot).isNone then .next s
  else match kfind s.teams t with
    | some x =>
      if x.gone then .next s
      else if !x.killed then
        .next (((s.countKill x.core s.ev.flag).stopTeam false t).modTeam t fun x => { x with killed := true, room := none })
      else if s.teamDrained t then .next (s.finishKill t ((s.parksOf t).map (·.2)) [])
      else .next s
    | none =>
      match s.saved.find? fun x => x.team = t with
      | some x => .next ((s.countKill x.core s.ev.flag).killSaved x)
      | none =>
        let gr := s.grid t.slot
        let s1 := (s.countKill noCore s.ev.flag).modGrid t.slot fun g => { g with
          ended := t.team :: g.ended
          overflow := g.overflow.filter (·.owner ≠ t) }
        let s2 := (gr.overflow.filter (·.owner = t)).foldl (fun s p => s.endTask t p.join .killed) s1
        .next (if t.team < (s.record t).teamCount then (s2.checkClusterBarrier t).checkGridBarrier t.slot else s)

-- ## Hold requests and the save slot (R341, R352)

/-- A directory entry that asks for a hold: VALID = 0 and HELD = 1, and no team is being saved into it. -/
def State.holdAsked (s : State) (core i : Nat) : Bool :=
  s.dirEntry core i % 4 = 2 && !s.teams.any fun t => t.2.core = core && t.2.holdAt = some i

/-- HOLD_REQUEST (R352): the first request in the directory of core `core`: its team, resident there, is stopped at once and will be saved
into that entry; or the request is cleared. -/
def execHoldRequest (s : State) : Host.Outcome State Fault Refusal :=
  match (List.range 256).find? (s.holdAsked s.ev.core) with
  | none => .next s
  | some i =>
    let e := s.dirEntry s.ev.core i
    let t : TKey := ⟨natBits e 31 24, natBits e 63 32⟩
    match kfind s.teams t with
    | some x =>
      if x.core = s.ev.core && !x.killed && x.holdAt.isNone then
        .next ((s.modTeam t fun x => { x with holdAt := some i }).sooner [⟨.preemptionStop, { key := ⟨t.slot, t.team, 0⟩, flag := true }⟩])
      else .next (s.setDirEntry s.ev.core i 0)
    | none => .next (s.setDirEntry s.ev.core i 0)

/-- A team's or a saved team's column allotment reaches an offset (R341). -/
def State.allotmentAbove (s : State) (core start : Nat) : Bool :=
  let above := fun (x : Team) => x.colUnits ≠ 0 && decide (start < 65536 * (x.colUnit + x.colUnits))
  (s.teams.any fun t => t.2.core = core && above t.2) || s.saved.any fun x => x.core = core && above x.keep

/-- The pending slot of a core can take effect (R341). -/
def State.ctxReady (s : State) (core : Nat) : Bool :=
  match (s.core core).ctxPend with
  | none => false
  | some p => !(s.saved.any fun x => x.core = core && !x.ovf) && !s.allotmentAbove core (slotStart p)

/-- CTXBASE_TAKE_EFFECT (R341): the pending offset of core `core` takes effect; the new directory is cleared, and the entries of the core's images
in the overflow area move into it. Room kept in the column for a stopped team is given up: its image goes where there is room then. -/
def execCtxbaseTakeEffect (s : State) : Host.Outcome State Fault Refusal :=
  let c := s.ev.core
  match (s.core c).ctxPend with
  | none => .next s
  | some p =>
    if s.ctxReady c then
      let old := (s.saved.filter (·.core = c)).map fun x => (x.entry, s.dirEntry c x.entry)
      let s0 : State := { s with teams := s.teams.map fun t => (t.1, if t.2.core = c && t.2.room.any (!·.ovf) then { t.2 with room := none } else t.2) }
      let s1 := (s0.modCore c fun x => { x with ctx := p, ctxPend := none }).writeColumn c (slotStart p) (List.replicate 4096 0#8)
      .next (old.foldl (fun s e => s.setDirEntry c e.1 e.2) s1)
    else .next s

end Sys2Proof.Machine
end

