-- ==== Sys2Proof/Machine/Debug.lean ====
section
/-! DEFINITION. The debug monitor's service of a mailbox (R350 to R355). Each step serves the request that the mailbox of core `core` holds, when
its command is the step's; `key` names the monitor's own group. -/

namespace Sys2Proof.Machine

-- ## The mailbox (R353, R355)

/-- The physical address of a core's mailbox. -/
def State.mailbox (s : State) (core : Nat) : Nat := s.dbgBase + 4096 * core
/-- Bytes of the mailbox, in pages of key slot 0. -/
def State.mailRead (s : State) (core o n : Nat) : List Byte :=
  (chunksOf (s.mailbox core + o) n).flatMap fun c => s.rmwRead ⟨c.1, false, 0⟩ c.2
def State.mailWrite (s : State) (core o : Nat) (bs : List Byte) : State :=
  let a := s.mailbox core + o
  (chunksOf a bs.length).foldl (fun s c => s.rmwWrite core 6 none ⟨c.1, false, 0⟩ ((bs.drop (c.1 - a)).take c.2)) s

/-- The header of a request (R353). -/
structure Mail where
  addr  : Nat
  len   : Nat
  sel   : Nat
  group : Nat
  team  : TKey
  cmd   : Nat
  ack   : Nat
  req   : Nat
deriving DecidableEq, Repr

def State.mail (s : State) (core : Nat) : Mail :=
  let h := ofBytes (s.mailRead core 0 64)
  ⟨natBits h 319 256, natBits h 255 224, natBits h 223 208, natBits h 207 200, ⟨natBits h 159 152, natBits h 191 160⟩, natBits h 143 136,
    natBits h 63 32, natBits h 31 0⟩

/-- The request is acknowledged with a status, after a release (R355). -/
def State.acknowledge (s : State) (core : Nat) (m : Mail) (status : Nat) : State :=
  ((s.release core 6).mailWrite core 18 (bytesOf 1 status)).mailWrite core 4 (bytesOf 4 m.req)

/-- The commands of R354. -/
def Mail.known (m : Mail) : Bool := decide (1 ≤ m.cmd) && decide (m.cmd ≤ 10)

/-- Serves a command (R355): the body answers a status, or none while the monitor waits. A command that is none of R354's is served by any of these
steps, with status 3 (DESIGN CHOICE, log 79). -/
def serveMail (cmd : Nat) (body : State → Mail → Option (State × Nat)) (s : State) : Host.Outcome State Fault Refusal :=
  let c := s.ev.core
  let m := s.mail c
  if (m.known && m.cmd ≠ cmd) || m.req = m.ack then .next s
  else if m.req ≠ (m.ack + 1) % 2 ^ 32 then .next (s.acknowledge c m 5)
  else if !m.known then .next (s.acknowledge c m 3)
  else match body s m with
    | none => .next s
    | some (s1, st) => .next (s1.acknowledge c m st)

/-- The held team that a request names; otherwise status 1 where the core has no such team, and 2 where it is not held. -/
def State.target (s : State) (core : Nat) (m : Mail) : Except Nat Saved :=
  match s.saved.find? fun x => x.team = m.team && x.core = core with
  | some x => if s.isHeld x then .ok x else .error 2
  | none => match kfind s.teams m.team with
    | some x => .error (if x.core = core then 2 else 1)
    | none => .error 1

/-- Serves a command on a held team; any other team gives status 2 (R354). -/
def onHeld (cmd : Nat) (body : State → Mail → Saved → State × Nat) (s : State) : Host.Outcome State Fault Refusal :=
  serveMail cmd (fun s m => match s.target s.ev.core m with
    | .error _ => some (s, 2)
    | .ok x => some (body s m x)) s

/-- Writes bytes of a saved team's image. -/
def State.imageWrite (s : State) (x : Saved) (o : Nat) (bs : List Byte) : State :=
  s.writeImage x.core x.ovf (x.addr + o) x.keep.ownkey.toNat bs

/-- HELD := 0 in a saved team's entry. -/
def State.resume (s : State) (x : Saved) : State :=
  let e := s.dirEntry x.core x.entry
  s.setDirEntry x.core x.entry (if e.testBit 1 then e - 2 else e)

-- ## HALT, RESUME, STEP, breakpoints and LIST (R352, R354)

/-- The entry by which a hold request names a team (R352, R342): HELD, the slot and the team index. -/
def holdWord (t : TKey) : Nat := 2 + 2 ^ 24 * (t.slot % 256) + 2 ^ 32 * (t.team % 2 ^ 32)

/-- Posts a hold request for a resident team that has none, in a free entry of its core's directory. -/
def State.postHold (s : State) (core : Nat) (t : TKey) : State :=
  let posted := (List.range 256).any fun i => s.dirEntry core i = holdWord t
  if s.isResident t && !posted && (s.team t).holdAt.isNone then
    match s.freeEntry core with
    | some i => s.setDirEntry core i (holdWord t)
    | none => s
  else s

/-- DEBUG_HALT (R352, R354): a hold request goes into a free entry of the directory, and the request is done once the team is held. -/
def execDebugHalt (s : State) : Host.Outcome State Fault Refusal :=
  let c := s.ev.core
  let m := s.mail c
  match s.target c m with
  | .error 2 =>
    if m.cmd ≠ 1 || m.req ≠ (m.ack + 1) % 2 ^ 32 then serveMail 1 (fun s _ => some (s, 0)) s
    else .next (s.postHold c m.team)
  | .error st => serveMail 1 (fun s _ => some (s, st)) s
  | .ok _ => serveMail 1 (fun s _ => some (s, 0)) s

/-- DEBUG_RESUME. -/
def execDebugResume (s : State) : Host.Outcome State Fault Refusal := onHeld 2 (fun s _ x => (s.resume x, 0)) s

/-- The group index of a request names a live group of the image. -/
def State.liveGroup (s : State) (x : Saved) (g : Nat) : Bool :=
  decide (g < (s.record x.team).ngrp) && (imWord (s.imageRead x) (0x3000 + 2048 * g + 524)).getLsbD 16

/-- The offset of a group's record in the image. -/
def groupAt (g : Nat) : Nat := 0x3000 + 2048 * g

/-- DEBUG_STEP. -/
def execDebugStep (s : State) : Host.Outcome State Fault Refusal :=
  onHeld 7 (fun s m x =>
    if !s.liveGroup x m.group then (s, 3)
    else
      let o := groupAt m.group + 524
      ((s.imageWrite x o (bytesOf 4 (imWord (s.imageRead x) o ||| 0x8000#32).toNat)).resume x, 0)) s

/-- DEBUG_SETBP. -/
def execDebugSetbp (s : State) : Host.Outcome State Fault Refusal :=
  onHeld 8 (fun s m x =>
    if 4 ≤ m.sel || m.addr % 4 ≠ 0 then (s, 3) else (s.imageWrite x (112 + 4 * m.sel) (bytesOf 4 (m.addr % 2 ^ 32 + 1)), 0)) s

/-- DEBUG_CLRBP. -/
def execDebugClrbp (s : State) : Host.Outcome State Fault Refusal :=
  onHeld 9 (fun s m x => if 4 ≤ m.sel then (s, 3) else (s.imageWrite x (112 + 4 * m.sel) (bytesOf 4 0), 0)) s

/-- DEBUG_LIST: the valid entries of the core's directory, as many as the data area holds. -/
def execDebugList (s : State) : Host.Outcome State Fault Refusal :=
  serveMail 10 (fun s _ =>
    let c := s.ev.core
    let es := ((List.range 256).map (s.dirEntry c)).filter fun e => e % 2 = 1
    let bs := ((es.take 252).flatMap fun e => bytesOf 16 e)
    some ((s.mailWrite c 64 bs).mailWrite c 28 (bytesOf 4 bs.length), 0)) s

-- ## Registers of a held group (R354)

/-- The state in which a saved team stands on its core, to read a special register as its group would. -/
def State.standing (s : State) (x : Saved) : State :=
  { s with teams := kput s.teams x.team (s.rebuilt x x.core x.keep.base x.keep.colUnit), groups := s.groups ++ (imageMap (s.imageRead x) (s.record x.team)
      x.keep.spRows).live.zipIdx.map fun p =>
        let k : GKey := ⟨x.team.slot, x.team.team, p.1⟩
        let m := imageMap (s.imageRead x) (s.record x.team) x.keep.spRows
        let was := (kfind x.groups k).getD { wsize := (s.record x.team).wsize }
        (k, Group.ofImage (s.imageRead x) (groupAt p.1) (m.regs + 128 * (s.record x.team).wsize * p.2) was) }

/-- A special register as a group would read it, one word per lane. -/
def State.specialLanes (s : State) (k : GKey) (n : Nat) : Lanes Word :=
  let g := s.group k
  let p := g.cur.getD ⟨0#32, 0#32, 0#32⟩
  match n with
  | 0x00 => lanesOf fun L => BitVec.ofNat 32 L.val
  | 0x09 => lanesOf fun L => if g.nrm.getLsbD L then 1#32 else 0#32
  | 0x0A => lanesOf fun L => g.aflags[L].setWidth 32
  | 0x0B => lanesOf fun L => g.aen[L].setWidth 32
  | n => uniformLanes (View.special ⟨s, k, g, p, p.pc⟩ n)

/-- Where an allocation register of a live group lies in the image. -/
def State.regAt (s : State) (x : Saved) (g n : Nat) : Option Nat :=
  let r := s.record x.team
  let m := imageMap (s.imageRead x) r x.keep.spRows
  match m.live.zipIdx.find? fun p => p.1 = g with
  | some p => if n < r.wsize then some (m.regs + 128 * r.wsize * p.2 + 128 * n) else none
  | none => none

/-- The bytes of an item that SEL selects (R354); none is status 3. -/
def State.readItem (s : State) (x : Saved) (g sel : Nat) : Option (List Byte) :=
  let im := s.imageRead x
  if !s.liveGroup x g then none
  else if sel < 0x100 then (s.regAt x g sel).map fun o => bytesOf 128 (im o 128)
  else if sel < 0x180 then
    if isSpecial (sel - 0x100) then some (laneWords ((s.standing x).specialLanes ⟨x.team.slot, x.team.team, g⟩ (sel - 0x100))) else none
  else if 0x200 ≤ sel && decide (sel < 0x220) then some (bytesOf 16 (im (groupAt g + 16 * (sel - 0x200)) 16))
  else if sel = 0x300 then some (bytesOf 12 (im (groupAt g + 512) 12))
  else none

/-- DEBUG_RDREG. -/
def execDebugRdreg (s : State) : Host.Outcome State Fault Refusal :=
  onHeld 3 (fun s m x => match s.readItem x m.group m.sel with
    | some bs => (s.mailWrite s.ev.core 64 bs, 0)
    | none => (s, 3)) s

/-- The offset in a group's record of a bank register that SEL selects: 0x41 to 0x46 in the bank of the group's mode, 0x68 to 0x6D in the
supervisor bank (R105, R345). -/
def bankAt (mode n : Nat) : Option Nat :=
  if 0x41 ≤ n && decide (n ≤ 0x46) then some ((if 2 ≤ mode then 600 else 576) + 4 * (n - 0x41))
  else if 0x68 ≤ n && decide (n ≤ 0x6D) then some (576 + 4 * (n - 0x68))
  else none

/-- Writes the item that SEL selects (R354); none is status 3. -/
def State.writeItem (s : State) (x : Saved) (g sel : Nat) (bs : List Byte) : Option State :=
  let at_ := groupAt g
  let mode := natBits (imWord (s.imageRead x) (at_ + 524)).toNat 2 1
  let word := fun (i : Nat) => ofBytes ((bs.drop (4 * i)).take 4)
  if !s.liveGroup x g then none
  else if sel < 0x100 then (s.regAt x g sel).map fun o => s.imageWrite x o (bs.take 128)
  else if sel = 0x10A || sel = 0x10B then
    some (s.imageWrite x (at_ + if sel = 0x10A then 624 else 656) ((List.range 32).map fun L => BitVec.ofNat 8 (word L % 32)))
  else if sel < 0x180 then
    (bankAt mode (sel - 0x100)).map fun o =>
      s.imageWrite x (at_ + o) (bytesOf 4 (if sel = 0x142 || sel = 0x169 then word 0 % 0x8000 else word 0))
  else if sel = 0x300 && word 0 % 4 = 0 then some (s.imageWrite x (at_ + 512) (bytesOf 4 (word 0)))
  else none

/-- DEBUG_WRREG. -/
def execDebugWrreg (s : State) : Host.Outcome State Fault Refusal :=
  onHeld 4 (fun s m x => match s.writeItem x m.group m.sel (s.mailRead s.ev.core 64 128) with
    | some s1 => (s1, 0)
    | none => (s, 3)) s

-- ## Memory in the monitor's address space (R354)

/-- The frames of a range as the monitor reaches them; none is a memory fault. -/
def State.monitorFrames (s : State) (a n : Nat) (need : Need) : Option (List (Frame × Nat)) :=
  (chunksOf a n).foldl (fun acc c => match acc, s.access (s.coreOf s.ev.key) ((s.team s.ev.key.tkey).space .supervisor) (BitVec.ofNat 64 c.1) 1 need with
    | some fs, .ok f => some (fs ++ [(f, c.2)])
    | _, _ => none) (some [])

/-- DEBUG_RDMEM. -/
def execDebugRdmem (s : State) : Host.Outcome State Fault Refusal :=
  serveMail 5 (fun s m =>
    if m.len = 0 || 4032 < m.len then some (s, 3)
    else match s.monitorFrames m.addr m.len .read with
      | none => some (s, 4)
      | some fs => some (s.mailWrite s.ev.core 64 (fs.flatMap fun f => s.loadBytes (s.coreOf s.ev.key) f.1 f.2), 0)) s

/-- DEBUG_WRMEM. -/
def execDebugWrmem (s : State) : Host.Outcome State Fault Refusal :=
  serveMail 6 (fun s m =>
    if m.len = 0 || 4032 < m.len then some (s, 3)
    else match s.monitorFrames m.addr m.len .write with
      | none => some (s, 4)
      | some fs =>
        let bs := s.mailRead s.ev.core 64 m.len
        let r := fs.foldl (fun (acc : State × List Byte) f =>
          (acc.1.storeBytes (s.coreOf s.ev.key) 6 (some s.ev.key) f.1 (acc.2.take f.2), acc.2.drop f.2)) (s, bs)
        some (r.1, 0)) s

end Sys2Proof.Machine
end

