-- ==== Sys2Proof/Machine/Fabric.lean ====
section
/-! DEFINITION. Ports and planes, the trust domain and its re-keys (R298, R299, R301 to R303, R307 to R309). -/

namespace Sys2Proof.Machine

-- ## Ports and planes (R302, R303)

def State.setPort (s : State) (n : Nat) (f : Port → Port) : State := { s with ports := kput s.ports n (f (s.port n)) }

/-- The first live plane at or after a plane, in ascending order, wrapping at 31 (R302). -/
def State.livePlane (s : State) (from_ : Nat) : Option Nat := ((List.range 32).map fun i => (from_ + i) % 32).find? fun p => (s.port p).up

/-- Counts a replay (R367 HCNT3). -/
def State.countReplay (s : State) : State := s.countHealth 3

/-- FLIT_REPLAY (R302, R367): the oldest unacknowledged flit of port `n` is replayed; flagged, it then passes its CRC and is acknowledged, and
otherwise it has failed once more. A port whose flit fails 8 replays is down. Port 32 stands for the host link. -/
def execFlitReplay (s : State) : Host.Outcome State Fault Refusal :=
  if 32 ≤ s.ev.n then .next s.countReplay
  else if (s.port s.ev.n).replay.isEmpty then .next s
  else
    let s2 := s.countReplay.setPort s.ev.n fun p =>
      if s.ev.flag then { p with tries := 0, replay := p.replay.tail } else { p with tries := p.tries + 1 }
    .next (if 8 ≤ (s2.port s.ev.n).tries then s2.sooner [⟨.portDown, { n := s.ev.n }⟩] else s2)

/-- PORT_DOWN (R302): port `n` has failed 8 replays, or, flagged, has lost training; its plane takes no new packet. Moves to it are off, and the packets that
waited for them go on the planes that their entries still name, before any later ones. -/
def execPortDown (s : State) : Host.Outcome State Fault Refusal :=
  if s.ev.n < 32 && (s.ev.flag || decide (8 ≤ (s.port s.ev.n).tries)) then
    .next (State.sendHeld { s.setPort s.ev.n fun p => { p with up := false, tries := 0 } with moving := s.moving.filter fun m => m.2 ≠ s.ev.n })
  else .next s

/-- PLANE_REMAP (R302): once no request is outstanding on the down plane `n`, its map entries point at the next live plane. -/
def execPlaneRemap (s : State) : Host.Outcome State Fault Refusal :=
  let n := s.ev.n % 32
  if (s.port n).up || s.requests.any fun r => r.plane = n && r.peer ≠ s.selfNum then .next s
  else match s.livePlane n with
    | none => .next s
    | some q =>
      .next (State.sendHeld { s with planeMap := (List.range 32).foldl (fun m h => if s.planeOf h = n then kput m h q else m) s.planeMap })

/-- The moves that give each entry the first live plane at or after it (R302). -/
def State.movesDue (s : State) : List (Nat × Nat) :=
  (List.range 32).filterMap fun h => match s.livePlane h with
    | some q => if s.planeOf h = q then none else some (h, q)
    | none => none

/-- The entry has no request outstanding (R302). -/
def State.entryDrained (s : State) (h : Nat) : Bool := !s.requests.any fun r => r.entry = h && r.peer ≠ s.selfNum

/-- SELFPEER [31] reads 1 once the ports are trained and the number is assigned (R298); one port that is up is enough (DESIGN CHOICE, log 83). -/
def State.trained (s : State) : State :=
  if s.numbered && !s.noPlane then { s with selfPeer := s.selfPeer ||| 0x80000000#32 } else s

/-- PLANE_RECOVERY (R302): the down plane `n` has trained, for the first time or again, and the entries to be moved are worked out; or, with the plane up, entry `m` has
drained and moves. -/
def execPlaneRecovery (s : State) : Host.Outcome State Fault Refusal :=
  if !(s.port s.ev.n).up then
    if s.ev.n < 32 then
      let s1 := s.setPort s.ev.n fun p => { p with up := true, tries := 0 }
      .next (State.sendHeld { s1.trained with moving := s1.movesDue })
    else .next s
  else match s.moving.find? fun x => x.1 = s.ev.m with
    | none => .next s
    | some x =>
      if s.entryDrained x.1 then
        .next (State.sendHeld { s with planeMap := kput s.planeMap x.1 x.2, moving := s.moving.filter fun y => y.1 ≠ x.1 })
      else .next s

/-- PORT_WIDTH_CHANGE (R303): port `n` drops to one lane, or, flagged, returns to two. -/
def execPortWidthChange (s : State) : Host.Outcome State Fault Refusal :=
  if s.ev.n < 32 then .next (s.setPort s.ev.n fun p => { p with lanes := if s.ev.flag then 2 else 1 }) else .next s

/-- PEER_NUMBER_ASSIGNMENT (R298): the fabric manager gives the device number `n`; the ports of mask `m` have trained. -/
def execPeerNumberAssignment (s : State) : Host.Outcome State Fault Refusal :=
  let up := (List.range 32).filter s.ev.m.testBit
  let s1 := up.foldl (fun s p => s.setPort p fun x => { x with up := true, tries := 0 }) s
  let s2 : State := { s1 with planeMap := (List.range 32).foldl (fun m h => kput m h ((s1.livePlane h).getD h)) [] }
  .next (State.trained { s2 with selfPeer := BitVec.ofNat 32 (s.ev.n % 512), numbered := true }).sendHeld

-- ## The trust domain (R299, R307, R308)

def State.modDomain (s : State) (n : Nat) (f : Domain → Domain) : State := { s with domains := kput s.domains n (f ((kfind s.domains n).getD {})) }

/-- SPDM_SESSION (R307): a session with the managing member `n` has run; flagged, every step of it has passed, and it stays open. -/
def execSpdmSession (s : State) : Host.Outcome State Fault Refusal :=
  .next { s with sessions := if s.ev.flag then s.ev.n :: s.sessions.filter (· ≠ s.ev.n) else s.sessions.filter (· ≠ s.ev.n) }

/-- The fields of a domain entry that the manager gives (R299); KSEL and NEXTV are the device's own. -/
def Domain.ofEntry (old : Domain) (x : Nat) : Domain :=
  { old with
    heapb := BitVec.ofNat 64 (natBits x 63 0), heapsz := BitVec.ofNat 64 (natBits x 127 64)
    ptb := BitVec.ofNat 64 (natBits x 166 128 * 8192), asid := BitVec.ofNat 16 (natBits x 207 192)
    ownkey := BitVec.ofNat 12 (natBits x 219 208), valid := x.testBit 220, isSealed := x.testBit 221 }

/-- DOMAIN_KEY_LOAD (R307, R308 step 1): inside a session with member `m`, a fresh key for domain `n` goes into the slot not in use, and NEXTV
reads 1; `data` holds the domain entry where the manager gives one. -/
def execDomainKeyLoad (s : State) : Host.Outcome State Fault Refusal :=
  if s.sessions.contains s.ev.m then
    .next (s.modDomain s.ev.n fun e =>
      { (if s.ev.data.isEmpty then e else e.ofEntry (ofBytes s.ev.data)) with nextv := true })
  else .next s

/-- The peers of a 64-byte mask. -/
def maskPeers (bs : List Byte) : List Nat := (List.range 512).filter (ofBytes bs).testBit

/-- Peers that leave a domain (R308 step 2, R318): requests to them fail, and subscriptions with them end. A failure is LOST or UNKNOWN, as
`lost` says. -/
def State.depart (s : State) (dom : Nat) (gone : Nat → Bool) (lost : Bool) : State :=
  let s1 := (s.requests.filter fun r => r.dom = dom && gone r.peer).foldl (fun s r => s.failRequest r.id (if lost then 8 else 9)) s
  let s2 := s1.dropSubs fun x => x.dom = dom && gone x.peer
  let s3 : State := { s2 with homes := (s2.homes.map fun r =>
    if r.dom = dom then { r with subs := r.subs.filter fun p => !gone p } else r).filter fun r => !r.subs.isEmpty }
  State.endPushes { s3 with heldOut := s3.heldOut.filter fun p => !(p.dom = dom && gone p.peer) } fun p => p.dom = dom && gone p.peer

/-- MEMBER_MASK_UPDATE (R308 steps 2 and 3): the new mask `data` of domain `n` arrives; departed peers are dropped, their requests failing with LOST
when flagged and with UNKNOWN otherwise, and the domain pauses. -/
def execMemberMaskUpdate (s : State) : Host.Outcome State Fault Refusal :=
  let new := maskPeers s.ev.data
  let old := ((kfind s.domains s.ev.n).getD {}).members
  let s1 := s.modDomain s.ev.n fun e =>
    { e with members := new, paused := true, joining := new.filter fun p => !old.contains p, sentBarrier := false }
  .next (s1.depart s.ev.n (fun p => !new.contains p) s.ev.flag)

/-- Members that continue through a re-key, this device apart. -/
def State.continuing (s : State) (e : Domain) : List Nat := e.members.filter fun p => !e.joining.contains p && p ≠ s.selfNum

/-- REKEY_BARRIER_SEND (R308 step 4): every request of domain `n` has a response or has failed, and a barrier packet goes to every continuing
member; a joiner sends none. -/
def execRekeyBarrierSend (s : State) : Host.Outcome State Fault Refusal :=
  let e := (kfind s.domains s.ev.n).getD {}
  if e.paused && !e.sentBarrier && !e.joining.contains s.selfNum && !s.requests.any fun r => r.dom = s.ev.n then
    .next (((s.continuing e).foldl (fun s p => s.send p s.ev.n p 0 .barrier) s).modDomain s.ev.n fun e => { e with sentBarrier := true })
  else .next s

/-- A packet of a domain that no pause holds, its barrier among them, still waits for its plane. -/
def State.barrierHeld (s : State) (dom : Nat) : Bool := s.heldOut.any fun p => p.dom = dom && !p.pauses

/-- REKEY_SWITCH (R308 steps 5 and 6): with the barriers of every other continuing member held, the new key of domain `n` comes into use, its
streams start again, and traffic resumes. No barrier is sent to a joiner, which waits for none. -/
def execRekeySwitch (s : State) : Host.Outcome State Fault Refusal :=
  let e := (kfind s.domains s.ev.n).getD {}
  let joins := e.joining.contains s.selfNum
  if e.paused && e.nextv && (joins || (e.sentBarrier && (s.continuing e).all e.barriers.contains)) && !s.barrierHeld s.ev.n then
    .next (State.sendHeld { s.modDomain s.ev.n fun e =>
        { e with ksel := !e.ksel, nextv := false, paused := false, joining := [], sentBarrier := false, barriers := [] } with
      seqOut := s.seqOut.filter fun x => x.1.1 ≠ s.ev.n
      seqIn := s.seqIn.filter fun x => x.1.1 ≠ s.ev.n
      rekeyAsks := s.rekeyAsks.filter (· ≠ s.ev.n) })
  else .next s

/-- REKEY_TIMEOUT (R308): the manager removes member `m`, which has not completed step 4 within 10 ms, from domain `n`. -/
def execRekeyTimeout (s : State) : Host.Outcome State Fault Refusal :=
  if ((kfind s.domains s.ev.n).getD {}).paused then
    .next ((s.modDomain s.ev.n fun e => { e with members := e.members.filter (· ≠ s.ev.m) }).depart s.ev.n (fun p => p = s.ev.m) s.ev.flag)
  else .next s

end Sys2Proof.Machine
end

