-- ==== Sys2Proof/Machine/Fun.lean ====
section
/-! DEFINITION. The special-function unit (R61, R62, R131, R133). FSQRT is correctly rounded; for the other six functions the
result is one of the FP32 values within the bound of R61, and Config.sfuPick chooses which (log 9). -/

namespace Sys2Proof.Machine

/-- Fraction bits of the fixed-point enclosures below. -/
def sfuBits : Nat := 256
/-- ⌊π/2 × 2^256⌋. -/
def halfPi : Nat := 0x1921fb54442d18469898cc51701b839a252049c1114cf98e804177d4c76273644
/-- ⌊ln 2 × 2^256⌋. -/
def lnTwo : Nat := 0xb17217f7d1cf79abc9e3b39803f2f6af40f343267298b62d8a0d175b8baafa2b

/-- The FP32 value of a signed magnitude key, in units of 2^−256. -/
def keyUnits (k : Int) : Int :=
  match fp32.decode k.natAbs with
  | .num _ m e => (if k < 0 then -1 else 1) * (m * 2 ^ (e + sfuBits).toNat : Nat)
  | _ => 0

/-- The FP32 encoding of a key. -/
def keyWord (k : Int) : Word := BitVec.ofNat 32 (if k < 0 then 2 ^ 31 + k.natAbs else k.natAbs)

/-- One unit in the last place of a result between lo and hi, in units of 2^−256 (R61): that of the end nearer to zero, so that a result just
below a power of two keeps the smaller unit. -/
def ulpUnits (lo hi : Int) : Int :=
  let m := min lo.natAbs hi.natAbs
  (2 ^ (max ((Nat.log2 m : Int) - sfuBits) (-126) - 23 + sfuBits).toNat : Nat)

/-- The finite FP32 values within `bound` units in the last place of the exact result, of magnitude codes up to `top`; where a zero is among them,
both zeros are. lo is at most the exact result rounded up to a whole 2^−256, hi at least that rounded down: an FP32 value and the bound
are whole in that unit, so the test is exact where the two are. -/
def sfuCandidates (bound : Nat) (lo hi : Int) (top : Nat := fp32.maxEnc) : List Word :=
  let k0 : Int := (if lo < 0 then -1 else 1) * ((fp32.round .rz false (.num false lo.natAbs (-(sfuBits : Int)))).1 : Nat)
  let slack := bound * ulpUnits lo hi
  let keys := ((List.range 13).map fun (i : Nat) => k0 + (i : Int) - 6).filter fun k =>
    decide (k.natAbs ≤ top) && decide (lo - slack ≤ keyUnits k) && decide (keyUnits k ≤ hi + slack)
  keys.map keyWord ++ if keys.contains 0 then [0x80000000#32] else []

/-- The result of function `code` for the operand: one of the allowed values, the same for every run (R60, R61). -/
def sfuResult (code : Nat) (x : Word) (bound : Nat) (lo hi : Int) (top : Nat := fp32.maxEnc) : Word :=
  let ws := sfuCandidates bound lo hi top
  ws.getD (Config.sfuPick code x % ws.length) 0#32

/-- UF when the result is subnormal or zero (R62). -/
def ufOf (r : Word) : Flags := flagIf (decide (r.toNat % 2 ^ 31 < 2 ^ 23)) flagUF

def canonical32 : Word := BitVec.ofNat 32 fp32.canonical
def inf32 (neg : Bool) : Word := if neg then 0xFF800000#32 else 0x7F800000#32
def zero32 (neg : Bool) : Word := if neg then 0x80000000#32 else 0#32

/-- The enclosure with its sign. -/
def signedEnclosure (neg : Bool) (lo hi : Nat) : Int × Int := if neg then (-(hi : Int), -(lo : Int)) else (lo, hi)

/-- FRCP (R61, R62): for |x| > 2^126 a zero or a subnormal within the bound. -/
def frcp (a : Word) : Word × Flags :=
  match f32 a with
  | .nan sig => (canonical32, flagIf sig flagNV)
  | .inf neg => (zero32 neg, 0#5)
  | .num neg mag exp =>
    if mag = 0 then (inf32 neg, flagDZ)
    else if exp = -149 && decide (mag ≤ 2 ^ 21) then (inf32 neg, flagOF)
    else
      let q := 2 ^ ((sfuBits : Int) - exp).toNat / mag
      let e := signedEnclosure neg (if q * mag = 2 ^ ((sfuBits : Int) - exp).toNat then q else q + 1) q
      if (exp = 103 && mag ≠ 2 ^ 23) || exp = 104 then (sfuResult 0x07 a 1 e.1 e.2 0x007FFFFF, flagUF)
      else (sfuResult 0x07 a 1 e.1 e.2, 0#5)

/-- FRSQ (R61, R62). The table of R62 has no row for +∞: the result is the exact one, +0, with no flag (DESIGN CHOICE, log 80). -/
def frsq (a : Word) : Word × Flags :=
  match f32 a with
  | .nan sig => (canonical32, flagIf sig flagNV)
  | .inf neg => if neg then (canonical32, flagNV) else (zero32 false, 0#5)
  | .num neg mag exp =>
    if mag = 0 then (inf32 neg, flagDZ)
    else if neg then (canonical32, flagNV)
    else
      let r := isqrt (2 ^ (2 * (sfuBits : Int) - exp).toNat / mag)
      (sfuResult 0x08 a 1 (if mag * (r * r) = 2 ^ (2 * (sfuBits : Int) - exp).toNat then r else r + 1 : Nat) r, 0#5)

/-- FSQRT (R61, R62): correctly rounded, with the flags of R53. -/
def fsqrt (a : Word) : Word × Flags :=
  match f32 a with
  | .nan sig => (canonical32, flagIf sig flagNV)
  | .inf neg => if neg then (canonical32, flagNV) else (inf32 false, 0#5)
  | .num neg mag exp =>
    if mag = 0 then (a, 0#5)
    else if neg then (canonical32, flagNV)
    else
      let sh : Nat := if exp % 2 = 0 then 80 else 81
      let M := mag * 2 ^ sh
      let r := isqrt M
      toF32 (.num false (2 * r + (if r * r = M then 0 else 1)) ((exp - sh) / 2 - 1))

/-- The exponential series: the sum of terms t^k / k! from the k-th on, `n` of them, in fixed point. -/
def expSeries (t : Nat) : Nat → Nat → Nat → Nat
  | 0, _, _ => 0
  | n + 1, k, term => term + expSeries t n (k + 1) (term * t / 2 ^ sfuBits / (k + 1))

/-- FEX2 (R61, R62): never above the largest finite value. -/
def fex2 (a : Word) : Word × Flags :=
  match f32 a with
  | .nan sig => (canonical32, flagIf sig flagNV)
  | .inf neg => (if neg then zero32 false else inf32 false, 0#5)
  | x@(.num ..) =>
    let u := x.units (-(sfuBits : Int))
    let one : Int := (2 ^ sfuBits : Nat)
    if 128 * one ≤ u then (inf32 false, flagOF)
    else if u < -149 * one then (zero32 false, flagUF)
    else
      let n := u / one
      let f := (u % one).toNat
      let y := expSeries (f * lnTwo / 2 ^ sfuBits) 64 0 (2 ^ sfuBits)
      let err := if f = 0 then 0 else 256
      let lo := if 0 ≤ n then (y - err) * 2 ^ n.toNat else (y - err) / 2 ^ (-n).toNat
      let hi := if 0 ≤ n then (y + err) * 2 ^ n.toNat else (y + err) / 2 ^ (-n).toNat
      let r := sfuResult 0x0A a 2 lo hi
      (r, ufOf r)

/-- The first `n` fraction bits of the binary logarithm of M / 2^256, for M / 2^256 from 1 to below 2, after the bits so far. -/
def logBits : Nat → Nat → Nat → Nat
  | 0, _, acc => acc
  | n + 1, M, acc =>
    let q := M * M / 2 ^ sfuBits
    if 2 * 2 ^ sfuBits ≤ q then logBits n (q / 2) (2 * acc + 1) else logBits n q (2 * acc)

/-- FLG2 (R61, R62). -/
def flg2 (a : Word) : Word × Flags :=
  match f32 a with
  | .nan sig => (canonical32, flagIf sig flagNV)
  | .inf neg => if neg then (canonical32, flagNV) else (inf32 false, 0#5)
  | .num neg mag exp =>
    if mag = 0 then (inf32 true, flagDZ)
    else if neg then (canonical32, flagNV)
    else if a = 0x3F800000#32 then (zero32 false, 0#5)
    else
      let top := Nat.log2 mag
      let f := logBits 128 (mag * 2 ^ (sfuBits - top)) 0
      let v : Int := ((top : Int) + exp) * (2 ^ sfuBits : Nat) + (f * 2 ^ (sfuBits - 128) : Nat)
      let slack : Int := if mag = 2 ^ top then 0 else (2 ^ (sfuBits - 100) : Nat)
      (sfuResult 0x0B a 2 (v - slack) (v + slack), 0#5)

/-- The alternating series of sine (from the first power) and cosine (from the zeroth): `n` terms from the k-th power on. -/
def trigSeries (t2 : Nat) : Nat → Nat → Nat → Int
  | 0, _, _ => 0
  | n + 1, k, term => (term : Int) - trigSeries t2 n (k + 2) (term * t2 / 2 ^ sfuBits / ((k + 1) * (k + 2)))

/-- The sine of |x| plus `shift` quarter turns, in units of 2^−256, from |x| in these units. -/
def sineOf (u shift : Nat) : Int :=
  let k := u / halfPi + shift
  let r := u % halfPi
  let t2 := r * r / 2 ^ sfuBits
  let sin := trigSeries t2 40 1 r
  let cos := trigSeries t2 40 0 (2 ^ sfuBits)
  match k % 4 with
  | 0 => sin
  | 1 => cos
  | 2 => -sin
  | _ => -cos

/-- FSIN and FCOS (R61, R62); `code` is that of R131. The magnitude stays below 1, and that of a sine below |x|. -/
def sinCos (code : Nat) (a : Word) : Word × Flags :=
  let isCos := code == 0x0D
  match f32 a with
  | .nan sig => (canonical32, flagIf sig flagNV)
  | .inf _ => (canonical32, flagNV)
  | .num neg mag exp =>
    if mag = 0 then (if isCos then 0x3F800000#32 else a, 0#5)
    else
      let u := mag * 2 ^ (exp + sfuBits).toNat
      if 2 ^ 22 * halfPi < u then (canonical32, flagNV)
      else
        let v := sineOf u (if isCos then 1 else 0)
        let v := if neg && !isCos then -v else v
        let slack : Int := (2 ^ 40 : Nat)
        let top : Int := (if isCos then 2 ^ sfuBits else min (2 ^ sfuBits) u : Nat) - 1
        (sfuResult code a 2 (max (v - slack) (-top)) (min (v + slack) top), 0#5)

def execFrcp (d a : Reg) (s : State) : Host.Outcome State Fault Refusal := float1 4 (some 24) frcp d a s
def execFrsq (d a : Reg) (s : State) : Host.Outcome State Fault Refusal := float1 4 (some 24) frsq d a s
def execFsqrt (d a : Reg) (s : State) : Host.Outcome State Fault Refusal := float1 4 (some 24) fsqrt d a s
def execFex2 (d a : Reg) (s : State) : Host.Outcome State Fault Refusal := float1 4 (some 24) fex2 d a s
def execFlg2 (d a : Reg) (s : State) : Host.Outcome State Fault Refusal := float1 4 (some 24) flg2 d a s
def execFsin (d a : Reg) (s : State) : Host.Outcome State Fault Refusal := float1 4 (some 24) (sinCos 0x0C) d a s
def execFcos (d a : Reg) (s : State) : Host.Outcome State Fault Refusal := float1 4 (some 24) (sinCos 0x0D) d a s

end Sys2Proof.Machine
end

