-- ==== Sys2Proof/Machine/Integer.lean ====
section
/-! DEFINITION. The integer instructions of the rods (R120 to R126). -/

namespace Sys2Proof.Machine

/-- A two-operand instruction that writes a word (R119, R121). -/
def alu2 (f : Word → Word → Word) (d a b : Reg) (s : State) : Host.Outcome State Fault Refusal :=
  issue (fun _ => { names := [d.toNat, a.toNat, b.toNat], reads := [a.toNat, b.toNat] }) (fun v =>
    let x := v.rd a.toNat
    let y := v.rd b.toNat
    .ok (v.wr v.s d.toNat (lanesOf fun L => f x[L] y[L]))) s

/-- An instruction that also reads D: `f` of D, A and B (R119). -/
def alu3 (f : Word → Word → Word → Word) (d a b : Reg) (s : State) : Host.Outcome State Fault Refusal :=
  issue (fun _ => { names := [d.toNat, a.toNat, b.toNat], reads := [d.toNat, a.toNat, b.toNat] }) (fun v =>
    let z := v.rd d.toNat
    let x := v.rd a.toNat
    let y := v.rd b.toNat
    .ok (v.wr v.s d.toNat (lanesOf fun L => f z[L] x[L] y[L]))) s

/-- A one-operand instruction (R124, R125), after a prefix or none. -/
def alu1 (p : Pfx) (f : Word → Word) (d a : Reg) (s : State) : Host.Outcome State Fault Refusal :=
  issue (fun _ => { pfx := p, names := [d.toNat, a.toNat], reads := [a.toNat] }) (fun v =>
    let x := v.rd a.toNat
    .ok (v.wr v.s d.toNat (lanesOf fun L => f x[L]))) s

/-- 1 when the test holds, else 0 (R121). -/
def ofTest (b : Bool) : Word := if b then 1#32 else 0#32

/-- The low or high word of an exact product of signed or unsigned words (R121). -/
def mulHighS (a b : Word) : Word := hiWord (BitVec.ofInt 64 (a.toInt * b.toInt))
/-- The high word of the exact unsigned product (R121). -/
def mulHighU (a b : Word) : Word := hiWord (BitVec.ofNat 64 (a.toNat * b.toNat))

def execAdd (d a b : Reg) (s : State) : Host.Outcome State Fault Refusal := alu2 (fun a b => a + b) d a b s
def execSub (d a b : Reg) (s : State) : Host.Outcome State Fault Refusal := alu2 (fun a b => a - b) d a b s
def execMul (d a b : Reg) (s : State) : Host.Outcome State Fault Refusal := alu2 (fun a b => a * b) d a b s
def execMulhs (d a b : Reg) (s : State) : Host.Outcome State Fault Refusal := alu2 mulHighS d a b s
def execMulhu (d a b : Reg) (s : State) : Host.Outcome State Fault Refusal := alu2 mulHighU d a b s
def execMad (d a b : Reg) (s : State) : Host.Outcome State Fault Refusal := alu3 (fun d a b => d + a * b) d a b s
def execMin (d a b : Reg) (s : State) : Host.Outcome State Fault Refusal :=
  alu2 (fun a b => if a.toInt ≤ b.toInt then a else b) d a b s
def execMax (d a b : Reg) (s : State) : Host.Outcome State Fault Refusal :=
  alu2 (fun a b => if a.toInt ≥ b.toInt then a else b) d a b s
def execMinu (d a b : Reg) (s : State) : Host.Outcome State Fault Refusal :=
  alu2 (fun a b => if a.toNat ≤ b.toNat then a else b) d a b s
def execMaxu (d a b : Reg) (s : State) : Host.Outcome State Fault Refusal :=
  alu2 (fun a b => if a.toNat ≥ b.toNat then a else b) d a b s
def execAnd (d a b : Reg) (s : State) : Host.Outcome State Fault Refusal := alu2 (fun a b => a &&& b) d a b s
def execOr (d a b : Reg) (s : State) : Host.Outcome State Fault Refusal := alu2 (fun a b => a ||| b) d a b s
def execXor (d a b : Reg) (s : State) : Host.Outcome State Fault Refusal := alu2 (fun a b => a ^^^ b) d a b s
def execSeq (d a b : Reg) (s : State) : Host.Outcome State Fault Refusal := alu2 (fun a b => ofTest (a == b)) d a b s
def execSlt (d a b : Reg) (s : State) : Host.Outcome State Fault Refusal :=
  alu2 (fun a b => ofTest (decide (a.toInt < b.toInt))) d a b s
def execSltu (d a b : Reg) (s : State) : Host.Outcome State Fault Refusal :=
  alu2 (fun a b => ofTest (decide (a.toNat < b.toNat))) d a b s

/-- ADD64 (R122). -/
def execAdd64 (d a b : Reg) (s : State) : Host.Outcome State Fault Refusal :=
  issue (fun _ => { names := pairRegs d.toNat ++ pairRegs a.toNat ++ pairRegs b.toNat
                    reads := pairRegs a.toNat ++ pairRegs b.toNat }) (fun v =>
    let x := v.rd2 a.toNat
    let y := v.rd2 b.toNat
    .ok (v.wr2 v.s d.toNat (lanesOf fun L => x[L] + y[L]))) s

/-- ADDZ64 (R122): payload [4:0] is the left shift (R26). -/
def execAddz64 (p : Pfx) (d a b : Reg) (s : State) : Host.Outcome State Fault Refusal :=
  issue (fun _ => { pfx := p, names := pairRegs d.toNat ++ pairRegs a.toNat ++ [b.toNat]
                    reads := pairRegs a.toNat ++ [b.toNat] }) (fun v =>
    let x := v.rd2 a.toNat
    let y := v.rd b.toNat
    .ok (v.wr2 v.s d.toNat (lanesOf fun L => x[L] + (y[L].setWidth 64 <<< ((payload p).toNat % 32))))) s

/-- A product of words into a pair, two beats a lane (R117, R122). -/
def mulPair (f : Word → Word → DWord) (d a b : Reg) (s : State) : Host.Outcome State Fault Refusal :=
  issue (fun _ => { names := pairRegs d.toNat ++ [a.toNat, b.toNat], reads := [a.toNat, b.toNat], factor := 2 }) (fun v =>
    let x := v.rd a.toNat
    let y := v.rd b.toNat
    .ok (v.wr2 v.s d.toNat (lanesOf fun L => f x[L] y[L]))) s

def execMulws (d a b : Reg) (s : State) : Host.Outcome State Fault Refusal :=
  mulPair (fun a b => BitVec.ofInt 64 (a.toInt * b.toInt)) d a b s
def execMulwz (d a b : Reg) (s : State) : Host.Outcome State Fault Refusal :=
  mulPair (fun a b => BitVec.ofNat 64 (a.toNat * b.toNat)) d a b s

/-! The immediate forms (R123). -/

def execAddi (p : Pfx) (d a : Reg) (i : BitVec 7) (s : State) : Host.Outcome State Fault Refusal :=
  alu1 p (fun x => x + imm7 p i) d a s
def execAndi (p : Pfx) (d a : Reg) (i : BitVec 7) (s : State) : Host.Outcome State Fault Refusal :=
  alu1 p (fun x => x &&& imm7 p i) d a s
def execOri (p : Pfx) (d a : Reg) (i : BitVec 7) (s : State) : Host.Outcome State Fault Refusal :=
  alu1 p (fun x => x ||| imm7 p i) d a s
def execXori (p : Pfx) (d a : Reg) (i : BitVec 7) (s : State) : Host.Outcome State Fault Refusal :=
  alu1 p (fun x => x ^^^ imm7 p i) d a s

/-! Shifts and rotates (R124). -/

/-- Shift left; 0 from 32 on. -/
def shiftLeft (a : Word) (n : Nat) : Word := if 32 ≤ n then 0#32 else a <<< n
/-- Logical shift right; 0 from 32 on. -/
def shiftRight (a : Word) (n : Nat) : Word := if 32 ≤ n then 0#32 else a >>> n
/-- Arithmetic shift right; all sign bits from 32 on. -/
def shiftArith (a : Word) (n : Nat) : Word := if 32 ≤ n then (if a.msb then 0xFFFFFFFF#32 else 0#32) else a.sshiftRight n
/-- Rotation to the left by the amount modulo 32. -/
def rotLeft (a : Word) (n : Nat) : Word := (a <<< (n % 32)) ||| (a >>> ((32 - n % 32) % 32))

def execShl (d a b : Reg) (s : State) : Host.Outcome State Fault Refusal := alu2 (fun a b => shiftLeft a b.toNat) d a b s
def execShr (d a b : Reg) (s : State) : Host.Outcome State Fault Refusal := alu2 (fun a b => shiftRight a b.toNat) d a b s
def execSar (d a b : Reg) (s : State) : Host.Outcome State Fault Refusal := alu2 (fun a b => shiftArith a b.toNat) d a b s
def execRot (d a b : Reg) (s : State) : Host.Outcome State Fault Refusal := alu2 (fun a b => rotLeft a b.toNat) d a b s
def execShli (d a : Reg) (n : BitVec 5) (s : State) : Host.Outcome State Fault Refusal :=
  alu1 none (fun x => shiftLeft x n.toNat) d a s
def execShri (d a : Reg) (n : BitVec 5) (s : State) : Host.Outcome State Fault Refusal :=
  alu1 none (fun x => shiftRight x n.toNat) d a s
def execSari (d a : Reg) (n : BitVec 5) (s : State) : Host.Outcome State Fault Refusal :=
  alu1 none (fun x => shiftArith x n.toNat) d a s
def execRoti (d a : Reg) (n : BitVec 5) (s : State) : Host.Outcome State Fault Refusal :=
  alu1 none (fun x => rotLeft x n.toNat) d a s

/-! One-operand bit operations (R125). -/

/-- The number of the word's bits, from the given list of positions on, that are zero before the first one. -/
def zerosBefore (a : Word) : List Nat → Nat
  | [] => 0
  | i :: is => if a.getLsbD i then 0 else 1 + zerosBefore a is

/-- Number of leading zero bits. -/
def leadingZeros (a : Word) : Word := BitVec.ofNat 32 (zerosBefore a (List.range 32).reverse)
/-- Number of trailing zero bits. -/
def trailingZeros (a : Word) : Word := BitVec.ofNat 32 (zerosBefore a (List.range 32))

def execClz (d a : Reg) (s : State) : Host.Outcome State Fault Refusal := alu1 none leadingZeros d a s
def execPopc (d a : Reg) (s : State) : Host.Outcome State Fault Refusal :=
  alu1 none (fun x => BitVec.ofNat 32 (popcount x)) d a s
def execBrev (d a : Reg) (s : State) : Host.Outcome State Fault Refusal := alu1 none (fun x => x.reverse) d a s
def execAbs (d a : Reg) (s : State) : Host.Outcome State Fault Refusal :=
  alu1 none (fun x => if x.msb then 0#32 - x else x) d a s
def execNeg (d a : Reg) (s : State) : Host.Outcome State Fault Refusal := alu1 none (fun x => 0#32 - x) d a s
def execNot (d a : Reg) (s : State) : Host.Outcome State Fault Refusal := alu1 none (fun x => ~~~x) d a s
def execSextb (d a : Reg) (s : State) : Host.Outcome State Fault Refusal :=
  alu1 none (fun x => (x.extractLsb' 0 8).signExtend 32) d a s
def execSexth (d a : Reg) (s : State) : Host.Outcome State Fault Refusal :=
  alu1 none (fun x => (x.extractLsb' 0 16).signExtend 32) d a s
def execZextb (d a : Reg) (s : State) : Host.Outcome State Fault Refusal := alu1 none (fun x => x &&& 0xFF#32) d a s
def execZexth (d a : Reg) (s : State) : Host.Outcome State Fault Refusal := alu1 none (fun x => x &&& 0xFFFF#32) d a s
def execCtz (d a : Reg) (s : State) : Host.Outcome State Fault Refusal := alu1 none trailingZeros d a s

/-! Bit fields (R126): B holds the position [4:0], the length [10:5] and the sign flag [11]. -/

def fieldPos (b : Word) : Nat := natBits b.toNat 4 0
def fieldLen (b : Word) : Nat := min (natBits b.toNat 10 5) (32 - fieldPos b)
/-- A mask of the `n` low bits. -/
def lowMask (n : Nat) : Word := BitVec.ofNat 32 (2 ^ n - 1)

/-- BFX of one lane. -/
def fieldOf (a b : Word) : Word :=
  let n := fieldLen b
  if n = 0 then 0#32
  else
    let f := (a >>> fieldPos b) &&& lowMask n
    if b.getLsbD 11 && f.getLsbD (n - 1) then f ||| ~~~lowMask n else f

/-- BFI of one lane. -/
def fieldInto (d a b : Word) : Word :=
  let m := lowMask (fieldLen b) <<< fieldPos b
  (d &&& ~~~m) ||| ((a <<< fieldPos b) &&& m)

def execBfx (d a b : Reg) (s : State) : Host.Outcome State Fault Refusal := alu2 fieldOf d a b s
def execBfi (d a b : Reg) (s : State) : Host.Outcome State Fault Refusal := alu3 fieldInto d a b s

end Sys2Proof.Machine
end

