-- ==== Sys2Proof/Machine/IssueEvents.lean ====
section
/-! DEFINITION. The steps of issue: arbitration, the active set, the ends of runs and quanta, results that arrive, paths that become
ready, breakpoints and single steps (R19, R66 to R69, R76, R77, R350). Each acts on the group that the step names in `key`. -/

namespace Sys2Proof.Machine

/-- The group waits at a rendezvous latch (R192). -/
def State.atLatch (s : State) (k : GKey) : Bool :=
  (s.part (s.coreOf k) (partOf k)).latches.any fun l => l.arrivals.any fun a => a.key = k

/-- The group has a path and its next instruction is not held: its next run is ready (R66). A group that waits at a latch, for a
shootdown or for peers, or whose team has been stopped for a pre-emption, issues nothing (R192, R258,
R311, R339). -/
def State.runReady (s : State) (k : GKey) : Bool :=
  match kfind s.groups k with
  | some g => g.cur.isSome && g.remote.isNone && !s.stalled.contains k && !s.atLatch k && !(s.team k.tkey).stop && !s.shoots.any fun x => x.key = k
  | none => false

/-- The group slot of its partition that a group occupies (R5, R95). -/
def State.slotOf (s : State) (k : GKey) : Nat := (s.team k.tkey).base + k.g / 4

/-- Of two groups, the one that issued less recently; a tie goes to the lower group slot (R66). -/
def State.earlier (s : State) (a b : GKey) : GKey :=
  let x := (s.group a).lastIssue
  let y := (s.group b).lastIssue
  if y < x || (x == y && decide (s.slotOf b < s.slotOf a)) then b else a

/-- The least recently issued of a list of groups. -/
def State.earliest (s : State) : List GKey → Option GKey
  | [] => none
  | k :: ks => some (ks.foldl s.earlier k)

/-- The group may take a rod pair: it is ready and holds none (R66). -/
def State.candidate (s : State) (k : GKey) : Bool := s.runReady k && !s.runs.contains k

/-- A rod pair of a partition is free (R63). -/
def State.slotFree (s : State) (core part : Nat) : Bool := decide ((s.runs.filter fun k => s.coreOf k = core && partOf k = part).length < 4)

/-- The cycles after its entry into the active set in which a group may start a run are over (R67). -/
def State.entered (s : State) (k : GKey) : Bool := decide ((s.group k).runFrom ≤ s.cycle)

/-- ISSUE_ARBITRATION (R66): a free rod pair of partition `part` of core `core` goes to the least recently issued candidate of the active
set, whose instruction comes next. -/
def execIssueArbitration (s : State) : Host.Outcome State Fault Refusal :=
  match s.earliest ((s.part s.ev.core s.ev.part).active.filter fun k => s.candidate k && s.entered k) with
  | some k => if s.slotFree s.ev.core s.ev.part then .next { s with runs := k :: s.runs, focus := some k } else .next s
  | none => .next s

/-- RUN_LIMIT (R19, R37): the run of `key` ends at its 24th instruction, without a fault, wherever E stands. -/
def execRunLimit (s : State) : Host.Outcome State Fault Refusal :=
  if s.runs.contains s.ev.key && decide (24 ≤ (s.group s.ev.key).runLen) then .next (s.endRun s.ev.key) else .next s

/-- The ready groups of a partition that stand outside its active set (R67). -/
def State.outside (s : State) (core part : Nat) : List GKey :=
  (s.groups.map (·.1)).filter fun k => s.coreOf k == core && partOf k == part && s.candidate k && !(s.part core part).active.contains k

/-- ACTIVE_SET_ENTRY (R67): of the ready groups outside the active set of partition `part` of core `core`, the least recently issued one enters a
free place; its results of fixed latency complete (R68), and its first run starts 4 cycles later at the earliest. The registers that those
results reach count as written most recently (DESIGN CHOICE, log 82). -/
def execActiveSetEntry (s : State) : Host.Outcome State Fault Refusal :=
  let c := s.ev.core
  let q := s.ev.part
  match s.earliest (s.outside c q) with
  | some k =>
    if (s.part c q).active.length < 8 then
      .next ((s.modPart c q fun p => { p with active := p.active ++ [k] }).modGroup k fun g => { g.drainFixed with runFrom := s.cycle + 4 })
    else .next s
  | none => .next s

/-- The group has had no ready run for 64 consecutive cycles (R67). -/
def State.longUnready (s : State) (k : GKey) : Bool :=
  !s.runReady k && !s.runs.contains k && (match (s.group k).unready with
    | some c => decide (c + 64 ≤ s.cycle)
    | none => false)

/-- ACTIVE_SET_EVICTION (R67): a group without a ready run for 64 consecutive cycles leaves the set while a ready group waits outside it; its
register cache goes back to the board. -/
def execActiveSetEviction (s : State) : Host.Outcome State Fault Refusal :=
  let k := s.ev.key
  if s.longUnready k && !(s.outside (s.coreOf k) (partOf k)).isEmpty then .next (s.leaveActive k) else .next s

/-- QUANTUM_EXPIRY (R77): after 1,024 instructions for the current path the group rotates; a change of path ends the run (R80). -/
def execQuantumExpiry (s : State) : Host.Outcome State Fault Refusal :=
  let k := s.ev.key
  match kfind s.groups k with
  | none => .next s
  | some g =>
    match g.cur with
    | none => .next s
    | some p =>
      if g.quantum < 1024 then .next s
      else
        let r := g.rotate p p.pc
        let s' := s.setGroup k r.1
        .next (if r.2 then s'.endRun k else s')

/-- FIXED_LATENCY_WRITEBACK (R68): results whose counted beats are over go into their registers. -/
def execFixedLatencyWriteback (s : State) : Host.Outcome State Fault Refusal := .next (s.modGroup s.ev.key Group.drainDue)

/-- INTERLOCKED_WRITE_COMPLETE (R69, R104): the `n`-th interlocked result on its way to the group's registers arrives, and readers
may go on. -/
def execInterlockedWriteComplete (s : State) : Host.Outcome State Fault Refusal :=
  let late := ((s.group s.ev.key).pend.zipIdx.filter fun p => p.1.left == none && p.1.await == none)[s.ev.n]?
  match late with
  | none => .next s
  | some (p, i) =>
    .next { s.modGroup s.ev.key fun g => g.completeWrite (g.pend.take i) p (g.pend.drop (i + 1)) with
      stalled := s.stalled.filter (· ≠ s.ev.key) }

/-- A breakpoint that matches the PC at which a user path is about to issue (R350). -/
def State.breakpointAt (s : State) (k : GKey) (g : Group) (p : Path) : Option Nat :=
  if g.mode = .user && g.exempt ≠ some p.pc then
    (List.range 4).find? fun i =>
      let b := (kfind (s.team k.tkey).bps i).getD 0#32
      b.getLsbD 0 && b &&& 0xFFFFFFFC#32 == p.pc
  else none

/-- BREAKPOINT_TRAP (R350): BRK with the PC as return PC and detail 1 + i, before the checks of R32. -/
def execBreakpointTrap (s : State) : Host.Outcome State Fault Refusal :=
  let k := s.ev.key
  match kfind s.groups k with
  | none => .next s
  | some g =>
    match g.cur with
    | none => .next s
    | some p =>
      match s.breakpointAt k g p with
      | none => .next s
      | some i => .next (s.trap k p p.pc { cause := .brk, lanes := p.ex, detail := 1 + i })

/-- SINGLE_STEP_TRAP (R350): BRK with the next PC of the path as return PC and detail 0x10; where the stepped instruction has left the group
without a path, the trap waits for the next one (DEDUCED, log 78). -/
def execSingleStepTrap (s : State) : Host.Outcome State Fault Refusal :=
  let k := s.ev.key
  match kfind s.groups k with
  | none => .next s
  | some g =>
    match g.cur with
    | none => .next (s.modGroup k fun g => { g with stepDue := true })
    | some p => .next ((s.modGroup k fun g => { g with stepDue := false }).trap k p p.pc { cause := .brk, lanes := p.ex, detail := 0x10 })

end Sys2Proof.Machine
end

