-- ==== Sys2Proof/Machine/Power.lean ====
section
/-! DEFINITION. Power and heat, the host link and the management aperture, resets, owner keys, and the fencing of units (R356 to R368). -/

namespace Sys2Proof.Machine

-- ## Power and heat (R356 to R359)

/-- The lowest value that power and heat leave to TAR and Pt. -/
def lowTar : Nat := 0x2000
/-- The highest value of TAR and Pt. -/
def fullTar : Nat := 0x10000

/-- The temperature term of R357. -/
def heatTerm (t : Nat) : Nat := if t ≤ 85 then fullTar else if t < 93 then fullTar - (t - 85) * 0x1C00 else lowTar

/-- A pair's new TAR, and whether the pair is then hot (R358). -/
def Pair.setTar (p : Pair) (v : Nat) : Pair := { p with tar := v, hot := if v < p.hotAt then true else if p.clearAt < v then false else p.hot }

/-- The sensor of a block position. -/
def State.sensor (s : State) (block : Nat) : Nat := (kfind s.sensors block).getD 0
def State.setSensor (s : State) (block t : Nat) : State := { s with sensors := kput s.sensors block t }

/-- The temperature of the pair of a core (R357). -/
def State.pairTemp (s : State) (c : Nat) : Nat :=
  let p := pairOf c
  max (max (s.sensor (p / 16)) (s.sensor (p / 16 + 16))) (s.pair c).temp

/-- A trip of one of its decks pins the TAR of the pair of a core (R359). -/
def State.pinned (s : State) (c : Nat) : Bool := s.hotDecks.contains (pairOf c / 256) || s.hotDecks.contains (pairOf c / 256 + 1)

/-- Every sensor of a deck reads below 100 °C. -/
def State.deckCool (s : State) (d : Nat) : Bool := (List.range 16).all fun i => decide (s.sensor (16 * d + i) < 100)

/-- The TAR of every pair of a deck's stack is pinned (R359). -/
def State.pinStack (s : State) (d : Nat) : State :=
  (List.range 256).foldl (fun s i => s.modPair (d / 2 * 512 + i) fun p => p.setTar lowTar) s

-- ## What a reset leaves (R245, R359, R361 to R363)

/-- What stays of the device when its logic loses its state: the memories with what is known of their lines, the fences, the records of STATUS
that last, the sensors with the trips that last until a deck is cool, the host link, and what the world outside holds, has seen and will do. -/
def State.restarted (s : State) : State :=
  let kept : State := { State.reset with
    mem := s.mem
    poisoned := s.poisoned
    keyGen := s.keyGen
    lineKeys := s.lineKeys
    snoopBad := s.snoopBad
    thermTrip := s.thermTrip
    replace := s.replace
    degraded := s.degraded
    hostOut := s.hostOut
    hostCached := s.hostCached
    hostLink := s.hostLink
    imgBase := s.imgBase
    imgLen := s.imgLen
    dbgBase := s.dbgBase
    sensors := s.sensors
    hotDecks := s.hotDecks
    sent := s.sent
    inputs := s.inputs
    picks := s.picks
    pairs := s.pairs.map fun p => (p.1, { temp := p.2.temp, doubled := p.2.doubled })
    cores := s.cores.map fun c => (c.1, { column := c.2.column, colBad := c.2.colBad, fenced := c.2.fenced }) }
  s.hotDecks.foldl State.pinStack kept

/-- Before a reset the caches are written back, and rebuilds in progress end (R242, R245). -/
def State.settled (s : State) : State := (s.rebuild.foldl State.endRebuild s).flushCaches fun _ => true

/-- The shutdown at 115 °C (R359): host lines are written back, THERMTRIP is set, a fatal error is reported, and all but the always-powered domain
loses power. -/
def State.shutDown (s : State) : State :=
  let s1 := s.settled.restarted
  { s1 with
    thermTrip := true, fatal := true, off := true, hlogb := s.hlogb, hlogn := s.hlogn, hlogt := s.hlogt, hcnt := s.hcnt, killTeam := s.killTeam }

/-- A sensor gives a reading (R359): at 115 °C the package shuts down; at 105 °C the sensor's deck trips, and every pair of its stack is pinned, until
every sensor of the deck reads below 100 °C. -/
def State.readSensor (s : State) (block t : Nat) : State :=
  let d := block / 16
  let s1 := s.setSensor block t
  if s.off then s
  else if 115 ≤ t then s1.shutDown
  else if 105 ≤ t then State.pinStack { s1 with hotDecks := d :: s1.hotDecks.filter (· ≠ d) } d
  else if s1.deckCool d then { s1 with hotDecks := s1.hotDecks.filter (· ≠ d) }
  else s1

/-- TAR_UPDATE (R357 to R359): for the pair of core `core`, with `n` and `m` the readings of its block position on the lower and the upper deck. -/
def execTarUpdate (s : State) : Host.Outcome State Fault Refusal :=
  let c := s.ev.core
  let s1 := (s.readSensor (pairOf c / 16) s.ev.n).readSensor (pairOf c / 16 + 16) s.ev.m
  if s1.off then .next s1
  else .next (s1.modPair c fun p => p.setTar (if s1.pinned c then lowTar else min (heatTerm (s1.pairTemp c)) p.pt))

/-- POWER_SAMPLE (R356): the package draws `n` watts. -/
def execPowerSample (s : State) : Host.Outcome State Fault Refusal :=
  let step := fun (f : Nat → Nat) => s.pairs.map fun p => if p.2.licence.isSome then (p.1, { p.2 with pt := f p.2.pt }) else p
  if 2800 < s.ev.n then
    let floor := s.pairs.all fun p => p.2.licence.isNone || p.2.pt == lowTar
    .next { s with pairs := step fun x => max lowTar (x - 0x0800), capAll := s.capAll || floor }
  else if s.ev.n < 2700 then .next { s with pairs := step fun x => min fullTar (x + 0x0800), capAll := false }
  else .next s

/-- THERMAL_TRIP (R359): the sensor of block `n` reads `m`. -/
def execThermalTrip (s : State) : Host.Outcome State Fault Refusal := .next (s.readSensor (s.ev.n % 128) s.ev.m)

/-- THERMAL_SHUTDOWN (R359): a sensor of the package reads `m`: from 115 °C on the package shuts down. -/
def execThermalShutdown (s : State) : Host.Outcome State Fault Refusal :=
  .next (if s.off || decide (s.ev.m < 115) then s else s.shutDown)

/-- COLUMN_REFRESH_RATE_CHANGE (R148, R359): the sensor of the column region of the pair of core `core` reads `n`: above 85 °C the rate doubles, and
below 83 °C it returns; from 115 °C on the package shuts down. -/
def execColumnRefreshRateChange (s : State) : Host.Outcome State Fault Refusal :=
  let s1 := s.modPair s.ev.core fun p =>
    { p with
      temp := min 255 s.ev.n
      doubled := if 85 < s.ev.n then true else if s.ev.n < 83 then false else p.doubled }
  .next (if s.off || decide (s.ev.n < 115) then s1 else s1.shutDown)

-- ## Resets (R245, R361 to R363)

/-- The boot: READY, or BOOTFAIL where an image fails verification (R361, R365). -/
def State.booted (s : State) (fails : Bool) : State := { s with ready := !fails, bootFail := fails }

/-- A directory for every core whose column has contents. -/
def State.clearDirectories (s : State) : State :=
  s.cores.foldl (fun s c => s.writeColumn c.1 (slotStart c.2.ctx) (List.replicate 4096 0#8)) s

/-- WARM_RESET (R242, R245, R362, R368): cached lines are written back, and the package starts again; flagged, an image fails verification. Fences,
REPLACE and THERMTRIP stay. While the package is off after a thermal shutdown it does nothing (R359; DESIGN CHOICE, log 95). -/
def execWarmReset (s : State) : Host.Outcome State Fault Refusal :=
  .next (if s.off then s else (s.settled.restarted.clearDirectories).booted s.ev.flag)

/-- COLD_RESET (R361, R365, R368): reset is released with power applied. `data` is the map of the cores that fail the self-test, bit n for core n;
flagged, an image fails verification. The firmware reserves the overflow image area at `n`, of `m` bytes, and the mailboxes lie from `k` on. -/
def execColdReset (s : State) : Host.Outcome State Fault Refusal :=
  let map := ofBytes s.ev.data
  let bad := (List.range 2048).filter fun c => map.testBit c
  let s1 := bad.foldl (fun s c => s.modCore c fun x => { x with fenced := true }) State.reset
  let s2 : State := { s1 with
    imgBase := s.ev.n, imgLen := s.ev.m, dbgBase := s.ev.k, degraded := !bad.isEmpty, replace := !bad.isEmpty, hostLink := s.hostLink
    hostOut := s.hostOut, sent := s.sent, inputs := s.inputs, picks := s.picks }
  .next (s2.booted s.ev.flag)

-- ## The host link and the aperture (R360 to R364, R367)

/-- HOST_LINK_TRAIN (R360): the link trains at `n` GT/s, at most 128, with `m` lanes: 16, 8 or 4. -/
def execHostLinkTrain (s : State) : Host.Outcome State Fault Refusal :=
  if 0 < s.ev.n && decide (s.ev.n ≤ 128) && [16, 8, 4].contains s.ev.m then .next { s with hostLink := ⟨true, s.ev.n, s.ev.m⟩ } else .next s

/-- STATUS (R363). -/
def State.status (s : State) : Nat :=
  s.ready.toNat + 2 * s.bootFail.toNat + 4 * s.fatal.toNat + 8 * s.thermTrip.toNat + 16 * s.replace.toNat + 32 * s.degraded.toNat

/-- The fenced cores, and the blocks and decks whose cores are all fenced. -/
def State.fencedCores (s : State) : List Nat := (List.range 2048).filter fun c => (s.core c).fenced
/-- GEOM (R362). -/
def State.geom (s : State) : Nat :=
  let f := s.fencedCores
  let decks := (List.range 8).filter fun d => decide ((f.filter fun c => c / 256 = d).length < 256)
  let blocks := (List.range 128).filter fun b => (f.filter fun c => c / 16 = b).length = 16
  (decks.map (2 ^ ·)).sum + 256 * (blocks.length % 256) + 65536 * f.length

/-- A word of FENCEMAP (R362). -/
def State.fenceWord (s : State) (i : Nat) : Nat := ((List.range 32).filter fun b => (s.core (32 * i + b)).fenced).map (2 ^ ·) |>.sum

/-- The word at an offset of the aperture (R362). -/
def State.aperture (s : State) (o : Nat) : Word :=
  if o = 0x0000 then 0x20480001#32
  else if o = 0x0004 then BitVec.ofNat 32 s.status
  else if o = 0x0010 then BitVec.ofNat 32 s.geom
  else if o = 0x0020 then loWord s.hlogb
  else if o = 0x0024 then hiWord s.hlogb
  else if o = 0x0028 then s.hlogn.setWidth 32
  else if o = 0x002C then s.hlogt
  else if o = 0x0030 then s.killReg
  else if o = 0x0034 then s.killTeam
  else if 0x0040 ≤ o && decide (o < 0x0060) && o % 4 == 0 then (kfind s.hcnt ((o - 0x0040) / 4)).getD 0#32
  else if 0x0100 ≤ o && decide (o < 0x0200) && o % 4 == 0 then BitVec.ofNat 32 (s.fenceWord ((o - 0x0100) / 4))
  else 0#32

/-- HEALTH_COUNTER_READ (R362, R367): the host reads the word at offset `n` of the aperture; a read of a health counter clears it. -/
def execHealthCounterRead (s : State) : Host.Outcome State Fault Refusal :=
  let o := s.ev.n
  let s1 : State := { s with hostOut := s.hostOut ++ [.register o (s.aperture o)] }
  if 0x0040 ≤ o && decide (o < 0x0060) && o % 4 == 0 then .next { s1 with hcnt := kput s1.hcnt ((o - 0x0040) / 4) 0#32 } else .next s1

/-- MANAGEMENT_REGISTER_WRITE (R362): the host writes `data`, one word, to offset `n`: HLOGB, HLOGN or KILLTEAM. Other offsets are read-only, absent,
or have steps of their own. -/
def execManagementRegisterWrite (s : State) : Host.Outcome State Fault Refusal :=
  let v := BitVec.ofNat 32 (ofBytes s.ev.data)
  .next (if s.ev.n = 0x0020 then { s with hlogb := (hiWord s.hlogb) ++ (v &&& 0xFFFF0000#32) }
    else if s.ev.n = 0x0024 then { s with hlogb := v ++ loWord s.hlogb }
    else if s.ev.n = 0x0028 then { s with hlogn := v.setWidth 16 }
    else if s.ev.n = 0x0034 then { s with killTeam := v }
    else s)

/-- The teams of the grid slot in KILL that KILLTEAM names and that have not ended. -/
def State.namedNow (s : State) : List TKey :=
  let slot := natBits s.killReg.toNat 7 0
  match kfind s.grids slot with
  | none => []
  | some gr =>
    let named := if s.killTeam = 0xFFFFFFFF#32 then List.range gr.lr.teamCount
      else if s.killTeam.toNat < gr.lr.teamCount then [s.killTeam.toNat] else []
    (named.filter fun i => !gr.ended.contains i).map fun i => ⟨slot, i⟩

/-- The teams that the last KILL named which have not ended. -/
def State.killNamed (s : State) : List TKey := s.killNames.filter fun t => !s.hasEnded t

/-- GO clears once every named team has ended. -/
def State.settleKill (s : State) : State := if s.killNamed.isEmpty then { s with killReg := s.killReg &&& 0x7FFFFFFF#32 } else s

/-- KILL (R364): the host writes `n` to KILL; with GO set, the scheduler is asked to kill the teams named at that moment. While GO reads 1 a write is ignored.
Flagged, no write: GO clears once every named team has been killed. -/
def execKill (s : State) : Host.Outcome State Fault Refusal :=
  let busy := s.killReg.getLsbD 31
  if s.ev.flag || busy then .next (if busy then s.settleKill else s)
  else
    let s1 : State := { s with killReg := BitVec.ofNat 32 s.ev.n &&& 0x800000FF#32 }
    if s1.killReg.getLsbD 31 then
      let s2 : State := { s1 with killNames := s1.namedNow }
      .next (s2.settleKill.later (s2.killNames.map fun t => ⟨.teamKill, { key := ⟨t.slot, t.team, 0⟩ }⟩))
    else .next s1

-- ## Fencing (R368)

/-- CORE_FENCE (R146, R236, R367, R368): core `core` has had `n` corrected errors within an hour, `m` of them new, in its board or caches or, with
`k` = 1, in its column or HBM; or, flagged, an uncorrectable error in its logic, which counts too. -/
def execCoreFence (s : State) : Host.Outcome State Fault Refusal :=
  let s1 := (s.modCore s.ev.core fun c => { c with corrected := s.ev.n }).countHealth (if s.ev.k = 1 then 1 else 0) s.ev.m
  let s2 := if s.ev.flag then s1.countHealth 2 else s1
  if s.ev.flag || decide (1000 < s.ev.n) then .next (s2.fenceCore s.ev.core) else .next s2

/-- BLOCK_FENCE (R368): the L2 slice or the directory of block `k` fails. Its lines are written back; flagged, the dirty ones cannot be, and enter P. -/
def execBlockFence (s : State) : Host.Outcome State Fault Refusal :=
  let b := s.ev.k
  let mine := fun (c : Nat) => c / 16 == b
  let held := s.writes.filter fun w => mine w.core && decide (2 ≤ w.reach) && decide (w.reach < 6)
  let s1 :=
    if s.ev.flag then
      let s0 : State := { s with writes := s.writes.filter fun w => !held.contains w }
      ((held.map fun w => lineOf w.pa).eraseDups).foldl (fun s l => (s.poisonLine l).healthRecord 2 (128 * l) (16 * b)) s0
    else s
  .next ((List.range 16).foldl (fun s i => s.fenceCore (16 * b + i)) (s1.flushCaches mine))

-- ## Owner keys (R366)

/-- OWNER_KEY_ASSIGN (R366): Oavos loads the empty slot `n` with a fresh key. -/
def execOwnerKeyAssign (s : State) : Host.Outcome State Fault Refusal :=
  let n := s.ev.n % 4096
  if s.keys.contains n then .next s else .next { s with keys := n :: s.keys, keyGen := kput s.keyGen n ((kfind s.keyGen n).getD 0 + 1) }

/-- OWNER_KEY_RELEASE (R366): the key of slot `n` is zeroised, and the slot is empty; slot 0 is always loaded. -/
def execOwnerKeyRelease (s : State) : Host.Outcome State Fault Refusal :=
  let n := s.ev.n % 4096
  .next (if n = 0 then s else { s with keys := s.keys.filter (· ≠ n) })

end Sys2Proof.Machine
end

