-- ==== Sys2Proof/Machine/Registers.lean ====
section
/-! DEFINITION. The register instructions: moves, immediates, the window, shuffles, selection and FMT (R108 to R116). -/

namespace Sys2Proof.Machine

/-- MOV (R110). -/
def execMov (d a : Reg) (s : State) : Host.Outcome State Fault Refusal := alu1 none (fun x => x) d a s

/-- MOV64 (R110): both registers of the source are read before either of the destination is written. -/
def execMov64 (d a : Reg) (s : State) : Host.Outcome State Fault Refusal :=
  issue (fun _ => { names := pairRegs d.toNat ++ pairRegs a.toNat, reads := pairRegs a.toNat }) (fun v =>
    .ok (v.wr2 v.s d.toNat (v.rd2 a.toNat))) s

/-- MOVI (R111). -/
def execMovi (p : Pfx) (d : Reg) (i : BitVec 14) (s : State) : Host.Outcome State Fault Refusal :=
  issue (fun _ => { pfx := p, names := [d.toNat] }) (fun v => .ok (v.wr v.s d.toNat (uniformLanes (imm14 p i)))) s

/-- MOVHI (R111): D is a source. -/
def execMovhi (d : Reg) (i : BitVec 14) (s : State) : Host.Outcome State Fault Refusal :=
  alu1 none (fun x => i ++ x.extractLsb' 0 18) d d s

/-- WBASE and WBASE.REL: the new window base, in registers, or WINDOW (R112). -/
def setWindow (f : Nat → Int) (s : State) : Host.Outcome State Fault Refusal :=
  issue (fun _ => { oneBeat := true }) (fun v =>
    let n := f v.g.wbasev
    if n < 0 || (v.g.wsize : Int) - 8 < n then v.whole .window
    else .ok (v.s.modGroup v.k fun g => { g with wbasev := n.toNat })) s

def execWbase (i : BitVec 14) (s : State) : Host.Outcome State Fault Refusal := setWindow (fun _ => i.toInt * 8) s
def execWbaseRel (i : BitVec 14) (s : State) : Host.Outcome State Fault Refusal := setWindow (fun w => w + i.toInt * 8) s

/-- SHFL and SHFLX: each lane reads A in the lane that `from` gives, when that lane is active, else its own (R114). -/
def shuffle (src : Fin 32 → Word → Nat) (d a b : Reg) (s : State) : Host.Outcome State Fault Refusal :=
  issue (fun _ => { names := [d.toNat, a.toNat, b.toNat], reads := [a.toNat, b.toNat] }) (fun v =>
    let x := v.rd a.toNat
    let y := v.rd b.toNat
    .ok (v.wrFixed v.s d.toNat 6 (lanesOf fun L =>
      let t : Fin 32 := Fin.ofNat 32 (src L y[L])
      if v.ex.getLsbD t then x[t] else x[L]))) s

def execShfl (d a b : Reg) (s : State) : Host.Outcome State Fault Refusal := shuffle (fun _ y => y.toNat % 32) d a b s
def execShflx (d a b : Reg) (s : State) : Host.Outcome State Fault Refusal :=
  shuffle (fun L y => Nat.xor L.val (y.toNat % 32)) d a b s

/-- CSEL (R115). -/
def execCsel (d a b : Reg) (s : State) : Host.Outcome State Fault Refusal :=
  alu3 (fun d a b => if d.getLsbD 0 then a else b) d a b s

/-- FMT fn 0 (R116): the value is not checked. -/
def execFmtSet (a : Reg) (s : State) : Host.Outcome State Fault Refusal :=
  issue (fun _ => { names := [a.toNat], reads := [a.toNat], unif := [a.toNat] }) (fun v =>
    .went (v.s.modGroup v.k fun g => { g with cur := some { v.p with pc := v.npc, fmt := (v.rd a.toNat)[v.f] } }) false) s

/-- FMT fn 1 (R116). -/
def execFmtGet (d : Reg) (s : State) : Host.Outcome State Fault Refusal :=
  issue (fun _ => { names := [d.toNat] }) (fun v => .ok (v.wr v.s d.toNat (uniformLanes v.p.fmt))) s

end Sys2Proof.Machine
end

