-- ==== Sys2Proof/Machine/Sched.lean ====
section
/-! DEFINITION. The scheduler: eligibility, placement and restore, priorities, slices, and the end of a grid (R269, R292 to R297). -/

namespace Sys2Proof.Machine

-- ## Eligibility (R292)

/-- The value of a wait counter as the scheduler reads it; none where the address does not translate. -/
def State.counter (s : State) (g : Grid) (a : DWord) : Option Nat :=
  match s.access noCore (g.lr.space (g.launcher == .user)) a 8 .read with
  | .ok f => some (ofBytes (s.loadBytes noCore f 8))
  | _ => none

/-- A wait counter stands at its threshold. -/
def State.counterReached (s : State) (g : Grid) (a t : DWord) : Bool := match s.counter g a with
  | some x => decide (t.toNat ≤ x)
  | none => false

/-- WAIT_COUNTER_CHECK (R292): the scheduler reads the wait counters of grid `n` that it has not seen at their thresholds. -/
def execWaitCounterCheck (s : State) : Host.Outcome State Fault Refusal :=
  let gr := s.grid s.ev.n
  if gr.eligible then .next s
  else
    let a := gr.seen0 || s.counterReached gr gr.lr.wait0a gr.lr.wait0t
    let b := gr.seen1 || s.counterReached gr gr.lr.wait1a gr.lr.wait1t
    .next (s.modGrid s.ev.n fun g => { g with seen0 := a, seen1 := b, eligible := a && b, agedAt := if a && b then s.cycle else g.agedAt })

-- ## Room on a core (R93 to R95, R142, R143, R156, R197, R293)

/-- Group slots of each partition that a team takes (R95). -/
def LaunchRec.runSlots (r : LaunchRec) : Nat := (r.tsize + r.taskw + 3) / 4

/-- The teams of a core whose last group has not retired: the others have left their slot run, rows and reserve (R92, R95). -/
def State.liveTeamsOn (s : State) (core : Nat) : List (TKey × Team) := (s.teamsOn core).filter fun t => !t.2.gone

/-- Register rows in use on a core: those of retired groups are free (R96). -/
def State.regUsed (s : State) (core : Nat) : Nat :=
  ((s.liveTeamsOn core).map fun t =>
    let members := (s.groups.filter fun kg => kg.1.tkey = t.1 && !kg.2.wave).length
    (members + (s.record t.1).taskw) * ((s.record t.1).regs + 1)).sum

/-- Tiles in use on a core: the reserves, and the spare tiles in use. -/
def State.tilesUsed (s : State) (core : Nat) : Nat :=
  ((s.teamsOn core).map s.reserve).sum + s.spareUsed core

/-- The lowest free run of group slots. -/
def State.freeBase (s : State) (core n : Nat) : Option Nat :=
  (List.range 24).find? fun b => decide (b + n ≤ 24) && (s.liveTeamsOn core).all fun t => !overlaps b n t.2.base (s.record t.1).runSlots

/-- The column allotments of a core, those of saved teams among them. -/
def State.allotments (s : State) (core : Nat) : List (Nat × Nat) :=
  (((s.teamsOn core).map (·.2)) ++ (s.saved.filter (·.core = core)).map (·.keep)).map fun x => (x.colUnit, x.colUnits)

/-- The first unit of the lowest free run below the save slot in force and a pending one (R143). -/
def State.freeUnits (s : State) (core n : Nat) : Option Nat :=
  let c := s.core core
  let limit := min (slotStart c.ctx) (match c.ctxPend with
    | some p => slotStart p
    | none => columnBytes) / 65536
  if n = 0 then some 0
  else (List.range 64).find? fun u => decide (u + n ≤ limit) && (s.allotments core).all fun a => !overlaps u n a.1 a.2

/-- The core holds no resident team, and no saved team that must come back there (R94). -/
def State.coreEmpty (s : State) (core : Nat) : Bool :=
  (s.teamsOn core).isEmpty && !s.saved.any fun x => x.core = core && ((s.record x.team).beam || x.keep.colUnits ≠ 0)

/-- The scheduler may use the core: it is not fenced, and its deck is neither gated nor about to be, nor lost with its directories not yet
rebuilt (R162, R242, R368). -/
def State.usable (s : State) (core : Nat) : Bool :=
  s.working core && !s.gated.contains (core / 256) && !s.gating.contains (core / 256) && !s.rebuild.contains (core / 256)

/-- What a team needs of a core: its record, its partition word, group slots of each partition, live member groups, scratchpad rows, tiles held,
packets for the task store, and the partitions of its parked contexts. -/
structure Needs where
  r       : LaunchRec
  pword   : Word
  slots   : Nat
  members : Nat
  spRows  : Nat
  held    : Nat
  packets : Nat
  parks   : List Nat
deriving DecidableEq, Repr

/-- A team fits a core, its column allotment and the beam apart (R293, R347). -/
def State.fits (s : State) (core : Nat) (n : Needs) : Bool :=
  let w := n.pword
  s.usable core && ((s.core core).pword = w || s.coreEmpty core) &&
    decide (s.regUsed core + (n.members + n.r.taskw) * (n.r.regs + 1) ≤ wordRegRows w) &&
    decide (((s.teamsOn core).map fun t => t.2.spRows).sum + n.spRows ≤ wordSpRows w) &&
    decide (s.tilesUsed core + max n.r.tiles n.held ≤ wordTiles w) && (s.freeBase core n.slots).isSome &&
    (n.packets = 0 || decide ((s.core core).store.length + n.packets ≤ 4096)) &&
    (List.range 4).all fun p => decide ((s.part core p).parked.length + (n.parks.filter (· = p)).length ≤ 8)

/-- A new team fits a core (R293). -/
def State.fitsNew (s : State) (core : Nat) (r : LaunchRec) : Bool :=
  s.fits core ⟨r, r.pword, r.runSlots, r.tsize, r.sprows, 0, 0, []⟩ && (s.freeUnits core r.colu).isSome && !(r.beam && s.hasBeamTeam core)

/-- The group slots that a saved team needs: one whose groups had all retired needs none. -/
def State.savedSlots (s : State) (x : Saved) : Nat := if x.keep.gone then 0 else (s.record x.team).runSlots

/-- A saved team fits a core: its partition word is the image's (R143, R156, R274, R344, R347). -/
def State.fitsSaved (s : State) (core : Nat) (x : Saved) : Bool :=
  let r := s.record x.team
  let members := (x.groups.filter fun kg => !kg.2.wave).length
  s.fits core ⟨r, s.imagePword x, s.savedSlots x, members, x.keep.spRows, x.keep.held, x.packets.length, x.parks.map (·.1)⟩ && (core = x.core || (!r.beam && (s.freeUnits core x.keep.colUnits).isSome))

-- ## Choice of a rectangle (R293, R296, R347)

/-- The core lies in the instance that the grid has chosen. -/
def Grid.inInstance (g : Grid) (core : Nat) : Bool := match g.instOf with
  | some c => g.lr.coloc = 0 || scopeHas g.lr.coloc c core
  | none => true

/-- The team needs no place any more: it has ended, or it has been killed and only its ring steps go on (R155, R349). -/
def State.placeless (s : State) (t : TKey) : Bool := s.hasEnded t || (match kfind s.teams t with
  | some x => x.gone && x.killed
  | none => false)

/-- Each member that needs a place fits its core of the rectangle, within the instance. -/
def State.rectFits (s : State) (slot : Nat) (ts : List TKey) (rect : List Nat) (fit : Nat → TKey → Bool) : Bool :=
  (ts.zip rect).all fun p => s.placeless p.1 || ((s.grid slot).inInstance p.2 && fit p.2 p.1)

/-- The first team of the grid's next cluster: of those that it has not placed, the first one with a team that has not ended (R293). -/
def State.nextStart (s : State) (slot : Nat) : Nat :=
  let gr := s.grid slot
  let starts := (List.range (gr.ended.length + 1)).map fun i => gr.nextTeam + i * gr.lr.clusterSize
  (starts.find? fun n => (s.clusterTeams ⟨slot, n⟩).any fun t => !s.hasEnded t).getD gr.nextTeam

/-- The teams of the grid's next cluster. -/
def State.nextCluster (s : State) (slot : Nat) : List TKey := s.clusterTeams ⟨slot, s.nextStart slot⟩

/-- The rectangle of working cores for the grid's next cluster (R293): that at core `first` if it fits, else the first one that does. -/
def State.newRect (s : State) (slot : Nat) (first : Option Nat) : Option (List Nat) :=
  let r := (s.grid slot).lr
  let at_ := (rectangles r).filter fun c => c.head? = first
  (at_ ++ rectangles r).find? fun c => c.all (fun k => s.working k && (s.grid slot).inInstance k) &&
    s.rectFits slot (s.nextCluster slot) c fun core _ => s.fitsNew core r

/-- The saved record of a team. -/
def State.savedOf (s : State) (t : TKey) : Option Saved := s.saved.find? fun x => x.team = t

/-- The rectangle for a saved cluster: its own cores first; a cluster to be rotated tries cores of pairs that are not hot, and then its own. A beam
team goes to its own core alone (R156, R347); where that is fenced it stays saved (DESIGN CHOICE, log 97). -/
def State.backRect (s : State) (t : TKey) : Option (List Nat) :=
  let ts := s.clusterTeams t
  let r := s.record t
  let home := ts.map fun u => ((s.savedOf u).map (·.core)).getD 0
  let rotate := ts.any fun u => match s.savedOf u with
    | some x => x.keep.rotate
    | none => false
  let cool := (rectangles r).filter fun c => c.all fun k => !(s.pair k).hot
  let whole := fun (c : List Nat) => c.all s.working
  let tries := if r.beam then [home] else if rotate then cool.filter whole ++ [home] else home :: (rectangles r).filter whole
  tries.find? fun c => s.rectFits t.slot ts c fun core u => match s.savedOf u with
    | some x => s.fitsSaved core x
    | none => false

-- ## Whose turn it is (R294)

/-- A grid's effective priority. -/
def Grid.prio (g : Grid) : Nat := min 7 (g.lr.prio + g.raise)

/-- The grid has teams that were never placed. -/
def Grid.unplaced (g : Grid) : Bool := g.eligible && !g.allPlaced

/-- Every member of a saved team's cluster that needs a place is saved, and none is held. -/
def State.mayReturn (s : State) (t : TKey) : Bool :=
  (s.clusterTeams t).all fun u => s.placeless u || (match s.savedOf u with
    | some x => !s.isHeld x
    | none => false)

/-- A team of the grid waits for a place. -/
def State.waiting (s : State) (slot : Nat) : Bool :=
  (s.grid slot).unplaced || s.saved.any fun x => x.team.slot = slot && s.mayReturn x.team

/-- What the scheduler would do for a grid now: a place for its next cluster, or for a saved one. -/
def State.gridTurn (s : State) (slot : Nat) (first : Option Nat) : Option (Option TKey × List Nat) :=
  match if (s.grid slot).unplaced then s.newRect slot first else none with
  | some rect => some (none, rect)
  | none =>
    let back := (s.saved.filter fun x => x.team.slot = slot && s.mayReturn x.team).map (·.team)
    (back.filterMap fun t => (s.backRect t).map fun rect => (some t, rect)).head?

/-- The grids in the order in which the scheduler serves them: by effective priority, and in turn after the grid served last there;
before any has been, slot 0 counts as that one (R294; DESIGN CHOICE, log 86). -/
def State.serveOrder (s : State) : List Nat :=
  let slots := rising (s.grids.map (·.1))
  (List.range 8).reverse.flatMap fun p =>
    let mine := slots.filter fun n => (s.grid n).prio = p && s.waiting n
    let last := (kfind s.served p).getD 0
    mine.filter (fun n => decide (last < n)) ++ mine.filter fun n => decide (n ≤ last)

/-- The scheduler's next act of placement. -/
def State.turn (s : State) (first : Option Nat) : Option (Nat × Option TKey × List Nat) :=
  (s.serveOrder.filterMap fun n => (s.gridTurn n first).map fun x => (n, x)).head?

/-- A grid has been served: it is noted at its priority, which returns to PRIO. -/
def State.serve1 (s : State) (slot core : Nat) : State :=
  let s1 : State := { s with served := kput s.served (s.grid slot).prio slot }
  s1.modGrid slot fun g => { g with raise := 0, agedAt := s.cycle, instOf := g.instOf.or (some core) }

-- ## Placement (R289, R293, R327)

/-- Places a new team on a core. -/
def State.placeTeam (s : State) (t : TKey) (core : Nat) : State :=
  let r := s.record t
  let unit := (s.freeUnits core r.colu).getD 0
  let x : Team :=
    { core := core, base := (s.freeBase core r.runSlots).getD 0, spRows := r.sprows, colUnit := unit, colUnits := r.colu, asid := r.asid, ptb := r.ptb
      tdom := r.tdom, isSealed := r.isSealed, ownkey := r.ownkey, shb := r.shb, slice := s.cycle + r.sliceCycles
      tlbBase := s.tlbSlice core t, tlbSets := r.sliceSets }
  let s1 := (s.setTeam t x).modCore core fun c => { c with pword := r.pword }
  let s2 := if r.colu = 0 then s1 else s1.writeColumn core (65536 * unit) (List.replicate (65536 * r.colu) 0#8)
  (List.range r.tsize).foldl (fun s g =>
    s.setGroup ⟨t.slot, t.team, g⟩ (s.newGroup t r.entry 0xFFFFFFFF#32 [uniformLanes (loWord r.param), uniformLanes (hiWord r.param)])) s2

/-- TEAM_PLACEMENT (R293, R294): the scheduler serves the next grid in turn, and places its next cluster; flagged, at core `k` if it fits there. -/
def execTeamPlacement (s : State) : Host.Outcome State Fault Refusal :=
  match s.turn (if s.ev.flag then some s.ev.k else none) with
  | some (slot, none, rect) =>
    let s1 := (((s.nextCluster slot).zip rect).filter fun p => !s.hasEnded p.1).foldl (fun s p => s.placeTeam p.1 p.2) s
    let s2 := (s1.serve1 slot (rect.headD 0)).modGrid slot fun g => { g with nextTeam := s.nextStart slot + g.lr.clusterSize }
    .next (s2.checkGridBarrier slot)
  | _ => .next s

/-- CONTEXT_RESTORE (R294, R347, R348): the scheduler serves the next grid in turn, and restores a saved cluster of it; a team whose image holds an
uncorrectable error is killed instead. -/
def execContextRestore (s : State) : Host.Outcome State Fault Refusal :=
  match s.turn none with
  | some (slot, some t, rect) =>
    let xs := ((s.clusterTeams t).zip rect).filterMap fun p => (s.savedOf p.1).map fun x => (x, p.2)
    let bad := xs.filter fun p => s.badImage p.1
    if !bad.isEmpty then .next (s.sooner (bad.map fun p => ⟨.teamKill, { key := ⟨p.1.team.slot, p.1.team.team, 0⟩, flag := true }⟩))
    else
      let s1 := xs.foldl (fun (s : State) p =>
        let x := p.1
        let unit := if p.2 = x.core then x.keep.colUnit else (s.freeUnits p.2 x.keep.colUnits).getD 0
        s.restoreTeam x p.2 ((s.freeBase p.2 (s.savedSlots x)).getD 0) unit) s
      .next (((s1.serve1 slot ((xs.head?.map (·.2)).getD 0)).checkClusterBarrier t).checkGridBarrier slot)
  | _ => .next s

-- ## Ageing and slices (R294 to R296)

/-- Cycles of 50 ms. -/
def agingCycles : Nat := 120000000

/-- The time in which no team of a grid waits does not age it (R294). -/
def State.noteWaiting (s : State) : State :=
  let note := fun (g : Nat × Grid) => if s.waiting g.1 then g else (g.1, { g.2 with agedAt := s.cycle })
  { s with grids := s.grids.map note }

/-- PRIORITY_AGING (R294): grid `n` has waited for 50 ms since its last placement, and its effective priority rises by one, up to 7. -/
def execPriorityAging (s : State) : Host.Outcome State Fault Refusal :=
  let gr := s.grid s.ev.n
  if s.waiting s.ev.n && decide (gr.agedAt + agingCycles ≤ s.cycle) then
    .next (s.modGrid s.ev.n fun g => { g with raise := if g.prio < 7 then g.raise + 1 else g.raise, agedAt := g.agedAt + agingCycles })
  else .next s

/-- A team of equal or higher effective priority waits (R295). -/
def State.rivals (s : State) (t : TKey) : Bool := s.grids.any fun g => s.waiting g.1 && decide ((s.grid t.slot).prio ≤ g.2.prio)

/-- SLICE_END (R295, R296): the slice of `key`'s team ends: the team is pre-empted if one of equal or higher priority waits; a matrix-using team of a
hot pair is rotated off it, unless it holds the beam; otherwise a new slice starts. -/
def execSliceEnd (s : State) : Host.Outcome State Fault Refusal :=
  let t := s.ev.key.tkey
  match kfind s.teams t with
  | none => .next s
  | some x =>
    if x.stop || x.gone || decide (s.cycle < x.slice) then .next s
    else if x.usedMatrix && (s.pair x.core).hot && !(s.record t).beam then .next (s.sooner [⟨.preemptionStop, { key := s.ev.key, n := 3 }⟩])
    else if s.rivals t then .next (s.sooner [⟨.preemptionStop, { key := s.ev.key, n := 2 }⟩])
    else .next (s.newSlice t)

/-- A team is to be pre-empted at a grid barrier (R269): its member groups are all suspended there, and some team of its grid is not resident. -/
def State.stuckAtGrid (s : State) (t : TKey) : Bool :=
  let members := s.groups.filter fun kg => kg.1.tkey = t && !kg.2.wave
  let gr := s.grid t.slot
  !(s.team t).stop && !members.isEmpty &&
    (members.all fun kg => kg.2.cur.isNone && kg.2.stack.all fun e => match e.kind with
      | .path (.suspended (.barrier 2)) => true
      | .path _ => false
      | _ => true) &&
    (List.range gr.lr.teamCount).any fun i => !gr.ended.contains i && !s.isResident ⟨t.slot, i⟩

-- ## The end of a grid (R297)

/-- A saved team has nothing left to run. -/
def Saved.idle (x : Saved) : Bool := x.groups.isEmpty && x.packets.isEmpty && x.parks.isEmpty

/-- Every team of a grid has ended; or, for a task grid, every member group has retired and no task is left. Its collectives have completed (R325). -/
def State.gridDone (s : State) (slot : Nat) : Bool :=
  let gr := s.grid slot
  (kfind s.grids slot).isSome && gr.allPlaced && !(s.groups.any fun kg => kg.1.slot = slot) && gr.overflow.isEmpty &&
    !(s.packets.any (·.owner.slot = slot)) && !(s.cores.any fun c => c.2.store.any (·.owner.slot = slot)) &&
    !(s.parts.any fun p => p.2.parked.any (·.team.slot = slot)) && !(s.copies.any (·.key.slot = slot)) && !(s.rings.any (·.team.slot = slot)) &&
    !(s.parts.any fun p => p.2.matQ.any (·.team.slot = slot)) && !(s.colls.any fun c => c.2.running.isSome && c.2.slot = some slot) &&
    (s.saved.filter (·.team.slot = slot)).all Saved.idle

/-- The done counter of a grid adds 1 (R297). -/
def State.gridDoneCount (s : State) (gr : Grid) : State :=
  if gr.lr.done = 0#64 then s
  else match s.access noCore (gr.lr.space (gr.launcher == .user)) gr.lr.done 8 .both with
    | .ok f => s.rmwWrite noCore 6 none f (bytesOf 8 (ofBytes (s.rmwRead f 8) + 1))
    | _ => s.healthRecord 4 gr.lr.done.toNat noCore

/-- The subscriptions of a grid end: their peers are told, once a pause of the domain is over, and the entries and copies go; of an RSUBS
without an answer, a region that it is yet given is given back (R309, R318). -/
def State.endSubs (s : State) (slot : Nat) : State :=
  let mine := s.subs.filter fun x => x.slot = slot
  let s1 : State := { s with requests := s.requests.map fun r => match r.asker with
    | .status k _ => if k.slot = slot then { r with asker := .lapsed } else r
    | _ => r }
  (mine.foldl (fun s x => s.askWhenFree x.dom x.peer (x.page * 4096) .unsubscribe) s1).dropSubs fun x => x.slot = slot

/-- GRID_END (R297): grid `n` ends. Its writes become visible at package scope, DONE adds 1, and what it holds is released. -/
def execGridEnd (s : State) : Host.Outcome State Fault Refusal :=
  let n := s.ev.n
  if s.gridDone n then
    let gr := s.grid n
    let s1 := (s.propagate fun _ => true).gridDoneCount gr
    let s2 := ((s1.teams.map (·.1)).filter fun t => t.slot = n).foldl State.releaseTeam s1
    let s3 := (s2.saved.filter fun x => x.team.slot = n).foldl (fun s x => ((s.dropSaved x).returnImage x).releaseBeam x.core) s2
    let s4 := s3.endSubs n
    .next { s4 with bounds := s4.bounds.filter fun b => b.1.1 ≠ n, killNames := s4.killNames.filter (·.slot ≠ n), grids := kdel s4.grids n }
  else .next s

end Sys2Proof.Machine
end

