-- ==== Sys2Proof/Machine/Trap.lean ====
section
/-! DEFINITION. SYSC, HVC, BRK, TFENCE, TRET and HALT (R333 to R338). -/

namespace Sys2Proof.Machine

/-- SYSC (R334). -/
def execSysc (n : BitVec 7) (s : State) : Host.Outcome State Fault Refusal :=
  issue (fun _ => { oneBeat := true }) (fun v =>
    .trap { cause := .sysc, lanes := v.ex, next := true, detail := n.toNat } v.s) s

/-- BRK (R335). -/
def execBrk (s : State) : Host.Outcome State Fault Refusal :=
  issue (fun _ => { oneBeat := true }) (fun v => .trap { cause := .brk, lanes := v.ex, next := true } v.s) s

/-- HVC (R335): PRIV in user mode. -/
def execHvc (s : State) : Host.Outcome State Fault Refusal :=
  issue (fun v => { oneBeat := true, priv := v.g.mode = .user }) (fun v =>
    .trap { cause := .hvc, lanes := v.ex, next := true } v.s) s

/-- The enabled flags that a lane has raised (R57, R336). -/
def View.tripped (v : View) (L : Fin 32) : BitVec 5 := v.g.aflags[L] &&& v.g.aen[L]

/-- TFENCE (R336). -/
def execTfence (s : State) : Host.Outcome State Fault Refusal :=
  issue (fun _ => { oneBeat := true }) (fun v =>
    v.flagsSettled fun _ =>
      let ls := (maskLanes v.ex).filter fun L => v.tripped L ≠ 0#5
      if ls.isEmpty then v.endingRun v.s
      else .trap
        { cause := .arith, lanes := lanesMask ls, next := true
          detail := (ls.foldl (fun f L => f ||| v.tripped L) 0#5).toNat } v.s) s

/-- A mark or path entry lies above the topmost trap entry (R337). -/
def Group.aboveTrap (g : Group) : Bool := g.stack.any Entry.isTrap && g.openTrap.isNone

/-- What TRET demands: no entry above its trap entry, and a privileged mode (R337). -/
def tretForm (v : View) : Form :=
  { oneBeat := true, illegal := v.g.aboveTrap, priv := v.g.mode = .user || v.g.openTrap.isNone }

/-- TRET (R337). -/
def execTret (s : State) : Host.Outcome State Fault Refusal :=
  issue tretForm (fun v =>
    match v.g.openTrap with
    | none => v.whole .priv
    | some (pc, mask, fmt, m) => .went (v.s.setGroup v.k (v.g.returnFrom pc mask fmt m)) true) s

/-- TRET.SKIP (R337): the word at the return PC is read as a fetch of the restored mode reads it, and its fault is this instruction's. -/
def execTretSkip (s : State) : Host.Outcome State Fault Refusal :=
  issue tretForm (fun v =>
    match v.g.openTrap with
    | none => v.whole .priv
    | some (pc, mask, fmt, m) =>
      match v.s.fetchWord v.k m pc with
      | .error e => .trap { cause := e.1, lanes := v.ex, addr := e.2 } v.s
      | .ok w => .went (v.s.setGroup v.k (v.g.returnFrom (pc + if isPfx w then 8#32 else 4#32) mask fmt m)) true) s

/-- HALT (R338): it completes, and the scheduler is asked to pre-empt the team and hold it. -/
def execHalt (s : State) : Host.Outcome State Fault Refusal :=
  issue (fun v => { oneBeat := true, priv := v.g.mode = .user }) (fun v =>
    v.endingRun (v.s.sooner [⟨.preemptionStop, { key := v.k, flag := true }⟩])) s

end Sys2Proof.Machine
end

