-- ==== Sys2Proof/Machine/Dispatch.lean ====
section
/-! DEFINITION. The meaning of every instruction and step: one arm per constructor, one direct call per arm. -/

namespace Sys2Proof.Machine

def exec (i : Instr) (s : State) : Host.Outcome State Fault Refusal :=
  match i with
  | .sysc n => Sys2Proof.Machine.execSysc n s
  | .bra im => Sys2Proof.Machine.execBra im s
  | .call d im => Sys2Proof.Machine.execCall d im s
  | .jmp a => Sys2Proof.Machine.execJmp a s
  | .jmpl d a => Sys2Proof.Machine.execJmpl d a s
  | .brz d im => Sys2Proof.Machine.execBrz d im s
  | .brnz d im => Sys2Proof.Machine.execBrnz d im s
  | .brany d im => Sys2Proof.Machine.execBrany d im s
  | .brall d im => Sys2Proof.Machine.execBrall d im s
  | .mark im => Sys2Proof.Machine.execMark im s
  | .voteAny d a => Sys2Proof.Machine.execVoteAny d a s
  | .voteAll d a => Sys2Proof.Machine.execVoteAll d a s
  | .voteBallot d a => Sys2Proof.Machine.execVoteBallot d a s
  | .voteCount d a => Sys2Proof.Machine.execVoteCount d a s
  | .voteFirst d a => Sys2Proof.Machine.execVoteFirst d a s
  | .barArrive d => Sys2Proof.Machine.execBarArrive d s
  | .barWait a => Sys2Proof.Machine.execBarWait a s
  | .mona p d a sc z pol => Sys2Proof.Machine.execMona p d a sc z pol s
  | .monw d a => Sys2Proof.Machine.execMonw d a s
  | .fget d a b => Sys2Proof.Machine.execFget d a b s
  | .fput d a b => Sys2Proof.Machine.execFput d a b s
  | .spawn d a b => Sys2Proof.Machine.execSpawn d a b s
  | .mov d a => Sys2Proof.Machine.execMov d a s
  | .mov64 d a => Sys2Proof.Machine.execMov64 d a s
  | .movi p d im => Sys2Proof.Machine.execMovi p d im s
  | .movhi d im => Sys2Proof.Machine.execMovhi d im s
  | .wbase im => Sys2Proof.Machine.execWbase im s
  | .wbaseRel im => Sys2Proof.Machine.execWbaseRel im s
  | .sget d n => Sys2Proof.Machine.execSget d n s
  | .sset a n => Sys2Proof.Machine.execSset a n s
  | .shfl d a b => Sys2Proof.Machine.execShfl d a b s
  | .shflx d a b => Sys2Proof.Machine.execShflx d a b s
  | .csel d a b => Sys2Proof.Machine.execCsel d a b s
  | .fmtSet a => Sys2Proof.Machine.execFmtSet a s
  | .fmtGet d => Sys2Proof.Machine.execFmtGet d s
  | .dqPush d a => Sys2Proof.Machine.execDqPush d a s
  | .dqPop d a => Sys2Proof.Machine.execDqPop d a s
  | .dqSteal d a => Sys2Proof.Machine.execDqSteal d a s
  | .dqSize d a => Sys2Proof.Machine.execDqSize d a s
  | .bndPubmin d sc => Sys2Proof.Machine.execBndPubmin d sc s
  | .bndPubmax d sc => Sys2Proof.Machine.execBndPubmax d sc s
  | .bndGet d sc => Sys2Proof.Machine.execBndGet d sc s
  | .bndReset d sc => Sys2Proof.Machine.execBndReset d sc s
  | .tjoin d a => Sys2Proof.Machine.execTjoin d a s
  | .tjoinTest d a => Sys2Proof.Machine.execTjoinTest d a s
  | .launch d a => Sys2Proof.Machine.execLaunch d a s
  | .rld d a b => Sys2Proof.Machine.execRld d a b s
  | .rst d a b => Sys2Proof.Machine.execRst d a b s
  | .add d a b => Sys2Proof.Machine.execAdd d a b s
  | .sub d a b => Sys2Proof.Machine.execSub d a b s
  | .addi p d a im => Sys2Proof.Machine.execAddi p d a im s
  | .mul d a b => Sys2Proof.Machine.execMul d a b s
  | .mulhs d a b => Sys2Proof.Machine.execMulhs d a b s
  | .mulhu d a b => Sys2Proof.Machine.execMulhu d a b s
  | .mad d a b => Sys2Proof.Machine.execMad d a b s
  | .add64 d a b => Sys2Proof.Machine.execAdd64 d a b s
  | .addz64 p d a b => Sys2Proof.Machine.execAddz64 p d a b s
  | .mulws d a b => Sys2Proof.Machine.execMulws d a b s
  | .mulwz d a b => Sys2Proof.Machine.execMulwz d a b s
  | .min d a b => Sys2Proof.Machine.execMin d a b s
  | .max d a b => Sys2Proof.Machine.execMax d a b s
  | .minu d a b => Sys2Proof.Machine.execMinu d a b s
  | .maxu d a b => Sys2Proof.Machine.execMaxu d a b s
  | .and d a b => Sys2Proof.Machine.execAnd d a b s
  | .or d a b => Sys2Proof.Machine.execOr d a b s
  | .xor d a b => Sys2Proof.Machine.execXor d a b s
  | .andi p d a im => Sys2Proof.Machine.execAndi p d a im s
  | .ori p d a im => Sys2Proof.Machine.execOri p d a im s
  | .xori p d a im => Sys2Proof.Machine.execXori p d a im s
  | .shl d a b => Sys2Proof.Machine.execShl d a b s
  | .shr d a b => Sys2Proof.Machine.execShr d a b s
  | .sar d a b => Sys2Proof.Machine.execSar d a b s
  | .shli d a n => Sys2Proof.Machine.execShli d a n s
  | .shri d a n => Sys2Proof.Machine.execShri d a n s
  | .sari d a n => Sys2Proof.Machine.execSari d a n s
  | .roti d a n => Sys2Proof.Machine.execRoti d a n s
  | .rot d a b => Sys2Proof.Machine.execRot d a b s
  | .clz d a => Sys2Proof.Machine.execClz d a s
  | .popc d a => Sys2Proof.Machine.execPopc d a s
  | .brev d a => Sys2Proof.Machine.execBrev d a s
  | .abs d a => Sys2Proof.Machine.execAbs d a s
  | .neg d a => Sys2Proof.Machine.execNeg d a s
  | .not d a => Sys2Proof.Machine.execNot d a s
  | .sextb d a => Sys2Proof.Machine.execSextb d a s
  | .sexth d a => Sys2Proof.Machine.execSexth d a s
  | .zextb d a => Sys2Proof.Machine.execZextb d a s
  | .zexth d a => Sys2Proof.Machine.execZexth d a s
  | .ctz d a => Sys2Proof.Machine.execCtz d a s
  | .bfx d a b => Sys2Proof.Machine.execBfx d a b s
  | .bfi d a b => Sys2Proof.Machine.execBfi d a b s
  | .seq d a b => Sys2Proof.Machine.execSeq d a b s
  | .slt d a b => Sys2Proof.Machine.execSlt d a b s
  | .sltu d a b => Sys2Proof.Machine.execSltu d a b s
  | .fadd d a b => Sys2Proof.Machine.execFadd d a b s
  | .fsub d a b => Sys2Proof.Machine.execFsub d a b s
  | .fmul d a b => Sys2Proof.Machine.execFmul d a b s
  | .ffma d a b => Sys2Proof.Machine.execFfma d a b s
  | .fmin d a b => Sys2Proof.Machine.execFmin d a b s
  | .fmax d a b => Sys2Proof.Machine.execFmax d a b s
  | .fseq d a b => Sys2Proof.Machine.execFseq d a b s
  | .fslt d a b => Sys2Proof.Machine.execFslt d a b s
  | .fsle d a b => Sys2Proof.Machine.execFsle d a b s
  | .collStart d a => Sys2Proof.Machine.execCollStart d a s
  | .collWait d a => Sys2Proof.Machine.execCollWait d a s
  | .collTest d a => Sys2Proof.Machine.execCollTest d a s
  | .fabs d a => Sys2Proof.Machine.execFabs d a s
  | .fneg d a => Sys2Proof.Machine.execFneg d a s
  | .frndn d a => Sys2Proof.Machine.execFrndn d a s
  | .frndz d a => Sys2Proof.Machine.execFrndz d a s
  | .frndp d a => Sys2Proof.Machine.execFrndp d a s
  | .frndm d a => Sys2Proof.Machine.execFrndm d a s
  | .fclass d a => Sys2Proof.Machine.execFclass d a s
  | .frcp d a => Sys2Proof.Machine.execFrcp d a s
  | .frsq d a => Sys2Proof.Machine.execFrsq d a s
  | .fsqrt d a => Sys2Proof.Machine.execFsqrt d a s
  | .fex2 d a => Sys2Proof.Machine.execFex2 d a s
  | .flg2 d a => Sys2Proof.Machine.execFlg2 d a s
  | .fsin d a => Sys2Proof.Machine.execFsin d a s
  | .fcos d a => Sys2Proof.Machine.execFcos d a s
  | .badd2 d a b => Sys2Proof.Machine.execBadd2 d a b s
  | .bmul2 d a b => Sys2Proof.Machine.execBmul2 d a b s
  | .bfma2 d a b => Sys2Proof.Machine.execBfma2 d a b s
  | .hfma2 d a b => Sys2Proof.Machine.execHfma2 d a b s
  | .rsubs d a => Sys2Proof.Machine.execRsubs d a s
  | .rsubsOff d a => Sys2Proof.Machine.execRsubsOff d a s
  | .ratom p d a b => Sys2Proof.Machine.execRatom p d a b s
  | .cvtF32F16 d a => Sys2Proof.Machine.execCvtF32F16 d a s
  | .cvtF32Bf16 d a => Sys2Proof.Machine.execCvtF32Bf16 d a s
  | .cvtF16F32 d a => Sys2Proof.Machine.execCvtF16F32 d a s
  | .cvtBf16F32 d a => Sys2Proof.Machine.execCvtBf16F32 d a s
  | .cvtF32S32 d a => Sys2Proof.Machine.execCvtF32S32 d a s
  | .cvtF32Z32 d a => Sys2Proof.Machine.execCvtF32Z32 d a s
  | .cvtS32F32 d a => Sys2Proof.Machine.execCvtS32F32 d a s
  | .cvtZ32F32 d a => Sys2Proof.Machine.execCvtZ32F32 d a s
  | .cvtF32E4m3 d a => Sys2Proof.Machine.execCvtF32E4m3 d a s
  | .cvtF32E5m2 d a => Sys2Proof.Machine.execCvtF32E5m2 d a s
  | .cvtF32E3m2 d a => Sys2Proof.Machine.execCvtF32E3m2 d a s
  | .cvtF32E2m3 d a => Sys2Proof.Machine.execCvtF32E2m3 d a s
  | .cvtF32E2m1 d a => Sys2Proof.Machine.execCvtF32E2m1 d a s
  | .cvtE4m3F32 d a => Sys2Proof.Machine.execCvtE4m3F32 d a s
  | .cvtE5m2F32 d a => Sys2Proof.Machine.execCvtE5m2F32 d a s
  | .cvtE3m2F32 d a => Sys2Proof.Machine.execCvtE3m2F32 d a s
  | .cvtE2m3F32 d a => Sys2Proof.Machine.execCvtE2m3F32 d a s
  | .cvtE2m1F32 d a => Sys2Proof.Machine.execCvtE2m1F32 d a s
  | .cvtF32E8m0 d a => Sys2Proof.Machine.execCvtF32E8m0 d a s
  | .cvtE8m0F32 d a => Sys2Proof.Machine.execCvtE8m0F32 d a s
  | .cvtS16S32 d a => Sys2Proof.Machine.execCvtS16S32 d a s
  | .cvtS8S32 d a => Sys2Proof.Machine.execCvtS8S32 d a s
  | .cvtZ16Z32 d a => Sys2Proof.Machine.execCvtZ16Z32 d a s
  | .cvtZ8Z32 d a => Sys2Proof.Machine.execCvtZ8Z32 d a s
  | .cvtF32S64 d a => Sys2Proof.Machine.execCvtF32S64 d a s
  | .cvtS64F32 d a => Sys2Proof.Machine.execCvtS64F32 d a s
  | .cvtp d a b => Sys2Proof.Machine.execCvtp d a b s
  | .dot4i d a b => Sys2Proof.Machine.execDot4i d a b s
  | .dot8i d a b => Sys2Proof.Machine.execDot8i d a b s
  | .dot4f d a b => Sys2Proof.Machine.execDot4f d a b s
  | .dot8f d a b => Sys2Proof.Machine.execDot8f d a b s
  | .dot2b d a b => Sys2Proof.Machine.execDot2b d a b s
  | .ldn p d a z => Sys2Proof.Machine.execLdn p d a z s
  | .stn p d a z => Sys2Proof.Machine.execStn p d a z s
  | .atnAdd p d a b => Sys2Proof.Machine.execAtnAdd p d a b s
  | .atnMin p d a b => Sys2Proof.Machine.execAtnMin p d a b s
  | .atnMax p d a b => Sys2Proof.Machine.execAtnMax p d a b s
  | .atnMinu p d a b => Sys2Proof.Machine.execAtnMinu p d a b s
  | .atnMaxu p d a b => Sys2Proof.Machine.execAtnMaxu p d a b s
  | .atnAnd p d a b => Sys2Proof.Machine.execAtnAnd p d a b s
  | .atnOr p d a b => Sys2Proof.Machine.execAtnOr p d a b s
  | .atnXch p d a b => Sys2Proof.Machine.execAtnXch p d a b s
  | .casn d a b => Sys2Proof.Machine.execCasn d a b s
  | .rrot d a b => Sys2Proof.Machine.execRrot d a b s
  | .vput a => Sys2Proof.Machine.execVput a s
  | .vputNb d a => Sys2Proof.Machine.execVputNb d a s
  | .vget d => Sys2Proof.Machine.execVget d s
  | .vgetNb d a => Sys2Proof.Machine.execVgetNb d a s
  | .twxWr a sc => Sys2Proof.Machine.execTwxWr a sc s
  | .twxRd d sc => Sys2Proof.Machine.execTwxRd d sc s
  | .ld p d a sc z pol => Sys2Proof.Machine.execLd p d a sc z pol s
  | .st p d a sc z pol => Sys2Proof.Machine.execSt p d a sc z pol s
  | .aadd p d a sc b => Sys2Proof.Machine.execAadd p d a sc b s
  | .amin p d a sc b => Sys2Proof.Machine.execAmin p d a sc b s
  | .amax p d a sc b => Sys2Proof.Machine.execAmax p d a sc b s
  | .aminu p d a sc b => Sys2Proof.Machine.execAminu p d a sc b s
  | .amaxu p d a sc b => Sys2Proof.Machine.execAmaxu p d a sc b s
  | .aand p d a sc b => Sys2Proof.Machine.execAand p d a sc b s
  | .aor p d a sc b => Sys2Proof.Machine.execAor p d a sc b s
  | .axor p d a sc b => Sys2Proof.Machine.execAxor p d a sc b s
  | .axch p d a sc b => Sys2Proof.Machine.execAxch p d a sc b s
  | .acas p d a sc b => Sys2Proof.Machine.execAcas p d a sc b s
  | .afadd p d a sc b => Sys2Proof.Machine.execAfadd p d a sc b s
  | .fenceAcq sc => Sys2Proof.Machine.execFenceAcq sc s
  | .fenceRel sc => Sys2Proof.Machine.execFenceRel sc s
  | .fenceAcqrel sc => Sys2Proof.Machine.execFenceAcqrel sc s
  | .fenceSc sc => Sys2Proof.Machine.execFenceSc sc s
  | .fenceAsync sc => Sys2Proof.Machine.execFenceAsync sc s
  | .touch p d a => Sys2Proof.Machine.execTouch p d a s
  | .cmaintWb a sc => Sys2Proof.Machine.execCmaintWb a sc s
  | .cmaintInv a sc => Sys2Proof.Machine.execCmaintInv a sc s
  | .cmaintWbinv a sc => Sys2Proof.Machine.execCmaintWbinv a sc s
  | .cmaintTlb d a sc => Sys2Proof.Machine.execCmaintTlb d a sc s
  | .trec d a sc => Sys2Proof.Machine.execTrec d a sc s
  | .trecN d a sc => Sys2Proof.Machine.execTrecN d a sc s
  | .tcopy d a b => Sys2Proof.Machine.execTcopy d a b s
  | .tstore d a b => Sys2Proof.Machine.execTstore d a b s
  | .tcommit d => Sys2Proof.Machine.execTcommit d s
  | .twaitb d a => Sys2Proof.Machine.execTwaitb d a s
  | .twaitbTest d a => Sys2Proof.Machine.execTwaitbTest d a s
  | .cbarInit d a => Sys2Proof.Machine.execCbarInit d a s
  | .cbarArrive d a => Sys2Proof.Machine.execCbarArrive d a s
  | .cbarExpect d a => Sys2Proof.Machine.execCbarExpect d a s
  | .cbarWait d a => Sys2Proof.Machine.execCbarWait d a s
  | .cbarTest d a => Sys2Proof.Machine.execCbarTest d a s
  | .lcopy d a b => Sys2Proof.Machine.execLcopy d a b s
  | .gangSet a => Sys2Proof.Machine.execGangSet a s
  | .gangCur a => Sys2Proof.Machine.execGangCur a s
  | .gangNear a => Sys2Proof.Machine.execGangNear a s
  | .gangScl a => Sys2Proof.Machine.execGangScl a s
  | .mma p d a b => Sys2Proof.Machine.execMma p d a b s
  | .accAlloc p d a => Sys2Proof.Machine.execAccAlloc p d a s
  | .accFree p a => Sys2Proof.Machine.execAccFree p a s
  | .accZero p a => Sys2Proof.Machine.execAccZero p a s
  | .accRdf32 p d a => Sys2Proof.Machine.execAccRdf32 p d a s
  | .accRdbf2 p d a => Sys2Proof.Machine.execAccRdbf2 p d a s
  | .accRdi32 p d a => Sys2Proof.Machine.execAccRdi32 p d a s
  | .accWrf32 p d a => Sys2Proof.Machine.execAccWrf32 p d a s
  | .accStn p d a => Sys2Proof.Machine.execAccStn p d a s
  | .accStat p d a => Sys2Proof.Machine.execAccStat p d a s
  | .mfence d => Sys2Proof.Machine.execMfence d s
  | .mwaitb d a => Sys2Proof.Machine.execMwaitb d a s
  | .cpass d => Sys2Proof.Machine.execCpass d s
  | .lstat d => Sys2Proof.Machine.execLstat d s
  | .nop => Sys2Proof.Machine.execNop s
  | .yield => Sys2Proof.Machine.execYield s
  | .exit => Sys2Proof.Machine.execExit s
  | .join => Sys2Proof.Machine.execJoin s
  | .tret => Sys2Proof.Machine.execTret s
  | .tretSkip => Sys2Proof.Machine.execTretSkip s
  | .tfence => Sys2Proof.Machine.execTfence s
  | .brk => Sys2Proof.Machine.execBrk s
  | .hvc => Sys2Proof.Machine.execHvc s
  | .texit => Sys2Proof.Machine.execTexit s
  | .halt => Sys2Proof.Machine.execHalt s
  | .barTeam => Sys2Proof.Machine.execBarTeam s
  | .barClu => Sys2Proof.Machine.execBarClu s
  | .barGrid => Sys2Proof.Machine.execBarGrid s
  | .gangClr => Sys2Proof.Machine.execGangClr s
  | .ctake => Sys2Proof.Machine.execCtake s
  | .lrel => Sys2Proof.Machine.execLrel s
  | .nrmRead => Sys2Proof.Machine.execNrmRead s
  | .cycloRead => Sys2Proof.Machine.execCycloRead s
  | .aflagsRead => Sys2Proof.Machine.execAflagsRead s
  | .rspeekWrite => Sys2Proof.Machine.execRspeekWrite s
  | .ctxbaseWrite => Sys2Proof.Machine.execCtxbaseWrite s
  | .ctxbaseTakeEffect => Sys2Proof.Machine.execCtxbaseTakeEffect s
  | .boundPublishArrival => Sys2Proof.Machine.execBoundPublishArrival s
  | .ringStepStart => Sys2Proof.Machine.execRingStepStart s
  | .ringStepComplete => Sys2Proof.Machine.execRingStepComplete s
  | .beamEntryArrival => Sys2Proof.Machine.execBeamEntryArrival s
  | .beamCreditReturn => Sys2Proof.Machine.execBeamCreditReturn s
  | .beamRealignmentDue => Sys2Proof.Machine.execBeamRealignmentDue s
  | .beamRealignmentStart => Sys2Proof.Machine.execBeamRealignmentStart s
  | .beamRealignmentComplete => Sys2Proof.Machine.execBeamRealignmentComplete s
  | .upperDeckGate => Sys2Proof.Machine.execUpperDeckGate s
  | .upperDeckUngate => Sys2Proof.Machine.execUpperDeckUngate s
  | .refreshWindowStart => Sys2Proof.Machine.execRefreshWindowStart s
  | .refreshWindowEnd => Sys2Proof.Machine.execRefreshWindowEnd s
  | .columnRefreshRateChange => Sys2Proof.Machine.execColumnRefreshRateChange s
  | .residencyRequest => Sys2Proof.Machine.execResidencyRequest s
  | .tlbInvalidationArrival => Sys2Proof.Machine.execTlbInvalidationArrival s
  | .tlbInvalidationAck => Sys2Proof.Machine.execTlbInvalidationAck s
  | .shootdownComplete => Sys2Proof.Machine.execShootdownComplete s
  | .tableWalk => Sys2Proof.Machine.execTableWalk s
  | .walkAheadFetch => Sys2Proof.Machine.execWalkAheadFetch s
  | .copyComplete => Sys2Proof.Machine.execCopyComplete s
  | .rendezvousComplete => Sys2Proof.Machine.execRendezvousComplete s
  | .matrixOperationStart => Sys2Proof.Machine.execMatrixOperationStart s
  | .matrixOperationComplete => Sys2Proof.Machine.execMatrixOperationComplete s
  | .accStnComplete => Sys2Proof.Machine.execAccStnComplete s
  | .allocGrant => Sys2Proof.Machine.execAllocGrant s
  | .carryGrant => Sys2Proof.Machine.execCarryGrant s
  | .licenceGrant => Sys2Proof.Machine.execLicenceGrant s
  | .licenceIdleRelease => Sys2Proof.Machine.execLicenceIdleRelease s
  | .licenceRelease => Sys2Proof.Machine.execLicenceRelease s
  | .issueArbitration => Sys2Proof.Machine.execIssueArbitration s
  | .runLimit => Sys2Proof.Machine.execRunLimit s
  | .activeSetEntry => Sys2Proof.Machine.execActiveSetEntry s
  | .activeSetEviction => Sys2Proof.Machine.execActiveSetEviction s
  | .quantumExpiry => Sys2Proof.Machine.execQuantumExpiry s
  | .fixedLatencyWriteback => Sys2Proof.Machine.execFixedLatencyWriteback s
  | .interlockedWriteComplete => Sys2Proof.Machine.execInterlockedWriteComplete s
  | .pathReady => Sys2Proof.Machine.execPathReady s
  | .breakpointTrap => Sys2Proof.Machine.execBreakpointTrap s
  | .singleStepTrap => Sys2Proof.Machine.execSingleStepTrap s
  | .monitorWriteWake => Sys2Proof.Machine.execMonitorWriteWake s
  | .monitorLineLoss => Sys2Proof.Machine.execMonitorLineLoss s
  | .monwTimeout => Sys2Proof.Machine.execMonwTimeout s
  | .taskPacketArrival => Sys2Proof.Machine.execTaskPacketArrival s
  | .overflowPacketReturn => Sys2Proof.Machine.execOverflowPacketReturn s
  | .waveFormation => Sys2Proof.Machine.execWaveFormation s
  | .parkedContextResume => Sys2Proof.Machine.execParkedContextResume s
  | .waitCounterCheck => Sys2Proof.Machine.execWaitCounterCheck s
  | .teamPlacement => Sys2Proof.Machine.execTeamPlacement s
  | .priorityAging => Sys2Proof.Machine.execPriorityAging s
  | .sliceEnd => Sys2Proof.Machine.execSliceEnd s
  | .preemptionStop => Sys2Proof.Machine.execPreemptionStop s
  | .contextSave => Sys2Proof.Machine.execContextSave s
  | .contextRestore => Sys2Proof.Machine.execContextRestore s
  | .teamKill => Sys2Proof.Machine.execTeamKill s
  | .gridEnd => Sys2Proof.Machine.execGridEnd s
  | .holdRequest => Sys2Proof.Machine.execHoldRequest s
  | .debugHalt => Sys2Proof.Machine.execDebugHalt s
  | .debugResume => Sys2Proof.Machine.execDebugResume s
  | .debugRdreg => Sys2Proof.Machine.execDebugRdreg s
  | .debugWrreg => Sys2Proof.Machine.execDebugWrreg s
  | .debugRdmem => Sys2Proof.Machine.execDebugRdmem s
  | .debugWrmem => Sys2Proof.Machine.execDebugWrmem s
  | .debugStep => Sys2Proof.Machine.execDebugStep s
  | .debugSetbp => Sys2Proof.Machine.execDebugSetbp s
  | .debugClrbp => Sys2Proof.Machine.execDebugClrbp s
  | .debugList => Sys2Proof.Machine.execDebugList s
  | .writePropagation => Sys2Proof.Machine.execWritePropagation s
  | .cacheUncorrectableError => Sys2Proof.Machine.execCacheUncorrectableError s
  | .dieLoss => Sys2Proof.Machine.execDieLoss s
  | .directoryRebuildComplete => Sys2Proof.Machine.execDirectoryRebuildComplete s
  | .hostSnoop => Sys2Proof.Machine.execHostSnoop s
  | .hostMemoryAccess => Sys2Proof.Machine.execHostMemoryAccess s
  | .remoteRequestReceive => Sys2Proof.Machine.execRemoteRequestReceive s
  | .remoteResponseReceive => Sys2Proof.Machine.execRemoteResponseReceive s
  | .requestTimeout => Sys2Proof.Machine.execRequestTimeout s
  | .sequenceGap => Sys2Proof.Machine.execSequenceGap s
  | .nackReceive => Sys2Proof.Machine.execNackReceive s
  | .flitReplay => Sys2Proof.Machine.execFlitReplay s
  | .portDown => Sys2Proof.Machine.execPortDown s
  | .planeRemap => Sys2Proof.Machine.execPlaneRemap s
  | .planeRecovery => Sys2Proof.Machine.execPlaneRecovery s
  | .portWidthChange => Sys2Proof.Machine.execPortWidthChange s
  | .subscriptionPush => Sys2Proof.Machine.execSubscriptionPush s
  | .spdmSession => Sys2Proof.Machine.execSpdmSession s
  | .domainKeyLoad => Sys2Proof.Machine.execDomainKeyLoad s
  | .memberMaskUpdate => Sys2Proof.Machine.execMemberMaskUpdate s
  | .rekeyBarrierSend => Sys2Proof.Machine.execRekeyBarrierSend s
  | .rekeySwitch => Sys2Proof.Machine.execRekeySwitch s
  | .rekeyTimeout => Sys2Proof.Machine.execRekeyTimeout s
  | .collectiveComplete => Sys2Proof.Machine.execCollectiveComplete s
  | .collectiveTimeout => Sys2Proof.Machine.execCollectiveTimeout s
  | .powerSample => Sys2Proof.Machine.execPowerSample s
  | .tarUpdate => Sys2Proof.Machine.execTarUpdate s
  | .thermalTrip => Sys2Proof.Machine.execThermalTrip s
  | .thermalShutdown => Sys2Proof.Machine.execThermalShutdown s
  | .coldReset => Sys2Proof.Machine.execColdReset s
  | .warmReset => Sys2Proof.Machine.execWarmReset s
  | .hostLinkTrain => Sys2Proof.Machine.execHostLinkTrain s
  | .kill => Sys2Proof.Machine.execKill s
  | .healthCounterRead => Sys2Proof.Machine.execHealthCounterRead s
  | .managementRegisterWrite => Sys2Proof.Machine.execManagementRegisterWrite s
  | .coreFence => Sys2Proof.Machine.execCoreFence s
  | .blockFence => Sys2Proof.Machine.execBlockFence s
  | .ownerKeyAssign => Sys2Proof.Machine.execOwnerKeyAssign s
  | .ownerKeyRelease => Sys2Proof.Machine.execOwnerKeyRelease s
  | .writePerformed => Sys2Proof.Machine.execWritePerformed s
  | .peerNumberAssignment => Sys2Proof.Machine.execPeerNumberAssignment s

end Sys2Proof.Machine
end

