-- ==== Sys2Proof/Machine/Plan.lean ====
section
/-! DEFINITION. Which step comes next when none is due, and the fetch of an instruction (R18, R19, R66, R67; log 3). -/

namespace Sys2Proof.Machine

-- ## The steps that are possible now

/-- One step, if a condition holds. -/
def dueIf (c : Bool) (op : Instr) (arg : EvArg := {}) : List Due := if c then [⟨op, arg⟩] else []

/-- Steps of a group: results that arrive, and waits that end (R68, R69, R76, R272). -/
def State.groupSteps (s : State) (k : GKey) (g : Group) : List Due :=
  dueIf ((g.mon.reason.isSome && g.inMonw) || g.stack.any fun e => e.kind = .path (.suspended .over)) .pathReady { key := k } ++
    dueIf (g.mon.reason.isNone && g.monwDue s.cycle) .monwTimeout { key := k } ++
    dueIf (g.pend.any fun p => p.left == some 0) .fixedLatencyWriteback { key := k } ++
    (List.range (g.pend.filter fun p => p.left == none && p.await == none).length).map fun i => ⟨.interlockedWriteComplete, { key := k, n := i }⟩

/-- The oldest copies that may end; those that touch a peer's memory end with what the peer sends. -/
def State.copySteps (s : State) : List Due :=
  (s.copies.filter fun c => !s.copyWaits c && !s.copyPaused c && (match c.kind with
    | .tile _ r _ _ => !s.needsPeer c.key.tkey (Tensor.ofRecord r)
    | .layer _ _ _ => true)).map fun c => ⟨.copyComplete, { n := c.id }⟩

/-- Steps of the head of a matrix queue; an operation whose A lies with a peer ends with what the peer sends. -/
def State.queueSteps (s : State) (core part : Nat) : List Due :=
  match (s.part core part).matQ with
  | [] => []
  | o :: _ =>
    if s.opWaits core o then []
    else if o.stn.isSome then [⟨.accStnComplete, { core := core, part := part }⟩]
    else if o.tar.isNone then [⟨.matrixOperationStart, { core := core, part := part }⟩]
    else dueIf (!s.opPaused core o && (o.cursor.near || !s.needsPeer o.team (Tensor.ofRecord o.record))) .matrixOperationComplete { core := core, part := part }

/-- Steps of a partition: the beam, the carry, the matrix unit, rendezvous, and parked contexts. -/
def State.partSteps (s : State) (core part : Nat) (p : Part) : List Due :=
  let here : EvArg := { core := core, part := part }
  (p.latches.filter (s.meets core part)).filterMap (fun l => l.arrivals.head?.map fun a => (⟨.rendezvousComplete, { key := a.key }⟩ : Due)) ++
    s.queueSteps core part ++
    dueIf (p.carry.isNone && !p.carryQ.isEmpty) .carryGrant here ++
    dueIf (!p.transit.isEmpty && !s.realigning core) .beamEntryArrival here ++
    dueIf (p.returning ≠ 0) .beamCreditReturn here ++
    (p.parked.zipIdx.filter fun q => (s.parkSlot part q.1).isSome && s.parkReady q.1 && !(s.team q.1.team).stop).map fun q =>
      ⟨.parkedContextResume, { core := core, part := part, n := q.2 }⟩

/-- Steps of a core: tiles, waves, hold requests and a new save slot. -/
def State.coreSteps (s : State) (core : Nat) (c : Core) : List Due :=
  let here : EvArg := { core := core }
  let mayAlloc := (c.allocQ.filter fun e => e.2 = 0).map (·.1) ++ ((c.waiting.head?.map fun e => if s.tilesFit e.1.tkey e.2 then [e.1] else []).getD [])
  dueIf (mayAlloc.any s.stalled.contains) .allocGrant here ++
    dueIf ((s.nextWave core).any fun p => !(s.freeWaves p.owner).isEmpty) .waveFormation here ++
    dueIf (!c.column.isEmpty && (List.range 256).any (s.holdAsked core)) .holdRequest here ++
    dueIf (s.ctxReady core) .ctxbaseTakeEffect here

/-- Steps of a pair: the licence, the refresh window, and realignment. -/
def State.pairSteps (s : State) (c : Nat) (p : Pair) : List Due :=
  dueIf (p.licence.isNone && !p.wants.isEmpty) .licenceGrant { core := c } ++
    [c, twinOf c].flatMap (fun x =>
      dueIf (p.licence = some x && (p.lrelp || p.ldrop) && s.matIdle x) .licenceRelease { core := x } ++
        dueIf (p.licence = some x && p.wants.contains (twinOf x) && decide (4096 ≤ s.matIdleFor x)) .licenceIdleRelease { core := x }) ++
    dueIf p.refresh .refreshWindowEnd { core := c } ++ dueIf (p.realign = .running) .beamRealignmentComplete { core := c } ++
    dueIf (p.realign = .deferred) .beamRealignmentStart { core := c, flag := s.beamBusy c }

/-- Steps of the scheduler for a resident team. -/
def State.teamSteps (s : State) (t : TKey) (x : Team) : List Due :=
  let k : GKey := ⟨t.slot, t.team, 0⟩
  if x.killed then dueIf (!x.gone && s.teamDrained t) .teamKill { key := k }
  else if x.stop then dueIf (s.teamDrained t && (s.savePlace t).isSome) .contextSave { key := k }
  else
    dueIf (!x.gone && decide (x.slice ≤ s.cycle)) .sliceEnd { key := k } ++ dueIf (s.stuckAtGrid t) .preemptionStop { key := k, n := 2 } ++
      dueIf (x.asked && (s.clusterRoom t).isSome && !((s.clusterHere t).any fun u => (s.team u).killed)) .preemptionStop { key := k, flag := x.hold } ++
      dueIf (!x.asked && (s.gating.contains (x.core / 256) || (s.core x.core).fenced)) .preemptionStop { key := k, n := 1 }

/-- Steps of the scheduler for a grid. -/
def State.gridSteps (s : State) (n : Nat) (g : Grid) : List Due :=
  let new := fun (seen : Bool) (a t : DWord) => !seen && s.counterReached g a t
  dueIf (!g.eligible && (new g.seen0 g.lr.wait0a g.lr.wait0t || new g.seen1 g.lr.wait1a g.lr.wait1t)) .waitCounterCheck { n := n } ++
    dueIf (s.gridDone n) .gridEnd { n := n } ++ dueIf (g.overflow.any fun p => (s.storeFor p.owner).isSome) .overflowPacketReturn { n := n } ++
    dueIf (s.waiting n && decide (g.agedAt + agingCycles ≤ s.cycle)) .priorityAging { n := n }

/-- The scheduler's next placement or restore. -/
def State.placeSteps (s : State) : List Due :=
  match s.turn none with
  | some (_, none, _) => [⟨.teamPlacement, {}⟩]
  | some (_, some _, _) => [⟨.contextRestore, {}⟩]
  | none => []

/-- Ring steps that can start or end (R155). -/
def State.ringDue (s : State) : List Due :=
  s.rings.flatMap fun r =>
    let k : GKey := ⟨r.team.slot, r.team.team, 0⟩
    let steps := s.ringSteps r.team r.step.toNat
    let all := steps.all (·.isSome) && (s.clusterTeams r.team).all s.isResident
    dueIf (all && r.sent.isNone) .ringStepStart { key := k, n := r.step.toNat } ++
      dueIf ((all && r.sent.isSome) || (s.ringBroken r.team r.step.toNat && (steps.filterMap id).all fun q => s.isResident q.team))
        .ringStepComplete { key := k, n := r.step.toNat }

/-- Task packets that arrive, and bound operations that reach a copy. -/
def State.messageSteps (s : State) : List Due :=
  (s.packets.zipIdx.filter fun p => !(s.packets.take p.2).any fun q => q.sender = p.1.sender && q.lane = p.1.lane && q.owner = p.1.owner).map (fun p =>
      ⟨.taskPacketArrival, { n := p.2 }⟩) ++
    s.bounds.flatMap fun b =>
      let size := ((s.grid b.1.1).lr).clusterSize
      b.2.ops.flatMap fun o => ((List.range size).filter fun r => !o.seen.contains r).map fun r =>
        ⟨.boundPublishArrival, { key := ⟨b.1.1, b.1.2.1 * size, 0⟩, n := b.1.2.2, m := o.id, k := r }⟩

/-- Shootdowns, and walks that they have made stale; an acknowledgement discards those that no team waits for (R258, R259). -/
def State.shootSteps (s : State) : List Due :=
  s.shoots.flatMap (fun x =>
    (List.range x.unreached.length).map (fun i => (⟨.tlbInvalidationArrival, { n := x.id, m := i }⟩ : Due)) ++
      (x.unacked.zipIdx.filter fun u => (!s.walks.any fun w => u.1.reaches w.tlb && w.stale && !s.walkLapsed w) &&
        !s.writes.any fun w => u.1.within 1 w.core && s.goBusy w w.scope).map (fun u => ⟨.tlbInvalidationAck, { n := x.id, m := u.2 }⟩) ++
      dueIf (x.unreached.isEmpty && x.unacked.isEmpty) .shootdownComplete { n := x.id }) ++
    (s.walks.filter (·.stale)).flatMap fun w =>
      ((s.teams.filter fun t => TlbUnit.l1 t.2.core == w.tlb && t.2.asid == w.asid).take 1).map fun t =>
        ⟨.tableWalk, { key := ⟨t.1.slot, t.1.team, 0⟩, n := w.va }⟩

/-- Timers and the work of the fabric that needs no packet (R302, R305, R308, R325). -/
def State.fabricSteps (s : State) : List Due :=
  (s.requests.filter fun r => r.peer ≠ s.selfNum && decide (r.sent + 4800000 ≤ s.cycle)).map (fun r => (⟨.requestTimeout, { n := r.id }⟩ : Due)) ++
    s.seqIn.flatMap (fun x => (x.2.gaps s.cycle).map fun n => (⟨.sequenceGap, { n := n, m := x.1.2, k := x.1.1 }⟩ : Due)) ++
    s.colls.flatMap (fun c => dueIf (s.collLate c.1) .collectiveTimeout { n := c.1 } ++
      dueIf (c.2.running.any fun q => (q.parts = [s.selfNum] || !s.collReach q) && !s.collHeld q) .collectiveComplete { n := c.1 }) ++
    s.ports.flatMap (fun p =>
      dueIf (!p.2.up && (List.range 32).any (fun h => s.planeOf h = p.1) && (s.livePlane p.1).isSome &&
        !s.requests.any fun r => r.plane = p.1 && r.peer ≠ s.selfNum) .planeRemap { n := p.1 }) ++
    (s.moving.filter fun m => (s.port m.2).up && s.entryDrained m.1).map (fun m => (⟨.planeRecovery, { n := m.2, m := m.1 }⟩ : Due)) ++
    s.domains.flatMap fun d =>
      dueIf (d.2.paused && !d.2.sentBarrier && !d.2.joining.contains s.selfNum && !s.requests.any fun r => r.dom = d.1) .rekeyBarrierSend { n := d.1 } ++
        dueIf (d.2.paused && d.2.nextv && (d.2.joining.contains s.selfNum || (d.2.sentBarrier && (s.continuing d.2).all d.2.barriers.contains)) &&
          !s.barrierHeld d.1) .rekeySwitch { n := d.1 }

/-- Decks whose gating can be finished, and a KILL whose teams have ended. -/
def State.deviceSteps (s : State) : List Due :=
  (s.gating.filter fun d => !s.teams.any fun t => t.2.core / 256 = d).map (fun d => (⟨.upperDeckGate, { k := d }⟩ : Due)) ++
    dueIf (s.killReg.getLsbD 31 && s.killNamed.isEmpty) .kill { flag := true } ++
    s.rebuild.map fun d => ⟨.directoryRebuildComplete, { k := d }⟩

/-- Writes on their way (R241). -/
def State.writeSteps (s : State) : List Due :=
  s.writes.filterMap fun w =>
    if w.reach < w.scope then (if s.goBusy w w.scope then none else some ⟨.writePerformed, { n := w.id }⟩)
    else if s.goBusy w (w.reach + 1) then none else some ⟨.writePropagation, { n := w.id }⟩

/-- Steps that may come at any time: walks, refresh windows, realignments, lines that leave an L1, and recalls of directories (R148, R163, R169, R239, R257). -/
def State.spontaneous (s : State) : List Due :=
  let a := Config.address s.picks
  s.teams.flatMap (fun t =>
    let k : GKey := ⟨t.1.slot, t.1.team, 0⟩
    [⟨.tableWalk, { key := k, n := a }⟩, ⟨.walkAheadFetch, (t.2.space .user).aheadArg t.2.core a false⟩, ⟨.refreshWindowStart, { core := t.2.core }⟩,
      ⟨.beamRealignmentDue, { core := t.2.core }⟩]) ++
    s.groups.filterMap (fun kg => kg.2.mon.line.map fun l => (⟨.monitorLineLoss, { core := s.coreOf kg.1, n := l }⟩ : Due)) ++
    (if s.rebuild.isEmpty then s.caches else []).map fun c => ⟨.monitorLineLoss, { core := c.cache.core, n := c.base / 128, part := 2 + a % 5 }⟩

/-- Steps of the device's own engines that can happen now. -/
def State.engineSteps (s : State) : List Due :=
  s.groups.flatMap (fun kg => s.groupSteps kg.1 kg.2) ++ s.copySteps ++ s.parts.flatMap (fun p => s.partSteps (p.1 / 4) (p.1 % 4) p.2) ++
    s.cores.flatMap (fun c => s.coreSteps c.1 c.2) ++ s.pairs.flatMap (fun p => s.pairSteps p.1 p.2) ++ s.ringDue ++ s.messageSteps ++ s.shootSteps ++
    s.teams.flatMap (fun t => s.teamSteps t.1 t.2) ++ s.grids.flatMap (fun g => s.gridSteps g.1 g.2) ++ s.placeSteps ++ s.fabricSteps ++ s.deviceSteps

-- ## The choice

/-- The group is in its partition's active set. -/
def State.isActive (s : State) (k : GKey) : Bool := (s.part (s.coreOf k) (partOf k)).active.contains k

/-- A member of the active set of the group's partition that may leave it (R67). -/
def State.evictable (s : State) (k : GKey) : Option GKey := (s.part (s.coreOf k) (partOf k)).active.find? s.longUnready

/-- Entries into active sets, evictions, and arbitration (R66, R67). -/
def State.issueSteps (s : State) : List Due :=
  let ready := (s.groups.map (·.1)).filter s.candidate
  let outside := ready.filter fun k => !s.isActive k
  let enters := (outside.filter fun k => decide ((s.part (s.coreOf k) (partOf k)).active.length < 8)).map fun k =>
    (⟨.activeSetEntry, { core := s.coreOf k, part := partOf k }⟩ : Due)
  let leaves := (outside.filterMap s.evictable).map fun k => (⟨.activeSetEviction, { key := k }⟩ : Due)
  let wins := (ready.filter fun k => s.isActive k && s.entered k && s.slotFree (s.coreOf k) (partOf k)).map fun k =>
    (⟨.issueArbitration, { core := s.coreOf k, part := partOf k }⟩ : Due)
  enters ++ leaves ++ wins

/-- What may come next. -/
inductive Choice where
  /-- A step of the device. -/
  | due (d : Due)
  /-- The next instruction of a run. -/
  | run (k : GKey)
  /-- The next act of the world outside. -/
  | input (d : Due) (rest : List Due)
  /-- A cycle passes. -/
  | idle
deriving DecidableEq, Repr

/-- Everything that may come next; a cycle passes only where nothing can issue. -/
def State.choices (s : State) : List Choice :=
  if s.off then (match s.inputs with
    | d :: rest => [.input d rest]
    | [] => [.idle])
  else
    let issues := s.runs.map Choice.run ++ s.issueSteps.map Choice.due
    s.engineSteps.map Choice.due ++ issues ++ (match s.inputs with
      | d :: rest => [.input d rest]
      | [] => []) ++ s.writeSteps.map Choice.due ++ (if issues.isEmpty then [.idle] else []) ++ s.spontaneous.map Choice.due

/-- The state after a choice. -/
def State.chosen (s : State) : Choice → State
  | .due d => { s with agenda := [d] }
  | .run k => { s with focus := some k }
  | .input d rest => { s with agenda := [d], inputs := rest }
  | .idle => { s with cycle := s.cycle + 1, stalled := [] }

/-- Groups that have no ready run, and no instruction held, count as unready from now on (R67). -/
def State.noteUnready (s : State) : State :=
  let note := fun (kg : GKey × Group) =>
    if kg.2.unready.isNone && !s.runReady kg.1 && !s.runs.contains kg.1 then (kg.1, { kg.2 with unready := some s.cycle }) else kg
  { s with groups := s.groups.map note }

/-- The cycles within which a write that has issued reaches its home (R227, R241). -/
def writeDeadline : Nat := 16384

/-- A write that must go on toward its home now: its time is over, and no directory on its way is being rebuilt (R241, R242). -/
def State.overdue (s : State) : Option PWrite :=
  s.writes.find? fun w => decide (w.since + writeDeadline ≤ s.cycle) && !s.goBusy w (w.reach + 1)

/-- A publish or reset of a bound slot that must reach a copy now: its 300 cycles are over (R288). -/
def State.lateBound (s : State) : Option Due :=
  s.bounds.findSome? fun b =>
    let size := ((s.grid b.1.1).lr).clusterSize
    (b.2.ops.filter fun o => decide (o.since + 300 ≤ s.cycle)).findSome? fun o =>
      ((List.range size).find? fun r => !o.seen.contains r).map fun r =>
        ⟨.boundPublishArrival, { key := ⟨b.1.1, b.1.2.1 * size, 0⟩, n := b.1.2.2, m := o.id, k := r }⟩

/-- With nothing due and no instruction next, one of the possible steps is chosen: which one is open (log 3), but for a write or a publish
whose time is over, which goes first. -/
def State.plan (s : State) : State :=
  let s := { s.noteUnready.noteWaiting with picks := s.picks + 1 }
  match s.overdue with
  | some w => { s with agenda := [⟨.writePropagation, { n := w.id }⟩] }
  | none =>
    match s.lateBound with
    | some d => { s with agenda := [d] }
    | none =>
    let cs := s.choices
    s.chosen ((cs[Config.pick (s.picks - 1) % cs.length]?).getD .idle)

-- ## Fetch

/-- What the fetch of an instruction gives (R18, R25, R27, R31): an instruction, or a trap of every active lane. -/
inductive Fetched where
  | instr (d : Decoded)
  | bad (r : TrapReq)
deriving DecidableEq, Repr

/-- Decoded words, or ILLEGAL (R31). -/
def Fetched.ofDecode (ex : Word) : Except DecodeError Decoded → Fetched
  | .ok d => .instr d
  | .error _ => .bad { cause := .illegal, lanes := ex }

/-- The instruction at the current path's PC (R18, R25 to R28). -/
def State.fetch (s : State) (k : GKey) (g : Group) (p : Path) : Fetched :=
  match s.fetchWord k g.mode p.pc with
  | .error e => .bad { cause := e.1, lanes := p.ex, addr := e.2 }
  | .ok w0 =>
    if isPfx w0 then
      match s.fetchWord k g.mode (p.pc + 4#32) with
      | .error e => .bad { cause := e.1, lanes := p.ex, addr := e.2 }
      | .ok w1 => .ofDecode p.ex (decodeWords w0 (some w1))
    else .ofDecode p.ex (decodeWords w0 none)

end Sys2Proof.Machine
end

