-- ==== Sys2Proof/Machine/Probe.lean ====
section
/-! DEFINITION. The attempt of a group at its next instruction, the look at the next instructions of groups outside the active sets, and the steps that
wait for a directory under rebuild (R17, R18, R66, R67, R69, R243, R350). -/

namespace Sys2Proof.Machine

-- ## Steps that need a directory under rebuild (R243)

/-- The line lies in the health log, whose records wait for nothing (DESIGN CHOICE, log 91). -/
def State.inLog (s : State) (base : Nat) : Bool := overlaps base 128 s.hlogb.toNat (32 * s.hlogn.toNat)

/-- The scope that a write on its way has reached; one that is gone is at its home. -/
def State.reachOf (s : State) (id : Nat) : Nat := match s.writes.find? fun w => w.id == id with
  | some w => w.reach
  | none => 6

/-- A stack directory under rebuild would have had a part in what has happened to a stack's lines (R243): an agent outside the stack has taken copies away
there, or a reader outside has been given a line whose newest data may lie there. -/
def State.askedStack (s t : State) (actor stack : Nat) : Bool :=
  (actor / 512 != stack && s.caches.any fun c => c.cache.core / 512 == stack && !s.inLog c.base && !t.hasCopy c.cache c.base) ||
    t.caches.any fun c => (c.st == .e || c.st == .s) && c.cache.core / 512 != stack && !s.hasCopy c.cache c.base && s.ownedInStack c.base stack &&
      !s.caches.any fun x => x.base == c.base && x.cache.within 4 c.cache.core && x.st != .p

/-- What leads from `s` to `t` by an agent needs an answer from a directory under rebuild (R243): a write passes it on its way, or copies that the
stack directory tracks are taken away or asked for data. -/
def State.crosses (s t : State) (actor : Nat) : Bool :=
  !s.rebuild.isEmpty && t.rebuild == s.rebuild &&
    ((s.writes.any fun w => !s.inLog (copyBase w.pa) && s.wayBusy w (t.reachOf w.id)) ||
      s.rebuild.any fun d => d % 2 == 0 && s.askedStack t actor (d / 2))

/-- The core for which a step of the device acts; noCore stands for an agent outside the cores. -/
def State.actor (s : State) (d : Due) : Nat := match d.op with
  | .copyComplete => ((s.copies.find? fun c => c.id = d.arg.n).map (·.core)).getD noCore
  | .writePerformed | .writePropagation => ((s.writes.find? fun w => w.id = d.arg.n).map (·.core)).getD noCore
  | .matrixOperationComplete | .monitorLineLoss => d.arg.core
  | .upperDeckGate => 256 * d.arg.k
  | _ => noCore

/-- Puts a step among those that wait for the end of a rebuild. -/
def State.delay (s : State) (d : Due) : State := if s.delayed.contains d then s else { s with delayed := s.delayed ++ [d] }

/-- What an agent has done comes about, unless it needs a directory under rebuild: then `wait` does (R243). -/
def State.unlessCrossing (s wait : State) (actor : Nat) : Host.Outcome State Fault Refusal → Host.Outcome State Fault Refusal
  | .next t => .next (if s.crosses t actor then wait else t)
  | o => o

/-- A step that is due, with what is due after it: it acts, or waits for the end of a rebuild (R243). An error in a cache waits for nothing. -/
def State.runDue (s : State) (d : Due) (rest : List Due) : Host.Outcome State Fault Refusal :=
  let s0 : State := { s with agenda := rest, ev := d.arg }
  if d.op = .cacheUncorrectableError then exec d.op s0 else s0.unlessCrossing (s0.delay d) (s0.actor d) (exec d.op s0)

-- ## The next instruction

/-- The focus group tries its next instruction: the trap of a single step or a breakpoint first (R350), then the fetch, then the instruction, which does not
issue while it needs a directory under rebuild (R243). A word that cannot be fetched or decoded takes one beat (R32, R64; DEDUCED, log 87). -/
def State.stepGroup (s : State) (k : GKey) (g : Group) (p : Path) : Host.Outcome State Fault Refusal :=
  if g.stepDue then exec .singleStepTrap { s with ev := { key := k } }
  else match s.breakpointAt k g p with
  | some i => exec .breakpointTrap { s with ev := { key := k, n := i } }
  | none =>
    match s.fetch k g p with
    | .instr d =>
      let s0 : State := { s with slotE := d.e, slotW := d.w }
      s0.unlessCrossing (s0.holdIssue k []) (s.coreOf k) (exec d.i s0)
    | .bad r => .next ((State.trap { s with cycle := s.cycle + 1 } k p p.pc r).stepped k g true)

/-- A candidate outside its active set whose next instruction would be held has no ready run (R66, R67, R69): its hold is noted, with the steps that
would end the wait. An instruction that would issue, or come to a latch or to its peers, is left for the active set. -/
def State.lookAt (s : State) (k : GKey) : State :=
  let s0 : State := { s with focus := some k }
  match kfind s.groups k with
  | none => s
  | some g =>
    match g.cur with
    | none => s
    | some p =>
      match s0.stepGroup k g p with
      | .next t => if t.stalled.contains k && t.issued == s.issued && (t.group k).remote.isNone && !t.atLatch k then { t with focus := none } else s
      | _ => s

/-- Looks at every candidate outside the active sets (R67). -/
def State.lookOutside (s : State) : State :=
  ((s.groups.map (·.1)).filter fun k => s.candidate k && !s.isActive k).foldl State.lookAt s

/-- With nothing due and no instruction next: holds outside the active sets are noted, and what would end them comes first; else the next step is
chosen. -/
def State.next (s : State) : State :=
  let s1 := s.lookOutside
  if s1.agenda.isEmpty then s1.plan else s1

end Sys2Proof.Machine
end

