-- ==== Sys2Proof/Machine/Step.lean ====
section
/-! DEFINITION. One step of the machine: a step that is due, or the next instruction of the run in progress, or the choice of what
comes next (R17 to R20, R66; log 3). -/

namespace Sys2Proof.Machine

/-- The state after an instruction: whether the run goes on at once, or something else comes before its next instruction, is a choice (log 3). -/
def afterInstr : Host.Outcome State Fault Refusal → Host.Outcome State Fault Refusal
  | .next s => .next { s with focus := none }
  | o => o

/-- One step. -/
def step (s : State) : Host.Outcome State Fault Refusal :=
  match s.agenda with
  | d :: rest => s.runDue d rest
  | [] =>
    match s.focus with
    | none => .next s.next
    | some k =>
      match kfind s.groups k with
      | none => .next { s with focus := none }
      | some g =>
        match g.cur with
        | none => .next { s with focus := none }
        | some p => afterInstr (s.stepGroup k g p)

/-- The bytes of an instruction word, and zero bytes up to the length of the longest instruction. -/
def instrBytes (nbits w : Nat) : List Byte := tableBytes nbits w

/-- The page-table root, the level-1 table and the code page of the space that stands in when no group runs. -/
def standInRoot : Nat := 0x100000
/-- The code page of the stand-in space. -/
def standInCode : Nat := 0x200000

/-- A grid with one team of one group in user mode, all lanes active, in a space that maps the first 64 GiB onto themselves, ready
to issue at offset 0 of its code window (log 2). -/
def State.standIn (s : State) : State :=
  let k : GKey := ⟨0, 0, 0⟩
  let g : Group := { wsize := 128, cur := some ⟨0#32, 0xFFFFFFFF#32, 0#32⟩ }
  let lr : LaunchRec := { codeBase := BitVec.ofNat 64 standInCode, regs := 15, ptb := BitVec.ofNat 64 standInRoot }
  let m1 := cellWrite s.mem standInRoot (bytesOf 8 (standInRoot + 0x10000 + 1))
  let m2 := cellWrite m1 (standInRoot + 0x10000) (bytesOf 8 0x7D)
  { (s.modCore 0 fun c => { c with pword := 16#32 }).modPart 0 0 fun p => { p with active := [k] } with
    mem := m2
    grids := kput s.grids 0 { lr := lr, eligible := true, nextTeam := 1 }
    teams := kput s.teams k.tkey { ptb := lr.ptb }
    groups := kput s.groups k g
    runs := [k]
    focus := some k
    agenda := [] }

/-- Where the focus group fetches its next word, when its code translates there (R18). -/
def State.codeFrame (s : State) : Option Nat :=
  match s.focus with
  | none => none
  | some k =>
    match kfind s.groups k with
    | none => none
    | some g =>
      match g.cur with
      | none => none
      | some p =>
        let a := (s.grid k.slot).lr.codeBase + p.pc.setWidth 64
        match s.translate (s.coreOf k) ((s.team k.tkey).space g.mode) a.toNat .fetch with
        | .ok f => some f.pa
        | _ => none

/-- The state with an instruction where the next step fetches it: at the PC of the run in progress when its code translates, else at
the PC of the stand-in group. Nothing is due before it. -/
def State.withFetchWord (s : State) (nbits w : Nat) : State :=
  match s.codeFrame with
  | some pa => { s with mem := cellWrite s.mem pa (instrBytes nbits w), agenda := [] }
  | none => { s.standIn with mem := cellWrite s.standIn.mem standInCode (instrBytes nbits w) }

end Sys2Proof.Machine
end

