-- ==== Sys2Proof/Safety.lean ====
section
/-! DEFINITION. The terms in which claims are stated: runs that go on, a group whose instruction comes next, what an instruction that
completes leaves as it was, and where a group's path stands. -/

namespace Sys2Proof.Machine

-- ## Runs

/-- A run of any number of steps leads from one state to another. -/
inductive Reach : State → State → Prop where
  /-- No step. -/
  | refl (s : State) : Reach s s
  /-- One step more. -/
  | tail {s t u : State} : Reach s t → step t = .next u → Reach s u

/-- A state is stuck when its step answers no next state. -/
def Stuck (s : State) : Prop := ∀ t, step s ≠ .next t

/-- A run from the state never stops. -/
def Safe (s : State) : Prop := ∀ t, Reach s t → ¬ Stuck t

/-- The memory has its canonical form. -/
def State.MemOk (s : State) : Prop := Memory.wf s.mem = true

/-- The near memory has its canonical form: the scratchpads of teams, saved ones among them, and the columns of cores. -/
def State.NearOk (s : State) : Prop :=
  (∀ x ∈ s.teams, Memory.wf x.2.spad = true) ∧ (∀ x ∈ s.saved, Memory.wf x.keep.spad = true) ∧ ∀ c ∈ s.cores, Memory.wf c.2.column = true

-- ## An instruction about to issue

/-- `k` is the group whose instruction comes next, `g` is that group, and `p` its current path. -/
structure Issuing (s : State) (k : GKey) (g : Group) (p : Path) : Prop where
  focus : s.focus = some k
  found : kfind s.groups k = some g
  path  : g.cur = some p

/-- An instruction that names and reads these registers of the window waits for none of them, finds them all in the allotment, and
meets no stall check (R69, R70, R98). -/
structure Ready (s : State) (k : GKey) (g : Group) (p : Path) (names reads : List Nat) : Prop where
  waits  : g.waits (reads.map (g.wbasev + ·)) p.ex = false
  window : ∀ r ∈ names, g.wbasev + r < g.wsize
  early  : (s.grid k.slot).lr.stchk = true → g.early (reads.map (g.wbasev + ·)) p.ex = false

/-- The registers hold one value over the active lanes (R101). -/
def Uniform (g : Group) (p : Path) (rs : List Nat) : Prop := ∀ r ∈ rs, sameOver p.ex (g.read (g.wbasev + r)) = true

/-- No posted remote instruction lacks a response, and none has failed unreported (R315). -/
def NoPosted (g : Group) : Prop := g.posted = [] ∧ g.pfail = []

/-- No fence holds an instruction of the group (R233), and no directory is being rebuilt (R243). -/
def Unheld (s : State) (g : Group) : Prop := g.fences = [] ∧ s.rebuild = []

/-- The value that an instruction of the group reads in a register of the window. -/
def Group.seen (g : Group) (r : Nat) (L : Fin 32) : Word := (g.read (g.wbasev + r))[L]
/-- The 64-bit value that it reads in a pair. -/
def Group.seen2 (g : Group) (r : Nat) (L : Fin 32) : DWord := pairVal (g.seen r L) (g.seen (r + 1) L)

/-- What an instruction sees that issues with this prefix: the state in which it is counted, and the offset of the next instruction. -/
def State.view (s : State) (k : GKey) (g : Group) (p : Path) (pfx : Pfx) : View :=
  ⟨{ s.setGroup k (g.counted s.issued) with issued := s.issued + 1 }, k, g.counted s.issued, p,
    p.pc + BitVec.ofNat 32 (pfxLen pfx)⟩

-- ## What an instruction leaves as it was

/-- The machine without its groups, its clocks and the order of steps. -/
def State.rest (s : State) : State := { s with groups := [], cycle := 0, issued := 0, runs := [], stalled := [], agenda := [] }

/-- A group without its registers, their writes on their way, its path, its count of instructions, its single step and its flags. -/
def Group.rest (g : Group) : Group :=
  { g with
    regs := [], cached := [], pend := [], cur := none, quantum := 0, runLen := 0, exempt := none, lastIssue := 0, unready := none, step := false
    aflags := uniformLanes 0#5 }

/-- A write on its way, after the beats of an instruction (R68). -/
def PendWrite.aged (p : PendWrite) (n : Nat) : PendWrite := { p with left := p.left.map (· - n) }

/-- From `s` to `t` nothing changes but group `k`, which is `g` before and `h` after, the clocks and the order of steps; in the group, only the
listed registers of the allotment, the flags and the path change: every other register keeps its contents and the writes on their way to it,
which count the instruction's beats. -/
structure OnlyRegs (s t : State) (k : GKey) (g h : Group) (dests : List Nat) : Prop where
  found  : kfind t.groups k = some h
  rest   : t.rest = s.rest
  others : ∀ j, j ≠ k → kfind t.groups j = kfind s.groups j
  group  : h.rest = g.rest
  regs   : ∀ n, n ∉ dests → h.reg n = g.reg n
  pend   : h.pend.filter (fun q => !dests.contains q.reg) =
    (g.pend.filter fun q => !dests.contains q.reg).map fun q => q.aged (1 + s.slotW.toNat)

/-- From `s` to `t` nothing changes but group `k`, the clocks and the order of steps; the group becomes `h`, which is `q` once the beats of the
instruction have passed. -/
structure Becomes (s t : State) (k : GKey) (q h : Group) : Prop where
  found  : kfind t.groups k = some h
  rest   : t.rest = s.rest
  others : ∀ j, j ≠ k → kfind t.groups j = kfind s.groups j
  group  : h.rest = q.rest
  cur    : h.cur = q.cur
  regs   : h.regs = q.regs
  aflags : h.aflags = q.aflags
  pend   : h.pend = q.pend.map fun x => x.aged (1 + s.slotW.toNat)

/-- The group whose path `p` goes on at an offset, by way of a rotation where the target makes the branch a rotation point (R76, R77). -/
def Group.moved (g : Group) (p : Path) (dest : Word) (rotates : Bool) : Group :=
  if rotates then (g.rotate p dest).1 else { g with cur := some { p with pc := dest } }

/-- The instruction traps: nothing of its own effect comes about, and once its beats, at least one, and its wait beats have passed (R64, R66) the
group takes the trap (R328 to R330). -/
def Traps (i : Instr) (s : State) (k : GKey) (g : Group) (p : Path) (pfx : Pfx) (r : TrapReq) : Prop :=
  ∃ n, 1 ≤ n ∧ exec i s = .next ((((s.view k g p pfx).s.spend n).trap k p (p.pc + BitVec.ofNat 32 (pfxLen pfx)) r).stepped k g true)

/-- Between two groups before and after: in the lanes of the mask the next instruction reads `f` in register `n` of the allotment; the other
lanes of the register keep their contents, but for the positions of lanes that have ended, where the one copy of a value written to every lane left
may stand (R100). -/
def Writes (g h : Group) (m : Word) (n : Nat) (f : Fin 32 → Word) : Prop :=
  ∀ L : Fin 32, (m.getLsbD L = true → (h.read n)[L] = f L) ∧
    (m.getLsbD L = false → (h.reg n).vals[L] = (g.reg n).vals[L] ∨ (g.live.getLsbD L = false ∧ (h.reg n).vals[L] = f (lowestLane m)))

/-- A result of 64 bits in a pair of registers (R13). -/
def Writes2 (g h : Group) (m : Word) (n : Nat) (f : Fin 32 → DWord) : Prop :=
  Writes g h m n (fun L => loWord (f L)) ∧ Writes g h m (n + 1) (fun L => hiWord (f L))

/-- The newest write on its way is that of `f` to register `n` in the lanes of the mask, with flags that those lanes set when it is made;
`left` counted beats are left to it, or it is interlocked. -/
def Sends (h : Group) (m : Word) (n : Nat) (left : Option Nat) (f : Fin 32 → Word) (fl : Fin 32 → BitVec 5) : Prop :=
  h.pend.getLast? = some
    { reg := n, mask := m, vals := lanesOf f, flags := lanesOf fun L => if m.getLsbD L then fl L else 0#5, left := left }

/-- Each active lane ORs flags into its AFLAGS (R57). -/
def Flags.into (g h : Group) (m : Word) (f : Fin 32 → BitVec 5) : Prop :=
  ∀ L : Fin 32, h.aflags[L] = if m.getLsbD L then g.aflags[L] ||| f L else g.aflags[L]

/-- The group's path goes on at the offset `pc`, with its lanes and its FMT. -/
def GoesOn (h : Group) (p : Path) (pc : Word) : Prop := h.cur = some { p with pc := pc }

-- ## Memory

/-- The machine, again without its groups, clocks and order of steps, and without its memory, the writes on their way there, the notes of own
writes (R201), the cached copies, the keys of lines, the pushes to subscribers on their way over the fabric, and the host's recalls. -/
def State.beside (s : State) : State :=
  { s.rest with
    mem := [], writes := [], nextWrite := 0, caches := [], lineKeys := [], sent := [], heldOut := [], pushes := [], seqOut := [], rekeyAsks := [], ports := []
    fresh := 0, notes := [], hostOut := [], hostCached := [] }

/-- The byte of the newest write to a physical address in coherence order, wherever that write has got to (R219). -/
def State.newest (s : State) (pa : Nat) : Byte := (s.newestRead pa 1).headD 0#8

/-- What the access of each active lane of a group meets, `n` bytes wide at the address that a pair and an offset name (R211, R212). -/
def State.finds (s : State) (k : GKey) (g : Group) (a : Nat) (off : DWord) (n : Nat) (need : Need) (L : Fin 32) : Xlat :=
  s.access (s.coreOf k) ((s.team k.tkey).space g.mode) (g.seen2 a L + off) n need

/-- Every active lane's access meets a frame, all of them under one key, which is that of the lines. -/
def State.framed (s : State) (k : GKey) (g : Group) (p : Path) (a : Nat) (off : DWord) (n : Nat) (need : Need) (F : Fin 32 → Frame) : Prop :=
  (∀ L : Fin 32, p.ex.getLsbD L = true → s.finds k g a off n need L = .ok (F L) ∧ s.wrongKey (F L).pa (F L).key = false) ∧
  ∀ L M : Fin 32, p.ex.getLsbD L = true → p.ex.getLsbD M = true → (F L).key = (F M).key

/-- The nearest active lane below a lane whose frame is at the same address. -/
def laneBefore (m : Word) (F : Fin 32 → Frame) (L : Fin 32) : Option (Fin 32) :=
  ((maskLanes m).filter fun M => decide (M.val < L.val) && (F M).pa == (F L).pa).getLast?

/-- The last active lane whose frame is at the same address (R216). -/
def lastLane (m : Word) (F : Fin 32 → Frame) (L : Fin 32) : Bool :=
  (maskLanes m).all fun M => decide (M.val ≤ L.val) || (F M).pa != (F L).pa

/-- From `s` to `t` only group `k`, memory and what hears of it change; the group keeps everything but its path and its writes on their way, to
which `new` are added before the beats of the instruction pass. -/
structure Accesses (s t : State) (k : GKey) (g h : Group) (p : Path) (pfx : Pfx) (new : List PendWrite) : Prop where
  found  : kfind t.groups k = some h
  beside : t.beside = s.beside
  others : ∀ j, j ≠ k → kfind t.groups j = kfind s.groups j
  group  : h.rest = g.rest
  regs   : h.regs = g.regs
  aflags : h.aflags = g.aflags
  path   : GoesOn h p (p.pc + BitVec.ofNat 32 (pfxLen pfx))
  pend   : h.pend = (g.pend ++ new).map fun q => q.aged (1 + s.slotW.toNat)

-- ## Atomics

/-- What an atomic makes of a lane's old value: the value written, if one is. -/
abbrev LaneOp := Fin 32 → DWord → Option DWord

/-- The operand of an atomic in a register of the window, or in a pair. -/
def Group.operand (g : Group) (wide : Bool) (r : Nat) (L : Fin 32) : DWord := if wide then g.seen2 r L else (g.seen r L).setWidth 64

/-- The operations on integers that the atomics of global and of near memory share (R152, R230). -/
def integerOps (wide : Bool) : List (DWord → DWord → DWord) :=
  let sgn := fun (v : DWord) => if wide then v.toInt else (v.setWidth 32).toInt
  [fun o b => o + b, fun o b => if sgn o ≤ sgn b then o else b, fun o b => if sgn o ≥ sgn b then o else b, fun o b => if o ≤ b then o else b,
    fun o b => if o ≥ b then o else b, fun o b => o &&& b, fun o b => o ||| b, fun _ b => b, fun o b => o ^^^ b]

/-- The atomics of global memory: whether they act on 64 bits, whether D is a source, what they make of an old value, and the flags that they set
(R230 to R232). -/
def Group.atomics (g : Group) (x : Pfx) (d a : Reg) (sc : BitVec 3) (b : BitVec 4) : List (Instr × Bool × Bool × LaneOp × (Fin 32 → DWord → Flags)) :=
  let w := wideOp x
  let none_ := fun (_ : Fin 32) (_ : DWord) => (0#5 : Flags)
  let float := fun (L : Fin 32) (o : DWord) => atomFadd w (o.setWidth 32) (g.seen b.toNat L)
  (([Instr.aadd x d a sc b, .amin x d a sc b, .amax x d a sc b, .aminu x d a sc b, .amaxu x d a sc b, .aand x d a sc b, .aor x d a sc b,
    .axch x d a sc b, .axor x d a sc b].zip (integerOps w)).map fun y => (y.1, w, false, (fun L o => some (y.2 o (g.operand w b.toNat L))), none_)) ++
  [(.acas x d a sc b, w, true, (fun L o => if o = g.operand w d.toNat L then some (g.operand w b.toNat L) else none), none_),
    (.afadd x d a sc b, false, false, (fun L o => some ((float L o).1.setWidth 64)), fun L o => (float L o).2)]

/-- The atomics of near memory: their prefix, whether they act on 64 bits, whether they return the old value, their sources beside the address, and what
they make of an old value (R152, R153). -/
def Group.nearAtomics (g : Group) (x : Pfx) (d a b' : Reg) (b : BitVec 4) : List (Instr × Pfx × Bool × Bool × List Nat × LaneOp) :=
  let w := wideOp x
  (([Instr.atnAdd x d a b, .atnMin x d a b, .atnMax x d a b, .atnMinu x d a b, .atnMaxu x d a b, .atnAnd x d a b, .atnOr x d a b,
    .atnXch x d a b].zip (integerOps w)).map fun y =>
      (y.1, x, w, !noReturn x, wordOrPair w b.toNat, fun L o => some (y.2 o (g.operand w b.toNat L)))) ++
  [(.casn d a b', none, false, true, [d.toNat, b'.toNat],
    fun L o => if o.setWidth 32 = g.seen d.toNat L then some ((g.seen b'.toNat L).setWidth 64) else none)]

/-- `old` and `new` are the values before and after the operation that each lane of a mask makes on `n` bytes, in ascending lane order (R15): a lane
finds what the lane `before` it at the same bytes has left, or, as the first, what was `there`. -/
structure Chain (m : Word) (n : Nat) (before : Fin 32 → Option (Fin 32)) (there : Fin 32 → DWord) (op : LaneOp) (old new : Fin 32 → DWord) : Prop where
  first : ∀ L : Fin 32, m.getLsbD L = true → before L = none → old L = there L
  next  : ∀ L M : Fin 32, m.getLsbD L = true → before L = some M → old L = new M
  made  : ∀ L : Fin 32, m.getLsbD L = true → new L = (((op L (old L)).getD (old L)).setWidth (8 * n)).setWidth 64
  idle  : ∀ L : Fin 32, m.getLsbD L = false → old L = 0#64

/-- The writes to D, and to D + 1 for 64 bits, that return the old values of an atomic with their flags. -/
def Group.returns (g : Group) (d : Nat) (wide : Bool) (m : Word) (old : Fin 32 → DWord) (flags : Lanes (BitVec 5)) : List PendWrite :=
  { reg := g.wbasev + d, mask := m, vals := lanesOf fun L => (old L).setWidth 32, flags := flags, left := none } ::
    if wide then [{ reg := g.wbasev + (d + 1), mask := m, vals := lanesOf fun L => (old L).extractLsb' 32 32, left := none }] else []

/-- What an atomic of global memory sends: the old values, or, where it returns none, the flags that it has set. -/
def Group.atomSends (g : Group) (d : Nat) (wide ret : Bool) (m : Word) (old : Fin 32 → DWord) (fl : Fin 32 → DWord → Flags) : List PendWrite :=
  let flags : Lanes (BitVec 5) := lanesOf fun L => if m.getLsbD L then fl L (old L) else 0#5
  if ret then g.returns d wide m old flags
  else if (List.finRange 32).any fun L => flags[L] != 0#5 then [{ reg := 0, mask := 0#32, vals := uniformLanes 0#32, flags := flags, left := none }]
  else []

-- ## Near memory

/-- The team of a place in a scratchpad is resident. -/
def State.hasPlace (s : State) (x : NearAt) : Bool := match x with
  | .spad u _ => (kfind s.teams u).isSome
  | .column _ _ => true

/-- The byte at a place in near memory. -/
def State.nearByte (s : State) (x : NearAt) : Byte := (s.nearRead x 1).headD 0#8

/-- Every active lane's address, a register plus an offset, is aligned and leads to a place without an error that can be accessed now. -/
def State.placed (s : State) (k : GKey) (g : Group) (p : Path) (a : Nat) (off : Word) (n : Nat) (F : Fin 32 → NearAt) : Prop :=
  ∀ L : Fin 32, p.ex.getLsbD L = true → (g.seen a L + off).toNat % n = 0 ∧
    s.nearDecode k.tkey g.mode (g.seen a L + off).toNat n = some (F L) ∧ s.nearPoisoned (F L) n = false ∧
    s.nearStalled (F L) = false ∧ s.hasPlace (F L) = true

/-- The nearest active lane below a lane whose place is the same. -/
def placeBefore (m : Word) (F : Fin 32 → NearAt) (L : Fin 32) : Option (Fin 32) :=
  ((maskLanes m).filter fun M => decide (M.val < L.val) && F M == F L).getLast?

/-- The last active lane whose place is the same (R145). -/
def lastPlace (m : Word) (F : Fin 32 → NearAt) (L : Fin 32) : Bool :=
  (maskLanes m).all fun M => decide (M.val ≤ L.val) || F M != F L

/-- From `s` to `t` only group `k` and the bytes of near memory change; the group keeps everything but its path and its writes on their way, to
which `new` are added before the beats of the instruction pass. -/
structure NearOnly (s t : State) (k : GKey) (g h : Group) (p : Path) (pfx : Pfx) (new : List PendWrite) : Prop where
  found  : kfind t.groups k = some h
  rest   : { t.rest with teams := [], cores := [], notes := [] } = { s.rest with teams := [], cores := [], notes := [] }
  teams  : ∀ u, (kfind t.teams u).map (fun x => { x with spad := [] }) = (kfind s.teams u).map fun x => { x with spad := [] }
  cores  : ∀ c, { t.core c with column := [] } = { s.core c with column := [] }
  others : ∀ j, j ≠ k → kfind t.groups j = kfind s.groups j
  group  : h.rest = g.rest
  regs   : h.regs = g.regs
  aflags : h.aflags = g.aflags
  path   : GoesOn h p (p.pc + BitVec.ofNat 32 (pfxLen pfx))
  pend   : h.pend = (g.pend ++ new).map fun q => q.aged (1 + s.slotW.toNat)

-- ## Places

/-- The byte at a place: of global memory the newest in coherence order. -/
def State.byteAt (s : State) : Place → Byte
  | .mem pa => s.newest pa
  | .spad t o => s.nearByte (.spad t o)
  | .column c o => s.nearByte (.column c o)

/-- The place is there: a scratchpad goes with its team. -/
def State.holds (s : State) : Place → Bool
  | .spad t _ => (kfind s.teams t).isSome
  | _ => true

/-- The place `i` bytes on. -/
def Place.plus (y : Place) (i : Nat) : Place := match y with
  | .mem pa => .mem (pa + i)
  | .spad t o => .spad t (o + i)
  | .column c o => .column c (o + i)

/-- From `s` to `t` every byte stays but those at places of a set. -/
def State.keepsBut (s t : State) (out : Place → Prop) : Prop := ∀ y, t.holds y = true → ¬ out y → t.byteAt y = s.byteAt y

-- ## Translations that stay (R248, R300)

/-- Two states agree in all that translations and checks are made from; their tables lie at the addresses `P`. -/
def State.sameTables (s s' : State) (P : Nat → Prop) : Prop :=
  s'.tlb = s.tlb ∧ s'.keys = s.keys ∧ s'.keyGen = s.keyGen ∧ s'.domains = s.domains ∧ s'.poisoned = s.poisoned ∧ s'.lost = s.lost ∧
    ∀ a, P a → cellGet s'.mem a = cellGet s.mem a ∧ kfind s'.lineKeys (lineOf a) = kfind s.lineKeys (lineOf a)

/-- No write is on its way to the tables. -/
def State.tablesApart (s : State) (P : Nat → Prop) : Prop := ∀ w ∈ s.writes, ∀ i < w.bytes.length, ¬ P (w.pa + i)

/-- A line holds no table. -/
def lineApart (P : Nat → Prop) (pa : Nat) : Prop := ∀ a, P a → lineOf a ≠ lineOf pa

/-- As long as the tables are as they are, a copy's address leads to this frame; no table lies in its line. -/
def State.steady (s : State) (P : Nat → Prop) (core : Nat) (sp : Space) (a : Nat) (need : Need) (f : Frame) : Prop :=
  lineApart P f.pa ∧ ∀ s', s.sameTables s' P → s'.translate core sp a need true = .ok f

/-- As long as the tables are as they are, an access meets this frame; no table lies in its line. -/
def State.steadyAccess (s : State) (P : Nat → Prop) (core : Nat) (sp : Space) (a : DWord) (n : Nat) (need : Need) (f : Frame) : Prop :=
  lineApart P f.pa ∧ ∀ s', s.sameTables s' P → s'.access core sp a n need = .ok f

/-- As long as the tables are as they are, a peer's access meets this; no table lies in the line of a frame. -/
def State.steadyResolve (s : State) (P : Nat → Prop) (dom src o n : Nat) (need : Need) (x : Resolved) : Prop :=
  (∀ f, x = .ok f → lineApart P f.pa) ∧ ∀ s', s.sameTables s' P → s'.resolve dom src o n need = x

-- ## Tiles (R165, R170, R171)

/-- The coordinates of the element `j` of a row of the tile: j1 runs fastest over the rows, and a dimension at or above NDIM stays 0. -/
def Tensor.coord (T : Tensor) (origin : List Int) (row j i : Nat) : Int :=
  if i = 0 then origin.headD 0 + j
  else if i < T.ndim then origin.getD i 0 + (row / (((List.range i).drop 1).foldl (fun n d => n * T.box.getD d 1) 1) % T.box.getD i 1 : Nat)
  else 0

/-- The element is in bounds. -/
def Tensor.inBounds (T : Tensor) (x : Nat → Int) : Bool := (List.range T.ndim).all fun i => decide (0 ≤ x i) && decide (x i < T.size.getD i 0)

/-- The coordinates, each clamped into its dimension; those of an element in bounds are its own. -/
def Tensor.nearest (T : Tensor) (x : Nat → Int) (i : Nat) : Nat := if i < T.ndim then (max 0 (min (x i) ((T.size.getD i 0 : Int) - 1))).toNat else 0

/-- Where bit `b` of the element lies in the tensor: the address of its byte. -/
def Tensor.bitAt (T : Tensor) (y : Nat → Nat) (b : Nat) : Nat :=
  (T.base + (y 1 * T.str.getD 1 0 + y 2 * T.str.getD 2 0 + y 3 * T.str.getD 3 0 + y 4 * T.str.getD 4 0 + y 5 * T.str.getD 5 0)) % 2 ^ 64 + (y 0 * T.w + b) / 8

/-- The index of the element's entry in the dense scale and zero-point tensors, whose blocks lie along dimension 0. -/
def Tensor.entryOf (T : Tensor) (y : Nat → Nat) : Nat :=
  let d := fun i => T.size.getD i 0
  let k := 16 * 2 ^ T.mxb
  y 0 / k + (d 0 + k - 1) / k * (y 1 + d 1 * (y 2 + d 2 * (y 3 + d 3 * (y 4 + d 4 * y 5))))

/-- The address is one of a byte that the element, its scale or its zero point takes. -/
def Tensor.takes (T : Tensor) (y : Nat → Nat) (a : Nat) : Prop :=
  (∃ b < T.w, a = T.bitAt y b) ∨ (T.exp = 1 ∧ a = T.sc + T.entryOf y) ∨
    (T.exp = 2 ∧ (a = T.sc + 2 * T.entryOf y ∨ a = T.sc + 2 * T.entryOf y + 1 ∨ a = T.zp + T.entryOf y))

/-- The code that the element gives the scratchpad, with the flags of its expansion, where `R` are the bytes of the tensor: a zero of INT4 under a scale
that is not zero is +0 (log 40). -/
def Tensor.valueOf (T : Tensor) (R : Nat → Byte) (y : Nat → Nat) : Nat × Flags :=
  let number := fun (a n : Nat) => ofBytes ((List.range n).map fun i => R (a + i))
  let e := number (T.bitAt y 0) 9 / 2 ^ (y 0 * T.w % 8) % 2 ^ T.w
  match T.exp with
  | 0 => (e, 0#5)
  | 1 =>
    let sc := number (T.sc + T.entryOf y) 1
    if sc = 255 then (0x7FC0, 0#5) else bf16.rne ((fE2m1.decode e).scale ((sc : Int) - 127))
  | _ =>
    let z := number (T.zp + T.entryOf y) 1
    let q : Int := (e : Int) - z
    match bf16.decode (number (T.sc + 2 * T.entryOf y) 2) with
    | .nan sig => (0x7FC0, if sig then flagNV else 0#5)
    | .num neg mag exp =>
      if mag = 0 then (if q < 0 then 0x8000 else 0, 0#5) else if q = 0 then (0, 0#5) else bf16.rne ((intVal q).mul (.num neg mag exp))
    | v => bf16.rne ((intVal q).mul v)

/-- The value of an element out of bounds for OOBF 0, 1 and 2. -/
def Tensor.outside (T : Tensor) : Nat :=
  if T.oobf = 0 then 0
  else if T.oobf = 1 then (if T.exp = 0 then [0x7FC0, 0x7E00, 0x7F, 0x7E].getD T.ef 0 else 0x7FC0)
  else if T.exp = 0 ∧ T.w = 64 then T.fill + 2 ^ 32 * T.fill
  else T.fill % 2 ^ (if T.exp = 0 then T.w else 16)

/-- Where bit `b` of element `j` of a row lies in the scratchpad image: the byte of its skewed place from the tile's origin on, and the bit there. -/
def Tensor.imageAt (T : Tensor) (row j b : Nat) : Nat × Nat :=
  let n := if T.exp = 0 then T.w else 16
  (row * T.rowB + ((j * n + b) / 8 + row * T.skew) % T.rowB, (j * n + b) % 8)

-- ## What a copy reads and writes (R164, R168, R170, R181)

/-- A frame of whose bytes the core sees the newest where its accesses are performed at the home: none is on its way there unseen. -/
def State.inView (s : State) (core : Nat) (f : Frame) (n : Nat) : Prop :=
  f.atHome = true → ∀ w ∈ s.writes, overlaps f.pa n w.pa w.bytes.length = true → w.seenBy core = true


/-- Whichever of memory now and memory as it was at the rendezvous an operation finds, a fact about it holds (R201); a copy finds it as it is now. -/
def Mover.sees (mv : Mover) (s : State) (P : State → Prop) : Prop := P s ∧ ∀ x, mv.old = some x → P (s.asSeen x.2 mv.team mv.core)

/-- A tile copy or an operation reads byte `b` at an address of its record's layer, without an error: in a layer of global memory what its core sees, in
the column what is there, and from a peer what the step brings; the own heap may be named as a peer's. -/
def State.tileReads (s : State) (mv : Mover) (T : Tensor) (a : Nat) (b : Byte) : Prop :=
  match T.layer with
  | 0 | 1 => a < 2 ^ 57 ∧ ∃ f, s.translate mv.core mv.space a .read true = .ok f ∧ isHost f.pa = (T.layer == 1) ∧
      (mv.old = none → s.inView mv.core f 1) ∧ mv.sees s fun s' => s'.isPoisoned f.pa = false ∧ s'.loadBytes mv.core f 1 = [b]
  | 2 => ∃ y, s.columnAt mv.team a 1 = some y ∧ mv.sees s fun s' => s'.nearPoisoned y 1 = false ∧ s'.nearByte y = b
  | _ => mv.reach = true ∧
      if mv.dest = s.selfNum then
        ∃ f, s.resolve (s.team mv.team).tdom.toNat mv.dest a 1 .read = .ok f ∧ mv.sees s fun s' => s'.rmwRead f 1 = [b]
      else (∀ r ∈ mv.answers, r.value.toNat / 16 ≠ a / 16) ∧ mv.peer.1 ≤ a ∧ mv.peer.2[a - mv.peer.1]? = some b

/-- A copy or an operation reads byte `b` of its team's scratchpad, without an error. -/
def State.spadReads (s : State) (mv : Mover) (o : Nat) (b : Byte) : Prop :=
  mv.sees s fun s' => s'.nearPoisoned (.spad mv.team o) 1 = false ∧ s'.nearByte (.spad mv.team o) = b

/-- A tile copy writes the byte at an address of its record's layer to a place of this device; a peer's memory may be the own heap. -/
def State.tileWrites (s : State) (c : Copy) (T : Tensor) (P : Nat → Prop) (key a : Nat) (y : Place) : Prop :=
  match T.layer with
  | 0 | 1 => a < 2 ^ 57 ∧ ∃ f, s.steady P c.core ((s.team c.key.tkey).space c.mode) a .write f ∧ isHost f.pa = (T.layer == 1) ∧
      s.isPoisoned f.pa = false ∧ f.key = key ∧ s.wrongKey f.pa key = false ∧ y = .mem f.pa
  | 2 => ∃ core o, s.columnAt c.key.tkey a 1 = some (.column core o) ∧ s.nearPoisoned (.column core o) 1 = false ∧ y = .column core o
  | _ => s.ev.flag = false ∧ s.peerReach c.key.tkey T.peer = true ∧ T.peer = s.selfNum ∧
      ∃ f, s.steadyResolve P (s.team c.key.tkey).tdom.toNat T.peer a 1 .write (.ok f) ∧ f.key = key ∧ s.wrongKey f.pa key = false ∧ y = .mem f.pa

/-- An LCOPY reads 16 bytes at a layer address, without an error. -/
def State.unitReads (s : State) (c : Copy) (x : DWord) (i : Nat) (bs : List Byte) : Prop :=
  match layerOf x with
  | .global a => a + i < 2 ^ 57 ∧ ∃ f, s.translate c.core ((s.team c.key.tkey).space c.mode) (a + i) .read true = .ok f ∧
      s.isPoisoned f.pa = false ∧ s.inView c.core f 16 ∧ s.loadBytes c.core f 16 = bs
  | .near a => ∃ y, s.nearDecode c.key.tkey c.mode (a + i) 16 = some y ∧ s.hasPlace y = true ∧ s.nearPoisoned y 16 = false ∧ s.nearRead y 16 = bs
  | .twin o => ∃ v y, s.twinColumn c.core = some v ∧ s.columnAt v (o + i) 16 = some y ∧ s.nearPoisoned y 16 = false ∧ s.nearRead y 16 = bs
  | .bad => False

/-- An LCOPY writes 16 bytes at a layer address to the place and those after it. -/
def State.unitWrites (s : State) (c : Copy) (x : DWord) (i : Nat) (y : Place) : Prop :=
  match layerOf x with
  | .global a => a + i < 2 ^ 57 ∧ ∃ f, s.translate c.core ((s.team c.key.tkey).space c.mode) (a + i) .write true = .ok f ∧
      s.isPoisoned f.pa = false ∧ s.wrongKey f.pa f.key = false ∧ y = .mem f.pa
  | .near a => ∃ z, s.nearDecode c.key.tkey c.mode (a + i) 16 = some z ∧ s.hasPlace z = true ∧ y = z.place 0 ∧
      match z with
      | .spad _ _ => True
      | .column _ _ => s.nearPoisoned z 16 = false
  | .twin o => ∃ v z, s.twinColumn c.core = some v ∧ s.columnAt v (o + i) 16 = some z ∧ s.nearPoisoned z 16 = false ∧ y = z.place 0
  | .bad => False

/-- The group's path `p` goes on at the next instruction, and `new` are its writes on their way after those of `g`. -/
def Group.onWith (g : Group) (p : Path) (pfx : Pfx) (new : List PendWrite) : Group :=
  { g with cur := some { p with pc := p.pc + BitVec.ofNat 32 (pfxLen pfx) }, pend := g.pend ++ new }

end Sys2Proof.Machine
end

