-- ==== Sys2Proof/Certificates/Slice0/Obligations.lean ====
section
/-! DEFINITION. What the provers are asked to show of the machine, family by family. -/

open Sys2Proof Sys2Proof.Machine

-- ## Integer and register instructions

/-- R119, R121, R124, R126: the integer instructions with two sources write D in every active lane, and nothing else changes. R115, R121, R126: MAD,
CSEL and BFI read D before they write it. R126: BFX takes the field of A that B's position and length name, and its sign flag extends it. -/
def Obligations.IntegerResults : Prop :=
  (∀ (s : State) (k : GKey) (g : Group) (p : Path), Issuing s k g p →
  ∀ d a b : Reg, Ready s k g p [d.toNat, a.toNat, b.toNat] [a.toNat, b.toNat] →
  ∀ x ∈ ([(.add d a b, fun a b => a + b), (.sub d a b, fun a b => a - b), (.mul d a b, fun a b => a * b),
    (.mulhs d a b, fun a b => hiWord (a.signExtend 64 * b.signExtend 64)), (.mulhu d a b, fun a b => hiWord (a.setWidth 64 * b.setWidth 64)),
    (.min d a b, fun a b => if a.sle b then a else b), (.max d a b, fun a b => if b.sle a then a else b),
    (.minu d a b, fun a b => if a ≤ b then a else b), (.maxu d a b, fun a b => if a ≥ b then a else b),
    (.and d a b, fun a b => a &&& b), (.or d a b, fun a b => a ||| b), (.xor d a b, fun a b => a ^^^ b),
    (.seq d a b, fun a b => if a = b then 1#32 else 0#32), (.slt d a b, fun a b => if a.slt b then 1#32 else 0#32),
    (.sltu d a b, fun a b => if a < b then 1#32 else 0#32),
    (.shl d a b, fun a b => a <<< b), (.shr d a b, fun a b => a >>> b), (.sar d a b, fun a b => a.sshiftRight' b),
    (.rot d a b, fun a b => a.rotateLeft (b.toNat % 32))] : List (Instr × (Word → Word → Word))),
  ∃ t h, exec x.1 s = .next t ∧ OnlyRegs s t k g h [g.wbasev + d.toNat] ∧ h.aflags = g.aflags ∧ GoesOn h p (p.pc + 4#32) ∧
    Writes g h p.ex (g.wbasev + d.toNat) fun L => x.2 (g.seen a.toNat L) (g.seen b.toNat L)) ∧
  (∀ (s : State) (k : GKey) (g : Group) (p : Path), Issuing s k g p →
  ∀ d a b : Reg, Ready s k g p [d.toNat, a.toNat, b.toNat] [d.toNat, a.toNat, b.toNat] →
  ∀ x ∈ ([(.mad d a b, fun d a b => d + a * b), (.csel d a b, fun d a b => if d.getLsbD 0 then a else b),
    (.bfi d a b, fun d a b =>
      let pos := natBits b.toNat 4 0
      let len := min (natBits b.toNat 10 5) (32 - pos)
      BitVec.ofFnLE fun i : Fin 32 => if pos ≤ i.val ∧ i.val < pos + len then a.getLsbD (i.val - pos) else d.getLsbD i.val)] :
    List (Instr × (Word → Word → Word → Word))),
  ∃ t h, exec x.1 s = .next t ∧ OnlyRegs s t k g h [g.wbasev + d.toNat] ∧ h.aflags = g.aflags ∧ GoesOn h p (p.pc + 4#32) ∧
    Writes g h p.ex (g.wbasev + d.toNat) fun L => x.2 (g.seen d.toNat L) (g.seen a.toNat L) (g.seen b.toNat L)) ∧
  (∀ (s : State) (k : GKey) (g : Group) (p : Path), Issuing s k g p →
  ∀ d a b : Reg, Ready s k g p [d.toNat, a.toNat, b.toNat] [a.toNat, b.toNat] →
  ∃ t h, exec (.bfx d a b) s = .next t ∧ OnlyRegs s t k g h [g.wbasev + d.toNat] ∧ h.aflags = g.aflags ∧ GoesOn h p (p.pc + 4#32) ∧
    Writes g h p.ex (g.wbasev + d.toNat) fun L =>
      let x := g.seen a.toNat L
      let c := g.seen b.toNat L
      let pos := natBits c.toNat 4 0
      let len := min (natBits c.toNat 10 5) (32 - pos)
      BitVec.ofFnLE fun i : Fin 32 =>
        if i.val < len then x.getLsbD (pos + i.val) else decide (len ≠ 0) && c.getLsbD 11 && x.getLsbD (pos + len - 1))

/-- R110, R111, R123, R124, R125: the instructions with one source, their immediates after a prefix or none. R111, R116: MOVI and FMT.GET write one
value to every active lane, and MOVHI replaces the high 14 bits of D. -/
def Obligations.UnaryAndImmediateResults : Prop :=
  (∀ (s : State) (k : GKey) (g : Group) (p : Path), Issuing s k g p →
  ∀ (d a : Reg) (x : Pfx) (i : BitVec 7) (n : BitVec 5), Ready s k g p [d.toNat, a.toNat] [a.toNat] →
  let imm : Word := match x with
    | none => i.signExtend 32
    | some y => (y ++ i : BitVec 28).signExtend 32
  ∀ y ∈ ([(.addi x d a i, x, fun a => a + imm), (.andi x d a i, x, fun a => a &&& imm), (.ori x d a i, x, fun a => a ||| imm),
    (.xori x d a i, x, fun a => a ^^^ imm), (.shli d a n, none, fun a => a <<< n), (.shri d a n, none, fun a => a >>> n),
    (.sari d a n, none, fun a => a.sshiftRight n.toNat), (.roti d a n, none, fun a => a.rotateLeft n.toNat),
    (.clz d a, none, fun a => a.clz), (.ctz d a, none, fun a => a.ctz), (.popc d a, none, fun a => a.cpop), (.brev d a, none, fun a => a.reverse),
    (.abs d a, none, fun a => a.abs), (.neg d a, none, fun a => -a), (.not d a, none, fun a => ~~~a),
    (.sextb d a, none, fun a => (a.setWidth 8).signExtend 32), (.sexth d a, none, fun a => (a.setWidth 16).signExtend 32),
    (.zextb d a, none, fun a => (a.setWidth 8).setWidth 32), (.zexth d a, none, fun a => (a.setWidth 16).setWidth 32),
    (.mov d a, none, fun a => a)] : List (Instr × Pfx × (Word → Word))),
  ∃ t h, exec y.1 s = .next t ∧ OnlyRegs s t k g h [g.wbasev + d.toNat] ∧ h.aflags = g.aflags ∧
    GoesOn h p (p.pc + BitVec.ofNat 32 (pfxLen y.2.1)) ∧ Writes g h p.ex (g.wbasev + d.toNat) fun L => y.2.2 (g.seen a.toNat L)) ∧
  (∀ (s : State) (k : GKey) (g : Group) (p : Path), Issuing s k g p → ∀ (d : Reg) (x : Pfx) (i : BitVec 14),
  ∀ y ∈ ([(.movi x d i, x, [], fun _ => match x with
      | none => i.signExtend 32
      | some q => q.setWidth 18 ++ i), (.movhi d i, none, [d.toNat], fun L => i ++ (g.seen d.toNat L).setWidth 18),
    (.fmtGet d, none, [], fun _ => p.fmt)] : List (Instr × Pfx × List Nat × (Fin 32 → Word))),
  Ready s k g p [d.toNat] y.2.2.1 →
  ∃ t h, exec y.1 s = .next t ∧ OnlyRegs s t k g h [g.wbasev + d.toNat] ∧ h.aflags = g.aflags ∧
    GoesOn h p (p.pc + BitVec.ofNat 32 (pfxLen y.2.1)) ∧ Writes g h p.ex (g.wbasev + d.toNat) y.2.2.2)

/-- R110, R122: the instructions that write a pair read every source before they write either register. -/
def Obligations.PairResults : Prop :=
  ∀ (s : State) (k : GKey) (g : Group) (p : Path), Issuing s k g p → ∀ (d a b : Reg) (x : Pfx),
  let d0 := d.toNat
  let a0 := a.toNat
  let b0 := b.toNat
  ∀ y ∈ ([(.add64 d a b, none, [d0, d0 + 1, a0, a0 + 1, b0, b0 + 1], [a0, a0 + 1, b0, b0 + 1], fun L => g.seen2 a0 L + g.seen2 b0 L),
    (.addz64 x d a b, x, [d0, d0 + 1, a0, a0 + 1, b0], [a0, a0 + 1, b0], fun L =>
      g.seen2 a0 L + ((g.seen b0 L).setWidth 64 <<< ((payload x).toNat % 32))),
    (.mulws d a b, none, [d0, d0 + 1, a0, b0], [a0, b0], fun L => (g.seen a0 L).signExtend 64 * (g.seen b0 L).signExtend 64),
    (.mulwz d a b, none, [d0, d0 + 1, a0, b0], [a0, b0], fun L => (g.seen a0 L).setWidth 64 * (g.seen b0 L).setWidth 64),
    (.mov64 d a, none, [d0, d0 + 1, a0, a0 + 1], [a0, a0 + 1], fun L => g.seen2 a0 L)] :
    List (Instr × Pfx × List Nat × List Nat × (Fin 32 → DWord))),
  Ready s k g p y.2.2.1 y.2.2.2.1 →
  ∃ t h, exec y.1 s = .next t ∧ OnlyRegs s t k g h [g.wbasev + d0, g.wbasev + d0 + 1] ∧ h.aflags = g.aflags ∧
    GoesOn h p (p.pc + BitVec.ofNat 32 (pfxLen y.2.1)) ∧ Writes2 g h p.ex (g.wbasev + d0) y.2.2.2.2

/-- R112: WBASE and WBASE.REL set the window base within the allotment, and raise WINDOW outside it, with the base unchanged. R116: FMT.SET gives the
current path the value that A holds in the active lanes, unchecked, and raises UNIFORM where they differ. -/
def Obligations.WindowBaseAndFmt : Prop :=
  (∀ (s : State) (k : GKey) (g : Group) (p : Path), Issuing s k g p → ∀ i : BitVec 14,
  ∀ y ∈ ([(.wbase i, i.toInt * 8), (.wbaseRel i, (g.wbasev : Int) + i.toInt * 8)] : List (Instr × Int)),
  (0 ≤ y.2 ∧ y.2 ≤ (g.wsize : Int) - 8 →
    ∃ t h, exec y.1 s = .next t ∧ Becomes s t k { g with wbasev := y.2.toNat, cur := some { p with pc := p.pc + 4#32 } } h) ∧
  (¬ (0 ≤ y.2 ∧ y.2 ≤ (g.wsize : Int) - 8) → Traps y.1 s k g p none { cause := .window, lanes := p.ex })) ∧
  (∀ (s : State) (k : GKey) (g : Group) (p : Path), Issuing s k g p → ∀ a : Reg, Ready s k g p [a.toNat] [a.toNat] →
  (Uniform g p [a.toNat] →
    ∃ t h, exec (.fmtSet a) s = .next t ∧
      Becomes s t k { g with cur := some { p with pc := p.pc + 4#32, fmt := g.seen a.toNat (lowestLane p.ex) } } h) ∧
  (¬ Uniform g p [a.toNat] → Traps (.fmtSet a) s k g p none { cause := .uniform, lanes := p.ex }))

-- ## Floating instructions

/-- R128, R129, R130, R134: the floating instructions with two sources write D at once, and OR the flags of each active lane into AFLAGS (R57). R128,
R134: the fused multiply-adds round the exact A × B + D once. -/
def Obligations.FloatArithmeticResults : Prop :=
  (∀ (s : State) (k : GKey) (g : Group) (p : Path), Issuing s k g p →
  ∀ d a b : Reg, Ready s k g p [d.toNat, a.toNat, b.toNat] [a.toNat, b.toNat] →
  let cmp := fun (ordered : Bool) (test : Int → Int → Bool) (a b : Word) =>
    if (f32 a).isNan || (f32 b).isNan then (0#32, if ordered || (f32 a).isSig || (f32 b).isSig then flagNV else 0#5)
    else (if test (orderKey a) (orderKey b) then 1#32 else 0#32, 0#5)
  let half := fun (x : Word) (h : Nat) => bf16.decode (natBits x.toNat (16 * h + 15) (16 * h))
  let both := fun (lo hi : Nat × Flags) => (BitVec.ofNat 32 (lo.1 + 65536 * hi.1), lo.2 ||| hi.2)
  ∀ x ∈ ([(.fadd d a b, fun a b => toF32 (sumTerms [f32 a, f32 b])), (.fsub d a b, fun a b => toF32 (sumTerms [f32 a, (f32 b).neg])),
    (.fmul d a b, fun a b => toF32 ((f32 a).mul (f32 b))), (.fmin d a b, minMax false), (.fmax d a b, minMax true),
    (.fseq d a b, cmp false fun x y => decide (x = y)), (.fslt d a b, cmp true fun x y => decide (x < y)),
    (.fsle d a b, cmp true fun x y => decide (x ≤ y)),
    (.badd2 d a b, fun a b => both (bf16.rne (sumTerms [half a 0, half b 0])) (bf16.rne (sumTerms [half a 1, half b 1]))),
    (.bmul2 d a b, fun a b => both (bf16.rne ((half a 0).mul (half b 0))) (bf16.rne ((half a 1).mul (half b 1))))] :
    List (Instr × (Word → Word → Word × Flags))),
  ∃ t h, exec x.1 s = .next t ∧ OnlyRegs s t k g h [g.wbasev + d.toNat] ∧ GoesOn h p (p.pc + 4#32) ∧
    (Flags.into g h p.ex fun L => (x.2 (g.seen a.toNat L) (g.seen b.toNat L)).2) ∧
    Writes g h p.ex (g.wbasev + d.toNat) fun L => (x.2 (g.seen a.toNat L) (g.seen b.toNat L)).1) ∧
  (∀ (s : State) (k : GKey) (g : Group) (p : Path), Issuing s k g p →
  ∀ d a b : Reg, Ready s k g p [d.toNat, a.toNat, b.toNat] [d.toNat, a.toNat, b.toNat] →
  let paired := fun (F : FFormat) (d a b : Word) =>
    let one := fun (h : Nat) =>
      let e := fun (x : Word) => F.decode (natBits x.toNat (16 * h + 15) (16 * h))
      F.rne (sumTerms [(e a).mul (e b), e d])
    (BitVec.ofNat 32 ((one 0).1 + 65536 * (one 1).1), (one 0).2 ||| (one 1).2)
  ∀ x ∈ ([(.ffma d a b, fun d a b => toF32 (sumTerms [(f32 a).mul (f32 b), f32 d])), (.bfma2 d a b, paired bf16), (.hfma2 d a b, paired fp16)] :
    List (Instr × (Word → Word → Word → Word × Flags))),
  ∃ t h, exec x.1 s = .next t ∧ OnlyRegs s t k g h [g.wbasev + d.toNat] ∧ GoesOn h p (p.pc + 4#32) ∧
    (Flags.into g h p.ex fun L => (x.2 (g.seen d.toNat L) (g.seen a.toNat L) (g.seen b.toNat L)).2) ∧
    Writes g h p.ex (g.wbasev + d.toNat) fun L => (x.2 (g.seen d.toNat L) (g.seen a.toNat L) (g.seen b.toNat L)).1)

/-- R129: of two numbers, FMIN gives the smaller and FMAX the larger, −0 below +0; a NaN gives way to the other operand. R132: FCLASS sets exactly
one of ten bits, and its mask follows the sign, the exponent and the fraction of its source. R53, R128: a value that FP32 holds rounds to its own
encoding, without a flag. -/
def Obligations.FloatChoicesAndClasses : Prop :=
  (∀ a b : Word,
  ((f32 a).isNan = false → (f32 b).isNan = true → (minMax false a b).1 = a ∧ (minMax true a b).1 = a) ∧
  ((f32 a).isNan = true → (f32 b).isNan = false → (minMax false a b).1 = b ∧ (minMax true a b).1 = b) ∧
  ((f32 a).isNan = true → (f32 b).isNan = true → (minMax false a b).1 = 0x7FC00000#32 ∧ (minMax true a b).1 = 0x7FC00000#32) ∧
  ((f32 a).isNan = false → (f32 b).isNan = false →
    (orderKey a < orderKey b → (minMax false a b).1 = a ∧ (minMax true a b).1 = b) ∧
    (orderKey b < orderKey a → (minMax false a b).1 = b ∧ (minMax true a b).1 = a)) ∧
  ((minMax false 0x80000000#32 0#32).1 = 0x80000000#32 ∧ (minMax true 0x80000000#32 0#32).1 = 0#32 ∧
    (minMax false 0#32 0x80000000#32).1 = 0x80000000#32 ∧ (minMax true 0#32 0x80000000#32).1 = 0#32) ∧
  (minMax false a b).2 = (if (f32 a).isSig || (f32 b).isSig then flagNV else 0#5) ∧ (minMax true a b).2 = (minMax false a b).2) ∧
  (∀ a : Word,
  let e := natBits a.toNat 30 23
  let f := natBits a.toNat 22 0
  classOf a = (if e = 255 then (if f = 0 then (if a.msb then 0x001#32 else 0x080#32) else if 2 ^ 22 ≤ f then 0x200#32 else 0x100#32)
    else if e = 0 then (if f = 0 then (if a.msb then 0x008#32 else 0x010#32) else if a.msb then 0x004#32 else 0x020#32)
    else if a.msb then 0x002#32 else 0x040#32)) ∧
  (∀ a : Word, (f32 a).isNan = false → toF32 (f32 a) = (a, 0#5))

/-- R131, R132: the functions of the FMA unit write D at once; NV for a signalling NaN is their only flag. FRNDN, FRNDZ, FRNDP and FRNDM round to the
integer that their mode names and keep the sign; a magnitude of 2^23 or more, and an infinity, is unchanged. -/
def Obligations.OneSourceFloatResults : Prop :=
  (∀ (s : State) (k : GKey) (g : Group) (p : Path), Issuing s k g p →
  ∀ d a : Reg, Ready s k g p [d.toNat, a.toNat] [a.toNat] →
  let num := fun (f : Word → Word) (a : Word) => if (f32 a).isNan then (0x7FC00000#32, if (f32 a).isSig then flagNV else 0#5) else (f a, 0#5)
  ∀ x ∈ ([(.fabs d a, num fun a => a &&& 0x7FFFFFFF#32), (.fneg d a, num fun a => a ^^^ 0x80000000#32), (.frndn d a, num (integral .rne)),
    (.frndz d a, num (integral .rz)), (.frndp d a, num (integral .ru)), (.frndm d a, num (integral .rd)),
    (.fclass d a, fun a => (classOf a, 0#5))] : List (Instr × (Word → Word × Flags))),
  ∃ t h, exec x.1 s = .next t ∧ OnlyRegs s t k g h [g.wbasev + d.toNat] ∧ GoesOn h p (p.pc + 4#32) ∧
    (Flags.into g h p.ex fun L => (x.2 (g.seen a.toNat L)).2) ∧ Writes g h p.ex (g.wbasev + d.toNat) fun L => (x.2 (g.seen a.toNat L)).1) ∧
  ∀ a : Word, (f32 a).isNan = false →
  (0x4B000000 ≤ a.toNat % 2 ^ 31 → ∀ m ∈ [RMode.rne, .rz, .ru, .rd], integral m a = a) ∧
  (a.toNat % 2 ^ 31 < 0x4B000000 → ∃ (mag : Nat) (exp : Int), f32 a = .num a.msb mag exp ∧ exp < 0 ∧
    let unit := 2 ^ (-exp).toNat
    let whole := mag / unit
    let rest := mag % unit
    let value := fun (n : Nat) => (toF32 (.num a.msb n 0)).1
    integral .rz a = value whole ∧
    integral .ru a = value (if rest = 0 ∨ a.msb = true then whole else whole + 1) ∧
    integral .rd a = value (if rest = 0 ∨ a.msb = false then whole else whole + 1) ∧
    integral .rne a = value (if 2 * rest < unit ∨ 2 * rest = unit ∧ whole % 2 = 0 then whole else whole + 1))

/-- R62: the special inputs give their results and flags exactly. R61, R62: where the value within the bound is left open (log 9), FRCP above 2^126
gives a zero or a subnormal, with UF; FEX2 gives a finite value, with UF for a zero or a subnormal; and no flag comes without a row of the
table. R53, R61: FSQRT of a positive finite source rounds its exact root once, to nearest even, with the flags of R53: M, of 25 bits or more, is the
root's integer part in some binary unit, and a sticky bit below it stands for the rest. The bounds of R61 for the six other functions are not stated
here. -/
def Obligations.SpecialFunctionResults : Prop :=
  let inf := fun (neg : Bool) => if neg then 0xFF800000#32 else 0x7F800000#32
  let zero := fun (neg : Bool) => if neg then 0x80000000#32 else 0#32
  let nan := 0x7FC00000#32
  (∀ neg : Bool,
    frcp (zero neg) = (inf neg, flagDZ) ∧ frcp (inf neg) = (zero neg, 0#5) ∧ frsq (zero neg) = (inf neg, flagDZ) ∧
    fsqrt (zero neg) = (zero neg, 0#5) ∧ flg2 (zero neg) = (inf true, flagDZ) ∧ sinCos 0x0C (zero neg) = (zero neg, 0#5) ∧
    sinCos 0x0D (zero neg) = (0x3F800000#32, 0#5) ∧ sinCos 0x0C (inf neg) = (nan, flagNV) ∧ sinCos 0x0D (inf neg) = (nan, flagNV)) ∧
  fsqrt (inf false) = (inf false, 0#5) ∧ fex2 (inf true) = (0#32, 0#5) ∧ fex2 (inf false) = (inf false, 0#5) ∧
  flg2 0x3F800000#32 = (0#32, 0#5) ∧ flg2 (inf false) = (inf false, 0#5) ∧
  (∀ a : Word, (f32 a).isNan = true → ∀ f ∈ [frcp, frsq, fsqrt, fex2, flg2, sinCos 0x0C, sinCos 0x0D],
    f a = (nan, if (f32 a).isSig then flagNV else 0#5)) ∧
  ∀ a : Word, let m := a.toNat % 2 ^ 31
  (a.msb = true → 0 < m → m ≤ 0x7F800000 → ∀ f ∈ [frsq, fsqrt, flg2], f a = (nan, flagNV)) ∧
  (0 < m → m ≤ 2 ^ 21 → frcp a = (inf a.msb, flagOF)) ∧
  (2 ^ 21 < m → m ≤ 0x7E800000 → (frcp a).2 = 0#5) ∧
  (0x7E800000 < m → m < 0x7F800000 → (frcp a).1.toNat % 2 ^ 31 < 2 ^ 23 ∧ (frcp a).2 = flagUF) ∧
  (a.msb = false → 0 < m → m < 0x7F800000 → (frsq a).2 = 0#5 ∧ (flg2 a).2 = 0#5) ∧
  (a.msb = false → 0x43000000 ≤ m → m < 0x7F800000 → fex2 a = (inf false, flagOF)) ∧
  (a.msb = true → 0x43150000 < m → m < 0x7F800000 → fex2 a = (0#32, flagUF)) ∧
  ((if a.msb then m ≤ 0x43150000 else m < 0x43000000) → (fex2 a).1.toNat % 2 ^ 31 ≤ 0x7F7FFFFF ∧
    (fex2 a).2 = if (fex2 a).1.toNat % 2 ^ 31 < 2 ^ 23 then flagUF else 0#5) ∧
  (a.msb = false → 0 < m → m < 0x7F800000 → ∃ (mag : Nat) (exp : Int) (M : Nat) (j : Int), f32 a = .num false mag exp ∧
    2 ^ 24 ≤ M ∧ 2 * j ≤ exp ∧ M * M ≤ mag * 2 ^ (exp - 2 * j).toNat ∧ mag * 2 ^ (exp - 2 * j).toNat < (M + 1) * (M + 1) ∧
    fsqrt a = toF32 (.num false (2 * M + if M * M = mag * 2 ^ (exp - 2 * j).toNat then 0 else 1) (j - 1))) ∧
  (0 < m → m ≤ 0x4AC90FDA → (sinCos 0x0C a).2 = 0#5 ∧ (sinCos 0x0D a).2 = 0#5) ∧
  (0x4AC90FDA < m → m < 0x7F800000 → sinCos 0x0C a = (nan, flagNV) ∧ sinCos 0x0D a = (nan, flagNV))

/-- R61, R68, R133: each special function completes: it goes on at the next instruction, and its value and flags, a function of the source alone, are
the newest write on their way to D, with the latency of 24 counted beats, of which its own beats are the first. R137, R138, R139: the dot products
take the latency of 10 counted beats; DOT4I and DOT8I sum exactly and saturate, the others close one chunk. -/
def Obligations.SpecialFunctionsAndDotProducts : Prop :=
  ∀ (s : State) (k : GKey) (g : Group) (p : Path), Issuing s k g p → ∀ d a b : Reg,
  let sends := fun (i : Instr) (latency : Nat) (f : Fin 32 → Word × Flags) =>
    ∃ t h, exec i s = .next t ∧ OnlyRegs s t k g h [g.wbasev + d.toNat] ∧ h.aflags = g.aflags ∧ GoesOn h p (p.pc + 4#32) ∧
      h.reg (g.wbasev + d.toNat) = g.reg (g.wbasev + d.toNat) ∧
      Sends h p.ex (g.wbasev + d.toNat) (some (latency - (1 + s.slotW.toNat))) (fun L => (f L).1) fun L => (f L).2
  (Ready s k g p [d.toNat, a.toNat] [a.toNat] →
    ∀ x ∈ ([(.frcp d a, frcp), (.frsq d a, frsq), (.fsqrt d a, fsqrt), (.fex2 d a, fex2), (.flg2 d a, flg2), (.fsin d a, sinCos 0x0C),
      (.fcos d a, sinCos 0x0D)] : List (Instr × (Word → Word × Flags))), sends x.1 24 fun L => x.2 (g.seen a.toNat L)) ∧
  (Ready s k g p [d.toNat, a.toNat, b.toNat] [d.toNat, a.toNat, b.toNat] →
    let part := fun (n : Nat) (x : Word) (i : Nat) => natBits x.toNat (n * i + n - 1) (n * i)
    let int := fun (n : Nat) (d a b : Word) =>
      let t := d.toInt + ((List.range (32 / n)).map fun i => (BitVec.ofNat n (part n a i)).toInt * (BitVec.ofNat n (part n b i)).toInt).sum
      (BitVec.ofInt 32 (max (-2 ^ 31) (min (2 ^ 31 - 1) t)), 0#5)
    let flt := fun (F : FFormat) (n : Nat) (d a b : Word) =>
      toF32 (sumTerms (f32 d :: (List.range (32 / n)).map fun i => (F.decode (part n a i)).mul (F.decode (part n b i))))
    ∀ x ∈ ([(.dot4i d a b, int 8), (.dot8i d a b, int 4), (.dot4f d a b, flt fE4m3 8), (.dot8f d a b, flt fE2m1 4), (.dot2b d a b, flt bf16 16)] :
      List (Instr × (Word → Word → Word → Word × Flags))), sends x.1 10 fun L => x.2 (g.seen d.toNat L) (g.seen a.toNat L) (g.seen b.toNat L))

/-- R135: a conversion reads FMT, which must have its reserved bits zero; it writes D at once, with its flags. R135, R136: the conversions from and
to a signed pair, and CVTP, which moves D's elements down and puts two converted ones on top. R107, R135, R136: reserved bits of FMT that are
not zero raise ILLEGAL in all of them, and so do the element codes 11 to 15 in CVTP. -/
def Obligations.ConversionResults : Prop :=
  (∀ (s : State) (k : GKey) (g : Group) (p : Path), Issuing s k g p → p.fmt.toNat / 2 ^ 22 = 0 →
  ∀ d a : Reg, Ready s k g p [d.toNat, a.toNat] [a.toNat] →
  let widen := fun (F : FFormat) (n : Nat) (x : Word) => toF32 (F.decode (x.toNat % 2 ^ n))
  let narrow := fun (F : FFormat) (x : Word) => asWord (F.round (fmtRnd p.fmt) (p.fmt.getLsbD 19) (f32 x))
  let float := fun (i : Int) => asWord (fp32.round (fmtRnd p.fmt) (p.fmt.getLsbD 19) (intVal i))
  let int := fun (lo hi : Int) (x : Word) => let r := toIntRange (fmtRnd p.fmt) lo hi (f32 x); (BitVec.ofInt 32 r.1, r.2)
  let shortS := fun (n : Nat) (x : Word) =>
    (BitVec.ofInt 32 (if p.fmt.getLsbD 19 then max (-2 ^ (n - 1)) (min (2 ^ (n - 1) - 1) x.toInt) else (BitVec.ofNat n x.toNat).toInt), 0#5)
  let shortZ := fun (n : Nat) (x : Word) => (BitVec.ofNat 32 (if p.fmt.getLsbD 19 then min x.toNat (2 ^ n - 1) else x.toNat % 2 ^ n), 0#5)
  ∀ x ∈ ([(.cvtF32F16 d a, widen fp16 16), (.cvtF32Bf16 d a, widen bf16 16), (.cvtF16F32 d a, narrow fp16), (.cvtBf16F32 d a, narrow bf16),
    (.cvtF32S32 d a, fun x => float x.toInt), (.cvtF32Z32 d a, fun x => float x.toNat), (.cvtS32F32 d a, int (-2 ^ 31) (2 ^ 31 - 1)),
    (.cvtZ32F32 d a, int 0 (2 ^ 32 - 1)), (.cvtF32E4m3 d a, widen fE4m3 8), (.cvtF32E5m2 d a, widen fE5m2 8), (.cvtF32E3m2 d a, widen fE3m2 6),
    (.cvtF32E2m3 d a, widen fE2m3 6), (.cvtF32E2m1 d a, widen fE2m1 4), (.cvtE4m3F32 d a, narrow fE4m3), (.cvtE5m2F32 d a, narrow fE5m2),
    (.cvtE3m2F32 d a, narrow fE3m2), (.cvtE2m3F32 d a, narrow fE2m3), (.cvtE2m1F32 d a, narrow fE2m1), (.cvtF32E8m0 d a, widen fE8m0 8),
    (.cvtE8m0F32 d a, narrow fE8m0), (.cvtS16S32 d a, shortS 16), (.cvtS8S32 d a, shortS 8), (.cvtZ16Z32 d a, shortZ 16),
    (.cvtZ8Z32 d a, shortZ 8)] : List (Instr × (Word → Word × Flags))),
  ∃ t h, exec x.1 s = .next t ∧ OnlyRegs s t k g h [g.wbasev + d.toNat] ∧ GoesOn h p (p.pc + 4#32) ∧
    (Flags.into g h p.ex fun L => (x.2 (g.seen a.toNat L)).2) ∧ Writes g h p.ex (g.wbasev + d.toNat) fun L => (x.2 (g.seen a.toNat L)).1) ∧
  (∀ (s : State) (k : GKey) (g : Group) (p : Path), Issuing s k g p → p.fmt.toNat / 2 ^ 22 = 0 → ∀ d a b : Reg,
  (Ready s k g p [d.toNat, a.toNat, a.toNat + 1] [a.toNat, a.toNat + 1] →
    let r := fun L => asWord (fp32.round (fmtRnd p.fmt) (p.fmt.getLsbD 19) (intVal (g.seen2 a.toNat L).toInt))
    ∃ t h, exec (.cvtF32S64 d a) s = .next t ∧ OnlyRegs s t k g h [g.wbasev + d.toNat] ∧ GoesOn h p (p.pc + 4#32) ∧
      (Flags.into g h p.ex fun L => (r L).2) ∧ Writes g h p.ex (g.wbasev + d.toNat) fun L => (r L).1) ∧
  (Ready s k g p [d.toNat, d.toNat + 1, a.toNat] [a.toNat] →
    let r := fun L => toIntRange (fmtRnd p.fmt) (-2 ^ 63) (2 ^ 63 - 1) (f32 (g.seen a.toNat L))
    ∃ t h, exec (.cvtS64F32 d a) s = .next t ∧ OnlyRegs s t k g h [g.wbasev + d.toNat, g.wbasev + d.toNat + 1] ∧ GoesOn h p (p.pc + 4#32) ∧
      (Flags.into g h p.ex fun L => (r L).2) ∧ Writes2 g h p.ex (g.wbasev + d.toNat) fun L => BitVec.ofInt 64 (r L).1) ∧
  (Ready s k g p [d.toNat, a.toNat, b.toNat] [d.toNat, a.toNat, b.toNat] → p.fmt.toNat % 16 ≤ 10 →
    let w := codeBits (p.fmt.toNat % 16)
    let top := if w = 6 then 24 else 32
    let x := fun L => convertElement p.fmt (g.seen a.toNat L)
    let y := fun L => convertElement p.fmt (g.seen b.toNat L)
    ∃ t h, exec (.cvtp d a b) s = .next t ∧ OnlyRegs s t k g h [g.wbasev + d.toNat] ∧ GoesOn h p (p.pc + 4#32) ∧
      (Flags.into g h p.ex fun L => (x L).2 ||| (y L).2) ∧
      Writes g h p.ex (g.wbasev + d.toNat) fun L =>
        BitVec.ofNat 32 ((g.seen d.toNat L).toNat % 2 ^ top / 2 ^ (2 * w) + (x L).1 * 2 ^ (top - 2 * w) + (y L).1 * 2 ^ (top - w)))) ∧
  (∀ (s : State) (k : GKey) (g : Group) (p : Path), Issuing s k g p → ∀ d a b : Reg,
  let refused := fun (i : Instr) => Traps i s k g p none { cause := .illegal, lanes := p.ex }
  (p.fmt.toNat / 2 ^ 22 ≠ 0 → Ready s k g p [] [a.toNat] →
    ∀ i ∈ [Instr.cvtF32F16 d a, .cvtF32Bf16 d a, .cvtF16F32 d a, .cvtBf16F32 d a, .cvtF32S32 d a, .cvtF32Z32 d a, .cvtS32F32 d a, .cvtZ32F32 d a,
      .cvtF32E4m3 d a, .cvtF32E5m2 d a, .cvtF32E3m2 d a, .cvtF32E2m3 d a, .cvtF32E2m1 d a, .cvtE4m3F32 d a, .cvtE5m2F32 d a, .cvtE3m2F32 d a,
      .cvtE2m3F32 d a, .cvtE2m1F32 d a, .cvtF32E8m0 d a, .cvtE8m0F32 d a, .cvtS16S32 d a, .cvtS8S32 d a, .cvtZ16Z32 d a, .cvtZ8Z32 d a,
      .cvtS64F32 d a], refused i) ∧
  (p.fmt.toNat / 2 ^ 22 ≠ 0 → Ready s k g p [] [a.toNat, a.toNat + 1] → refused (.cvtF32S64 d a)) ∧
  (p.fmt.toNat / 2 ^ 22 ≠ 0 ∨ 11 ≤ p.fmt.toNat % 16 → Ready s k g p [] [d.toNat, a.toNat, b.toNat] → refused (.cvtp d a b)))

-- ## Special registers

/-- R102, R103, R113: SGET writes the register's value to D; the per-lane ones are read lane by lane. R104: SGET of NRM returns and clears the bit in the active lanes once the group's earlier loads there have completed, and waits until then. R57,
R104: SGET of AFLAGS returns the flags once every earlier instruction has set its own, and waits until then. R104: SGET of CYCLO returns the low
half of the cycle counter and latches the high half in CYCHI in the same cycle. -/
def Obligations.SpecialRegisterReads : Prop :=
  (∀ (s : State) (k : GKey) (g : Group) (p : Path), Issuing s k g p → ∀ (d : Reg) (n : BitVec 7),
  isSpecial n.toNat = true → specialRefused g.mode n.toNat = false → n.toNat ∉ [0x09, 0x0A, 0x16] → Ready s k g p [d.toNat] [] →
  ∃ t h, exec (.sget d n) s = .next t ∧ OnlyRegs s t k g h [g.wbasev + d.toNat] ∧ h.aflags = g.aflags ∧ GoesOn h p (p.pc + 4#32) ∧
    Writes g h p.ex (g.wbasev + d.toNat) fun L =>
      if n.toNat = 0x00 then BitVec.ofNat 32 L.val else if n.toNat = 0x0B then (g.aen[L]).setWidth 32
      else (s.view k g p none).special n.toNat) ∧
  (∀ (s : State) (k : GKey) (g : Group) (p : Path), Issuing s k g p → ∀ d : Reg, Ready s k g p [d.toNat] [] →
  ((∀ q ∈ g.pend, q.left = none → q.await = none → (q.mask ||| q.absent) &&& p.ex = 0#32) →
    ∃ t h, exec (.sget d 0x09#7) s = .next t ∧ OnlyRegs s t k { g with nrm := g.nrm &&& ~~~p.ex } h [g.wbasev + d.toNat] ∧
      h.aflags = g.aflags ∧ GoesOn h p (p.pc + 4#32) ∧
      Writes g h p.ex (g.wbasev + d.toNat) fun L => if g.nrm.getLsbD L then 1#32 else 0#32) ∧
  ((∃ q ∈ g.pend, q.left = none ∧ q.await = none ∧ (q.mask ||| q.absent) &&& p.ex ≠ 0#32) →
    exec (.sget d 0x09#7) s = .next (s.holdIssue k [⟨.nrmRead, { key := k }⟩]))) ∧
  (∀ (s : State) (k : GKey) (g : Group) (p : Path), Issuing s k g p → ∀ d : Reg, Ready s k g p [d.toNat] [] →
  ((∀ q ∈ g.pend, q.raises = false) → (∀ r ∈ s.requests, ∀ n w op, r.asker = .posted k n → r.kind ≠ .atom op w) →
    ∃ t h, exec (.sget d 0x0A#7) s = .next t ∧ OnlyRegs s t k g h [g.wbasev + d.toNat] ∧ h.aflags = g.aflags ∧ GoesOn h p (p.pc + 4#32) ∧
      Writes g h p.ex (g.wbasev + d.toNat) fun L => (g.aflags[L]).setWidth 32) ∧
  ((∃ q ∈ g.pend, q.raises = true) → exec (.sget d 0x0A#7) s = .next (s.holdIssue k [⟨.aflagsRead, { key := k }⟩]))) ∧
  (∀ (s : State) (k : GKey) (g : Group) (p : Path), Issuing s k g p → ∀ d : Reg, Ready s k g p [d.toNat] [] →
  ∃ t h, exec (.sget d 0x16#7) s = .next t ∧ OnlyRegs s t k { g with cychi := BitVec.ofNat 32 (s.cycle / 2 ^ 32) } h [g.wbasev + d.toNat] ∧
    h.aflags = g.aflags ∧ GoesOn h p (p.pc + 4#32) ∧
    Writes g h p.ex (g.wbasev + d.toNat) fun _ => BitVec.ofNat 32 (s.cycle % 2 ^ 32))

/-- R73, R103, R105: the words of the special registers that tell the program what it is, where it stands and how it trapped. R2, R103: COREID, from
the place of the core in the mesh. R148, R156, R162, R163: BFREE, BSTAT and COLTEMP tell of the pair. R172, R200: TDONE and MDONE are the highest
batches below which nothing of the group is in flight. R103, R192, R210, R341: GANGV, LIC and CTXBASE. -/
def Obligations.SpecialRegisterWords : Prop :=
  ∀ (s : State) (k : GKey) (g : Group) (p : Path) (x : Pfx),
  let word := fun (n : Nat) => (s.view k g p x).special n
  let c := s.coreOf k
  let q := s.pair c
  let t := s.team k.tkey
  let r := s.record k.tkey
  let bit := fun (b : Bool) (n : Nat) => if b then 2 ^ n else 0
  (∀ (n : Nat) (w : Word),
  (n, w) ∈ [(0x01, BitVec.ofNat 32 k.g), (0x02, BitVec.ofNat 32 k.team), (0x03, BitVec.ofNat 32 k.slot), (0x08, p.ex),
    (0x0C, BitVec.ofNat 32 g.wbasev), (0x0D, BitVec.ofNat 32 g.wsize), (0x10, g.tb.committed), (0x12, g.mb.committed), (0x17, g.cychi),
    (0x05, BitVec.ofNat 32 (k.team % r.clusterSize)), (0x06, BitVec.ofNat 32 (r.clusterSize + 2 ^ 16 * r.clw + 2 ^ 20 * r.clh)),
    (0x07, s.selfPeer), (0x15, BitVec.ofNat 32 q.tar), (0x16, BitVec.ofNat 32 (s.cycle % 2 ^ 32)), (0x19, t.shb.setWidth 32),
    (0x1A, t.shb.extractLsb' 32 32), (0x49, BitVec.ofNat 32 (t.slice - s.cycle)), (0x4B, (s.core c).pword), (0x60, t.asid.setWidth 32),
    (0x61, t.ptb.setWidth 32), (0x62, t.ptb.extractLsb' 32 32),
    (0x63, BitVec.ofNat 32 (t.tdom.toNat + bit t.isSealed 31)), (0x64, t.ownkey.setWidth 32),
    (0x18, BitVec.ofNat 32 (g.gang.toNat + 2 ^ 24 * g.rvn.toNat + bit g.gangOk 31)),
    (0x14, BitVec.ofNat 32 (bit (q.licence == some c) 0 + bit (q.wants.contains c) 1 + bit (q.wants.contains (twinOf c)) 2)),
    (0x0E, BitVec.ofNat 32 (if s.noHolder c || s.twinGated c then 0 else (s.part c (k.g % 4)).credits)),
    (0x0F, BitVec.ofNat 32 (bit (q.realign == .deferred) 0 + bit (q.realign == .deferred) 1 + bit (s.twinGated c) 2 + bit (q.realign == .running) 3 +
      bit (s.noHolder c) 4)),
    (0x1B, BitVec.ofNat 32 (q.temp % 256 + bit q.doubled 8 + bit q.refresh 9)),
    (0x4A, BitVec.ofNat 32 (2 ^ 16 * ((s.core c).ctx % 64) + match (s.core c).ctxPend with
      | none => 0
      | some m => 2 ^ 31 + 2 ^ 24 * (m % 64))),
    (0x40, match g.mode with
      | .user => 0#32
      | .supervisor => 1#32
      | .hypervisor => 2#32),
    (0x41, (g.bank g.mode).tvec), (0x42, (g.bank g.mode).tcause), (0x43, (g.bank g.mode).taddr.setWidth 32),
    (0x44, (g.bank g.mode).taddr.extractLsb' 32 32), (0x45, (g.bank g.mode).tmask), (0x46, (g.bank g.mode).tpc),
    (0x47, BitVec.ofNat 32 g.stack.length), (0x68, g.sbank.tvec), (0x69, g.sbank.tcause), (0x6A, g.sbank.taddr.setWidth 32),
    (0x6B, g.sbank.taddr.extractLsb' 32 32), (0x6C, g.sbank.tmask), (0x6D, g.sbank.tpc)] →
  word n = w) ∧
  (s.noHolder c = true ↔ (∀ u ∈ s.teams, u.2.core = twinOf c → u.2.gone = false → (s.record u.1).beam = false) ∧
    ∀ u ∈ s.saved, u.core = twinOf c → (s.record u.team).beam = false) ∧
  (∀ is < 4, ∀ d < 2, ∀ by_ < 4, ∀ bx < 4, ∀ cy < 4, ∀ cx < 4, c = ((is * 2 + d) * 16 + (4 * by_ + bx)) * 16 + (4 * cy + cx) →
    word 0x04 = BitVec.ofNat 32 (c + 2 ^ 16 * (4 * bx + cx) + 2 ^ 20 * (4 * by_ + cy)) ∧ twinOf c = ((is * 2 + (1 - d)) * 16 + (4 * by_ + bx)) * 16 + (4 * cy + cx)) ∧
  (let inT := fun (b : Word) => (∃ y ∈ s.copies, y.key = k ∧ y.orphan = false ∧ y.batch = b) ∧ (g.tb.committed - b).toNat < 2 ^ 31
    let inM := fun (b : Word) => (∃ u < 4, ∃ o ∈ (s.part c u).matQ, ∃ m ∈ o.members, m.key = k ∧ m.orphan = false ∧ m.batch = b) ∧
      (g.mb.committed - b).toNat < 2 ^ 31
    ∀ y ∈ ([(0x11, g.tb.committed, inT), (0x13, g.mb.committed, inM)] : List (Nat × Word × (Word → Prop))),
    ((∀ b, ¬ y.2.2 b) → word y.1 = y.2.1) ∧
    ∀ b, y.2.2 b → (∀ b', y.2.2 b' → (y.2.1 - b').toNat ≤ (y.2.1 - b).toNat) → word y.1 = b - 1#32) ∧
  let at_ := (g.rspeek.extractLsb' 0 5).toNat
  (g.stack.length ≤ at_ → word 0x48 = 0#32) ∧
  ∀ e, g.stack[at_]? = some e → word 0x48 = match (g.rspeek.extractLsb' 5 2).toNat, e.kind with
    | 0, _ => e.pc
    | 1, _ => e.mask
    | 2, _ => e.fmt
    | _, .mark => 0x00#32
    | _, .path .ready => 0x01#32
    | _, .path .joined => 0x11#32
    | _, .path (.suspended _) => 0x21#32
    | _, .trap .user _ => 0x02#32
    | _, .trap .supervisor _ => 0x42#32
    | _, .trap .hypervisor _ => 0x82#32

/-- R103, R105, R113: SSET writes AFLAGS and AEN lane by lane, the trap bank of the current mode, the supervisor bank from hypervisor mode, and
RSPEEK's selector. R102, R103, R113: SSET from hypervisor mode writes the team's address space, domain and owner key, and in a privileged mode
CTXBASE becomes pending; a write to a read-only register changes nothing. -/
def Obligations.SpecialRegisterWrites : Prop :=
  (∀ (s : State) (k : GKey) (g : Group) (p : Path), Issuing s k g p → ∀ a : Reg, Ready s k g p [a.toNat] [a.toNat] →
  let x := g.seen a.toNat (lowestLane p.ex)
  let lanes := fun (old : Lanes (BitVec 5)) => lanesOf fun L => if p.ex.getLsbD L then (g.seen a.toNat L).setWidth 5 else old[L]
  let on := { g with cur := some { p with pc := p.pc + 4#32 } }
  let put := fun (b : Bank) (i : Nat) => match i with
    | 0 => { b with tvec := x }
    | 1 => { b with tcause := x &&& 0x7FFF#32 }
    | 2 => { b with taddr := pairVal x (hiWord b.taddr) }
    | 3 => { b with taddr := pairVal (loWord b.taddr) x }
    | 4 => { b with tmask := x }
    | _ => { b with tpc := x }
  let does := fun (n : Nat) (q : Group) => ∃ t h, exec (.sset a (BitVec.ofNat 7 n)) s = .next t ∧ Becomes s t k q h
  does 0x0A { on with aflags := lanes g.aflags } ∧ does 0x0B { on with aen := lanes g.aen } ∧ (∀ n ∈ [0x00, 0x09, 0x0E, 0x0F], does n on) ∧
  (Uniform g p [a.toNat] →
    (g.mode ≠ .user → (∀ i < 6, does (0x41 + i) (on.setBank g.mode (put (g.bank g.mode) i))) ∧ does 0x48 { on with rspeek := x.setWidth 7 }) ∧
    (g.mode = .hypervisor → ∀ i < 6, does (0x68 + i) { on with sbank := put g.sbank i }))) ∧
  (∀ (s : State) (k : GKey) (g : Group) (p : Path), Issuing s k g p → ∀ a : Reg, Ready s k g p [a.toNat] [a.toNat] → Uniform g p [a.toNat] →
  let x := g.seen a.toNat (lowestLane p.ex)
  let does := fun (n : Nat) (s' : State) => ∃ t h, exec (.sset a (BitVec.ofNat 7 n)) s = .next t ∧
    Becomes s' t k { g with cur := some { p with pc := p.pc + 4#32 } } h
  (g.mode = .hypervisor →
    does 0x60 (s.modTeam k.tkey fun t => { t with asid := x.setWidth 16 }) ∧
    does 0x61 (s.modTeam k.tkey fun t => { t with ptb := pairVal (x &&& 0xFFFFE000#32) (hiWord t.ptb) }) ∧
    does 0x62 (s.modTeam k.tkey fun t => { t with ptb := pairVal (loWord t.ptb) (x &&& 0x01FFFFFF#32) }) ∧
    does 0x63 (s.modTeam k.tkey fun t => { t with tdom := x.setWidth 10, isSealed := x.getLsbD 31 }) ∧
    does 0x64 (s.modTeam k.tkey fun t => { t with ownkey := x.setWidth 12 })) ∧
  (g.mode ≠ .user → does 0x4A (s.modCore (s.coreOf k) fun c => { c with ctxPend := some (natBits x.toNat 21 16) }) ∧
    ∀ n ∈ [0x40, 0x47, 0x49, 0x4B], does n s) ∧
  ∀ n < 0x1C, n ≠ 0x0A → n ≠ 0x0B → does n s)

/-- R32, R102, R113: an unassigned number raises ILLEGAL, and a number that the mode cannot reach raises PRIV; SSET of a source that is not uniform to a
register held per group, team, core or pair raises UNIFORM. R103, R104, R341: the steps of the sampled registers. -/
def Obligations.SpecialRegisterChecksAndSteps : Prop :=
  (∀ (s : State) (k : GKey) (g : Group) (p : Path), Issuing s k g p → ∀ (r : Reg) (n : BitVec 7), g.waits [g.wbasev + r.toNat] p.ex = false →
  ∀ i ∈ [Instr.sget r n, Instr.sset r n],
  (0x1B < n.toNat ∧ n.toNat < 0x40 ∨ 0x4B < n.toNat ∧ n.toNat < 0x60 ∨ 0x64 < n.toNat ∧ n.toNat < 0x68 ∨ 0x6D < n.toNat →
    Traps i s k g p none { cause := .illegal, lanes := p.ex }) ∧
  (isSpecial n.toNat = true → (g.mode = .user ∧ 0x40 ≤ n.toNat ∨ g.mode = .supervisor ∧ 0x60 ≤ n.toNat) →
    Traps i s k g p none { cause := .priv, lanes := p.ex })) ∧
  (∀ (s : State) (k : GKey) (g : Group) (p : Path), Issuing s k g p → ∀ (a : Reg) (n : BitVec 7), Ready s k g p [a.toNat] [a.toNat] →
  isSpecial n.toNat = true → specialRefused g.mode n.toNat = false → n.toNat ∉ [0x00, 0x09, 0x0A, 0x0B, 0x0E, 0x0F] →
  ¬ Uniform g p [a.toNat] → Traps (.sset a n) s k g p none { cause := .uniform, lanes := p.ex }) ∧
  (∀ (s : State) (g : Group), kfind s.groups s.ev.key = some g →
  (∃ t h, exec .nrmRead s = .next t ∧ kfind t.groups s.ev.key = some h ∧ (∀ q ∈ h.pend, q.left ≠ none ∨ q.await ≠ none) ∧
    s.ev.key ∉ t.stalled ∧ t.mem = s.mem) ∧
  exec .cycloRead s = .next (s.setGroup s.ev.key { g with cychi := BitVec.ofNat 32 (s.cycle / 2 ^ 32) }) ∧
  (∃ t h, exec .aflagsRead s = .next t ∧ kfind t.groups s.ev.key = some h ∧ (∀ q ∈ h.pend, q.raises = false) ∧
    (∀ L : Fin 32, h.aflags[L] = g.pend.foldl (fun f q => f ||| q.flags[L]) g.aflags[L]) ∧ s.ev.key ∉ t.stalled ∧ t.mem = s.mem) ∧
  exec .rspeekWrite s = .next (s.setGroup s.ev.key { g with rspeek := BitVec.ofNat 7 s.ev.n }) ∧
  exec .ctxbaseWrite s = .next { s with cores := kput s.cores s.ev.core { s.core s.ev.core with ctxPend := some (s.ev.n % 64) } })

-- ## Control flow

/-- R82, R90: NOP only advances, YIELD rotates the paths and ends the run, and the votes combine the active lanes whose source is not zero. R114: a
shuffle reads A across the lanes of the path; its result has the fixed latency of 6 beats (R68), which its own beats count. -/
def Obligations.VotesShufflesAndNop : Prop :=
  (∀ (s : State) (k : GKey) (g : Group) (p : Path), Issuing s k g p →
  (∃ t h, exec .nop s = .next t ∧ Becomes s t k { g with cur := some { p with pc := p.pc + 4#32 } } h) ∧
  (∃ t h, exec .yield s = .next t ∧ Becomes s t k (g.rotate p (p.pc + 4#32)).1 h ∧ k ∉ t.runs) ∧
  ∀ d a : Reg, Ready s k g p [d.toNat, a.toNat] [a.toNat] →
  let yes := (maskLanes p.ex).filter fun L => decide (g.seen a.toNat L ≠ 0#32)
  ∀ y ∈ ([(.voteAny d a, if yes = [] then 0#32 else 1#32), (.voteAll d a, if yes = maskLanes p.ex then 1#32 else 0#32),
    (.voteBallot d a, lanesMask yes), (.voteCount d a, BitVec.ofNat 32 yes.length),
    (.voteFirst d a, match yes with
      | [] => 0xFFFFFFFF#32
      | L :: _ => BitVec.ofNat 32 L.val)] : List (Instr × Word)),
  ∃ t h, exec y.1 s = .next t ∧ OnlyRegs s t k g h [g.wbasev + d.toNat] ∧ h.aflags = g.aflags ∧ GoesOn h p (p.pc + 4#32) ∧
    Writes g h p.ex (g.wbasev + d.toNat) fun _ => y.2) ∧
  (∀ (s : State) (k : GKey) (g : Group) (p : Path), Issuing s k g p →
  ∀ d a b : Reg, Ready s k g p [d.toNat, a.toNat, b.toNat] [a.toNat, b.toNat] →
  ∀ y ∈ ([(.shfl d a b, fun _ b => b.toNat % 32), (.shflx d a b, fun L b => L.val ^^^ (b.toNat % 32))] :
    List (Instr × (Fin 32 → Word → Nat))),
  ∃ t h, exec y.1 s = .next t ∧ OnlyRegs s t k g h [g.wbasev + d.toNat] ∧ h.aflags = g.aflags ∧ GoesOn h p (p.pc + 4#32) ∧
    h.reg (g.wbasev + d.toNat) = g.reg (g.wbasev + d.toNat) ∧
    Sends h p.ex (g.wbasev + d.toNat) (some (6 - (1 + s.slotW.toNat))) (fun L =>
      let src := Fin.ofNat 32 (y.2 L (g.seen b.toNat L))
      if p.ex.getLsbD src then g.seen a.toNat src else g.seen a.toNat L) fun _ => 0#5)

/-- R23, R77, R86, R88: BRA, CALL, BRANY and BRALL move the whole path; a taken target at or below the pc makes the branch a rotation point. R74,
R77, R87: BRZ and BRNZ move the lanes whose D is zero, or not; a path that splits pushes the taken lanes, and 24 entries are the limit. R89: JMP
and JMPL raise ALIGN where a target is misaligned; else the lanes of the lowest target go on, and each other target becomes an entry, lowest
first. -/
def Obligations.BranchesAndJumps : Prop :=
  (∀ (s : State) (k : GKey) (g : Group) (p : Path), Issuing s k g p → ∀ (d : Reg) (i : BitVec 21) (j : BitVec 14),
  let far := p.pc + 4#32 * i.signExtend 32
  let near := p.pc + 4#32 * j.signExtend 32
  (∃ t h, exec (.bra i) s = .next t ∧ Becomes s t k (g.moved p far (decide (far ≤ p.pc))) h) ∧
  (Ready s k g p [d.toNat] [] →
    ∃ t h, exec (.call d j) s = .next t ∧
      Becomes s t k ((g.write (g.wbasev + d.toNat) p.ex (uniformLanes (p.pc + 4#32))).moved p near (decide (near ≤ p.pc))) h) ∧
  (Ready s k g p [d.toNat] [d.toNat] →
    let some_ := (maskLanes p.ex).any fun L => decide (g.seen d.toNat L ≠ 0#32)
    let all := (maskLanes p.ex).all fun L => decide (g.seen d.toNat L ≠ 0#32)
    let to_ := fun (takes : Bool) => if takes then g.moved p near (decide (near ≤ p.pc)) else { g with cur := some { p with pc := p.pc + 4#32 } }
    (∃ t h, exec (.brany d j) s = .next t ∧ Becomes s t k (to_ some_) h) ∧ ∃ t h, exec (.brall d j) s = .next t ∧ Becomes s t k (to_ all) h)) ∧
  (∀ (s : State) (k : GKey) (g : Group) (p : Path), Issuing s k g p → p.ex ≠ 0#32 → ∀ (d : Reg) (j : BitVec 14),
  Ready s k g p [d.toNat] [d.toNat] →
  let target := p.pc + 4#32 * j.signExtend 32
  ∀ y ∈ ([(.brz d j, fun x => decide (x = 0#32)), (.brnz d j, fun x => decide (x ≠ 0#32))] : List (Instr × (Word → Bool))),
  let taken := lanesMask ((maskLanes p.ex).filter fun L => y.2 (g.seen d.toNat L))
  (taken = 0#32 → ∃ t h, exec y.1 s = .next t ∧ Becomes s t k { g with cur := some { p with pc := p.pc + 4#32 } } h) ∧
  (taken = p.ex → ∃ t h, exec y.1 s = .next t ∧ Becomes s t k (g.moved p target (decide (target ≤ p.pc))) h) ∧
  (taken ≠ 0#32 → taken ≠ p.ex → g.used < 24 →
    ∃ t h, exec y.1 s = .next t ∧
      Becomes s t k (({ g with stack := g.stack ++ [⟨.path .ready, target, taken, p.fmt⟩] } : Group).moved { p with ex := p.ex &&& ~~~taken }
        (p.pc + 4#32) (decide (target ≤ p.pc))) h) ∧
  (taken ≠ 0#32 → taken ≠ p.ex → 24 ≤ g.used → Traps y.1 s k g p none { cause := .rsOverflow, lanes := p.ex })) ∧
  (∀ (s : State) (k : GKey) (g : Group) (p : Path), Issuing s k g p → ∀ d a : Reg,
  Ready s k g p [a.toNat] [a.toNat] → Ready s k g p [d.toNat, a.toNat] [a.toNat] →
  let to_ := fun (L : Fin 32) => g.seen a.toNat L
  let bad := (maskLanes p.ex).filter fun L => decide ((to_ L).toNat % 4 ≠ 0)
  let lanes := fun (u : Nat) => lanesMask ((maskLanes p.ex).filter fun L => (to_ L).toNat == u)
  ∀ y ∈ ([(.jmp a, g), (.jmpl d a, g.write (g.wbasev + d.toNat) p.ex (uniformLanes (p.pc + 4#32)))] : List (Instr × Group)),
  (∀ L0 rest, bad = L0 :: rest →
    Traps y.1 s k g p none { cause := .align, lanes := lanesMask bad, addr := (to_ L0).setWidth 64 }) ∧
  (bad = [] → ∀ u0 us, rising ((maskLanes p.ex).map fun L => (to_ L).toNat) = u0 :: us →
    (g.used + us.length ≤ 24 →
      ∃ t h, exec y.1 s = .next t ∧
        Becomes s t k (({ y.2 with stack := g.stack ++ us.map fun u => ⟨.path .ready, BitVec.ofNat 32 u, lanes u, p.fmt⟩ } : Group).moved
          { p with ex := lanes u0 } (BitVec.ofNat 32 u0) (decide (u0 ≤ p.pc.toNat))) h) ∧
    (24 < g.used + us.length → Traps y.1 s k g p none { cause := .rsOverflow, lanes := p.ex })))

/-- R84, R85: MARK pushes its rejoin PC; a JOIN elsewhere than there is a NOP, the one that brings the last lanes pops the mark with all above it,
and an earlier one leaves its lanes joined, in an entry of their own if there is none, for which 24 entries are the limit. R83, R92, R278: EXIT and
TEXIT end the lanes of the current path, leave every enclosing mark and trap entry without them, and settle; a group without lanes retires, and writes
a record of each failure that it has not reported. Each lane that runs a task updates its join record first, in 8 bytes; memory is otherwise as it
was. -/
def Obligations.MarksJoinsAndExits : Prop :=
  (∀ (s : State) (k : GKey) (g : Group) (p : Path), Issuing s k g p →
  let on : Group := { g with cur := some { p with pc := p.pc + 4#32 } }
  (∀ i : BitVec 14,
    (g.used < 24 → ∃ t h, exec (.mark i) s = .next t ∧
      Becomes s t k { on with stack := g.stack ++ [⟨.mark, p.pc + 4#32 * i.signExtend 32, p.ex, p.fmt⟩] } h) ∧
    (24 ≤ g.used → Traps (.mark i) s k g p none { cause := .rsOverflow, lanes := p.ex })) ∧
  (innermostMark g.stack = none → ∃ t h, exec .join s = .next t ∧ Becomes s t k on h) ∧
  (∀ n m, innermostMark g.stack = some n → g.stack[n]? = some m →
    (m.pc ≠ p.pc → ∃ t h, exec .join s = .next t ∧ Becomes s t k on h) ∧
    (m.pc = p.pc → p.ex ||| joinedMask g.stack = m.mask →
      ∃ t h, exec .join s = .next t ∧ Becomes s t k { g with stack := g.stack.take n, cur := some ⟨p.pc + 4#32, m.mask, m.fmt⟩ } h) ∧
    (m.pc = p.pc → p.ex ||| joinedMask g.stack ≠ m.mask → (∀ e ∈ g.stack.drop (frameBase g.stack), e.isJoined = false) → g.used < 24 →
      ∃ t h, exec .join s = .next t ∧
        Becomes s t k (Group.settle { g with stack := g.stack ++ [⟨.path .joined, p.pc, p.ex, p.fmt⟩] }) h ∧ k ∉ t.runs) ∧
    (m.pc = p.pc → p.ex ||| joinedMask g.stack ≠ m.mask → (∀ e ∈ g.stack.drop (frameBase g.stack), e.isJoined = false) → 24 ≤ g.used →
      Traps .join s k g p none { cause := .rsOverflow, lanes := p.ex }) ∧
    (m.pc = p.pc → p.ex ||| joinedMask g.stack ≠ m.mask → ∀ below (e : Entry) above, g.stack = below ++ e :: above → e.isJoined = true →
      (∀ x ∈ above, x.isJoined = false) → frameBase g.stack ≤ below.length →
      ∃ t h, exec .join s = .next t ∧
        Becomes s t k (Group.settle { g with stack := below ++ { e with mask := e.mask ||| p.ex } :: above }) h ∧ k ∉ t.runs))) ∧
  (∀ (s : State) (k : GKey) (g : Group) (p : Path), Issuing s k g p → (g.tasks &&& p.ex ≠ 0#32 → Unheld s g) →
  let f := g.faultedLanes
  let normal := p.ex &&& g.tasks &&& ~~~f
  let v := (s.view k g p none).s
  let tells := g.pfail.length + (g.posted.filter fun q => q.fails ≠ []).length
  ∀ y ∈ ([(.exit, (v.endTaskLanes k (p.ex &&& f) .faulted).endTaskLanes k (p.ex &&& ~~~f) .killed),
    (.texit, ((if normal = 0#32 then v else v.release (s.coreOf k) 6).endTaskLanes k normal .normal).endTaskLanes k (p.ex &&& f) .faulted)] :
      List (Instr × State)),
  let w := (y.2.group k).exitLanes p.ex
  ∃ t, exec y.1 s = .next t ∧ (g.tasks &&& p.ex = 0#32 → y.2.mem = s.mem ∧ y.2.writes = s.writes) ∧
    (w.live = 0#32 → kfind t.groups k = none ∧ t.hlogt = y.2.hlogt + BitVec.ofNat 32 tells ∧ (tells = 0 → t.mem = y.2.mem ∧ t.writes = y.2.writes)) ∧
    (w.live ≠ 0#32 → t.mem = y.2.mem ∧ t.writes = y.2.writes ∧ ∃ h, kfind t.groups k = some h ∧ h.cur = w.cur ∧ h.mode = w.mode ∧
      h.regs = g.regs ∧ h.stack.map (fun e => (e.pc, e.mask, e.fmt)) = w.stack.map fun e => (e.pc, e.mask, e.fmt))) ∧
  ∀ (s : State) (t : TKey) (j : DWord) (how : TaskEnd), (j = 0#64 → s.endTask t j how = s) ∧
  (j ≠ 0#64 → ∀ f, s.access (s.team t).core (s.taskSpace t) j 16 .both = .ok f → s.wrongKey f.pa f.key = false →
    let s' := s.endTask t j how
    let old := ofBytes (s.newestRead f.pa 16)
    let new := ofBytes (s'.newestRead f.pa 16)
    new % 2 ^ 32 = (old + 2 ^ 32 - 1) % 2 ^ 32 ∧ new / 2 ^ 63 = old / 2 ^ 63 ∧
    new / 2 ^ 32 % 2 ^ 16 = (if how = .faulted then min (old / 2 ^ 32 % 2 ^ 16 + 1) 0xFFFF else old / 2 ^ 32 % 2 ^ 16) ∧
    new / 2 ^ 48 % 2 ^ 15 = (if how = .killed then min (old / 2 ^ 48 % 2 ^ 15 + 1) 0x7FFF else old / 2 ^ 48 % 2 ^ 15) ∧
    ∀ pa, pa < f.pa ∨ f.pa + 8 ≤ pa → s'.newest pa = s.newest pa)

-- ## Traps

/-- R330, R332, R334, R335: SYSC, BRK and HVC enter the handler of their target mode with the return PC after them: the trap entry holds the old
mode, lanes and FMT, and the bank the cause, the lanes and the PC. R64 to R66: the call takes one beat, and its wait beats pass. -/
def Obligations.CallsEnterTheirHandler : Prop :=
  ∀ (s : State) (k : GKey) (g : Group) (p : Path), Issuing s k g p → ∀ n : BitVec 7,
  ∀ y ∈ ([(.sysc n, 0x04, n.toNat, if g.mode = .user then .supervisor else g.mode), (.brk, 0x06, 0, if g.mode = .user then .supervisor else g.mode),
    (.hvc, 0x05, 0, .hypervisor)] : List (Instr × Nat × Nat × Mode)),
  (y.1 = .hvc → g.mode ≠ .user) → g.openInto y.2.2.2 < 4 → (g.bank y.2.2.2).tvec.toNat % 4 = 0 →
  ∃ t h, exec y.1 s = .next t ∧ kfind t.groups k = some h ∧ t.mem = s.mem ∧ t.teams = s.teams ∧
    (∀ j, j ≠ k → kfind t.groups j = kfind s.groups j) ∧
    h.mode = y.2.2.2 ∧ h.cur = some { p with pc := (g.bank y.2.2.2).tvec } ∧
    h.stack = g.stack ++ [⟨.trap g.mode 0#32, p.pc + 4#32, p.ex, p.fmt⟩] ∧ h.regs = g.drainFixed.regs ∧ h.aflags = g.drainFixed.aflags ∧
    h.bank y.2.2.2 = ⟨(g.bank y.2.2.2).tvec, BitVec.ofNat 32 (y.2.1 + 256 * y.2.2.1), 0#64, p.ex, p.pc⟩ ∧
    h.wbasev = g.wbasev ∧ h.aen = g.aen ∧ h.nrm = g.drainFixed.nrm ∧ t.cycle = s.cycle + 1 + s.slotW.toNat

/-- R262, R291, R335, R337, R338: the privileged instructions raise PRIV in user mode: HVC, HALT, CMAINT.TLB, TRET outside a user frame, and LAUNCH
of a team whose grid has no launch right. R337: TRET returns to the trap entry's PC, lanes, FMT and mode and pops
the entry; TRET.SKIP goes past the instruction there. The results of fixed latency complete first (R68). R336: TFENCE goes on where no active lane has an enabled flag, once every flag is set, and raises ARITH in those that have; the flags stay. R338:
HALT completes in a privileged mode, and the scheduler is asked first of all to pre-empt the team and to hold it. -/
def Obligations.PrivilegeTrapReturnsAndFlags : Prop :=
  (∀ (s : State) (k : GKey) (g : Group) (p : Path), Issuing s k g p → g.mode = .user →
  (∀ i ∈ [Instr.hvc, Instr.halt], Traps i s k g p none { cause := .priv, lanes := p.ex }) ∧
  (g.aboveTrap = false → ∀ i ∈ [Instr.tret, Instr.tretSkip], Traps i s k g p none { cause := .priv, lanes := p.ex }) ∧
  (g.aboveTrap = true → ∀ i ∈ [Instr.tret, Instr.tretSkip], Traps i s k g p none { cause := .illegal, lanes := p.ex }) ∧
  (∀ (d a : Reg) (sc : BitVec 3), Ready s k g p [] (d.toNat :: pairRegs a.toNat) →
    Traps (.cmaintTlb d a sc) s k g p none { cause := .priv, lanes := p.ex }) ∧
  (∀ d a : Reg, Ready s k g p [] (pairRegs a.toNat) → (s.record k.tkey).lright = false →
    Traps (.launch d a) s k g p none { cause := .priv, lanes := p.ex })) ∧
  (∀ (s : State) (k : GKey) (g : Group) (p : Path), Issuing s k g p → g.mode ≠ .user →
  ∀ (below : List Entry) (m : Mode) (f pc mask fmt : Word), g.stack = below ++ [⟨.trap m f, pc, mask, fmt⟩] →
  let back := fun (i : Instr) (r : Word) => ∃ t h, exec i s = .next t ∧ k ∉ t.runs ∧
    Becomes s t k { g.drainFixed with mode := m, stack := below, cur := some ⟨r, mask, fmt⟩ } h
  back .tret pc ∧
  ∀ w, (s.view k g p none).s.fetchWord k m pc = .ok w → back .tretSkip (pc + if isPfx w then 8#32 else 4#32)) ∧
  (∀ (s : State) (k : GKey) (g : Group) (p : Path), Issuing s k g p → (∀ q ∈ g.pend, q.raises = false) →
  (∀ r ∈ s.requests, ∀ n w op, r.asker = .posted k n → r.kind ≠ .atom op w) →
  let on := (maskLanes p.ex).filter fun L => decide (g.aflags[L] &&& g.aen[L] ≠ 0#5)
  (on = [] → ∃ t h, exec .tfence s = .next t ∧ Becomes s t k { g with cur := some { p with pc := p.pc + 4#32 } } h ∧ k ∉ t.runs) ∧
  (on ≠ [] → Traps .tfence s k g p none
    { cause := .arith, lanes := lanesMask on, next := true, detail := (on.foldl (fun f L => f ||| (g.aflags[L] &&& g.aen[L])) 0#5).toNat })) ∧
  (∀ (s : State) (k : GKey) (g : Group) (p : Path), Issuing s k g p → g.mode ≠ .user → g.quantum ≠ 1023 →
  ∃ t h, exec .halt s = .next t ∧ Becomes s t k { g with cur := some { p with pc := p.pc + 4#32 } } h ∧ k ∉ t.runs ∧
    t.agenda.head? = some ⟨.preemptionStop, { key := k, flag := true }⟩)

-- ## Global memory

/-- R211 to R213, R219, R229: a load sends the bytes that its core sees to D as interlocked results; a lane that meets an absent page receives zeros
and sets its bit of NRM with them. Memory keeps every byte, and the writes on their way there stay as they are, but for those that a lane has seen
through a page whose accesses are performed at the home (R219, R225). -/
def Obligations.LoadsReturnMemory : Prop :=
  ∀ (s : State) (k : GKey) (g : Group) (p : Path), Issuing s k g p → Unheld s g → ∀ (x : Pfx) (d a : Reg) (sc : BitVec 3) (z pol : BitVec 2),
  let n := accessBytes x z
  Ready s k g p (accessRegs d.toNat a.toNat n) (pairRegs a.toNat) →
  let met := s.finds k g a.toNat (offset64 x) n .read
  (∀ L : Fin 32, p.ex.getLsbD L = true → ∀ c e, met L ≠ .bad c e) →
  let bytes := fun (L : Fin 32) => match p.ex.getLsbD L, met L with
    | true, .ok f => s.loadBytes (s.coreOf k) f n
    | _, _ => List.replicate n 0#8
  let absent := lanesMask ((maskLanes p.ex).filter fun L => match met L with
    | .absent _ => true
    | _ => false)
  ∃ t h, exec (.ld x d a sc z pol) s = .next t ∧ (∀ pa, t.newest pa = s.newest pa) ∧ t.lineKeys = s.lineKeys ∧
    ((∀ L : Fin 32, p.ex.getLsbD L = true → ∀ f, met L = .ok f → f.atHome = false) → t.mem = s.mem ∧ t.writes = s.writes) ∧
    Accesses s t k g h p x ((List.range ((n + 3) / 4)).map fun i =>
      { reg := g.wbasev + (d.toNat + i), mask := p.ex, vals := lanesOf fun L => loadedWord (bytes L) i
        absent := if i = 0 then absent else 0#32, left := none })

/-- R216, R219, R229: a store writes the low bytes of each active lane's registers at the lane's address, the highest lane's where lanes name the
same bytes; every other byte of memory keeps its newest value. -/
def Obligations.StoresWriteMemory : Prop :=
  ∀ (s : State) (k : GKey) (g : Group) (p : Path), Issuing s k g p → Unheld s g → ∀ (x : Pfx) (d a : Reg) (sc : BitVec 3) (z pol : BitVec 2),
  let n := accessBytes x z
  Ready s k g p (accessRegs d.toNat a.toNat n) (accessRegs d.toNat a.toNat n) →
  ∀ F : Fin 32 → Frame, s.framed k g p a.toNat (offset64 x) n .write F →
  ∃ t h, exec (.st x d a sc z pol) s = .next t ∧
    Accesses s t k g h p x [] ∧
    (∀ L : Fin 32, p.ex.getLsbD L = true → lastLane p.ex F L = true → ∀ i < n,
      t.newest ((F L).pa + i) = ((g.seen (d.toNat + i / 4) L).extractLsb' (8 * (i % 4)) 8)) ∧
    ∀ pa, (∀ L : Fin 32, p.ex.getLsbD L = true → pa < (F L).pa ∨ (F L).pa + n ≤ pa) → t.newest pa = s.newest pa

/-- R216, R219, R230 to R232: an atomic makes one operation per active lane in ascending lane order, each on the newest bytes; D receives the old
values unless the form returns none, and AFADD's flags come with them. `old` and `new` are the values before and after each lane's operation. -/
def Obligations.AtomicsReadModifyWrite : Prop :=
  ∀ (s : State) (k : GKey) (g : Group) (p : Path), Issuing s k g p → Unheld s g → ∀ (x : Pfx) (d a : Reg) (sc : BitVec 3) (b : BitVec 4),
  let ret := !noReturn x
  ∀ y ∈ g.atomics x d a sc b,
  let w := y.2.1
  let n := if w then 8 else 4
  let dreg := wordOrPair w d.toNat
  Ready s k g p (pairRegs a.toNat ++ wordOrPair w b.toNat ++ if ret || y.2.2.1 then dreg else [])
    (pairRegs a.toNat ++ wordOrPair w b.toNat ++ if y.2.2.1 then dreg else []) →
  ∀ F : Fin 32 → Frame, s.framed k g p a.toNat (offset64 x) n .both F →
  ∃ old new : Fin 32 → DWord,
    Chain p.ex n (laneBefore p.ex F) (fun L => BitVec.ofNat 64 (ofBytes (s.newestRead (F L).pa n))) y.2.2.2.1 old new ∧
    ∃ t h, exec y.1 s = .next t ∧ Accesses s t k g h p x (g.atomSends d.toNat w ret p.ex old y.2.2.2.2) ∧
      (∀ L : Fin 32, p.ex.getLsbD L = true → lastLane p.ex F L = true → ∀ i < n, t.newest ((F L).pa + i) = (new L).extractLsb' (8 * i) 8) ∧
      ∀ pa, (∀ L : Fin 32, p.ex.getLsbD L = true → pa < (F L).pa ∨ (F L).pa + n ≤ pa) → t.newest pa = s.newest pa

/-- R212, R328 to R330: where the accesses of some active lanes of a load, a store or an atomic fail, the other lanes' take effect, those of an atomic
one after the other with their old values returned, and the group traps in all the lanes that fail, with the cause of the earliest check and with
the address of the lowest lane that has this cause; the trap is taken from the state that the other lanes' effects leave, in which nothing else has
changed. R330: where the trap would split the path and the stack is full, it
is RS_OVERFLOW, with no effect. -/
def Obligations.FailedAccessesTrap : Prop :=
  ∀ (s : State) (k : GKey) (g : Group) (p : Path), Issuing s k g p → Unheld s g → ∀ (x : Pfx) (d a : Reg) (sc : BitVec 3) (z pol : BitVec 2) (b : BitVec 4),
  let n := accessBytes x z
  let atRegs := fun (w dToo : Bool) => pairRegs a.toNat ++ wordOrPair w b.toNat ++ if dToo then wordOrPair w d.toNat else []
  ∀ y ∈ ([(.ld x d a sc z pol, .read, n, accessRegs d.toNat a.toNat n, pairRegs a.toNat),
    (.st x d a sc z pol, .write, n, accessRegs d.toNat a.toNat n, accessRegs d.toNat a.toNat n)] :
      List (Instr × Need × Nat × List Nat × List Nat)) ++ (g.atomics x d a sc b).map fun q =>
    (q.1, .both, (if q.2.1 then 8 else 4), atRegs q.2.1 (!noReturn x || q.2.2.1), atRegs q.2.1 q.2.2.1),
  Ready s k g p y.2.2.2.1 y.2.2.2.2 →
  let met := s.finds k g a.toNat (offset64 x) y.2.2.1 y.2.1
  ∀ (L0 : Fin 32) (c0 : Nat) (e0 : Cause), p.ex.getLsbD L0 = true → met L0 = .bad c0 e0 →
  (∀ L : Fin 32, p.ex.getLsbD L = true → ∀ c e, met L = .bad c e → c0 ≤ c ∧ (c = c0 → e = e0) ∧ (e = e0 → L0.val ≤ L.val)) →
  let bad := lanesMask ((maskLanes p.ex).filter fun L => match met L with
    | .bad _ _ => true
    | _ => false)
  let npc := p.pc + BitVec.ofNat 32 (pfxLen x)
  let stores := fun (L : Fin 32) (pa : Nat) => y.2.1 ≠ .read ∧ p.ex.getLsbD L = true ∧ ∃ f, met L = .ok f ∧ f.pa ≤ pa ∧ pa < f.pa + y.2.2.1
  (bad ≠ p.ex → 24 ≤ g.used → Traps y.1 s k g p x { cause := .rsOverflow, lanes := p.ex }) ∧
  (bad = p.ex ∨ g.used < 24 → (∀ L : Fin 32, p.ex.getLsbD L = true → ∀ f, met L = .ok f → s.wrongKey f.pa f.key = false) →
    (∀ L M : Fin 32, p.ex.getLsbD L = true → p.ex.getLsbD M = true → ∀ f q, met L = .ok f → met M = .ok q → f.key = q.key) →
    ∃ (s2 : State) (h : Group) (new : List PendWrite), exec y.1 s = .next ((s2.trap k p npc
        { cause := e0, lanes := bad, split := true, addr := g.seen2 a.toNat L0 + offset64 x }).stepped k g true) ∧
      s2.beside = s.beside ∧ s.cycle + 1 + s.slotW.toNat ≤ s2.cycle ∧
      kfind s2.groups k = some h ∧ (∀ j, j ≠ k → kfind s2.groups j = kfind s.groups j) ∧
      h.rest = g.rest ∧ h.cur = some p ∧ h.regs = g.regs ∧ h.aflags = g.aflags ∧
      h.pend = g.pend ++ new ∧ (∀ q ∈ new, q.mask &&& bad = 0#32) ∧
      (y.1 = .ld x d a sc z pol → new = (List.range ((n + 3) / 4)).map fun i =>
        { reg := g.wbasev + (d.toNat + i), mask := p.ex &&& ~~~bad
          vals := lanesOf fun L => loadedWord (match p.ex.getLsbD L, met L with
            | true, .ok f => s.loadBytes (s.coreOf k) f n
            | _, _ => List.replicate n 0#8) i
          absent := if i = 0 then lanesMask ((maskLanes p.ex).filter fun L => match met L with
            | .absent _ => true
            | _ => false) else 0#32
          left := none }) ∧
      (y.1 = .st x d a sc z pol → new = [] ∧ ∀ (L : Fin 32) (f : Frame), p.ex.getLsbD L = true → met L = .ok f →
        (∀ M : Fin 32, L.val < M.val → p.ex.getLsbD M = true → ∀ q, met M = .ok q → q.pa ≠ f.pa) →
        ∀ i < n, s2.newest (f.pa + i) = ((g.seen (d.toNat + i / 4) L).extractLsb' (8 * (i % 4)) 8)) ∧
      (∀ q ∈ g.atomics x d a sc b, y.1 = q.1 → let m := p.ex &&& ~~~bad
        ∀ F : Fin 32 → Frame, (∀ L : Fin 32, m.getLsbD L = true → met L = .ok (F L)) → ∃ old post : Fin 32 → DWord,
          Chain m y.2.2.1 (laneBefore m F) (fun L => BitVec.ofNat 64 (ofBytes (s.newestRead (F L).pa y.2.2.1))) q.2.2.2.1 old post ∧
          new = g.atomSends d.toNat q.2.1 (!noReturn x) m old q.2.2.2.2 ∧
          ∀ L : Fin 32, m.getLsbD L = true → lastLane m F L = true → ∀ i < y.2.2.1,
            s2.newest ((F L).pa + i) = (post L).extractLsb' (8 * i) 8) ∧
      (∀ pa, (∀ L : Fin 32, ¬ stores L pa) → s2.newest pa = s.newest pa) ∧
      (bad = p.ex → s2.mem = s.mem ∧ s2.writes = s.writes))

/-- R223, R233: a fence of every kind completes at once. R315: at .fab, where a posted failure of an earlier instruction is unreported, every fence
reports the first one instead, by a trap with cause FABRIC, that failure's lanes that are still live, its PC, its offset as the fault address and its
reason as the detail; so do RLD, RATOM and COLL START, once every posted response has come. R222, R233, R241, R243: where nothing delays a releasing
fence, what its core sees becomes visible within the scope, and at home from package scope on, and no byte changes; while a directory is being
rebuilt, or a posted response lacks at .fab, the fence stands with its group, and holds the memory instructions of R233's table. R220, R316: a fence
at .fab that acquires holds them while a posted atomic lacks a response. R201, R233: after FENCE.ASYNC the group's writes before it are no longer its
own alone for an asynchronous operation. R234: TOUCH writes each lane's status (0 resident, 1 absent, 2 invalid, 3
refused) at once, and asks for every absent page once; memory stays as it is. That a walk
through a poisoned entry gives status 2 is the model's choice (log 32). -/
def Obligations.FencesAndTouch : Prop :=
  (∀ (s : State) (k : GKey) (g : Group) (p : Path), Issuing s k g p → ∀ sc : BitVec 3, (sc = 7#3 → g.pfail = []) →
  let on : Group := { g with cur := some { p with pc := p.pc + 4#32 } }
  let reads := g.posted.any (·.reads)
  (sc ≠ 7#3 ∨ reads = false → ∃ t h, exec (.fenceAcq sc) s = .next t ∧ Becomes s t k on h) ∧
  (sc = 7#3 → reads = true → ∃ t h, exec (.fenceAcq sc) s = .next t ∧ Becomes s t k { on with fences := g.fences ++ [⟨0, 7⟩] } h) ∧
  ∀ y ∈ ([(.fenceRel sc, 1), (.fenceAcqrel sc, 2), (.fenceSc sc, 3), (.fenceAsync sc, 4)] : List (Instr × Nat)),
  (s.fenceReady (s.coreOf k) g ⟨y.2, sc.toNat⟩ = true →
    ∃ t h, exec y.1 s = .next t ∧ Accesses s t k g h p none [] ∧ (∀ pa, t.newest pa = s.newest pa) ∧
      ∀ w ∈ t.writes, w.seenBy (s.coreOf k) = true → max 1 sc.toNat ≤ w.reach ∧ sc.toNat < 6) ∧
  (s.fenceReady (s.coreOf k) g ⟨y.2, sc.toNat⟩ = false →
    ∃ t h, exec y.1 s = .next t ∧ Becomes (if y.2 = 4 then s.forget (· = k) else s) t k { on with fences := g.fences ++ [⟨y.2, sc.toNat⟩] } h)) ∧
  (∀ (s : State) (k : GKey) (g : Group) (p : Path), Issuing s k g p → ∀ f ∈ g.fences, s.fenceReady (s.coreOf k) g f = false →
  ∀ (x : Pfx) (d a : Reg) (sc : BitVec 3) (z pol : BitVec 2),
  let rs := accessRegs d.toNat a.toNat (accessBytes x z)
  (f.kind = 3 → Ready s k g p rs (pairRegs a.toNat) → exec (.ld x d a sc z pol) s = .next (s.holdIssue k [])) ∧
  (f.kind = 1 ∨ f.kind = 2 ∨ f.kind = 3 → Ready s k g p rs rs → exec (.st x d a sc z pol) s = .next (s.holdIssue k []))) ∧
  (∀ (s : State) (k : GKey) (g : Group) (p : Path), Issuing s k g p → ∀ f ∈ g.fences, (f.kind = 0 ∨ f.kind = 2) → f.scope = 7 →
  ∀ q ∈ g.posted, q.reads = true → ∀ (x : Pfx) (d a : Reg) (sc : BitVec 3) (z pol : BitVec 2),
  let rs := accessRegs d.toNat a.toNat (accessBytes x z)
  (Ready s k g p rs (pairRegs a.toNat) → exec (.ld x d a sc z pol) s = .next (s.holdIssue k [])) ∧
  (Ready s k g p rs rs → exec (.st x d a sc z pol) s = .next (s.holdIssue k []))) ∧
  (∀ (s : State) (k : GKey) (g : Group) (p : Path), Issuing s k g p → ∀ (f : PFail) (rest : List PFail), g.pfail = f :: rest →
  let reports := fun (x : Pfx) (i : Instr) =>
    let v := s.view k g p x
    ∃ n, 1 ≤ n ∧ exec i s = .next ((((v.s.modGroup k fun g => { g with pfail := rest }).spend n).trap k p v.npc
    { cause := .fabric, lanes := f.lanes &&& g.live, addr := f.offset, detail := f.reason.toNat, tpc := some f.pc }).stepped k g true)
  (∀ i ∈ [Instr.fenceAcq 7#3, .fenceRel 7#3, .fenceAcqrel 7#3, .fenceSc 7#3, .fenceAsync 7#3], reports none i) ∧
  (g.posted = [] → ∀ (x : Pfx) (d a b : Reg),
    let src := b.toNat :: pairRegs a.toNat
    let atom := b.toNat :: (pairRegs a.toNat ++ ratomSources x d.toNat)
    (Ready s k g p (d.toNat :: src) src → reports none (.rld d a b)) ∧
    (ratomNoReturn x = false → Ready s k g p atom atom → reports x (.ratom x d a b)) ∧
    (Ready s k g p (d.toNat :: pairRegs a.toNat) (pairRegs a.toNat) → reports none (.collStart d a)))) ∧
  (∀ (s : State) (k : GKey) (g : Group) (p : Path), Issuing s k g p → ∀ (x : Pfx) (d a : Reg),
  Ready s k g p (d.toNat :: pairRegs a.toNat) (pairRegs a.toNat) →
  ∃ t h, exec (.touch x d a) s = .next t ∧ OnlyRegs s t k g h [g.wbasev + d.toNat] ∧ h.aflags = g.aflags ∧
    GoesOn h p (p.pc + BitVec.ofNat 32 (pfxLen x)) ∧
    (Writes g h p.ex (g.wbasev + d.toNat) fun L =>
      let va := (g.seen2 a.toNat L + offset64 x).toNat
      if 2 ^ 57 ≤ va then 2#32 else match s.translate (s.coreOf k) ((s.team k.tkey).space g.mode) va .read with
        | .ok _ => 0#32
        | .absent _ => 1#32
        | .bad _ .pagePerm => 3#32
        | .bad _ .key => 3#32
        | .bad _ _ => 2#32) ∧
    ∀ (L : Fin 32) (lvl : Nat), p.ex.getLsbD L = true → (g.seen2 a.toNat L + offset64 x).toNat < 2 ^ 57 →
      s.translate (s.coreOf k) ((s.team k.tkey).space g.mode) (g.seen2 a.toNat L + offset64 x).toNat .read = .absent lvl →
      ∃ due ∈ t.agenda, due.op = .residencyRequest ∧ due.arg.m = lvl ∧
        due.arg.n = (g.seen2 a.toNat L + offset64 x).toNat / 2 ^ levelShift lvl * 2 ^ levelShift lvl)

-- ## Near memory

/-- R141, R145, R151: LDN sends the bytes at each active lane's near address to D; STN writes the low bytes of each lane's registers there, the
highest lane's where lanes name the same place, and every other byte of near memory stays as it is. R146: a store that overwrites a protected unit
in error as a whole ends the error. R150, R330: where some active lanes' addresses are misaligned or lead nowhere, or meet an error, the others take
effect, those of an atomic one after the other with their old values returned, and the group traps in the lanes that fail, with ALIGN before
NEAR_RANGE and that before POISON, and the address of the lowest lane with that cause; where the trap would split the path and the stack is full, it is
RS_OVERFLOW, with no effect. -/
def Obligations.NearLoadsAndStores : Prop :=
  (∀ (s : State) (k : GKey) (g : Group) (p : Path), Issuing s k g p → g.fences = [] → ∀ (x : Pfx) (d a : Reg) (z : BitVec 2),
  let n := accessBytes x z
  ∀ F : Fin 32 → NearAt, s.placed k g p a.toNat (offset32 x) n F →
  (Ready s k g p (a.toNat :: dataRegs d.toNat n) [a.toNat] →
    ∃ t h, exec (.ldn x d a z) s = .next t ∧ Becomes s t k (g.onWith p x ((List.range ((n + 3) / 4)).map fun i =>
      { reg := g.wbasev + (d.toNat + i), mask := p.ex
        vals := lanesOf fun L => loadedWord (if p.ex.getLsbD L then s.nearRead (F L) n else []) i, left := none })) h) ∧
  (Ready s k g p (a.toNat :: dataRegs d.toNat n) (a.toNat :: dataRegs d.toNat n) →
    ∃ t h, exec (.stn x d a z) s = .next t ∧ NearOnly s t k g h p x [] ∧
      (∀ L : Fin 32, p.ex.getLsbD L = true → lastPlace p.ex F L = true → ∀ i < n,
        t.nearByte ((F L).plus i) = (g.seen (d.toNat + i / 4) L).extractLsb' (8 * (i % 4)) 8) ∧
      ∀ y : NearAt, s.hasPlace y = true → (∀ L : Fin 32, p.ex.getLsbD L = true → ∀ i < n, (F L).plus i ≠ y) → t.nearByte y = s.nearByte y)) ∧
  ∀ (s : State) (k : GKey) (g : Group) (p : Path), Issuing s k g p → g.fences = [] → ∀ (x : Pfx) (d a b' : Reg) (b : BitVec 4) (z : BitVec 2),
  let n := accessBytes x z
  ∀ y ∈ ([(.ldn x d a z, n, offset32 x, x, a.toNat :: dataRegs d.toNat n, [a.toNat]),
    (.stn x d a z, n, offset32 x, x, a.toNat :: dataRegs d.toNat n, a.toNat :: dataRegs d.toNat n)] :
      List (Instr × Nat × Word × Pfx × List Nat × List Nat)) ++ (g.nearAtomics x d a b' b).map fun q =>
    (q.1, (if q.2.2.1 then 8 else 4), offset32 q.2.1, q.2.1,
      a.toNat :: (q.2.2.2.2.1 ++ if q.2.2.2.1 then wordOrPair q.2.2.1 d.toNat else []), a.toNat :: q.2.2.2.2.1),
  let n := y.2.1
  let px := y.2.2.2.1
  let va := fun (L : Fin 32) => g.seen a.toNat L + y.2.2.1
  Ready s k g p y.2.2.2.2.1 y.2.2.2.2.2 → ∀ (F : Fin 32 → Option NearAt) (err : Fin 32 → Bool),
  (∀ L : Fin 32, p.ex.getLsbD L = true → F L = if (va L).toNat % n = 0 then s.nearDecode k.tkey g.mode (va L).toNat n else none) →
  let kept := fun (q : NearAt) (u : Nat) => ∃ e ∈ q.unitBytes u, ∀ M : Fin 32, p.ex.getLsbD M = true → ∀ r, F M = some r → ∀ i < n, r.plus i ≠ e
  (∀ L : Fin 32, p.ex.getLsbD L = true → ∀ q, F L = some q → s.hasPlace q = true ∧ (err L = false → s.nearStalled q = false) ∧
    (err L = true ↔ ∃ u ∈ q.units n, s.nearBad q u = true ∧ (y.1 = .stn x d a z → kept q u))) →
  let rank := fun (L : Fin 32) => if (va L).toNat % n ≠ 0 then 1 else if F L = none then 2 else 3
  let bad := (maskLanes p.ex).filter fun L => (F L).isNone || err L
  let m := p.ex &&& ~~~lanesMask bad
  let does := fun (s2 : State) (new : List PendWrite) =>
    (y.1 = .ldn x d a z → new = (List.range ((n + 3) / 4)).map fun i =>
      { reg := g.wbasev + (d.toNat + i), mask := m
        vals := lanesOf fun L => loadedWord (match m.getLsbD L, F L with
          | true, some q => s.nearRead q n
          | _, _ => []) i
        left := none }) ∧
    (y.1 = .stn x d a z → new = [] ∧ ∀ (L : Fin 32) (q : NearAt), m.getLsbD L = true → F L = some q →
      (∀ u ∈ q.units n, s2.nearBad q u = false) ∧
      ((∀ M : Fin 32, L.val < M.val → m.getLsbD M = true → F M ≠ some q) →
        ∀ i < n, s2.nearByte (q.plus i) = (g.seen (d.toNat + i / 4) L).extractLsb' (8 * (i % 4)) 8)) ∧
    (∀ q ∈ g.nearAtomics x d a b' b, y.1 = q.1 → ∀ G : Fin 32 → NearAt, (∀ L : Fin 32, m.getLsbD L = true → F L = some (G L)) →
      ∃ old post : Fin 32 → DWord,
        Chain m n (placeBefore m G) (fun L => BitVec.ofNat 64 (ofBytes (s.nearRead (G L) n))) q.2.2.2.2.2 old post ∧
        new = (if q.2.2.2.1 then g.returns d.toNat q.2.2.1 m old (uniformLanes 0#5) else []) ∧
        ∀ L : Fin 32, m.getLsbD L = true → lastPlace m G L = true → ∀ i < n, s2.nearByte ((G L).plus i) = (post L).extractLsb' (8 * i) 8) ∧
    (∀ q : NearAt, s.hasPlace q = true → (y.1 = .ldn x d a z ∨ ∀ (L : Fin 32) (r : NearAt), m.getLsbD L = true → F L = some r → ∀ i < n, r.plus i ≠ q) →
      s2.nearByte q = s.nearByte q) ∧
    s2.mem = s.mem ∧ s2.writes = s.writes ∧ (∀ j, j ≠ k → kfind s2.groups j = kfind s.groups j) ∧
    (∀ u, (kfind s2.teams u).map (fun x => { x with spad := [], spadBad := [] }) = (kfind s.teams u).map fun x => { x with spad := [], spadBad := [] }) ∧
    ∀ c, { s2.core c with column := [], colBad := [] } = { s.core c with column := [], colBad := [] }
  (bad = [] → y.1 = .stn x d a z → ∃ t h, exec y.1 s = .next t ∧ does t [] ∧ kfind t.groups k = some h ∧ h.rest = g.rest ∧
    GoesOn h p (p.pc + BitVec.ofNat 32 (pfxLen px)) ∧ h.regs = g.regs ∧ h.aflags = g.aflags ∧ h.pend = g.pend.map fun q => q.aged (1 + s.slotW.toNat)) ∧
  ∀ L0 ∈ bad, (∀ L ∈ bad, rank L0 ≤ rank L ∧ (rank L = rank L0 → L0.val ≤ L.val)) →
  (lanesMask bad ≠ p.ex → 24 ≤ g.used → Traps y.1 s k g p px { cause := .rsOverflow, lanes := p.ex }) ∧
  (lanesMask bad = p.ex ∨ g.used < 24 → ∃ (s2 : State) (h : Group) (new : List PendWrite),
    exec y.1 s = .next ((s2.trap k p (p.pc + BitVec.ofNat 32 (pfxLen px))
      { cause := if rank L0 = 1 then .align else if rank L0 = 2 then .nearRange else .poison
        lanes := lanesMask bad, split := true, addr := (va L0).setWidth 64, detail := 1 }).stepped k g true) ∧
    s.cycle + 1 + s.slotW.toNat ≤ s2.cycle ∧ does s2 new ∧ kfind s2.groups k = some h ∧
    h.rest = g.rest ∧ h.cur = some p ∧ h.regs = g.regs ∧ h.aflags = g.aflags ∧ h.pend = g.pend ++ new)

/-- R145, R152, R153: a near atomic makes one operation per active lane in ascending lane order; D receives the old values unless the form returns
none. `old` and `new` are the values before and after each lane's operation. -/
def Obligations.NearAtomicsReadModifyWrite : Prop :=
  ∀ (s : State) (k : GKey) (g : Group) (p : Path), Issuing s k g p → g.fences = [] → ∀ (x : Pfx) (d a b' : Reg) (b : BitVec 4),
  ∀ y ∈ g.nearAtomics x d a b' b,
  let w := y.2.2.1
  let ret := y.2.2.2.1
  let src := y.2.2.2.2.1
  let n := if w then 8 else 4
  Ready s k g p (a.toNat :: (src ++ if ret then wordOrPair w d.toNat else [])) (a.toNat :: src) →
  ∀ F : Fin 32 → NearAt, s.placed k g p a.toNat (offset32 y.2.1) n F →
  ∃ old new : Fin 32 → DWord,
    Chain p.ex n (placeBefore p.ex F) (fun L => BitVec.ofNat 64 (ofBytes (s.nearRead (F L) n))) y.2.2.2.2.2 old new ∧
    ∃ t h, exec y.1 s = .next t ∧ NearOnly s t k g h p y.2.1 (if ret then g.returns d.toNat w p.ex old (uniformLanes 0#5) else []) ∧
      (∀ L : Fin 32, p.ex.getLsbD L = true → lastPlace p.ex F L = true → ∀ i < n,
        t.nearByte ((F L).plus i) = (new L).extractLsb' (8 * i) 8) ∧
      ∀ z : NearAt, s.hasPlace z = true → (∀ L : Fin 32, p.ex.getLsbD L = true → ∀ i < n, (F L).plus i ≠ z) → t.nearByte z = s.nearByte z

/-- R154, R155: RROT issues the team's next step; the step starts by reading every rank's source once all have issued it, and completes by writing
as many bytes of each rank as both have to the next rank's destination and its status to every rank, and every other byte of a scratchpad stays; a
rank that ended before makes the status 2, and no scratchpad changes. -/
def Obligations.RingStepsMoveBytes : Prop :=
  (∀ (s : State) (k : GKey) (g : Group) (p : Path), Issuing s k g p → ∀ d a b : Reg,
    Ready s k g p (d.toNat :: b.toNat :: pairRegs a.toNat) (b.toNat :: pairRegs a.toNat) → (∀ f ∈ g.fences, f.kind ≠ 4) →
    ∀ x : Team, kfind s.teams k.tkey = some x →
    let src := (g.seen a.toNat (lowestLane p.ex)).toNat
    let dst := (g.seen (a.toNat + 1) (lowestLane p.ex)).toNat
    let len := (g.seen b.toNat (lowestLane p.ex)).toNat
    src % 128 = 0 → dst % 128 = 0 → len % 128 = 0 → 0 < len → len ≤ 65536 → src < 2 ^ 31 → dst < 2 ^ 31 →
    src + len ≤ 1024 * x.spRows → dst + len ≤ 1024 * x.spRows →
    ∃ t h, exec (.rrot d a b) s = .next t ∧
      Becomes { s with
          fresh := s.fresh + 1
          rings := s.rings ++ [{ team := k.tkey, step := x.ringN, src := src, dst := dst, len := len, key := k, token := s.fresh, sent := none }]
          teams := kput s.teams k.tkey { x with ringN := x.ringN + 1#32 } } t k
        (g.onWith p none
          [{ reg := g.wbasev + d.toNat, mask := p.ex, vals := uniformLanes 0#32, left := none, await := some (s.fresh, p.ex) }]) h) ∧
  (∀ s : State,
    (∀ u ∈ s.clusterTeams s.ev.key.tkey, s.isResident u = true ∧ ∃ r ∈ s.rings, r.team = u ∧ r.step.toNat = s.ev.n) →
    ∃ t, exec .ringStepStart s = .next t ∧ { t with rings := [] } = { s with rings := [] } ∧
      ∀ r ∈ s.rings, r.team ∈ s.clusterTeams s.ev.key.tkey → r.step.toNat = s.ev.n → r.sent = none →
        ∃ bad, { r with sent := some (s.nearRead (.spad r.team r.src) r.len, bad) } ∈ t.rings) ∧
  let answered := fun (s t : State) (r : RingStep) (code : Word) =>
    r ∉ t.rings ∧ ∀ g h, kfind s.groups r.key = some g → kfind t.groups r.key = some h → ∀ q ∈ g.pend, ∀ m,
      q.await = some (r.token, m) → { q with vals := uniformLanes code, await := none } ∈ h.pend
  (∀ (s : State) (rs : List RingStep), rs ≠ [] → s.ringSteps s.ev.key.tkey s.ev.n = rs.map some →
    (∀ r ∈ rs, r.sent.isSome = true) → (∀ u ∈ s.clusterTeams s.ev.key.tkey, s.isResident u = true) → s.rebuild = [] →
    ∃ t, exec .ringStepComplete s = .next t ∧
      (∀ r ∈ rs, answered s t r (if ∀ q ∈ rs, q.len = r.len then 0#32 else 1#32)) ∧
      ∀ i r q bs bad, rs[i]? = some r → rs[(i + 1) % rs.length]? = some q → r.sent = some (bs, bad) → bs.length = r.len →
        ∀ x y, kfind t.teams q.team = some x → kfind s.teams q.team = some y →
          (∀ j < min r.len q.len, cellGet x.spad (q.dst + j) = bs.getD j 0#8) ∧
          ∀ j, (j < q.dst ∨ q.dst + min r.len q.len ≤ j) → cellGet x.spad j = cellGet y.spad j) ∧
  ∀ s : State, (∃ u ∈ s.clusterTeams s.ev.key.tkey, s.isResident u = false ∧ s.hasEnded u = true ∧
      ((kfind (s.grid u.slot).ringEnd u.team).getD 0#32).toNat ≤ s.ev.n) →
    (∀ u r, s.rings.find? (fun r => r.team = u && r.step.toNat = s.ev.n) = some r → u ∈ s.clusterTeams s.ev.key.tkey → s.isResident u = true) →
    ∃ t, exec .ringStepComplete s = .next t ∧ (∀ u x y, kfind t.teams u = some x → kfind s.teams u = some y → x.spad = y.spad) ∧
      ∀ r, some r ∈ s.ringSteps s.ev.key.tkey s.ev.n → answered s t r 2#32

-- ## The beam

/-- R156 to R161: with the beam held, VPUT sends an entry for a credit, VGET claims the oldest entry of the partition's FIFO, TWX reads and writes
slots of the window; the forms without waiting give a status, and the others wait; without the beam each raises NEAR_RANGE. What crosses the beam, and
so waits for the end of a realignment, is log 37's reading of R163: a VPUT, and a TWX of the upper deck; a VGET and a TWX of the lower deck go
on. -/
def Obligations.BeamTransfers : Prop :=
  ∀ (s : State) (k : GKey) (g : Group) (p : Path), Issuing s k g p → g.fences = [] → ∀ (d a : Reg) (n : BitVec 3),
  let c := s.coreOf k
  let q := partOf k
  let sent := (s.modPart c q fun x => { x with credits := x.credits - 1 }).modPart (twinOf c) q fun x =>
    { x with transit := x.transit ++ [lanesOf fun L => if p.ex.getLsbD L then g.seen a.toNat L else 0#32] }
  let got := fun rest => (s.modPart c q fun x => { x with fifo := rest }).modPart (twinOf c) q fun x => { x with returning := x.returning + 1 }
  let status := fun (t : State) (h : Group) (r : Reg) (x : Word) => h.aflags = g.aflags ∧ GoesOn h p (p.pc + 4#32) ∧
    Writes g h p.ex (g.wbasev + r.toNat) (fun _ => x)
  let gone := s.noHolder c = true ∨ s.twinGated c = true
  let full := (s.part c q).credits = 0
  let open_ := s.realigning c = false
  let image := fun (x : Pair) => lanesOf fun L : Fin 32 => if p.ex.getLsbD L then g.seen a.toNat L else (x.slot (8 * q + n.toNat))[L]
  let away := isUpper c = true ∧ s.realigning c = true
  let waits := fun (i : Instr) => exec i s = .next (s.holdIssue k [])
  ((s.record k.tkey).beam = true →
    (Ready s k g p [a.toNat] [a.toNat] → (gone ∨ full ∨ ¬ open_ → waits (.vput a)) ∧ (¬ gone → ¬ full → open_ →
      ∃ t h, exec (.vput a) s = .next t ∧ Becomes sent t k (g.onWith p none []) h)) ∧
    (Ready s k g p [d.toNat, a.toNat] [a.toNat] →
      (¬ gone → ¬ full → open_ → ∃ t h, exec (.vputNb d a) s = .next t ∧ OnlyRegs sent t k g h [g.wbasev + d.toNat] ∧ status t h d 0#32) ∧
      (¬ gone → ¬ full → ¬ open_ → waits (.vputNb d a)) ∧
      (gone ∨ full → ∃ t h, exec (.vputNb d a) s = .next t ∧ OnlyRegs s t k g h [g.wbasev + d.toNat] ∧
        status t h d (if s.noHolder c = true then 3#32 else if s.twinGated c = true then 2#32 else 1#32))) ∧
    (Ready s k g p [d.toNat] [] → ((s.part c q).fifo = [] → waits (.vget d)) ∧ ∀ e rest, (s.part c q).fifo = e :: rest →
      ∃ t h, exec (.vget d) s = .next t ∧
        Becomes (got rest) t k (g.onWith p none [{ reg := g.wbasev + d.toNat, mask := p.ex, vals := e, left := none }]) h) ∧
    (Ready s k g p [d.toNat, a.toNat] [] →
      (∀ e rest, (s.part c q).fifo = e :: rest → a ≠ d →
        ∃ t h, exec (.vgetNb d a) s = .next t ∧ OnlyRegs (got rest) t k g h [g.wbasev + d.toNat, g.wbasev + a.toNat] ∧ status t h a 0#32 ∧
          Sends h p.ex (g.wbasev + d.toNat) none (fun L => e[L]) fun _ => 0#5) ∧
      (∀ e rest, (s.part c q).fifo = e :: rest → a = d →
        ∃ t h, exec (.vgetNb d a) s = .next t ∧ OnlyRegs (got rest) t k g h [g.wbasev + d.toNat] ∧ h.aflags = g.aflags ∧ GoesOn h p (p.pc + 4#32) ∧
          Sends h p.ex (g.wbasev + d.toNat) none (fun L => e[L]) fun _ => 0#5) ∧
      ((s.part c q).fifo = [] → ∃ t h, exec (.vgetNb d a) s = .next t ∧ OnlyRegs s t k g h [g.wbasev + a.toNat] ∧ status t h a 1#32)) ∧
    (away → (Ready s k g p [a.toNat] [a.toNat] → waits (.twxWr a n)) ∧ (Ready s k g p [d.toNat] [] → waits (.twxRd d n))) ∧
    (Ready s k g p [a.toNat] [a.toNat] → ¬ away →
      ∃ t h, exec (.twxWr a n) s = .next t ∧ Becomes (s.modPair c fun x => { x with window := kput x.window (8 * q + n.toNat) (image x) }) t k
        (g.onWith p none []) h) ∧
    (Ready s k g p [d.toNat] [] → ¬ away →
      ∃ t h, exec (.twxRd d n) s = .next t ∧ OnlyRegs s t k g h [g.wbasev + d.toNat] ∧ h.aflags = g.aflags ∧ GoesOn h p (p.pc + 4#32) ∧
        Writes g h p.ex (g.wbasev + d.toNat) fun L => ((s.pair c).slot (8 * q + n.toNat))[L])) ∧
  ((s.record k.tkey).beam = false → ∀ y ∈ ([(.vput a, [a.toNat], [a.toNat]), (.vputNb d a, [d.toNat, a.toNat], [a.toNat]), (.vget d, [d.toNat], []),
      (.vgetNb d a, [d.toNat, a.toNat], []), (.twxWr a n, [a.toNat], [a.toNat]), (.twxRd d n, [d.toNat], [])] :
      List (Instr × List Nat × List Nat)), Ready s k g p y.2.1 y.2.2 →
    Traps y.1 s k g p none { cause := .nearRange, lanes := p.ex })

/-- R148, R156, R159, R160, R162, R163: the steps of the beam and of the column region: entries land or give back their credit, credits return,
realignments are due, start and complete, decks are gated and ungated, and refresh windows and rates change. R359: a column-region reading of 115 °C
or more shuts the package down. -/
def Obligations.BeamSteps : Prop :=
  ∀ s : State,
  let c := s.ev.core
  let q := s.ev.part
  let d := s.ev.k
  let becomes := fun (i : Instr) (r : Realign) => ∃ t, exec i s = .next t ∧ { t with pairs := [] } = { s with pairs := [] } ∧
    t.pair c = { s.pair c with realign := r } ∧ ∀ j, j ≠ pairOf c → kfind t.pairs j = kfind s.pairs j
  let becomesC := fun (i : Instr) (x : Pair) => ∃ t, exec i s = .next t ∧ t.pair c = x ∧ (∀ j, j ≠ pairOf c → kfind t.pairs j = kfind s.pairs j) ∧
    { t with pairs := [], stalled := [] } = { s with pairs := [], stalled := [] }
  (∀ e rest, (s.part c q).transit = e :: rest → s.realigning c = false →
    ∃ t, exec .beamEntryArrival s = .next t ∧ { t with parts := [] } = { s with parts := [] } ∧
      (s.hasBeamTeam c = true ∧ (s.part c q).doomed = 0 →
        t.part c q = { s.part c q with transit := rest, fifo := (s.part c q).fifo ++ [e] } ∧
        ∀ j, j ≠ 4 * c + q → kfind t.parts j = kfind s.parts j) ∧
      (s.hasBeamTeam c = false ∨ 0 < (s.part c q).doomed →
        t.part c q = { s.part c q with transit := rest, doomed := (s.part c q).doomed - 1 } ∧
        t.part (twinOf c) q = { s.part (twinOf c) q with returning := (s.part (twinOf c) q).returning + 1 } ∧
        ∀ j, j ≠ 4 * c + q → j ≠ 4 * twinOf c + q → kfind t.parts j = kfind s.parts j)) ∧
  (∃ t, exec .beamCreditReturn s = .next t ∧ { t with parts := [] } = { s with parts := [] } ∧
    (0 < (s.part c q).returning → t.part c q =
      { s.part c q with returning := (s.part c q).returning - 1, credits := min 16 ((s.part c q).credits + 1) })) ∧
  ((s.pair c).realign = .idle → becomes .beamRealignmentDue (if s.beamBusy c = true then .deferred else .running)) ∧
    ((s.pair c).realign = .deferred → s.ev.flag = true ∨ s.beamBusy c = false → becomes .beamRealignmentStart .running) ∧
    ((s.pair c).realign = .deferred → s.ev.flag = false → s.beamBusy c = true → becomes .beamRealignmentStart .deferred) ∧
    ((s.pair c).realign = .running → becomes .beamRealignmentComplete .idle) ∧
  (d % 2 = 1 → d ∉ s.gated →
    ((∀ y ∈ s.teams, y.2.core / 256 ≠ d) → ∃ t, exec .upperDeckGate s = .next t ∧ t.gated = d :: s.gated ∧ d ∉ t.gating ∧ t.teams = s.teams ∧
      ∀ x ∈ s.saved, x.core / 256 = d → (s.record x.team).beam = true → { x with gatedOff := true } ∈ t.saved) ∧
    ((∃ y ∈ s.teams, y.2.core / 256 = d) → ∃ t, exec .upperDeckGate s = .next t ∧ t.gated = s.gated ∧ d ∈ t.gating ∧
      ∀ y ∈ s.teams, y.2.core / 256 = d → y.2.stop = false →
        ∃ due ∈ t.agenda, due.op = .preemptionStop ∧ due.arg.key.tkey = y.1 ∧ due.arg.n = 1)) ∧
  (d ∈ s.gated → ∃ t, exec .upperDeckUngate s = .next t ∧ d ∉ t.gated ∧ (∀ j ∈ s.gated, j ≠ d → j ∈ t.gated) ∧
    { t with gated := [], parts := [] } = { s with gated := [], parts := [] } ∧
    ∀ j x, kfind s.parts j = some x → kfind t.parts j = some (if twinOf (j / 4) / 256 = d then
      { x with credits := min 16 (x.credits + x.returning), returning := 0 } else x)) ∧
  becomesC .refreshWindowStart { s.pair c with refresh := true } ∧ becomesC .refreshWindowEnd { s.pair c with refresh := false } ∧
    (85 < s.ev.n → s.ev.n < 115 → becomesC .columnRefreshRateChange { s.pair c with temp := min 255 s.ev.n, doubled := true }) ∧
    (s.ev.n < 83 → becomesC .columnRefreshRateChange { s.pair c with temp := min 255 s.ev.n, doubled := false }) ∧
    (83 ≤ s.ev.n → s.ev.n ≤ 85 → becomesC .columnRefreshRateChange { s.pair c with temp := min 255 s.ev.n }) ∧
    (115 ≤ s.ev.n → ∃ t, exec .columnRefreshRateChange s = .next t ∧ t.off = true ∧
      (s.off = false → t.groups = [] ∧ t.teams = [] ∧ (t.pair c).temp = min 255 s.ev.n ∧ (t.pair c).doubled = true))

-- ## Caches, translation and coherence

/-- R260 to R262: CMAINT acts once on the line, or on both host sectors of it, of each active lane whose page is resident: WB leaves no dirty copy and
no write short of the scope, INV takes clean copies away and scrubs poisoned lines in a privileged mode, WBINV does WB and takes every copy away, and
no other byte changes; CMAINT.TLB starts a shootdown, during which its group issues nothing, and raises PRIV in user mode and for another address
space in supervisor mode, and ALIGN for a range that does not start at a page. R212, R330: where the pages of some lanes refuse CMAINT, it acts on
the lines of the others, and the group traps in the lanes that fail, as a load does. That it performs, in its step, every write that its core sees is the
model's choice (log 6): R262 waits for the group's own. -/
def Obligations.CacheMaintenance : Prop :=
  ∀ (s : State) (k : GKey) (g : Group) (p : Path), Issuing s k g p → s.rebuild = [] → ∀ (d a : Reg) (sc : BitVec 3),
  let n := if sc = 0#3 then 1 else if sc = 7#3 then 6 else sc.toNat
  let core := s.coreOf k
  let space := (s.team k.tkey).space g.mode
  let met := fun L : Fin 32 => s.translate core space (g.seen2 a.toNat L).toNat .read
  let near := fun (c : CacheLine) (f : Frame) => c.base ∈ lineBases f.pa ∧ c.cache.within n core = true
  let below := fun (c : CacheLine) => match c.cache with
    | .l1 _ => 2 ≤ n
    | .l2 _ => 3 ≤ n
  let written := fun (t : State) (f : Frame) => (∀ c ∈ t.caches, near c f → c.st ≠ .m ∧ c.st ≠ .o) ∧
    ∀ w ∈ t.writes, copyBase w.pa ∈ lineBases f.pa → scopeHas n core w.core = true → n ≤ w.reach
  let scrubs := fun (f : Frame) => g.mode ≠ .user ∧ lineOf f.pa ∈ s.poisoned
  let invalidated := fun (m : Word) (t : State) =>
    (∀ L : Fin 32, m.getLsbD L = true → ∀ f, met L = .ok f → (∀ c ∈ t.caches, near c f → below c → c.st ≠ .e ∧ c.st ≠ .s ∧ c.st ≠ .u) ∧
      (scrubs f → lineOf f.pa ∉ t.poisoned ∧ ∀ pa, lineOf pa = lineOf f.pa → t.newest pa = 0#8)) ∧
    (∀ x, (x ∈ t.poisoned ↔ x ∈ s.poisoned ∧ ∀ L : Fin 32, m.getLsbD L = true → ∀ f, met L = .ok f → scrubs f → x ≠ lineOf f.pa)) ∧
    ∀ pa, (∀ L : Fin 32, m.getLsbD L = true → ∀ f, met L = .ok f → scrubs f → lineOf pa ≠ lineOf f.pa) → t.newest pa = s.newest pa
  (Ready s k g p (pairRegs a.toNat) (pairRegs a.toNat) →
    (∀ L : Fin 32, p.ex.getLsbD L = true → (g.seen2 a.toNat L).toNat < 2 ^ 57 ∧ ∀ c e, met L ≠ .bad c e) →
    (∃ t h, exec (.cmaintWb a sc) s = .next t ∧ Accesses s t k g h p none [] ∧ (∀ pa, t.newest pa = s.newest pa) ∧
      ∀ L : Fin 32, p.ex.getLsbD L = true → ∀ f, met L = .ok f → written t f) ∧
    (∃ t h, exec (.cmaintWbinv a sc) s = .next t ∧ Accesses s t k g h p none [] ∧ (∀ pa, t.newest pa = s.newest pa) ∧
      ∀ L : Fin 32, p.ex.getLsbD L = true → ∀ f, met L = .ok f → written t f ∧ ∀ c ∈ t.caches, near c f → below c → c.st = .u) ∧
    ((∀ L : Fin 32, p.ex.getLsbD L = true → ∀ f, met L = .ok f → ∀ w ∈ s.writes, lineOf w.pa ≠ lineOf f.pa ∧
        overlaps (128 * lineOf f.pa) 128 w.pa w.bytes.length = false) →
      ∃ t h, exec (.cmaintInv a sc) s = .next t ∧ Accesses { s with poisoned := t.poisoned } t k g h p none [] ∧ invalidated p.ex t ∧
        (g.mode = .user → t.poisoned = s.poisoned ∧ t.mem = s.mem ∧ t.writes = s.writes))) ∧
  (Ready s k g p (pairRegs a.toNat) (pairRegs a.toNat) →
    let find := fun L : Fin 32 => if (g.seen2 a.toNat L).toNat < 2 ^ 57 then met L else .bad 1 .pageInvalid
    ∀ (L0 : Fin 32) (c0 : Nat) (e0 : Cause), p.ex.getLsbD L0 = true → find L0 = .bad c0 e0 →
    (∀ L : Fin 32, p.ex.getLsbD L = true → ∀ c e, find L = .bad c e → c0 ≤ c ∧ (c = c0 → e = e0) ∧ (e = e0 → L0.val ≤ L.val)) →
    let bad := lanesMask ((maskLanes p.ex).filter fun L => match find L with
      | .bad _ _ => true
      | _ => false)
    let m := p.ex &&& ~~~bad
    ∀ y ∈ ([(.cmaintWb a sc, fun t => (∀ pa, t.newest pa = s.newest pa) ∧ ∀ L : Fin 32, m.getLsbD L = true → ∀ f, met L = .ok f → written t f),
      (.cmaintWbinv a sc, fun t => (∀ pa, t.newest pa = s.newest pa) ∧ ∀ L : Fin 32, m.getLsbD L = true → ∀ f, met L = .ok f →
        written t f ∧ ∀ c ∈ t.caches, near c f → below c → c.st = .u),
      (.cmaintInv a sc, fun t => (∀ L : Fin 32, m.getLsbD L = true → ∀ f, met L = .ok f → ∀ w ∈ s.writes, lineOf w.pa ≠ lineOf f.pa ∧
        overlaps (128 * lineOf f.pa) 128 w.pa w.bytes.length = false) → invalidated m t)] : List (Instr × (State → Prop))),
    (bad ≠ p.ex → 24 ≤ g.used → Traps y.1 s k g p none { cause := .rsOverflow, lanes := p.ex }) ∧
    (bad = p.ex ∨ g.used < 24 → ∃ (s2 : State) (h : Group), exec y.1 s = .next ((s2.trap k p (p.pc + 4#32)
        { cause := e0, lanes := bad, split := true, addr := g.seen2 a.toNat L0 }).stepped k g true) ∧
      (s2.poisoned = s.poisoned ∨ y.1 = .cmaintInv a sc) ∧ { s2 with poisoned := s.poisoned }.beside = s.beside ∧
      s.cycle + 1 + s.slotW.toNat ≤ s2.cycle ∧ y.2 s2 ∧ kfind s2.groups k = some h ∧ (∀ j, j ≠ k → kfind s2.groups j = kfind s.groups j) ∧
      h.rest = g.rest ∧ h.cur = some p ∧ h.regs = g.regs ∧ h.aflags = g.aflags ∧ h.pend = g.pend)) ∧
  let va := (g.seen2 a.toNat (lowestLane p.ex)).toNat
  let x := (g.seen d.toNat (lowestLane p.ex)).toNat
  Ready s k g p (d.toNat :: pairRegs a.toNat) (d.toNat :: pairRegs a.toNat) →
  let may := g.mode = .hypervisor ∨ (g.mode = .supervisor ∧ x % 2 ^ 16 = (s.team k.tkey).asid.toNat)
  (¬ may → Traps (.cmaintTlb d a sc) s k g p none { cause := .priv, lanes := p.ex }) ∧
  (may → x / 2 ^ 16 ≠ 0 → va % 65536 ≠ 0 →
    Traps (.cmaintTlb d a sc) s k g p none { cause := .align, lanes := p.ex, addr := BitVec.ofNat 64 va }) ∧
  (may → (x / 2 ^ 16 = 0 ∨ va % 65536 = 0) →
  ∃ t h, exec (.cmaintTlb d a sc) s = .next t ∧ t.candidate k = false ∧ kfind t.groups k = some h ∧ h.rest = g.rest ∧ h.regs = g.regs ∧ GoesOn h p (p.pc + 4#32) ∧
    (∀ pa, t.newest pa = s.newest pa) ∧ (∀ w ∈ t.writes, w.seenBy core = false) ∧ t.tlb = s.tlb ∧
    t.shoots = s.shoots ++ [{ id := s.nextShoot, key := k, asid := BitVec.ofNat 16 x, lo := if x / 2 ^ 16 = 0 then 0 else va
                              hi := if x / 2 ^ 16 = 0 then 2 ^ 57 else min (va + x / 2 ^ 16 * 65536) (2 ^ 57)
                              unreached := t.tlbUnits n core, unacked := [] }])

/-- R169, R251, R254 to R259: shootdowns reach TLBs, are acknowledged and complete; a walk begins where its block's walker runs fewer than eight,
begins again when an invalidation has made it stale, or fills a set of the L1 and of the L2 TLB; a stale one that no team waits for is gone before the
acknowledgement; the tile engine fetches ahead what its copy may access; and a residency request enters its queue or marks an overflow. How a request
reads and writes its queue is the model's choice (logs 76 and 84). -/
def Obligations.TranslationSteps : Prop :=
  ∀ s : State,
  (∀ sh u, s.shoots.find? (fun x => x.id == s.ev.n) = some sh →
    (sh.unreached[s.ev.m]? = some u →
      ∃ t, exec .tlbInvalidationArrival s = .next t ∧ (∀ e, e ∈ t.tlb ↔ e ∈ s.tlb ∧ ¬ (u.reaches e.tlb = true ∧ e.inShoot sh = true)) ∧
        (∀ e, e ∈ t.tables ↔ e ∈ s.tables ∧ ¬ (u = .l2 e.block ∧ e.inShoot sh = true)) ∧
        (∀ w ∈ t.walks, u.reaches w.tlb = true → w.inShoot sh = true → w.stale = true) ∧ t.walks.length = s.walks.length ∧
        { t with tlb := [], tables := [], walks := [], shoots := [] } = { s with tlb := [], tables := [], walks := [], shoots := [] } ∧
        { sh with unreached := sh.unreached.filter (· ≠ u), unacked := sh.unacked ++ [u] } ∈ t.shoots) ∧
    (sh.unacked[s.ev.m]? = some u → (∀ w ∈ s.walks, u.reaches w.tlb = true → w.stale = false) →
      s.rebuild = [] → ∃ t, exec .tlbInvalidationAck s = .next t ∧ { sh with unacked := sh.unacked.filter (· ≠ u) } ∈ t.shoots ∧
        (∀ pa, t.newest pa = s.newest pa) ∧ ∀ w ∈ s.writes, u.within 1 w.core = true → ∀ x ∈ t.writes, x.id = w.id → w.scope ≤ x.reach) ∧
    (sh.unacked[s.ev.m]? = some u → (∀ w ∈ s.walks, u.reaches w.tlb = true → w.stale = true → s.walkLapsed w = true) →
      s.rebuild = [] → ∃ t, exec .tlbInvalidationAck s = .next t ∧ { sh with unacked := sh.unacked.filter (· ≠ u) } ∈ t.shoots ∧
        ∀ w, w ∈ t.walks ↔ w ∈ s.walks ∧ ¬ (u.reaches w.tlb = true ∧ w.stale = true))) ∧
  (∃ t, exec .shootdownComplete s = .next t ∧ { t with shoots := [] } = { s with shoots := [] } ∧
    ∀ x, x ∈ t.shoots ↔ x ∈ s.shoots ∧ ¬ (x.id = s.ev.n ∧ x.unreached = [] ∧ x.unacked = [])) ∧
  (let x := s.team s.ev.key.tkey
   let va := s.ev.n % 2 ^ 57
   let b := x.core / 16
   let mine := fun (w : WalkRec) => w.tlb = .l1 x.core ∧ w.asid = x.asid ∧ w.va = va
   let entry := fun (u : TlbUnit) (lvl : Nat) (leaf : DWord) =>
     TlbEntry.mk u (u.setFor x (va / 2 ^ levelShift lvl)) x.asid lvl (va / 2 ^ levelShift lvl) leaf
   let found := s.fillable b (x.space .supervisor) va none
   let sp := s.ev.space
   let ahead := s.fillable (s.ev.core / 16) sp va (some (if s.ev.flag then .write else .read))
   ((∀ w ∈ s.walks, ¬ mine w) →
     ((s.walks.filter fun w => w.tlb.block == b).length < 8 → ∃ t, exec .tableWalk s = .next t ∧
       { t with walks := [], tables := [] } = { s with walks := [], tables := [] } ∧ (∀ e ∈ s.tables, e ∈ t.tables) ∧
       (∀ lvl e, found = some (lvl, e) → t.walks = s.walks ++ [⟨.l1 x.core, x.asid, va, lvl, BitVec.ofNat 64 e, false⟩]) ∧
       (found = none → t.walks = s.walks)) ∧
     (8 ≤ (s.walks.filter fun w => w.tlb.block == b).length → exec .tableWalk s = .next s)) ∧
   (∀ w ∈ s.walks, mine w → (∀ v ∈ s.walks, mine v → v = w) → ∃ t, exec .tableWalk s = .next t ∧
     { t with walks := [], tlb := [], tables := [] } = { s with walks := [], tlb := [], tables := [] } ∧
     (w.stale = true → t.tlb = s.tlb ∧ ∀ v ∈ t.walks, mine v → v.stale = false) ∧
     (w.stale = false → (∀ v ∈ t.walks, ¬ mine v) ∧ entry (.l1 x.core) w.lvl w.leaf ∈ t.tlb ∧ entry (.l2 b) w.lvl w.leaf ∈ t.tlb)) ∧
   (∀ lvl e, ahead = some (lvl, e) →
     ∃ t, exec .walkAheadFetch s = .next t ∧
       { tlb := .ahead s.ev.core, set := 0, asid := sp.asid, lvl := lvl, page := va / 2 ^ levelShift lvl, leaf := BitVec.ofNat 64 e } ∈ t.tlb ∧ { t with tlb := [] } = { s with tlb := [] }) ∧
   (ahead = none → exec .walkAheadFetch s = .next s)) ∧
  let h := ofBytes s.ev.data + 0x4000
  let x := s.engineNat h 64
  let base := natBits x 51 0
  let logn := natBits x 68 64
  let tail := natBits x 159 128
  let head := natBits x 223 192
  let full := logn = 0 ∨ 2 ^ logn ≤ (tail + 2 ^ 32 - head) % 2 ^ 32
  let entry := base + 16 * (tail % 2 ^ logn)
  (full → ∃ t, exec .residencyRequest s = .next t ∧ t.homeRead (h + 20) 4 = bytesOf 4 (natBits x 191 160 / 2 * 2 + 1) ∧
    ∀ pa, pa < h + 20 ∨ h + 24 ≤ pa → t.newest pa = s.newest pa) ∧
  (¬ full → overlaps entry 16 (h + 16) 4 = false → ∃ t, exec .residencyRequest s = .next t ∧ t.homeRead (h + 16) 4 = bytesOf 4 (tail + 1) ∧
    t.homeRead entry 16 = bytesOf 16 (s.ev.n + 2 ^ 64 * (s.ev.k % 2 ^ 16) + 2 ^ 80 * s.ev.core + 2 ^ 91 * s.ev.m + 2 ^ 96 * tail) ∧
    ∀ pa, (pa < entry ∨ entry + 16 ≤ pa) → (pa < h + 16 ∨ h + 20 ≤ pa) → t.newest pa = s.newest pa)

/-- R236 to R247, R366: writes become performed, and come one directory further, up to their home, with the newest byte of each address unchanged; the
directory takes the copies outside the write's branch away, and a write that overlaps no other goes home alone. An error in a dirty copy, in HBM, in a
scratchpad or in a column, the loss of a die and the end of the rebuild poison what is lost, and an error in a clean copy changes nothing; the steps
that waited for the rebuild are due with its end (R243); a host snoop and a host access see and write the device's memory, which a package that is
shut down does not serve (R359). How a host reads and writes a line of its own memory that is in P is the model's choice (log 90). -/
def Obligations.CoherenceSteps : Prop :=
  ∀ s : State,
  let n := s.ev.n
  (∀ w, s.writes.find? (fun w => w.id == n) = some w →
    (s.goBusy w w.scope = false →
      ∃ t, exec .writePerformed s = .next t ∧ (∀ pa, t.newest pa = s.newest pa) ∧ ∀ x ∈ t.writes, x.id = w.id → w.scope ≤ x.reach) ∧
    (s.goBusy w w.scope = true → exec .writePerformed s = .next s) ∧
    (s.goBusy w (w.reach + 1) = false → w.reach < 5 →
      ∃ t, exec .writePropagation s = .next t ∧ t.mem = s.mem ∧
        t.writes = (s.writes.map fun x => if x.id == w.id then { x with reach := max x.reach (w.reach + 1) } else x) ∧
        ∀ c ∈ t.caches, c.base = copyBase w.pa → c.cache.within (w.reach + 1) w.core = true →
          c.cache.servesCore w.core = true ∨ c.cache.within w.reach w.core = true) ∧
    (s.goBusy w (w.reach + 1) = false → 5 ≤ w.reach →
      ∃ t, exec .writePropagation s = .next t ∧ (∀ pa, t.newest pa = s.newest pa) ∧ (∀ x ∈ t.writes, x ∈ s.writes ∧ x.id ≠ w.id) ∧
        ∀ pre post, s.writes = pre ++ w :: post → (∀ x ∈ pre ++ post, x.id ≠ n ∧ overlaps x.pa x.bytes.length w.pa w.bytes.length = false) →
          t.writes = pre ++ post) ∧
    (s.goBusy w (w.reach + 1) = true → exec .writePropagation s = .next s)) ∧
  (s.ev.part = 0 →
   let u := if s.ev.flag then CacheUnit.l2 (s.ev.core / 16) else CacheUnit.l1 s.ev.core
   let base := copyBase n
   ∀ c, s.caches.find? (fun c => c.cache == u && c.base == base) = some c →
   ∃ t, exec .cacheUncorrectableError s = .next t ∧
     ((c.st = .m ∨ c.st = .o) → (isHost base = true → base ∈ t.snoopBad ∧ t.poisoned = s.poisoned ∧ ∀ x ∈ t.caches, x.base ≠ base) ∧
       (isHost base = false → lineOf base ∈ t.poisoned ∧ (∀ w ∈ t.writes, lineOf w.pa ≠ lineOf base) ∧
         (lineOf base ∉ s.poisoned → ∀ x ∈ t.caches, lineOf x.base = lineOf base → x.st = .p))) ∧
     (c.st ≠ .m → c.st ≠ .o → t.poisoned = s.poisoned ∧ t.writes = s.writes ∧ t.mem = s.mem ∧ t.caches = s.caches)) ∧
  (s.ev.part = 1 → homeStack n = s.ev.k → n < hbmBytes → ∃ t, exec .cacheUncorrectableError s = .next t ∧ lineOf n ∈ t.poisoned) ∧
  (s.ev.part = 2 → ∀ x, kfind s.teams s.ev.key.tkey = some x →
    ∃ t y, exec .cacheUncorrectableError s = .next t ∧ kfind t.teams s.ev.key.tkey = some y ∧ n / 4 ∈ y.spadBad ∧
      { y with spadBad := [] } = { x with spadBad := [] } ∧ t.mem = s.mem) ∧
  (s.ev.part = 3 → ∃ t, exec .cacheUncorrectableError s = .next t ∧ n / 32 ∈ (t.core s.ev.core).colBad ∧
    { t.core s.ev.core with colBad := [] } = { s.core s.ev.core with colBad := [] } ∧ t.mem = s.mem) ∧
  (s.ev.part = 4 → isHost n = true → ∃ t, exec .cacheUncorrectableError s = .next t ∧ copyBase n ∈ t.snoopBad ∧
    ∀ c ∈ t.caches, c.base ≠ copyBase n) ∧
  (let d := s.ev.k
   (∃ t, exec .dieLoss s = .next t ∧ t.mem = s.mem ∧ d ∈ t.rebuild ∧ (∀ c ∈ t.caches, c.cache.core / 256 ≠ d) ∧
     (∀ w ∈ s.writes, if w.core / 256 = d ∧ w.reach ≤ (if d % 2 = 0 then 4 else 3) then w ∉ t.writes ∧ (d, lineOf w.pa) ∈ t.lost else w ∈ t.writes) ∧
     (∀ y ∈ s.teams, y.2.core / 256 = d → ∃ due ∈ t.agenda, due.op = .teamKill ∧ due.arg.key.tkey = y.1) ∧
     ∀ y ∈ s.saved, (y.ovf = false ∧ y.core / 256 = d) ∨ (0 < y.keep.colUnits ∧ y.keep.core / 256 = d) →
       ∃ due ∈ t.agenda, due.op = .teamKill ∧ due.arg.key.tkey = y.team) ∧
   (d ∈ s.rebuild → ∃ t, exec .directoryRebuildComplete s = .next t ∧ d ∉ t.rebuild ∧
     t.delayed = [] ∧ (∀ x ∈ s.delayed, x ∈ t.agenda) ∧ (∀ x ∈ s.lost, if x.1 = d then x.2 ∈ t.poisoned ∧ x ∉ t.lost else x ∈ t.lost) ∧ ∀ i < 256, (t.core (256 * d + i)).fenced = true)) ∧
  (let base := copyBase n
   let dirty := ∃ c ∈ s.caches, c.base = base ∧ (c.st = .m ∨ c.st = .o)
   let poison := base ∈ s.snoopBad ∨ s.isPoisoned base = true
   ∃ t, exec .hostSnoop s = .next t ∧ t.mem = s.mem ∧ t.writes = s.writes ∧
     (poison → t.hostOut = s.hostOut ++ [.snoopPoison base]) ∧
     (¬ poison → dirty → t.hostOut = s.hostOut ++ [.snoopDirty base]) ∧
     (¬ poison → ¬ dirty → t.hostOut = s.hostOut ++ [.snoopClean base]) ∧
     (∀ c ∈ t.caches, c.base = base → c.st = .p ∨ (s.ev.flag = false ∧ c.st = .s)) ∧ ∀ c ∈ s.caches, c.base = base → c.st = .p → c ∈ t.caches) ∧
  let shut := s.isPoisoned n = true ∨ s.lineLocked n = true ∨ hbmBytes ≤ n ∨ s.off = true
  let out := fun (x : HostAnswer) => { s with hostOut := s.hostOut ++ [x] }
  (s.ev.flag = false → isHost n = true →
    exec .hostMemoryAccess s = .next (out (if s.isPoisoned n then .poison n else .data n (s.homeRead n s.ev.m)))) ∧
  (s.ev.flag = false → isHost n = false → shut → exec .hostMemoryAccess s = .next (out (.poison n))) ∧
  (s.ev.flag = false → isHost n = false → ¬ shut → ∃ t, exec .hostMemoryAccess s = .next t ∧ (s.ev.k = 1 → lineOf n ∈ t.hostCached) ∧
    { t with hostCached := s.hostCached } = out (.data n (s.homeBytes ⟨n, false, s.lineSlot n⟩ s.ev.m))) ∧
  (s.ev.flag = true → isHost n = false → shut → exec .hostMemoryAccess s = .next (out (.refused n))) ∧
  (s.ev.flag = true → isHost n = true ∨ ¬ shut → ∃ t, exec .hostMemoryAccess s = .next t ∧ t.homeRead n s.ev.data.length = s.ev.data ∧
    (∀ c ∈ t.caches, c.base = copyBase n → isHost n = true ∧ c.st = .p) ∧ (isHost n = true → copyBase n ∉ t.snoopBad) ∧
    (isHost n = false → s.wrongKey n (s.lineSlot n) = false →
      ∀ pa, pa < n ∨ n + s.ev.data.length ≤ pa → t.newest pa = s.newest pa))

-- ## The tile engine

/-- R166, R167, R172, R173, R179, R182: TREC loads its slot with a record that passes the checks, and gives a new handle, or the status of the first
check that fails; it leaves what a load at core scope leaves in the caches (R215, R235). R46, R164: the checks are those of the table over the fields of
the record. TCOMMIT closes the open batch; TWAITB reports and clears the
status of complete batches, and waits or says that they are not complete. -/
def Obligations.TileRecordsAndBatches : Prop :=
  (∀ (s : State) (k : GKey) (g : Group) (p : Path), Issuing s k g p → ∀ (d a : Reg) (slot : BitVec 4), ∀ x : Team, kfind s.teams k.tkey = some x →
  let f := lowestLane p.ex
  let later := fun (i : Nat) (w : Word) =>
    ({ reg := g.wbasev + (d.toNat + i), mask := p.ex, vals := uniformLanes w, left := none } : PendWrite)
  let loads := fun (from_ : State) (i : Instr) (bs : List Byte) =>
    let r := BitVec.ofNat 1024 (ofBytes bs)
    let gen := ((kfind x.handles slot.toNat).map (·.gen)).getD 0#8 + 1#8
    let st := recordStatus r (s.selfPeer.getLsbD 31)
    ∃ t h, exec i s = .next t ∧
      (st = 0 → Becomes (from_.setTeam k.tkey { x with handles := kput x.handles slot.toNat { gen := gen, tr := some r } }) t k
        (g.onWith p none [later 0 (BitVec.ofNat 32 (2 ^ 31 + 2 ^ 8 * gen.toNat + slot.toNat))]) h) ∧
      (st ≠ 0 → Becomes from_ t k (g.onWith p none [later 0 (BitVec.ofNat 32 st)]) h)
  (Ready s k g p (d.toNat :: pairRegs a.toNat) (pairRegs a.toNat) → Unheld s g →
    let va := (g.seen2 a.toNat f).toNat
    va % 128 = 0 → va < 2 ^ 57 →
    (∀ fr, s.translate (s.coreOf k) (x.space g.mode) va .read = .ok fr → s.isPoisoned fr.pa = false →
      loads (s.loaded (s.coreOf k) fr 128 0) (.trec d a slot) (s.loadBytes (s.coreOf k) fr 128)) ∧
    (∀ lvl, s.translate (s.coreOf k) (x.space g.mode) va .read = .absent lvl →
      ∃ t h, exec (.trec d a slot) s = .next t ∧ Becomes s t k (g.onWith p none [later 0 5#32]) h)) ∧
  (Ready s k g p [d.toNat, a.toNat] [a.toNat] → g.fences = [] → ∀ y, (g.seen a.toNat f).toNat % 128 = 0 →
    s.nearDecode k.tkey g.mode (g.seen a.toNat f).toNat 128 = some y → s.nearPoisoned y 128 = false → s.nearStalled y = false →
    s.hasPlace y = true → loads s (.trecN d a slot) (s.nearRead y 128)) ∧
  (Ready s k g p [d.toNat] [] →
    ∃ t h, exec (.tcommit d) s = .next t ∧
      OnlyRegs s t k { g with tb := { g.tb with committed := g.tb.committed + 1#32, opened := 0 } } h [g.wbasev + d.toNat] ∧
      h.aflags = g.aflags ∧ GoesOn h p (p.pc + 4#32) ∧ Writes g h p.ex (g.wbasev + d.toNat) fun _ => g.tb.committed + 1#32) ∧
  (Ready s k g p (a.toNat :: dataRegs d.toNat 16) [a.toNat] →
    let done := batchLe (g.seen a.toNat f) (batchDone g.tb.committed (s.copyBatches k))
    let w := g.tb.fault.getD (0#32, 0#32, 0#32)
    (done = true → ∀ i ∈ [Instr.twaitb d a, .twaitbTest d a], ∃ t h, exec i s = .next t ∧
      Becomes s t k (Group.onWith { g with tb := { g.tb with status := 0#32, fault := none } } p none
        [later 0 g.tb.status, later 1 w.1, later 2 w.2.1, later 3 w.2.2]) h) ∧
    (done = false → exec (.twaitb d a) s = .next (s.holdIssue k []) ∧
      ∃ t h, exec (.twaitbTest d a) s = .next t ∧ Becomes s t k (g.onWith p none [later 0 0x80000000#32]) h))) ∧
  ∀ (r : BitVec 1024) (joined : Bool),
  let field := natBits r.toNat
  let (ew, ef, n, layer, peer, oobf, exp, mxb) :=
    (field 67 64, field 71 68, field 74 72, field 77 76, field 88 80, field 101 100, field 103 102, field 105 104)
  let size := fun (i : Nat) => field (223 + 32 * i) (192 + 32 * i)
  let stride := fun (i : Nat) => field (383 + 64 * i) (320 + 64 * i)
  let box := fun (i : Nat) => field (713 + 10 * i) (704 + 10 * i)
  let w := [4, 6, 8, 16, 32, 64].getD ew 0
  let image := if exp = 0 then w else 16
  let bad1 := (∃ z ∈ [(1023, 896), (767, 764), (191, 160), (127, 109), (95, 95), (91, 89), (79, 78), (75, 75)], field z.1 z.2 ≠ 0) ∨
    (∃ i, 1 ≤ i ∧ i ≤ 5 ∧ 2 ^ 48 ≤ stride i) ∨ ∃ i < 6, n ≤ i ∧ (size i ≠ 0 ∨ box i ≠ 0 ∨ 1 ≤ i ∧ stride i ≠ 0)
  let bad2 := n = 0 ∨ 6 < n
  let bad3 := 6 ≤ ew ∨ 12 ≤ ef ∧ ef ≤ 14 ∨ exp = 3 ∨ field 94 92 = 7 ∨
    (ef ≤ 11 ∧ [16, 16, 8, 8, 6, 6, 4, 8, 8, 4, 4, 4].getD ef 0 ≠ w) ∨ ((ew = 4 ∨ ew = 5) ∧ ef ≠ 15) ∨ (layer = 3 ∧ (exp ≠ 0 ∨ joined = false)) ∨
    (exp = 1 ∧ ¬ (ew = 0 ∧ ef = 6 ∧ layer = 2)) ∨ (exp = 2 ∧ ¬ (ew = 0 ∧ ef = 11)) ∨ (oobf = 2 ∧ ew ≤ 1) ∨ (peer ≠ 0 ∧ layer ≠ 3) ∨
    mxb ≠ 0 ∧ exp = 0
  let bad4 := field 63 0 % 32 ≠ 0 ∨ (∃ i, 1 ≤ i ∧ i < n ∧ stride i % 32 ≠ 0) ∨
    (if exp = 0 then field 831 768 ≠ 0 else field 831 768 % 32 ≠ 0) ∨ (if exp = 2 then field 895 832 % 32 ≠ 0 else field 895 832 ≠ 0) ∨
    (∃ i < n, size i = 0) ∨ size 0 * w % 8 ≠ 0 ∨ (w = 6 ∧ size 0 % 16 ≠ 0) ∨ (box 0 + 1) * image % 128 ≠ 0 ∨
    65536 < (box 0 + 1) * image / 8 * ((box 1 + 1) * (box 2 + 1) * (box 3 + 1) * (box 4 + 1) * (box 5 + 1))
  (bad1 → recordStatus r joined = 1) ∧ (¬ bad1 → bad2 → recordStatus r joined = 2) ∧ (¬ bad1 → ¬ bad2 → bad3 → recordStatus r joined = 3) ∧
  (¬ bad1 → ¬ bad2 → ¬ bad3 → bad4 → recordStatus r joined = 4) ∧ (¬ bad1 → ¬ bad2 → ¬ bad3 → ¬ bad4 → recordStatus r joined = 0)

/-- R174, R183: INIT, EXPECT and ARRIVE change the cell at their address, which completes its generation when every arrival and byte has come, and no
other byte; WAIT goes on while the cell's generation is 1 to 128 past t, and waits else, and TEST tells which. -/
def Obligations.CountBarriers : Prop :=
  ∀ (s : State) (k : GKey) (g : Group) (p : Path), Issuing s k g p → g.fences = [] → ∀ d a : Reg, (kfind s.teams k.tkey).isSome →
  let f := lowestLane p.ex
  let x := (g.seen a.toNat f).toNat
  let m := g.seen d.toNat f
  let c := s.cellAt k.tkey x
  let turned := fun (c : Cell) =>
    if c.target ≠ 0 ∧ c.arrived = c.target ∧ c.bytes = 0 then { c with gen := (c.gen + 1) % 256, arrived := 0 } else c
  let later := fun (w : Word) => ({ reg := g.wbasev + d.toNat, mask := p.ex, vals := uniformLanes w, left := none } : PendWrite)
  let sets := fun (i : Instr) (s : State) (from_ : State) (new : List PendWrite) (c : Cell) => ∃ t h, exec i s = .next t ∧
    NearOnly from_ t k g h p none new ∧ t.cellAt k.tkey x = c ∧
    ∀ y : NearAt, s.hasPlace y = true → (∀ i < 8, y ≠ .spad k.tkey (x + i)) → t.nearByte y = s.nearByte y
  x % 8 = 0 → x < 2 ^ 31 → x + 8 ≤ 1024 * (s.team k.tkey).spRows →
  (Ready s k g p [d.toNat, a.toNat] [a.toNat, d.toNat] →
    sets (.cbarInit d a) s s [] (if 1 ≤ m.toNat ∧ m.toNat ≤ 4095 then ⟨0, false, m.toNat, 0, 0⟩ else ⟨0, true, 0, 0, 0⟩) ∧
    sets (.cbarExpect d a) s s [] (turned (if -2 ^ 27 ≤ c.bytes + m.toInt ∧ c.bytes + m.toInt < 2 ^ 27
      then { c with bytes := c.bytes + m.toInt } else { c with err := true })) ∧
    ((∀ n, 1 ≤ n → n ≤ 128 → c.gen = (m.toNat + n) % 256 → ∃ t h, exec (.cbarWait d a) s = .next t ∧ Becomes s t k (g.onWith p none []) h) ∧
      (∀ n < 128, c.gen < 256 → (c.gen + n) % 256 = m.toNat % 256 → exec (.cbarWait d a) s = .next (s.holdIssue k []))) ∧
    ∃ t h, exec (.cbarTest d a) s = .next t ∧ Becomes s t k (g.onWith p none
      [later (BitVec.ofNat 32 ((if (c.gen + 511 - m.toNat % 256) % 256 < 128 then 1 else 0) + if c.err then 2 else 0))]) h) ∧
  (Ready s k g p [d.toNat, a.toNat] [a.toNat] →
    sets (.cbarArrive d a) s (s.release (s.coreOf k) 1) [later (BitVec.ofNat 32 c.gen)]
      (turned (if c.target = 0 ∨ c.arrived = c.target then { c with err := true } else { c with arrived := (c.arrived + 1) % 4096 })))

/-- R168, R172, R178, R180, R181: TCOPY, TSTORE and LCOPY put one copy into the queue, as a member of the open batch, when no check fails and the
queue has room; with 64 copies of the partition in the queue they wait. No FENCE.ASYNC stands before them (R233). -/
def Obligations.CopiesEnterTheirQueue : Prop :=
  ∀ (s : State) (k : GKey) (g : Group) (p : Path), Issuing s k g p → (∀ f ∈ g.fences, f.kind ≠ 4) → ∀ d a b : Reg,
  let f := lowestLane p.ex
  let x := s.team k.tkey
  let at_ := fun r : Nat => (g.seen r f).toNat
  let sp := 1024 * x.spRows
  let inSpad := fun (o n : Nat) => o < 2 ^ 31 ∧ o + n ≤ sp
  let goodBar := fun (bar : Nat) => bar = 0xFFFFFFFF ∨ (bar % 8 = 0 ∧ inSpad bar 8)
  let queue := s.copies.filter fun c => c.core = s.coreOf k && partOf c.key = partOf k
  let queues := fun (i : Instr) (kind : CopyKind) (bar : Nat) =>
    (queue.length < 64 → ∃ t h, exec i s = .next t ∧
      Becomes { s with
          fresh := s.fresh + 1
          copies := s.copies ++ [{ id := s.fresh, key := k, core := s.coreOf k, kind := kind
                                   bar := if bar = 0xFFFFFFFF then none else some bar
                                   mode := g.mode, batch := g.tb.committed + 1#32, idx := min g.tb.opened 0xFFFF }] } t k
        (Group.onWith { g with tb := { g.tb with opened := g.tb.opened + 1 } } p none []) h) ∧
    (64 ≤ queue.length → exec i s = .next (s.holdIssue k []))
  let coords := (List.range 6).map (b.toNat + ·)
  let r := x.handleRecord (g.seen a.toNat f)
  let T := Tensor.ofRecord r
  let origin := coords.map fun i => (g.seen i f).toInt
  (Ready s k g p (a.toNat :: (pairRegs d.toNat ++ coords)) (a.toNat :: (pairRegs d.toNat ++ coords)) → Uniform g p [a.toNat] →
    (∀ L : Fin 32, p.ex.getLsbD L = true → x.handleValid (g.seen a.toNat L) = true) → at_ d.toNat % 128 = 0 →
    origin.headD 0 * T.w % 128 = 0 → inSpad (at_ d.toNat) T.tileBytes → goodBar (at_ (d.toNat + 1)) →
    (T.exp = 0 ∨ fmtReserved p.fmt = false → queues (.tcopy d a b) (.tile false r (at_ d.toNat) origin) (at_ (d.toNat + 1))) ∧
    (T.exp = 0 → queues (.tstore d a b) (.tile true r (at_ d.toNat) origin) (at_ (d.toNat + 1)))) ∧
  (Ready s k g p (pairRegs d.toNat ++ pairRegs a.toNat ++ pairRegs b.toNat) (pairRegs d.toNat ++ pairRegs a.toNat ++ pairRegs b.toNat) →
    let dst := g.seen2 d.toNat f
    let src := g.seen2 a.toNat f
    let n := at_ b.toNat
    let good := fun (y : DWord) => y.toNat % 16 = 0 ∧ match layerOf y with
      | .global _ => True
      | .near o => ∃ z, s.nearDecode k.tkey g.mode o n = some z
      | .twin _ => (s.record k.tkey).beam = true
      | .bad => False
    good dst → good src → (isTwinLayer src = false ∨ isTwinLayer dst = false) → n % 16 = 0 → 0 < n → n ≤ 16777216 →
    goodBar (at_ (b.toNat + 1)) → queues (.lcopy d a b) (.layer src dst n) (at_ (b.toNat + 1)))

/-- R164, R165, R168, R170 to R174, R180, R181: a copy that waits for no other completes, once what a peer has answered has been accepted (R305): it
leaves the queue, reports its status to its batch, and subtracts its bytes from its cell; every byte but those that it writes and its cell stays. A TCOPY
puts each bit of each element of the tile at its skewed place, expanded, filled or clamped as its record says. A TSTORE puts the bits of the elements in
bounds at their places in the tensor; one to another device writes nothing here. An LCOPY moves its units of 16 bytes one after the other, each read
after the one before it was written. That a tile copy reads its source and writes its destination in the step that completes it, after what its group has
written without FENCE.ASYNC too, is the model's choice (log 10), and so is the zero of an expanded INT4 element that equals its zero point (log 40). -/
def Obligations.CopiesMoveTheirBytes : Prop :=
  ∀ (s : State) (c : Copy), s.copies.find? (fun c => c.id = s.ev.n) = some c → s.copyWaits c = false → s.copyPaused c = false →
  let u := c.key.tkey
  let came := match c.record with
    | some r => s.takeAnswers u r s.ev
    | none => (s, true)
  let s1 := came.1
  let q := s1.runCopy c s.ev
  (came.2 = false → exec .copyComplete s = .next s1) ∧ (came.2 = true → (kfind s.teams u).isSome →
  (∃ t, exec .copyComplete s = .next t ∧ (∀ e, e ∈ t.copies ↔ e ∈ s.copies ∧ e.id ≠ c.id) ∧
    (c.orphan = false → ∀ g h, kfind s.groups c.key = some g → kfind t.groups c.key = some h → h.tb.status = g.tb.status ||| BitVec.ofNat 32 q.st ∧
      (q.st = 0 → h.tb = g.tb) ∧ (q.st ≠ 0 → g.tb.fault = none →
        h.tb.fault = some (c.batch, BitVec.ofNat 32 (min c.idx 0xFFFF), BitVec.ofNat 32 (q.off.getD 0)))) ∧
    q.s.keepsBut t (fun y => ∃ a, c.bar = some a ∧ ∃ i < 8, y = .spad u (a + i)) ∧
    ∀ a x, c.bar = some a → kfind t.teams u = some x →
      let e := q.s.cellAt u a
      let v := e.bytes - (match c.kind with
        | .tile _ r _ _ => (Tensor.ofRecord r).tileBytes
        | .layer _ _ n => n : Nat)
      let e' := if -2 ^ 27 ≤ v then { e with bytes := v } else { e with err := true }
      t.cellAt u a = if e'.target ≠ 0 ∧ e'.arrived = e'.target ∧ e'.bytes = 0 then { e' with gen := (e'.gen + 1) % 256, arrived := 0 } else e') ∧
  (∀ r o origin, c.kind = .tile false r o origin → recordStatus r true = 0 →
    let T := Tensor.ofRecord r
    let at_ := T.coord origin
    let inside := fun (row j : Nat) => T.inBounds (at_ row j) || T.oobf == 3
    ∀ R : Nat → Byte, (∀ row < T.rows, ∀ j < T.box.headD 1, inside row j = true → ∀ a, T.takes (T.nearest (at_ row j)) a → s1.tileReads (s1.mover c s.ev) T a (R a)) →
    let value := fun (row j : Nat) => if inside row j then T.valueOf R (T.nearest (at_ row j)) else (T.outside, 0#5)
    (∀ row < T.rows, ∀ j < T.box.headD 1, ∀ b < (if T.exp = 0 then T.w else 16),
      (q.s.nearByte (.spad u (o + (T.imageAt row j b).1))).getLsbD (T.imageAt row j b).2 = (value row j).1.testBit b) ∧
    (∀ n, q.st.testBit n = true ↔ ∃ row < T.rows, ∃ j < T.box.headD 1, (256 * (value row j).2.toNat).testBit n = true) ∧
    s1.keepsBut q.s fun y => ∃ i < T.tileBytes, y = .spad u (o + i)) ∧
  (∀ r o origin, c.kind = .tile true r o origin → recordStatus r true = 0 →
    let T := Tensor.ofRecord r
    let at_ := T.coord origin
    (T.layer = 3 → T.peer ≠ s1.selfNum → s1.keepsBut q.s fun _ => False) ∧
    (T.exp = 0 → (origin.headD 0 * T.w) % 8 = 0 → (∀ i < T.tileBytes, s1.nearPoisoned (.spad u (o + i)) 1 = false) →
      let stored := fun (row j b : Nat) => row < T.rows ∧ j < T.box.headD 1 ∧ b < T.w ∧ T.inBounds (at_ row j) = true
      let to_ := fun (row j b : Nat) => T.bitAt (T.nearest (at_ row j)) b
      ∀ (P : Nat → Prop) (key : Nat) (Y : Nat → Place), s1.tablesApart P →
      (∀ row j b, stored row j b → s1.tileWrites c T P key (to_ row j b) (Y (to_ row j b))) →
      (∀ row j b row' j' b', stored row j b → stored row' j' b' → Y (to_ row j b) = Y (to_ row' j' b') → to_ row j b = to_ row' j' b' ∧ row = row') →
      q.st = 0 ∧
      (∀ row j b, stored row j b → (q.s.byteAt (Y (to_ row j b))).getLsbD ((T.nearest (at_ row j) 0 * T.w + b) % 8) =
        (s1.nearByte (.spad u (o + (T.imageAt row j b).1))).getLsbD (T.imageAt row j b).2) ∧
      s1.keepsBut q.s fun y => ∃ row j b, stored row j b ∧ y = Y (to_ row j b))) ∧
  ∀ src dst len, c.kind = .layer src dst len →
    let after := fun (n : Nat) => (s.runLcopy (s.mover c s.ev) c.mode src dst (16 * n)).s
    (after 0).keepsBut s (fun _ => False) ∧ (q.s.keepsBut (after (len / 16)) fun _ => False) ∧
    ∀ n bs y, (after n).unitReads c src (16 * n) bs → (after n).unitWrites c dst (16 * n) y →
      (∀ i < 16, (after (n + 1)).byteAt (y.plus i) = bs.getD i 0#8) ∧ (after n).keepsBut (after (n + 1)) fun z => ∃ i < 16, z = y.plus i)

-- ## Accumulator tiles and matrix work

/-- R44, R45, R196 to R199, R207, R208: ALLOC grants consecutive slots with a new generation, gives the status that forbids it, or waits in its
core's queue; FREE, ZERO and STAT act on the tile that a handle names; the reads convert its cells, and WRF32 writes them. That STAT waits for the
operations on its tile as the reads do, and that a WRF32 which clamps sets ACCOVF, is the model's reading (log 47). -/
def Obligations.AccumulatorTiles : Prop :=
  ∀ (s : State) (k : GKey) (g : Group) (p : Path), Issuing s k g p → ∀ (x : Pfx) (d a : Reg), ∀ y : Team, kfind s.teams k.tkey = some y →
  let core := s.coreOf k
  let c := s.core core
  let f := lowestLane p.ex
  let h0 := g.seen a.toNat f
  let later := fun (w : Word) => ({ reg := g.wbasev + d.toNat, mask := p.ex, vals := uniformLanes w, left := none } : PendWrite)
  (Ready s k g p [d.toNat, a.toNat] [a.toNat] → (∀ e ∈ c.allocQ, e.1 ≠ k) →
    let n := h0.toNat
    let r := (s.record k.tkey).tiles
    let gives := fun (w : Word) => ∃ t h, exec (.accAlloc x d a) s = .next t ∧ Becomes s t k (g.onWith p x [later w]) h
    let fits := c.waiting = [] ∧ s.tilesFit k.tkey n = true
    ((n = 0 ∨ 16 < n) → gives 4#32) ∧
    (1 ≤ n → n ≤ 16 →
      (y.freeRun n = none → gives 2#32) ∧
      ∀ b, y.freeRun n = some b →
        ((r - min y.held r) + s.spareCap core < n → gives 3#32) ∧
        (n ≤ (r - min y.held r) + s.spareCap core →
          (fits → ∃ t h z, exec (.accAlloc x d a) s = .next t ∧ { z with tiles := [] } = { y with tiles := [], allocN := y.allocN + 1#8 } ∧
            (∀ i, kfind z.tiles i = if b ≤ i ∧ i < b + n then some { alloc := true, gen := y.allocN + 1#8 } else kfind y.tiles i) ∧
            Becomes ((s.setTeam k.tkey z).modCore core fun c => c.granted k) t k
              (g.onWith p x [later (BitVec.ofNat 32 (2 ^ 31 + 2 ^ 8 * (y.allocN + 1#8).toNat + b))]) h) ∧
          (¬ fits → y.held ≠ 0 → gives 1#32) ∧
          (¬ fits → y.held = 0 → exec (.accAlloc x d a) s =
            .next ((s.holdIssue k []).modCore core fun c => { c with allocQ := c.allocQ ++ [(k, n)] }))))) ∧
  (Uniform g p [a.toNat] → y.tileValid h0 = true → s.tileBusy k.tkey h0 = false →
    let tile := y.tile h0
    let holds := fun (z : Tile) => s.setTeam k.tkey { y with tiles := kput y.tiles (tileSlot h0) z }
    (Ready s k g p [a.toNat] [a.toNat] →
      (∃ t h, exec (.accFree x a) s = .next t ∧
        Becomes (s.setTeam k.tkey { y with tiles := kdel y.tiles (tileSlot h0) }) t k (g.onWith p x []) h) ∧
      ∃ t h, exec (.accZero x a) s = .next t ∧ Becomes (holds { tile with cells := [] }) t k (g.onWith p x []) h) ∧
    (Ready s k g p [a.toNat, d.toNat] [a.toNat] →
      (∃ t h, exec (.accStat x d a) s = .next t ∧ Becomes (holds { tile with status := 0#32 }) t k (g.onWith p x [later tile.status]) h) ∧
      let fmt := p.fmt
      let val := fun (i : Nat) => if fmtAccf fmt = 1 then intVal (signedOf 40 (tile.cell i)) else fE8m31.decode (tile.cell i)
      let row := 64 * selRow x
      let at_ := fun (L : Fin 32) => row + 32 * selHalf x + L.val
      let reads := fun (i : Instr) (v : Fin 32 → Nat × Flags) => ∃ t h, exec i s = .next t ∧ Becomes s t k
        (g.onWith p x [{ reg := g.wbasev + d.toNat, mask := p.ex
                         vals := lanesOf fun L => if p.ex.getLsbD L then BitVec.ofNat 32 (v L).1 else 0#32
                         flags := lanesOf fun L => if p.ex.getLsbD L then (v L).2 else 0#5, left := none }]) h
      fmtReserved fmt = false → fmtAccf fmt < 2 →
      reads (.accRdf32 x d a) (fun L => fp32.round (fmtRnd fmt) (fmtSat fmt) (val (at_ L))) ∧
      reads (.accRdbf2 x d a) (fun L =>
        let lo := bf16.round (fmtRnd fmt) (fmtSat fmt) (val (row + 2 * L.val))
        let hi := bf16.round (fmtRnd fmt) (fmtSat fmt) (val (row + 2 * L.val + 1))
        (lo.1 + 65536 * hi.1, lo.2 ||| hi.2)) ∧
      reads (.accRdi32 x d a) (fun L => cellInt fmt (tile.cell (at_ L)))) ∧
    (Ready s k g p [a.toNat, d.toNat] [a.toNat, d.toNat] → fmtReserved p.fmt = false → fmtAccf p.fmt < 2 →
      let new := fun (L : Fin 32) => cellOf p.fmt (g.seen d.toNat L)
      let at_ := fun (L : Fin 32) => 64 * selRow x + 32 * selHalf x + L.val
      ∃ t h z, exec (.accWrf32 x d a) s = .next t ∧ Becomes (holds z) t k
          { g.onWith p x [] with aflags := lanesOf fun L => if p.ex.getLsbD L then g.aflags[L] ||| (new L).2.1 else g.aflags[L] } h ∧
        z.alloc = tile.alloc ∧ z.gen = tile.gen ∧
        (∀ L : Fin 32, p.ex.getLsbD L = true → z.cell (at_ L) = (new L).1 % 2 ^ 40) ∧
        (∀ i, (∀ L : Fin 32, p.ex.getLsbD L = true → i ≠ at_ L) → z.cell i = tile.cell i) ∧
        z.status = if ∃ L : Fin 32, p.ex.getLsbD L = true ∧ (new L).2.2 = true then tile.status ||| 0x20#32 else tile.status)) ∧
  ∃ t, exec .allocGrant s = .next t ∧ { t with stalled := [] } = { s with stalled := [] } ∧ (∀ j ∈ t.stalled, j ∈ s.stalled) ∧
    ∀ e, (s.core s.ev.core).waiting.head? = some e → s.tilesFit e.1.tkey e.2 = true → e.1 ∉ t.stalled

/-- R189 to R194, R205, R210: GANG sets and clears a group's gang, its cursor and its scale window; CTAKE, CPASS and LREL ask for and pass on the
carry and the licence, LSTAT reads where they stand, and the device's steps grant and release them, a release to the twin first. That the 4,096 idle
cycles of R194 count from the moment of idling, before the twin's request too, is the model's choice (log 67). -/
def Obligations.GangsCarryAndLicence : Prop :=
  (∀ (s : State) (k : GKey) (g : Group) (p : Path), Issuing s k g p → ∀ d a : Reg,
    let core := s.coreOf k
    let q := partOf k
    let x := s.part core q
    let l := s.pair core
    let at_ := fun r : Nat => g.seen r (lowestLane p.ex)
    let does := fun (i : Instr) (s' : State) (g' : Group) => ∃ t h, exec i s = .next t ∧ Becomes s' t k (g'.onWith p none []) h
    let gives := fun (i : Instr) (s' : State) (w : Word) => ∃ t h, exec i s = .next t ∧ OnlyRegs s' t k g h [g.wbasev + d.toNat] ∧
      h.aflags = g.aflags ∧ GoesOn h p (p.pc + 4#32) ∧ Writes g h p.ex (g.wbasev + d.toNat) fun _ => w
    let m := (at_ a.toNat).toNat
    let set := { g with gang := BitVec.ofNat 24 m, rvn := 0#7, gangOk := true, cursor := {} }
    let clear := { g with gang := 0#24, rvn := 0#7, gangOk := false }
    (Ready s k g p [a.toNat] [a.toNat] → Uniform g p [a.toNat] →
      (m < 2 ^ 24 → 2 ≤ bitCount m → bitCount m ≤ 6 → k ∈ gangMembers k m → (∀ j ∈ gangMembers k m, (kfind s.groups j).isSome) →
        does (.gangSet a) ((s.setGroup k set).dropCarry core q) set) ∧
      (g.gangOk = true → does (.gangScl a) s { g with cursor := { g.cursor with win := at_ a.toNat } })) ∧
    (Ready s k g p (pairRegs a.toNat) (pairRegs a.toNat) → Uniform g p (pairRegs a.toNat) → g.gangOk = true →
      does (.gangCur a) s { g with cursor := { near := false, c0 := at_ a.toNat, c1 := at_ (a.toNat + 1), win := g.cursor.win } } ∧
      ((at_ a.toNat).toNat % 128 = 0 → (at_ a.toNat).toNat < 2 ^ 31 → (at_ a.toNat).toNat < 1024 * (s.team k.tkey).spRows →
        does (.gangNear a) s { g with cursor := { near := true, c0 := at_ (a.toNat + 1), c1 := at_ a.toNat, win := g.cursor.win } })) ∧
    (Ready s k g p [] [] →
      does .gangClr ((s.setGroup k clear).dropCarry core q) clear ∧
      does .lrel (if l.licence = some core then s.modPair core fun l => { l with lrelp := true } else s) g ∧
      (g.gangOk = true →
        let gang : GangId := ⟨k.tkey, g.gang⟩
        (x.carry = some gang ∨ gang ∈ x.carryQ → does .ctake s g) ∧
        (x.carry ≠ some gang → gang ∉ x.carryQ → ∃ t h, exec .ctake s = .next t ∧
          Becomes (s.modPart core q fun x => { x with carryQ := x.carryQ ++ [gang] }) t k (g.onWith p none []) h ∧
          (x.carry = none → ∃ due ∈ t.agenda, due.op = .carryGrant ∧ due.arg.core = core ∧ due.arg.part = q)))) ∧
    (Ready s k g p [d.toNat] [] →
      (g.gangOk = false ∨ x.carry ≠ some ⟨k.tkey, g.gang⟩ → gives (.cpass d) s 2#32) ∧
      (g.gangOk = true → x.carry = some ⟨k.tkey, g.gang⟩ →
        (x.carryQ = [] → gives (.cpass d) s 1#32) ∧
        ∀ j rest, x.carryQ = j :: rest → gives (.cpass d) (s.modPart core q fun x => { x with carry := some j, carryQ := rest }) 0#32) ∧
      let bit := fun (b : Prop) (n : Nat) => open Classical in if b then 2 ^ n else 0
      gives (.lstat d) s (BitVec.ofNat 32 (2 ^ 16 * min 0xFFFF (if s.matIdle core then s.cycle - (s.core core).idleFrom else 0) +
        bit (g.gangOk = true ∧ (⟨k.tkey, g.gang⟩ : GangId) ∈ x.carryQ) 7 + bit (g.gangOk = true ∧ x.carry = some ⟨k.tkey, g.gang⟩) 6 +
        bit (l.lrelp = true ∧ l.licence = some core) 3 + bit (twinOf core ∈ l.wants) 2 + bit (core ∈ l.wants) 1 +
        bit (l.licence = some core) 0)))) ∧
  ∀ s : State,
  let c := s.ev.core
  let l := s.pair c
  let gone := { l with licence := none, lrelp := false, ldrop := false
                       wants := l.wants.filter (· ≠ c) ++ if (s.hasLatch c = true ∧ (s.core c).fenced = false) ∨ c ∈ l.wants then [c] else [] }
  let pairs := fun (i : Instr) (l' : Pair) => ∃ t, exec i s = .next t ∧ { t with pairs := [] } = { s with pairs := [] } ∧ t.pair c = l' ∧
    ∀ j, j ≠ pairOf c → kfind t.pairs j = kfind s.pairs j
  (∀ j rest, (s.part c s.ev.part).carry = none → (s.part c s.ev.part).carryQ = j :: rest →
    exec .carryGrant s = .next (s.modPart c s.ev.part fun x => { x with carry := some j, carryQ := rest })) ∧
  (∀ j rest, l.licence = none → l.wants = j :: rest →
    pairs .licenceGrant { l with licence := some j, wants := rest, lrelp := false, ldrop := false }) ∧
  (l.licence = some c → twinOf c ∈ l.wants → s.matIdle c = true → 4096 ≤ s.cycle - (s.core c).idleFrom → pairs .licenceIdleRelease gone) ∧
  (l.licence = some c → s.matIdle c = false → exec .licenceIdleRelease s = .next s ∧ exec .licenceRelease s = .next s) ∧
  (l.licence = some c → l.lrelp = true ∨ l.ldrop = true → s.matIdle c = true → pairs .licenceRelease gone)

/-- R187 to R193, R200, R206, R209, R210: MMA and ACC STN: a member arrives at its gang's latch and asks for carry and licence; the complete
rendezvous queues the operation and lets every member go on; an STN enters the queue; MFENCE closes the batch, and MWAITB reports it. No FENCE.ASYNC
stands before them (R233). That the operation takes the record as the first arrival finds it, whatever a later member's handle then names, is the
model's choice (log 85), and so is it that a waiting member's run starts anew, with the count 0 (log 49). -/
def Obligations.MatrixWorkIssues : Prop :=
  (∀ (s : State) (k : GKey) (g : Group) (p : Path), Issuing s k g p → ∀ (x : Pfx) (d a b : Reg), ∀ y : Team, kfind s.teams k.tkey = some y →
    let core := s.coreOf k
    let q := partOf k
    let f := lowestLane p.ex
    let fmt := p.fmt
    let slice := (List.range (fmtNB fmt)).map (b.toNat + ·)
    let later := fun (i : Nat) (w : Word) =>
      ({ reg := g.wbasev + (d.toNat + i), mask := p.ex, vals := uniformLanes w, left := none } : PendWrite)
    (∀ f ∈ g.fences, f.kind ≠ 4) →
    (∀ gang, g.gangId k = some gang → Ready s k g p (d.toNat :: a.toNat :: slice) [d.toNat, a.toNat] → Uniform g p [d.toNat, a.toNat] →
      ((s.grid k.slot).lr.stchk = true → g.early (slice.map (g.wbasev + ·)) 0xFFFFFFFF#32 = false) →
      fmtBadMma fmt = false → ((payload x).getLsbD 0 && fmtMN fmt) = false → b.toNat + fmtNB fmt ≤ 128 →
      (∀ L : Fin 32, p.ex.getLsbD L = true → y.handleValid (g.seen a.toNat L) = true) → y.tileValid (g.seen d.toNat f) = true →
      mmaFault (Tensor.ofRecord (y.handleRecord (g.seen a.toNat f))) g.cursor fmt (bitCount g.gang.toNat * fmtS fmt) (1024 * y.spRows) = none →
      let here : Arrival := ⟨k, p, p.pc + BitVec.ofNat 32 (pfxLen x), g.wbasev + b.toNat, s.slotW.toNat⟩
      let opened : Latch := ⟨gang, g.seen d.toNat f, g.seen a.toNat f, fmt, g.cursor, (payload x).toNat, g.rvn, y.handleRecord (g.seen a.toNat f), []⟩
      let old := (s.part core q).latches.find? fun z => z.gang = gang
      (∀ z, old = some z → (∀ w ∈ z.arrivals, w.key ≠ k) ∧ { z with arrivals := [], record := 0 } = { opened with record := 0 }) →
      ∃ t, exec (.mma x d a b) s = .next t ∧ kfind t.groups k = some { g with runLen := 0, unready := some (g.unready.getD s.cycle) } ∧
        (∀ j, j ≠ k → kfind t.groups j = kfind s.groups j) ∧ t.mem = s.mem ∧ t.teams = s.teams ∧
        ((s.core core).fenced = false → (t.pair core).licensed core = true ∨ core ∈ (t.pair core).wants) ∧
        ((t.part core q).carry = some gang ∨ gang ∈ (t.part core q).carryQ) ∧
        { old.getD opened with arrivals := (old.getD opened).arrivals ++ [here] } ∈ (t.part core q).latches) ∧
    (let z := natBits (payload x).toNat 1 0
     let h0 := g.seen a.toNat f
     let o := (g.seen d.toNat f).toNat
     Ready s k g p [d.toNat, a.toNat] [d.toNat, a.toNat] → Uniform g p [a.toNat] → (z = 3 ∨ (fmtReserved fmt = false ∧ fmtAccf fmt < 2)) →
     y.tileValid h0 = true → o % 128 = 0 → o < 2 ^ 31 → o + 4096 * stnBytes z ≤ 1024 * y.spRows →
     ((s.part core q).matQ.length < 4 → ∃ t h, exec (.accStn x d a) s = .next t ∧
       Becomes (State.modPart { s with fresh := s.fresh + 1 } core q fun c => { c with matQ := c.matQ ++
         [{ id := s.fresh, team := k.tkey, handle := h0, fmt := fmt, stn := some (o, z)
            members := [{ key := k, batch := g.mb.committed + 1#32, idx := min g.mb.opened 0xFFFF, slice := [] }] }] }) t k
         (Group.onWith { g with mb := { g.mb with opened := g.mb.opened + 1 } } p x []) h) ∧
     (4 ≤ (s.part core q).matQ.length → exec (.accStn x d a) s = .next (s.holdIssue k []))) ∧
    (Ready s k g p [d.toNat] [] →
      ∃ t h, exec (.mfence d) s = .next t ∧
        OnlyRegs s t k { g with mb := { g.mb with committed := g.mb.committed + 1#32, opened := 0 } } h [g.wbasev + d.toNat] ∧
        h.aflags = g.aflags ∧ GoesOn h p (p.pc + 4#32) ∧ Writes g h p.ex (g.wbasev + d.toNat) fun _ => g.mb.committed + 1#32) ∧
    (Ready s k g p (a.toNat :: dataRegs d.toNat 16) [a.toNat] →
      let w := g.mb.fault.getD (0#32, 0#32, 0#32)
      (batchLe (g.seen a.toNat f) (batchDone g.mb.committed (s.matBatches k)) = true → ∃ t h, exec (.mwaitb d a) s = .next t ∧
        Becomes s t k (Group.onWith { g with mb := { g.mb with status := 0#32, fault := none } } p none
          [later 0 g.mb.status, later 1 w.1, later 2 w.2.1, later 3 w.2.2]) h) ∧
      (batchLe (g.seen a.toNat f) (batchDone g.mb.committed (s.matBatches k)) = false →
        exec (.mwaitb d a) s = .next (s.holdIssue k [])))) ∧
  ∀ s : State,
  let core := s.coreOf s.ev.key
  let q := partOf s.ev.key
  ∀ l, (s.part core q).latches.find? (fun l => l.arrivals.any fun a => a.key = s.ev.key) = some l →
  (s.meets core q l = false → exec .rendezvousComplete s = .next s) ∧
  (s.meets core q l = true → (s.team l.gang.team).tileValid l.d = true →
    ∃ t o, exec .rendezvousComplete s = .next t ∧ (t.part core q).matQ = (s.part core q).matQ ++ [o] ∧
      (∀ z ∈ (t.part core q).latches, z.gang ≠ l.gang) ∧ o.handle = l.d ∧ o.fmt = l.fmt ∧ o.cursor = l.cursor ∧ o.record = l.record ∧
      o.team = l.gang.team ∧ o.stn = none ∧ o.tar = none ∧ o.half = l.payload.testBit 0 ∧ o.members.map (·.key) = (l.inOrder q).map (·.key) ∧
      ∀ a ∈ l.inOrder q, ∀ g, kfind s.groups a.key = some g →
        (∃ m ∈ o.members, m.key = a.key ∧ m.batch = g.mb.committed + 1#32 ∧ m.slice = (List.range (fmtNB l.fmt)).map fun i => g.read (a.breg + i)) ∧
        ∃ h, kfind t.groups a.key = some h ∧ h.cur = some { a.path with pc := a.npc } ∧ h.rvn = g.rvn + 1#7 ∧ h.regs = g.regs ∧
          h.mb = { g.mb with opened := g.mb.opened + 1 } ∧
          h.cursor = if l.payload.testBit 1 = true then
            { g.cursor with c0 := g.cursor.c0 + BitVec.ofNat 32 ((l.inOrder q).length * fmtS l.fmt)
                            win := g.cursor.win + BitVec.ofNat 32 (scaleA l.fmt ((l.inOrder q).length * fmtS l.fmt) +
                              scaleB l.fmt ((l.inOrder q).length * fmtS l.fmt)) }
          else g.cursor)

/-- R58, R185, R187, R198 to R200, R209: an operation starts with TAR as it stands, and completes by giving each cell of its tile the chunked sum of
its products, and an STN by writing its cells to the scratchpad and no other byte there; both leave the queue with their status, which for an STN
is made of the flags of its conversions, and change no other cell. What a peer has answered must have been accepted (R305). The team has a
group left, whose tiles stand. -/
def Obligations.MatrixWorkCompletes : Prop :=
  ∀ (s : State) (o : MatOp) (rest : List MatOp),
  let core := s.ev.core
  let q := s.ev.part
  (s.part core q).matQ = o :: rest → s.opWaits core o = false →
  let tile := (s.team o.team).tile o.handle
  let ends := fun (t : State) (st : Nat) => (t.part core q).matQ = rest ∧
    (∀ x, kfind t.teams o.team = some x → (x.tile o.handle).status = tile.status ||| BitVec.ofNat 32 st) ∧
    ∀ m, o.members = [m] → m.orphan = false → ∀ g h, kfind s.groups m.key = some g → kfind t.groups m.key = some h →
      h.mb.status = g.mb.status ||| BitVec.ofNat 32 st
  (o.stn = none → o.tar = none → exec .matrixOperationStart s = .next (s.modPart core q fun x =>
    { x with matQ := { o with tar := some (max 0x2000 (s.pair core).tar) } :: rest })) ∧
  (o.stn = none → o.tar.isSome → s.opPaused core o = false → (kfind s.teams o.team).isSome → s.groupsOf o.team ≠ [] →
    (o.half = true → fmtN o.fmt = 32) →
    let came := if o.cursor.near then (s, true) else s.takeAnswers o.team o.aTile.1 s.ev
    (came.2 = false → exec .matrixOperationComplete s = .next came.1) ∧ (came.2 = true →
    let mv := came.1.opMover core o s.ev
    let k := o.members.length * fmtS o.fmt
    let shift := if o.half then 32 else 0
    ∃ t, exec .matrixOperationComplete s = .next t ∧ ends t (came.1.runOp mv o).2 ∧
      ∀ x, kfind t.teams o.team = some x → ∀ m < 64, ∀ n < 64,
        (x.tile o.handle).cell (64 * m + n) =
          if shift ≤ n ∧ n < shift + fmtN o.fmt then
            (cellAfter o.fmt (tile.cell (64 * m + n)) ((came.1.aSide mv o k).1.getD m []) ((came.1.bSide mv o k).1.getD (n - shift) [])).1 %
              2 ^ 40
          else tile.cell (64 * m + n))) ∧
  ∀ at_ z, o.stn = some (at_, z) → (kfind s.teams o.team).isSome → s.groupsOf o.team ≠ [] →
    ∃ t, exec .accStnComplete s = .next t ∧
      ends t (256 * ((List.range 4096).foldl (fun f i => f ||| (stnCell z o.fmt (tile.cell i)).2) 0#5).toNat) ∧
      ∀ x, kfind t.teams o.team = some x → (∀ i, (x.tile o.handle).cell i = tile.cell i) ∧
        (∀ j, j < at_ ∨ at_ + 4096 * stnBytes z ≤ j → cellGet x.spad j = cellGet (s.team o.team).spad j) ∧
        ∀ m < 64, ∀ n < 64, ∀ i < stnBytes z, cellGet x.spad (at_ + stnBytes z * (64 * m + n) + i) =
          (bytesOf (stnBytes z) (stnCell z o.fmt (tile.cell (64 * m + n))).1).getD i 0#8

/-- R186: the codes of FMT fix chunk, slice and accumulator. R58, R187: a cell takes its products chunk after chunk in ascending k; a chunk's exact sum
with what the cell holds is rounded once to E8M31, or clamped as INT40, and every flag and clamp goes to the status; the bits of an operation's status are
those of its cells, its elements and its scales. R49, R59: an element is scaled by its scale byte, and is NaN under 0xFF. R188: the elements of B lie in
the members' slices, a dense stream for each column. R189: those of A are the elements of the record's tensor at the cursor, expanded, filled or clamped as
a copy's are (R170), or in near mode those of the image in the scratchpad. R190: their scale bytes lie in the window. Where a word has changed since the
rendezvous, which of the two values the operation takes is open (log 10); the statement is of bytes that have not, and of slice registers either. -/
def Obligations.MatrixArithmetic : Prop :=
  (∀ fmt : Word, fmtBadMma fmt = false →
    let a := fmt.toNat % 16
    let chunk := if a ≤ 1 ∨ a = 11 then 8 else if a ≤ 3 ∨ a = 7 ∨ a = 8 then 16 else 32
    fmtChunk fmt = chunk ∧ fmtS fmt = 2 * chunk * (1 + fmt.toNat / 2 ^ 15 % 2) ∧ fmtN fmt = 32 * (1 + fmt.toNat / 2 ^ 14 % 2) ∧
    fmt.toNat / 2 ^ 20 % 4 = (if 7 ≤ a ∧ a ≤ 10 then 1 else 0) ∧
    (∀ c < 2 ^ 40, cellAfter fmt c [] [] = (c, 0)) ∧
    (∀ c < 2 ^ 40, ∀ as_ bs : List Scaled, as_.length = bs.length → chunk < as_.length →
      let x := cellAfter fmt c (as_.take chunk) (bs.take chunk)
      let y := cellAfter fmt x.1 (as_.drop chunk) (bs.drop chunk)
      cellAfter fmt c as_ bs = (y.1, x.2 ||| y.2)) ∧
    (a ≤ 6 ∨ a = 11 → ∀ (c : Nat) (as_ bs : List Scaled), as_.length = bs.length → 0 < as_.length → as_.length ≤ chunk →
      let product := fun (z : Scaled × Scaled) =>
        let v := z.1.1.mul z.2.1
        if z.1.2 = 255 ∨ z.2.2 = 255 then FVal.nan v.isSig else v.scale ((z.1.2 : Int) + z.2.2 - 254)
      let r := fE8m31.rne (sumTerms (fE8m31.decode c :: (as_.zip bs).map product))
      cellAfter fmt c as_ bs = (r.1, 256 * r.2.toNat)) ∧
    (7 ≤ a ∧ a ≤ 10 → ∀ (c : Nat) (us vs : List Int), c < 2 ^ 40 → us.length = vs.length → 0 < us.length → us.length ≤ chunk →
      let sum : Int := (if c < 2 ^ 39 then (c : Int) else (c : Int) - 2 ^ 40) + ((us.zip vs).map fun z => z.1 * z.2).sum
      let r := max (-(2 ^ 39 - 1)) (min sum (2 ^ 39 - 1))
      cellAfter fmt c (us.map fun u => (intVal u, 127)) (vs.map fun v => (intVal v, 127)) =
        ((if r < 0 then r + 2 ^ 40 else r).toNat, if r = sum then 0 else 0x20))) ∧
  (∀ x : Nat, (∀ c < 7, codeValue c x = ([bf16, fp16, fE4m3, fE5m2, fE3m2, fE2m3, fE2m1].getD c bf16).decode x) ∧
    (x < 256 → codeValue 7 x = intVal (if x < 128 then (x : Int) else x - 256) ∧ codeValue 8 x = intVal x) ∧
    (x < 16 → codeValue 9 x = intVal (if x < 8 then (x : Int) else x - 16) ∧ codeValue 10 x = intVal x)) ∧
  ∀ (s : State) (mv : Mover) (o : MatOp), fmtBadMma o.fmt = false → (kfind s.teams mv.team).isSome →
  let S := fmtS o.fmt
  let K := o.members.length * S
  let (kA, kB) := (16 * 2 ^ (o.fmt.toNat / 2 ^ 8 % 4), 16 * 2 ^ (o.fmt.toNat / 2 ^ 10 % 4))
  let W := o.cursor.win.toNat
  let scale := fun (scaled : Bool) (place : Nat) => if scaled then (s.scaleByte mv place).1 else 127
  (∀ place, (∀ b, s.spadReads mv place b → s.scaleByte mv place = (b.toNat, 0)) ∧
    ((mv.sees s fun s' => s'.nearPoisoned (.spad mv.team place) 1 = true) → s.scaleByte mv place = (0xFF, 4))) ∧
  (∀ n, (s.runOp mv o).2.testBit n = true ↔ (s.aSide mv o K).2.testBit n = true ∨ (s.bSide mv o K).2.testBit n = true ∨
    ∃ m < 64, ∃ j < fmtN o.fmt, (cellAfter o.fmt (((s.team o.team).tile o.handle).cell (64 * m + j + if o.half then 32 else 0))
      ((s.aSide mv o K).1.getD m []) ((s.bSide mv o K).1.getD j [])).2.testBit n = true) ∧
  (∀ x ∈ o.members, ∀ (r : Nat) (L : Fin 32), r < x.slice.length →
    ((s.sliceSeen o.id x).getD r (uniformLanes 0#32))[L] = (x.slice.getD r (uniformLanes 0#32))[L] ∨
    (x.orphan = false ∧ ((s.sliceSeen o.id x).getD r (uniformLanes 0#32))[L] = ((s.group x.key).read (x.breg + r))[L])) ∧
  (let code := o.fmt.toNat / 2 ^ 4 % 16
    let w := [16, 16, 8, 8, 6, 6, 4, 8, 8, 4, 4].getD code 16
    (fmtBsc o.fmt = true → K % kB = 0) → ∀ (i : Nat) (x : MatMember), o.members[i]? = some x → ∀ l < S, ∀ n < fmtN o.fmt,
    ∃ e < 2 ^ w, ((s.bSide mv o K).1.getD n [])[i * S + l]? =
        some (codeValue code e, scale (fmtBsc o.fmt) (W + (if fmtAsc o.fmt then 64 * K / kA else 0) + n * (K / kB) + (i * S + l) / kB)) ∧
      ∀ b < w, let q := n * (S * w / 32) + (w * l + b) / 32
        e.testBit b = (((s.sliceSeen o.id x).getD (q / 32) (uniformLanes 0#32))[Fin.ofNat 32 q]).getLsbD ((w * l + b) % 32)) ∧
  let T := Tensor.ofRecord o.record
  let code := o.fmt.toNat % 16
  let gives := fun (m l e : Nat) => ((s.aSide mv o K).1.getD m [])[l]? =
    some (if code = 11 then bf16.decode e else codeValue code e, scale (fmtAsc o.fmt) (W + m * (K / kA) + l / kA))
  recordStatus o.record true = 0 → (fmtAsc o.fmt = true → K % kA = 0) →
  (o.cursor.near = true → 64 ≤ T.rows → o.cursor.c0.toNat + K ≤ T.box.headD 1 →
    ∀ R : Nat → Byte, (∀ i < 64 * T.rowB, s.spadReads mv (o.cursor.c1.toNat + i) (R i)) → ∀ m < 64, ∀ l < K,
    ∃ e < 2 ^ (if T.exp = 0 then T.w else 16), gives m l e ∧ ∀ b < (if T.exp = 0 then T.w else 16),
      e.testBit b = (R (T.imageAt m (o.cursor.c0.toNat + l) b).1).getLsbD (T.imageAt m (o.cursor.c0.toNat + l) b).2) ∧
  (o.cursor.near = false →
    let at_ := fun (m l i : Nat) => if i = 0 then o.cursor.c0.toInt + l else if i = 1 then o.cursor.c1.toInt + m else 0
    let inside := fun (m l : Nat) => (T.inBounds (at_ m l) && (decide (2 ≤ T.ndim) || at_ m l 1 == 0)) || T.oobf == 3
    ∀ R : Nat → Byte, (∀ m < 64, ∀ l < K, inside m l = true → ∀ a, T.takes (T.nearest (at_ m l)) a → s.tileReads mv T a (R a)) →
    ∀ m < 64, ∀ l < K, gives m l (if inside m l then (T.valueOf R (T.nearest (at_ m l))).1 else T.outside))

-- ## Barriers, monitors, bound slots, join records, futures and deques

/-- R239, R266 to R273, R287, R288: barriers: an arrival is a release, which waits for a directory under rebuild (R243), suspends its path, and
completes the phase with the last one, in a team, in a cluster with the teams that have ended, and in a grid with those that are saved; monitors are armed, record the lowest reason, and wake the paths that wait, an absent page with reason 3; a
directory recalls the copies of a line; bound slots take publishes and resets copy by copy. -/
def Obligations.BarriersMonitorsAndBounds : Prop :=
  (∀ (s : State) (k : GKey) (g : Group) (p : Path), Issuing s k g p → ∀ (x : Pfx) (d a : Reg) (sc : BitVec 3) (z pol : BitVec 2) (n : BitVec 3),
    let u := k.tkey
    let core := s.coreOf k
    let f := lowestLane p.ex
    let nop := fun i : Instr => ∃ t h, exec i s = .next t ∧ Becomes s t k (g.onWith p none []) h
    let scope := fun w : Nat => (s.record u).barrierScope w
    (∀ y ∈ [(Instr.barTeam, 0), (.barClu, 1), (.barGrid, 2)], Ready s k g p [] [] →
      (g.wave = true → nop y.1) ∧
      (g.wave = false → g.arrived y.2 &&& p.ex ≠ 0#32 → exec y.1 s = .next (s.holdIssue k [])) ∧
      (g.wave = false → g.arrived y.2 &&& p.ex = 0#32 → g.full = false → s.releaseBusy core (scope y.2) = true →
        exec y.1 s = .next (s.holdIssue k [])) ∧
      (g.wave = false → g.arrived y.2 &&& p.ex = 0#32 → g.full = false → s.releaseBusy core (scope y.2) = false →
        let s' := ((s.release core (scope y.2)).setGroup k
          ((g.setArrived y.2 (g.arrived y.2 ||| p.ex)).suspend p (p.pc + 4#32) (.barrier y.2))).checkBarriers u
        ∃ t h q, exec y.1 s = .next t ∧ kfind s'.groups k = some q ∧ Becomes s' t k q h)) ∧
    (Ready s k g p [d.toNat] [] →
      (g.wave = true → nop (.barArrive d)) ∧
      (g.wave = false → g.arrTeam &&& p.ex = 0#32 → s.rebuild = [] →
        let s' := ((s.release core 1).setGroup k { g with arrTeam := g.arrTeam ||| p.ex }).checkBarriers u
        ∃ t h q, exec (.barArrive d) s = .next t ∧ kfind s'.groups k = some q ∧ OnlyRegs s' t k q h [g.wbasev + d.toNat] ∧
          GoesOn h p (p.pc + 4#32) ∧ Writes g h p.ex (g.wbasev + d.toNat) fun _ => (s.team u).teamC)) ∧
    (Ready s k g p [a.toNat] [a.toNat] →
      (g.wave = true ∨ ((s.team u).teamC - g.seen a.toNat f - 1#32).toNat < 2 ^ 31 → nop (.barWait a)) ∧
      (g.wave = false → 2 ^ 31 ≤ ((s.team u).teamC - g.seen a.toNat f - 1#32).toNat → exec (.barWait a) s = .next (s.holdIssue k []))) ∧
    (Ready s k g p (accessRegs d.toNat a.toNat (2 ^ z.toNat)) (pairRegs a.toNat) → Unheld s g →
      let va := g.seen2 a.toNat f + offset64 x
      let met := s.access core ((s.team u).space g.mode) va (2 ^ z.toNat) .read
      let arms := fun (s' : State) (m : Monitor) (bs : List Byte) (absent : Word) => ∃ t h, exec (.mona x d a sc z pol) s = .next t ∧
        Becomes s' t k (Group.onWith { g with mon := m } p x ((List.range ((2 ^ z.toNat + 3) / 4)).map fun i =>
          { reg := g.wbasev + (d.toNat + i), mask := p.ex, vals := lanesOf fun _ => loadedWord bs i
            absent := if i = 0 then absent else 0#32, left := none })) h
      (∀ fr, met = .ok fr → arms (s.loaded core fr (2 ^ z.toNat) (if pol = 2#2 then 0 else pol.toNat))
        { armed := true, addr := va &&& ~~~0x7F#64, line := some (lineOf fr.pa), reason := none } (s.loadBytes core fr (2 ^ z.toNat)) 0#32) ∧
      (∀ lvl, met = .absent lvl → arms s { armed := true, addr := va &&& ~~~0x7F#64, line := none, reason := some 3#2 }
        (List.replicate (2 ^ z.toNat) 0#8) (1#32 <<< f.val) ∧ (g.inMonw = true → ∀ t, exec (.mona x d a sc z pol) s = .next t →
          ∃ due ∈ t.agenda, due.op = .pathReady ∧ due.arg.key = k))) ∧
    (Ready s k g p [d.toNat, a.toNat] [a.toNat] →
      let gives := fun (g' : Group) (w : Word) => ∃ t h, exec (.monw d a) s = .next t ∧ OnlyRegs s t k g' h [g.wbasev + d.toNat] ∧
        h.aflags = g.aflags ∧ GoesOn h p (p.pc + 4#32) ∧ Writes g h p.ex (g.wbasev + d.toNat) fun _ => w
      let w := (g.seen a.toNat f).toNat
      (g.mon.armed = false → gives g 3#32) ∧
      (g.mon.armed = true → (∀ r, g.mon.reason = some r → gives { g with mon := {} } (r.setWidth 32)) ∧
        (g.mon.reason = none → g.full = false → ∃ t h, exec (.monw d a) s = .next t ∧
          Becomes s t k (g.suspend p (p.pc + 4#32) (.monw (g.wbasev + d.toNat) (if w = 0 then none else some (s.cycle + w)))) h))) ∧
    let old := fun r : Nat => (s.bound u n.toNat).at r
    let size := (s.record u).clusterSize
    let here := s.rankOf u
    (Ready s k g p (pairRegs d.toNat) (pairRegs d.toNat) → p.ex ≠ 0#32 →
      let sets := fun (i : Instr) (P : DWord → Prop) => ∃ t h, exec i s = .next t ∧
        Becomes { s with fresh := s.fresh + 1, bounds := t.bounds } t k (g.onWith p none []) h ∧ P ((t.bound u n.toNat).at here) ∧
        (∀ r < size, r ≠ here → (t.bound u n.toNat).at r = old r) ∧
        ∀ j, j ≠ (u.slot, s.clusterOf u, n.toNat) → kfind t.bounds j = kfind s.bounds j
      let all := fun (v : DWord) => v = old here ∨ ∃ L : Fin 32, p.ex.getLsbD L = true ∧ v = g.seen2 d.toNat L
      sets (.bndPubmin d n) (fun v => all v ∧ v.toInt ≤ (old here).toInt ∧
        ∀ L : Fin 32, p.ex.getLsbD L = true → v.toInt ≤ (g.seen2 d.toNat L).toInt) ∧
      sets (.bndPubmax d n) (fun v => all v ∧ (old here).toInt ≤ v.toInt ∧
        ∀ L : Fin 32, p.ex.getLsbD L = true → (g.seen2 d.toNat L).toInt ≤ v.toInt) ∧
      sets (.bndReset d n) (fun v => v = g.seen2 d.toNat f)) ∧
    (Ready s k g p (pairRegs d.toNat) [] →
      ∃ t h, exec (.bndGet d n) s = .next t ∧ OnlyRegs s t k g h [g.wbasev + d.toNat, g.wbasev + (d.toNat + 1)] ∧ h.aflags = g.aflags ∧
        GoesOn h p (p.pc + 4#32) ∧ Writes2 g h p.ex (g.wbasev + d.toNat) fun _ => old here)) ∧
  (∀ (s : State) (u : TKey),
    (s.teamArrived u 0 = false → s.checkTeamBarrier u = s) ∧
    (s.teamArrived u 0 = true → ∀ x, kfind s.teams u = some x →
      kfind (s.checkTeamBarrier u).teams u = some { x with teamC := x.teamC + 1#32 } ∧
      ∀ j g, j.tkey = u → kfind s.groups j = some g → ∃ h, kfind (s.checkTeamBarrier u).groups j = some h ∧ h.arrTeam = 0#32 ∧
        ∀ e ∈ h.stack, e.kind ≠ .path (.suspended (.barrier 0)))) ∧
  (∀ (s : State) (u : TKey),
    let member := fun (v : TKey) => ∃ x ∈ s.groups, x.1.tkey = v ∧ x.2.wave = false
    let arrived := fun (v : TKey) (which : Nat) => ∀ x ∈ s.groups, x.1.tkey = v → x.2.wave = false → x.2.arrived which &&& x.2.live = x.2.live
    let passed := fun (v : TKey) (which : Nat) => arrived v which ∧ (member v ∨ (kfind s.teams v).isSome)
    let opens := fun (t : State) (which : Nat) (vs : TKey → Prop) => ∀ j g, kfind s.groups j = some g →
      (vs j.tkey → ∃ h, kfind t.groups j = some h ∧ h.arrived which = 0#32 ∧ ∀ e ∈ h.stack, e.kind ≠ .path (.suspended (.barrier which))) ∧
      (¬ vs j.tkey → kfind t.groups j = some g)
    let cluster := s.clusterTeams u
    let closes := (∃ v ∈ cluster, member v ∧ arrived v 1) ∧ ∀ v ∈ cluster, s.hasEnded v = true ∨ passed v 1
    (¬ closes → s.checkClusterBarrier u = s) ∧
    (closes → opens (s.checkClusterBarrier u) 1 (· ∈ cluster) ∧
      ∀ v ∈ cluster, ∀ x, kfind s.teams v = some x → kfind (s.checkClusterBarrier u).teams v = some { x with cluC := x.cluC + 1#32 }) ∧
    ∀ gr, kfind s.grids u.slot = some gr →
      let ends := (gr.arrived ≠ [] ∨ ∃ v ∈ s.teams, v.1.slot = u.slot ∧ member v.1 ∧ arrived v.1 2) ∧ gr.allPlaced = true ∧
        ∀ i < gr.lr.teamCount, i ∈ gr.ended ∨ i ∈ gr.arrived ∨ passed ⟨u.slot, i⟩ 2 ∨
          ∃ x ∈ s.saved, x.team = ⟨u.slot, i⟩ ∧ ∀ y ∈ x.groups, y.2.wave = true
      (¬ ends → s.checkGridBarrier u.slot = s) ∧
      (ends → kfind (s.checkGridBarrier u.slot).grids u.slot = some { gr with gridC := gr.gridC + 1#32, arrived := [] } ∧
        opens (s.checkGridBarrier u.slot) 2 fun v => v.slot = u.slot ∧ (kfind s.teams v).isSome)) ∧
  ∀ s : State,
  (∀ g, kfind s.groups s.ev.key = some g → g.mon.armed = true →
    let records := fun (i : Instr) (r : BitVec 2) => ∃ t, exec i s = .next t ∧
      kfind t.groups s.ev.key = some { g with mon := { g.mon with reason := some (match g.mon.reason with
        | some q => if r.toNat < q.toNat then r else q
        | none => r) } } ∧ (g.inMonw = true → ∃ due ∈ t.agenda, due.op = .pathReady ∧ due.arg.key = s.ev.key)
    (g.mon.line = some s.ev.n → records .monitorWriteWake 0#2) ∧
    (s.coreOf s.ev.key = s.ev.core → g.mon.line = some s.ev.n → records .monitorLineLoss 1#2) ∧
    (g.monwDue s.cycle = true → records .monwTimeout 2#2)) ∧
  (∃ t, exec .monitorLineLoss s = .next t ∧ (∀ c ∈ t.caches, ¬ (c.cache = .l1 s.ev.core ∧ c.base / 128 = s.ev.n)) ∧
    (s.ev.part < 2 ∨ s.rebuild ≠ [] → t.writes = s.writes ∧ t.mem = s.mem) ∧ (2 ≤ s.ev.part → s.rebuild = [] → (∀ pa, t.newest pa = s.newest pa) ∧
      (∀ c ∈ t.caches, c.base / 128 = s.ev.n → c.cache.within s.ev.part s.ev.core = false) ∧
      ∀ w ∈ t.writes, lineOf w.pa = s.ev.n → scopeHas s.ev.part s.ev.core w.core = false)) ∧
  (∀ g, kfind s.groups s.ev.key = some g →
    (∀ r, g.mon.reason = some r → g.inMonw = true → ∃ t h, exec .pathReady s = .next t ∧ kfind t.groups s.ev.key = some h ∧ h.mon = {} ∧
      (∀ e ∈ h.stack, ∀ reg end_, e.kind ≠ .path (.suspended (.monw reg end_))) ∧ (g.cur.isSome → h.cur = g.cur) ∧
      ∀ e ∈ g.stack, ∀ reg end_, e.kind = .path (.suspended (.monw reg end_)) → ∀ L : Fin 32, e.mask.getLsbD L = true →
        (h.read reg)[L] = r.setWidth 32) ∧
    (g.mon.reason = none ∨ g.inMonw = false → g.cur.isSome → ∀ i, (g.stack.findIdx? fun e => e.kind = .path (.suspended .over)) = some i →
      ∀ e, g.stack[i]? = some e → exec .pathReady s = .next (s.setGroup s.ev.key { g with stack := g.stack.set i { e with kind := .path .ready } }))) ∧
  let u := s.ev.key.tkey
  let b := s.bound u s.ev.n
  s.ev.k < (s.record u).clusterSize → (∃ o ∈ b.ops, o.id = s.ev.m ∧ s.ev.k ∉ o.seen) →
  ∃ t, exec .boundPublishArrival s = .next t ∧ (∀ o ∈ (t.bound u s.ev.n).ops, o.id = s.ev.m → s.ev.k ∈ o.seen) ∧
    (∀ r < (s.record u).clusterSize, r ≠ s.ev.k → (t.bound u s.ev.n).at r = b.at r) ∧
    ∀ o, b.ops = [o] → (t.bound u s.ev.n).at s.ev.k = o.apply b.base

/-- R279 to R286: TJOIN reports records whose tasks have ended and links itself to the others, FPUT fills the first of the empty futures, FGET returns
futures once all are full, a parked context waiting for the future of every lane, and the lanes of DQ take or add one entry each in ascending order,
while there is one or room for it, with their status and the size left. -/
def Obligations.JoinsFuturesAndDeques : Prop :=
  ∀ (s : State) (k : GKey) (g : Group) (p : Path), Issuing s k g p → Unheld s g → ∀ d a b : Reg,
  let core := s.coreOf k
  let f := lowestLane p.ex
  let later := fun (r : Nat) (v : Fin 32 → Word) => ({ reg := g.wbasev + r, mask := p.ex, vals := lanesOf v, left := none } : PendWrite)
  let only := fun (v : Fin 32 → Word) (L : Fin 32) => if p.ex.getLsbD L then v L else 0#32
  let word := fun (t : State) (pa : Nat) => BitVec.ofNat 32 (ofBytes (t.newestRead pa 4))
  (∀ F : Fin 32 → Frame, s.framed k g p a.toNat 0#64 16 .read F →
    let x := fun L : Fin 32 => ofBytes (s.newestRead (F L).pa 16)
    let open_ := (maskLanes p.ex).filter fun L => natBits (x L) 31 0 ≠ 0
    let out := only fun L => BitVec.ofNat 32 ((if natBits (x L) 31 0 = 0 then 0 else 2 ^ 31) + 2 ^ 16 * natBits (x L) 62 48 + natBits (x L) 47 32)
    let linked := fun (t : State) (ls : List (Fin 32)) =>
      (∀ L ∈ ls, word t ((F L).pa + 12) = linkWith (BitVec.ofNat 32 (natBits (x L) 127 96)) core) ∧
      ∀ pa, (∀ L ∈ ls, pa < (F L).pa + 12 ∨ (F L).pa + 16 ≤ pa) → t.newest pa = s.newest pa
    (Ready s k g p (d.toNat :: pairRegs a.toNat) (pairRegs a.toNat) →
      (open_ = [] → ∃ t h, exec (.tjoin d a) s = .next t ∧ Accesses s t k g h p none [later d.toNat out] ∧ ∀ pa, t.newest pa = s.newest pa) ∧
      (∃ t h, exec (.tjoinTest d a) s = .next t ∧ Accesses s t k g h p none [later d.toNat out] ∧ linked t open_) ∧
      (open_ ≠ [] → g.full = false → ∃ t h, exec (.tjoin d a) s = .next t ∧ kfind t.groups k = some h ∧ h.regs = g.regs ∧ linked t open_ ∧
        h.stack = (g.suspend p p.pc (.join (open_.map fun L => (F L).pa))).stack ∧
        h.cur = (g.suspend p p.pc (.join (open_.map fun L => (F L).pa))).cur)) ∧
    (Ready s k g p (b.toNat :: (pairRegs d.toNat ++ pairRegs a.toNat ++ liveRegs (g.seen b.toNat f))) (b.toNat :: pairRegs a.toNat) →
      Uniform g p [b.toNat] →
      let empty := (maskLanes p.ex).filter fun L => futureState (x L) = 0
      let parks := g.wave = true ∧ p.ex = g.live ∧ g.stack = [] ∧ (s.part core (partOf k)).parked.length < 8
      (empty = [] → ∃ t h, exec (.fget d a b) s = .next t ∧ (∀ pa, t.newest pa = s.newest pa) ∧ Accesses s t k g h p none
        [later d.toNat (only fun L => BitVec.ofNat 32 (x L)), later (d.toNat + 1) (only fun L => BitVec.ofNat 32 (x L / 2 ^ 32)),
          later b.toNat (only fun L => BitVec.ofNat 32 (futureState (x L)))]) ∧
      (empty ≠ [] → ¬ parks → g.full = false → ∃ t h, exec (.fget d a b) s = .next t ∧ kfind t.groups k = some h ∧ h.regs = g.regs ∧
        linked t empty ∧ h.stack = (g.suspend p p.pc (.future (empty.map fun L => (F L).pa))).stack ∧
        h.cur = (g.suspend p p.pc (.future (empty.map fun L => (F L).pa))).cur) ∧
      (empty ≠ [] → parks → (∀ q ∈ g.pend, q.left ≠ none) → (∀ c ∈ s.copies, c.key ≠ k) → s.matBatches k = [] → g.posted = [] →
        ∃ t, exec (.fget d a b) s = .next t ∧ kfind t.groups k = none ∧ linked t empty ∧ k ∉ (t.part core (partOf k)).active ∧
          ∃ y, (t.part core (partOf k)).parked = (s.part core (partOf k)).parked ++ [y] ∧ y.team = k.tkey ∧ y.live = g.seen b.toNat f ∧
            y.cells = ((maskLanes p.ex).map fun L => (F L).pa) ∧ y.g.cur = some p ∧ y.g.tasks = g.tasks))) ∧
  (∀ F : Fin 32 → Frame, s.framed k g p a.toNat 0#64 16 .both F →
    Ready s k g p (b.toNat :: (pairRegs d.toNat ++ pairRegs a.toNat)) (b.toNat :: (pairRegs d.toNat ++ pairRegs a.toNat)) →
    let x := fun L : Fin 32 => ofBytes (s.newestRead (F L).pa 16)
    let first := fun L : Fin 32 => ((maskLanes p.ex).find? fun M => (F M).pa == (F L).pa).getD L
    let put := fun L : Fin 32 => max 1 ((g.seen b.toNat L).toNat % 4)
    let out := only fun L => BitVec.ofNat 32 (if futureState (x L) ≠ 0 then futureState (x L) else if first L = L then 0 else put (first L))
    ∃ t h, exec (.fput d a b) s = .next t ∧ kfind t.groups k = some h ∧ GoesOn h p (p.pc + 4#32) ∧ h.regs = g.regs ∧ h.aflags = g.aflags ∧
      h.pend = (g.pend ++ [later b.toNat out]).map (fun q => q.aged (1 + s.slotW.toNat)) ∧
      (∀ L : Fin 32, p.ex.getLsbD L = true → futureState (x L) = 0 → ofBytes (t.newestRead (F L).pa 16) =
        (g.seen2 d.toNat (first L)).toNat + 2 ^ 64 * put (first L) + 2 ^ 66 * natBits (x L) 95 66) ∧
      (∀ pa, (∀ L : Fin 32, p.ex.getLsbD L = true → futureState (x L) = 0 → pa < (F L).pa ∨ (F L).pa + 16 ≤ pa) → t.newest pa = s.newest pa) ∧
      ((∀ L : Fin 32, p.ex.getLsbD L = true → natBits (x L) 127 96 = 0) → Accesses s t k g h p none [later b.toNat out]) ∧
      ∀ L : Fin 32, p.ex.getLsbD L = true → futureState (x L) = 0 → natBits (x L) 127 96 = 0xFFFFFFFF → ∀ j hj, j.slot = k.slot →
        kfind t.groups j = some hj → ∀ e ∈ hj.stack, ∀ cs, e.kind = .path (.suspended (.future cs)) → (F L).pa ∉ cs) ∧
  (∀ hf, Uniform g p (pairRegs a.toNat) → (g.seen2 a.toNat f).toNat % 64 = 0 →
    s.access core ((s.team k.tkey).space g.mode) (g.seen2 a.toNat f) 64 .both = .ok hf → s.wrongKey hf.pa hf.key = false →
    let q := s.deque hf
    let status := fun (st : Nat) (n : Word) => [later (d.toNat + 2) (only fun _ => BitVec.ofNat 32 st), later (d.toNat + 3) (only fun _ => n)]
    let stays := fun (i : Instr) (new : List PendWrite) => ∃ t h, exec i s = .next t ∧ Accesses s t k g h p none new ∧ ∀ pa, t.newest pa = s.newest pa
    let seen := fun (s : State) => s.observe core hf.pa 64
    (Ready s k g p (pairRegs a.toNat ++ [d.toNat]) (pairRegs a.toNat) → stays (.dqSize d a) [later d.toNat fun _ => q.size]) ∧
    (p.ex ≠ 0#32 → q.bad = true →
      (Ready s k g p (pairRegs a.toNat ++ dataRegs d.toNat 16) (pairRegs a.toNat ++ pairRegs d.toNat) → stays (.dqPush d a) (status 2 q.size)) ∧
      (Ready s k g p (pairRegs a.toNat ++ dataRegs d.toNat 16) (pairRegs a.toNat) → ∀ i ∈ [Instr.dqPop d a, .dqSteal d a], stays i (status 2 q.size))) ∧
    (p.ex ≠ 0#32 → q.bad = false → ∀ (P : Nat → Prop) (E : Fin 32 → Frame), s.tablesApart P → lineApart P hf.pa →
      let rank := fun (L : Fin 32) => ((maskLanes p.ex).filter fun M => decide (M.val < L.val)).length
      let ends := fun (i : Instr) (from_ : State) (need : Need) (off avail : Nat) (at_ : Nat → Word) (index size : Nat → Word) =>
        let lands := fun (L : Fin 32) => p.ex.getLsbD L = true ∧ rank L < avail
        let here := (maskLanes p.ex).filter fun L => decide (rank L < avail)
        let value := fun (L : Fin 32) => ofBytes (s.newestRead (E L).pa 8)
        let gets := fun (r : Nat) (v : Fin 32 → Nat) =>
          ({ reg := g.wbasev + r, mask := lanesMask here, vals := lanesOf fun L => if here.contains L then BitVec.ofNat 32 (v L) else 0#32, left := none } : PendWrite)
        (∀ L, lands L → (E L).key = hf.key ∧ s.wrongKey (E L).pa (E L).key = false ∧ overlaps hf.pa 64 (E L).pa 8 = false ∧
          (∀ M, lands M → M ≠ L → overlaps (E L).pa 8 (E M).pa 8 = false) ∧
          ((maskLanes p.ex = [L] ∧ from_.access core ((s.team k.tkey).space g.mode) (q.entry (at_ (rank L))) 8 need = .ok (E L)) ∨
            s.steadyAccess P core ((s.team k.tkey).space g.mode) (q.entry (at_ (rank L))) 8 need (E L))) →
        ∃ t h, exec i s = .next t ∧
          Accesses s t k g h p none ((if need = .write ∨ here = [] then [] else [gets d.toNat value, gets (d.toNat + 1) fun L => value L / 2 ^ 32]) ++
            [later (d.toNat + 2) (only fun L => if rank L < avail then 0#32 else 1#32), later (d.toNat + 3) (only fun L => size (min (rank L + 1) avail))]) ∧
          word t (hf.pa + off) = index (min (maskLanes p.ex).length avail) ∧
          (need = .write → ∀ L, lands L → ofBytes (t.newestRead (E L).pa 8) = (g.seen2 d.toNat L).toNat) ∧
          ∀ pa, (pa < hf.pa + off ∨ hf.pa + off + 4 ≤ pa) → (need = .write → ∀ L, lands L → pa < (E L).pa ∨ (E L).pa + 8 ≤ pa) → t.newest pa = s.newest pa
      let up := fun (x : Word) (n : Nat) => x + BitVec.ofNat 32 n
      let down := fun (x : Word) (n : Nat) => x - BitVec.ofNat 32 n
      (Ready s k g p (pairRegs a.toNat ++ dataRegs d.toNat 16) (pairRegs a.toNat ++ pairRegs d.toNat) →
        ends (.dqPush d a) (seen (s.release core 6)) .write 20 (2 ^ q.logcap - q.size.toNat) (up q.bottom) (up q.bottom) (up q.size)) ∧
      (Ready s k g p (pairRegs a.toNat ++ dataRegs d.toNat 16) (pairRegs a.toNat) →
        ends (.dqPop d a) (seen s) .read 20 q.size.toNat (down (q.bottom - 1#32)) (down q.bottom) (down q.size) ∧
        ends (.dqSteal d a) (seen s) .read 16 q.size.toNat (up q.top) (up q.top) (down q.size))))

-- ## Tasks and launches

/-- R274 to R278, R284, R289 to R292: SPAWN sends a packet for each lane; packets reach their store, the overflow area, or are refused; waves form
and parked contexts resume in wave slots; LAUNCH admits a grid or gives the code of its refusal. That the grid takes the lowest free slot is the
model's choice (log 50; R291 asks for a free slot), and so are the wave slot of a context (log 86) and the fate of a packet for a team that has
ended (log 51). -/
def Obligations.TasksAndLaunches : Prop :=
  (∀ (s : State) (k : GKey) (g : Group) (p : Path), Issuing s k g p → ∀ d a b : Reg,
    let core := s.coreOf k
    let f := lowestLane p.ex
    let u := k.tkey
    let later := fun (w : Word) => ({ reg := g.wbasev + d.toNat, mask := p.ex, vals := uniformLanes w, left := none } : PendWrite)
    (Ready s k g p (d.toNat :: (pairRegs a.toNat ++ pairRegs b.toNat)) (d.toNat :: (pairRegs a.toNat ++ pairRegs b.toNat)) →
      Uniform g p [d.toNat] →
      ((s.record u).taskw = 0 → ∃ t h, exec (.spawn d a b) s = .next t ∧ OnlyRegs s t k g h [g.wbasev + d.toNat] ∧ h.aflags = g.aflags ∧
        GoesOn h p (p.pc + 4#32) ∧ Writes g h p.ex (g.wbasev + d.toNat) fun _ => 0x80000002#32) ∧
      ((s.record u).taskw ≠ 0 → (g.seen d.toNat f).toNat % 4 = 0 → p.ex ≠ 0#32 → ∀ (T : Fin 32 → Nat) (F : Fin 32 → Frame),
        (∀ L : Fin 32, p.ex.getLsbD L = true → s.ownerOf u (g.seen2 a.toNat L) = .ok (T L) ∧ s.finds k g b.toNat 0#64 8 .read L = .ok (F L)) →
        let packet := fun (x : Fin 32 × Nat) =>
          ({ owner := { slot := k.slot, team := T x.1 }, entry := g.seen d.toNat f, arg := g.seen2 b.toNat x.1
             join := BitVec.ofNat 64 (ofBytes (s.loadBytes core (F x.1) 8))
             id := BitVec.ofNat 32 (core * 2 ^ 20 + ((s.core core).spawnN + x.2) % 2 ^ 20), sender := k, token := s.fresh, lane := x.1.val
             since := 0 } : Packet)
        let seen := (maskLanes p.ex).foldl (fun s L => s.loaded core (F L) 8 0) s
        Unheld s g → ∃ t h, exec (.spawn d a b) s = .next t ∧
          Becomes { (seen.release core 6).modCore core (fun c => { c with spawnN := c.spawnN + popcount p.ex }) with
              fresh := s.fresh + 1, packets := s.packets ++ (maskLanes p.ex).zipIdx.map packet } t k
            (g.onWith p none [{ reg := g.wbasev + d.toNat, mask := p.ex, vals := uniformLanes 0#32, left := none
                                await := some (s.fresh, p.ex) }]) h)) ∧
    (Ready s k g p (d.toNat :: pairRegs a.toNat) (pairRegs a.toNat) → Uniform g p (pairRegs a.toNat) →
      (g.mode ≠ .user ∨ (s.record u).lright = true) → (g.seen2 a.toNat f).toNat % 256 = 0 → ∀ fr,
      s.access core ((s.team u).space g.mode) (g.seen2 a.toNat f) 256 .read = .ok fr → s.isPoisoned (fr.pa + 128) = false → Unheld s g →
      let seen := (s.loaded core fr 128 0).loaded core { fr with pa := fr.pa + 128 } 128 0
      let r := ofBytes (s.loadBytes core fr 128 ++ s.loadBytes core { fr with pa := fr.pa + 128 } 128)
      let lr := LaunchRec.ofRecord r
      let code := s.refusal core u g.mode r
      let grid : Grid := { lr := lr, launcher := g.mode, eligible := lr.wait0a = 0#64 && lr.wait1a = 0#64, seen0 := lr.wait0a = 0#64
                           seen1 := lr.wait1a = 0#64, agedAt := s.cycle }
      (code ≠ 0 → ∃ t h, exec (.launch d a) s = .next t ∧ Becomes seen t k (g.onWith p none [later (BitVec.ofNat 32 code)]) h) ∧
      (code = 0 → (∀ n < 256, (kfind s.grids n).isSome) → ∃ t h, exec (.launch d a) s = .next t ∧
        Becomes seen t k (g.onWith p none [later 4#32]) h) ∧
      (code = 0 → ∀ n, (List.range 256).find? (fun n => (kfind s.grids n).isNone) = some n → ∃ t h, exec (.launch d a) s = .next t ∧
        Becomes { seen.release core 6 with grids := kput s.grids n grid } t k (g.onWith p none [later (BitVec.ofNat 32 (2 ^ 31 + n))]) h))) ∧
  ∀ s : State,
  (∀ p, s.packets[s.ev.n]? = some p → (∀ q ∈ s.packets.take s.ev.n, ¬ (q.sender = p.sender ∧ q.lane = p.lane ∧ q.owner = p.owner)) →
    let s1 : State := { s with packets := s.packets.eraseIdx s.ev.n }
    let waits := ∃ q ∈ (s.grid p.owner.slot).overflow, q.owner = p.owner
    let area := (s.grid p.owner.slot).overflow.length < (s.grid p.owner.slot).lr.overflowCap
    let answers := fun (s' : State) (w : Word) => exec .taskPacketArrival s =
      .next (s'.modGroup p.sender fun g => g.answer p.token (1#32 <<< p.lane) (uniformLanes w))
    (s.hasEnded p.owner = true → (area → answers (s1.endTask p.owner p.join .killed) p.id) ∧ (¬ area → answers s1 0x80000001#32)) ∧
    (s.hasEnded p.owner = false →
      (∀ c, ¬ waits → s.storeFor p.owner = some c →
        answers (s1.modCore c fun x => { x with store := x.store ++ [{ p with since := s.cycle }] }) p.id) ∧
      (waits ∨ s.storeFor p.owner = none → area → answers (s1.modGrid p.owner.slot fun x => { x with overflow := x.overflow ++ [p] }) p.id) ∧
      (waits ∨ s.storeFor p.owner = none → ¬ area → answers s1 0x80000001#32))) ∧
  (∀ i p c, ((s.grid s.ev.n).overflow.findIdx? fun p => (s.storeFor p.owner).isSome) = some i → (s.grid s.ev.n).overflow[i]? = some p →
    s.storeFor p.owner = some c → exec .overflowPacketReturn s = .next
      ((s.modGrid s.ev.n fun x => { x with overflow := x.overflow.eraseIdx i }).modCore c fun x =>
        { x with store := x.store ++ [{ p with since := s.cycle }] })) ∧
  (∀ p k rest, s.nextWave s.ev.core = some p → s.freeWaves p.owner = k :: rest →
    let take := ((s.core s.ev.core).store.filter fun q => q.owner = p.owner && q.entry = p.entry).take 32
    ∃ t g, exec .waveFormation s = .next t ∧ kfind t.groups k = some g ∧ (∀ j, j ≠ k → kfind t.groups j = kfind s.groups j) ∧
      (t.core s.ev.core).store = (s.core s.ev.core).store.filter (fun q => !take.contains q) ∧ g.wave = true ∧ g.stack = [] ∧ g.mode = .user ∧
      g.wsize = 8 * ((s.record p.owner).regs + 1) ∧
      (∃ q, g.cur = some q ∧ q.pc = p.entry ∧ q.ex = g.tasks ∧ q.fmt = 0#32) ∧
      ∀ L : Fin 32, g.tasks.getLsbD L = decide (L.val < take.length) ∧ ∀ x, take[L.val]? = some x → g.joins[L] = x.join ∧
        (g.read 0)[L] = loWord x.arg ∧ (g.read 1)[L] = hiWord x.arg ∧ (g.read 2)[L] = x.id) ∧
  ∀ x k, (s.part s.ev.core s.ev.part).parked[s.ev.n]? = some x → s.parkSlot s.ev.part x = some k → (s.team x.team).stop = false →
  (∀ pa ∈ x.cells, futureState (ofBytes (s.newestRead pa 16)) ≠ 0) →
  ∃ t g, exec .parkedContextResume s = .next t ∧ kfind t.groups k = some g ∧ (∀ j, j ≠ k → kfind t.groups j = kfind s.groups j) ∧
    (t.part s.ev.core s.ev.part).parked = (s.part s.ev.core s.ev.part).parked.eraseIdx s.ev.n ∧ g.cur = x.g.cur ∧ g.regs = x.g.regs ∧
    g.tasks = x.g.tasks ∧ g.joins = x.g.joins ∧ g.aflags = x.g.aflags ∧ g.aen = x.g.aen ∧ g.wave = x.g.wave

-- ## Peers

/-- R298, R301, R305, R310 to R313, R315, R318, R319: a remote load, store or atomic sends each active lane's piece in a request for its peer and
line; the blocking forms then wait, and the posted ones go on. Lanes that name the own device use no port: where all do, the instruction completes at
once, each lane's access made in ascending order. An atomic with return whose trap might need a split for which the stack has no room asks for the checks
of its lanes first (R328, R330; that it does so in packets of their own is the model's choice, log 70). RSUBS gives its status at once or asks its peer;
that it gives 4 where the team has joined no domain is the model's choice (log 18). -/
def Obligations.RemoteInstructionsSend : Prop :=
  ∀ (s : State) (k : GKey) (g : Group) (p : Path), Issuing s k g p → ∀ (x : Pfx) (d a b : Reg),
  let u := k.tkey
  let dom := (s.team u).tdom.toNat
  let e := s.domainOf u
  let ready := s.joined u = true ∧ e.paused = false ∧ s.noPlane = false ∧ s.moving = [] ∧ (∀ n < 32, (s.port n).up = true) ∧
    (∀ n < 32, s.planeOf n < 32) ∧ ∀ r ∈ s.requests, r.peer ≠ s.selfNum
  let reaches := fun (peer : Nat) => peer < 512 ∧ peer ∈ e.members ∧ peer ≠ s.selfNum ∧ (kfind s.seqOut (dom, peer)).getD 0 + 32 < 2 ^ 48 - 1
  let op := (payload x).toNat % 16
  let wide := ratomWide x
  let first := fun (L : Fin 32) => if wide then g.seen2 d.toNat L else (g.seen d.toNat L).setWidth 64
  let second := fun (L : Fin 32) => if wide then g.seen2 (d.toNat + 2) L else (g.seen (d.toNat + 1) L).setWidth 64
  let zero := fun (_ : Fin 32) => 0#64
  let words := if wide then 2 else 1
  let atomSources := (List.range (if op = 9 then 2 * words else words)).map (d.toNat + ·)
  let off := fun (L : Fin 32) => (g.seen2 a.toNat L).toNat
  let peer := fun (L : Fin 32) => (g.seen b.toNat L).toNat
  let checksFirst := ratomNoReturn x = false ∧ g.full = true ∧ 1 < popcount p.ex ∧ g.checked ≠ some p.pc
  (∀ y ∈ ([(.rld d a b, none, .load, b.toNat :: pairRegs a.toNat, d.toNat :: b.toNat :: pairRegs a.toNat, 1, zero, zero),
      (.rst d a b, none, .store, d.toNat :: b.toNat :: pairRegs a.toNat, d.toNat :: b.toNat :: pairRegs a.toNat, 0,
        fun L => (g.seen d.toNat L).setWidth 64, zero),
      (.ratom x d a b, x, .atom op wide, b.toNat :: (pairRegs a.toNat ++ atomSources), b.toNat :: (pairRegs a.toNat ++ atomSources),
        if ratomNoReturn x then 0 else words, if op = 9 then second else first, if op = 9 then first else zero)] :
      List (Instr × Pfx × RKind × List Nat × List Nat × Nat × (Fin 32 → DWord) × (Fin 32 → DWord))),
    let kind := y.2.2.1
    let n := y.2.2.2.2.2.1
    let probes := y.1 = .ratom x d a b ∧ checksFirst
    ∀ asks : RKind, (probes → asks = .check wide) → (¬ probes → asks = kind) →
    Ready s k g p y.2.2.2.2.1 y.2.2.2.1 → ready → g.fences = [] → p.ex ≠ 0#32 → (n = 0 → g.posted.length < 32 ∧ ∀ q ∈ g.posted, q.id ≠ s.fresh) →
    (y.1 = .rst d a b ∨ n = 0 ∨ NoPosted g) →
    (∀ L : Fin 32, p.ex.getLsbD L = true → off L % kindBytes kind = 0 ∧ (n ≠ 0 ∧ peer L = s.selfNum ∧ peer L < 512 ∧ peer L ∈ e.members ∨ reaches (peer L) ∧
      (kind = .load → s.ucopy (peer L) dom (off L) = none ∧ s.subscribed (peer L) dom (off L) = false))) →
    (∃ L : Fin 32, p.ex.getLsbD L = true ∧ peer L ≠ s.selfNum) →
    ∃ t ids, exec y.1 s = .next t ∧ ids ≠ [] ∧ (∀ i ∈ ids, s.fresh ≤ i) ∧ t.mem = s.mem ∧ (∀ r ∈ s.requests, r ∈ t.requests) ∧
      (∀ L : Fin 32, p.ex.getLsbD L = true → ∃ r ∈ t.requests, r.id ∈ ids ∧ r.dom = dom ∧ r.peer = peer L ∧ r.kind = asks ∧
        { lane := L.val, off := off L, b := y.2.2.2.2.2.2.1 L, e := y.2.2.2.2.2.2.2 L } ∈ r.lanes ∧
        (∀ l ∈ r.lanes, l.off / 128 = off L / 128) ∧ r.plane = s.planeOf (planeEntry (peer L) ((r.lanes.head?.map (·.off)).getD 0)) ∧
        (peer L ≠ s.selfNum → ∃ z ∈ t.sent, z.peer = peer L ∧ z.dom = dom ∧ z.seq = r.seq ∧ z.plane = r.plane ∧ z.body = .request asks r.lanes)) ∧
      (n ≠ 0 → ∃ o, kfind t.groups k = some { g with runLen := 0, unready := some (g.unready.getD s.cycle), remote := some o } ∧ o.path = p ∧
        o.npc = p.pc + BitVec.ofNat 32 (pfxLen y.2.1) ∧ o.reg = g.wbasev + d.toNat ∧ o.words = n ∧ o.waiting = ids ∧ o.answers = [] ∧ o.fails = [] ∧ (o.probe = true ↔ probes)) ∧
      (n = 0 → ∃ h, kfind t.groups k = some h ∧ GoesOn h p (p.pc + BitVec.ofNat 32 (pfxLen y.2.1)) ∧ h.regs = g.regs ∧ h.aflags = g.aflags ∧
        h.posted = g.posted ++ [{ id := s.fresh, pc := p.pc, waiting := ids, fails := [], reads := match kind with
          | .atom _ _ => true
          | _ => false }])) ∧
  (s.joined u = true → e.paused = false → g.fences = [] → p.ex ≠ 0#32 → g.posted.length < 32 → NoPosted g → s.homes = [] → s.selfNum < 512 → s.selfNum ∈ e.members →
    (∀ r ∈ s.requests, r.id < s.fresh) → (∀ L : Fin 32, p.ex.getLsbD L = true → peer L = s.selfNum) → ∀ (P : Nat → Prop) (F : Fin 32 → Frame), s.tablesApart P →
    let meets := fun (n : Nat) (need : Need) => ∀ L : Fin 32, p.ex.getLsbD L = true → off L % n = 0 ∧ s.wrongKey (F L).pa (F L).key = false ∧
      s.steadyResolve P dom s.selfNum (off L) n need (.ok (F L)) ∧ ∀ M : Fin 32, p.ex.getLsbD M = true → (overlaps (F L).pa n (F M).pa n = true → off L = off M) ∧
        (lineOf (F L).pa = lineOf (F M).pa → (F L).key = (F M).key)
    let apart := fun (n pa : Nat) => ∀ L : Fin 32, p.ex.getLsbD L = true → pa < (F L).pa ∨ (F L).pa + n ≤ pa
    (Ready s k g p (d.toNat :: b.toNat :: pairRegs a.toNat) (b.toNat :: pairRegs a.toNat) → meets 4 .read →
      ∃ t h, exec (.rld d a b) s = .next t ∧ kfind t.groups k = some h ∧ GoesOn h p (p.pc + 4#32) ∧ h.remote = none ∧ (∀ pa, t.newest pa = s.newest pa) ∧
        ∀ L : Fin 32, p.ex.getLsbD L = true → (h.read (g.wbasev + d.toNat))[L] = BitVec.ofNat 32 (ofBytes (s.newestRead (F L).pa 4))) ∧
    (Ready s k g p (d.toNat :: b.toNat :: pairRegs a.toNat) (d.toNat :: b.toNat :: pairRegs a.toNat) → meets 4 .write →
      ∃ t h, exec (.rst d a b) s = .next t ∧ kfind t.groups k = some h ∧ GoesOn h p (p.pc + 4#32) ∧ h.regs = g.regs ∧ h.posted = [] ∧ h.pfail = [] ∧
        (∀ L : Fin 32, p.ex.getLsbD L = true → lastLane p.ex F L = true → ∀ i < 4, t.newest ((F L).pa + i) = (g.seen d.toNat L).extractLsb' (8 * i) 8) ∧
        ∀ pa, apart 4 pa → t.newest pa = s.newest pa) ∧
    (let m := if wide then 8 else 4
     let regs := b.toNat :: (pairRegs a.toNat ++ atomSources)
     Ready s k g p regs regs → meets m .both →
      (checksFirst → ∃ t h, exec (.ratom x d a b) s = .next t ∧ (∀ pa, t.newest pa = s.newest pa) ∧ k ∉ t.stalled ∧ kfind t.groups k = some h ∧ h.cur = some p ∧
        h.checked = some p.pc ∧ h.remote = none ∧ h.regs = g.regs) ∧
      (¬ checksFirst → ∃ t h old new, exec (.ratom x d a b) s = .next t ∧ kfind t.groups k = some h ∧ GoesOn h p (p.pc + BitVec.ofNat 32 (pfxLen x)) ∧
        h.remote = none ∧ h.posted = [] ∧
        Chain p.ex m (laneBefore p.ex F) (fun L => BitVec.ofNat 64 (ofBytes (s.newestRead (F L).pa m)))
          (fun L o => (remoteAtom op wide (if op = 9 then second L else first L) (if op = 9 then first L else 0#64) o).1) old new ∧
        (∀ L : Fin 32, p.ex.getLsbD L = true → lastLane p.ex F L = true → ∀ i < m, t.newest ((F L).pa + i) = (new L).extractLsb' (8 * i) 8) ∧
        (∀ pa, apart m pa → t.newest pa = s.newest pa) ∧
        (Flags.into g h p.ex fun L => (remoteAtom op wide (if op = 9 then second L else first L) (if op = 9 then first L else 0#64) (old L)).2) ∧
        (ratomNoReturn x = true → h.regs = g.regs) ∧
        (ratomNoReturn x = false → ∀ L : Fin 32, p.ex.getLsbD L = true → (h.read (g.wbasev + d.toNat))[L] = (old L).setWidth 32 ∧
          (wide = true → (h.read (g.wbasev + (d.toNat + 1)))[L] = (old L).extractLsb' 32 32))))) ∧
  (Ready s k g p (d.toNat :: pairRegs a.toNat) (d.toNat :: pairRegs a.toNat) → e.paused = false →
    let off := (g.seen2 a.toNat (lowestLane p.ex)).toNat
    let peer := (g.seen d.toNat (lowestLane p.ex)).toNat
    off % 4096 = 0 → ∀ y ∈ [(Instr.rsubs d a, true), (.rsubsOff d a, false)],
    let gives := fun (w : Word) => ∃ t h, exec y.1 s = .next t ∧
      Becomes s t k (g.onWith p none [{ reg := g.wbasev + d.toNat, mask := p.ex, vals := uniformLanes w, left := none }]) h
    ((s.joined u = false ∨ 512 ≤ peer ∨ peer ∉ e.members ∨ peer = s.selfNum) → gives 4#32) ∧
    (s.joined u = true → peer < 512 → peer ∈ e.members → peer ≠ s.selfNum →
      (s.subscribed peer dom off = y.2 → gives 1#32) ∧
      (s.subscribed peer dom off ≠ y.2 → (y.2 = true → 1024 ≤ s.subs.length + s.entriesAsked → gives 2#32) ∧
        ((y.2 = true → s.subs.length + s.entriesAsked < 1024) → (s.noPlane = true ∨ s.usedUp dom peer = true → gives 4#32) ∧
          (ready → reaches peer → ∃ t h, exec y.1 s = .next t ∧ kfind t.groups k = some h ∧ GoesOn h p (p.pc + 4#32) ∧ h.regs = g.regs ∧
            (h.pend.getLast? = some { reg := g.wbasev + d.toNat, mask := p.ex, vals := uniformLanes 0#32, left := none
                                      await := some (s.fresh, p.ex) }) ∧
            ∃ r ∈ t.requests, r.asker = .status k s.fresh ∧ r.peer = peer ∧ r.dom = dom ∧
              r.kind = (if y.2 then .subscribe else .unsubscribe) ∧ r.lanes.map (·.off) = [off] ∧ ∃ z ∈ t.sent, z.body = .request r.kind r.lanes)))))

/-- R300, R305, R306, R311 to R320: the device drops what its check refuses, serves a peer's request and sends its answer, gives a response to the
instruction that waits for it, fails a request whose time is over or whose packet is lost, gives up missing numbers, and takes pushes. The lanes of a
request are served in ascending order, each that its check refuses with its reason and without effect; a request for checks alone has none (log 70), and
with its answers the atomic that asked may issue again. -/
def Obligations.PeersAreServedAndAnswered : Prop :=
  ∀ (s : State) (x : RPacket), s.ev.pkt = some x →
  let dom := x.dom.toNat
  let src := x.src.toNat
  (s.acceptFrom x = none → ∀ i ∈ [Instr.remoteRequestReceive, .remoteResponseReceive, .nackReceive, .subscriptionPush], exec i s = .next s) ∧
  (∀ y, kfind s.domains dom = some y → y.valid = true → src ∈ y.members → (y.isSealed = true → x.auth = true) →
    kfind s.seqIn (dom, src) = none → ∃ t, s.acceptFrom x = some t ∧ ((kfind t.seqIn (dom, src)).bind (·.high)) = some x.seq ∧
      { t with seqIn := [], rekeyAsks := [] } = { s with seqIn := [], rekeyAsks := [] } ∧ t.acceptFrom x = none) ∧
  (∀ s1, s.acceptFrom x = some s1 → (kfind s1.seqOut (dom, src)).getD 0 < 2 ^ 48 - 1 →
    let sends := fun (t : State) (b : Body) => ∃ z ∈ t.sent, z.peer = src ∧ z.dom = dom ∧ z.body = b
    (∀ (m : Word) (off : Fin 32 → Nat) (b e : Fin 32 → DWord), m ≠ 0#32 → x.lanes = (maskLanes m).map (fun L => ⟨L.val, off L, b L, e L⟩) →
      s.planeHeld (planeEntry s.selfNum (off (lowestLane m))) = false → s1.homes = [] →
      ∀ (P : Nat → Prop) (A : Fin 32 → Resolved) (F : Fin 32 → Frame), s1.tablesApart P →
      let meets := fun (n : Nat) (need : Need) => ∀ L : Fin 32, m.getLsbD L = true → s1.steadyResolve P dom src (off L) n need (A L) ∧
        ∀ f, A L = .ok f → f = F L ∧ s1.wrongKey f.pa f.key = false ∧ ∀ (M : Fin 32) g, m.getLsbD M = true → A M = .ok g →
          (overlaps f.pa n g.pa n = true → off L = off M) ∧ (lineOf f.pa = lineOf g.pa → f.key = g.key)
      let good := lanesMask ((maskLanes m).filter fun L => match A L with
        | .ok _ => true
        | _ => false)
      let apart := fun (n pa : Nat) => ∀ L : Fin 32, good.getLsbD L = true → pa < (F L).pa ∨ (F L).pa + n ≤ pa
      let answers := fun (t : State) (value : Fin 32 → DWord) (fl : Fin 32 → Flags) => ∃ line, sends t (.response x.seq ((maskLanes m).map fun L => match A L with
        | .ok _ => ⟨L.val, value L, false, none, fl L⟩
        | .absent _ _ => if x.kind = .load then ⟨L.val, 0#64, true, none, 0#5⟩ else ⟨L.val, 0#64, false, some 6, 0#5⟩
        | .fail r => ⟨L.val, 0#64, false, some r, 0#5⟩) line)
      (x.kind = .load → meets 4 .read → ∃ t, exec .remoteRequestReceive s = .next t ∧ (∀ pa, t.newest pa = s1.newest pa) ∧
        answers t (fun L => BitVec.ofNat 64 (ofBytes (s1.newestRead (F L).pa 4))) fun _ => 0#5) ∧
      (∀ wide, x.kind = .check wide → meets (if wide then 8 else 4) .both → ∃ t, exec .remoteRequestReceive s = .next t ∧
        (∀ pa, t.newest pa = s1.newest pa) ∧ answers t (fun _ => 0#64) fun _ => 0#5) ∧
      (x.kind = .store → meets 4 .write → ∃ t, exec .remoteRequestReceive s = .next t ∧ answers t (fun _ => 0#64) (fun _ => 0#5) ∧
        (∀ L : Fin 32, good.getLsbD L = true → lastLane good F L = true → ∀ i < 4, t.newest ((F L).pa + i) = (b L).extractLsb' (8 * i) 8) ∧
        ∀ pa, apart 4 pa → t.newest pa = s1.newest pa) ∧
      ∀ op wide, x.kind = .atom op wide → let n := if wide then 8 else 4
        meets n .both → ∃ t old new, exec .remoteRequestReceive s = .next t ∧
        Chain good n (laneBefore good F) (fun L => BitVec.ofNat 64 (ofBytes (s1.newestRead (F L).pa n))) (fun L o => (remoteAtom op wide (b L) (e L) o).1) old new ∧
        answers t old (fun L => (remoteAtom op wide (b L) (e L) (old L)).2) ∧
        (∀ L : Fin 32, good.getLsbD L = true → lastLane good F L = true → ∀ i < n, t.newest ((F L).pa + i) = (new L).extractLsb' (8 * i) 8) ∧
        ∀ pa, apart n pa → t.newest pa = s1.newest pa) ∧
    (∀ l, x.lanes = [l] → s.planeHeld (planeEntry s.selfNum l.off) = false → x.kind = .subscribe → (∀ r ∈ s1.homes, ¬ (r.dom = dom ∧ r.page = l.off / 4096)) → s1.homes.length < 4096 →
      l.off + 4096 ≤ ((kfind s1.domains dom).getD {}).heapsz.toNat → ∃ t, exec .remoteRequestReceive s = .next t ∧
        t.homes = s1.homes ++ [{ dom := dom, page := l.off / 4096, subs := [src] }] ∧ sends t (.status x.seq 0)) ∧
    (x.kind = .barrier → ∃ t y, exec .remoteRequestReceive s = .next t ∧ kfind t.domains dom = some y ∧ src ∈ y.barriers) ∧
    (∃ t, exec .subscriptionPush s = .next t ∧ (s.planeHeld (planeEntry src s.ev.n) = false → sends t (.ack s.ev.n)) ∧
      (s1.subscribed src dom s.ev.n = true → (s1.ucopy src dom s.ev.n).isSome = true ∨ (s1.uSet src s.ev.n).length < 2 →
        t.ucopy src dom s.ev.n = some { block := sliceOf src (s.ev.n / 128), peer := src, dom := dom, line := s.ev.n / 128, bytes := s.ev.data, bad := s.ev.k == 1 }))) ∧
  (∀ s1 r, s.acceptFrom x = some s1 → s.ev.flag = false → s1.requests.find? (fun r => r.id = s.ev.n) = some r → r.dom = dom → r.peer = src →
    (∀ a ∈ s.ev.ans, a.fail = none ∧ a.lane < 32) → (s.ev.ans.map (·.lane)).Nodup → (∀ q ∈ s1.heldOut, s1.packetHeld q = true) →
    ∀ k g o, r.asker = .blocking k → kfind s1.groups k = some g → g.remote = some o → o.waiting = [r.id] → o.answers = [] → o.fails = [] →
    (o.probe = true → ∃ t h, exec .remoteResponseReceive s = .next t ∧ (∀ r ∈ t.requests, r.id ≠ s.ev.n) ∧ k ∉ t.stalled ∧ kfind t.groups k = some h ∧
      h.remote = none ∧ h.checked = some o.path.pc ∧ h.cur = g.cur ∧ h.regs = g.regs) ∧
    (o.probe = false → ∃ t h, exec .remoteResponseReceive s = .next t ∧ (∀ r ∈ t.requests, r.id ≠ s.ev.n) ∧ kfind t.groups k = some h ∧ h.remote = none ∧
      h.cur = some { o.path with pc := o.npc } ∧ ∀ a ∈ s.ev.ans, ∀ L : Fin 32, L.val = a.lane →
        (h.read o.reg)[L] = a.value.setWidth 32 ∧ (o.words = 2 → (h.read (o.reg + 1))[L] = a.value.extractLsb' 32 32) ∧
        (a.absent = true → h.nrm.getLsbD L = true) ∧ h.aflags[L] = g.aflags[L] ||| a.flags)) ∧
  (let lost := fun (i : Instr) (s1 : State) (r : Request) (reason : BitVec 8) => ∀ k op g q, r.asker = .posted k op → kfind s1.groups k = some g →
      g.posted.find? (fun q => q.id = op) = some q → q.waiting = [r.id] → q.fails = [] → (∀ l ∈ r.lanes, l.lane < 32) →
      (r.lanes.map (·.lane)).Nodup → ∀ l ∈ r.lanes, (∀ z ∈ r.lanes, l.lane ≤ z.lane) → ∃ t h, exec i s = .next t ∧ (∀ z ∈ t.requests, z.id ≠ r.id) ∧ kfind t.groups k = some h ∧ (∀ z ∈ h.posted, z.id ≠ op) ∧
        { id := op, offset := BitVec.ofNat 64 l.off, pc := q.pc, lanes := lanesMask ((List.finRange 32).filter fun L => r.lanes.any fun z => z.lane == L.val), reason := reason } ∈ h.pfail
   (∀ r, s.requests.find? (fun r => r.id = s.ev.n) = some r → r.peer ≠ s.selfNum → r.sent + 4800000 ≤ s.cycle →
      lost .requestTimeout s r 9#8) ∧
   (∀ s1 r, s.acceptFrom x = some s1 → s1.requests.find? (fun r => r.dom = dom && r.peer = src && r.seq = s.ev.n) = some r →
      s1.requests.find? (fun z => z.id = r.id) = some r → lost .nackReceive s1 r 8#8)) ∧
  let y := (kfind s.seqIn (s.ev.k, s.ev.m)).getD {}
  ∀ h, y.high = some h → s.ev.n < h → h ≤ s.ev.n + 4096 → s.ev.n ∉ y.given → (∀ z ∈ y.seen, z.1 ≠ s.ev.n) →
    (∃ z ∈ y.seen, s.ev.n < z.1 ∧ z.2 + 2400000 ≤ s.cycle) → (kfind s.seqOut (s.ev.k, s.ev.m)).getD 0 < 2 ^ 48 - 1 →
    s.planeHeld (planeEntry s.ev.m 0) = false → ∃ t z, exec .sequenceGap s = .next t ∧ kfind t.seqIn (s.ev.k, s.ev.m) = some { y with given := s.ev.n :: y.given } ∧ z ∈ t.sent ∧
      z.peer = s.ev.m ∧ z.dom = s.ev.k ∧ z.body = .nack s.ev.n

/-- R321 to R325: COLL START gives a ticket for a slot or the code of its refusal, WAIT and TEST give the status of the collective that a ticket
names (ILLEGAL where it names none), and a collective completes with its result written, or fails with its receive buffer zero, and then adds 1 to its
done counter. That it reads the newest bytes of its buffers is the model's choice (log 10), and so is how the data travels (log 77). -/
def Obligations.CollectivesRun : Prop :=
  (∀ (s : State) (k : GKey) (g : Group) (p : Path), Issuing s k g p → ∀ d a : Reg,
    let u := k.tkey
    let core := s.coreOf k
    let gives := fun (i : Instr) (s' : State) (w : Word) => ∃ t h, exec i s = .next t ∧ Becomes s' t k
      (g.onWith p none [{ reg := g.wbasev + d.toNat, mask := p.ex, vals := uniformLanes w, left := none }]) h
    let e := s.domainOf u
    (Ready s k g p (d.toNat :: pairRegs a.toNat) (pairRegs a.toNat) → NoPosted g → (s.domainOf u).paused = false → (∀ f ∈ g.fences, f.kind ≠ 3 ∧ f.kind ≠ 4) →
      s.rebuild = [] → ∀ f, s.access core ((s.team u).space g.mode) (g.seen2 a.toNat (lowestLane p.ex)) 64 .read = .ok f →
      let x := ofBytes (s.loadBytes core f 64)
      let seen := s.loaded core f 64 0
      let r := CollRec.ofRecord x
      (r.malformed x = true → gives (.collStart d a) seen 1#32) ∧
      (r.malformed x = false → (r.send % 16 ≠ 0 ∨ r.recv % 16 ≠ 0 ∨ r.donea.toNat % 8 ≠ 0) → gives (.collStart d a) seen 2#32) ∧
      (r.malformed x = false → r.send % 16 = 0 → r.recv % 16 = 0 → r.donea.toNat % 8 = 0 → ∀ bs, (s.view k g p none).maskBytes r.pset = .ok bs →
        let ps := (List.range 512).filter (ofBytes bs).testBit
        let known := s.selfNum ∈ ps ∧ (∀ z ∈ ps, z ∈ e.members) ∧ (r.op = 3 → r.root ∈ ps)
        let out := r.sendLen ps.length * r.size
        let back := r.recvLen ps.length * r.size
        let fits := r.send + out ≤ e.heapsz.toNat ∧ r.recv + back ≤ e.heapsz.toNat ∧
          (overlaps r.send out r.recv back = false ∨ ((r.op = 0 ∨ r.op = 3) ∧ r.send = r.recv))
        let runs := ∃ z ∈ s.colls, ∃ y, z.2.running = some y ∧ y.dom = (s.team u).tdom.toNat ∧ (CollRec.ofRecord y.record.toNat).tag = r.tag
        let new := fun (n : Nat) =>
          ({ s.coll n with
             gen := (s.coll n).gen + 1#8, slot := some k.slot, status := 0#32, mode := g.mode, core := core
             running := some { record := BitVec.ofNat 512 x, parts := ps, dom := (s.team u).tdom.toNat, start := s.cycle }
             asid := (s.team u).asid, ptb := (s.team u).ptb, ownkey := (s.team u).ownkey } : Coll)
        (¬ known → gives (.collStart d a) seen 3#32) ∧
        (known → ¬ fits → gives (.collStart d a) seen 4#32) ∧
        (known → fits → s.joined u = false → gives (.collStart d a) seen 5#32) ∧
        (known → fits → s.joined u = true → runs → gives (.collStart d a) seen 6#32) ∧
        (known → fits → s.joined u = true → ¬ runs → (s.freeColl = none → exec (.collStart d a) s = .next (s.holdIssue k [])) ∧
          ∀ n, s.freeColl = some n →
          gives (.collStart d a) (State.tellParts { seen with colls := kput s.colls n (new n) } (s.team u).tdom.toNat r.send ps
            fun _ => some (.collHead r.tag (collHeader ps x))) (BitVec.ofNat 32 (2 ^ 31 + 2 ^ 8 * ((s.coll n).gen + 1#8).toNat + n))))) ∧
    (Ready s k g p [d.toNat, a.toNat] [a.toNat] → ∀ i ∈ [Instr.collWait d a, .collTest d a],
      let t := (g.seen a.toNat (lowestLane p.ex)).toNat
      let c := s.coll (t % 2 ^ 6)
      let names := t / 2 ^ 16 = 2 ^ 15 ∧ t / 2 ^ 6 % 4 = 0
      (¬ names → Traps i s k g p none { cause := .illegal, lanes := p.ex }) ∧
      (names → (c.gen.toNat ≠ t / 2 ^ 8 % 2 ^ 8 ∨ c.slot ≠ some k.slot) → gives i s 0x40000000#32) ∧
      (names → c.gen.toNat = t / 2 ^ 8 % 2 ^ 8 → c.slot = some k.slot → (c.running = none → gives i s c.status) ∧
        (c.running ≠ none → gives (.collTest d a) s 0x80000000#32 ∧ exec (.collWait d a) s = .next (s.holdIssue k []))))) ∧
  ∀ (s : State) (q : CollRun),
  let n := s.ev.n
  let c := s.coll n
  let r := CollRec.ofRecord q.record.toNat
  let m := q.parts.length
  let me := q.parts.findIdx fun p => p == s.selfNum
  let ends := fun (i : Instr) (base : State) (st : Nat) =>
    let rel := base.releaseBuffers q
    ∃ t, exec i s = .next t ∧ (t.coll n).running = none ∧ (t.coll n).status = BitVec.ofNat 32 st ∧ (t.coll n).gen = c.gen ∧ (t.coll n).slot = c.slot ∧
      (r.donea = 0#64 → ∀ pa, t.newest pa = base.newest pa) ∧
      (r.donea ≠ 0#64 → ∀ f, rel.access c.core ⟨c.asid, c.ptb.toNat, c.ownkey.toNat, c.mode == .user⟩ r.donea 8 .both = .ok f →
        rel.wrongKey f.pa f.key = false → ofBytes (t.newestRead f.pa 8) = (ofBytes (rel.newestRead f.pa 8) + 1) % 2 ^ 64 ∧
        ∀ pa, pa < f.pa ∨ f.pa + 8 ≤ pa → t.newest pa = base.newest pa)
  let cleared := fun (s : State) => (s.heapWrite q.dom r.recv (List.replicate (r.recvLen m * r.size) (0#8, false))).1
  let len := r.sendLen m * r.size
  let came := s.acceptAll s.ev.pkts
  let s1 := came.1
  let own := if r.op ≠ 3 ∨ r.root = s.selfNum then s1.heapBytes q.dom r.send len else []
  let block := fun (p : Nat) => (s.ev.data.drop (p * (128 + len))).take (128 + len)
  let agree := ∀ p < m, p ≠ me → headerKey ((block p).take 128) = headerKey (collHeader q.parts q.record.toNat)
  let here := came.2 = true ∧ (∀ p ∈ q.parts, p ≠ s.selfNum → ∃ x ∈ s.ev.pkts, x.src.toNat = p) ∧
    (∀ x ∈ s.ev.pkts, x.dom.toNat = q.dom ∧ x.src.toNat ∈ q.parts) ∧ ∀ p < m, p ≠ me → headerTag ((block p).take 128) = r.tag
  let el := fun (p j : Nat) => if p = me then elemAt r.size (own.map fun b => (b.1, b.2.1)) j
    else ((elemAt r.size (((block p).drop 128).map fun b => (b, false)) j).1, s.ev.ans.any fun a => a.lane = p && a.value.toNat = j)
  let out := r.results me m (q.parts.findIdx fun p => p == r.root) el
  let w := (s1.sendElems q own).heapWrite q.dom r.recv (out.flatMap fun e => (bytesOf r.size e.1.1).map fun b => (b, e.1.2))
  c.running = some q →
  (s.collHeld q = true → exec .collectiveComplete s = .next s) ∧
  (s.collHeld q = false → (s.ev.flag = true ∨ s.collReach q = false → ends .collectiveComplete (cleared s) 16) ∧
    (s.ev.flag = false → s.collReach q = true → (¬ here → exec .collectiveComplete s = .next s1) ∧
      (here → ¬ agree → ends .collectiveComplete s1 8) ∧
      (here → agree → (∃ b ∈ own, b.2.2 = true) → ends .collectiveComplete (cleared s1) 16) ∧
      (here → agree → (∀ b ∈ own, b.2.2 = false) → (w.2 = true → ends .collectiveComplete (cleared w.1) 16) ∧
        (w.2 = false → ends .collectiveComplete w.1 (256 * (out.foldl (fun f e => f ||| e.2) 0#5).toNat + if ∃ e ∈ out, e.1.2 = true then 4 else 0))))) ∧
  (r.tmoms ≠ 0 → q.start + r.tmoms * 2400000 ≤ s.cycle → ends .collectiveTimeout (cleared s) 2)

/-- R321: the fields of a collective's record. R322: the elements of its buffers, and which element of which participant each element of the result
is, or which ones it folds, at participant `i` of `n`. R324: the records that code 0x01 refuses. R323: fold combines the participants' values one at a
time, in ascending order: floating sums are rounded once each, floating MIN and MAX are FMIN and FMAX (R129), integer sums wrap, and the flags of every
combine go to the status. R325: a result is poisoned where an element that it takes is. -/
def Obligations.CollectiveFolds : Prop :=
  (∀ x : Nat,
    let r := CollRec.ofRecord x
    let bits := fun (lo n : Nat) => x / 2 ^ lo % 2 ^ n
    r.send = bits 0 64 ∧ r.recv = bits 64 64 ∧ r.pset = bits 128 64 ∧ r.donea.toNat = bits 192 64 ∧ r.count = bits 256 32 ∧ r.tag = bits 288 32 ∧
    r.op = bits 320 4 ∧ r.dtype = bits 324 4 ∧ r.redop = bits 328 4 ∧ r.root = bits 336 9 ∧ r.tmoms = bits 352 32 ∧
    (r.malformed x = true ↔ bits 332 4 ≠ 0 ∨ bits 345 7 ≠ 0 ∨ bits 384 128 ≠ 0 ∨ 5 < bits 320 4 ∨ 5 < bits 324 4 ∨ 5 < bits 328 4 ∨
      (bits 336 9 ≠ 0 ∧ bits 320 4 ≠ 3) ∨ (3 ≤ bits 328 4 ∧ bits 324 4 < 3) ∨ (bits 256 32 ≠ 0 ∧ bits 320 4 = 5))) ∧
  ∀ r : CollRec, r.dtype < 6 → r.redop < 6 →
  let size := [4, 2, 2, 4, 4, 8].getD r.dtype 0
  let bits := 8 * size
  r.size = size ∧
  (∀ n, r.sendLen n = [r.count, n * r.count, r.count, r.count, n * r.count].getD r.op r.count - (if r.op = 5 then r.count else 0) ∧
    r.recvLen n = [r.count, r.count, n * r.count, r.count, n * r.count].getD r.op r.count - (if r.op = 5 then r.count else 0)) ∧
  (∀ a b : Nat, a < 2 ^ bits → b < 2 ^ bits →
    let key := fun (z : Nat) => if z < 2 ^ (bits - 1) then (z : Int) else (2 : Int) ^ (bits - 1) - z
    let below := key a < key b ∨ (a = 2 ^ (bits - 1) ∧ b = 0)
    let int := fun (z : Nat) => if r.dtype = 4 ∨ z < 2 ^ (bits - 1) then (z : Int) else (z : Int) - 2 ^ bits
    let c := r.combine a b
    (∀ F : FFormat, [fp32, bf16, fp16][r.dtype]? = some F →
      (r.redop = 0 → c = F.rne (sumTerms [F.decode a, F.decode b])) ∧
      (r.redop = 1 ∨ r.redop = 2 → c.2 = (if (F.decode a).isSig || (F.decode b).isSig then flagNV else 0#5) ∧
        c.1 = (if (F.decode a).isNan then (if (F.decode b).isNan then F.canonical else b) else if (F.decode b).isNan then a
          else if below then [a, b].getD (r.redop - 1) 0 else [b, a].getD (r.redop - 1) 0))) ∧
    (3 ≤ r.dtype → c.2 = 0#5 ∧ c.1 < 2 ^ bits ∧
      (r.redop = 0 → (c.1 = a + b ∨ c.1 + 2 ^ bits = a + b)) ∧
      (r.redop = 1 → (c.1 = a ∨ c.1 = b) ∧ int c.1 ≤ int a ∧ int c.1 ≤ int b) ∧
      (r.redop = 2 → (c.1 = a ∨ c.1 = b) ∧ int a ≤ int c.1 ∧ int b ≤ int c.1) ∧
      ∀ i, (r.redop = 3 → c.1.testBit i = (a.testBit i && b.testBit i)) ∧ (r.redop = 4 → c.1.testBit i = (a.testBit i || b.testBit i)) ∧
        (r.redop = 5 → c.1.testBit i = (a.testBit i ^^ b.testBit i)))) ∧
  (∀ x : Nat, r.fold [x] = (x, 0#5)) ∧
  (∀ (xs : List Nat) (y : Nat), xs ≠ [] →
    r.fold (xs ++ [y]) = ((r.combine (r.fold xs).1 y).1, (r.fold xs).2 ||| (r.combine (r.fold xs).1 y).2)) ∧
  ∀ (i n root : Nat) (el : Nat → Nat → Elem),
  let out := r.results i n root el
  let folds := fun (j y : Nat) => ∃ e, out[j]? = some e ∧ e.1.1 = (r.fold ((List.range n).map fun p => (el p y).1)).1 ∧
    e.2 = (r.fold ((List.range n).map fun p => (el p y).1)).2 ∧ (e.1.2 = true ↔ ∃ p < n, (el p y).2 = true)
  let takes := fun (j p y : Nat) => out[j]? = some (el p y, 0#5)
  (r.op < 6 → out.length = r.recvLen n) ∧
  ∀ j < r.count, (r.op = 0 → folds j j) ∧ (r.op = 1 → folds j (i * r.count + j)) ∧ (r.op = 3 → takes j root j) ∧
    ∀ p < n, (r.op = 2 → takes (p * r.count + j) p j) ∧ (r.op = 4 → takes (p * r.count + j) p (i * r.count + j))

/-- R298, R299, R301 to R303, R307 to R309, R367: replays count and take a port down, planes are remapped and recover, widths change, the device gets
its number, sessions open, keys load, and a re-key pauses, drains, passes its barriers and switches. That a joiner switches without waiting for
barriers is the model's choice (log 18), that SELFPEER[31] reads 1 once one port is up too (log 83), and how packets wait for a plane (log 68). -/
def Obligations.FabricSteps : Prop :=
  ∀ s : State,
  let n := s.ev.n
  let e := (kfind s.domains n).getD {}
  let dom := fun (t : State) => (kfind t.domains n).getD {}
  let free := fun (x : HeldPacket) => (kfind s.seqOut (x.dom, x.peer)).getD 0 < 2 ^ 48 - 1
  (s.heldOut = [] → s.sendHeld = s) ∧
  (∀ x, s.heldOut = [x] → (s.packetHeld x = true → s.sendHeld = s) ∧
    (s.packetHeld x = false → x.asker = none → free x → s.sendHeld.heldOut = [] ∧ ∃ z ∈ s.sendHeld.sent, z.peer = x.peer ∧ z.dom = x.dom ∧
      z.plane = s.planeOf (planeEntry x.home x.off) ∧ z.body = x.body)) ∧
  (n < 32 →
    ((s.port n).replay ≠ [] → ∃ t, exec .flitReplay s = .next t ∧ (kfind s.hcnt 3 = none → kfind t.hcnt 3 = some 1#32) ∧
      (t.port n).tries = (if s.ev.flag then 0 else (s.port n).tries + 1) ∧ (t.port n).up = (s.port n).up ∧
      (t.port n).replay = (if s.ev.flag then (s.port n).replay.tail else (s.port n).replay) ∧
      (s.ev.flag = false → 7 ≤ (s.port n).tries → ∃ due ∈ t.agenda, due.op = .portDown ∧ due.arg.n = n)) ∧
    (s.ev.flag = true ∨ 8 ≤ (s.port n).tries → ∃ t : State, exec .portDown s = .next t.sendHeld ∧ t.port n = { s.port n with up := false, tries := 0 } ∧
      (∀ j, j ≠ n → kfind t.ports j = kfind s.ports j) ∧ (∀ x, x ∈ t.moving ↔ x ∈ s.moving ∧ x.2 ≠ n) ∧
      { t with ports := [], moving := [] } = { s with ports := [], moving := [] }) ∧
    ((s.port n).up = false → (∀ r ∈ s.requests, r.plane = n → r.peer = s.selfNum) → ∀ q, s.livePlane n = some q →
      ∃ t : State, exec .planeRemap s = .next t.sendHeld ∧ { t with planeMap := [] } = { s with planeMap := [] } ∧
        ∀ h < 32, t.planeOf h = if s.planeOf h = n then q else s.planeOf h) ∧
    ((s.port n).up = false → ∃ t : State, exec .planeRecovery s = .next t.sendHeld ∧ t.port n = { s.port n with up := true, tries := 0 } ∧
      t.planeMap = s.planeMap ∧ t.selfPeer = (if s.numbered then s.selfPeer ||| 0x80000000#32 else s.selfPeer) ∧
      (∀ j, j ≠ n → kfind t.ports j = kfind s.ports j) ∧ ∀ x, x ∈ t.moving ↔ x.1 < 32 ∧ t.livePlane x.1 = some x.2 ∧ t.planeOf x.1 ≠ x.2) ∧
    ((s.port n).up = true → ∀ x, s.moving.find? (fun x => x.1 = s.ev.m) = some x → (∀ r ∈ s.requests, r.entry = x.1 → r.peer = s.selfNum) →
      ∃ t : State, exec .planeRecovery s = .next t.sendHeld ∧ t.planeOf x.1 = x.2 ∧ (∀ h, h ≠ x.1 → t.planeOf h = s.planeOf h) ∧ ∀ y ∈ t.moving, y.1 ≠ x.1) ∧
    (∃ t, exec .portWidthChange s = .next t ∧ t.port n = { s.port n with lanes := if s.ev.flag then 2 else 1 } ∧
      (∀ j, j ≠ n → kfind t.ports j = kfind s.ports j) ∧ { t with ports := [] } = { s with ports := [] })) ∧
  (∃ t : State, exec .peerNumberAssignment s = .next t.sendHeld ∧
    t.selfPeer = BitVec.ofNat 32 ((if ∀ j < 32, (t.port j).up = false then 0 else 2 ^ 31) + n % 512) ∧ t.numbered = true ∧
    (∀ j < 32, if s.ev.m.testBit j then t.port j = { s.port j with up := true, tries := 0 } else t.port j = s.port j) ∧
    ∀ j < 32, ∀ q, t.livePlane j = some q → t.planeOf j = q) ∧
  (∃ t, exec .spdmSession s = .next t ∧ { t with sessions := [] } = { s with sessions := [] } ∧
    ∀ j, j ∈ t.sessions ↔ if j = n then s.ev.flag = true else j ∈ s.sessions) ∧
  (s.ev.m ∈ s.sessions → ∃ t, exec .domainKeyLoad s = .next t ∧ { t with domains := [] } = { s with domains := [] } ∧
    (∀ j, j ≠ n → kfind t.domains j = kfind s.domains j) ∧ (s.ev.data = [] → dom t = { e with nextv := true }) ∧
    (s.ev.data ≠ [] → let x := ofBytes s.ev.data
      dom t = { e with
        heapb := BitVec.ofNat 64 x, heapsz := BitVec.ofNat 64 (x / 2 ^ 64), ptb := BitVec.ofNat 64 (x / 2 ^ 128 % 2 ^ 39 * 8192)
        asid := BitVec.ofNat 16 (x / 2 ^ 192), ownkey := BitVec.ofNat 12 (x / 2 ^ 208), valid := x.testBit 220, isSealed := x.testBit 221
        nextv := true })) ∧
  (s.ev.m ∉ s.sessions → exec .domainKeyLoad s = .next s) ∧
  let plain := ∀ o ∈ s.owed, ∀ r ∈ s.requests, r.id = o.num → r.kind ≠ .subscribe
  (let new := (List.range 512).filter (ofBytes s.ev.data).testBit
   ∃ t, exec .memberMaskUpdate s = .next t ∧ (dom t).members = new ∧ (dom t).paused = true ∧ (dom t).sentBarrier = false ∧
    (∀ j, j ∈ (dom t).joining ↔ j ∈ new ∧ j ∉ e.members) ∧ (plain → ∀ x ∈ t.subs, x.dom = n → x.peer ∈ new) ∧
    (∀ x ∈ t.homes, x.dom = n → ∀ j ∈ x.subs, j ∈ new) ∧ ∀ x ∈ t.pushes, x.dom = n → x.peer ∈ new) ∧
  (e.paused = true → e.sentBarrier = false → s.selfNum ∉ e.joining → (∀ r ∈ s.requests, r.dom ≠ n) →
    ∃ t, exec .rekeyBarrierSend s = .next t ∧ dom t = { e with sentBarrier := true } ∧
      ∀ j ∈ e.members, j ∉ e.joining → j ≠ s.selfNum → (kfind s.seqOut (n, j)).getD 0 < 2 ^ 48 - 1 →
        s.planeHeld (planeEntry j 0) = false → ∃ z ∈ t.sent, z.peer = j ∧ z.dom = n ∧ z.body = .barrier) ∧
  (e.paused = true → e.nextv = true →
    (s.selfNum ∈ e.joining ∨ (e.sentBarrier = true ∧ ∀ j ∈ e.members, j ∉ e.joining → j ≠ s.selfNum → j ∈ e.barriers)) →
    s.barrierHeld n = false → ∃ t : State, exec .rekeySwitch s = .next t.sendHeld ∧ dom t =
        { e with ksel := !e.ksel, nextv := false, paused := false, joining := [], sentBarrier := false, barriers := [] } ∧
      (∀ j, kfind t.seqOut (n, j) = none ∧ kfind t.seqIn (n, j) = none) ∧ n ∉ t.rekeyAsks ∧ ∀ i j, i ≠ n → kfind t.seqOut (i, j) = kfind s.seqOut (i, j)) ∧
  (e.paused = true → ∃ t, exec .rekeyTimeout s = .next t ∧ (∀ j, j ∈ (dom t).members ↔ j ∈ e.members ∧ j ≠ s.ev.m) ∧
    (plain → ∀ x ∈ t.subs, x.dom = n → x.peer ≠ s.ev.m))

-- ## Issue, the scheduler and pre-emption

/-- R19, R66 to R69, R76, R77, R350: a free rod pair goes to the least recently issued candidate; runs end, groups enter and leave the active set,
quanta expire, results arrive, and breakpoints and single steps trap. Where a single step leaves its group without a path, that the trap waits for
the next one is the model's choice (log 78), and so is what stands pending meanwhile (log 31). -/
def Obligations.IssueSteps : Prop :=
  ∀ s : State,
  let k := s.ev.key
  let c := s.coreOf k
  let active := (s.part s.ev.core s.ev.part).active
  let set := fun (t : State) => (t.part c (k.g % 4)).active
  let out := fun (core part : Nat) (j : GKey) => (∃ g, kfind s.groups j = some g) ∧ s.coreOf j = core ∧ j.g % 4 = part ∧ s.candidate j = true ∧
    j ∉ (s.part core part).active
  let first := fun (w j : GKey) => j = w ∨ (s.group w).lastIssue < (s.group j).lastIssue ∨
    ((s.group w).lastIssue = (s.group j).lastIssue ∧ s.slotOf w < s.slotOf j)
  ((4 ≤ (s.runs.filter fun j => s.coreOf j = s.ev.core && j.g % 4 = s.ev.part).length ∨ (∀ j ∈ active, s.candidate j = false ∨ s.entered j = false)) →
    exec .issueArbitration s = .next s) ∧
  (∀ w ∈ active, s.candidate w = true → s.entered w = true → (s.runs.filter fun j => s.coreOf j = s.ev.core && j.g % 4 = s.ev.part).length < 4 →
    (∀ j ∈ active, s.candidate j = true → s.entered j = true → first w j) →
    exec .issueArbitration s = .next { s with runs := w :: s.runs, focus := some w }) ∧
  (∀ w g, out s.ev.core s.ev.part w → kfind s.groups w = some g → (∀ j, out s.ev.core s.ev.part j → first w j) → active.length < 8 →
    ∃ t h, exec .activeSetEntry s = .next t ∧ (t.part s.ev.core s.ev.part).active = active ++ [w] ∧ kfind t.groups w = some h ∧
      h.regs = g.drainFixed.regs ∧ h.cur = g.cur ∧ h.runFrom = s.cycle + 4 ∧ ∀ q ∈ h.pend, q.left = none) ∧
  ∀ g, kfind s.groups k = some g →
  (k ∈ s.runs → 24 ≤ g.runLen → ∃ t, exec .runLimit s = .next t ∧ kfind t.groups k = some { g with runLen := 0 } ∧
    t.runs = s.runs.filter (· ≠ k) ∧ { t with groups := [], runs := [], stalled := [] } = { s with groups := [], runs := [], stalled := [] }) ∧
  (s.runReady k = false → k ∉ s.runs → (∃ a, g.unready = some a ∧ a + 64 ≤ s.cycle) → (∃ j, out c (k.g % 4) j) →
    ∃ t, exec .activeSetEviction s = .next t ∧ set t = (set s).filter (· ≠ k) ∧ kfind t.groups k = some { g with cached := [] } ∧
      { t with parts := [], groups := [] } = { s with parts := [], groups := [] }) ∧
  (∃ t h, exec .fixedLatencyWriteback s = .next t ∧ kfind t.groups k = some h ∧ (∀ q ∈ h.pend, q.left ≠ some 0) ∧
    (∀ (n : Nat) (L : Fin 32), g.live.getLsbD L = true → (h.read n)[L] = (g.read n)[L]) ∧ h.cur = g.cur ∧
    { t with groups := [] } = { s with groups := [] }) ∧
  (∀ q i, ((g.pend.zipIdx.filter fun p => p.1.left == none && p.1.await == none)[s.ev.n]?) = some (q, i) →
    ∃ t h, exec .interlockedWriteComplete s = .next t ∧ kfind t.groups k = some h ∧ k ∉ t.stalled ∧
      h.pend = dropLanes q.reg q.mask (g.pend.take i) ++ g.pend.drop (i + 1) ∧ h.nrm = g.nrm ||| q.absent ∧ h.cur = g.cur ∧
      (∀ n, n ≠ q.reg → h.reg n = g.reg n) ∧
      ∀ L : Fin 32, h.aflags[L] = g.aflags[L] ||| q.flags[L] ∧ (if q.mask.getLsbD L then (h.reg q.reg).vals[L] = q.vals[L]
        else (h.reg q.reg).vals[L] = (g.reg q.reg).vals[L] ∨ (g.live.getLsbD L = false ∧ (h.reg q.reg).vals[L] = q.vals[lowestLane q.mask]))) ∧
  (g.cur = none → exec .singleStepTrap s = .next (s.setGroup k { g with stepDue := true })) ∧
  ∀ p, g.cur = some p →
  (1024 ≤ g.quantum → (∀ e ∈ g.stack.drop (frameBase g.stack), e.isReady = false) → exec .quantumExpiry s = .next (s.setGroup k { g with quantum := 0 })) ∧
  (∀ below (e : Entry) above, 1024 ≤ g.quantum → g.stack = below ++ e :: above → frameBase g.stack ≤ below.length → e.isReady = true →
    (∀ x ∈ below.drop (frameBase g.stack), x.isReady = false) →
    ∃ t h, exec .quantumExpiry s = .next t ∧ kfind t.groups k = some h ∧ h.cur = some ⟨e.pc, e.mask, e.fmt⟩ ∧
      h.stack = below ++ above ++ [⟨.path .ready, p.pc, p.ex, p.fmt⟩] ∧ h.quantum = 0 ∧ h.regs = g.regs ∧ k ∉ t.runs) ∧
  let m : Mode := if g.mode = .user then .supervisor else g.mode
  let brk := fun (i : Instr) (n : Nat) => g.openInto m < 4 → (g.bank m).tvec.toNat % 4 = 0 →
    ∃ t h, exec i s = .next t ∧ kfind t.groups k = some h ∧ h.mode = m ∧ h.cur = some { p with pc := (g.bank m).tvec } ∧
      h.stack = g.stack ++ [⟨.trap g.mode 0#32, p.pc, p.ex, p.fmt⟩] ∧
      h.bank m = ⟨(g.bank m).tvec, BitVec.ofNat 32 (6 + 256 * n), 0#64, p.ex, p.pc⟩ ∧ t.mem = s.mem
  let bp := fun (i : Nat) => (kfind (s.team k.tkey).bps i).getD 0#32
  (∀ i < 4, g.mode = .user → g.exempt ≠ some p.pc → bp i = p.pc ||| 1#32 → p.pc.toNat % 4 = 0 → (∀ j < i, ¬ ((bp j).getLsbD 0 = true ∧ bp j &&& 0xFFFFFFFC#32 = p.pc)) →
    brk .breakpointTrap (1 + i)) ∧
  brk .singleStepTrap 0x10

/-- R143, R292 to R297: the scheduler reads the wait counters, serves grids in turn, places each new team on a core that it fits, raises the priority
of grids that wait, ends slices, and ends a grid with its writes visible and its counter increased. That the end of a grid performs every write on its
way, and not its own alone, is the model's choice (log 56), and so is which cores and slots are taken of those that fit (log 50). -/
def Obligations.SchedulerSteps : Prop :=
  ∀ s : State,
  let n := s.ev.n
  (∀ gr, kfind s.grids n = some gr →
    (gr.eligible = false →
      let reached := fun (a b : DWord) => ∃ f, s.access noCore (gr.lr.space (gr.launcher == .user)) a 8 .read = .ok f ∧
        b.toNat ≤ ofBytes (s.loadBytes noCore f 8)
      ∃ t h, exec .waitCounterCheck s = .next t ∧ kfind t.grids n = some h ∧ (h.seen0 = true ↔ gr.seen0 = true ∨ reached gr.lr.wait0a gr.lr.wait0t) ∧
        (h.seen1 = true ↔ gr.seen1 = true ∨ reached gr.lr.wait1a gr.lr.wait1t) ∧ (h.eligible = true ↔ h.seen0 = true ∧ h.seen1 = true) ∧
        { t with grids := [] } = { s with grids := [] } ∧ ∀ j, j ≠ n → kfind t.grids j = kfind s.grids j) ∧
    (s.waiting n = true → gr.agedAt + 120000000 ≤ s.cycle → ∃ t h, exec .priorityAging s = .next t ∧ kfind t.grids n = some h ∧
      h.prio = min 7 (gr.prio + 1) ∧ h.agedAt = gr.agedAt + 120000000 ∧ { t with grids := [] } = { s with grids := [] }) ∧
    (s.gridDone n = true → ∃ t, exec .gridEnd s = .next t ∧ kfind t.grids n = none ∧ (∀ u : TKey, u.slot = n → kfind t.teams u = none) ∧ t.writes = [] ∧
      (∀ x ∈ t.saved, x.team.slot ≠ n) ∧ (∀ x ∈ t.subs, x.slot ≠ n) ∧ (∀ b ∈ t.bounds, b.1.1 ≠ n) ∧
      let s1 := s.propagate fun _ => true
      ∀ f, s.heldOut = [] → gr.lr.done ≠ 0#64 → s1.access noCore (gr.lr.space (gr.launcher == .user)) gr.lr.done 8 .both = .ok f → s1.wrongKey f.pa f.key = false →
        ofBytes (t.newestRead f.pa 8) = (ofBytes (s.newestRead f.pa 8) + 1) % 2 ^ 64)) ∧
  (∀ slot rect gr, s.turn (if s.ev.flag then some s.ev.k else none) = some (slot, none, rect) → kfind s.grids slot = some gr →
    let r := gr.lr
    let mine := (s.nextCluster slot).zip rect
    (∀ x ∈ rect, s.working x = true ∧ gr.inInstance x = true) ∧
    (∀ x ∈ mine, x.1.team ∉ gr.ended → kfind s.teams x.1 = none → s.fitsNew x.2 r = true) ∧
    ∃ t y, exec .teamPlacement s = .next t ∧ kfind t.grids slot = some y ∧ y.lr = r ∧ y.raise = 0 ∧ y.agedAt = s.cycle ∧
      y.instOf = gr.instOf.or (some (rect.headD 0)) ∧ y.nextTeam = s.nextStart slot + r.clusterSize ∧
      (∀ u, u ∉ s.nextCluster slot → kfind t.teams u = kfind s.teams u) ∧
      ∀ x ∈ mine, x.1.team ∉ gr.ended → (t.core x.2).pword = r.pword ∧
        (∃ y, kfind t.teams x.1 = some y ∧ y.core = x.2 ∧ y.asid = r.asid ∧ y.ptb = r.ptb ∧ y.ownkey = r.ownkey ∧ y.spad = [] ∧ y.handles = [] ∧
          y.colUnits = r.colu ∧ y.slice = s.cycle + 2400 * (if r.sliceus = 0 then 2000 else r.sliceus)) ∧
        ∀ i < r.tsize, ∃ h, kfind t.groups ⟨slot, x.1.team, i⟩ = some h ∧ h.cur = some ⟨r.entry, 0xFFFFFFFF#32, 0#32⟩ ∧ h.mode = .user ∧ h.stack = [] ∧
          h.wsize = 8 * (r.regs + 1) ∧ h.pend = [] ∧
          ∀ L : Fin 32, (h.read 0)[L] = loWord r.param ∧ (h.read 1)[L] = hiWord r.param ∧ ∀ m, 2 ≤ m → (h.read m)[L] = 0#32) ∧
  ∀ x, kfind s.teams s.ev.key.tkey = some x → x.stop = false → x.gone = false → x.slice ≤ s.cycle →
    let t := s.ev.key.tkey
    let hot := x.usedMatrix = true ∧ (s.pair x.core).hot = true ∧ (s.record t).beam = false
    let rival := ∃ g ∈ s.grids, s.waiting g.1 = true ∧ (s.grid t.slot).prio ≤ g.2.prio
    let stops := fun (m : Nat) => exec .sliceEnd s = .next { s with agenda := ⟨.preemptionStop, { key := s.ev.key, n := m }⟩ :: s.agenda }
    (hot → stops 3) ∧ (¬ hot → rival → stops 2) ∧
    (¬ hot → ¬ rival → exec .sliceEnd s = .next (s.setTeam t
      { x with slice := s.cycle + 2400 * (if (s.record t).sliceus = 0 then 2000 else (s.record t).sliceus) }))

/-- R339 to R347, R349, R352: a cluster stops where its images have room; a drained team is saved, its entry and image written and its places
released; a saved cluster comes back; a team is killed; hold requests are taken up; and a pending save slot takes effect. What stands beside the image,
and the room kept for it, which a new slot ends, are the model's choice (log 46), and so is the fate of a hold request for a team that is being killed
or has one already (log 57). A stop that comes while a cluster-mate is being killed is made later: it stays asked for. -/
def Obligations.PreemptionSteps : Prop :=
  ∀ s : State,
  let t := s.ev.key.tkey
  let here := s.clusterHere t
  let stopped := fun (s' : State) (u : TKey) => ∃ x y, kfind s.teams u = some x ∧ kfind s'.teams u = some y ∧ y.stop = true ∧ y.asked = false ∧
    y.spad = x.spad ∧ y.handles = x.handles ∧ y.tiles = x.tiles ∧ (∀ k ∈ s'.runs, k.tkey ≠ u) ∧
    ∀ k g, k.tkey = u → kfind s.groups k = some g → kfind s'.groups k = some { g with runLen := 0 }
  let gone := fun (s' : State) (u : TKey) => kfind s'.teams u = none ∧ ∀ k, k.tkey = u → kfind s'.groups k = none
  (s.isResident t = true → (s.team t).killed = false → (∃ u ∈ here, (s.team u).killed = true) → (2 ≤ s.ev.n → exec .preemptionStop s = .next s) ∧
    (s.ev.n < 2 → ∃ s', exec .preemptionStop s = .next s' ∧ { s' with teams := [] } = { s with teams := [] } ∧
      (∀ u, u ≠ t → kfind s'.teams u = kfind s.teams u) ∧ s'.team t = { s.team t with asked := true, hold := s.ev.flag || (s.team t).hold })) ∧
  (s.isResident t = true → (∀ u ∈ here, (s.team u).killed = false) →
    ((∀ u ∈ here, (s.team u).stop = false) → (s.clusterRoom t).isSome = true → ∃ s', exec .preemptionStop s = .next s' ∧ (∀ u ∈ here, stopped s' u) ∧
      (∀ u ∈ here, ∃ r, (s'.team u).room = some r ∧ r.len = s.imageLength u ∧ ∀ v ∈ here, v ≠ u → ∀ z, (s'.team v).room = some z →
        r.ovf = z.ovf → (r.ovf = true ∨ (s.team u).core = (s.team v).core) → overlaps r.addr r.len z.addr z.len = false) ∧
      s'.mem = s.mem ∧ (∀ u ∈ here, (s'.team u).rotate = true ↔ s.ev.n = 3) ∧
      ((s'.team t).hold = true ↔ s.ev.flag = true ∨ (s.team t).hold = true)) ∧
    ((∀ u ∈ here, (s.team u).stop = false) → s.clusterRoom t = none → ∃ s', exec .preemptionStop s = .next s' ∧
      { s' with teams := [] } = { s with teams := [] } ∧
      (2 ≤ s.ev.n → ∀ u ∈ here, (s'.team u).slice = s.cycle + (s.record u).sliceCycles ∧ (s'.team u).stop = false) ∧
      (s.ev.n < 2 → s'.team t = { s.team t with asked := true, hold := s.ev.flag || (s.team t).hold })) ∧
    ((∃ u ∈ here, (s.team u).stop = true) → ∃ s', exec .preemptionStop s = .next s' ∧ s'.groups = s.groups ∧
      s'.team t = { s.team t with hold := s.ev.flag || (s.team t).hold })) ∧
  (∀ x gr, kfind s.teams t = some x → kfind s.grids t.slot = some gr → x.stop = true → x.killed = false → s.teamDrained t = true →
    (s.savePlace t = none → exec .contextSave s = .next s) ∧
    ((s.core x.core).ctxPend = none → ∀ r, x.room = some r → s.savePlace t = some { r with entry := x.holdAt.getD r.entry }) ∧
    ∀ i ovf a len, s.savePlace t = some ⟨i, ovf, a, len⟩ →
      let s0 := (s.modGroups t fun g => Group.completeAll (fun p => p.await.isNone) [] g.pend g).settleFences t
      let mine := s.storedFor t
      let room := gr.overflow.length + mine.length ≤ gr.lr.overflowCap
      ∃ s', exec .contextSave s = .next s' ∧ gone s' t ∧ (∀ k, k.tkey ≠ t → kfind s'.groups k = kfind s.groups k) ∧
        s'.dirEntry x.core i = dirWord t a (s.imageLength t / 1024) ovf x.hold % 2 ^ 128 ∧
        (ovf = false → i < 256 → cellRead (s'.core x.core).column a (s.imageLength t) = s0.imageOf t) ∧
        ∃ y ∈ s'.saved, y.team = t ∧ y.core = x.core ∧ y.entry = i ∧ y.ovf = ovf ∧ y.addr = a ∧ y.keep.seq = x.seq + 1 ∧ y.keep.stop = false ∧
          y.packets = (if room then [] else mine) ∧ (s'.grid t.slot).overflow = (if room then mine ++ gr.overflow else gr.overflow) ∧ ∀ q ∈ (s'.core x.core).store, q.owner ≠ t) ∧
  (∀ slot u rect, s.turn none = some (slot, some u, rect) →
    let xs := ((s.clusterTeams u).zip rect).filterMap fun p => (s.savedOf p.1).map fun x => (x, p.2)
    ((∃ p ∈ xs, s.badImage p.1 = true) → exec .contextRestore s = .next { s with
      agenda := ((xs.filter fun p => s.badImage p.1).map fun p => ⟨.teamKill, { key := ⟨p.1.team.slot, p.1.team.team, 0⟩, flag := true }⟩) ++ s.agenda }) ∧
    ((∀ p ∈ xs, s.badImage p.1 = false) → exec .contextRestore s = .next (State.checkGridBarrier (State.checkClusterBarrier (State.serve1
      (xs.foldl (fun (s : State) p => s.restoreTeam p.1 p.2 ((s.freeBase p.2 (s.savedSlots p.1)).getD 0)
        (if p.2 = p.1.core then p.1.keep.colUnit else (s.freeUnits p.2 p.1.keep.colUnits).getD 0)) s) slot ((xs.head?.map (·.2)).getD 0)) u) slot))) ∧
  (∀ x c base unit, s.imageTeam x = x.team →
      let s' := s.restoreTeam x c base unit
      (∃ y, kfind s'.teams x.team = some y ∧ y.core = c ∧ y.base = base ∧ y.colUnit = unit ∧ y.slice = s.cycle + (s.record x.team).sliceCycles ∧
          y.asid = x.keep.asid ∧ y.ptb = x.keep.ptb ∧ y.ownkey = x.keep.ownkey) ∧ (∀ y ∈ s'.saved, y.team ≠ x.team) ∧
      (s'.core c).pword = s.imagePword x ∧
      ((∀ k, k.tkey = x.team → kfind s.groups k = none) → ∀ i g, g = Group.ofImage (s.imageRead x) (0x3000 + 2048 * i)
          ((imageMap (s.imageRead x) (s.record x.team) x.keep.spRows).regs + 128 * (s.record x.team).wsize *
            (((imageMap (s.imageRead x) (s.record x.team) x.keep.spRows).live.filter fun j => decide (j < i)).length))
          ((kfind x.groups ⟨x.team.slot, x.team.team, i⟩).getD { wsize := (s.record x.team).wsize, wave := decide ((s.record x.team).tsize ≤ i) }) →
        i ∈ (imageMap (s.imageRead x) (s.record x.team) x.keep.spRows).live → ∃ h, kfind s'.groups ⟨x.team.slot, x.team.team, i⟩ = some h ∧
          (g.inMonw = false → h.regs = g.regs) ∧ h.mode = g.mode ∧ h.wbasev = g.wbasev ∧ h.sbank = g.sbank ∧ h.aen = g.aen)) ∧
  (∀ gr, kfind s.grids t.slot = some gr → t.team ∉ gr.ended →
    (∀ x, kfind s.teams t = some x → x.gone = false → x.killed = false → ∃ s' y, exec .teamKill s = .next s' ∧ kfind s'.teams t = some y ∧ y.stop = true ∧ y.killed = true ∧
      (∀ k ∈ s'.runs, k.tkey ≠ t) ∧ ∀ v, kfind s.hcnt 6 = some v → kfind s'.hcnt 6 = some (if v = 0xFFFFFFFF#32 then v else v + 1#32)) ∧
    (∀ x, kfind s.teams t = some x → x.gone = false → x.killed = true → s.teamDrained t = true →
      (∀ p, ∀ l ∈ (s.part x.core p).latches, l.gang.team ≠ t) →
      ∃ s', exec .teamKill s = .next s' ∧ (∀ k, k.tkey = t → kfind s'.groups k = none) ∧ (∀ q ∈ (s'.grid t.slot).overflow, q.owner ≠ t) ∧
        ((∀ r ∈ s.rings, r.team ≠ t) → kfind s'.teams t = none ∧ t.team ∈ (s'.grid t.slot).ended) ∧
        ((∃ r ∈ s.rings, r.team = t) → ∃ y, kfind s'.teams t = some y ∧ y.gone = true)) ∧
    (kfind s.teams t = none → (∀ x ∈ s.saved, x.team ≠ t) → t.team < gr.lr.teamCount → ∃ s', exec .teamKill s = .next s' ∧ (s'.grid t.slot).ended = t.team :: gr.ended ∧
      ∀ q, q ∈ (s'.grid t.slot).overflow ↔ q ∈ gr.overflow ∧ q.owner ≠ t) ∧
    (kfind s.teams t = none → (∀ c ∈ s.copies, c.key.tkey ≠ t) → (∀ p ∈ s.parts, ∀ o ∈ p.2.matQ, o.team ≠ t) →
      (∀ r ∈ s.rings, r.team ≠ t) → ∀ x, s.savedOf t = some x →
      (∀ p, ∀ l ∈ (s.part x.core p).latches, l.gang.team ≠ t) →
      ∃ s', exec .teamKill s = .next s' ∧ kfind s'.teams t = none ∧ (∀ k, k.tkey = t → kfind s'.groups k = none) ∧ t.team ∈ (s'.grid t.slot).ended ∧
        ∀ y ∈ s'.saved, y.team ≠ t)) ∧
  let c := s.ev.core
  (∀ i, (List.range 256).find? (s.holdAsked c) = some i →
    let u : TKey := ⟨s.dirEntry c i / 2 ^ 24 % 256, s.dirEntry c i / 2 ^ 32 % 2 ^ 32⟩
    let may := fun (x : Team) => x.core = c ∧ x.killed = false ∧ x.holdAt = none
    (∀ x, kfind s.teams u = some x → may x → exec .holdRequest s = .next { s with
      teams := kput s.teams u { x with holdAt := some i }, agenda := ⟨.preemptionStop, { key := ⟨u.slot, u.team, 0⟩, flag := true }⟩ :: s.agenda }) ∧
    ((∀ x, kfind s.teams u = some x → ¬ may x) → ∃ s', exec .holdRequest s = .next s' ∧ s'.dirEntry c i = 0 ∧ { s' with cores := [] } = { s with cores := [] })) ∧
  ∀ p, (s.core c).ctxPend = some p →
  (((∃ x ∈ s.saved, x.core = c ∧ x.ovf = false) ∨ s.allotmentAbove c (slotStart p) = true) → exec .ctxbaseTakeEffect s = .next s) ∧
  ((∀ x ∈ s.saved, x.core = c → x.ovf = true) → s.allotmentAbove c (slotStart p) = false →
    ∃ s', exec .ctxbaseTakeEffect s = .next s' ∧ (s'.core c).ctx = p ∧ (s'.core c).ctxPend = none ∧
      (∀ u x, kfind s.teams u = some x →
        kfind s'.teams u = some (if x.core = c ∧ x.room.any (fun r => !r.ovf) = true then { x with room := none } else x)) ∧
      ∀ i < 256, s'.dirEntry c i = open Classical in if ∃ x ∈ s.saved, x.core = c ∧ x.entry = i then s.dirEntry c i else 0)

-- ## Debug, power and management

/-- R341, R350 to R355: the monitor serves the request in the mailbox of its core: it does the command on a held team, or gives the status that says
why not, and acknowledges the request. That a whole service is one step is log 3. -/
def Obligations.MonitorServes : Prop :=
  ∀ s : State,
  let c := s.ev.core
  let m := s.mail c
  let box := s.mailbox c
  s.dbgBase % 4096 = 0 →
  let named := [(Instr.debugResume, 2), (.debugRdreg, 3), (.debugWrreg, 4), (.debugStep, 7), (.debugSetbp, 8), (.debugClrbp, 9)]
  let all := (Instr.debugHalt, 1) :: (.debugRdmem, 5) :: (.debugWrmem, 6) :: (.debugList, 10) :: named
  let served := fun (i : Instr) (st : Nat) (also : State → Prop) => ∃ t, exec i s = .next t ∧ ofBytes (t.mailRead c 4 4) = m.req ∧
    ofBytes (t.mailRead c 18 1) = st ∧ also t
  (∀ y ∈ all, (m.req = m.ack ∨ ((1 ≤ m.cmd ∧ m.cmd ≤ 10) ∧ m.cmd ≠ y.2)) → exec y.1 s = .next s) ∧
  (∀ y ∈ all, (m.cmd = y.2 ∨ m.cmd = 0 ∨ 10 < m.cmd) → m.req ≠ m.ack → m.req ≠ (m.ack + 1) % 2 ^ 32 → served y.1 5 fun t => t.cores = s.cores) ∧
  (∀ y ∈ all, (m.cmd = 0 ∨ 10 < m.cmd) → m.req = (m.ack + 1) % 2 ^ 32 → served y.1 3 fun t => t.cores = s.cores) ∧
  (m.req = (m.ack + 1) % 2 ^ 32 →
    let absent := (∀ x ∈ s.saved, ¬ (x.team = m.team ∧ x.core = c)) ∧ ∀ x, kfind s.teams m.team = some x → x.core ≠ c
    let running := (∀ x ∈ s.saved, ¬ (x.team = m.team ∧ x.core = c)) ∧ ∃ x, kfind s.teams m.team = some x ∧ x.core = c
    (absent → m.cmd = 1 → served .debugHalt 1 fun t => t.cores = s.cores) ∧
    ((∀ x, s.saved.find? (fun x => x.team = m.team && x.core = c) = some x → s.isHeld x = false) →
      ∀ y ∈ named, m.cmd = y.2 → served y.1 2 fun t => t.cores = s.cores) ∧
    (running →
      (m.cmd = 1 → (∀ i < 256, s.dirEntry c i ≠ 2 + 2 ^ 24 * (m.team.slot % 256) + 2 ^ 32 * (m.team.team % 2 ^ 32)) → (s.team m.team).holdAt = none →
        ∀ i, s.freeEntry c = some i → ∃ t, exec .debugHalt s = .next t ∧ { t with cores := [] } = { s with cores := [] } ∧
          t.dirEntry c i = 2 + 2 ^ 24 * (m.team.slot % 256) + 2 ^ 32 * (m.team.team % 2 ^ 32))) ∧
    (∀ x, s.saved.find? (fun x => x.team = m.team && x.core = c) = some x → s.isHeld x = true →
      (x.ovf = false → slotStart (s.core c).ctx + 4096 ≤ x.addr) → x.entry < 256 →
      (x.ovf = true → x.addr + 1024 * x.lenK ≤ box ∨ box + 4096 ≤ x.addr) →
      let goes := fun (t : State) => t.dirEntry c x.entry = s.dirEntry c x.entry - 2
      let group := 0x3000 + 2048 * m.group
      let has := fun (o n v : Nat) (t : State) => o + n ≤ 1024 * x.lenK → t.imageRead x o n = v
      (m.cmd = 1 → served .debugHalt 0 fun t => t.cores = s.cores) ∧ (m.cmd = 2 → served .debugResume 0 goes) ∧
      (m.cmd = 7 → s.liveGroup x m.group = false → served .debugStep 3 fun t => t.cores = s.cores) ∧
      (m.cmd = 7 → s.liveGroup x m.group = true → served .debugStep 0 fun t => goes t ∧
        has (group + 524) 4 (BitVec.ofNat 32 (s.imageRead x (group + 524) 4) ||| 0x8000#32).toNat t) ∧
      (m.cmd = 8 → (4 ≤ m.sel ∨ m.addr % 4 ≠ 0) → served .debugSetbp 3 fun t => t.cores = s.cores) ∧
      (m.cmd = 8 → m.sel < 4 → m.addr % 4 = 0 → served .debugSetbp 0 (has (112 + 4 * m.sel) 4 (m.addr % 2 ^ 32 + 1))) ∧
      (m.cmd = 9 → 4 ≤ m.sel → served .debugClrbp 3 fun t => t.cores = s.cores) ∧
      (m.cmd = 9 → m.sel < 4 → served .debugClrbp 0 (has (112 + 4 * m.sel) 4 0)) ∧
      (m.cmd = 3 → s.readItem x m.group m.sel = none → served .debugRdreg 3 fun t => t.cores = s.cores) ∧
      (m.cmd = 3 → ∀ bs, s.readItem x m.group m.sel = some bs → served .debugRdreg 0 fun t => t.mailRead c 64 bs.length = bs) ∧
      (m.cmd = 4 → s.writeItem x m.group m.sel (s.mailRead c 64 128) = none → served .debugWrreg 3 fun t => t.cores = s.cores) ∧
      (m.cmd = 4 → ∀ s1, s.writeItem x m.group m.sel (s.mailRead c 64 128) = some s1 → served .debugWrreg 0 fun t =>
        (∀ o, m.sel < 0x100 → s.regAt x m.group m.sel = some o → ∀ i < 32, has (o + 4 * i) 4 (ofBytes (s.mailRead c (64 + 4 * i) 4)) t) ∧
        (m.sel = 0x300 → has (group + 512) 4 (ofBytes (s.mailRead c 64 4)) t))) ∧
    ((m.cmd = 5 ∨ m.cmd = 6) → let i := if m.cmd = 5 then Instr.debugRdmem else .debugWrmem
      let need := if m.cmd = 5 then Need.read else .write
      ((m.len = 0 ∨ 4032 < m.len) → served i 3 fun t => t.cores = s.cores) ∧
      (0 < m.len → m.len ≤ 4032 → s.monitorFrames m.addr m.len need = none → served i 4 fun t => t.cores = s.cores)) ∧
    (0 < m.len → m.len ≤ 4032 →
      (m.cmd = 5 → ∀ fs, s.monitorFrames m.addr m.len .read = some fs → served .debugRdmem 0 fun t =>
        t.mailRead c 64 m.len = fs.flatMap fun f => s.loadBytes (s.coreOf s.ev.key) f.1 f.2) ∧
      (m.cmd = 6 → ∀ fs, s.monitorFrames m.addr m.len .write = some fs → served .debugWrmem 0 fun t =>
        ∀ pre q post, fs = pre ++ q :: post → (q.1.pa + q.2 ≤ box ∨ box + 4096 ≤ q.1.pa) →
          q.1.pa % 16 + q.2 ≤ 16 →
          (∀ r ∈ post, overlaps r.1.pa r.2 q.1.pa q.2 = false ∧ (lineOf r.1.pa = lineOf q.1.pa → r.1.key = q.1.key)) →
          t.newestRead q.1.pa q.2 = ((s.mailRead c 64 m.len).drop (pre.map (·.2)).sum).take q.2)) ∧
    (m.cmd = 10 → served .debugList 0 fun t =>
      let es := (((List.range 256).map (s.dirEntry c)).filter fun e => e % 2 = 1).take 252
      ofBytes (t.mailRead c 28 4) = 16 * es.length ∧ t.mailRead c 64 (16 * es.length) = es.flatMap fun e => bytesOf 16 e))

/-- R356 to R364, R366 to R368: power samples move Pt, TAR follows the sensors, trips pin it and a shutdown takes the power away; resets keep memory
and fences; the host trains its link, reads and writes the aperture and kills teams; owner keys come and go; and units are fenced. What a reset keeps
beyond what R362 and R368 name is the model's choice (log 29), and so are HLOGB's low bits and the link's state (log 20), that a KILL with no team
named clears GO at once (log 55), and which lines a fenced block loses (log 59). -/
def Obligations.PowerAndManagement : Prop :=
  ∀ s : State,
  let n := s.ev.n
  let c := s.ev.core
  let kept := fun (t : State) => t.teams = [] ∧ t.groups = [] ∧ t.grids = [] ∧ t.saved = [] ∧ t.writes = [] ∧ t.caches = [] ∧ t.ucopies = [] ∧
    t.inputs = s.inputs ∧ (s.rebuild = [] → ∀ pa, t.newest pa = s.newest pa)
  let shut := fun (i : Instr) => ∃ t, exec i s = .next t ∧ t.off = true ∧ t.thermTrip = true ∧ t.fatal = true
  (2800 < n → ∃ t, exec .powerSample s = .next t ∧ { t with pairs := [], capAll := false } = { s with pairs := [], capAll := false } ∧
    (t.capAll = true ↔ s.capAll = true ∨ ∀ p ∈ s.pairs, p.2.licence ≠ none → p.2.pt = 0x2000) ∧
    ∀ i p, kfind s.pairs i = some p → kfind t.pairs i = some (if p.licence = none then p else { p with pt := max 0x2000 (p.pt - 0x800) })) ∧
  (n < 2700 → ∃ t, exec .powerSample s = .next t ∧ t.capAll = false ∧
    ∀ i p, kfind s.pairs i = some p → kfind t.pairs i = some (if p.licence = none then p else { p with pt := min 0x10000 (p.pt + 0x800) })) ∧
  (2700 ≤ n → n ≤ 2800 → exec .powerSample s = .next s) ∧
  (let p := pairOf c
   let hottest := max (max n s.ev.m) ((s.pair c).temp)
   let heat := if hottest ≤ 85 then 0x10000 else if 93 ≤ hottest then 0x2000 else 0x10000 - (hottest - 85) * 0x1C00
   s.off = false →
    ((115 ≤ n ∨ 115 ≤ s.ev.m) → shut .tarUpdate) ∧
    (n < 115 → s.ev.m < 115 → ∃ t, exec .tarUpdate s = .next t ∧ t.sensor (p / 16) = n ∧ t.sensor (p / 16 + 16) = s.ev.m ∧
      (105 ≤ n ∨ 105 ≤ s.ev.m → (t.pair c).tar = 0x2000) ∧
      (n < 105 → s.ev.m < 105 →
        (∀ x, x ∈ t.hotDecks ↔ x ∈ s.hotDecks ∧ ¬ ((x = p / 256 ∨ x = p / 256 + 1) ∧ ∀ i < 16, t.sensor (16 * x + i) < 100)) ∧
        let tar := if p / 256 ∈ t.hotDecks ∨ p / 256 + 1 ∈ t.hotDecks then 0x2000 else min heat (s.pair c).pt
        t.pair c = { s.pair c with
          tar := tar, hot := if tar < (s.pair c).hotAt then true else if (s.pair c).clearAt < tar then false else (s.pair c).hot }))) ∧
  (let d := n / 16 % 8
   (s.off = false → 115 ≤ s.ev.m → shut .thermalTrip) ∧ (s.off = true → exec .thermalTrip s = .next s) ∧
   (s.off = false → s.ev.m < 115 → ∃ t, exec .thermalTrip s = .next t ∧ t.sensor (n % 128) = s.ev.m ∧
    (105 ≤ s.ev.m → d ∈ t.hotDecks ∧ ∀ i < 256, (t.pair (d / 2 * 512 + i)).tar = 0x2000) ∧
    (s.ev.m < 105 → t.pairs = s.pairs ∧ ∀ x, x ∈ t.hotDecks ↔ x ∈ s.hotDecks ∧ ¬ (x = d ∧ ∀ i < 16, t.sensor (16 * d + i) < 100)))) ∧
  ((s.off = true ∨ s.ev.m < 115) → exec .thermalShutdown s = .next s) ∧
  (s.off = false → 115 ≤ s.ev.m → ∃ t, exec .thermalShutdown s = .next t ∧ t.off = true ∧ t.thermTrip = true ∧ t.fatal = true ∧ kept t) ∧
  (s.off = false → ∃ t, exec .warmReset s = .next t ∧ kept t ∧ t.off = false ∧ t.ready = !s.ev.flag ∧ t.bootFail = s.ev.flag ∧
    t.thermTrip = s.thermTrip ∧ (s.rebuild = [] → t.replace = s.replace ∧ ∀ i, (t.core i).fenced = (s.core i).fenced) ∧
    (∀ i, (t.pair i).temp = (s.pair i).temp ∧ (t.pair i).doubled = (s.pair i).doubled) ∧
    (∀ i, (t.core i).ctx = 0x24 ∧ ((s.core i).fenced = true → (t.core i).fenced = true)) ∧
    ∀ i, ∀ j < 256, t.dirEntry i j = 0) ∧
  (let bad := (ofBytes s.ev.data).testBit
   ∃ t, exec .coldReset s = .next t ∧ (∀ i < 2048, (t.core i).fenced = bad i) ∧ { t with cores := [] } = { State.reset with
     imgBase := n, imgLen := s.ev.m, dbgBase := s.ev.k, hostLink := s.hostLink, ready := !s.ev.flag, bootFail := s.ev.flag
     degraded := (List.range 2048).any bad, replace := (List.range 2048).any bad
     hostOut := s.hostOut, sent := s.sent, inputs := s.inputs, picks := s.picks }) ∧
  (0 < n → n ≤ 128 → s.ev.m ∈ [16, 8, 4] → exec .hostLinkTrain s = .next { s with hostLink := ⟨true, n, s.ev.m⟩ }) ∧
  (let named := (List.range (s.grid (n % 256)).lr.teamCount).filter fun i =>
      (s.killTeam = 0xFFFFFFFF#32 ∨ s.killTeam.toNat = i) ∧ i ∉ (s.grid (n % 256)).ended
   let word := BitVec.ofNat 32 n &&& 0x800000FF#32
   let keys : List TKey := named.map fun i => ⟨n % 256, i⟩
   s.killReg.getLsbD 31 = false → (s.ev.flag = true → exec .kill s = .next s) ∧ (s.ev.flag = false →
    (n.testBit 31 = false → exec .kill s = .next { s with killReg := word }) ∧
    (n.testBit 31 = true → ((kfind s.grids (n % 256) = none ∨ named = []) → exec .kill s = .next { s with
        killReg := word &&& 0x7FFFFFFF#32, killNames := [] }) ∧
      ((kfind s.grids (n % 256)).isSome = true → named ≠ [] → exec .kill s = .next { s with
        killReg := word, killNames := keys, agenda := s.agenda ++ keys.map fun u => ⟨.teamKill, { key := ⟨u.slot, u.team, 0⟩ }⟩ })))) ∧
  (s.killReg.getLsbD 31 = true → exec .kill s = .next (if s.killNamed = [] then { s with killReg := s.killReg &&& 0x7FFFFFFF#32 } else s)) ∧
  (∃ t, exec .healthCounterRead s = .next t ∧ t.hostOut = s.hostOut ++ [.register n (s.aperture n)] ∧
    { t with hostOut := [], hcnt := [] } = { s with hostOut := [], hcnt := [] } ∧
    ∀ i, if n = 0x40 + 4 * i ∧ i < 8 then kfind t.hcnt i = some 0#32 ∧ s.aperture n = (kfind s.hcnt i).getD 0#32
      else kfind t.hcnt i = kfind s.hcnt i) ∧
  (let v := BitVec.ofNat 32 (ofBytes s.ev.data)
   exec .managementRegisterWrite s = .next (if n = 0x20 then { s with hlogb := pairVal (v &&& 0xFFFF0000#32) (hiWord s.hlogb) }
    else if n = 0x24 then { s with hlogb := pairVal (loWord s.hlogb) v } else if n = 0x28 then { s with hlogn := v.setWidth 16 }
    else if n = 0x34 then { s with killTeam := v } else s)) ∧
  (let kind := if s.ev.k = 1 then 1 else 0
   ∃ t, exec .coreFence s = .next t ∧
    kfind t.hcnt kind = some (BitVec.ofNat 32 (min 0xFFFFFFFF (((kfind s.hcnt kind).getD 0#32).toNat + s.ev.m))) ∧ (t.core c).fenced = (s.ev.flag || (s.core c).fenced || decide (1000 < n)) ∧
    (s.ev.flag = true → kfind t.hcnt 2 = some (BitVec.ofNat 32 (min 0xFFFFFFFF (((kfind s.hcnt 2).getD 0#32).toNat + 1)))) ∧
    ((s.core c).fenced = false → (t.core c).fenced = true → c ∉ (t.pair c).wants) ∧
    (∀ i, i ≠ c → t.core i = s.core i) ∧ t.groups = s.groups ∧ t.mem = s.mem ∧
    ((s.core c).fenced = false → (t.core c).fenced = true → t.degraded = true ∧ t.replace = true)) ∧
  (let b := s.ev.k
   ∃ t, exec .blockFence s = .next t ∧ (∀ i < 16, (t.core (16 * b + i)).fenced = true) ∧ (∀ x ∈ t.caches, x.cache.core / 16 ≠ b) ∧
    (∀ i, i / 16 ≠ b → t.core i = s.core i) ∧
    (s.ev.flag = false → (∀ pa, t.newest pa = s.newest pa) ∧ t.poisoned = s.poisoned ∧ ∀ w ∈ t.writes, w.core / 16 ≠ b) ∧
    (s.ev.flag = true → ∀ w ∈ s.writes, w.core / 16 = b → 2 ≤ w.reach → w.reach < 6 → lineOf w.pa ∈ t.poisoned)) ∧
  (let x := n % 4096
   (x ∈ s.keys → exec .ownerKeyAssign s = .next s) ∧
   (x ∉ s.keys → exec .ownerKeyAssign s = .next { s with
    keys := x :: s.keys, keyGen := kput s.keyGen x ((kfind s.keyGen x).getD 0 + 1) }) ∧
   ∃ t, exec .ownerKeyRelease s = .next t ∧ { t with keys := [] } = { s with keys := [] } ∧ ∀ j, j ∈ t.keys ↔ j ∈ s.keys ∧ (j = x → x = 0))

-- ## The machine

/-- R17 to R19, R350: with nothing due and no single-step trap waiting, a step of the group in focus fetches the words at its PC and, where they
decode and no breakpoint matches, runs the instruction with its E and W; what comes next is then open (log 3). R243: an instruction that needs a
directory under rebuild does not issue. -/
def Obligations.StepRunsDecoded : Prop :=
  ∀ (s : State) (k : GKey) (g : Group) (p : Path), Issuing s k g p → s.agenda = [] → g.stepDue = false → s.breakpointAt k g p = none →
  ∀ w0, s.fetchWord k g.mode p.pc = .ok w0 →
  let runs := fun (d : Decoded) =>
    let s0 : State := { s with slotE := d.e, slotW := d.w }
    (s.rebuild = [] → step s = match exec d.i s0 with
      | .next t => .next { t with focus := none }
      | .fault f => .fault f
      | .refused r => .refused r) ∧
    ∀ t, exec d.i s0 = .next t → step s = .next { (if s0.crosses t (s.coreOf k) then s0.holdIssue k [] else t) with focus := none }
  (isPfx w0 = false → ∀ d, decodeWords w0 none = .ok d → runs d) ∧
  (isPfx w0 = true → ∀ w1, s.fetchWord k g.mode (p.pc + 4#32) = .ok w1 → ∀ d, decodeWords w0 (some w1) = .ok d → runs d)

/-- R17 to R31: words written out from the tables of the instruction formats decode to the instructions that they stand for. -/
def Obligations.KnownWordsDecode : Prop :=
  (∀ y ∈ ([(0x04204103#32, .sub 1#7 2#7 3#7), (0x02600002#32, .wbase 2#14), (0x02810000#32, .sget 4#7 0#7), (0x01400000#32, .barTeam),
      (0x0440C1FF#32, .addi none 3#7 3#7 0x7F#7), (0x09418389#32, .fsqrt 6#7 7#7), (0x0A210281#32, .cvtF32Bf16 4#7 5#7),
      (0x0C214168#32, .st none 5#7 2#7 6#3 2#2 0#2), (0x01E18104#32, .spawn 6#7 2#7 4#7), (0x03C20106#32, .rld 8#7 2#7 6#7),
      (0x0F000C01#32, .gangCur 24#7)] : List (Word × Instr)), decodeWords y.1 none = .ok ⟨false, 0#3, y.2⟩) ∧
  decodeWords 0x0FE00002#32 (some 0x0F2A0540#32) = .ok ⟨false, 0#3, .mma (some 2#21) 40#7 10#7 64#7⟩ ∧
  decodeWords 0x0FE00001#32 (some 0x064183FF#32) = .ok ⟨false, 0#3, .andi (some 1#21) 6#7 7#7 0x7F#7⟩

/-- R17 to R31: every well-formed instruction has words, and they decode to it with its E and W, whatever follows them. -/
def Obligations.DecodeInvertsEncode : Prop :=
  ∀ (i : Instr) (e : Bool) (w : BitVec 3), i.wellFormed = true →
  ∃ ws, encode e w i = some ws ∧ ∀ rest, decode (ws.flatMap Sys2Proof.wordBytes ++ rest) = .ok (⟨e, w, i⟩, rest)

/-- R396, R241: a step from a state whose memory has its canonical form leads to one whose memory has it. -/
def Obligations.MemoryFormIsKept : Prop := ∀ s t : State, s.MemOk → step s = .next t → t.MemOk

/-- R141, R142, R143: a step from a state whose scratchpads and columns have their canonical form leads to one whose scratchpads and columns have it. -/
def Obligations.NearMemoryFormIsKept : Prop := ∀ s t : State, s.NearOk → step s = .next t → t.NearOk

/-- R361, R396: after reset the memory has its form. R57, R93, R103, R104, R159, R185, R252, R341, R357, R358: what reset leaves of the registers for
which the rules give a value. -/
def Obligations.ResetState : Prop :=
  (State.reset.MemOk ∧ State.reset.NearOk) ∧
  (State.reset.groups = [] ∧ State.reset.teams = [] ∧ State.reset.grids = [] ∧ State.reset.keys = [0] ∧ State.reset.killReg = 0#32 ∧
  State.reset.hlogb = 0#64 ∧ State.reset.hlogn = 0#16 ∧ State.reset.hlogt = 0#32 ∧
  ∀ c, (State.reset.core c).ctx = 0x24 ∧ (State.reset.core c).ctxPend = none ∧ (State.reset.pair c).tar = 0x10000 ∧
    (State.reset.pair c).hotAt = 0xA000 ∧ (State.reset.pair c).clearAt = 0xC000 ∧ ∀ p, (State.reset.part c p).credits = 16)
end

