-- ==== Sys2Proof/Laws/Decode.lean ====
section
/-! SUPPORT. The fields of a word and the words of bytes: what is put together reads back. -/

namespace Sys2Proof

/-- The six fields of a word that was made of them. -/
theorem fieldsOf_wordOf (f : Fields) : fieldsOf (wordOf f) = f := by
  obtain ⟨e, w, op, d, a, b⟩ := f
  simp only [fieldsOf, wordOf, Fields.mk.injEq]
  refine ⟨?_, ?_, ?_, ?_, ?_, ?_⟩
  · rw [BitVec.getLsbD_append, BitVec.getLsbD_append, BitVec.getLsbD_append, BitVec.getLsbD_append, BitVec.getLsbD_append]
    cases e <;> simp
  · rw [BitVec.extractLsb'_append_eq_of_le (by omega), BitVec.extractLsb'_append_eq_of_le (by omega),
      BitVec.extractLsb'_append_eq_of_le (by omega), BitVec.extractLsb'_append_eq_of_le (by omega),
      BitVec.extractLsb'_append_eq_of_add_le (by omega)]
    simp
  · rw [BitVec.extractLsb'_append_eq_of_le (by omega), BitVec.extractLsb'_append_eq_of_le (by omega),
      BitVec.extractLsb'_append_eq_of_le (by omega), BitVec.extractLsb'_append_eq_of_add_le (by omega)]
    simp
  · rw [BitVec.extractLsb'_append_eq_of_le (by omega), BitVec.extractLsb'_append_eq_of_le (by omega),
      BitVec.extractLsb'_append_eq_of_add_le (by omega)]
    simp
  · rw [BitVec.extractLsb'_append_eq_of_le (by omega), BitVec.extractLsb'_append_eq_of_add_le (by omega)]
    simp
  · rw [BitVec.extractLsb'_append_eq_of_add_le (by omega)]
    simp

/-- A word is the four bytes that it is stored as. -/
theorem bytes_word (w : Word) : w.extractLsb' 24 8 ++ w.extractLsb' 16 8 ++ w.extractLsb' 8 8 ++ w.extractLsb' 0 8 = w := by
  ext j hj
  simp only [BitVec.getElem_append, BitVec.getElem_extractLsb']
  repeat' split
  all_goals rw [BitVec.getLsbD_eq_getElem (by omega)]; congr 1; omega

/-- The word at the head of the bytes that it is stored as. -/
theorem takeWord_wordBytes (w : Word) (rest : List Byte) : takeWord (wordBytes w ++ rest) = some (w, rest) := by
  simp [wordBytes, takeWord, bytes_word]

/-- A prefix word is one, with E and W zero, and holds its payload. -/
theorem pfxWord_spec (p : BitVec 21) : isPfx (pfxWord p) = true ∧ pfxAllowed (pfxWord p) = true ∧ pfxPayload (pfxWord p) = p := by
  refine ⟨?_, ?_, ?_⟩
  · simp only [isPfx, fieldsOf, pfxWord, beq_iff_eq]
    rw [BitVec.extractLsb'_append_eq_of_le (by omega), BitVec.extractLsb'_append_eq_of_add_le (by omega)]
    simp
  · simp only [pfxAllowed, fieldsOf, pfxWord, Bool.and_eq_true, Bool.not_eq_true', beq_iff_eq]
    constructor
    · rw [BitVec.getLsbD_append, BitVec.getLsbD_append]; simp
    · rw [BitVec.extractLsb'_append_eq_of_le (by omega), BitVec.extractLsb'_append_eq_of_le (by omega)]
      simp
  · simp only [pfxPayload, pfxWord]
    rw [BitVec.extractLsb'_append_eq_of_add_le (by omega)]
    simp

namespace Laws.Decodes

theorem cat14 (i : BitVec 14) : i.extractLsb' 7 7 ++ i.extractLsb' 0 7 = i := by
  ext j hj
  simp only [BitVec.getElem_append, BitVec.getElem_extractLsb']
  split
  · rw [BitVec.getLsbD_eq_getElem (by omega)]; congr 1; omega
  · rw [BitVec.getLsbD_eq_getElem (by omega)]; congr 1; omega

theorem cat21 (i : BitVec 21) : i.extractLsb' 14 7 ++ i.extractLsb' 7 7 ++ i.extractLsb' 0 7 = i := by
  ext j hj
  simp only [BitVec.getElem_append, BitVec.getElem_extractLsb']
  split
  · rw [BitVec.getLsbD_eq_getElem (by omega)]; congr 1; omega
  · split
    · rw [BitVec.getLsbD_eq_getElem (by omega)]; congr 1; omega
    · rw [BitVec.getLsbD_eq_getElem (by omega)]; congr 1; omega

theorem cat322 : ∀ (s : BitVec 3) (z p : BitVec 2), (s ++ z ++ p).extractLsb' 4 3 = s ∧ (s ++ z ++ p).extractLsb' 2 2 = z ∧
    (s ++ z ++ p).extractLsb' 0 2 = p := by decide

theorem cat34 : ∀ (s : BitVec 3) (b : BitVec 4), (s ++ b).extractLsb' 4 3 = s ∧ (s ++ b).extractLsb' 0 4 = b := by decide

/-- A property of the values below a power of two holds of every bit vector. -/
theorem bvAll {n : Nat} {P : BitVec n → Prop} (h : ∀ k : Fin (2 ^ n), P ⟨k⟩) : ∀ v, P v := fun ⟨k⟩ => h k

theorem bv2 {P : BitVec 2 → Prop} (h0 : P 0#2) (h1 : P 1#2) (h2 : P 2#2) (h3 : P 3#2) :
    ∀ v, P v := bvAll fun k => by
  have := k.isLt
  obtain ⟨k, hk⟩ := k
  interval_cases k
  · exact h0
  · exact h1
  · exact h2
  · exact h3

theorem bv3 {P : BitVec 3 → Prop} (h0 : P 0#3) (h1 : P 1#3) (h2 : P 2#3) (h3 : P 3#3) (h4 : P 4#3) (h5 : P 5#3) (h6 : P 6#3) (h7 : P 7#3) :
    ∀ v, P v := bvAll fun k => by
  have := k.isLt
  obtain ⟨k, hk⟩ := k
  interval_cases k
  · exact h0
  · exact h1
  · exact h2
  · exact h3
  · exact h4
  · exact h5
  · exact h6
  · exact h7

theorem bv4 {P : BitVec 4 → Prop} (h0 : P 0#4) (h1 : P 1#4) (h2 : P 2#4) (h3 : P 3#4) (h4 : P 4#4) (h5 : P 5#4) (h6 : P 6#4) (h7 : P 7#4)
    (h8 : P 8#4) (h9 : P 9#4) (h10 : P 10#4) (h11 : P 11#4) (h12 : P 12#4) (h13 : P 13#4) (h14 : P 14#4) (h15 : P 15#4) :
    ∀ v, P v := bvAll fun k => by
  have := k.isLt
  obtain ⟨k, hk⟩ := k
  interval_cases k
  · exact h0
  · exact h1
  · exact h2
  · exact h3
  · exact h4
  · exact h5
  · exact h6
  · exact h7
  · exact h8
  · exact h9
  · exact h10
  · exact h11
  · exact h12
  · exact h13
  · exact h14
  · exact h15

theorem bv5 {P : BitVec 5 → Prop} (h0 : P 0#5) (h1 : P 1#5) (h2 : P 2#5) (h3 : P 3#5) (h4 : P 4#5) (h5 : P 5#5) (h6 : P 6#5) (h7 : P 7#5)
    (h8 : P 8#5) (h9 : P 9#5) (h10 : P 10#5) (h11 : P 11#5) (h12 : P 12#5) (h13 : P 13#5) (h14 : P 14#5) (h15 : P 15#5) (h16 : P 16#5) (h17 : P
    17#5) (h18 : P 18#5) (h19 : P 19#5) (h20 : P 20#5) (h21 : P 21#5) (h22 : P 22#5) (h23 : P 23#5) (h24 : P 24#5) (h25 : P 25#5) (h26 : P 26#5)
    (h27 : P 27#5) (h28 : P 28#5) (h29 : P 29#5) (h30 : P 30#5) (h31 : P 31#5) :
    ∀ v, P v := bvAll fun k => by
  have := k.isLt
  obtain ⟨k, hk⟩ := k
  interval_cases k
  · exact h0
  · exact h1
  · exact h2
  · exact h3
  · exact h4
  · exact h5
  · exact h6
  · exact h7
  · exact h8
  · exact h9
  · exact h10
  · exact h11
  · exact h12
  · exact h13
  · exact h14
  · exact h15
  · exact h16
  · exact h17
  · exact h18
  · exact h19
  · exact h20
  · exact h21
  · exact h22
  · exact h23
  · exact h24
  · exact h25
  · exact h26
  · exact h27
  · exact h28
  · exact h29
  · exact h30
  · exact h31

end Laws.Decodes

end Sys2Proof
end

