-- ==== Sys2Proof/Laws/Dispatch.lean ====
section
/-! SUPPORT. Each instruction's meaning, one equation per constructor: claims about an instruction start from these and never unfold exec. -/

namespace Sys2Proof.Machine

theorem exec_sysc (n : BitVec 7) (s : State) : exec (.sysc n) s = execSysc n s := rfl
theorem exec_bra (i : BitVec 21) (s : State) : exec (.bra i) s = execBra i s := rfl
theorem exec_call (d : Reg) (i : BitVec 14) (s : State) : exec (.call d i) s = execCall d i s := rfl
theorem exec_jmp (a : Reg) (s : State) : exec (.jmp a) s = execJmp a s := rfl
theorem exec_jmpl (d : Reg) (a : Reg) (s : State) : exec (.jmpl d a) s = execJmpl d a s := rfl
theorem exec_brz (d : Reg) (i : BitVec 14) (s : State) : exec (.brz d i) s = execBrz d i s := rfl
theorem exec_brnz (d : Reg) (i : BitVec 14) (s : State) : exec (.brnz d i) s = execBrnz d i s := rfl
theorem exec_brany (d : Reg) (i : BitVec 14) (s : State) : exec (.brany d i) s = execBrany d i s := rfl
theorem exec_brall (d : Reg) (i : BitVec 14) (s : State) : exec (.brall d i) s = execBrall d i s := rfl
theorem exec_mark (i : BitVec 14) (s : State) : exec (.mark i) s = execMark i s := rfl
theorem exec_voteAny (d : Reg) (a : Reg) (s : State) : exec (.voteAny d a) s = execVoteAny d a s := rfl
theorem exec_voteAll (d : Reg) (a : Reg) (s : State) : exec (.voteAll d a) s = execVoteAll d a s := rfl
theorem exec_voteBallot (d : Reg) (a : Reg) (s : State) : exec (.voteBallot d a) s = execVoteBallot d a s := rfl
theorem exec_voteCount (d : Reg) (a : Reg) (s : State) : exec (.voteCount d a) s = execVoteCount d a s := rfl
theorem exec_voteFirst (d : Reg) (a : Reg) (s : State) : exec (.voteFirst d a) s = execVoteFirst d a s := rfl
theorem exec_barArrive (d : Reg) (s : State) : exec (.barArrive d) s = execBarArrive d s := rfl
theorem exec_barWait (a : Reg) (s : State) : exec (.barWait a) s = execBarWait a s := rfl
theorem exec_mona (p : Option (BitVec 21)) (d : Reg) (a : Reg) (sc : BitVec 3) (z : BitVec 2) (pol : BitVec 2) (s : State) : exec (.mona p d a sc z pol) s = execMona p d a sc z pol s := rfl
theorem exec_monw (d : Reg) (a : Reg) (s : State) : exec (.monw d a) s = execMonw d a s := rfl
theorem exec_fget (d : Reg) (a : Reg) (b : Reg) (s : State) : exec (.fget d a b) s = execFget d a b s := rfl
theorem exec_fput (d : Reg) (a : Reg) (b : Reg) (s : State) : exec (.fput d a b) s = execFput d a b s := rfl
theorem exec_spawn (d : Reg) (a : Reg) (b : Reg) (s : State) : exec (.spawn d a b) s = execSpawn d a b s := rfl
theorem exec_mov (d : Reg) (a : Reg) (s : State) : exec (.mov d a) s = execMov d a s := rfl
theorem exec_mov64 (d : Reg) (a : Reg) (s : State) : exec (.mov64 d a) s = execMov64 d a s := rfl
theorem exec_movi (p : Option (BitVec 21)) (d : Reg) (i : BitVec 14) (s : State) : exec (.movi p d i) s = execMovi p d i s := rfl
theorem exec_movhi (d : Reg) (i : BitVec 14) (s : State) : exec (.movhi d i) s = execMovhi d i s := rfl
theorem exec_wbase (i : BitVec 14) (s : State) : exec (.wbase i) s = execWbase i s := rfl
theorem exec_wbaseRel (i : BitVec 14) (s : State) : exec (.wbaseRel i) s = execWbaseRel i s := rfl
theorem exec_sget (d : Reg) (n : BitVec 7) (s : State) : exec (.sget d n) s = execSget d n s := rfl
theorem exec_sset (a : Reg) (n : BitVec 7) (s : State) : exec (.sset a n) s = execSset a n s := rfl
theorem exec_shfl (d : Reg) (a : Reg) (b : Reg) (s : State) : exec (.shfl d a b) s = execShfl d a b s := rfl
theorem exec_shflx (d : Reg) (a : Reg) (b : Reg) (s : State) : exec (.shflx d a b) s = execShflx d a b s := rfl
theorem exec_csel (d : Reg) (a : Reg) (b : Reg) (s : State) : exec (.csel d a b) s = execCsel d a b s := rfl
theorem exec_fmtSet (a : Reg) (s : State) : exec (.fmtSet a) s = execFmtSet a s := rfl
theorem exec_fmtGet (d : Reg) (s : State) : exec (.fmtGet d) s = execFmtGet d s := rfl
theorem exec_dqPush (d : Reg) (a : Reg) (s : State) : exec (.dqPush d a) s = execDqPush d a s := rfl
theorem exec_dqPop (d : Reg) (a : Reg) (s : State) : exec (.dqPop d a) s = execDqPop d a s := rfl
theorem exec_dqSteal (d : Reg) (a : Reg) (s : State) : exec (.dqSteal d a) s = execDqSteal d a s := rfl
theorem exec_dqSize (d : Reg) (a : Reg) (s : State) : exec (.dqSize d a) s = execDqSize d a s := rfl
theorem exec_bndPubmin (d : Reg) (sc : BitVec 3) (s : State) : exec (.bndPubmin d sc) s = execBndPubmin d sc s := rfl
theorem exec_bndPubmax (d : Reg) (sc : BitVec 3) (s : State) : exec (.bndPubmax d sc) s = execBndPubmax d sc s := rfl
theorem exec_bndGet (d : Reg) (sc : BitVec 3) (s : State) : exec (.bndGet d sc) s = execBndGet d sc s := rfl
theorem exec_bndReset (d : Reg) (sc : BitVec 3) (s : State) : exec (.bndReset d sc) s = execBndReset d sc s := rfl
theorem exec_tjoin (d : Reg) (a : Reg) (s : State) : exec (.tjoin d a) s = execTjoin d a s := rfl
theorem exec_tjoinTest (d : Reg) (a : Reg) (s : State) : exec (.tjoinTest d a) s = execTjoinTest d a s := rfl
theorem exec_launch (d : Reg) (a : Reg) (s : State) : exec (.launch d a) s = execLaunch d a s := rfl
theorem exec_rld (d : Reg) (a : Reg) (b : Reg) (s : State) : exec (.rld d a b) s = execRld d a b s := rfl
theorem exec_rst (d : Reg) (a : Reg) (b : Reg) (s : State) : exec (.rst d a b) s = execRst d a b s := rfl
theorem exec_add (d : Reg) (a : Reg) (b : Reg) (s : State) : exec (.add d a b) s = execAdd d a b s := rfl
theorem exec_sub (d : Reg) (a : Reg) (b : Reg) (s : State) : exec (.sub d a b) s = execSub d a b s := rfl
theorem exec_addi (p : Option (BitVec 21)) (d : Reg) (a : Reg) (i : BitVec 7) (s : State) : exec (.addi p d a i) s = execAddi p d a i s := rfl
theorem exec_mul (d : Reg) (a : Reg) (b : Reg) (s : State) : exec (.mul d a b) s = execMul d a b s := rfl
theorem exec_mulhs (d : Reg) (a : Reg) (b : Reg) (s : State) : exec (.mulhs d a b) s = execMulhs d a b s := rfl
theorem exec_mulhu (d : Reg) (a : Reg) (b : Reg) (s : State) : exec (.mulhu d a b) s = execMulhu d a b s := rfl
theorem exec_mad (d : Reg) (a : Reg) (b : Reg) (s : State) : exec (.mad d a b) s = execMad d a b s := rfl
theorem exec_add64 (d : Reg) (a : Reg) (b : Reg) (s : State) : exec (.add64 d a b) s = execAdd64 d a b s := rfl
theorem exec_addz64 (p : Option (BitVec 21)) (d : Reg) (a : Reg) (b : Reg) (s : State) : exec (.addz64 p d a b) s = execAddz64 p d a b s := rfl
theorem exec_mulws (d : Reg) (a : Reg) (b : Reg) (s : State) : exec (.mulws d a b) s = execMulws d a b s := rfl
theorem exec_mulwz (d : Reg) (a : Reg) (b : Reg) (s : State) : exec (.mulwz d a b) s = execMulwz d a b s := rfl
theorem exec_min (d : Reg) (a : Reg) (b : Reg) (s : State) : exec (.min d a b) s = execMin d a b s := rfl
theorem exec_max (d : Reg) (a : Reg) (b : Reg) (s : State) : exec (.max d a b) s = execMax d a b s := rfl
theorem exec_minu (d : Reg) (a : Reg) (b : Reg) (s : State) : exec (.minu d a b) s = execMinu d a b s := rfl
theorem exec_maxu (d : Reg) (a : Reg) (b : Reg) (s : State) : exec (.maxu d a b) s = execMaxu d a b s := rfl
theorem exec_and (d : Reg) (a : Reg) (b : Reg) (s : State) : exec (.and d a b) s = execAnd d a b s := rfl
theorem exec_or (d : Reg) (a : Reg) (b : Reg) (s : State) : exec (.or d a b) s = execOr d a b s := rfl
theorem exec_xor (d : Reg) (a : Reg) (b : Reg) (s : State) : exec (.xor d a b) s = execXor d a b s := rfl
theorem exec_andi (p : Option (BitVec 21)) (d : Reg) (a : Reg) (i : BitVec 7) (s : State) : exec (.andi p d a i) s = execAndi p d a i s := rfl
theorem exec_ori (p : Option (BitVec 21)) (d : Reg) (a : Reg) (i : BitVec 7) (s : State) : exec (.ori p d a i) s = execOri p d a i s := rfl
theorem exec_xori (p : Option (BitVec 21)) (d : Reg) (a : Reg) (i : BitVec 7) (s : State) : exec (.xori p d a i) s = execXori p d a i s := rfl
theorem exec_shl (d : Reg) (a : Reg) (b : Reg) (s : State) : exec (.shl d a b) s = execShl d a b s := rfl
theorem exec_shr (d : Reg) (a : Reg) (b : Reg) (s : State) : exec (.shr d a b) s = execShr d a b s := rfl
theorem exec_sar (d : Reg) (a : Reg) (b : Reg) (s : State) : exec (.sar d a b) s = execSar d a b s := rfl
theorem exec_shli (d : Reg) (a : Reg) (n : BitVec 5) (s : State) : exec (.shli d a n) s = execShli d a n s := rfl
theorem exec_shri (d : Reg) (a : Reg) (n : BitVec 5) (s : State) : exec (.shri d a n) s = execShri d a n s := rfl
theorem exec_sari (d : Reg) (a : Reg) (n : BitVec 5) (s : State) : exec (.sari d a n) s = execSari d a n s := rfl
theorem exec_roti (d : Reg) (a : Reg) (n : BitVec 5) (s : State) : exec (.roti d a n) s = execRoti d a n s := rfl
theorem exec_rot (d : Reg) (a : Reg) (b : Reg) (s : State) : exec (.rot d a b) s = execRot d a b s := rfl
theorem exec_clz (d : Reg) (a : Reg) (s : State) : exec (.clz d a) s = execClz d a s := rfl
theorem exec_popc (d : Reg) (a : Reg) (s : State) : exec (.popc d a) s = execPopc d a s := rfl
theorem exec_brev (d : Reg) (a : Reg) (s : State) : exec (.brev d a) s = execBrev d a s := rfl
theorem exec_abs (d : Reg) (a : Reg) (s : State) : exec (.abs d a) s = execAbs d a s := rfl
theorem exec_neg (d : Reg) (a : Reg) (s : State) : exec (.neg d a) s = execNeg d a s := rfl
theorem exec_not (d : Reg) (a : Reg) (s : State) : exec (.not d a) s = execNot d a s := rfl
theorem exec_sextb (d : Reg) (a : Reg) (s : State) : exec (.sextb d a) s = execSextb d a s := rfl
theorem exec_sexth (d : Reg) (a : Reg) (s : State) : exec (.sexth d a) s = execSexth d a s := rfl
theorem exec_zextb (d : Reg) (a : Reg) (s : State) : exec (.zextb d a) s = execZextb d a s := rfl
theorem exec_zexth (d : Reg) (a : Reg) (s : State) : exec (.zexth d a) s = execZexth d a s := rfl
theorem exec_ctz (d : Reg) (a : Reg) (s : State) : exec (.ctz d a) s = execCtz d a s := rfl
theorem exec_bfx (d : Reg) (a : Reg) (b : Reg) (s : State) : exec (.bfx d a b) s = execBfx d a b s := rfl
theorem exec_bfi (d : Reg) (a : Reg) (b : Reg) (s : State) : exec (.bfi d a b) s = execBfi d a b s := rfl
theorem exec_seq (d : Reg) (a : Reg) (b : Reg) (s : State) : exec (.seq d a b) s = execSeq d a b s := rfl
theorem exec_slt (d : Reg) (a : Reg) (b : Reg) (s : State) : exec (.slt d a b) s = execSlt d a b s := rfl
theorem exec_sltu (d : Reg) (a : Reg) (b : Reg) (s : State) : exec (.sltu d a b) s = execSltu d a b s := rfl
theorem exec_fadd (d : Reg) (a : Reg) (b : Reg) (s : State) : exec (.fadd d a b) s = execFadd d a b s := rfl
theorem exec_fsub (d : Reg) (a : Reg) (b : Reg) (s : State) : exec (.fsub d a b) s = execFsub d a b s := rfl
theorem exec_fmul (d : Reg) (a : Reg) (b : Reg) (s : State) : exec (.fmul d a b) s = execFmul d a b s := rfl
theorem exec_ffma (d : Reg) (a : Reg) (b : Reg) (s : State) : exec (.ffma d a b) s = execFfma d a b s := rfl
theorem exec_fmin (d : Reg) (a : Reg) (b : Reg) (s : State) : exec (.fmin d a b) s = execFmin d a b s := rfl
theorem exec_fmax (d : Reg) (a : Reg) (b : Reg) (s : State) : exec (.fmax d a b) s = execFmax d a b s := rfl
theorem exec_fseq (d : Reg) (a : Reg) (b : Reg) (s : State) : exec (.fseq d a b) s = execFseq d a b s := rfl
theorem exec_fslt (d : Reg) (a : Reg) (b : Reg) (s : State) : exec (.fslt d a b) s = execFslt d a b s := rfl
theorem exec_fsle (d : Reg) (a : Reg) (b : Reg) (s : State) : exec (.fsle d a b) s = execFsle d a b s := rfl
theorem exec_collStart (d : Reg) (a : Reg) (s : State) : exec (.collStart d a) s = execCollStart d a s := rfl
theorem exec_collWait (d : Reg) (a : Reg) (s : State) : exec (.collWait d a) s = execCollWait d a s := rfl
theorem exec_collTest (d : Reg) (a : Reg) (s : State) : exec (.collTest d a) s = execCollTest d a s := rfl
theorem exec_fabs (d : Reg) (a : Reg) (s : State) : exec (.fabs d a) s = execFabs d a s := rfl
theorem exec_fneg (d : Reg) (a : Reg) (s : State) : exec (.fneg d a) s = execFneg d a s := rfl
theorem exec_frndn (d : Reg) (a : Reg) (s : State) : exec (.frndn d a) s = execFrndn d a s := rfl
theorem exec_frndz (d : Reg) (a : Reg) (s : State) : exec (.frndz d a) s = execFrndz d a s := rfl
theorem exec_frndp (d : Reg) (a : Reg) (s : State) : exec (.frndp d a) s = execFrndp d a s := rfl
theorem exec_frndm (d : Reg) (a : Reg) (s : State) : exec (.frndm d a) s = execFrndm d a s := rfl
theorem exec_fclass (d : Reg) (a : Reg) (s : State) : exec (.fclass d a) s = execFclass d a s := rfl
theorem exec_frcp (d : Reg) (a : Reg) (s : State) : exec (.frcp d a) s = execFrcp d a s := rfl
theorem exec_frsq (d : Reg) (a : Reg) (s : State) : exec (.frsq d a) s = execFrsq d a s := rfl
theorem exec_fsqrt (d : Reg) (a : Reg) (s : State) : exec (.fsqrt d a) s = execFsqrt d a s := rfl
theorem exec_fex2 (d : Reg) (a : Reg) (s : State) : exec (.fex2 d a) s = execFex2 d a s := rfl
theorem exec_flg2 (d : Reg) (a : Reg) (s : State) : exec (.flg2 d a) s = execFlg2 d a s := rfl
theorem exec_fsin (d : Reg) (a : Reg) (s : State) : exec (.fsin d a) s = execFsin d a s := rfl
theorem exec_fcos (d : Reg) (a : Reg) (s : State) : exec (.fcos d a) s = execFcos d a s := rfl
theorem exec_badd2 (d : Reg) (a : Reg) (b : Reg) (s : State) : exec (.badd2 d a b) s = execBadd2 d a b s := rfl
theorem exec_bmul2 (d : Reg) (a : Reg) (b : Reg) (s : State) : exec (.bmul2 d a b) s = execBmul2 d a b s := rfl
theorem exec_bfma2 (d : Reg) (a : Reg) (b : Reg) (s : State) : exec (.bfma2 d a b) s = execBfma2 d a b s := rfl
theorem exec_hfma2 (d : Reg) (a : Reg) (b : Reg) (s : State) : exec (.hfma2 d a b) s = execHfma2 d a b s := rfl
theorem exec_rsubs (d : Reg) (a : Reg) (s : State) : exec (.rsubs d a) s = execRsubs d a s := rfl
theorem exec_rsubsOff (d : Reg) (a : Reg) (s : State) : exec (.rsubsOff d a) s = execRsubsOff d a s := rfl
theorem exec_ratom (p : Option (BitVec 21)) (d : Reg) (a : Reg) (b : Reg) (s : State) : exec (.ratom p d a b) s = execRatom p d a b s := rfl
theorem exec_cvtF32F16 (d : Reg) (a : Reg) (s : State) : exec (.cvtF32F16 d a) s = execCvtF32F16 d a s := rfl
theorem exec_cvtF32Bf16 (d : Reg) (a : Reg) (s : State) : exec (.cvtF32Bf16 d a) s = execCvtF32Bf16 d a s := rfl
theorem exec_cvtF16F32 (d : Reg) (a : Reg) (s : State) : exec (.cvtF16F32 d a) s = execCvtF16F32 d a s := rfl
theorem exec_cvtBf16F32 (d : Reg) (a : Reg) (s : State) : exec (.cvtBf16F32 d a) s = execCvtBf16F32 d a s := rfl
theorem exec_cvtF32S32 (d : Reg) (a : Reg) (s : State) : exec (.cvtF32S32 d a) s = execCvtF32S32 d a s := rfl
theorem exec_cvtF32Z32 (d : Reg) (a : Reg) (s : State) : exec (.cvtF32Z32 d a) s = execCvtF32Z32 d a s := rfl
theorem exec_cvtS32F32 (d : Reg) (a : Reg) (s : State) : exec (.cvtS32F32 d a) s = execCvtS32F32 d a s := rfl
theorem exec_cvtZ32F32 (d : Reg) (a : Reg) (s : State) : exec (.cvtZ32F32 d a) s = execCvtZ32F32 d a s := rfl
theorem exec_cvtF32E4m3 (d : Reg) (a : Reg) (s : State) : exec (.cvtF32E4m3 d a) s = execCvtF32E4m3 d a s := rfl
theorem exec_cvtF32E5m2 (d : Reg) (a : Reg) (s : State) : exec (.cvtF32E5m2 d a) s = execCvtF32E5m2 d a s := rfl
theorem exec_cvtF32E3m2 (d : Reg) (a : Reg) (s : State) : exec (.cvtF32E3m2 d a) s = execCvtF32E3m2 d a s := rfl
theorem exec_cvtF32E2m3 (d : Reg) (a : Reg) (s : State) : exec (.cvtF32E2m3 d a) s = execCvtF32E2m3 d a s := rfl
theorem exec_cvtF32E2m1 (d : Reg) (a : Reg) (s : State) : exec (.cvtF32E2m1 d a) s = execCvtF32E2m1 d a s := rfl
theorem exec_cvtE4m3F32 (d : Reg) (a : Reg) (s : State) : exec (.cvtE4m3F32 d a) s = execCvtE4m3F32 d a s := rfl
theorem exec_cvtE5m2F32 (d : Reg) (a : Reg) (s : State) : exec (.cvtE5m2F32 d a) s = execCvtE5m2F32 d a s := rfl
theorem exec_cvtE3m2F32 (d : Reg) (a : Reg) (s : State) : exec (.cvtE3m2F32 d a) s = execCvtE3m2F32 d a s := rfl
theorem exec_cvtE2m3F32 (d : Reg) (a : Reg) (s : State) : exec (.cvtE2m3F32 d a) s = execCvtE2m3F32 d a s := rfl
theorem exec_cvtE2m1F32 (d : Reg) (a : Reg) (s : State) : exec (.cvtE2m1F32 d a) s = execCvtE2m1F32 d a s := rfl
theorem exec_cvtF32E8m0 (d : Reg) (a : Reg) (s : State) : exec (.cvtF32E8m0 d a) s = execCvtF32E8m0 d a s := rfl
theorem exec_cvtE8m0F32 (d : Reg) (a : Reg) (s : State) : exec (.cvtE8m0F32 d a) s = execCvtE8m0F32 d a s := rfl
theorem exec_cvtS16S32 (d : Reg) (a : Reg) (s : State) : exec (.cvtS16S32 d a) s = execCvtS16S32 d a s := rfl
theorem exec_cvtS8S32 (d : Reg) (a : Reg) (s : State) : exec (.cvtS8S32 d a) s = execCvtS8S32 d a s := rfl
theorem exec_cvtZ16Z32 (d : Reg) (a : Reg) (s : State) : exec (.cvtZ16Z32 d a) s = execCvtZ16Z32 d a s := rfl
theorem exec_cvtZ8Z32 (d : Reg) (a : Reg) (s : State) : exec (.cvtZ8Z32 d a) s = execCvtZ8Z32 d a s := rfl
theorem exec_cvtF32S64 (d : Reg) (a : Reg) (s : State) : exec (.cvtF32S64 d a) s = execCvtF32S64 d a s := rfl
theorem exec_cvtS64F32 (d : Reg) (a : Reg) (s : State) : exec (.cvtS64F32 d a) s = execCvtS64F32 d a s := rfl
theorem exec_cvtp (d : Reg) (a : Reg) (b : Reg) (s : State) : exec (.cvtp d a b) s = execCvtp d a b s := rfl
theorem exec_dot4i (d : Reg) (a : Reg) (b : Reg) (s : State) : exec (.dot4i d a b) s = execDot4i d a b s := rfl
theorem exec_dot8i (d : Reg) (a : Reg) (b : Reg) (s : State) : exec (.dot8i d a b) s = execDot8i d a b s := rfl
theorem exec_dot4f (d : Reg) (a : Reg) (b : Reg) (s : State) : exec (.dot4f d a b) s = execDot4f d a b s := rfl
theorem exec_dot8f (d : Reg) (a : Reg) (b : Reg) (s : State) : exec (.dot8f d a b) s = execDot8f d a b s := rfl
theorem exec_dot2b (d : Reg) (a : Reg) (b : Reg) (s : State) : exec (.dot2b d a b) s = execDot2b d a b s := rfl
theorem exec_ldn (p : Option (BitVec 21)) (d : Reg) (a : Reg) (z : BitVec 2) (s : State) : exec (.ldn p d a z) s = execLdn p d a z s := rfl
theorem exec_stn (p : Option (BitVec 21)) (d : Reg) (a : Reg) (z : BitVec 2) (s : State) : exec (.stn p d a z) s = execStn p d a z s := rfl
theorem exec_atnAdd (p : Option (BitVec 21)) (d : Reg) (a : Reg) (b : BitVec 4) (s : State) : exec (.atnAdd p d a b) s = execAtnAdd p d a b s := rfl
theorem exec_atnMin (p : Option (BitVec 21)) (d : Reg) (a : Reg) (b : BitVec 4) (s : State) : exec (.atnMin p d a b) s = execAtnMin p d a b s := rfl
theorem exec_atnMax (p : Option (BitVec 21)) (d : Reg) (a : Reg) (b : BitVec 4) (s : State) : exec (.atnMax p d a b) s = execAtnMax p d a b s := rfl
theorem exec_atnMinu (p : Option (BitVec 21)) (d : Reg) (a : Reg) (b : BitVec 4) (s : State) : exec (.atnMinu p d a b) s = execAtnMinu p d a b s := rfl
theorem exec_atnMaxu (p : Option (BitVec 21)) (d : Reg) (a : Reg) (b : BitVec 4) (s : State) : exec (.atnMaxu p d a b) s = execAtnMaxu p d a b s := rfl
theorem exec_atnAnd (p : Option (BitVec 21)) (d : Reg) (a : Reg) (b : BitVec 4) (s : State) : exec (.atnAnd p d a b) s = execAtnAnd p d a b s := rfl
theorem exec_atnOr (p : Option (BitVec 21)) (d : Reg) (a : Reg) (b : BitVec 4) (s : State) : exec (.atnOr p d a b) s = execAtnOr p d a b s := rfl
theorem exec_atnXch (p : Option (BitVec 21)) (d : Reg) (a : Reg) (b : BitVec 4) (s : State) : exec (.atnXch p d a b) s = execAtnXch p d a b s := rfl
theorem exec_casn (d : Reg) (a : Reg) (b : Reg) (s : State) : exec (.casn d a b) s = execCasn d a b s := rfl
theorem exec_rrot (d : Reg) (a : Reg) (b : Reg) (s : State) : exec (.rrot d a b) s = execRrot d a b s := rfl
theorem exec_vput (a : Reg) (s : State) : exec (.vput a) s = execVput a s := rfl
theorem exec_vputNb (d : Reg) (a : Reg) (s : State) : exec (.vputNb d a) s = execVputNb d a s := rfl
theorem exec_vget (d : Reg) (s : State) : exec (.vget d) s = execVget d s := rfl
theorem exec_vgetNb (d : Reg) (a : Reg) (s : State) : exec (.vgetNb d a) s = execVgetNb d a s := rfl
theorem exec_twxWr (a : Reg) (sc : BitVec 3) (s : State) : exec (.twxWr a sc) s = execTwxWr a sc s := rfl
theorem exec_twxRd (d : Reg) (sc : BitVec 3) (s : State) : exec (.twxRd d sc) s = execTwxRd d sc s := rfl
theorem exec_ld (p : Option (BitVec 21)) (d : Reg) (a : Reg) (sc : BitVec 3) (z : BitVec 2) (pol : BitVec 2) (s : State) : exec (.ld p d a sc z pol) s = execLd p d a sc z pol s := rfl
theorem exec_st (p : Option (BitVec 21)) (d : Reg) (a : Reg) (sc : BitVec 3) (z : BitVec 2) (pol : BitVec 2) (s : State) : exec (.st p d a sc z pol) s = execSt p d a sc z pol s := rfl
theorem exec_aadd (p : Option (BitVec 21)) (d : Reg) (a : Reg) (sc : BitVec 3) (b : BitVec 4) (s : State) : exec (.aadd p d a sc b) s = execAadd p d a sc b s := rfl
theorem exec_amin (p : Option (BitVec 21)) (d : Reg) (a : Reg) (sc : BitVec 3) (b : BitVec 4) (s : State) : exec (.amin p d a sc b) s = execAmin p d a sc b s := rfl
theorem exec_amax (p : Option (BitVec 21)) (d : Reg) (a : Reg) (sc : BitVec 3) (b : BitVec 4) (s : State) : exec (.amax p d a sc b) s = execAmax p d a sc b s := rfl
theorem exec_aminu (p : Option (BitVec 21)) (d : Reg) (a : Reg) (sc : BitVec 3) (b : BitVec 4) (s : State) : exec (.aminu p d a sc b) s = execAminu p d a sc b s := rfl
theorem exec_amaxu (p : Option (BitVec 21)) (d : Reg) (a : Reg) (sc : BitVec 3) (b : BitVec 4) (s : State) : exec (.amaxu p d a sc b) s = execAmaxu p d a sc b s := rfl
theorem exec_aand (p : Option (BitVec 21)) (d : Reg) (a : Reg) (sc : BitVec 3) (b : BitVec 4) (s : State) : exec (.aand p d a sc b) s = execAand p d a sc b s := rfl
theorem exec_aor (p : Option (BitVec 21)) (d : Reg) (a : Reg) (sc : BitVec 3) (b : BitVec 4) (s : State) : exec (.aor p d a sc b) s = execAor p d a sc b s := rfl
theorem exec_axor (p : Option (BitVec 21)) (d : Reg) (a : Reg) (sc : BitVec 3) (b : BitVec 4) (s : State) : exec (.axor p d a sc b) s = execAxor p d a sc b s := rfl
theorem exec_axch (p : Option (BitVec 21)) (d : Reg) (a : Reg) (sc : BitVec 3) (b : BitVec 4) (s : State) : exec (.axch p d a sc b) s = execAxch p d a sc b s := rfl
theorem exec_acas (p : Option (BitVec 21)) (d : Reg) (a : Reg) (sc : BitVec 3) (b : BitVec 4) (s : State) : exec (.acas p d a sc b) s = execAcas p d a sc b s := rfl
theorem exec_afadd (p : Option (BitVec 21)) (d : Reg) (a : Reg) (sc : BitVec 3) (b : BitVec 4) (s : State) : exec (.afadd p d a sc b) s = execAfadd p d a sc b s := rfl
theorem exec_fenceAcq (sc : BitVec 3) (s : State) : exec (.fenceAcq sc) s = execFenceAcq sc s := rfl
theorem exec_fenceRel (sc : BitVec 3) (s : State) : exec (.fenceRel sc) s = execFenceRel sc s := rfl
theorem exec_fenceAcqrel (sc : BitVec 3) (s : State) : exec (.fenceAcqrel sc) s = execFenceAcqrel sc s := rfl
theorem exec_fenceSc (sc : BitVec 3) (s : State) : exec (.fenceSc sc) s = execFenceSc sc s := rfl
theorem exec_fenceAsync (sc : BitVec 3) (s : State) : exec (.fenceAsync sc) s = execFenceAsync sc s := rfl
theorem exec_touch (p : Option (BitVec 21)) (d : Reg) (a : Reg) (s : State) : exec (.touch p d a) s = execTouch p d a s := rfl
theorem exec_cmaintWb (a : Reg) (sc : BitVec 3) (s : State) : exec (.cmaintWb a sc) s = execCmaintWb a sc s := rfl
theorem exec_cmaintInv (a : Reg) (sc : BitVec 3) (s : State) : exec (.cmaintInv a sc) s = execCmaintInv a sc s := rfl
theorem exec_cmaintWbinv (a : Reg) (sc : BitVec 3) (s : State) : exec (.cmaintWbinv a sc) s = execCmaintWbinv a sc s := rfl
theorem exec_cmaintTlb (d : Reg) (a : Reg) (sc : BitVec 3) (s : State) : exec (.cmaintTlb d a sc) s = execCmaintTlb d a sc s := rfl
theorem exec_trec (d : Reg) (a : Reg) (sc : BitVec 4) (s : State) : exec (.trec d a sc) s = execTrec d a sc s := rfl
theorem exec_trecN (d : Reg) (a : Reg) (sc : BitVec 4) (s : State) : exec (.trecN d a sc) s = execTrecN d a sc s := rfl
theorem exec_tcopy (d : Reg) (a : Reg) (b : Reg) (s : State) : exec (.tcopy d a b) s = execTcopy d a b s := rfl
theorem exec_tstore (d : Reg) (a : Reg) (b : Reg) (s : State) : exec (.tstore d a b) s = execTstore d a b s := rfl
theorem exec_tcommit (d : Reg) (s : State) : exec (.tcommit d) s = execTcommit d s := rfl
theorem exec_twaitb (d : Reg) (a : Reg) (s : State) : exec (.twaitb d a) s = execTwaitb d a s := rfl
theorem exec_twaitbTest (d : Reg) (a : Reg) (s : State) : exec (.twaitbTest d a) s = execTwaitbTest d a s := rfl
theorem exec_cbarInit (d : Reg) (a : Reg) (s : State) : exec (.cbarInit d a) s = execCbarInit d a s := rfl
theorem exec_cbarArrive (d : Reg) (a : Reg) (s : State) : exec (.cbarArrive d a) s = execCbarArrive d a s := rfl
theorem exec_cbarExpect (d : Reg) (a : Reg) (s : State) : exec (.cbarExpect d a) s = execCbarExpect d a s := rfl
theorem exec_cbarWait (d : Reg) (a : Reg) (s : State) : exec (.cbarWait d a) s = execCbarWait d a s := rfl
theorem exec_cbarTest (d : Reg) (a : Reg) (s : State) : exec (.cbarTest d a) s = execCbarTest d a s := rfl
theorem exec_lcopy (d : Reg) (a : Reg) (b : Reg) (s : State) : exec (.lcopy d a b) s = execLcopy d a b s := rfl
theorem exec_gangSet (a : Reg) (s : State) : exec (.gangSet a) s = execGangSet a s := rfl
theorem exec_gangCur (a : Reg) (s : State) : exec (.gangCur a) s = execGangCur a s := rfl
theorem exec_gangNear (a : Reg) (s : State) : exec (.gangNear a) s = execGangNear a s := rfl
theorem exec_gangScl (a : Reg) (s : State) : exec (.gangScl a) s = execGangScl a s := rfl
theorem exec_mma (p : Option (BitVec 21)) (d : Reg) (a : Reg) (b : Reg) (s : State) : exec (.mma p d a b) s = execMma p d a b s := rfl
theorem exec_accAlloc (p : Option (BitVec 21)) (d : Reg) (a : Reg) (s : State) : exec (.accAlloc p d a) s = execAccAlloc p d a s := rfl
theorem exec_accFree (p : Option (BitVec 21)) (a : Reg) (s : State) : exec (.accFree p a) s = execAccFree p a s := rfl
theorem exec_accZero (p : Option (BitVec 21)) (a : Reg) (s : State) : exec (.accZero p a) s = execAccZero p a s := rfl
theorem exec_accRdf32 (p : Option (BitVec 21)) (d : Reg) (a : Reg) (s : State) : exec (.accRdf32 p d a) s = execAccRdf32 p d a s := rfl
theorem exec_accRdbf2 (p : Option (BitVec 21)) (d : Reg) (a : Reg) (s : State) : exec (.accRdbf2 p d a) s = execAccRdbf2 p d a s := rfl
theorem exec_accRdi32 (p : Option (BitVec 21)) (d : Reg) (a : Reg) (s : State) : exec (.accRdi32 p d a) s = execAccRdi32 p d a s := rfl
theorem exec_accWrf32 (p : Option (BitVec 21)) (d : Reg) (a : Reg) (s : State) : exec (.accWrf32 p d a) s = execAccWrf32 p d a s := rfl
theorem exec_accStn (p : Option (BitVec 21)) (d : Reg) (a : Reg) (s : State) : exec (.accStn p d a) s = execAccStn p d a s := rfl
theorem exec_accStat (p : Option (BitVec 21)) (d : Reg) (a : Reg) (s : State) : exec (.accStat p d a) s = execAccStat p d a s := rfl
theorem exec_mfence (d : Reg) (s : State) : exec (.mfence d) s = execMfence d s := rfl
theorem exec_mwaitb (d : Reg) (a : Reg) (s : State) : exec (.mwaitb d a) s = execMwaitb d a s := rfl
theorem exec_cpass (d : Reg) (s : State) : exec (.cpass d) s = execCpass d s := rfl
theorem exec_lstat (d : Reg) (s : State) : exec (.lstat d) s = execLstat d s := rfl
theorem exec_nop (s : State) : exec .nop s = execNop s := rfl
theorem exec_yield (s : State) : exec .yield s = execYield s := rfl
theorem exec_exit (s : State) : exec .exit s = execExit s := rfl
theorem exec_join (s : State) : exec .join s = execJoin s := rfl
theorem exec_tret (s : State) : exec .tret s = execTret s := rfl
theorem exec_tretSkip (s : State) : exec .tretSkip s = execTretSkip s := rfl
theorem exec_tfence (s : State) : exec .tfence s = execTfence s := rfl
theorem exec_brk (s : State) : exec .brk s = execBrk s := rfl
theorem exec_hvc (s : State) : exec .hvc s = execHvc s := rfl
theorem exec_texit (s : State) : exec .texit s = execTexit s := rfl
theorem exec_halt (s : State) : exec .halt s = execHalt s := rfl
theorem exec_barTeam (s : State) : exec .barTeam s = execBarTeam s := rfl
theorem exec_barClu (s : State) : exec .barClu s = execBarClu s := rfl
theorem exec_barGrid (s : State) : exec .barGrid s = execBarGrid s := rfl
theorem exec_gangClr (s : State) : exec .gangClr s = execGangClr s := rfl
theorem exec_ctake (s : State) : exec .ctake s = execCtake s := rfl
theorem exec_lrel (s : State) : exec .lrel s = execLrel s := rfl
theorem exec_nrmRead (s : State) : exec .nrmRead s = execNrmRead s := rfl
theorem exec_cycloRead (s : State) : exec .cycloRead s = execCycloRead s := rfl
theorem exec_aflagsRead (s : State) : exec .aflagsRead s = execAflagsRead s := rfl
theorem exec_rspeekWrite (s : State) : exec .rspeekWrite s = execRspeekWrite s := rfl
theorem exec_ctxbaseWrite (s : State) : exec .ctxbaseWrite s = execCtxbaseWrite s := rfl
theorem exec_ctxbaseTakeEffect (s : State) : exec .ctxbaseTakeEffect s = execCtxbaseTakeEffect s := rfl
theorem exec_boundPublishArrival (s : State) : exec .boundPublishArrival s = execBoundPublishArrival s := rfl
theorem exec_ringStepStart (s : State) : exec .ringStepStart s = execRingStepStart s := rfl
theorem exec_ringStepComplete (s : State) : exec .ringStepComplete s = execRingStepComplete s := rfl
theorem exec_beamEntryArrival (s : State) : exec .beamEntryArrival s = execBeamEntryArrival s := rfl
theorem exec_beamCreditReturn (s : State) : exec .beamCreditReturn s = execBeamCreditReturn s := rfl
theorem exec_beamRealignmentDue (s : State) : exec .beamRealignmentDue s = execBeamRealignmentDue s := rfl
theorem exec_beamRealignmentStart (s : State) : exec .beamRealignmentStart s = execBeamRealignmentStart s := rfl
theorem exec_beamRealignmentComplete (s : State) : exec .beamRealignmentComplete s = execBeamRealignmentComplete s := rfl
theorem exec_upperDeckGate (s : State) : exec .upperDeckGate s = execUpperDeckGate s := rfl
theorem exec_upperDeckUngate (s : State) : exec .upperDeckUngate s = execUpperDeckUngate s := rfl
theorem exec_refreshWindowStart (s : State) : exec .refreshWindowStart s = execRefreshWindowStart s := rfl
theorem exec_refreshWindowEnd (s : State) : exec .refreshWindowEnd s = execRefreshWindowEnd s := rfl
theorem exec_columnRefreshRateChange (s : State) : exec .columnRefreshRateChange s = execColumnRefreshRateChange s := rfl
theorem exec_residencyRequest (s : State) : exec .residencyRequest s = execResidencyRequest s := rfl
theorem exec_tlbInvalidationArrival (s : State) : exec .tlbInvalidationArrival s = execTlbInvalidationArrival s := rfl
theorem exec_tlbInvalidationAck (s : State) : exec .tlbInvalidationAck s = execTlbInvalidationAck s := rfl
theorem exec_shootdownComplete (s : State) : exec .shootdownComplete s = execShootdownComplete s := rfl
theorem exec_tableWalk (s : State) : exec .tableWalk s = execTableWalk s := rfl
theorem exec_walkAheadFetch (s : State) : exec .walkAheadFetch s = execWalkAheadFetch s := rfl
theorem exec_copyComplete (s : State) : exec .copyComplete s = execCopyComplete s := rfl
theorem exec_rendezvousComplete (s : State) : exec .rendezvousComplete s = execRendezvousComplete s := rfl
theorem exec_matrixOperationStart (s : State) : exec .matrixOperationStart s = execMatrixOperationStart s := rfl
theorem exec_matrixOperationComplete (s : State) : exec .matrixOperationComplete s = execMatrixOperationComplete s := rfl
theorem exec_accStnComplete (s : State) : exec .accStnComplete s = execAccStnComplete s := rfl
theorem exec_allocGrant (s : State) : exec .allocGrant s = execAllocGrant s := rfl
theorem exec_carryGrant (s : State) : exec .carryGrant s = execCarryGrant s := rfl
theorem exec_licenceGrant (s : State) : exec .licenceGrant s = execLicenceGrant s := rfl
theorem exec_licenceIdleRelease (s : State) : exec .licenceIdleRelease s = execLicenceIdleRelease s := rfl
theorem exec_licenceRelease (s : State) : exec .licenceRelease s = execLicenceRelease s := rfl
theorem exec_issueArbitration (s : State) : exec .issueArbitration s = execIssueArbitration s := rfl
theorem exec_runLimit (s : State) : exec .runLimit s = execRunLimit s := rfl
theorem exec_activeSetEntry (s : State) : exec .activeSetEntry s = execActiveSetEntry s := rfl
theorem exec_activeSetEviction (s : State) : exec .activeSetEviction s = execActiveSetEviction s := rfl
theorem exec_quantumExpiry (s : State) : exec .quantumExpiry s = execQuantumExpiry s := rfl
theorem exec_fixedLatencyWriteback (s : State) : exec .fixedLatencyWriteback s = execFixedLatencyWriteback s := rfl
theorem exec_interlockedWriteComplete (s : State) : exec .interlockedWriteComplete s = execInterlockedWriteComplete s := rfl
theorem exec_pathReady (s : State) : exec .pathReady s = execPathReady s := rfl
theorem exec_breakpointTrap (s : State) : exec .breakpointTrap s = execBreakpointTrap s := rfl
theorem exec_singleStepTrap (s : State) : exec .singleStepTrap s = execSingleStepTrap s := rfl
theorem exec_monitorWriteWake (s : State) : exec .monitorWriteWake s = execMonitorWriteWake s := rfl
theorem exec_monitorLineLoss (s : State) : exec .monitorLineLoss s = execMonitorLineLoss s := rfl
theorem exec_monwTimeout (s : State) : exec .monwTimeout s = execMonwTimeout s := rfl
theorem exec_taskPacketArrival (s : State) : exec .taskPacketArrival s = execTaskPacketArrival s := rfl
theorem exec_overflowPacketReturn (s : State) : exec .overflowPacketReturn s = execOverflowPacketReturn s := rfl
theorem exec_waveFormation (s : State) : exec .waveFormation s = execWaveFormation s := rfl
theorem exec_parkedContextResume (s : State) : exec .parkedContextResume s = execParkedContextResume s := rfl
theorem exec_waitCounterCheck (s : State) : exec .waitCounterCheck s = execWaitCounterCheck s := rfl
theorem exec_teamPlacement (s : State) : exec .teamPlacement s = execTeamPlacement s := rfl
theorem exec_priorityAging (s : State) : exec .priorityAging s = execPriorityAging s := rfl
theorem exec_sliceEnd (s : State) : exec .sliceEnd s = execSliceEnd s := rfl
theorem exec_preemptionStop (s : State) : exec .preemptionStop s = execPreemptionStop s := rfl
theorem exec_contextSave (s : State) : exec .contextSave s = execContextSave s := rfl
theorem exec_contextRestore (s : State) : exec .contextRestore s = execContextRestore s := rfl
theorem exec_teamKill (s : State) : exec .teamKill s = execTeamKill s := rfl
theorem exec_gridEnd (s : State) : exec .gridEnd s = execGridEnd s := rfl
theorem exec_holdRequest (s : State) : exec .holdRequest s = execHoldRequest s := rfl
theorem exec_debugHalt (s : State) : exec .debugHalt s = execDebugHalt s := rfl
theorem exec_debugResume (s : State) : exec .debugResume s = execDebugResume s := rfl
theorem exec_debugRdreg (s : State) : exec .debugRdreg s = execDebugRdreg s := rfl
theorem exec_debugWrreg (s : State) : exec .debugWrreg s = execDebugWrreg s := rfl
theorem exec_debugRdmem (s : State) : exec .debugRdmem s = execDebugRdmem s := rfl
theorem exec_debugWrmem (s : State) : exec .debugWrmem s = execDebugWrmem s := rfl
theorem exec_debugStep (s : State) : exec .debugStep s = execDebugStep s := rfl
theorem exec_debugSetbp (s : State) : exec .debugSetbp s = execDebugSetbp s := rfl
theorem exec_debugClrbp (s : State) : exec .debugClrbp s = execDebugClrbp s := rfl
theorem exec_debugList (s : State) : exec .debugList s = execDebugList s := rfl
theorem exec_writePropagation (s : State) : exec .writePropagation s = execWritePropagation s := rfl
theorem exec_cacheUncorrectableError (s : State) : exec .cacheUncorrectableError s = execCacheUncorrectableError s := rfl
theorem exec_dieLoss (s : State) : exec .dieLoss s = execDieLoss s := rfl
theorem exec_directoryRebuildComplete (s : State) : exec .directoryRebuildComplete s = execDirectoryRebuildComplete s := rfl
theorem exec_hostSnoop (s : State) : exec .hostSnoop s = execHostSnoop s := rfl
theorem exec_hostMemoryAccess (s : State) : exec .hostMemoryAccess s = execHostMemoryAccess s := rfl
theorem exec_remoteRequestReceive (s : State) : exec .remoteRequestReceive s = execRemoteRequestReceive s := rfl
theorem exec_remoteResponseReceive (s : State) : exec .remoteResponseReceive s = execRemoteResponseReceive s := rfl
theorem exec_requestTimeout (s : State) : exec .requestTimeout s = execRequestTimeout s := rfl
theorem exec_sequenceGap (s : State) : exec .sequenceGap s = execSequenceGap s := rfl
theorem exec_nackReceive (s : State) : exec .nackReceive s = execNackReceive s := rfl
theorem exec_flitReplay (s : State) : exec .flitReplay s = execFlitReplay s := rfl
theorem exec_portDown (s : State) : exec .portDown s = execPortDown s := rfl
theorem exec_planeRemap (s : State) : exec .planeRemap s = execPlaneRemap s := rfl
theorem exec_planeRecovery (s : State) : exec .planeRecovery s = execPlaneRecovery s := rfl
theorem exec_portWidthChange (s : State) : exec .portWidthChange s = execPortWidthChange s := rfl
theorem exec_subscriptionPush (s : State) : exec .subscriptionPush s = execSubscriptionPush s := rfl
theorem exec_spdmSession (s : State) : exec .spdmSession s = execSpdmSession s := rfl
theorem exec_domainKeyLoad (s : State) : exec .domainKeyLoad s = execDomainKeyLoad s := rfl
theorem exec_memberMaskUpdate (s : State) : exec .memberMaskUpdate s = execMemberMaskUpdate s := rfl
theorem exec_rekeyBarrierSend (s : State) : exec .rekeyBarrierSend s = execRekeyBarrierSend s := rfl
theorem exec_rekeySwitch (s : State) : exec .rekeySwitch s = execRekeySwitch s := rfl
theorem exec_rekeyTimeout (s : State) : exec .rekeyTimeout s = execRekeyTimeout s := rfl
theorem exec_collectiveComplete (s : State) : exec .collectiveComplete s = execCollectiveComplete s := rfl
theorem exec_collectiveTimeout (s : State) : exec .collectiveTimeout s = execCollectiveTimeout s := rfl
theorem exec_powerSample (s : State) : exec .powerSample s = execPowerSample s := rfl
theorem exec_tarUpdate (s : State) : exec .tarUpdate s = execTarUpdate s := rfl
theorem exec_thermalTrip (s : State) : exec .thermalTrip s = execThermalTrip s := rfl
theorem exec_thermalShutdown (s : State) : exec .thermalShutdown s = execThermalShutdown s := rfl
theorem exec_coldReset (s : State) : exec .coldReset s = execColdReset s := rfl
theorem exec_warmReset (s : State) : exec .warmReset s = execWarmReset s := rfl
theorem exec_hostLinkTrain (s : State) : exec .hostLinkTrain s = execHostLinkTrain s := rfl
theorem exec_kill (s : State) : exec .kill s = execKill s := rfl
theorem exec_healthCounterRead (s : State) : exec .healthCounterRead s = execHealthCounterRead s := rfl
theorem exec_managementRegisterWrite (s : State) : exec .managementRegisterWrite s = execManagementRegisterWrite s := rfl
theorem exec_coreFence (s : State) : exec .coreFence s = execCoreFence s := rfl
theorem exec_blockFence (s : State) : exec .blockFence s = execBlockFence s := rfl
theorem exec_ownerKeyAssign (s : State) : exec .ownerKeyAssign s = execOwnerKeyAssign s := rfl
theorem exec_ownerKeyRelease (s : State) : exec .ownerKeyRelease s = execOwnerKeyRelease s := rfl
theorem exec_writePerformed (s : State) : exec .writePerformed s = execWritePerformed s := rfl
theorem exec_peerNumberAssignment (s : State) : exec .peerNumberAssignment s = execPeerNumberAssignment s := rfl

end Sys2Proof.Machine
end

