-- ==== Sys2Proof/Laws/Maps.lean ====
section
/-! SUPPORT. Finite maps and memory cells: what a lookup gives after a change, and that the canonical form of the memory is kept. -/

namespace Sys2Proof.Machine

variable {κ α : Type} [DecidableEq κ]

@[simp] theorem kfind_nil (k : κ) : kfind ([] : KMap κ α) k = none := rfl

theorem kfind_kput (m : KMap κ α) (k j : κ) (v : α) : kfind (kput m k v) j = if j = k then some v else kfind m j := by
  induction m with
  | nil => by_cases h : k = j <;> simp [kput, kfind, h, eq_comm]
  | cons p m ih =>
    obtain ⟨a, x⟩ := p
    by_cases h : a = k
    · subst h
      by_cases h' : a = j
      · simp [kput, kfind, h']
      · simp [kput, kfind, h', Ne.symm h']
    · by_cases h' : a = j
      · subst h'; simp [kput, kfind, h]
      · simp [kput, kfind, h, h', ih]

@[simp] theorem kfind_kput_self (m : KMap κ α) (k : κ) (v : α) : kfind (kput m k v) k = some v := by simp [kfind_kput]

theorem kfind_kput_ne (m : KMap κ α) {k j : κ} (v : α) (h : j ≠ k) : kfind (kput m k v) j = kfind m j := by simp [kfind_kput, h]

theorem kput_kput (m : KMap κ α) (k : κ) (v w : α) : kput (kput m k v) k w = kput m k w := by
  induction m with
  | nil => simp [kput]
  | cons p m ih =>
    obtain ⟨a, x⟩ := p
    by_cases h : a = k
    · simp [kput, h]
    · simp [kput, h, ih]

theorem kfind_kdel (m : KMap κ α) (k j : κ) : kfind (kdel m k) j = if j = k then none else kfind m j := by
  induction m with
  | nil => simp [kdel]
  | cons p m ih =>
    obtain ⟨a, x⟩ := p
    simp only [kdel, ne_eq, decide_not] at ih
    by_cases h : a = k
    · subst h
      by_cases h' : j = a
      · subst h'; simp [kdel, ih]
      · simp [kdel, kfind, ih, h', Ne.symm h']
    · by_cases h' : a = j
      · subst h'; simp [kdel, kfind, h]
      · simp [kdel, kfind, h, h', ih]

-- ## Memory cells

theorem wfFrom_mono {lo hi : Nat} {m : List Host.Cell} (h : lo ≤ hi) (w : Memory.wfFrom hi m = true) : Memory.wfFrom lo m = true := by
  cases m with
  | nil => rfl
  | cons c m =>
    obtain ⟨a, b⟩ := c
    simp only [Memory.wfFrom, Bool.and_eq_true, decide_eq_true_eq] at w ⊢
    exact ⟨⟨by omega, w.1.2⟩, w.2⟩

theorem wfFrom_cons {lo a : Nat} {b : Byte} {m : List Host.Cell} :
    Memory.wfFrom lo ((a, b) :: m) = true ↔ lo ≤ a ∧ b ≠ blankByte ∧ Memory.wfFrom (a + 1) m = true := by
  simp [Memory.wfFrom, and_assoc]

/-- The cells from an address on, of a canonical memory. -/
theorem wfFrom_dropWhile {m : List Host.Cell} (hi : Nat) : ∀ lo, Memory.wfFrom lo m = true →
    Memory.wfFrom hi (m.dropWhile fun c => decide (c.1 < hi)) = true := by
  induction m with
  | nil => intros; rfl
  | cons c m ih =>
    obtain ⟨a, b⟩ := c
    intro lo w
    rw [wfFrom_cons] at w
    by_cases h : a < hi
    · simpa [List.dropWhile, h] using ih _ w.2.2
    · simp only [List.dropWhile, h, decide_false]
      exact wfFrom_cons.2 ⟨by omega, w.2.1, w.2.2⟩

theorem wfFrom_cellCons {a lo : Nat} {b : Byte} {m : List Host.Cell} (h : lo ≤ a) (w : Memory.wfFrom (a + 1) m = true) :
    Memory.wfFrom lo (cellCons a b m) = true := by
  unfold cellCons
  split
  · exact wfFrom_mono (by omega) w
  · exact wfFrom_cons.2 ⟨h, ‹_›, w⟩

theorem wfFrom_cellsFrom {bs : List Byte} {m : List Host.Cell} : ∀ a, Memory.wfFrom (a + bs.length) m = true →
    Memory.wfFrom a (cellsFrom a bs ++ m) = true := by
  induction bs with
  | nil => intro a w; simpa [cellsFrom] using w
  | cons b bs ih =>
    intro a w
    have := ih (a + 1) (by simpa [Nat.add_assoc, Nat.add_comm 1] using w)
    simp only [cellsFrom, cellCons]
    split
    · exact wfFrom_mono (by omega) this
    · exact wfFrom_cons.2 ⟨le_refl a, ‹_›, this⟩

theorem wfFrom_takeWhile_append {m t : List Host.Cell} (hi : Nat) (ht : Memory.wfFrom hi t = true) : ∀ lo, lo ≤ hi →
    Memory.wfFrom lo m = true → Memory.wfFrom lo (m.takeWhile (fun c => decide (c.1 < hi)) ++ t) = true := by
  induction m with
  | nil => intro lo h _; simpa using wfFrom_mono h ht
  | cons c m ih =>
    obtain ⟨a, b⟩ := c
    intro lo h w
    rw [wfFrom_cons] at w
    by_cases hh : a < hi
    · simp only [List.takeWhile, hh, decide_true, List.cons_append]
      exact wfFrom_cons.2 ⟨w.1, w.2.1, ih (a + 1) hh w.2.2⟩
    · simpa [List.takeWhile, hh] using wfFrom_mono h ht

/-- Every write keeps the canonical form of the memory. -/
theorem cellWrite_wf {m : List Host.Cell} (a : Nat) (bs : List Byte) (w : Memory.wf m = true) : Memory.wf (cellWrite m a bs) = true := by
  unfold cellWrite
  rw [List.append_assoc]
  exact wfFrom_takeWhile_append a (wfFrom_cellsFrom a (wfFrom_dropWhile _ 0 w)) 0 (Nat.zero_le a) w

-- ## Reads after writes

/-- The first listed address, if there is one, is at least a bound. -/
def HeadAbove (lo : Nat) (m : List Host.Cell) : Prop := ∀ c, m.head? = some c → lo ≤ c.1

theorem headAbove_mono {lo hi : Nat} {m : List Host.Cell} (h : lo ≤ hi) (w : HeadAbove hi m) : HeadAbove lo m := fun c e => Nat.le_trans h (w c e)

theorem headAbove_dropWhile (hi : Nat) (m : List Host.Cell) : HeadAbove hi (m.dropWhile fun c => decide (c.1 < hi)) := by
  induction m with
  | nil => intro c e; simp at e
  | cons x m ih =>
    by_cases hh : x.1 < hi
    · simpa [List.dropWhile, hh] using ih
    · intro c e; simp [List.dropWhile, hh] at e; subst e; omega

theorem headAbove_cellsFrom {bs : List Byte} {m : List Host.Cell} : ∀ a, HeadAbove (a + bs.length) m → HeadAbove a (cellsFrom a bs ++ m) := by
  induction bs with
  | nil => intro a w; simpa [cellsFrom] using w
  | cons b bs ih =>
    intro a w
    have w' : HeadAbove (a + 1 + bs.length) m := by simpa [Nat.add_assoc, Nat.add_comm 1] using w
    simp only [cellsFrom, cellCons]
    split
    · exact headAbove_mono (by omega) (ih (a + 1) w')
    · intro c e; simp at e; subst e; exact Nat.le_refl _

theorem cellGet_below {m : List Host.Cell} {lo a : Nat} (w : HeadAbove lo m) (h : a < lo) : cellGet m a = blankByte := by
  cases m with
  | nil => rfl
  | cons c m =>
    have := w c rfl
    simp [cellGet, show ¬ c.1 < a by omega, show c.1 ≠ a by omega]

theorem cellGet_dropWhile {m : List Host.Cell} {hi a : Nat} (h : hi ≤ a) :
    cellGet (m.dropWhile fun c => decide (c.1 < hi)) a = cellGet m a := by
  induction m with
  | nil => rfl
  | cons c m ih =>
    obtain ⟨x, b⟩ := c
    by_cases hh : x < hi
    · simp [List.dropWhile, hh, ih, cellGet, show x < a by omega]
    · simp [List.dropWhile, hh]

theorem cellGet_takeWhile_append {m t : List Host.Cell} {hi a : Nat} (h : hi ≤ a) :
    cellGet (m.takeWhile (fun c => decide (c.1 < hi)) ++ t) a = cellGet t a := by
  induction m with
  | nil => rfl
  | cons c m ih =>
    obtain ⟨x, b⟩ := c
    by_cases hh : x < hi
    · simp [List.takeWhile, hh, cellGet, show x < a by omega, ih]
    · simp [List.takeWhile, hh]

theorem cellGet_takeWhile_below {m t : List Host.Cell} {hi a : Nat} (h : a < hi) (ht : HeadAbove hi t) :
    cellGet (m.takeWhile (fun c => decide (c.1 < hi)) ++ t) a = cellGet m a := by
  induction m with
  | nil => simpa [cellGet] using cellGet_below ht h
  | cons c m ih =>
    obtain ⟨x, b⟩ := c
    by_cases hh : x < hi
    · simp only [List.takeWhile, hh, decide_true, List.cons_append, cellGet, ih]
    · simp only [List.takeWhile, hh, decide_false, List.nil_append, cellGet]
      rw [if_neg (by omega), if_neg (by omega)]
      exact cellGet_below ht h

theorem cellGet_cellsFrom {bs : List Byte} {m : List Host.Cell} : ∀ a x, HeadAbove (a + bs.length) m → a ≤ x →
    cellGet (cellsFrom a bs ++ m) x = if h : x - a < bs.length then bs[x - a] else cellGet m x := by
  induction bs with
  | nil => intro a x _ _; simp [cellsFrom]
  | cons b bs ih =>
    intro a x w h
    have w' : HeadAbove (a + 1 + bs.length) m := by simpa [Nat.add_assoc, Nat.add_comm 1] using w
    have wf := headAbove_cellsFrom (a + 1) w'
    rcases Nat.eq_or_lt_of_le h with rfl | hlt
    · simp only [cellsFrom, cellCons]
      split
      · rename_i hb
        rw [cellGet_below wf (by omega)]; simp [hb]
      · simp [cellGet]
    · have e := ih (a + 1) x w' hlt
      have step : cellGet (cellsFrom a (b :: bs) ++ m) x = cellGet (cellsFrom (a + 1) bs ++ m) x := by
        simp only [cellsFrom, cellCons]
        split
        · rfl
        · simp [cellGet, hlt]
      rw [step, e]
      obtain ⟨n, rfl⟩ : ∃ n, x = a + 1 + n := ⟨x - (a + 1), by omega⟩
      have h1 : a + 1 + n - (a + 1) = n := by omega
      have h2 : a + 1 + n - a = n + 1 := by omega
      simp [h1, h2]

/-- A byte read after a write, in any list of cells: the one written inside the range, the old one outside. -/
theorem cellGet_cellWrite {m : List Host.Cell} (a x : Nat) (bs : List Byte) :
    cellGet (cellWrite m a bs) x = if h : a ≤ x ∧ x - a < bs.length then bs[x - a]'h.2 else cellGet m x := by
  have wd := headAbove_dropWhile (a + bs.length) m
  unfold cellWrite
  rw [List.append_assoc]
  by_cases h : a ≤ x
  · rw [cellGet_takeWhile_append h, cellGet_cellsFrom a x wd h]
    by_cases h' : x - a < bs.length
    · simp [h, h']
    · simp only [h', dite_false, h, and_false]
      exact cellGet_dropWhile (by omega)
  · rw [cellGet_takeWhile_below (by omega) (headAbove_cellsFrom a wd)]
    simp [h]

theorem cellRead_getElem {m : List Host.Cell} {a n i : Nat} (h : i < n) :
    (cellRead m a n)[i]'(by simp [cellRead, h]) = cellGet m (a + i) := by
  simp only [cellRead, List.getElem_map, List.getElem_range]
  exact cellGet_dropWhile (by omega)

@[simp] theorem cellRead_length (m : List Host.Cell) (a n : Nat) : (cellRead m a n).length = n := by simp [cellRead]

end Sys2Proof.Machine
end

