-- ==== Sys2Proof/Laws/Issue.lean ====
section
/-! SUPPORT. What `issue` answers for an instruction that completes, and what that leaves as it was. -/

namespace Sys2Proof.Machine

-- ## Groups of a state

theorem modGroup_found {s : State} {k : GKey} {g : Group} (h : kfind s.groups k = some g) (f : Group → Group) :
    s.modGroup k f = s.setGroup k (f g) := by simp [State.modGroup, h]

theorem group_found {s : State} {k : GKey} {g : Group} (h : kfind s.groups k = some g) : s.group k = g := by simp [State.group, h]

@[simp] theorem setGroup_groups (s : State) (k : GKey) (g : Group) : (s.setGroup k g).groups = kput s.groups k g := rfl
theorem setGroup_setGroup (s : State) (k : GKey) (g h : Group) : (s.setGroup k g).setGroup k h = s.setGroup k h := by
  simp [State.setGroup, kput_kput]
theorem modGroup_setGroup (s : State) (k : GKey) (g : Group) (f : Group → Group) : (s.setGroup k g).modGroup k f = s.setGroup k (f g) := by
  rw [modGroup_found (kfind_kput_self _ _ _), setGroup_setGroup]
@[simp] theorem setGroup_rest (s : State) (k : GKey) (g : Group) : (s.setGroup k g).rest = s.rest := rfl
@[simp] theorem setGroup_slotW (s : State) (k : GKey) (g : Group) : (s.setGroup k g).slotW = s.slotW := rfl
@[simp] theorem setGroup_slotE (s : State) (k : GKey) (g : Group) : (s.setGroup k g).slotE = s.slotE := rfl
@[simp] theorem sooner_groups (s : State) (ds : List Due) : (s.sooner ds).groups = s.groups := rfl
@[simp] theorem sooner_rest (s : State) (ds : List Due) : (s.sooner ds).rest = s.rest := rfl

theorem modGroup_rest (s : State) (k : GKey) (f : Group → Group) : (s.modGroup k f).rest = s.rest := by
  unfold State.modGroup; split <;> rfl

theorem modGroup_others {s : State} {k j : GKey} (f : Group → Group) (h : j ≠ k) : kfind (s.modGroup k f).groups j = kfind s.groups j := by
  unfold State.modGroup
  split
  · rfl
  · exact kfind_kput_ne _ _ h

-- ## Steps that only order what comes next

/-- From `s` to `t` only the run length and the single step of group `k`, the clocks and the order of steps change. -/
structure Light (k : GKey) (s t : State) : Prop where
  rest   : t.rest = s.rest
  others : ∀ j, j ≠ k → kfind t.groups j = kfind s.groups j
  own    : ∀ h, kfind s.groups k = some h → ∃ r b, kfind t.groups k = some { h with runLen := r, step := b }

theorem Light.refl (k : GKey) (s : State) : Light k s s := ⟨rfl, fun _ _ => rfl, fun h hk => ⟨h.runLen, h.step, hk⟩⟩

theorem Light.trans {k : GKey} {s t u : State} (a : Light k s t) (b : Light k t u) : Light k s u := by
  refine ⟨b.rest.trans a.rest, fun j hj => (b.others j hj).trans (a.others j hj), fun h hk => ?_⟩
  obtain ⟨r, x, e⟩ := a.own h hk
  obtain ⟨r', x', e'⟩ := b.own _ e
  exact ⟨r', x', e'⟩

theorem light_sooner (k : GKey) (s : State) (ds : List Due) : Light k s (s.sooner ds) :=
  ⟨rfl, fun _ _ => rfl, fun h hk => ⟨h.runLen, h.step, hk⟩⟩

theorem light_endRun (k : GKey) (s : State) : Light k s (s.endRun k) := by
  refine ⟨by simpa [State.endRun, State.rest] using modGroup_rest s k _, fun j hj => ?_, fun h hk => ⟨0, h.step, ?_⟩⟩
  · simpa [State.endRun] using modGroup_others (s := s) _ hj
  · simp [State.endRun, modGroup_found hk]

theorem light_stepped (k : GKey) (s : State) (g : Group) (b : Bool) : Light k s (s.stepped k g b) := by
  have hm : Light k s (s.modGroup k fun g => { g with step := false }) :=
    ⟨modGroup_rest s k _, fun j hj => modGroup_others _ hj, fun h hk => ⟨h.runLen, false, by simp [modGroup_found hk]⟩⟩
  unfold State.stepped
  split
  · dsimp only
    split
    · exact hm
    · exact hm.trans (light_sooner k _ _)
  · exact Light.refl k s

/-- What `finish` does to a group that is there: its writes on their way count the beats. -/
theorem finish_light {s : State} {k : GKey} {h : Group} (hk : kfind s.groups k = some h) (n : Nat) (ended : Bool) :
    Light k (s.setGroup k (h.count (1 + s.slotW.toNat))) (s.finish k n ended) := by
  unfold State.finish
  simp only [modGroup_found hk]
  generalize hs : ({ s.setGroup k (h.count (1 + s.slotW.toNat)) with cycle := s.cycle + n + s.slotW.toNat } : State) = s1
  have h1 : Light k (s.setGroup k (h.count (1 + s.slotW.toNat))) s1 := by
    subst hs; exact ⟨rfl, fun _ _ => rfl, fun h hk => ⟨h.runLen, h.step, hk⟩⟩
  have h2 : ∀ s2, Light k s1 s2 → Light k (s.setGroup k (h.count (1 + s.slotW.toNat)))
      (if (s2.group k).quantum = 1024 then s2.sooner [⟨.quantumExpiry, { key := k }⟩] else s2) := by
    intro s2 l
    split
    · exact (h1.trans l).trans (light_sooner k _ _)
    · exact h1.trans l
  apply h2
  split
  · exact light_endRun k _
  · split
    · exact light_sooner k _ _
    · exact Light.refl k _

-- ## An instruction that passes its checks

theorem counted_wbasev (g : Group) (n : Nat) : (g.counted n).wbasev = g.wbasev := rfl

/-- With no source on its way, every check of its form passed, and an effect that completes, an instruction answers the state after it. -/
theorem issue_ok {form : View → Form} {body : View → Res} {s s2 : State} {k : GKey} {g : Group} {p : Path} (hi : Issuing s k g p)
    (f : Form) (hf : form ⟨s, k, g, p, p.pc + 4#32⟩ = f) (hw : g.waits (f.reads.map (g.wbasev + ·)) p.ex = false)
    (hc : (s.view k g p f.pfx).checked f body = .ok s2) :
    issue form body s = .next (((s2.modGroup k fun g => { g with cur := some { p with pc := p.pc + BitVec.ofNat 32 (pfxLen f.pfx) } }).finish k
      (beats g f p.ex) false).stepped k g false) := by
  simp only [issue, hi.focus, hi.found, hi.path, hf, hw, Bool.false_and, Bool.false_eq_true, if_false]
  simp only [State.view] at hc
  simp only [hc]

/-- An instruction whose effect sets the path itself. -/
theorem issue_went {form : View → Form} {body : View → Res} {s s2 : State} {k : GKey} {g : Group} {p : Path} (hi : Issuing s k g p)
    (f : Form) (hf : form ⟨s, k, g, p, p.pc + 4#32⟩ = f) (hw : g.waits (f.reads.map (g.wbasev + ·)) p.ex = false) (ended : Bool)
    (hc : (s.view k g p f.pfx).checked f body = .went s2 ended) :
    issue form body s = .next ((s2.finish k (beats g f p.ex) ended).stepped k g false) := by
  simp only [issue, hi.focus, hi.found, hi.path, hf, hw, Bool.false_and, Bool.false_eq_true, if_false]
  simp only [State.view] at hc
  simp only [hc]

/-- An instruction that traps, the entry of a split path fitting where there is one. -/
theorem issue_trap {form : View → Form} {body : View → Res} {s s2 : State} {k : GKey} {g : Group} {p : Path} (hi : Issuing s k g p)
    (f : Form) (hf : form ⟨s, k, g, p, p.pc + 4#32⟩ = f) (hw : g.waits (f.reads.map (g.wbasev + ·)) p.ex = false) (r : TrapReq)
    (hfit : (r.split && decide (r.lanes ≠ p.ex) && g.full) = false) (hc : (s.view k g p f.pfx).checked f body = .trap r s2) :
    issue form body s = .next (((s2.spend (beats g f p.ex)).trap k p (p.pc + BitVec.ofNat 32 (pfxLen f.pfx)) r).stepped k g true) := by
  simp only [issue, hi.focus, hi.found, hi.path, hf, hw, Bool.false_and, Bool.false_eq_true, if_false]
  simp only [State.view] at hc
  simp only [hc, hfit, Bool.false_eq_true, if_false]

/-- An instruction that does not issue, the device's steps that end its wait being due. -/
theorem issue_hold {form : View → Form} {body : View → Res} {s : State} {k : GKey} {g : Group} {p : Path} (hi : Issuing s k g p)
    (f : Form) (hf : form ⟨s, k, g, p, p.pc + 4#32⟩ = f) (hw : g.waits (f.reads.map (g.wbasev + ·)) p.ex = false) (ds : List Due)
    (hc : (s.view k g p f.pfx).checked f body = .hold ds) : issue form body s = .next (s.holdIssue k ds) := by
  simp only [issue, hi.focus, hi.found, hi.path, hf, hw, Bool.false_and, Bool.false_eq_true, if_false]
  simp only [State.view] at hc
  simp only [hc]

/-- The checks of a form, for an instruction whose registers are in order. -/
theorem checked_ok {s : State} {k : GKey} {g : Group} {p : Path} {f : Form} {body : View → Res} (h : Ready s k g p f.names f.reads)
    (hill : f.illegal = false) (hpriv : f.priv = false) (hlate : f.late = []) (hu : Uniform g p f.unif) (hch : f.check = true → NoPosted g) :
    (s.view k g p f.pfx).checked f body = body (s.view k g p f.pfx) := by
  have hwin : (f.names.any fun r => decide (g.wsize ≤ g.wbasev + r)) = false := by
    simp only [List.any_eq_false, decide_eq_true_eq, Nat.not_le]
    exact fun r hr => h.window r hr
  have hearly : ((s.grid k.slot).lr.stchk && g.early (f.reads.map (g.wbasev + ·)) p.ex) = false := by
    cases hb : (s.grid k.slot).lr.stchk with
    | false => rfl
    | true => simpa [hb] using h.early hb
  have hun : (f.unif.any fun r => !(s.view k g p f.pfx).uniform r) = false := by
    simp only [List.any_eq_false, Bool.not_eq_true']
    intro r hr
    have e : (s.view k g p f.pfx).uniform r = sameOver p.ex (g.read (g.wbasev + r)) := rfl
    simp [e, hu r hr]
  have hpost : f.check = true → (s.view k g p f.pfx).postedCheck f.checkWaits (fun _ => body (s.view k g p f.pfx)) = body (s.view k g p f.pfx) := by
    intro hc
    obtain ⟨h1, h2⟩ := hch hc
    simp [View.postedCheck, State.view, Group.counted, h1, h2]
  have e : ∀ l m, (g.counted s.issued).early l m = g.early l m := fun _ _ => rfl
  have e0 : ∀ m, g.early [] m = false := by intro m; simp [Group.early]
  unfold View.checked
  refine (if_neg (by simp [hill])).trans ((if_neg (by simp [hpriv])).trans ((if_neg (Bool.eq_false_iff.1 hwin)).trans
    ((if_neg ?_).trans ((if_neg (Bool.eq_false_iff.1 hun)).trans ?_))))
  · simp only [hlate, List.map_nil, State.view, View.ex, counted_wbasev, e, e0, Bool.or_false]
    exact Bool.eq_false_iff.1 hearly
  · split
    · exact hpost ‹_›
    · rfl

/-- What an instruction that completes leaves of the groups: the path goes on, the writes on their way count its beats, and nothing else of the
state after its effect changes but the clocks and the order of steps. -/
theorem after_facts {s2 : State} {k : GKey} {h : Group} (hk : kfind s2.groups k = some h) (q : Path) (n : Nat) (g : Group) (e b : Bool) :
    let t := ((s2.modGroup k fun g => { g with cur := some q }).finish k n e).stepped k g b
    t.rest = s2.rest ∧ (∀ j, j ≠ k → kfind t.groups j = kfind s2.groups j) ∧
      ∃ r x, kfind t.groups k = some { h with cur := some q, pend := (h.count (1 + s2.slotW.toNat)).pend, runLen := r, step := x } := by
  intro t
  have hk1 : kfind (s2.modGroup k fun g => { g with cur := some q }).groups k = some { h with cur := some q } := by
    simp [modGroup_found hk]
  have l := (finish_light hk1 n e).trans (light_stepped k _ g b)
  have hsw : (s2.modGroup k fun g => { g with cur := some q }).slotW = s2.slotW := by simp [modGroup_found hk]
  rw [hsw] at l
  refine ⟨l.rest.trans (modGroup_rest _ _ _), fun j hj => ?_, ?_⟩
  · rw [l.others j hj]
    simp only [setGroup_groups, kfind_kput_ne _ _ hj]
    exact modGroup_others _ hj
  · obtain ⟨r, x, hx⟩ := l.own _ (kfind_kput_self _ _ _)
    exact ⟨r, x, hx⟩

end Sys2Proof.Machine
end

