-- ==== Sys2Proof/Laws/Results.lean ====
section
/-! SUPPORT. What an instruction that completes does to its group: results in registers, results on their way, and flags. -/

namespace Sys2Proof.Machine

-- ## The state after an instruction that completes

/-- An instruction whose registers are in order, and whose effect is `s2` with the group `g2`, answers a state in which the group's path goes on,
the writes on their way have counted its beats, and nothing else differs from `s2` but the clocks and the order of steps. -/
theorem issue_effect {form : View → Form} {body : View → Res} {s s2 : State} {k : GKey} {g g2 : Group} {p : Path} (hi : Issuing s k g p)
    (f : Form) (hf : form ⟨s, k, g, p, p.pc + 4#32⟩ = f) (hr : Ready s k g p f.names f.reads) (hill : f.illegal = false)
    (hpriv : f.priv = false) (hlate : f.late = []) (hu : Uniform g p f.unif) (hch : f.check = true → NoPosted g)
    (hb : body (s.view k g p f.pfx) = .ok s2) (h2 : kfind s2.groups k = some g2) (hw : s2.slotW = s.slotW) :
    ∃ t, issue form body s = .next t ∧ t.rest = s2.rest ∧ (∀ j, j ≠ k → kfind t.groups j = kfind s2.groups j) ∧
      ∃ r x, kfind t.groups k = some
        { g2 with
          cur := some { p with pc := p.pc + BitVec.ofNat 32 (pfxLen f.pfx) }
          pend := (g2.count (1 + s.slotW.toNat)).pend
          runLen := r
          step := x } := by
  have hc := (checked_ok (body := body) hr hill hpriv hlate hu hch).trans hb
  refine ⟨_, issue_ok hi f hf hr.waits hc, ?_⟩
  rw [← hw]
  exact after_facts h2 _ _ _ _ _

-- ## Writes that the next instruction reads

theorem mergeLanes_get {α : Type} (m : Word) (a b : Lanes α) (L : Fin 32) :
    (mergeLanes m a b)[L] = if m.getLsbD L then a[L] else b[L] := by simp [mergeLanes]

theorem lanesOf_get {α : Type} (f : Fin 32 → α) (L : Fin 32) : (lanesOf f)[L] = f L := by simp [lanesOf]

theorem uniformLanes_get {α : Type} (x : α) (L : Fin 32) : (uniformLanes x)[L] = x := by simp [uniformLanes]

theorem laneSeen_old {n : Nat} {L : Fin 32} {old : Word} {ps : List PendWrite} (h : ∀ q ∈ ps, ¬ (q.reg = n ∧ q.mask.getLsbD L = true)) :
    laneSeen n L old ps = old := by
  induction ps with
  | nil => rfl
  | cons q ps ih =>
    have hq := h q (by simp)
    simp only [laneSeen]
    rw [if_neg (by simpa using hq)]
    exact ih fun x hx => h x (by simp [hx])

theorem read_none {g : Group} {n : Nat} {L : Fin 32} (h : ∀ q ∈ g.pend, ¬ (q.reg = n ∧ q.mask.getLsbD L = true)) :
    (g.read n)[L] = (g.reg n).vals[L] := by
  unfold Group.read
  dsimp only
  split
  · rfl
  · rw [lanesOf_get]
    exact laneSeen_old fun q hq => h q (by simpa using hq)

theorem dropLanes_mem {n : Nat} {m : Word} {ps : List PendWrite} {q : PendWrite} (h : q ∈ dropLanes n m ps) (hn : q.reg = n) {L : Fin 32}
    (hL : m.getLsbD L = true) : q.mask.getLsbD L = false := by
  simp only [dropLanes, List.mem_filter, List.mem_map] at h
  obtain ⟨⟨x, _, rfl⟩, _⟩ := h
  split at hn
  · rename_i hx
    have hm : m.getLsbD L.val = true := hL
    simp [hx, hm]
  · exact absurd hn ‹_›

theorem dropLanes_filter (n : Nat) (m : Word) (ps : List PendWrite) (dests : List Nat) (hn : n ∈ dests) :
    (dropLanes n m ps).filter (fun q => !dests.contains q.reg) = ps.filter fun q => !dests.contains q.reg := by
  induction ps with
  | nil => rfl
  | cons q ps ih =>
    simp only [dropLanes, List.map_cons, List.filter_cons] at ih ⊢
    by_cases hq : q.reg = n
    · simp only [hq, if_true]
      split
      · simp only [List.filter_cons]
        simpa [hn] using ih
      · simpa [hn, hq] using ih
    · simp only [hq, if_false]
      have h0 : (decide (q.reg ≠ n) || decide (q.mask ≠ 0#32) || decide (q.absent ≠ 0#32) || q.raises) = true := by simp [hq]
      simp only [h0, if_true, List.filter_cons]
      split
      · rw [ih]
      · exact ih

theorem written_vals (old : RegVal) (live m : Word) (v : Lanes Word) : (old.written live m v).vals =
    if sameOver m v && m &&& live == live then uniformLanes v[lowestLane m] else mergeLanes m v old.vals := by
  unfold RegVal.written
  dsimp only
  split <;> rfl

theorem put_vals (g : Group) (n : Nat) (m : Word) (v : Lanes Word) : ((g.put n m v).reg n).vals =
    if sameOver m v && m &&& g.live == g.live then uniformLanes v[lowestLane m] else mergeLanes m v (g.reg n).vals := by
  rw [← written_vals]
  simp only [Group.put, Group.reg, kfind_kput_self, Option.getD_some]

/-- A lane that a write names holds its value. -/
theorem put_in (g : Group) (n : Nat) (m : Word) (v : Lanes Word) {L : Fin 32} (h : m.getLsbD L.val = true) : ((g.put n m v).reg n).vals[L] = v[L] := by
  rw [put_vals]
  split
  · rename_i hs
    have hall := (Bool.and_eq_true_iff.1 hs).1
    simp only [sameOver, List.all_eq_true, beq_iff_eq] at hall
    exact (uniformLanes_get _ L).trans (hall L (by simp [maskLanes, h])).symm
  · rw [mergeLanes_get, if_pos h]

/-- A lane that a write does not name keeps its contents, unless it has ended and one copy stands for the register. -/
theorem put_out (g : Group) (n : Nat) (m : Word) (v : Lanes Word) {L : Fin 32} (h : m.getLsbD L.val = false) :
    ((g.put n m v).reg n).vals[L] = (g.reg n).vals[L] ∨ (g.live.getLsbD L = false ∧ ((g.put n m v).reg n).vals[L] = v[lowestLane m]) := by
  rw [put_vals]
  split
  · rename_i hs
    have hl := beq_iff_eq.1 (Bool.and_eq_true_iff.1 hs).2
    refine .inr ⟨?_, uniformLanes_get _ L⟩
    have e := congrArg (BitVec.getLsbD · L.val) hl
    rw [BitVec.getLsbD_and, h] at e
    exact e.symm
  · rw [mergeLanes_get, if_neg (Bool.eq_false_iff.1 h)]; exact .inl rfl

theorem reg_put_ne (g : Group) {n j : Nat} (m : Word) (v : Lanes Word) (h : j ≠ n) : (g.put n m v).reg j = g.reg j := by
  simp [Group.put, Group.reg, kfind_kput_ne _ _ h]

theorem count_filter (ps : List PendWrite) (c : Nat) (f : Nat → Bool) :
    ((ps.map fun p => { p with left := p.left.map (· - c) } : List PendWrite)).filter (fun q => f q.reg) =
      (ps.filter fun q => f q.reg).map fun q => q.aged c := by
  rw [List.filter_map]; rfl

/-- A register that was written at once reads so after the instruction. -/
theorem writes_write {g0 : Group} (n : Nat) (m : Word) (v : Lanes Word) (h : Group) (c : Nat)
    (hp : h.pend = ((g0.write n m v).count c).pend) (hrg : h.regs = (g0.write n m v).regs) :
    Writes g0 h m n fun L => v[L] := by
  intro L
  have e : h.reg n = (g0.write n m v).reg n := by simp [Group.reg, hrg]
  refine ⟨fun hL => ?_, fun hL => by rw [e]; exact put_out _ n m v hL⟩
  rw [read_none, e]
  · exact put_in _ n m v hL
  · intro q hq ⟨hn, hm⟩
    rw [hp] at hq
    simp only [Group.count, Group.write, Group.put, List.mem_map] at hq
    obtain ⟨x, hx, rfl⟩ := hq
    exact Bool.false_ne_true ((dropLanes_mem hx hn hL).symm.trans hm)

-- ## Results of a group's instruction

/-- What one instruction's effect does to its group, before its beats are counted: only the listed registers of the allotment, the writes on
their way to them, and the flags change. -/
structure OnlyDests (g h : Group) (dests : List Nat) : Prop where
  rest : h.rest = g.rest
  regs : ∀ n, n ∉ dests → h.reg n = g.reg n
  pend : h.pend.filter (fun q => !dests.contains q.reg) = g.pend.filter fun q => !dests.contains q.reg

theorem onlyDests_counted (g : Group) (n : Nat) : OnlyDests g (g.counted n) [] := ⟨rfl, fun _ _ => rfl, rfl⟩

theorem OnlyDests.mono {g h : Group} {a b : List Nat} (x : OnlyDests g h a) (hab : ∀ n ∈ a, n ∈ b) : OnlyDests g h b := by
  refine ⟨x.rest, fun n hn => x.regs n fun h => hn (hab n h), ?_⟩
  have e : ∀ ps : List PendWrite, ps.filter (fun q => !b.contains q.reg) =
      (ps.filter fun q => !a.contains q.reg).filter fun q => !b.contains q.reg := by
    intro ps
    rw [List.filter_filter]
    apply List.filter_congr
    intro q _
    by_cases hb : q.reg ∈ b
    · simp [hb]
    · have ha : q.reg ∉ a := fun h => hb (hab q.reg h)
      simp [hb, ha]
  rw [e, x.pend, ← e]

theorem OnlyDests.trans {g h j : Group} {a : List Nat} (x : OnlyDests g h a) (y : OnlyDests h j a) : OnlyDests g j a :=
  ⟨y.rest.trans x.rest, fun n hn => (y.regs n hn).trans (x.regs n hn), y.pend.trans x.pend⟩

theorem onlyDests_write (g : Group) (n : Nat) (m : Word) (v : Lanes Word) : OnlyDests g (g.write n m v) [n] := by
  refine ⟨rfl, fun j hj => ?_, dropLanes_filter n m g.pend [n] (by simp)⟩
  exact reg_put_ne _ m v (by simpa using hj)

theorem onlyDests_writeLater (g : Group) (q : PendWrite) : OnlyDests g (g.writeLater q) [q.reg] :=
  ⟨rfl, fun _ _ => rfl, by simp [Group.writeLater, List.filter_append]⟩

/-- The group, its path and its beats counted, differs from the one before only in those registers. -/
theorem onlyRegs_of {s t s2 : State} {k : GKey} {g g2 : Group} {q : Path} {dests : List Nat} {r : Nat} {x : Bool}
    (hrest : t.rest = s2.rest) (hoth : ∀ j, j ≠ k → kfind t.groups j = kfind s2.groups j) (srest : s2.rest = s.rest)
    (soth : ∀ j, j ≠ k → kfind s2.groups j = kfind s.groups j) (ho : OnlyDests g g2 dests)
    (hk : kfind t.groups k =
      some { g2 with cur := some q, pend := (g2.count (1 + s.slotW.toNat)).pend, runLen := r, step := x }) :
    OnlyRegs s t k g { g2 with cur := some q, pend := (g2.count (1 + s.slotW.toNat)).pend, runLen := r, step := x } dests := by
  refine ⟨hk, hrest.trans srest, fun j hj => (hoth j hj).trans (soth j hj), ho.rest, ho.regs, ?_⟩
  rw [← ho.pend]
  exact count_filter g2.pend _ fun n => !dests.contains n

theorem view_found {s : State} {k : GKey} {g : Group} {p : Path} (pfx : Pfx) :
    kfind (s.view k g p pfx).s.groups k = some (g.counted s.issued) := by
  simp [State.view]

theorem view_others {s : State} {k j : GKey} {g : Group} {p : Path} (pfx : Pfx) (h : j ≠ k) :
    kfind (s.view k g p pfx).s.groups j = kfind s.groups j := by
  simp [State.view, kfind_kput_ne _ _ h]

theorem view_rest {s : State} {k : GKey} {g : Group} {p : Path} (pfx : Pfx) : (s.view k g p pfx).s.rest = s.rest := rfl

/-- Everything that an instruction does whose effect is a change of its own group, within some registers and the flags. -/
theorem group_spec {form : View → Form} {body : View → Res} {s : State} {k : GKey} {g : Group} {p : Path} (hi : Issuing s k g p)
    (f : Form) (hf : form ⟨s, k, g, p, p.pc + 4#32⟩ = f) (hr : Ready s k g p f.names f.reads) (hill : f.illegal = false)
    (hpriv : f.priv = false) (hlate : f.late = []) (hu : Uniform g p f.unif) (hch : f.check = true → NoPosted g) (g2 : Group)
    (hb : body (s.view k g p f.pfx) = .ok ((s.view k g p f.pfx).s.setGroup k g2)) {dests : List Nat} (ho : OnlyDests g g2 dests) :
    ∃ t h, issue form body s = .next t ∧ OnlyRegs s t k g h dests ∧ GoesOn h p (p.pc + BitVec.ofNat 32 (pfxLen f.pfx)) ∧
      h.regs = g2.regs ∧ h.pend = (g2.count (1 + s.slotW.toNat)).pend ∧ h.aflags = g2.aflags := by
  have hk : kfind ((s.view k g p f.pfx).s.setGroup k g2).groups k = some g2 := kfind_kput_self _ _ _
  have hw : ((s.view k g p f.pfx).s.setGroup k g2).slotW = s.slotW := setGroup_slotW _ _ _
  have hrest : ((s.view k g p f.pfx).s.setGroup k g2).rest = s.rest := (setGroup_rest _ _ _).trans (view_rest f.pfx)
  have hoth : ∀ j, j ≠ k → kfind ((s.view k g p f.pfx).s.setGroup k g2).groups j = kfind s.groups j := fun j hj => by
    rw [setGroup_groups, kfind_kput_ne _ _ hj, view_others _ hj]
  obtain ⟨t, ht, h1, h2, r, x, h3⟩ := issue_effect hi f hf hr hill hpriv hlate hu hch hb hk hw
  exact ⟨t, _, ht, onlyRegs_of h1 h2 hrest hoth ho h3, rfl, rfl, rfl, rfl⟩

theorem wr_view {s : State} {k : GKey} {g : Group} {p : Path} (pfx : Pfx) (d : Nat) (m : Word) (v : Lanes Word) :
    (s.view k g p pfx).wrm (s.view k g p pfx).s d m v =
      (s.view k g p pfx).s.setGroup k ((g.counted s.issued).write (g.wbasev + d) m v) :=
  modGroup_found (view_found pfx) _

/-- An instruction that writes one register at once. -/
theorem wr_spec {form : View → Form} {body : View → Res} {s : State} {k : GKey} {g : Group} {p : Path} (hi : Issuing s k g p)
    (f : Form) (hf : form ⟨s, k, g, p, p.pc + 4#32⟩ = f) (hr : Ready s k g p f.names f.reads) (hill : f.illegal = false)
    (hpriv : f.priv = false) (hlate : f.late = []) (hu : Uniform g p f.unif) (hch : f.check = true → NoPosted g) (d : Nat) (v : Lanes Word)
    (hb : body (s.view k g p f.pfx) = .ok ((s.view k g p f.pfx).wr (s.view k g p f.pfx).s d v)) :
    ∃ t h, issue form body s = .next t ∧ OnlyRegs s t k g h [g.wbasev + d] ∧ h.aflags = g.aflags ∧
      GoesOn h p (p.pc + BitVec.ofNat 32 (pfxLen f.pfx)) ∧ Writes g h p.ex (g.wbasev + d) fun L => v[L] := by
  obtain ⟨t, h, e, ho, hg, hregs, hpend, hfl⟩ := group_spec hi f hf hr hill hpriv hlate hu hch _
    (hb.trans (congrArg Res.ok (wr_view f.pfx d _ v)))
    (((onlyDests_counted g s.issued).mono (by simp)).trans (onlyDests_write (g.counted s.issued) (g.wbasev + d) p.ex v))
  exact ⟨t, h, e, ho, hfl, hg, writes_write (g0 := g.counted s.issued) _ _ v h _ hpend hregs⟩

/-- A group after a write that the next instruction reads, in the state that a group already has been set in. -/
theorem wrm_setGroup (v : View) (s : State) (g1 : Group) (d : Nat) (m : Word) (x : Lanes Word) :
    v.wrm (s.setGroup v.k g1) d m x = s.setGroup v.k (g1.write (v.g.wbasev + d) m x) := modGroup_setGroup _ _ _ _

/-- The flags that an instruction raises. -/
def Group.raise (g : Group) (m : Word) (f : Lanes (BitVec 5)) : Group :=
  { g with aflags := lanesOf fun L => if m.getLsbD L then g.aflags[L] ||| f[L] else g.aflags[L] }

theorem onlyDests_raise (g : Group) (m : Word) (f : Lanes (BitVec 5)) : OnlyDests g (g.raise m f) [] := by
  unfold Group.raise
  exact ⟨by simp only [Group.rest], fun _ _ => by simp only [Group.reg], by simp only⟩

theorem flag_view {s : State} {k : GKey} {g : Group} {p : Path} (pfx : Pfx) (f : Lanes (BitVec 5)) :
    (s.view k g p pfx).flag (s.view k g p pfx).s f = (s.view k g p pfx).s.setGroup k ((g.counted s.issued).raise p.ex f) :=
  modGroup_found (view_found pfx) _

theorem raise_into {g h : Group} {m : Word} {f : Lanes (BitVec 5)} (e : h.aflags = (g.raise m f).aflags) :
    Flags.into g h m fun L => f[L] := fun L => by
  rw [e]; exact lanesOf_get _ L

/-- An instruction that raises flags and writes one register at once. -/
theorem flag_wr_spec {form : View → Form} {body : View → Res} {s : State} {k : GKey} {g : Group} {p : Path} (hi : Issuing s k g p)
    (f : Form) (hf : form ⟨s, k, g, p, p.pc + 4#32⟩ = f) (hr : Ready s k g p f.names f.reads) (hill : f.illegal = false)
    (hpriv : f.priv = false) (hlate : f.late = []) (hu : Uniform g p f.unif) (hch : f.check = true → NoPosted g) (d : Nat) (v : Lanes Word)
    (fl : Lanes (BitVec 5))
    (hb : body (s.view k g p f.pfx) =
      .ok ((s.view k g p f.pfx).wr ((s.view k g p f.pfx).flag (s.view k g p f.pfx).s fl) d v)) :
    ∃ t h, issue form body s = .next t ∧ OnlyRegs s t k g h [g.wbasev + d] ∧ (Flags.into g h p.ex fun L => fl[L]) ∧
      GoesOn h p (p.pc + BitVec.ofNat 32 (pfxLen f.pfx)) ∧ Writes g h p.ex (g.wbasev + d) fun L => v[L] := by
  have e1 : (s.view k g p f.pfx).wr ((s.view k g p f.pfx).flag (s.view k g p f.pfx).s fl) d v = (s.view k g p f.pfx).s.setGroup k
      (((g.counted s.issued).raise p.ex fl).write (g.wbasev + d) p.ex v) := by
    rw [flag_view]; exact wrm_setGroup (s.view k g p f.pfx) _ _ _ _ _
  have ho := (((onlyDests_counted g s.issued).trans (onlyDests_raise _ p.ex fl)).mono (b := [g.wbasev + d]) (by simp)).trans
    (onlyDests_write ((g.counted s.issued).raise p.ex fl) (g.wbasev + d) p.ex v)
  obtain ⟨t, h, e, ho, hg, hregs, hpend, hfl⟩ := group_spec hi f hf hr hill hpriv hlate hu hch _ (hb.trans (congrArg Res.ok e1)) ho
  exact ⟨t, h, e, ho, raise_into (g := g.counted s.issued) hfl, hg,
    writes_write (g0 := (g.counted s.issued).raise p.ex fl) _ _ v h _ hpend hregs⟩

/-- The newest write on its way, after the beats of its own instruction. -/
theorem sends_of {g h : Group} {q : PendWrite} {c : Nat} (hp : h.pend = ((g.writeLater q).count c).pend) :
    h.pend.getLast? = some (q.aged c) := by
  simp [hp, Group.count, Group.writeLater, PendWrite.aged]

/-- An instruction that sends a result of fixed latency on its way, with its flags. -/
theorem fixed_spec {form : View → Form} {body : View → Res} {s : State} {k : GKey} {g : Group} {p : Path} (hi : Issuing s k g p)
    (f : Form) (hf : form ⟨s, k, g, p, p.pc + 4#32⟩ = f) (hr : Ready s k g p f.names f.reads) (hill : f.illegal = false)
    (hpriv : f.priv = false) (hlate : f.late = []) (hu : Uniform g p f.unif) (hch : f.check = true → NoPosted g) (d n : Nat)
    (val : Fin 32 → Word) (fl : Lanes (BitVec 5))
    (hb : body (s.view k g p f.pfx) = .ok ((s.view k g p f.pfx).wrFixed (s.view k g p f.pfx).s d n (lanesOf val) fl)) :
    ∃ t h, issue form body s = .next t ∧ OnlyRegs s t k g h [g.wbasev + d] ∧ h.aflags = g.aflags ∧
      GoesOn h p (p.pc + BitVec.ofNat 32 (pfxLen f.pfx)) ∧
      Sends h p.ex (g.wbasev + d) (some (n - (1 + s.slotW.toNat))) val (fun L => fl[L]) ∧
      h.reg (g.wbasev + d) = g.reg (g.wbasev + d) := by
  let q : PendWrite := { reg := g.wbasev + d, mask := p.ex, vals := lanesOf val,
                         flags := lanesOf fun L => if p.ex.getLsbD L then fl[L] else 0#5, left := some n }
  have e1 : (s.view k g p f.pfx).wrFixed (s.view k g p f.pfx).s d n (lanesOf val) fl =
      (s.view k g p f.pfx).s.setGroup k ((g.counted s.issued).writeLater q) := modGroup_found (view_found f.pfx) _
  have ho := ((onlyDests_counted g s.issued).mono (b := [g.wbasev + d]) (by simp)).trans
    (onlyDests_writeLater (g.counted s.issued) q)
  obtain ⟨t, h, e, ho, hg, hregs, hpend, hfl⟩ := group_spec hi f hf hr hill hpriv hlate hu hch _ (hb.trans (congrArg Res.ok e1)) ho
  refine ⟨t, h, e, ho, hfl, hg, sends_of hpend, ?_⟩
  simp [Group.reg, hregs, Group.writeLater, Group.counted]

/-- The newest interlocked result of an instruction, to every active lane. -/
theorem later_spec {form : View → Form} {body : View → Res} {s : State} {k : GKey} {g : Group} {p : Path} (hi : Issuing s k g p)
    (f : Form) (hf : form ⟨s, k, g, p, p.pc + 4#32⟩ = f) (hr : Ready s k g p f.names f.reads) (hill : f.illegal = false)
    (hpriv : f.priv = false) (hlate : f.late = []) (hu : Uniform g p f.unif) (hch : f.check = true → NoPosted g) (d : Nat)
    (v : Lanes Word)
    (hb : body (s.view k g p f.pfx) = .ok ((s.view k g p f.pfx).wrLater (s.view k g p f.pfx).s d p.ex v)) :
    ∃ t h, issue form body s = .next t ∧ OnlyRegs s t k g h [g.wbasev + d] ∧ h.aflags = g.aflags ∧
      GoesOn h p (p.pc + BitVec.ofNat 32 (pfxLen f.pfx)) ∧
      h.pend.getLast? = some { reg := g.wbasev + d, mask := p.ex, vals := v, left := none } := by
  have e1 : (s.view k g p f.pfx).wrLater (s.view k g p f.pfx).s d p.ex v =
      (s.view k g p f.pfx).s.setGroup k ((g.counted s.issued).writeLater
        { reg := g.wbasev + d, mask := p.ex, vals := v, left := none }) := modGroup_found (view_found f.pfx) _
  have ho := ((onlyDests_counted g s.issued).mono (b := [g.wbasev + d]) (by simp)).trans
    (onlyDests_writeLater (g.counted s.issued) { reg := g.wbasev + d, mask := p.ex, vals := v, left := none })
  obtain ⟨t, h, e, ho, hg, hregs, hpend, hfl⟩ := group_spec hi f hf hr hill hpriv hlate hu hch _ (hb.trans (congrArg Res.ok e1)) ho
  exact ⟨t, h, e, ho, hfl, hg, by simpa [PendWrite.aged] using sends_of hpend⟩

/-- An instruction that writes a pair of registers at once. -/
theorem wr2_spec {form : View → Form} {body : View → Res} {s : State} {k : GKey} {g : Group} {p : Path} (hi : Issuing s k g p)
    (f : Form) (hf : form ⟨s, k, g, p, p.pc + 4#32⟩ = f) (hr : Ready s k g p f.names f.reads) (hill : f.illegal = false)
    (hpriv : f.priv = false) (hlate : f.late = []) (hu : Uniform g p f.unif) (hch : f.check = true → NoPosted g) (d : Nat)
    (v : Lanes DWord) (g1 : Group) (h1 : OnlyDests g g1 []) (hlive : g1.live = g.live)
    (hb : body (s.view k g p f.pfx) = .ok ((s.view k g p f.pfx).wr2 ((s.view k g p f.pfx).s.setGroup k g1) d v)) :
    ∃ t h, issue form body s = .next t ∧ OnlyRegs s t k g h [g.wbasev + d, g.wbasev + d + 1] ∧ h.aflags = g1.aflags ∧ GoesOn h p (p.pc + BitVec.ofNat 32 (pfxLen f.pfx)) ∧
      Writes2 g h p.ex (g.wbasev + d) fun L => v[L] := by
  let lo : Lanes Word := lanesOf fun L => loWord v[L]
  let hi' : Lanes Word := lanesOf fun L => hiWord v[L]
  have e1 : (s.view k g p f.pfx).wr2 ((s.view k g p f.pfx).s.setGroup k g1) d v = (s.view k g p f.pfx).s.setGroup k
      ((g1.write (g.wbasev + d) p.ex lo).write (g.wbasev + d + 1) p.ex hi') :=
    (congrArg (fun x => (s.view k g p f.pfx).wrm x (d + 1) p.ex hi') (wrm_setGroup (s.view k g p f.pfx) _ _ _ _ _)).trans
      (wrm_setGroup (s.view k g p f.pfx) _ _ _ _ _)
  have ho := ((h1.mono (b := [g.wbasev + d, g.wbasev + d + 1]) (by simp)).trans ((onlyDests_write g1 (g.wbasev + d) p.ex lo).mono (by simp))).trans
    ((onlyDests_write (g1.write (g.wbasev + d) p.ex lo) (g.wbasev + d + 1) p.ex hi').mono (by simp))
  obtain ⟨t, h, e, ho, hg, hregs, hpend, hfl⟩ := group_spec hi f hf hr hill hpriv hlate hu hch _ (hb.trans (congrArg Res.ok e1)) ho
  refine ⟨t, h, e, ho, hfl, hg, ?_, ?_⟩
  · intro L
    have hne : g.wbasev + d ≠ g.wbasev + d + 1 := by omega
    have er : h.reg (g.wbasev + d) = (g1.write (g.wbasev + d) p.ex lo).reg (g.wbasev + d) := by
      have : h.reg (g.wbasev + d) = ((g1.write (g.wbasev + d) p.ex lo).write (g.wbasev + d + 1) p.ex hi').reg (g.wbasev + d) := by
        simp [Group.reg, hregs]
      rw [this]; exact reg_put_ne _ _ _ hne
    have e0 : g1.reg (g.wbasev + d) = g.reg (g.wbasev + d) := h1.regs _ (by simp)
    refine ⟨fun hL => ?_, fun hL => ?_⟩
    rotate_left
    · rw [er, ← hlive, ← e0]
      exact (put_out g1 (g.wbasev + d) p.ex lo hL).imp_right fun x => ⟨x.1, x.2.trans (lanesOf_get _ _)⟩
    rw [read_none, er]
    · exact (put_in g1 (g.wbasev + d) p.ex lo hL).trans (lanesOf_get _ L)
    · intro q hq ⟨hn, hm⟩
      rw [hpend] at hq
      simp only [Group.count, Group.write, Group.put, List.mem_map] at hq
      obtain ⟨x, hx, rfl⟩ := hq
      have hx' : x ∈ dropLanes (g.wbasev + d) p.ex g1.pend := by
        simp only [dropLanes, List.mem_filter, List.mem_map] at hx ⊢
        obtain ⟨⟨y, hy, rfl⟩, _⟩ := hx
        have : ¬ y.reg = g.wbasev + d + 1 := by
          intro hh
          rw [if_pos hh] at hn
          exact hne (hn.symm.trans hh)
        rw [if_neg this]
        exact hy
      exact Bool.false_ne_true ((dropLanes_mem hx' hn hL).symm.trans hm)
  · have w := writes_write (g0 := g1.write (g.wbasev + d) p.ex lo) _ _ hi' h _ hpend hregs
    intro L
    refine ⟨fun hL => by rw [(w L).1 hL]; exact lanesOf_get _ L, fun hL => ?_⟩
    have e2 : (g1.write (g.wbasev + d) p.ex lo).reg (g.wbasev + d + 1) = g.reg (g.wbasev + d + 1) :=
      (reg_put_ne _ _ _ (by omega)).trans (h1.regs _ (by simp))
    have e3 : (g1.write (g.wbasev + d) p.ex lo).live = g.live := hlive
    rw [← e2, ← e3]
    exact ((w L).2 hL).imp_right fun x => ⟨x.1, x.2.trans (lanesOf_get _ _)⟩

end Sys2Proof.Machine
end

