-- ==== Sys2Proof/Laws/Integer.lean ====
section
/-! SUPPORT. The shared operations of the integer and register instructions, and their functions of words in the library's terms. -/

namespace Sys2Proof.Machine

/-- Results that agree lane by lane. -/
theorem Writes.congr {g h : Group} {m : Word} {n : Nat} {f f' : Fin 32 → Word} (w : Writes g h m n f) (e : ∀ L, f L = f' L) :
    Writes g h m n f' := fun L => ⟨fun hL => ((w L).1 hL).trans (e L), e (lowestLane m) ▸ (w L).2⟩

theorem Writes2.congr {g h : Group} {m : Word} {n : Nat} {f f' : Fin 32 → DWord} (w : Writes2 g h m n f) (e : ∀ L, f L = f' L) :
    Writes2 g h m n f' := ⟨w.1.congr fun L => by rw [e L], w.2.congr fun L => by rw [e L]⟩

/-- What an instruction reads in a register of the window. -/
theorem view_rd (s : State) (k : GKey) (g : Group) (p : Path) (x : Pfx) (r : Nat) (L : Fin 32) :
    ((s.view k g p x).rd r)[L] = g.seen r L := rfl

/-- What it reads in a pair. -/
theorem view_rd2 (s : State) (k : GKey) (g : Group) (p : Path) (x : Pfx) (r : Nat) (L : Fin 32) :
    ((s.view k g p x).rd2 r)[L] = g.seen2 r L := lanesOf_get _ L

theorem alu2_spec {f : Word → Word → Word} {s : State} {k : GKey} {g : Group} {p : Path} (hi : Issuing s k g p) {d a b : Reg}
    (hr : Ready s k g p [d.toNat, a.toNat, b.toNat] [a.toNat, b.toNat]) :
    ∃ t h, alu2 f d a b s = .next t ∧ OnlyRegs s t k g h [g.wbasev + d.toNat] ∧ h.aflags = g.aflags ∧ GoesOn h p (p.pc + 4#32) ∧
      Writes g h p.ex (g.wbasev + d.toNat) fun L => f (g.seen a.toNat L) (g.seen b.toNat L) := by
  obtain ⟨t, h, h1, h2, h3, h4, h5⟩ := wr_spec (form := fun _ =>
      { names := [d.toNat, a.toNat, b.toNat], reads := [a.toNat, b.toNat] }) (body := fun v =>
      .ok (v.wr v.s d.toNat (lanesOf fun L => f (v.rd a.toNat)[L] (v.rd b.toNat)[L]))) hi
    { names := [d.toNat, a.toNat, b.toNat], reads := [a.toNat, b.toNat] } rfl hr rfl rfl rfl (by simp [Uniform]) (by simp) d.toNat _ rfl
  exact ⟨t, h, h1, h2, h3, h4, h5.congr fun L => lanesOf_get _ L⟩

theorem alu3_spec {f : Word → Word → Word → Word} {s : State} {k : GKey} {g : Group} {p : Path} (hi : Issuing s k g p) {d a b : Reg}
    (hr : Ready s k g p [d.toNat, a.toNat, b.toNat] [d.toNat, a.toNat, b.toNat]) :
    ∃ t h, alu3 f d a b s = .next t ∧ OnlyRegs s t k g h [g.wbasev + d.toNat] ∧ h.aflags = g.aflags ∧ GoesOn h p (p.pc + 4#32) ∧
      Writes g h p.ex (g.wbasev + d.toNat) fun L => f (g.seen d.toNat L) (g.seen a.toNat L) (g.seen b.toNat L) := by
  obtain ⟨t, h, h1, h2, h3, h4, h5⟩ := wr_spec (form := fun _ =>
      { names := [d.toNat, a.toNat, b.toNat], reads := [d.toNat, a.toNat, b.toNat] }) (body := fun v =>
      .ok (v.wr v.s d.toNat (lanesOf fun L => f (v.rd d.toNat)[L] (v.rd a.toNat)[L] (v.rd b.toNat)[L]))) hi
    { names := [d.toNat, a.toNat, b.toNat], reads := [d.toNat, a.toNat, b.toNat] } rfl hr rfl rfl rfl (by simp [Uniform]) (by simp) d.toNat _
    rfl
  exact ⟨t, h, h1, h2, h3, h4, h5.congr fun L => lanesOf_get _ L⟩

theorem alu1_spec {x : Pfx} {f : Word → Word} {s : State} {k : GKey} {g : Group} {p : Path} (hi : Issuing s k g p) {d a : Reg}
    (hr : Ready s k g p [d.toNat, a.toNat] [a.toNat]) :
    ∃ t h, alu1 x f d a s = .next t ∧ OnlyRegs s t k g h [g.wbasev + d.toNat] ∧ h.aflags = g.aflags ∧
      GoesOn h p (p.pc + BitVec.ofNat 32 (pfxLen x)) ∧ Writes g h p.ex (g.wbasev + d.toNat) fun L => f (g.seen a.toNat L) := by
  obtain ⟨t, h, h1, h2, h3, h4, h5⟩ := wr_spec (form := fun _ => { pfx := x, names := [d.toNat, a.toNat], reads := [a.toNat] })
    (body := fun v => .ok (v.wr v.s d.toNat (lanesOf fun L => f (v.rd a.toNat)[L]))) hi
    { pfx := x, names := [d.toNat, a.toNat], reads := [a.toNat] } rfl hr rfl rfl rfl (by simp [Uniform]) (by simp) d.toNat _ rfl
  exact ⟨t, h, h1, h2, h3, h4, h5.congr fun L => lanesOf_get _ L⟩

/-- An instruction that writes one value to every active lane. -/
theorem fill_spec {form : View → Form} {body : View → Res} {s : State} {k : GKey} {g : Group} {p : Path} (hi : Issuing s k g p) (f : Form)
    (hf : form ⟨s, k, g, p, p.pc + 4#32⟩ = f) (hr : Ready s k g p f.names f.reads) (hill : f.illegal = false) (hpriv : f.priv = false)
    (hlate : f.late = []) (hu : Uniform g p f.unif) (hch : f.check = true → NoPosted g) (d : Nat) (x : Word)
    (hb : body (s.view k g p f.pfx) = .ok ((s.view k g p f.pfx).wr (s.view k g p f.pfx).s d (uniformLanes x))) :
    ∃ t h, issue form body s = .next t ∧ OnlyRegs s t k g h [g.wbasev + d] ∧ h.aflags = g.aflags ∧
      GoesOn h p (p.pc + BitVec.ofNat 32 (pfxLen f.pfx)) ∧ Writes g h p.ex (g.wbasev + d) fun _ => x := by
  obtain ⟨t, h, h1, h2, h3, h4, h5⟩ := wr_spec hi f hf hr hill hpriv hlate hu hch d _ hb
  exact ⟨t, h, h1, h2, h3, h4, h5.congr fun L => uniformLanes_get x L⟩

-- ## The functions in the library's terms

theorem ofInt_mul (a b : Word) : BitVec.ofInt 64 (a.toInt * b.toInt) = a.signExtend 64 * b.signExtend 64 := by
  apply BitVec.eq_of_toInt_eq
  rw [BitVec.toInt_ofInt, BitVec.toInt_mul, BitVec.toInt_signExtend_of_le (by omega), BitVec.toInt_signExtend_of_le (by omega)]

theorem ofNat_mul (a b : Word) : BitVec.ofNat 64 (a.toNat * b.toNat) = a.setWidth 64 * b.setWidth 64 := by
  apply BitVec.eq_of_toNat_eq
  simp [BitVec.toNat_mul]

theorem shiftLeft_eq (a : Word) (n : Nat) : shiftLeft a n = a <<< n := by
  unfold shiftLeft
  split
  · exact (BitVec.shiftLeft_eq_zero ‹_›).symm
  · rfl

theorem shiftRight_eq (a : Word) (n : Nat) : shiftRight a n = a >>> n := by
  unfold shiftRight
  split
  · exact (BitVec.ushiftRight_eq_zero ‹_›).symm
  · rfl

theorem shiftArith_eq (a : Word) (n : Nat) : shiftArith a n = a.sshiftRight n := by
  unfold shiftArith
  split
  · apply BitVec.eq_of_getLsbD_eq
    intro i hi
    rw [BitVec.getLsbD_sshiftRight]
    have h1 : ∀ i < 32, (0xFFFFFFFF#32).getLsbD i = true := by decide
    have h2 : ¬ (n + i < 32) := by omega
    have h3 : ¬ 32 ≤ i := by omega
    cases a.msb <;> simp [h2, h3, h1 i hi, -BitVec.reduceOfNat, -BitVec.getLsbD_eq_getElem]
  · rfl

theorem rotLeft_eq (a : Word) (n : Nat) : rotLeft a n = a.rotateLeft (n % 32) := by
  unfold rotLeft BitVec.rotateLeft BitVec.rotateLeftAux
  rcases Nat.eq_zero_or_pos (n % 32) with h | h
  · simp [h, BitVec.ushiftRight_eq_zero]
  · rw [Nat.mod_eq_of_lt (show 32 - n % 32 < 32 by omega), Nat.mod_mod]

end Sys2Proof.Machine
end

