-- ==== Sys2Proof/Laws/Float.lean ====
section
/-! SUPPORT. The shared operations of the floating instructions. -/

namespace Sys2Proof.Machine

/-- What a floating instruction computes in a lane. -/
theorem float_seen (s : State) (k : GKey) (g : Group) (p : Path) (regs : List Nat) (f : Word → List Word → Word × Flags) (L : Fin 32) :
    (lanesOf fun L => f p.fmt ((regs.map (s.view k g p none).rd).map fun x => x[L]))[L] = f p.fmt (regs.map fun r => g.seen r L) := by
  rw [lanesOf_get, List.map_map]
  rfl

theorem Flags.into.congr {g h : Group} {m : Word} {f f' : Fin 32 → BitVec 5} (w : Flags.into g h m f) (e : ∀ L, f L = f' L) :
    Flags.into g h m f' := fun L => by rw [← e L]; exact w L

/-- A floating instruction without a fixed latency writes D and raises its flags. -/
theorem floatOp_now {regs : List Nat} {d : Reg} {n : Nat} {f : Word → List Word → Word × Flags} {s : State} {k : GKey} {g : Group} {p : Path}
    (hi : Issuing s k g p) (hr : Ready s k g p (d.toNat :: regs) regs) :
    ∃ t h, floatOp regs d n none f s = .next t ∧ OnlyRegs s t k g h [g.wbasev + d.toNat] ∧ GoesOn h p (p.pc + 4#32) ∧
      (Flags.into g h p.ex fun L => (f p.fmt (regs.map fun r => g.seen r L)).2) ∧
      Writes g h p.ex (g.wbasev + d.toNat) fun L => (f p.fmt (regs.map fun r => g.seen r L)).1 := by
  let F : Form := { names := d.toNat :: regs, reads := regs, factor := n }
  let r : Lanes (Word × Flags) := lanesOf fun L => f p.fmt ((regs.map (s.view k g p none).rd).map fun x => x[L])
  obtain ⟨t, h, h1, h2, h3, h4, h5⟩ := flag_wr_spec (form := fun _ => F) (body := fun v =>
      let xs := regs.map v.rd
      let r : Lanes (Word × Flags) := lanesOf fun L => f v.p.fmt (xs.map fun x => x[L])
      .ok (v.wr (v.flag v.s (lanesOf fun L => r[L].2)) d.toNat (lanesOf fun L => r[L].1))) hi F rfl hr rfl rfl rfl (by simp [F, Uniform])
    (by simp [F]) d.toNat (lanesOf fun L => r[L].1) (lanesOf fun L => r[L].2) rfl
  refine ⟨t, h, h1, h2, h4, h3.congr fun L => ?_, h5.congr fun L => ?_⟩
  · rw [lanesOf_get, float_seen]
  · rw [lanesOf_get, float_seen]

/-- A floating instruction of fixed latency sends D and its flags on their way. -/
theorem floatOp_fixed {regs : List Nat} {d : Reg} {n l : Nat} {f : Word → List Word → Word × Flags} {s : State} {k : GKey} {g : Group}
    {p : Path} (hi : Issuing s k g p) (hr : Ready s k g p (d.toNat :: regs) regs) :
    ∃ t h, floatOp regs d n (some l) f s = .next t ∧ OnlyRegs s t k g h [g.wbasev + d.toNat] ∧ h.aflags = g.aflags ∧ GoesOn h p (p.pc + 4#32) ∧
      h.reg (g.wbasev + d.toNat) = g.reg (g.wbasev + d.toNat) ∧
      Sends h p.ex (g.wbasev + d.toNat) (some (l - (1 + s.slotW.toNat))) (fun L => (f p.fmt (regs.map fun r => g.seen r L)).1)
        fun L => (f p.fmt (regs.map fun r => g.seen r L)).2 := by
  let F : Form := { names := d.toNat :: regs, reads := regs, factor := n }
  let r : Lanes (Word × Flags) := lanesOf fun L => f p.fmt ((regs.map (s.view k g p none).rd).map fun x => x[L])
  obtain ⟨t, h, h1, h2, h3, h4, h5, h6⟩ := fixed_spec (form := fun _ => F) (body := fun v =>
      let xs := regs.map v.rd
      let r : Lanes (Word × Flags) := lanesOf fun L => f v.p.fmt (xs.map fun x => x[L])
      .ok (v.wrFixed v.s d.toNat l (lanesOf fun L => r[L].1) (lanesOf fun L => r[L].2))) hi F rfl hr rfl rfl rfl (by simp [F, Uniform])
    (by simp [F]) d.toNat l (fun L => r[L].1) (lanesOf fun L => r[L].2) rfl
  refine ⟨t, h, h1, h2, h3, h4, h6, ?_⟩
  have e1 : (fun L : Fin 32 => r[L].1) = fun L => (f p.fmt (regs.map fun r => g.seen r L)).1 :=
    funext fun L => congrArg Prod.fst (float_seen s k g p regs f L)
  have e2 : (fun L : Fin 32 => (lanesOf fun L => r[L].2)[L]) = fun L => (f p.fmt (regs.map fun r => g.seen r L)).2 :=
    funext fun L => (lanesOf_get _ L).trans (congrArg Prod.snd (float_seen s k g p regs f L))
  rw [← e1, ← e2]
  exact h5

/-- A conversion of one register under an FMT without reserved bits. -/
theorem convert_spec {f : Word → Word → Word × Flags} {d a : Reg} {s : State} {k : GKey} {g : Group} {p : Path}
    (hi : Issuing s k g p) (hf : fmtReserved p.fmt = false) (hr : Ready s k g p [d.toNat, a.toNat] [a.toNat]) :
    ∃ t h, convert f d a s = .next t ∧ OnlyRegs s t k g h [g.wbasev + d.toNat] ∧ GoesOn h p (p.pc + 4#32) ∧
      (Flags.into g h p.ex fun L => (f p.fmt (g.seen a.toNat L)).2) ∧
      Writes g h p.ex (g.wbasev + d.toNat) fun L => (f p.fmt (g.seen a.toNat L)).1 := by
  let F : Form := { names := [d.toNat, a.toNat], reads := [a.toNat], illegal := fmtReserved p.fmt }
  let r : Lanes (Word × Flags) := lanesOf fun L => f p.fmt ((s.view k g p none).rd a.toNat)[L]
  obtain ⟨t, h, h1, h2, h3, h4, h5⟩ := flag_wr_spec
    (form := fun v => { names := [d.toNat, a.toNat], reads := [a.toNat], illegal := fmtReserved v.p.fmt }) (body := fun v =>
      let x := v.rd a.toNat
      let r : Lanes (Word × Flags) := lanesOf fun L => f v.p.fmt x[L]
      .ok (v.wr (v.flag v.s (lanesOf fun L => r[L].2)) d.toNat (lanesOf fun L => r[L].1))) hi F rfl hr hf rfl rfl (by simp [F, Uniform])
    (by simp [F]) d.toNat (lanesOf fun L => r[L].1) (lanesOf fun L => r[L].2) rfl
  refine ⟨t, h, h1, h2, h4, h3.congr fun L => ?_, h5.congr fun L => ?_⟩
  · rw [lanesOf_get, lanesOf_get]; rfl
  · rw [lanesOf_get, lanesOf_get]; rfl

end Sys2Proof.Machine
end

