-- ==== Sys2Proof/Laws/State.lean ====
section
/-! SUPPORT. What each named update of the state does to each field: it changes one, and leaves every other as it was. -/

namespace Sys2Proof.Machine

-- ## setGroup

@[simp] theorem State.setGroup_mem (s : State) (k : GKey) (g : Group) : (s.setGroup k g).mem = s.mem := rfl
@[simp] theorem State.setGroup_writes (s : State) (k : GKey) (g : Group) : (s.setGroup k g).writes = s.writes := rfl
@[simp] theorem State.setGroup_nextWrite (s : State) (k : GKey) (g : Group) : (s.setGroup k g).nextWrite = s.nextWrite := rfl
@[simp] theorem State.setGroup_poisoned (s : State) (k : GKey) (g : Group) : (s.setGroup k g).poisoned = s.poisoned := rfl
@[simp] theorem State.setGroup_keys (s : State) (k : GKey) (g : Group) : (s.setGroup k g).keys = s.keys := rfl
@[simp] theorem State.setGroup_keyGen (s : State) (k : GKey) (g : Group) : (s.setGroup k g).keyGen = s.keyGen := rfl
@[simp] theorem State.setGroup_lineKeys (s : State) (k : GKey) (g : Group) : (s.setGroup k g).lineKeys = s.lineKeys := rfl
@[simp] theorem State.setGroup_caches (s : State) (k : GKey) (g : Group) : (s.setGroup k g).caches = s.caches := rfl
@[simp] theorem State.setGroup_snoopBad (s : State) (k : GKey) (g : Group) : (s.setGroup k g).snoopBad = s.snoopBad := rfl
@[simp] theorem State.setGroup_rebuild (s : State) (k : GKey) (g : Group) : (s.setGroup k g).rebuild = s.rebuild := rfl
@[simp] theorem State.setGroup_delayed (s : State) (k : GKey) (g : Group) : (s.setGroup k g).delayed = s.delayed := rfl
@[simp] theorem State.setGroup_notes (s : State) (k : GKey) (g : Group) : (s.setGroup k g).notes = s.notes := rfl
@[simp] theorem State.setGroup_lost (s : State) (k : GKey) (g : Group) : (s.setGroup k g).lost = s.lost := rfl
@[simp] theorem State.setGroup_tlb (s : State) (k : GKey) (g : Group) : (s.setGroup k g).tlb = s.tlb := rfl
@[simp] theorem State.setGroup_tables (s : State) (k : GKey) (g : Group) : (s.setGroup k g).tables = s.tables := rfl
@[simp] theorem State.setGroup_walks (s : State) (k : GKey) (g : Group) : (s.setGroup k g).walks = s.walks := rfl
@[simp] theorem State.setGroup_shoots (s : State) (k : GKey) (g : Group) : (s.setGroup k g).shoots = s.shoots := rfl
@[simp] theorem State.setGroup_nextShoot (s : State) (k : GKey) (g : Group) : (s.setGroup k g).nextShoot = s.nextShoot := rfl
@[simp] theorem State.setGroup_ready (s : State) (k : GKey) (g : Group) : (s.setGroup k g).ready = s.ready := rfl
@[simp] theorem State.setGroup_bootFail (s : State) (k : GKey) (g : Group) : (s.setGroup k g).bootFail = s.bootFail := rfl
@[simp] theorem State.setGroup_fatal (s : State) (k : GKey) (g : Group) : (s.setGroup k g).fatal = s.fatal := rfl
@[simp] theorem State.setGroup_thermTrip (s : State) (k : GKey) (g : Group) : (s.setGroup k g).thermTrip = s.thermTrip := rfl
@[simp] theorem State.setGroup_replace (s : State) (k : GKey) (g : Group) : (s.setGroup k g).replace = s.replace := rfl
@[simp] theorem State.setGroup_degraded (s : State) (k : GKey) (g : Group) : (s.setGroup k g).degraded = s.degraded := rfl
@[simp] theorem State.setGroup_hlogb (s : State) (k : GKey) (g : Group) : (s.setGroup k g).hlogb = s.hlogb := rfl
@[simp] theorem State.setGroup_hlogn (s : State) (k : GKey) (g : Group) : (s.setGroup k g).hlogn = s.hlogn := rfl
@[simp] theorem State.setGroup_hlogt (s : State) (k : GKey) (g : Group) : (s.setGroup k g).hlogt = s.hlogt := rfl
@[simp] theorem State.setGroup_killReg (s : State) (k : GKey) (g : Group) : (s.setGroup k g).killReg = s.killReg := rfl
@[simp] theorem State.setGroup_killTeam (s : State) (k : GKey) (g : Group) : (s.setGroup k g).killTeam = s.killTeam := rfl
@[simp] theorem State.setGroup_killNames (s : State) (k : GKey) (g : Group) : (s.setGroup k g).killNames = s.killNames := rfl
@[simp] theorem State.setGroup_hcnt (s : State) (k : GKey) (g : Group) : (s.setGroup k g).hcnt = s.hcnt := rfl
@[simp] theorem State.setGroup_hostOut (s : State) (k : GKey) (g : Group) : (s.setGroup k g).hostOut = s.hostOut := rfl
@[simp] theorem State.setGroup_hostCached (s : State) (k : GKey) (g : Group) : (s.setGroup k g).hostCached = s.hostCached := rfl
@[simp] theorem State.setGroup_hostLink (s : State) (k : GKey) (g : Group) : (s.setGroup k g).hostLink = s.hostLink := rfl
@[simp] theorem State.setGroup_off (s : State) (k : GKey) (g : Group) : (s.setGroup k g).off = s.off := rfl
@[simp] theorem State.setGroup_imgBase (s : State) (k : GKey) (g : Group) : (s.setGroup k g).imgBase = s.imgBase := rfl
@[simp] theorem State.setGroup_imgLen (s : State) (k : GKey) (g : Group) : (s.setGroup k g).imgLen = s.imgLen := rfl
@[simp] theorem State.setGroup_dbgBase (s : State) (k : GKey) (g : Group) : (s.setGroup k g).dbgBase = s.dbgBase := rfl
@[simp] theorem State.setGroup_sensors (s : State) (k : GKey) (g : Group) : (s.setGroup k g).sensors = s.sensors := rfl
@[simp] theorem State.setGroup_capAll (s : State) (k : GKey) (g : Group) : (s.setGroup k g).capAll = s.capAll := rfl
@[simp] theorem State.setGroup_hotDecks (s : State) (k : GKey) (g : Group) : (s.setGroup k g).hotDecks = s.hotDecks := rfl
@[simp] theorem State.setGroup_gated (s : State) (k : GKey) (g : Group) : (s.setGroup k g).gated = s.gated := rfl
@[simp] theorem State.setGroup_gating (s : State) (k : GKey) (g : Group) : (s.setGroup k g).gating = s.gating := rfl
@[simp] theorem State.setGroup_selfPeer (s : State) (k : GKey) (g : Group) : (s.setGroup k g).selfPeer = s.selfPeer := rfl
@[simp] theorem State.setGroup_numbered (s : State) (k : GKey) (g : Group) : (s.setGroup k g).numbered = s.numbered := rfl
@[simp] theorem State.setGroup_domains (s : State) (k : GKey) (g : Group) : (s.setGroup k g).domains = s.domains := rfl
@[simp] theorem State.setGroup_ports (s : State) (k : GKey) (g : Group) : (s.setGroup k g).ports = s.ports := rfl
@[simp] theorem State.setGroup_planeMap (s : State) (k : GKey) (g : Group) : (s.setGroup k g).planeMap = s.planeMap := rfl
@[simp] theorem State.setGroup_moving (s : State) (k : GKey) (g : Group) : (s.setGroup k g).moving = s.moving := rfl
@[simp] theorem State.setGroup_seqOut (s : State) (k : GKey) (g : Group) : (s.setGroup k g).seqOut = s.seqOut := rfl
@[simp] theorem State.setGroup_seqIn (s : State) (k : GKey) (g : Group) : (s.setGroup k g).seqIn = s.seqIn := rfl
@[simp] theorem State.setGroup_requests (s : State) (k : GKey) (g : Group) : (s.setGroup k g).requests = s.requests := rfl
@[simp] theorem State.setGroup_sent (s : State) (k : GKey) (g : Group) : (s.setGroup k g).sent = s.sent := rfl
@[simp] theorem State.setGroup_heldOut (s : State) (k : GKey) (g : Group) : (s.setGroup k g).heldOut = s.heldOut := rfl
@[simp] theorem State.setGroup_rekeyAsks (s : State) (k : GKey) (g : Group) : (s.setGroup k g).rekeyAsks = s.rekeyAsks := rfl
@[simp] theorem State.setGroup_pushes (s : State) (k : GKey) (g : Group) : (s.setGroup k g).pushes = s.pushes := rfl
@[simp] theorem State.setGroup_owed (s : State) (k : GKey) (g : Group) : (s.setGroup k g).owed = s.owed := rfl
@[simp] theorem State.setGroup_sessions (s : State) (k : GKey) (g : Group) : (s.setGroup k g).sessions = s.sessions := rfl
@[simp] theorem State.setGroup_subs (s : State) (k : GKey) (g : Group) : (s.setGroup k g).subs = s.subs := rfl
@[simp] theorem State.setGroup_homes (s : State) (k : GKey) (g : Group) : (s.setGroup k g).homes = s.homes := rfl
@[simp] theorem State.setGroup_ucopies (s : State) (k : GKey) (g : Group) : (s.setGroup k g).ucopies = s.ucopies := rfl
@[simp] theorem State.setGroup_colls (s : State) (k : GKey) (g : Group) : (s.setGroup k g).colls = s.colls := rfl
@[simp] theorem State.setGroup_grids (s : State) (k : GKey) (g : Group) : (s.setGroup k g).grids = s.grids := rfl
@[simp] theorem State.setGroup_teams (s : State) (k : GKey) (g : Group) : (s.setGroup k g).teams = s.teams := rfl
@[simp] theorem State.setGroup_groups (s : State) (k : GKey) (g : Group) : (s.setGroup k g).groups = kput s.groups k g := rfl
@[simp] theorem State.setGroup_saved (s : State) (k : GKey) (g : Group) : (s.setGroup k g).saved = s.saved := rfl
@[simp] theorem State.setGroup_served (s : State) (k : GKey) (g : Group) : (s.setGroup k g).served = s.served := rfl
@[simp] theorem State.setGroup_copies (s : State) (k : GKey) (g : Group) : (s.setGroup k g).copies = s.copies := rfl
@[simp] theorem State.setGroup_rings (s : State) (k : GKey) (g : Group) : (s.setGroup k g).rings = s.rings := rfl
@[simp] theorem State.setGroup_bounds (s : State) (k : GKey) (g : Group) : (s.setGroup k g).bounds = s.bounds := rfl
@[simp] theorem State.setGroup_packets (s : State) (k : GKey) (g : Group) : (s.setGroup k g).packets = s.packets := rfl
@[simp] theorem State.setGroup_cores (s : State) (k : GKey) (g : Group) : (s.setGroup k g).cores = s.cores := rfl
@[simp] theorem State.setGroup_parts (s : State) (k : GKey) (g : Group) : (s.setGroup k g).parts = s.parts := rfl
@[simp] theorem State.setGroup_pairs (s : State) (k : GKey) (g : Group) : (s.setGroup k g).pairs = s.pairs := rfl
@[simp] theorem State.setGroup_fresh (s : State) (k : GKey) (g : Group) : (s.setGroup k g).fresh = s.fresh := rfl
@[simp] theorem State.setGroup_cycle (s : State) (k : GKey) (g : Group) : (s.setGroup k g).cycle = s.cycle := rfl
@[simp] theorem State.setGroup_issued (s : State) (k : GKey) (g : Group) : (s.setGroup k g).issued = s.issued := rfl
@[simp] theorem State.setGroup_runs (s : State) (k : GKey) (g : Group) : (s.setGroup k g).runs = s.runs := rfl
@[simp] theorem State.setGroup_focus (s : State) (k : GKey) (g : Group) : (s.setGroup k g).focus = s.focus := rfl
@[simp] theorem State.setGroup_stalled (s : State) (k : GKey) (g : Group) : (s.setGroup k g).stalled = s.stalled := rfl
@[simp] theorem State.setGroup_slotE (s : State) (k : GKey) (g : Group) : (s.setGroup k g).slotE = s.slotE := rfl
@[simp] theorem State.setGroup_slotW (s : State) (k : GKey) (g : Group) : (s.setGroup k g).slotW = s.slotW := rfl
@[simp] theorem State.setGroup_agenda (s : State) (k : GKey) (g : Group) : (s.setGroup k g).agenda = s.agenda := rfl
@[simp] theorem State.setGroup_ev (s : State) (k : GKey) (g : Group) : (s.setGroup k g).ev = s.ev := rfl
@[simp] theorem State.setGroup_inputs (s : State) (k : GKey) (g : Group) : (s.setGroup k g).inputs = s.inputs := rfl
@[simp] theorem State.setGroup_picks (s : State) (k : GKey) (g : Group) : (s.setGroup k g).picks = s.picks := rfl

-- ## setTeam

@[simp] theorem State.setTeam_mem (s : State) (u : TKey) (x : Team) : (s.setTeam u x).mem = s.mem := rfl
@[simp] theorem State.setTeam_writes (s : State) (u : TKey) (x : Team) : (s.setTeam u x).writes = s.writes := rfl
@[simp] theorem State.setTeam_nextWrite (s : State) (u : TKey) (x : Team) : (s.setTeam u x).nextWrite = s.nextWrite := rfl
@[simp] theorem State.setTeam_poisoned (s : State) (u : TKey) (x : Team) : (s.setTeam u x).poisoned = s.poisoned := rfl
@[simp] theorem State.setTeam_keys (s : State) (u : TKey) (x : Team) : (s.setTeam u x).keys = s.keys := rfl
@[simp] theorem State.setTeam_keyGen (s : State) (u : TKey) (x : Team) : (s.setTeam u x).keyGen = s.keyGen := rfl
@[simp] theorem State.setTeam_lineKeys (s : State) (u : TKey) (x : Team) : (s.setTeam u x).lineKeys = s.lineKeys := rfl
@[simp] theorem State.setTeam_caches (s : State) (u : TKey) (x : Team) : (s.setTeam u x).caches = s.caches := rfl
@[simp] theorem State.setTeam_snoopBad (s : State) (u : TKey) (x : Team) : (s.setTeam u x).snoopBad = s.snoopBad := rfl
@[simp] theorem State.setTeam_rebuild (s : State) (u : TKey) (x : Team) : (s.setTeam u x).rebuild = s.rebuild := rfl
@[simp] theorem State.setTeam_delayed (s : State) (u : TKey) (x : Team) : (s.setTeam u x).delayed = s.delayed := rfl
@[simp] theorem State.setTeam_notes (s : State) (u : TKey) (x : Team) : (s.setTeam u x).notes = s.notes := rfl
@[simp] theorem State.setTeam_lost (s : State) (u : TKey) (x : Team) : (s.setTeam u x).lost = s.lost := rfl
@[simp] theorem State.setTeam_tlb (s : State) (u : TKey) (x : Team) : (s.setTeam u x).tlb = s.tlb := rfl
@[simp] theorem State.setTeam_tables (s : State) (u : TKey) (x : Team) : (s.setTeam u x).tables = s.tables := rfl
@[simp] theorem State.setTeam_walks (s : State) (u : TKey) (x : Team) : (s.setTeam u x).walks = s.walks := rfl
@[simp] theorem State.setTeam_shoots (s : State) (u : TKey) (x : Team) : (s.setTeam u x).shoots = s.shoots := rfl
@[simp] theorem State.setTeam_nextShoot (s : State) (u : TKey) (x : Team) : (s.setTeam u x).nextShoot = s.nextShoot := rfl
@[simp] theorem State.setTeam_ready (s : State) (u : TKey) (x : Team) : (s.setTeam u x).ready = s.ready := rfl
@[simp] theorem State.setTeam_bootFail (s : State) (u : TKey) (x : Team) : (s.setTeam u x).bootFail = s.bootFail := rfl
@[simp] theorem State.setTeam_fatal (s : State) (u : TKey) (x : Team) : (s.setTeam u x).fatal = s.fatal := rfl
@[simp] theorem State.setTeam_thermTrip (s : State) (u : TKey) (x : Team) : (s.setTeam u x).thermTrip = s.thermTrip := rfl
@[simp] theorem State.setTeam_replace (s : State) (u : TKey) (x : Team) : (s.setTeam u x).replace = s.replace := rfl
@[simp] theorem State.setTeam_degraded (s : State) (u : TKey) (x : Team) : (s.setTeam u x).degraded = s.degraded := rfl
@[simp] theorem State.setTeam_hlogb (s : State) (u : TKey) (x : Team) : (s.setTeam u x).hlogb = s.hlogb := rfl
@[simp] theorem State.setTeam_hlogn (s : State) (u : TKey) (x : Team) : (s.setTeam u x).hlogn = s.hlogn := rfl
@[simp] theorem State.setTeam_hlogt (s : State) (u : TKey) (x : Team) : (s.setTeam u x).hlogt = s.hlogt := rfl
@[simp] theorem State.setTeam_killReg (s : State) (u : TKey) (x : Team) : (s.setTeam u x).killReg = s.killReg := rfl
@[simp] theorem State.setTeam_killTeam (s : State) (u : TKey) (x : Team) : (s.setTeam u x).killTeam = s.killTeam := rfl
@[simp] theorem State.setTeam_killNames (s : State) (u : TKey) (x : Team) : (s.setTeam u x).killNames = s.killNames := rfl
@[simp] theorem State.setTeam_hcnt (s : State) (u : TKey) (x : Team) : (s.setTeam u x).hcnt = s.hcnt := rfl
@[simp] theorem State.setTeam_hostOut (s : State) (u : TKey) (x : Team) : (s.setTeam u x).hostOut = s.hostOut := rfl
@[simp] theorem State.setTeam_hostCached (s : State) (u : TKey) (x : Team) : (s.setTeam u x).hostCached = s.hostCached := rfl
@[simp] theorem State.setTeam_hostLink (s : State) (u : TKey) (x : Team) : (s.setTeam u x).hostLink = s.hostLink := rfl
@[simp] theorem State.setTeam_off (s : State) (u : TKey) (x : Team) : (s.setTeam u x).off = s.off := rfl
@[simp] theorem State.setTeam_imgBase (s : State) (u : TKey) (x : Team) : (s.setTeam u x).imgBase = s.imgBase := rfl
@[simp] theorem State.setTeam_imgLen (s : State) (u : TKey) (x : Team) : (s.setTeam u x).imgLen = s.imgLen := rfl
@[simp] theorem State.setTeam_dbgBase (s : State) (u : TKey) (x : Team) : (s.setTeam u x).dbgBase = s.dbgBase := rfl
@[simp] theorem State.setTeam_sensors (s : State) (u : TKey) (x : Team) : (s.setTeam u x).sensors = s.sensors := rfl
@[simp] theorem State.setTeam_capAll (s : State) (u : TKey) (x : Team) : (s.setTeam u x).capAll = s.capAll := rfl
@[simp] theorem State.setTeam_hotDecks (s : State) (u : TKey) (x : Team) : (s.setTeam u x).hotDecks = s.hotDecks := rfl
@[simp] theorem State.setTeam_gated (s : State) (u : TKey) (x : Team) : (s.setTeam u x).gated = s.gated := rfl
@[simp] theorem State.setTeam_gating (s : State) (u : TKey) (x : Team) : (s.setTeam u x).gating = s.gating := rfl
@[simp] theorem State.setTeam_selfPeer (s : State) (u : TKey) (x : Team) : (s.setTeam u x).selfPeer = s.selfPeer := rfl
@[simp] theorem State.setTeam_numbered (s : State) (u : TKey) (x : Team) : (s.setTeam u x).numbered = s.numbered := rfl
@[simp] theorem State.setTeam_domains (s : State) (u : TKey) (x : Team) : (s.setTeam u x).domains = s.domains := rfl
@[simp] theorem State.setTeam_ports (s : State) (u : TKey) (x : Team) : (s.setTeam u x).ports = s.ports := rfl
@[simp] theorem State.setTeam_planeMap (s : State) (u : TKey) (x : Team) : (s.setTeam u x).planeMap = s.planeMap := rfl
@[simp] theorem State.setTeam_moving (s : State) (u : TKey) (x : Team) : (s.setTeam u x).moving = s.moving := rfl
@[simp] theorem State.setTeam_seqOut (s : State) (u : TKey) (x : Team) : (s.setTeam u x).seqOut = s.seqOut := rfl
@[simp] theorem State.setTeam_seqIn (s : State) (u : TKey) (x : Team) : (s.setTeam u x).seqIn = s.seqIn := rfl
@[simp] theorem State.setTeam_requests (s : State) (u : TKey) (x : Team) : (s.setTeam u x).requests = s.requests := rfl
@[simp] theorem State.setTeam_sent (s : State) (u : TKey) (x : Team) : (s.setTeam u x).sent = s.sent := rfl
@[simp] theorem State.setTeam_heldOut (s : State) (u : TKey) (x : Team) : (s.setTeam u x).heldOut = s.heldOut := rfl
@[simp] theorem State.setTeam_rekeyAsks (s : State) (u : TKey) (x : Team) : (s.setTeam u x).rekeyAsks = s.rekeyAsks := rfl
@[simp] theorem State.setTeam_pushes (s : State) (u : TKey) (x : Team) : (s.setTeam u x).pushes = s.pushes := rfl
@[simp] theorem State.setTeam_owed (s : State) (u : TKey) (x : Team) : (s.setTeam u x).owed = s.owed := rfl
@[simp] theorem State.setTeam_sessions (s : State) (u : TKey) (x : Team) : (s.setTeam u x).sessions = s.sessions := rfl
@[simp] theorem State.setTeam_subs (s : State) (u : TKey) (x : Team) : (s.setTeam u x).subs = s.subs := rfl
@[simp] theorem State.setTeam_homes (s : State) (u : TKey) (x : Team) : (s.setTeam u x).homes = s.homes := rfl
@[simp] theorem State.setTeam_ucopies (s : State) (u : TKey) (x : Team) : (s.setTeam u x).ucopies = s.ucopies := rfl
@[simp] theorem State.setTeam_colls (s : State) (u : TKey) (x : Team) : (s.setTeam u x).colls = s.colls := rfl
@[simp] theorem State.setTeam_grids (s : State) (u : TKey) (x : Team) : (s.setTeam u x).grids = s.grids := rfl
@[simp] theorem State.setTeam_teams (s : State) (u : TKey) (x : Team) : (s.setTeam u x).teams = kput s.teams u x := rfl
@[simp] theorem State.setTeam_groups (s : State) (u : TKey) (x : Team) : (s.setTeam u x).groups = s.groups := rfl
@[simp] theorem State.setTeam_saved (s : State) (u : TKey) (x : Team) : (s.setTeam u x).saved = s.saved := rfl
@[simp] theorem State.setTeam_served (s : State) (u : TKey) (x : Team) : (s.setTeam u x).served = s.served := rfl
@[simp] theorem State.setTeam_copies (s : State) (u : TKey) (x : Team) : (s.setTeam u x).copies = s.copies := rfl
@[simp] theorem State.setTeam_rings (s : State) (u : TKey) (x : Team) : (s.setTeam u x).rings = s.rings := rfl
@[simp] theorem State.setTeam_bounds (s : State) (u : TKey) (x : Team) : (s.setTeam u x).bounds = s.bounds := rfl
@[simp] theorem State.setTeam_packets (s : State) (u : TKey) (x : Team) : (s.setTeam u x).packets = s.packets := rfl
@[simp] theorem State.setTeam_cores (s : State) (u : TKey) (x : Team) : (s.setTeam u x).cores = s.cores := rfl
@[simp] theorem State.setTeam_parts (s : State) (u : TKey) (x : Team) : (s.setTeam u x).parts = s.parts := rfl
@[simp] theorem State.setTeam_pairs (s : State) (u : TKey) (x : Team) : (s.setTeam u x).pairs = s.pairs := rfl
@[simp] theorem State.setTeam_fresh (s : State) (u : TKey) (x : Team) : (s.setTeam u x).fresh = s.fresh := rfl
@[simp] theorem State.setTeam_cycle (s : State) (u : TKey) (x : Team) : (s.setTeam u x).cycle = s.cycle := rfl
@[simp] theorem State.setTeam_issued (s : State) (u : TKey) (x : Team) : (s.setTeam u x).issued = s.issued := rfl
@[simp] theorem State.setTeam_runs (s : State) (u : TKey) (x : Team) : (s.setTeam u x).runs = s.runs := rfl
@[simp] theorem State.setTeam_focus (s : State) (u : TKey) (x : Team) : (s.setTeam u x).focus = s.focus := rfl
@[simp] theorem State.setTeam_stalled (s : State) (u : TKey) (x : Team) : (s.setTeam u x).stalled = s.stalled := rfl
@[simp] theorem State.setTeam_slotE (s : State) (u : TKey) (x : Team) : (s.setTeam u x).slotE = s.slotE := rfl
@[simp] theorem State.setTeam_slotW (s : State) (u : TKey) (x : Team) : (s.setTeam u x).slotW = s.slotW := rfl
@[simp] theorem State.setTeam_agenda (s : State) (u : TKey) (x : Team) : (s.setTeam u x).agenda = s.agenda := rfl
@[simp] theorem State.setTeam_ev (s : State) (u : TKey) (x : Team) : (s.setTeam u x).ev = s.ev := rfl
@[simp] theorem State.setTeam_inputs (s : State) (u : TKey) (x : Team) : (s.setTeam u x).inputs = s.inputs := rfl
@[simp] theorem State.setTeam_picks (s : State) (u : TKey) (x : Team) : (s.setTeam u x).picks = s.picks := rfl

-- ## modCore

@[simp] theorem State.modCore_mem (s : State) (c : Nat) (f : Core → Core) : (s.modCore c f).mem = s.mem := rfl
@[simp] theorem State.modCore_writes (s : State) (c : Nat) (f : Core → Core) : (s.modCore c f).writes = s.writes := rfl
@[simp] theorem State.modCore_nextWrite (s : State) (c : Nat) (f : Core → Core) : (s.modCore c f).nextWrite = s.nextWrite := rfl
@[simp] theorem State.modCore_poisoned (s : State) (c : Nat) (f : Core → Core) : (s.modCore c f).poisoned = s.poisoned := rfl
@[simp] theorem State.modCore_keys (s : State) (c : Nat) (f : Core → Core) : (s.modCore c f).keys = s.keys := rfl
@[simp] theorem State.modCore_keyGen (s : State) (c : Nat) (f : Core → Core) : (s.modCore c f).keyGen = s.keyGen := rfl
@[simp] theorem State.modCore_lineKeys (s : State) (c : Nat) (f : Core → Core) : (s.modCore c f).lineKeys = s.lineKeys := rfl
@[simp] theorem State.modCore_caches (s : State) (c : Nat) (f : Core → Core) : (s.modCore c f).caches = s.caches := rfl
@[simp] theorem State.modCore_snoopBad (s : State) (c : Nat) (f : Core → Core) : (s.modCore c f).snoopBad = s.snoopBad := rfl
@[simp] theorem State.modCore_rebuild (s : State) (c : Nat) (f : Core → Core) : (s.modCore c f).rebuild = s.rebuild := rfl
@[simp] theorem State.modCore_delayed (s : State) (c : Nat) (f : Core → Core) : (s.modCore c f).delayed = s.delayed := rfl
@[simp] theorem State.modCore_notes (s : State) (c : Nat) (f : Core → Core) : (s.modCore c f).notes = s.notes := rfl
@[simp] theorem State.modCore_lost (s : State) (c : Nat) (f : Core → Core) : (s.modCore c f).lost = s.lost := rfl
@[simp] theorem State.modCore_tlb (s : State) (c : Nat) (f : Core → Core) : (s.modCore c f).tlb = s.tlb := rfl
@[simp] theorem State.modCore_tables (s : State) (c : Nat) (f : Core → Core) : (s.modCore c f).tables = s.tables := rfl
@[simp] theorem State.modCore_walks (s : State) (c : Nat) (f : Core → Core) : (s.modCore c f).walks = s.walks := rfl
@[simp] theorem State.modCore_shoots (s : State) (c : Nat) (f : Core → Core) : (s.modCore c f).shoots = s.shoots := rfl
@[simp] theorem State.modCore_nextShoot (s : State) (c : Nat) (f : Core → Core) : (s.modCore c f).nextShoot = s.nextShoot := rfl
@[simp] theorem State.modCore_ready (s : State) (c : Nat) (f : Core → Core) : (s.modCore c f).ready = s.ready := rfl
@[simp] theorem State.modCore_bootFail (s : State) (c : Nat) (f : Core → Core) : (s.modCore c f).bootFail = s.bootFail := rfl
@[simp] theorem State.modCore_fatal (s : State) (c : Nat) (f : Core → Core) : (s.modCore c f).fatal = s.fatal := rfl
@[simp] theorem State.modCore_thermTrip (s : State) (c : Nat) (f : Core → Core) : (s.modCore c f).thermTrip = s.thermTrip := rfl
@[simp] theorem State.modCore_replace (s : State) (c : Nat) (f : Core → Core) : (s.modCore c f).replace = s.replace := rfl
@[simp] theorem State.modCore_degraded (s : State) (c : Nat) (f : Core → Core) : (s.modCore c f).degraded = s.degraded := rfl
@[simp] theorem State.modCore_hlogb (s : State) (c : Nat) (f : Core → Core) : (s.modCore c f).hlogb = s.hlogb := rfl
@[simp] theorem State.modCore_hlogn (s : State) (c : Nat) (f : Core → Core) : (s.modCore c f).hlogn = s.hlogn := rfl
@[simp] theorem State.modCore_hlogt (s : State) (c : Nat) (f : Core → Core) : (s.modCore c f).hlogt = s.hlogt := rfl
@[simp] theorem State.modCore_killReg (s : State) (c : Nat) (f : Core → Core) : (s.modCore c f).killReg = s.killReg := rfl
@[simp] theorem State.modCore_killTeam (s : State) (c : Nat) (f : Core → Core) : (s.modCore c f).killTeam = s.killTeam := rfl
@[simp] theorem State.modCore_killNames (s : State) (c : Nat) (f : Core → Core) : (s.modCore c f).killNames = s.killNames := rfl
@[simp] theorem State.modCore_hcnt (s : State) (c : Nat) (f : Core → Core) : (s.modCore c f).hcnt = s.hcnt := rfl
@[simp] theorem State.modCore_hostOut (s : State) (c : Nat) (f : Core → Core) : (s.modCore c f).hostOut = s.hostOut := rfl
@[simp] theorem State.modCore_hostCached (s : State) (c : Nat) (f : Core → Core) : (s.modCore c f).hostCached = s.hostCached := rfl
@[simp] theorem State.modCore_hostLink (s : State) (c : Nat) (f : Core → Core) : (s.modCore c f).hostLink = s.hostLink := rfl
@[simp] theorem State.modCore_off (s : State) (c : Nat) (f : Core → Core) : (s.modCore c f).off = s.off := rfl
@[simp] theorem State.modCore_imgBase (s : State) (c : Nat) (f : Core → Core) : (s.modCore c f).imgBase = s.imgBase := rfl
@[simp] theorem State.modCore_imgLen (s : State) (c : Nat) (f : Core → Core) : (s.modCore c f).imgLen = s.imgLen := rfl
@[simp] theorem State.modCore_dbgBase (s : State) (c : Nat) (f : Core → Core) : (s.modCore c f).dbgBase = s.dbgBase := rfl
@[simp] theorem State.modCore_sensors (s : State) (c : Nat) (f : Core → Core) : (s.modCore c f).sensors = s.sensors := rfl
@[simp] theorem State.modCore_capAll (s : State) (c : Nat) (f : Core → Core) : (s.modCore c f).capAll = s.capAll := rfl
@[simp] theorem State.modCore_hotDecks (s : State) (c : Nat) (f : Core → Core) : (s.modCore c f).hotDecks = s.hotDecks := rfl
@[simp] theorem State.modCore_gated (s : State) (c : Nat) (f : Core → Core) : (s.modCore c f).gated = s.gated := rfl
@[simp] theorem State.modCore_gating (s : State) (c : Nat) (f : Core → Core) : (s.modCore c f).gating = s.gating := rfl
@[simp] theorem State.modCore_selfPeer (s : State) (c : Nat) (f : Core → Core) : (s.modCore c f).selfPeer = s.selfPeer := rfl
@[simp] theorem State.modCore_numbered (s : State) (c : Nat) (f : Core → Core) : (s.modCore c f).numbered = s.numbered := rfl
@[simp] theorem State.modCore_domains (s : State) (c : Nat) (f : Core → Core) : (s.modCore c f).domains = s.domains := rfl
@[simp] theorem State.modCore_ports (s : State) (c : Nat) (f : Core → Core) : (s.modCore c f).ports = s.ports := rfl
@[simp] theorem State.modCore_planeMap (s : State) (c : Nat) (f : Core → Core) : (s.modCore c f).planeMap = s.planeMap := rfl
@[simp] theorem State.modCore_moving (s : State) (c : Nat) (f : Core → Core) : (s.modCore c f).moving = s.moving := rfl
@[simp] theorem State.modCore_seqOut (s : State) (c : Nat) (f : Core → Core) : (s.modCore c f).seqOut = s.seqOut := rfl
@[simp] theorem State.modCore_seqIn (s : State) (c : Nat) (f : Core → Core) : (s.modCore c f).seqIn = s.seqIn := rfl
@[simp] theorem State.modCore_requests (s : State) (c : Nat) (f : Core → Core) : (s.modCore c f).requests = s.requests := rfl
@[simp] theorem State.modCore_sent (s : State) (c : Nat) (f : Core → Core) : (s.modCore c f).sent = s.sent := rfl
@[simp] theorem State.modCore_heldOut (s : State) (c : Nat) (f : Core → Core) : (s.modCore c f).heldOut = s.heldOut := rfl
@[simp] theorem State.modCore_rekeyAsks (s : State) (c : Nat) (f : Core → Core) : (s.modCore c f).rekeyAsks = s.rekeyAsks := rfl
@[simp] theorem State.modCore_pushes (s : State) (c : Nat) (f : Core → Core) : (s.modCore c f).pushes = s.pushes := rfl
@[simp] theorem State.modCore_owed (s : State) (c : Nat) (f : Core → Core) : (s.modCore c f).owed = s.owed := rfl
@[simp] theorem State.modCore_sessions (s : State) (c : Nat) (f : Core → Core) : (s.modCore c f).sessions = s.sessions := rfl
@[simp] theorem State.modCore_subs (s : State) (c : Nat) (f : Core → Core) : (s.modCore c f).subs = s.subs := rfl
@[simp] theorem State.modCore_homes (s : State) (c : Nat) (f : Core → Core) : (s.modCore c f).homes = s.homes := rfl
@[simp] theorem State.modCore_ucopies (s : State) (c : Nat) (f : Core → Core) : (s.modCore c f).ucopies = s.ucopies := rfl
@[simp] theorem State.modCore_colls (s : State) (c : Nat) (f : Core → Core) : (s.modCore c f).colls = s.colls := rfl
@[simp] theorem State.modCore_grids (s : State) (c : Nat) (f : Core → Core) : (s.modCore c f).grids = s.grids := rfl
@[simp] theorem State.modCore_teams (s : State) (c : Nat) (f : Core → Core) : (s.modCore c f).teams = s.teams := rfl
@[simp] theorem State.modCore_groups (s : State) (c : Nat) (f : Core → Core) : (s.modCore c f).groups = s.groups := rfl
@[simp] theorem State.modCore_saved (s : State) (c : Nat) (f : Core → Core) : (s.modCore c f).saved = s.saved := rfl
@[simp] theorem State.modCore_served (s : State) (c : Nat) (f : Core → Core) : (s.modCore c f).served = s.served := rfl
@[simp] theorem State.modCore_copies (s : State) (c : Nat) (f : Core → Core) : (s.modCore c f).copies = s.copies := rfl
@[simp] theorem State.modCore_rings (s : State) (c : Nat) (f : Core → Core) : (s.modCore c f).rings = s.rings := rfl
@[simp] theorem State.modCore_bounds (s : State) (c : Nat) (f : Core → Core) : (s.modCore c f).bounds = s.bounds := rfl
@[simp] theorem State.modCore_packets (s : State) (c : Nat) (f : Core → Core) : (s.modCore c f).packets = s.packets := rfl
@[simp] theorem State.modCore_cores (s : State) (c : Nat) (f : Core → Core) : (s.modCore c f).cores = kput s.cores c (f (s.core c)) := rfl
@[simp] theorem State.modCore_parts (s : State) (c : Nat) (f : Core → Core) : (s.modCore c f).parts = s.parts := rfl
@[simp] theorem State.modCore_pairs (s : State) (c : Nat) (f : Core → Core) : (s.modCore c f).pairs = s.pairs := rfl
@[simp] theorem State.modCore_fresh (s : State) (c : Nat) (f : Core → Core) : (s.modCore c f).fresh = s.fresh := rfl
@[simp] theorem State.modCore_cycle (s : State) (c : Nat) (f : Core → Core) : (s.modCore c f).cycle = s.cycle := rfl
@[simp] theorem State.modCore_issued (s : State) (c : Nat) (f : Core → Core) : (s.modCore c f).issued = s.issued := rfl
@[simp] theorem State.modCore_runs (s : State) (c : Nat) (f : Core → Core) : (s.modCore c f).runs = s.runs := rfl
@[simp] theorem State.modCore_focus (s : State) (c : Nat) (f : Core → Core) : (s.modCore c f).focus = s.focus := rfl
@[simp] theorem State.modCore_stalled (s : State) (c : Nat) (f : Core → Core) : (s.modCore c f).stalled = s.stalled := rfl
@[simp] theorem State.modCore_slotE (s : State) (c : Nat) (f : Core → Core) : (s.modCore c f).slotE = s.slotE := rfl
@[simp] theorem State.modCore_slotW (s : State) (c : Nat) (f : Core → Core) : (s.modCore c f).slotW = s.slotW := rfl
@[simp] theorem State.modCore_agenda (s : State) (c : Nat) (f : Core → Core) : (s.modCore c f).agenda = s.agenda := rfl
@[simp] theorem State.modCore_ev (s : State) (c : Nat) (f : Core → Core) : (s.modCore c f).ev = s.ev := rfl
@[simp] theorem State.modCore_inputs (s : State) (c : Nat) (f : Core → Core) : (s.modCore c f).inputs = s.inputs := rfl
@[simp] theorem State.modCore_picks (s : State) (c : Nat) (f : Core → Core) : (s.modCore c f).picks = s.picks := rfl

-- ## modPart

@[simp] theorem State.modPart_mem (s : State) (c q : Nat) (f : Part → Part) : (s.modPart c q f).mem = s.mem := rfl
@[simp] theorem State.modPart_writes (s : State) (c q : Nat) (f : Part → Part) : (s.modPart c q f).writes = s.writes := rfl
@[simp] theorem State.modPart_nextWrite (s : State) (c q : Nat) (f : Part → Part) : (s.modPart c q f).nextWrite = s.nextWrite := rfl
@[simp] theorem State.modPart_poisoned (s : State) (c q : Nat) (f : Part → Part) : (s.modPart c q f).poisoned = s.poisoned := rfl
@[simp] theorem State.modPart_keys (s : State) (c q : Nat) (f : Part → Part) : (s.modPart c q f).keys = s.keys := rfl
@[simp] theorem State.modPart_keyGen (s : State) (c q : Nat) (f : Part → Part) : (s.modPart c q f).keyGen = s.keyGen := rfl
@[simp] theorem State.modPart_lineKeys (s : State) (c q : Nat) (f : Part → Part) : (s.modPart c q f).lineKeys = s.lineKeys := rfl
@[simp] theorem State.modPart_caches (s : State) (c q : Nat) (f : Part → Part) : (s.modPart c q f).caches = s.caches := rfl
@[simp] theorem State.modPart_snoopBad (s : State) (c q : Nat) (f : Part → Part) : (s.modPart c q f).snoopBad = s.snoopBad := rfl
@[simp] theorem State.modPart_rebuild (s : State) (c q : Nat) (f : Part → Part) : (s.modPart c q f).rebuild = s.rebuild := rfl
@[simp] theorem State.modPart_delayed (s : State) (c q : Nat) (f : Part → Part) : (s.modPart c q f).delayed = s.delayed := rfl
@[simp] theorem State.modPart_notes (s : State) (c q : Nat) (f : Part → Part) : (s.modPart c q f).notes = s.notes := rfl
@[simp] theorem State.modPart_lost (s : State) (c q : Nat) (f : Part → Part) : (s.modPart c q f).lost = s.lost := rfl
@[simp] theorem State.modPart_tlb (s : State) (c q : Nat) (f : Part → Part) : (s.modPart c q f).tlb = s.tlb := rfl
@[simp] theorem State.modPart_tables (s : State) (c q : Nat) (f : Part → Part) : (s.modPart c q f).tables = s.tables := rfl
@[simp] theorem State.modPart_walks (s : State) (c q : Nat) (f : Part → Part) : (s.modPart c q f).walks = s.walks := rfl
@[simp] theorem State.modPart_shoots (s : State) (c q : Nat) (f : Part → Part) : (s.modPart c q f).shoots = s.shoots := rfl
@[simp] theorem State.modPart_nextShoot (s : State) (c q : Nat) (f : Part → Part) : (s.modPart c q f).nextShoot = s.nextShoot := rfl
@[simp] theorem State.modPart_ready (s : State) (c q : Nat) (f : Part → Part) : (s.modPart c q f).ready = s.ready := rfl
@[simp] theorem State.modPart_bootFail (s : State) (c q : Nat) (f : Part → Part) : (s.modPart c q f).bootFail = s.bootFail := rfl
@[simp] theorem State.modPart_fatal (s : State) (c q : Nat) (f : Part → Part) : (s.modPart c q f).fatal = s.fatal := rfl
@[simp] theorem State.modPart_thermTrip (s : State) (c q : Nat) (f : Part → Part) : (s.modPart c q f).thermTrip = s.thermTrip := rfl
@[simp] theorem State.modPart_replace (s : State) (c q : Nat) (f : Part → Part) : (s.modPart c q f).replace = s.replace := rfl
@[simp] theorem State.modPart_degraded (s : State) (c q : Nat) (f : Part → Part) : (s.modPart c q f).degraded = s.degraded := rfl
@[simp] theorem State.modPart_hlogb (s : State) (c q : Nat) (f : Part → Part) : (s.modPart c q f).hlogb = s.hlogb := rfl
@[simp] theorem State.modPart_hlogn (s : State) (c q : Nat) (f : Part → Part) : (s.modPart c q f).hlogn = s.hlogn := rfl
@[simp] theorem State.modPart_hlogt (s : State) (c q : Nat) (f : Part → Part) : (s.modPart c q f).hlogt = s.hlogt := rfl
@[simp] theorem State.modPart_killReg (s : State) (c q : Nat) (f : Part → Part) : (s.modPart c q f).killReg = s.killReg := rfl
@[simp] theorem State.modPart_killTeam (s : State) (c q : Nat) (f : Part → Part) : (s.modPart c q f).killTeam = s.killTeam := rfl
@[simp] theorem State.modPart_killNames (s : State) (c q : Nat) (f : Part → Part) : (s.modPart c q f).killNames = s.killNames := rfl
@[simp] theorem State.modPart_hcnt (s : State) (c q : Nat) (f : Part → Part) : (s.modPart c q f).hcnt = s.hcnt := rfl
@[simp] theorem State.modPart_hostOut (s : State) (c q : Nat) (f : Part → Part) : (s.modPart c q f).hostOut = s.hostOut := rfl
@[simp] theorem State.modPart_hostCached (s : State) (c q : Nat) (f : Part → Part) : (s.modPart c q f).hostCached = s.hostCached := rfl
@[simp] theorem State.modPart_hostLink (s : State) (c q : Nat) (f : Part → Part) : (s.modPart c q f).hostLink = s.hostLink := rfl
@[simp] theorem State.modPart_off (s : State) (c q : Nat) (f : Part → Part) : (s.modPart c q f).off = s.off := rfl
@[simp] theorem State.modPart_imgBase (s : State) (c q : Nat) (f : Part → Part) : (s.modPart c q f).imgBase = s.imgBase := rfl
@[simp] theorem State.modPart_imgLen (s : State) (c q : Nat) (f : Part → Part) : (s.modPart c q f).imgLen = s.imgLen := rfl
@[simp] theorem State.modPart_dbgBase (s : State) (c q : Nat) (f : Part → Part) : (s.modPart c q f).dbgBase = s.dbgBase := rfl
@[simp] theorem State.modPart_sensors (s : State) (c q : Nat) (f : Part → Part) : (s.modPart c q f).sensors = s.sensors := rfl
@[simp] theorem State.modPart_capAll (s : State) (c q : Nat) (f : Part → Part) : (s.modPart c q f).capAll = s.capAll := rfl
@[simp] theorem State.modPart_hotDecks (s : State) (c q : Nat) (f : Part → Part) : (s.modPart c q f).hotDecks = s.hotDecks := rfl
@[simp] theorem State.modPart_gated (s : State) (c q : Nat) (f : Part → Part) : (s.modPart c q f).gated = s.gated := rfl
@[simp] theorem State.modPart_gating (s : State) (c q : Nat) (f : Part → Part) : (s.modPart c q f).gating = s.gating := rfl
@[simp] theorem State.modPart_selfPeer (s : State) (c q : Nat) (f : Part → Part) : (s.modPart c q f).selfPeer = s.selfPeer := rfl
@[simp] theorem State.modPart_numbered (s : State) (c q : Nat) (f : Part → Part) : (s.modPart c q f).numbered = s.numbered := rfl
@[simp] theorem State.modPart_domains (s : State) (c q : Nat) (f : Part → Part) : (s.modPart c q f).domains = s.domains := rfl
@[simp] theorem State.modPart_ports (s : State) (c q : Nat) (f : Part → Part) : (s.modPart c q f).ports = s.ports := rfl
@[simp] theorem State.modPart_planeMap (s : State) (c q : Nat) (f : Part → Part) : (s.modPart c q f).planeMap = s.planeMap := rfl
@[simp] theorem State.modPart_moving (s : State) (c q : Nat) (f : Part → Part) : (s.modPart c q f).moving = s.moving := rfl
@[simp] theorem State.modPart_seqOut (s : State) (c q : Nat) (f : Part → Part) : (s.modPart c q f).seqOut = s.seqOut := rfl
@[simp] theorem State.modPart_seqIn (s : State) (c q : Nat) (f : Part → Part) : (s.modPart c q f).seqIn = s.seqIn := rfl
@[simp] theorem State.modPart_requests (s : State) (c q : Nat) (f : Part → Part) : (s.modPart c q f).requests = s.requests := rfl
@[simp] theorem State.modPart_sent (s : State) (c q : Nat) (f : Part → Part) : (s.modPart c q f).sent = s.sent := rfl
@[simp] theorem State.modPart_heldOut (s : State) (c q : Nat) (f : Part → Part) : (s.modPart c q f).heldOut = s.heldOut := rfl
@[simp] theorem State.modPart_rekeyAsks (s : State) (c q : Nat) (f : Part → Part) : (s.modPart c q f).rekeyAsks = s.rekeyAsks := rfl
@[simp] theorem State.modPart_pushes (s : State) (c q : Nat) (f : Part → Part) : (s.modPart c q f).pushes = s.pushes := rfl
@[simp] theorem State.modPart_owed (s : State) (c q : Nat) (f : Part → Part) : (s.modPart c q f).owed = s.owed := rfl
@[simp] theorem State.modPart_sessions (s : State) (c q : Nat) (f : Part → Part) : (s.modPart c q f).sessions = s.sessions := rfl
@[simp] theorem State.modPart_subs (s : State) (c q : Nat) (f : Part → Part) : (s.modPart c q f).subs = s.subs := rfl
@[simp] theorem State.modPart_homes (s : State) (c q : Nat) (f : Part → Part) : (s.modPart c q f).homes = s.homes := rfl
@[simp] theorem State.modPart_ucopies (s : State) (c q : Nat) (f : Part → Part) : (s.modPart c q f).ucopies = s.ucopies := rfl
@[simp] theorem State.modPart_colls (s : State) (c q : Nat) (f : Part → Part) : (s.modPart c q f).colls = s.colls := rfl
@[simp] theorem State.modPart_grids (s : State) (c q : Nat) (f : Part → Part) : (s.modPart c q f).grids = s.grids := rfl
@[simp] theorem State.modPart_teams (s : State) (c q : Nat) (f : Part → Part) : (s.modPart c q f).teams = s.teams := rfl
@[simp] theorem State.modPart_groups (s : State) (c q : Nat) (f : Part → Part) : (s.modPart c q f).groups = s.groups := rfl
@[simp] theorem State.modPart_saved (s : State) (c q : Nat) (f : Part → Part) : (s.modPart c q f).saved = s.saved := rfl
@[simp] theorem State.modPart_served (s : State) (c q : Nat) (f : Part → Part) : (s.modPart c q f).served = s.served := rfl
@[simp] theorem State.modPart_copies (s : State) (c q : Nat) (f : Part → Part) : (s.modPart c q f).copies = s.copies := rfl
@[simp] theorem State.modPart_rings (s : State) (c q : Nat) (f : Part → Part) : (s.modPart c q f).rings = s.rings := rfl
@[simp] theorem State.modPart_bounds (s : State) (c q : Nat) (f : Part → Part) : (s.modPart c q f).bounds = s.bounds := rfl
@[simp] theorem State.modPart_packets (s : State) (c q : Nat) (f : Part → Part) : (s.modPart c q f).packets = s.packets := rfl
@[simp] theorem State.modPart_cores (s : State) (c q : Nat) (f : Part → Part) : (s.modPart c q f).cores = s.cores := rfl
@[simp] theorem State.modPart_parts (s : State) (c q : Nat) (f : Part → Part) : (s.modPart c q f).parts = kput s.parts (4 * c + q) (f (s.part c q)) := rfl
@[simp] theorem State.modPart_pairs (s : State) (c q : Nat) (f : Part → Part) : (s.modPart c q f).pairs = s.pairs := rfl
@[simp] theorem State.modPart_fresh (s : State) (c q : Nat) (f : Part → Part) : (s.modPart c q f).fresh = s.fresh := rfl
@[simp] theorem State.modPart_cycle (s : State) (c q : Nat) (f : Part → Part) : (s.modPart c q f).cycle = s.cycle := rfl
@[simp] theorem State.modPart_issued (s : State) (c q : Nat) (f : Part → Part) : (s.modPart c q f).issued = s.issued := rfl
@[simp] theorem State.modPart_runs (s : State) (c q : Nat) (f : Part → Part) : (s.modPart c q f).runs = s.runs := rfl
@[simp] theorem State.modPart_focus (s : State) (c q : Nat) (f : Part → Part) : (s.modPart c q f).focus = s.focus := rfl
@[simp] theorem State.modPart_stalled (s : State) (c q : Nat) (f : Part → Part) : (s.modPart c q f).stalled = s.stalled := rfl
@[simp] theorem State.modPart_slotE (s : State) (c q : Nat) (f : Part → Part) : (s.modPart c q f).slotE = s.slotE := rfl
@[simp] theorem State.modPart_slotW (s : State) (c q : Nat) (f : Part → Part) : (s.modPart c q f).slotW = s.slotW := rfl
@[simp] theorem State.modPart_agenda (s : State) (c q : Nat) (f : Part → Part) : (s.modPart c q f).agenda = s.agenda := rfl
@[simp] theorem State.modPart_ev (s : State) (c q : Nat) (f : Part → Part) : (s.modPart c q f).ev = s.ev := rfl
@[simp] theorem State.modPart_inputs (s : State) (c q : Nat) (f : Part → Part) : (s.modPart c q f).inputs = s.inputs := rfl
@[simp] theorem State.modPart_picks (s : State) (c q : Nat) (f : Part → Part) : (s.modPart c q f).picks = s.picks := rfl

-- ## modPair

@[simp] theorem State.modPair_mem (s : State) (c : Nat) (f : Pair → Pair) : (s.modPair c f).mem = s.mem := rfl
@[simp] theorem State.modPair_writes (s : State) (c : Nat) (f : Pair → Pair) : (s.modPair c f).writes = s.writes := rfl
@[simp] theorem State.modPair_nextWrite (s : State) (c : Nat) (f : Pair → Pair) : (s.modPair c f).nextWrite = s.nextWrite := rfl
@[simp] theorem State.modPair_poisoned (s : State) (c : Nat) (f : Pair → Pair) : (s.modPair c f).poisoned = s.poisoned := rfl
@[simp] theorem State.modPair_keys (s : State) (c : Nat) (f : Pair → Pair) : (s.modPair c f).keys = s.keys := rfl
@[simp] theorem State.modPair_keyGen (s : State) (c : Nat) (f : Pair → Pair) : (s.modPair c f).keyGen = s.keyGen := rfl
@[simp] theorem State.modPair_lineKeys (s : State) (c : Nat) (f : Pair → Pair) : (s.modPair c f).lineKeys = s.lineKeys := rfl
@[simp] theorem State.modPair_caches (s : State) (c : Nat) (f : Pair → Pair) : (s.modPair c f).caches = s.caches := rfl
@[simp] theorem State.modPair_snoopBad (s : State) (c : Nat) (f : Pair → Pair) : (s.modPair c f).snoopBad = s.snoopBad := rfl
@[simp] theorem State.modPair_rebuild (s : State) (c : Nat) (f : Pair → Pair) : (s.modPair c f).rebuild = s.rebuild := rfl
@[simp] theorem State.modPair_delayed (s : State) (c : Nat) (f : Pair → Pair) : (s.modPair c f).delayed = s.delayed := rfl
@[simp] theorem State.modPair_notes (s : State) (c : Nat) (f : Pair → Pair) : (s.modPair c f).notes = s.notes := rfl
@[simp] theorem State.modPair_lost (s : State) (c : Nat) (f : Pair → Pair) : (s.modPair c f).lost = s.lost := rfl
@[simp] theorem State.modPair_tlb (s : State) (c : Nat) (f : Pair → Pair) : (s.modPair c f).tlb = s.tlb := rfl
@[simp] theorem State.modPair_tables (s : State) (c : Nat) (f : Pair → Pair) : (s.modPair c f).tables = s.tables := rfl
@[simp] theorem State.modPair_walks (s : State) (c : Nat) (f : Pair → Pair) : (s.modPair c f).walks = s.walks := rfl
@[simp] theorem State.modPair_shoots (s : State) (c : Nat) (f : Pair → Pair) : (s.modPair c f).shoots = s.shoots := rfl
@[simp] theorem State.modPair_nextShoot (s : State) (c : Nat) (f : Pair → Pair) : (s.modPair c f).nextShoot = s.nextShoot := rfl
@[simp] theorem State.modPair_ready (s : State) (c : Nat) (f : Pair → Pair) : (s.modPair c f).ready = s.ready := rfl
@[simp] theorem State.modPair_bootFail (s : State) (c : Nat) (f : Pair → Pair) : (s.modPair c f).bootFail = s.bootFail := rfl
@[simp] theorem State.modPair_fatal (s : State) (c : Nat) (f : Pair → Pair) : (s.modPair c f).fatal = s.fatal := rfl
@[simp] theorem State.modPair_thermTrip (s : State) (c : Nat) (f : Pair → Pair) : (s.modPair c f).thermTrip = s.thermTrip := rfl
@[simp] theorem State.modPair_replace (s : State) (c : Nat) (f : Pair → Pair) : (s.modPair c f).replace = s.replace := rfl
@[simp] theorem State.modPair_degraded (s : State) (c : Nat) (f : Pair → Pair) : (s.modPair c f).degraded = s.degraded := rfl
@[simp] theorem State.modPair_hlogb (s : State) (c : Nat) (f : Pair → Pair) : (s.modPair c f).hlogb = s.hlogb := rfl
@[simp] theorem State.modPair_hlogn (s : State) (c : Nat) (f : Pair → Pair) : (s.modPair c f).hlogn = s.hlogn := rfl
@[simp] theorem State.modPair_hlogt (s : State) (c : Nat) (f : Pair → Pair) : (s.modPair c f).hlogt = s.hlogt := rfl
@[simp] theorem State.modPair_killReg (s : State) (c : Nat) (f : Pair → Pair) : (s.modPair c f).killReg = s.killReg := rfl
@[simp] theorem State.modPair_killTeam (s : State) (c : Nat) (f : Pair → Pair) : (s.modPair c f).killTeam = s.killTeam := rfl
@[simp] theorem State.modPair_killNames (s : State) (c : Nat) (f : Pair → Pair) : (s.modPair c f).killNames = s.killNames := rfl
@[simp] theorem State.modPair_hcnt (s : State) (c : Nat) (f : Pair → Pair) : (s.modPair c f).hcnt = s.hcnt := rfl
@[simp] theorem State.modPair_hostOut (s : State) (c : Nat) (f : Pair → Pair) : (s.modPair c f).hostOut = s.hostOut := rfl
@[simp] theorem State.modPair_hostCached (s : State) (c : Nat) (f : Pair → Pair) : (s.modPair c f).hostCached = s.hostCached := rfl
@[simp] theorem State.modPair_hostLink (s : State) (c : Nat) (f : Pair → Pair) : (s.modPair c f).hostLink = s.hostLink := rfl
@[simp] theorem State.modPair_off (s : State) (c : Nat) (f : Pair → Pair) : (s.modPair c f).off = s.off := rfl
@[simp] theorem State.modPair_imgBase (s : State) (c : Nat) (f : Pair → Pair) : (s.modPair c f).imgBase = s.imgBase := rfl
@[simp] theorem State.modPair_imgLen (s : State) (c : Nat) (f : Pair → Pair) : (s.modPair c f).imgLen = s.imgLen := rfl
@[simp] theorem State.modPair_dbgBase (s : State) (c : Nat) (f : Pair → Pair) : (s.modPair c f).dbgBase = s.dbgBase := rfl
@[simp] theorem State.modPair_sensors (s : State) (c : Nat) (f : Pair → Pair) : (s.modPair c f).sensors = s.sensors := rfl
@[simp] theorem State.modPair_capAll (s : State) (c : Nat) (f : Pair → Pair) : (s.modPair c f).capAll = s.capAll := rfl
@[simp] theorem State.modPair_hotDecks (s : State) (c : Nat) (f : Pair → Pair) : (s.modPair c f).hotDecks = s.hotDecks := rfl
@[simp] theorem State.modPair_gated (s : State) (c : Nat) (f : Pair → Pair) : (s.modPair c f).gated = s.gated := rfl
@[simp] theorem State.modPair_gating (s : State) (c : Nat) (f : Pair → Pair) : (s.modPair c f).gating = s.gating := rfl
@[simp] theorem State.modPair_selfPeer (s : State) (c : Nat) (f : Pair → Pair) : (s.modPair c f).selfPeer = s.selfPeer := rfl
@[simp] theorem State.modPair_numbered (s : State) (c : Nat) (f : Pair → Pair) : (s.modPair c f).numbered = s.numbered := rfl
@[simp] theorem State.modPair_domains (s : State) (c : Nat) (f : Pair → Pair) : (s.modPair c f).domains = s.domains := rfl
@[simp] theorem State.modPair_ports (s : State) (c : Nat) (f : Pair → Pair) : (s.modPair c f).ports = s.ports := rfl
@[simp] theorem State.modPair_planeMap (s : State) (c : Nat) (f : Pair → Pair) : (s.modPair c f).planeMap = s.planeMap := rfl
@[simp] theorem State.modPair_moving (s : State) (c : Nat) (f : Pair → Pair) : (s.modPair c f).moving = s.moving := rfl
@[simp] theorem State.modPair_seqOut (s : State) (c : Nat) (f : Pair → Pair) : (s.modPair c f).seqOut = s.seqOut := rfl
@[simp] theorem State.modPair_seqIn (s : State) (c : Nat) (f : Pair → Pair) : (s.modPair c f).seqIn = s.seqIn := rfl
@[simp] theorem State.modPair_requests (s : State) (c : Nat) (f : Pair → Pair) : (s.modPair c f).requests = s.requests := rfl
@[simp] theorem State.modPair_sent (s : State) (c : Nat) (f : Pair → Pair) : (s.modPair c f).sent = s.sent := rfl
@[simp] theorem State.modPair_heldOut (s : State) (c : Nat) (f : Pair → Pair) : (s.modPair c f).heldOut = s.heldOut := rfl
@[simp] theorem State.modPair_rekeyAsks (s : State) (c : Nat) (f : Pair → Pair) : (s.modPair c f).rekeyAsks = s.rekeyAsks := rfl
@[simp] theorem State.modPair_pushes (s : State) (c : Nat) (f : Pair → Pair) : (s.modPair c f).pushes = s.pushes := rfl
@[simp] theorem State.modPair_owed (s : State) (c : Nat) (f : Pair → Pair) : (s.modPair c f).owed = s.owed := rfl
@[simp] theorem State.modPair_sessions (s : State) (c : Nat) (f : Pair → Pair) : (s.modPair c f).sessions = s.sessions := rfl
@[simp] theorem State.modPair_subs (s : State) (c : Nat) (f : Pair → Pair) : (s.modPair c f).subs = s.subs := rfl
@[simp] theorem State.modPair_homes (s : State) (c : Nat) (f : Pair → Pair) : (s.modPair c f).homes = s.homes := rfl
@[simp] theorem State.modPair_ucopies (s : State) (c : Nat) (f : Pair → Pair) : (s.modPair c f).ucopies = s.ucopies := rfl
@[simp] theorem State.modPair_colls (s : State) (c : Nat) (f : Pair → Pair) : (s.modPair c f).colls = s.colls := rfl
@[simp] theorem State.modPair_grids (s : State) (c : Nat) (f : Pair → Pair) : (s.modPair c f).grids = s.grids := rfl
@[simp] theorem State.modPair_teams (s : State) (c : Nat) (f : Pair → Pair) : (s.modPair c f).teams = s.teams := rfl
@[simp] theorem State.modPair_groups (s : State) (c : Nat) (f : Pair → Pair) : (s.modPair c f).groups = s.groups := rfl
@[simp] theorem State.modPair_saved (s : State) (c : Nat) (f : Pair → Pair) : (s.modPair c f).saved = s.saved := rfl
@[simp] theorem State.modPair_served (s : State) (c : Nat) (f : Pair → Pair) : (s.modPair c f).served = s.served := rfl
@[simp] theorem State.modPair_copies (s : State) (c : Nat) (f : Pair → Pair) : (s.modPair c f).copies = s.copies := rfl
@[simp] theorem State.modPair_rings (s : State) (c : Nat) (f : Pair → Pair) : (s.modPair c f).rings = s.rings := rfl
@[simp] theorem State.modPair_bounds (s : State) (c : Nat) (f : Pair → Pair) : (s.modPair c f).bounds = s.bounds := rfl
@[simp] theorem State.modPair_packets (s : State) (c : Nat) (f : Pair → Pair) : (s.modPair c f).packets = s.packets := rfl
@[simp] theorem State.modPair_cores (s : State) (c : Nat) (f : Pair → Pair) : (s.modPair c f).cores = s.cores := rfl
@[simp] theorem State.modPair_parts (s : State) (c : Nat) (f : Pair → Pair) : (s.modPair c f).parts = s.parts := rfl
@[simp] theorem State.modPair_pairs (s : State) (c : Nat) (f : Pair → Pair) : (s.modPair c f).pairs = kput s.pairs (pairOf c) (f (s.pair c)) := rfl
@[simp] theorem State.modPair_fresh (s : State) (c : Nat) (f : Pair → Pair) : (s.modPair c f).fresh = s.fresh := rfl
@[simp] theorem State.modPair_cycle (s : State) (c : Nat) (f : Pair → Pair) : (s.modPair c f).cycle = s.cycle := rfl
@[simp] theorem State.modPair_issued (s : State) (c : Nat) (f : Pair → Pair) : (s.modPair c f).issued = s.issued := rfl
@[simp] theorem State.modPair_runs (s : State) (c : Nat) (f : Pair → Pair) : (s.modPair c f).runs = s.runs := rfl
@[simp] theorem State.modPair_focus (s : State) (c : Nat) (f : Pair → Pair) : (s.modPair c f).focus = s.focus := rfl
@[simp] theorem State.modPair_stalled (s : State) (c : Nat) (f : Pair → Pair) : (s.modPair c f).stalled = s.stalled := rfl
@[simp] theorem State.modPair_slotE (s : State) (c : Nat) (f : Pair → Pair) : (s.modPair c f).slotE = s.slotE := rfl
@[simp] theorem State.modPair_slotW (s : State) (c : Nat) (f : Pair → Pair) : (s.modPair c f).slotW = s.slotW := rfl
@[simp] theorem State.modPair_agenda (s : State) (c : Nat) (f : Pair → Pair) : (s.modPair c f).agenda = s.agenda := rfl
@[simp] theorem State.modPair_ev (s : State) (c : Nat) (f : Pair → Pair) : (s.modPair c f).ev = s.ev := rfl
@[simp] theorem State.modPair_inputs (s : State) (c : Nat) (f : Pair → Pair) : (s.modPair c f).inputs = s.inputs := rfl
@[simp] theorem State.modPair_picks (s : State) (c : Nat) (f : Pair → Pair) : (s.modPair c f).picks = s.picks := rfl

-- ## homeWrite

@[simp] theorem State.homeWrite_mem (s : State) (pa : Nat) (bs : List Byte) : (s.homeWrite pa bs).mem = cellWrite s.mem pa bs := rfl
@[simp] theorem State.homeWrite_writes (s : State) (pa : Nat) (bs : List Byte) : (s.homeWrite pa bs).writes = s.writes := rfl
@[simp] theorem State.homeWrite_nextWrite (s : State) (pa : Nat) (bs : List Byte) : (s.homeWrite pa bs).nextWrite = s.nextWrite := rfl
@[simp] theorem State.homeWrite_poisoned (s : State) (pa : Nat) (bs : List Byte) : (s.homeWrite pa bs).poisoned = s.poisoned := rfl
@[simp] theorem State.homeWrite_keys (s : State) (pa : Nat) (bs : List Byte) : (s.homeWrite pa bs).keys = s.keys := rfl
@[simp] theorem State.homeWrite_keyGen (s : State) (pa : Nat) (bs : List Byte) : (s.homeWrite pa bs).keyGen = s.keyGen := rfl
@[simp] theorem State.homeWrite_lineKeys (s : State) (pa : Nat) (bs : List Byte) : (s.homeWrite pa bs).lineKeys = s.lineKeys := rfl
@[simp] theorem State.homeWrite_caches (s : State) (pa : Nat) (bs : List Byte) : (s.homeWrite pa bs).caches = s.caches := rfl
@[simp] theorem State.homeWrite_snoopBad (s : State) (pa : Nat) (bs : List Byte) : (s.homeWrite pa bs).snoopBad = s.snoopBad := rfl
@[simp] theorem State.homeWrite_rebuild (s : State) (pa : Nat) (bs : List Byte) : (s.homeWrite pa bs).rebuild = s.rebuild := rfl
@[simp] theorem State.homeWrite_delayed (s : State) (pa : Nat) (bs : List Byte) : (s.homeWrite pa bs).delayed = s.delayed := rfl
@[simp] theorem State.homeWrite_notes (s : State) (pa : Nat) (bs : List Byte) : (s.homeWrite pa bs).notes = s.notes := rfl
@[simp] theorem State.homeWrite_lost (s : State) (pa : Nat) (bs : List Byte) : (s.homeWrite pa bs).lost = s.lost := rfl
@[simp] theorem State.homeWrite_tlb (s : State) (pa : Nat) (bs : List Byte) : (s.homeWrite pa bs).tlb = s.tlb := rfl
@[simp] theorem State.homeWrite_tables (s : State) (pa : Nat) (bs : List Byte) : (s.homeWrite pa bs).tables = s.tables := rfl
@[simp] theorem State.homeWrite_walks (s : State) (pa : Nat) (bs : List Byte) : (s.homeWrite pa bs).walks = s.walks := rfl
@[simp] theorem State.homeWrite_shoots (s : State) (pa : Nat) (bs : List Byte) : (s.homeWrite pa bs).shoots = s.shoots := rfl
@[simp] theorem State.homeWrite_nextShoot (s : State) (pa : Nat) (bs : List Byte) : (s.homeWrite pa bs).nextShoot = s.nextShoot := rfl
@[simp] theorem State.homeWrite_ready (s : State) (pa : Nat) (bs : List Byte) : (s.homeWrite pa bs).ready = s.ready := rfl
@[simp] theorem State.homeWrite_bootFail (s : State) (pa : Nat) (bs : List Byte) : (s.homeWrite pa bs).bootFail = s.bootFail := rfl
@[simp] theorem State.homeWrite_fatal (s : State) (pa : Nat) (bs : List Byte) : (s.homeWrite pa bs).fatal = s.fatal := rfl
@[simp] theorem State.homeWrite_thermTrip (s : State) (pa : Nat) (bs : List Byte) : (s.homeWrite pa bs).thermTrip = s.thermTrip := rfl
@[simp] theorem State.homeWrite_replace (s : State) (pa : Nat) (bs : List Byte) : (s.homeWrite pa bs).replace = s.replace := rfl
@[simp] theorem State.homeWrite_degraded (s : State) (pa : Nat) (bs : List Byte) : (s.homeWrite pa bs).degraded = s.degraded := rfl
@[simp] theorem State.homeWrite_hlogb (s : State) (pa : Nat) (bs : List Byte) : (s.homeWrite pa bs).hlogb = s.hlogb := rfl
@[simp] theorem State.homeWrite_hlogn (s : State) (pa : Nat) (bs : List Byte) : (s.homeWrite pa bs).hlogn = s.hlogn := rfl
@[simp] theorem State.homeWrite_hlogt (s : State) (pa : Nat) (bs : List Byte) : (s.homeWrite pa bs).hlogt = s.hlogt := rfl
@[simp] theorem State.homeWrite_killReg (s : State) (pa : Nat) (bs : List Byte) : (s.homeWrite pa bs).killReg = s.killReg := rfl
@[simp] theorem State.homeWrite_killTeam (s : State) (pa : Nat) (bs : List Byte) : (s.homeWrite pa bs).killTeam = s.killTeam := rfl
@[simp] theorem State.homeWrite_killNames (s : State) (pa : Nat) (bs : List Byte) : (s.homeWrite pa bs).killNames = s.killNames := rfl
@[simp] theorem State.homeWrite_hcnt (s : State) (pa : Nat) (bs : List Byte) : (s.homeWrite pa bs).hcnt = s.hcnt := rfl
@[simp] theorem State.homeWrite_hostOut (s : State) (pa : Nat) (bs : List Byte) : (s.homeWrite pa bs).hostOut = s.hostOut := rfl
@[simp] theorem State.homeWrite_hostCached (s : State) (pa : Nat) (bs : List Byte) : (s.homeWrite pa bs).hostCached = s.hostCached := rfl
@[simp] theorem State.homeWrite_hostLink (s : State) (pa : Nat) (bs : List Byte) : (s.homeWrite pa bs).hostLink = s.hostLink := rfl
@[simp] theorem State.homeWrite_off (s : State) (pa : Nat) (bs : List Byte) : (s.homeWrite pa bs).off = s.off := rfl
@[simp] theorem State.homeWrite_imgBase (s : State) (pa : Nat) (bs : List Byte) : (s.homeWrite pa bs).imgBase = s.imgBase := rfl
@[simp] theorem State.homeWrite_imgLen (s : State) (pa : Nat) (bs : List Byte) : (s.homeWrite pa bs).imgLen = s.imgLen := rfl
@[simp] theorem State.homeWrite_dbgBase (s : State) (pa : Nat) (bs : List Byte) : (s.homeWrite pa bs).dbgBase = s.dbgBase := rfl
@[simp] theorem State.homeWrite_sensors (s : State) (pa : Nat) (bs : List Byte) : (s.homeWrite pa bs).sensors = s.sensors := rfl
@[simp] theorem State.homeWrite_capAll (s : State) (pa : Nat) (bs : List Byte) : (s.homeWrite pa bs).capAll = s.capAll := rfl
@[simp] theorem State.homeWrite_hotDecks (s : State) (pa : Nat) (bs : List Byte) : (s.homeWrite pa bs).hotDecks = s.hotDecks := rfl
@[simp] theorem State.homeWrite_gated (s : State) (pa : Nat) (bs : List Byte) : (s.homeWrite pa bs).gated = s.gated := rfl
@[simp] theorem State.homeWrite_gating (s : State) (pa : Nat) (bs : List Byte) : (s.homeWrite pa bs).gating = s.gating := rfl
@[simp] theorem State.homeWrite_selfPeer (s : State) (pa : Nat) (bs : List Byte) : (s.homeWrite pa bs).selfPeer = s.selfPeer := rfl
@[simp] theorem State.homeWrite_numbered (s : State) (pa : Nat) (bs : List Byte) : (s.homeWrite pa bs).numbered = s.numbered := rfl
@[simp] theorem State.homeWrite_domains (s : State) (pa : Nat) (bs : List Byte) : (s.homeWrite pa bs).domains = s.domains := rfl
@[simp] theorem State.homeWrite_ports (s : State) (pa : Nat) (bs : List Byte) : (s.homeWrite pa bs).ports = s.ports := rfl
@[simp] theorem State.homeWrite_planeMap (s : State) (pa : Nat) (bs : List Byte) : (s.homeWrite pa bs).planeMap = s.planeMap := rfl
@[simp] theorem State.homeWrite_moving (s : State) (pa : Nat) (bs : List Byte) : (s.homeWrite pa bs).moving = s.moving := rfl
@[simp] theorem State.homeWrite_seqOut (s : State) (pa : Nat) (bs : List Byte) : (s.homeWrite pa bs).seqOut = s.seqOut := rfl
@[simp] theorem State.homeWrite_seqIn (s : State) (pa : Nat) (bs : List Byte) : (s.homeWrite pa bs).seqIn = s.seqIn := rfl
@[simp] theorem State.homeWrite_requests (s : State) (pa : Nat) (bs : List Byte) : (s.homeWrite pa bs).requests = s.requests := rfl
@[simp] theorem State.homeWrite_sent (s : State) (pa : Nat) (bs : List Byte) : (s.homeWrite pa bs).sent = s.sent := rfl
@[simp] theorem State.homeWrite_heldOut (s : State) (pa : Nat) (bs : List Byte) : (s.homeWrite pa bs).heldOut = s.heldOut := rfl
@[simp] theorem State.homeWrite_rekeyAsks (s : State) (pa : Nat) (bs : List Byte) : (s.homeWrite pa bs).rekeyAsks = s.rekeyAsks := rfl
@[simp] theorem State.homeWrite_pushes (s : State) (pa : Nat) (bs : List Byte) : (s.homeWrite pa bs).pushes = s.pushes := rfl
@[simp] theorem State.homeWrite_owed (s : State) (pa : Nat) (bs : List Byte) : (s.homeWrite pa bs).owed = s.owed := rfl
@[simp] theorem State.homeWrite_sessions (s : State) (pa : Nat) (bs : List Byte) : (s.homeWrite pa bs).sessions = s.sessions := rfl
@[simp] theorem State.homeWrite_subs (s : State) (pa : Nat) (bs : List Byte) : (s.homeWrite pa bs).subs = s.subs := rfl
@[simp] theorem State.homeWrite_homes (s : State) (pa : Nat) (bs : List Byte) : (s.homeWrite pa bs).homes = s.homes := rfl
@[simp] theorem State.homeWrite_ucopies (s : State) (pa : Nat) (bs : List Byte) : (s.homeWrite pa bs).ucopies = s.ucopies := rfl
@[simp] theorem State.homeWrite_colls (s : State) (pa : Nat) (bs : List Byte) : (s.homeWrite pa bs).colls = s.colls := rfl
@[simp] theorem State.homeWrite_grids (s : State) (pa : Nat) (bs : List Byte) : (s.homeWrite pa bs).grids = s.grids := rfl
@[simp] theorem State.homeWrite_teams (s : State) (pa : Nat) (bs : List Byte) : (s.homeWrite pa bs).teams = s.teams := rfl
@[simp] theorem State.homeWrite_groups (s : State) (pa : Nat) (bs : List Byte) : (s.homeWrite pa bs).groups = s.groups := rfl
@[simp] theorem State.homeWrite_saved (s : State) (pa : Nat) (bs : List Byte) : (s.homeWrite pa bs).saved = s.saved := rfl
@[simp] theorem State.homeWrite_served (s : State) (pa : Nat) (bs : List Byte) : (s.homeWrite pa bs).served = s.served := rfl
@[simp] theorem State.homeWrite_copies (s : State) (pa : Nat) (bs : List Byte) : (s.homeWrite pa bs).copies = s.copies := rfl
@[simp] theorem State.homeWrite_rings (s : State) (pa : Nat) (bs : List Byte) : (s.homeWrite pa bs).rings = s.rings := rfl
@[simp] theorem State.homeWrite_bounds (s : State) (pa : Nat) (bs : List Byte) : (s.homeWrite pa bs).bounds = s.bounds := rfl
@[simp] theorem State.homeWrite_packets (s : State) (pa : Nat) (bs : List Byte) : (s.homeWrite pa bs).packets = s.packets := rfl
@[simp] theorem State.homeWrite_cores (s : State) (pa : Nat) (bs : List Byte) : (s.homeWrite pa bs).cores = s.cores := rfl
@[simp] theorem State.homeWrite_parts (s : State) (pa : Nat) (bs : List Byte) : (s.homeWrite pa bs).parts = s.parts := rfl
@[simp] theorem State.homeWrite_pairs (s : State) (pa : Nat) (bs : List Byte) : (s.homeWrite pa bs).pairs = s.pairs := rfl
@[simp] theorem State.homeWrite_fresh (s : State) (pa : Nat) (bs : List Byte) : (s.homeWrite pa bs).fresh = s.fresh := rfl
@[simp] theorem State.homeWrite_cycle (s : State) (pa : Nat) (bs : List Byte) : (s.homeWrite pa bs).cycle = s.cycle := rfl
@[simp] theorem State.homeWrite_issued (s : State) (pa : Nat) (bs : List Byte) : (s.homeWrite pa bs).issued = s.issued := rfl
@[simp] theorem State.homeWrite_runs (s : State) (pa : Nat) (bs : List Byte) : (s.homeWrite pa bs).runs = s.runs := rfl
@[simp] theorem State.homeWrite_focus (s : State) (pa : Nat) (bs : List Byte) : (s.homeWrite pa bs).focus = s.focus := rfl
@[simp] theorem State.homeWrite_stalled (s : State) (pa : Nat) (bs : List Byte) : (s.homeWrite pa bs).stalled = s.stalled := rfl
@[simp] theorem State.homeWrite_slotE (s : State) (pa : Nat) (bs : List Byte) : (s.homeWrite pa bs).slotE = s.slotE := rfl
@[simp] theorem State.homeWrite_slotW (s : State) (pa : Nat) (bs : List Byte) : (s.homeWrite pa bs).slotW = s.slotW := rfl
@[simp] theorem State.homeWrite_agenda (s : State) (pa : Nat) (bs : List Byte) : (s.homeWrite pa bs).agenda = s.agenda := rfl
@[simp] theorem State.homeWrite_ev (s : State) (pa : Nat) (bs : List Byte) : (s.homeWrite pa bs).ev = s.ev := rfl
@[simp] theorem State.homeWrite_inputs (s : State) (pa : Nat) (bs : List Byte) : (s.homeWrite pa bs).inputs = s.inputs := rfl
@[simp] theorem State.homeWrite_picks (s : State) (pa : Nat) (bs : List Byte) : (s.homeWrite pa bs).picks = s.picks := rfl

-- ## later

@[simp] theorem State.later_mem (s : State) (ds : List Due) : (s.later ds).mem = s.mem := rfl
@[simp] theorem State.later_writes (s : State) (ds : List Due) : (s.later ds).writes = s.writes := rfl
@[simp] theorem State.later_nextWrite (s : State) (ds : List Due) : (s.later ds).nextWrite = s.nextWrite := rfl
@[simp] theorem State.later_poisoned (s : State) (ds : List Due) : (s.later ds).poisoned = s.poisoned := rfl
@[simp] theorem State.later_keys (s : State) (ds : List Due) : (s.later ds).keys = s.keys := rfl
@[simp] theorem State.later_keyGen (s : State) (ds : List Due) : (s.later ds).keyGen = s.keyGen := rfl
@[simp] theorem State.later_lineKeys (s : State) (ds : List Due) : (s.later ds).lineKeys = s.lineKeys := rfl
@[simp] theorem State.later_caches (s : State) (ds : List Due) : (s.later ds).caches = s.caches := rfl
@[simp] theorem State.later_snoopBad (s : State) (ds : List Due) : (s.later ds).snoopBad = s.snoopBad := rfl
@[simp] theorem State.later_rebuild (s : State) (ds : List Due) : (s.later ds).rebuild = s.rebuild := rfl
@[simp] theorem State.later_delayed (s : State) (ds : List Due) : (s.later ds).delayed = s.delayed := rfl
@[simp] theorem State.later_notes (s : State) (ds : List Due) : (s.later ds).notes = s.notes := rfl
@[simp] theorem State.later_lost (s : State) (ds : List Due) : (s.later ds).lost = s.lost := rfl
@[simp] theorem State.later_tlb (s : State) (ds : List Due) : (s.later ds).tlb = s.tlb := rfl
@[simp] theorem State.later_tables (s : State) (ds : List Due) : (s.later ds).tables = s.tables := rfl
@[simp] theorem State.later_walks (s : State) (ds : List Due) : (s.later ds).walks = s.walks := rfl
@[simp] theorem State.later_shoots (s : State) (ds : List Due) : (s.later ds).shoots = s.shoots := rfl
@[simp] theorem State.later_nextShoot (s : State) (ds : List Due) : (s.later ds).nextShoot = s.nextShoot := rfl
@[simp] theorem State.later_ready (s : State) (ds : List Due) : (s.later ds).ready = s.ready := rfl
@[simp] theorem State.later_bootFail (s : State) (ds : List Due) : (s.later ds).bootFail = s.bootFail := rfl
@[simp] theorem State.later_fatal (s : State) (ds : List Due) : (s.later ds).fatal = s.fatal := rfl
@[simp] theorem State.later_thermTrip (s : State) (ds : List Due) : (s.later ds).thermTrip = s.thermTrip := rfl
@[simp] theorem State.later_replace (s : State) (ds : List Due) : (s.later ds).replace = s.replace := rfl
@[simp] theorem State.later_degraded (s : State) (ds : List Due) : (s.later ds).degraded = s.degraded := rfl
@[simp] theorem State.later_hlogb (s : State) (ds : List Due) : (s.later ds).hlogb = s.hlogb := rfl
@[simp] theorem State.later_hlogn (s : State) (ds : List Due) : (s.later ds).hlogn = s.hlogn := rfl
@[simp] theorem State.later_hlogt (s : State) (ds : List Due) : (s.later ds).hlogt = s.hlogt := rfl
@[simp] theorem State.later_killReg (s : State) (ds : List Due) : (s.later ds).killReg = s.killReg := rfl
@[simp] theorem State.later_killTeam (s : State) (ds : List Due) : (s.later ds).killTeam = s.killTeam := rfl
@[simp] theorem State.later_killNames (s : State) (ds : List Due) : (s.later ds).killNames = s.killNames := rfl
@[simp] theorem State.later_hcnt (s : State) (ds : List Due) : (s.later ds).hcnt = s.hcnt := rfl
@[simp] theorem State.later_hostOut (s : State) (ds : List Due) : (s.later ds).hostOut = s.hostOut := rfl
@[simp] theorem State.later_hostCached (s : State) (ds : List Due) : (s.later ds).hostCached = s.hostCached := rfl
@[simp] theorem State.later_hostLink (s : State) (ds : List Due) : (s.later ds).hostLink = s.hostLink := rfl
@[simp] theorem State.later_off (s : State) (ds : List Due) : (s.later ds).off = s.off := rfl
@[simp] theorem State.later_imgBase (s : State) (ds : List Due) : (s.later ds).imgBase = s.imgBase := rfl
@[simp] theorem State.later_imgLen (s : State) (ds : List Due) : (s.later ds).imgLen = s.imgLen := rfl
@[simp] theorem State.later_dbgBase (s : State) (ds : List Due) : (s.later ds).dbgBase = s.dbgBase := rfl
@[simp] theorem State.later_sensors (s : State) (ds : List Due) : (s.later ds).sensors = s.sensors := rfl
@[simp] theorem State.later_capAll (s : State) (ds : List Due) : (s.later ds).capAll = s.capAll := rfl
@[simp] theorem State.later_hotDecks (s : State) (ds : List Due) : (s.later ds).hotDecks = s.hotDecks := rfl
@[simp] theorem State.later_gated (s : State) (ds : List Due) : (s.later ds).gated = s.gated := rfl
@[simp] theorem State.later_gating (s : State) (ds : List Due) : (s.later ds).gating = s.gating := rfl
@[simp] theorem State.later_selfPeer (s : State) (ds : List Due) : (s.later ds).selfPeer = s.selfPeer := rfl
@[simp] theorem State.later_numbered (s : State) (ds : List Due) : (s.later ds).numbered = s.numbered := rfl
@[simp] theorem State.later_domains (s : State) (ds : List Due) : (s.later ds).domains = s.domains := rfl
@[simp] theorem State.later_ports (s : State) (ds : List Due) : (s.later ds).ports = s.ports := rfl
@[simp] theorem State.later_planeMap (s : State) (ds : List Due) : (s.later ds).planeMap = s.planeMap := rfl
@[simp] theorem State.later_moving (s : State) (ds : List Due) : (s.later ds).moving = s.moving := rfl
@[simp] theorem State.later_seqOut (s : State) (ds : List Due) : (s.later ds).seqOut = s.seqOut := rfl
@[simp] theorem State.later_seqIn (s : State) (ds : List Due) : (s.later ds).seqIn = s.seqIn := rfl
@[simp] theorem State.later_requests (s : State) (ds : List Due) : (s.later ds).requests = s.requests := rfl
@[simp] theorem State.later_sent (s : State) (ds : List Due) : (s.later ds).sent = s.sent := rfl
@[simp] theorem State.later_heldOut (s : State) (ds : List Due) : (s.later ds).heldOut = s.heldOut := rfl
@[simp] theorem State.later_rekeyAsks (s : State) (ds : List Due) : (s.later ds).rekeyAsks = s.rekeyAsks := rfl
@[simp] theorem State.later_pushes (s : State) (ds : List Due) : (s.later ds).pushes = s.pushes := rfl
@[simp] theorem State.later_owed (s : State) (ds : List Due) : (s.later ds).owed = s.owed := rfl
@[simp] theorem State.later_sessions (s : State) (ds : List Due) : (s.later ds).sessions = s.sessions := rfl
@[simp] theorem State.later_subs (s : State) (ds : List Due) : (s.later ds).subs = s.subs := rfl
@[simp] theorem State.later_homes (s : State) (ds : List Due) : (s.later ds).homes = s.homes := rfl
@[simp] theorem State.later_ucopies (s : State) (ds : List Due) : (s.later ds).ucopies = s.ucopies := rfl
@[simp] theorem State.later_colls (s : State) (ds : List Due) : (s.later ds).colls = s.colls := rfl
@[simp] theorem State.later_grids (s : State) (ds : List Due) : (s.later ds).grids = s.grids := rfl
@[simp] theorem State.later_teams (s : State) (ds : List Due) : (s.later ds).teams = s.teams := rfl
@[simp] theorem State.later_groups (s : State) (ds : List Due) : (s.later ds).groups = s.groups := rfl
@[simp] theorem State.later_saved (s : State) (ds : List Due) : (s.later ds).saved = s.saved := rfl
@[simp] theorem State.later_served (s : State) (ds : List Due) : (s.later ds).served = s.served := rfl
@[simp] theorem State.later_copies (s : State) (ds : List Due) : (s.later ds).copies = s.copies := rfl
@[simp] theorem State.later_rings (s : State) (ds : List Due) : (s.later ds).rings = s.rings := rfl
@[simp] theorem State.later_bounds (s : State) (ds : List Due) : (s.later ds).bounds = s.bounds := rfl
@[simp] theorem State.later_packets (s : State) (ds : List Due) : (s.later ds).packets = s.packets := rfl
@[simp] theorem State.later_cores (s : State) (ds : List Due) : (s.later ds).cores = s.cores := rfl
@[simp] theorem State.later_parts (s : State) (ds : List Due) : (s.later ds).parts = s.parts := rfl
@[simp] theorem State.later_pairs (s : State) (ds : List Due) : (s.later ds).pairs = s.pairs := rfl
@[simp] theorem State.later_fresh (s : State) (ds : List Due) : (s.later ds).fresh = s.fresh := rfl
@[simp] theorem State.later_cycle (s : State) (ds : List Due) : (s.later ds).cycle = s.cycle := rfl
@[simp] theorem State.later_issued (s : State) (ds : List Due) : (s.later ds).issued = s.issued := rfl
@[simp] theorem State.later_runs (s : State) (ds : List Due) : (s.later ds).runs = s.runs := rfl
@[simp] theorem State.later_focus (s : State) (ds : List Due) : (s.later ds).focus = s.focus := rfl
@[simp] theorem State.later_stalled (s : State) (ds : List Due) : (s.later ds).stalled = s.stalled := rfl
@[simp] theorem State.later_slotE (s : State) (ds : List Due) : (s.later ds).slotE = s.slotE := rfl
@[simp] theorem State.later_slotW (s : State) (ds : List Due) : (s.later ds).slotW = s.slotW := rfl
@[simp] theorem State.later_agenda (s : State) (ds : List Due) : (s.later ds).agenda = s.agenda ++ ds := rfl
@[simp] theorem State.later_ev (s : State) (ds : List Due) : (s.later ds).ev = s.ev := rfl
@[simp] theorem State.later_inputs (s : State) (ds : List Due) : (s.later ds).inputs = s.inputs := rfl
@[simp] theorem State.later_picks (s : State) (ds : List Due) : (s.later ds).picks = s.picks := rfl

-- ## sooner

@[simp] theorem State.sooner_mem (s : State) (ds : List Due) : (s.sooner ds).mem = s.mem := rfl
@[simp] theorem State.sooner_writes (s : State) (ds : List Due) : (s.sooner ds).writes = s.writes := rfl
@[simp] theorem State.sooner_nextWrite (s : State) (ds : List Due) : (s.sooner ds).nextWrite = s.nextWrite := rfl
@[simp] theorem State.sooner_poisoned (s : State) (ds : List Due) : (s.sooner ds).poisoned = s.poisoned := rfl
@[simp] theorem State.sooner_keys (s : State) (ds : List Due) : (s.sooner ds).keys = s.keys := rfl
@[simp] theorem State.sooner_keyGen (s : State) (ds : List Due) : (s.sooner ds).keyGen = s.keyGen := rfl
@[simp] theorem State.sooner_lineKeys (s : State) (ds : List Due) : (s.sooner ds).lineKeys = s.lineKeys := rfl
@[simp] theorem State.sooner_caches (s : State) (ds : List Due) : (s.sooner ds).caches = s.caches := rfl
@[simp] theorem State.sooner_snoopBad (s : State) (ds : List Due) : (s.sooner ds).snoopBad = s.snoopBad := rfl
@[simp] theorem State.sooner_rebuild (s : State) (ds : List Due) : (s.sooner ds).rebuild = s.rebuild := rfl
@[simp] theorem State.sooner_delayed (s : State) (ds : List Due) : (s.sooner ds).delayed = s.delayed := rfl
@[simp] theorem State.sooner_notes (s : State) (ds : List Due) : (s.sooner ds).notes = s.notes := rfl
@[simp] theorem State.sooner_lost (s : State) (ds : List Due) : (s.sooner ds).lost = s.lost := rfl
@[simp] theorem State.sooner_tlb (s : State) (ds : List Due) : (s.sooner ds).tlb = s.tlb := rfl
@[simp] theorem State.sooner_tables (s : State) (ds : List Due) : (s.sooner ds).tables = s.tables := rfl
@[simp] theorem State.sooner_walks (s : State) (ds : List Due) : (s.sooner ds).walks = s.walks := rfl
@[simp] theorem State.sooner_shoots (s : State) (ds : List Due) : (s.sooner ds).shoots = s.shoots := rfl
@[simp] theorem State.sooner_nextShoot (s : State) (ds : List Due) : (s.sooner ds).nextShoot = s.nextShoot := rfl
@[simp] theorem State.sooner_ready (s : State) (ds : List Due) : (s.sooner ds).ready = s.ready := rfl
@[simp] theorem State.sooner_bootFail (s : State) (ds : List Due) : (s.sooner ds).bootFail = s.bootFail := rfl
@[simp] theorem State.sooner_fatal (s : State) (ds : List Due) : (s.sooner ds).fatal = s.fatal := rfl
@[simp] theorem State.sooner_thermTrip (s : State) (ds : List Due) : (s.sooner ds).thermTrip = s.thermTrip := rfl
@[simp] theorem State.sooner_replace (s : State) (ds : List Due) : (s.sooner ds).replace = s.replace := rfl
@[simp] theorem State.sooner_degraded (s : State) (ds : List Due) : (s.sooner ds).degraded = s.degraded := rfl
@[simp] theorem State.sooner_hlogb (s : State) (ds : List Due) : (s.sooner ds).hlogb = s.hlogb := rfl
@[simp] theorem State.sooner_hlogn (s : State) (ds : List Due) : (s.sooner ds).hlogn = s.hlogn := rfl
@[simp] theorem State.sooner_hlogt (s : State) (ds : List Due) : (s.sooner ds).hlogt = s.hlogt := rfl
@[simp] theorem State.sooner_killReg (s : State) (ds : List Due) : (s.sooner ds).killReg = s.killReg := rfl
@[simp] theorem State.sooner_killTeam (s : State) (ds : List Due) : (s.sooner ds).killTeam = s.killTeam := rfl
@[simp] theorem State.sooner_killNames (s : State) (ds : List Due) : (s.sooner ds).killNames = s.killNames := rfl
@[simp] theorem State.sooner_hcnt (s : State) (ds : List Due) : (s.sooner ds).hcnt = s.hcnt := rfl
@[simp] theorem State.sooner_hostOut (s : State) (ds : List Due) : (s.sooner ds).hostOut = s.hostOut := rfl
@[simp] theorem State.sooner_hostCached (s : State) (ds : List Due) : (s.sooner ds).hostCached = s.hostCached := rfl
@[simp] theorem State.sooner_hostLink (s : State) (ds : List Due) : (s.sooner ds).hostLink = s.hostLink := rfl
@[simp] theorem State.sooner_off (s : State) (ds : List Due) : (s.sooner ds).off = s.off := rfl
@[simp] theorem State.sooner_imgBase (s : State) (ds : List Due) : (s.sooner ds).imgBase = s.imgBase := rfl
@[simp] theorem State.sooner_imgLen (s : State) (ds : List Due) : (s.sooner ds).imgLen = s.imgLen := rfl
@[simp] theorem State.sooner_dbgBase (s : State) (ds : List Due) : (s.sooner ds).dbgBase = s.dbgBase := rfl
@[simp] theorem State.sooner_sensors (s : State) (ds : List Due) : (s.sooner ds).sensors = s.sensors := rfl
@[simp] theorem State.sooner_capAll (s : State) (ds : List Due) : (s.sooner ds).capAll = s.capAll := rfl
@[simp] theorem State.sooner_hotDecks (s : State) (ds : List Due) : (s.sooner ds).hotDecks = s.hotDecks := rfl
@[simp] theorem State.sooner_gated (s : State) (ds : List Due) : (s.sooner ds).gated = s.gated := rfl
@[simp] theorem State.sooner_gating (s : State) (ds : List Due) : (s.sooner ds).gating = s.gating := rfl
@[simp] theorem State.sooner_selfPeer (s : State) (ds : List Due) : (s.sooner ds).selfPeer = s.selfPeer := rfl
@[simp] theorem State.sooner_numbered (s : State) (ds : List Due) : (s.sooner ds).numbered = s.numbered := rfl
@[simp] theorem State.sooner_domains (s : State) (ds : List Due) : (s.sooner ds).domains = s.domains := rfl
@[simp] theorem State.sooner_ports (s : State) (ds : List Due) : (s.sooner ds).ports = s.ports := rfl
@[simp] theorem State.sooner_planeMap (s : State) (ds : List Due) : (s.sooner ds).planeMap = s.planeMap := rfl
@[simp] theorem State.sooner_moving (s : State) (ds : List Due) : (s.sooner ds).moving = s.moving := rfl
@[simp] theorem State.sooner_seqOut (s : State) (ds : List Due) : (s.sooner ds).seqOut = s.seqOut := rfl
@[simp] theorem State.sooner_seqIn (s : State) (ds : List Due) : (s.sooner ds).seqIn = s.seqIn := rfl
@[simp] theorem State.sooner_requests (s : State) (ds : List Due) : (s.sooner ds).requests = s.requests := rfl
@[simp] theorem State.sooner_sent (s : State) (ds : List Due) : (s.sooner ds).sent = s.sent := rfl
@[simp] theorem State.sooner_heldOut (s : State) (ds : List Due) : (s.sooner ds).heldOut = s.heldOut := rfl
@[simp] theorem State.sooner_rekeyAsks (s : State) (ds : List Due) : (s.sooner ds).rekeyAsks = s.rekeyAsks := rfl
@[simp] theorem State.sooner_pushes (s : State) (ds : List Due) : (s.sooner ds).pushes = s.pushes := rfl
@[simp] theorem State.sooner_owed (s : State) (ds : List Due) : (s.sooner ds).owed = s.owed := rfl
@[simp] theorem State.sooner_sessions (s : State) (ds : List Due) : (s.sooner ds).sessions = s.sessions := rfl
@[simp] theorem State.sooner_subs (s : State) (ds : List Due) : (s.sooner ds).subs = s.subs := rfl
@[simp] theorem State.sooner_homes (s : State) (ds : List Due) : (s.sooner ds).homes = s.homes := rfl
@[simp] theorem State.sooner_ucopies (s : State) (ds : List Due) : (s.sooner ds).ucopies = s.ucopies := rfl
@[simp] theorem State.sooner_colls (s : State) (ds : List Due) : (s.sooner ds).colls = s.colls := rfl
@[simp] theorem State.sooner_grids (s : State) (ds : List Due) : (s.sooner ds).grids = s.grids := rfl
@[simp] theorem State.sooner_teams (s : State) (ds : List Due) : (s.sooner ds).teams = s.teams := rfl
@[simp] theorem State.sooner_groups (s : State) (ds : List Due) : (s.sooner ds).groups = s.groups := rfl
@[simp] theorem State.sooner_saved (s : State) (ds : List Due) : (s.sooner ds).saved = s.saved := rfl
@[simp] theorem State.sooner_served (s : State) (ds : List Due) : (s.sooner ds).served = s.served := rfl
@[simp] theorem State.sooner_copies (s : State) (ds : List Due) : (s.sooner ds).copies = s.copies := rfl
@[simp] theorem State.sooner_rings (s : State) (ds : List Due) : (s.sooner ds).rings = s.rings := rfl
@[simp] theorem State.sooner_bounds (s : State) (ds : List Due) : (s.sooner ds).bounds = s.bounds := rfl
@[simp] theorem State.sooner_packets (s : State) (ds : List Due) : (s.sooner ds).packets = s.packets := rfl
@[simp] theorem State.sooner_cores (s : State) (ds : List Due) : (s.sooner ds).cores = s.cores := rfl
@[simp] theorem State.sooner_parts (s : State) (ds : List Due) : (s.sooner ds).parts = s.parts := rfl
@[simp] theorem State.sooner_pairs (s : State) (ds : List Due) : (s.sooner ds).pairs = s.pairs := rfl
@[simp] theorem State.sooner_fresh (s : State) (ds : List Due) : (s.sooner ds).fresh = s.fresh := rfl
@[simp] theorem State.sooner_cycle (s : State) (ds : List Due) : (s.sooner ds).cycle = s.cycle := rfl
@[simp] theorem State.sooner_issued (s : State) (ds : List Due) : (s.sooner ds).issued = s.issued := rfl
@[simp] theorem State.sooner_runs (s : State) (ds : List Due) : (s.sooner ds).runs = s.runs := rfl
@[simp] theorem State.sooner_focus (s : State) (ds : List Due) : (s.sooner ds).focus = s.focus := rfl
@[simp] theorem State.sooner_stalled (s : State) (ds : List Due) : (s.sooner ds).stalled = s.stalled := rfl
@[simp] theorem State.sooner_slotE (s : State) (ds : List Due) : (s.sooner ds).slotE = s.slotE := rfl
@[simp] theorem State.sooner_slotW (s : State) (ds : List Due) : (s.sooner ds).slotW = s.slotW := rfl
@[simp] theorem State.sooner_agenda (s : State) (ds : List Due) : (s.sooner ds).agenda = ds ++ s.agenda := rfl
@[simp] theorem State.sooner_ev (s : State) (ds : List Due) : (s.sooner ds).ev = s.ev := rfl
@[simp] theorem State.sooner_inputs (s : State) (ds : List Due) : (s.sooner ds).inputs = s.inputs := rfl
@[simp] theorem State.sooner_picks (s : State) (ds : List Due) : (s.sooner ds).picks = s.picks := rfl

-- ## modGroup

@[simp] theorem State.modGroup_mem (s : State) (k : GKey) (f : Group → Group) : (s.modGroup k f).mem = s.mem := by unfold State.modGroup; split <;> rfl
@[simp] theorem State.modGroup_writes (s : State) (k : GKey) (f : Group → Group) : (s.modGroup k f).writes = s.writes := by unfold State.modGroup; split <;> rfl
@[simp] theorem State.modGroup_nextWrite (s : State) (k : GKey) (f : Group → Group) : (s.modGroup k f).nextWrite = s.nextWrite := by unfold State.modGroup; split <;> rfl
@[simp] theorem State.modGroup_poisoned (s : State) (k : GKey) (f : Group → Group) : (s.modGroup k f).poisoned = s.poisoned := by unfold State.modGroup; split <;> rfl
@[simp] theorem State.modGroup_keys (s : State) (k : GKey) (f : Group → Group) : (s.modGroup k f).keys = s.keys := by unfold State.modGroup; split <;> rfl
@[simp] theorem State.modGroup_keyGen (s : State) (k : GKey) (f : Group → Group) : (s.modGroup k f).keyGen = s.keyGen := by unfold State.modGroup; split <;> rfl
@[simp] theorem State.modGroup_lineKeys (s : State) (k : GKey) (f : Group → Group) : (s.modGroup k f).lineKeys = s.lineKeys := by unfold State.modGroup; split <;> rfl
@[simp] theorem State.modGroup_caches (s : State) (k : GKey) (f : Group → Group) : (s.modGroup k f).caches = s.caches := by unfold State.modGroup; split <;> rfl
@[simp] theorem State.modGroup_snoopBad (s : State) (k : GKey) (f : Group → Group) : (s.modGroup k f).snoopBad = s.snoopBad := by unfold State.modGroup; split <;> rfl
@[simp] theorem State.modGroup_rebuild (s : State) (k : GKey) (f : Group → Group) : (s.modGroup k f).rebuild = s.rebuild := by unfold State.modGroup; split <;> rfl
@[simp] theorem State.modGroup_delayed (s : State) (k : GKey) (f : Group → Group) : (s.modGroup k f).delayed = s.delayed := by unfold State.modGroup; split <;> rfl
@[simp] theorem State.modGroup_notes (s : State) (k : GKey) (f : Group → Group) : (s.modGroup k f).notes = s.notes := by unfold State.modGroup; split <;> rfl
@[simp] theorem State.modGroup_lost (s : State) (k : GKey) (f : Group → Group) : (s.modGroup k f).lost = s.lost := by unfold State.modGroup; split <;> rfl
@[simp] theorem State.modGroup_tlb (s : State) (k : GKey) (f : Group → Group) : (s.modGroup k f).tlb = s.tlb := by unfold State.modGroup; split <;> rfl
@[simp] theorem State.modGroup_tables (s : State) (k : GKey) (f : Group → Group) : (s.modGroup k f).tables = s.tables := by unfold State.modGroup; split <;> rfl
@[simp] theorem State.modGroup_walks (s : State) (k : GKey) (f : Group → Group) : (s.modGroup k f).walks = s.walks := by unfold State.modGroup; split <;> rfl
@[simp] theorem State.modGroup_shoots (s : State) (k : GKey) (f : Group → Group) : (s.modGroup k f).shoots = s.shoots := by unfold State.modGroup; split <;> rfl
@[simp] theorem State.modGroup_nextShoot (s : State) (k : GKey) (f : Group → Group) : (s.modGroup k f).nextShoot = s.nextShoot := by unfold State.modGroup; split <;> rfl
@[simp] theorem State.modGroup_ready (s : State) (k : GKey) (f : Group → Group) : (s.modGroup k f).ready = s.ready := by unfold State.modGroup; split <;> rfl
@[simp] theorem State.modGroup_bootFail (s : State) (k : GKey) (f : Group → Group) : (s.modGroup k f).bootFail = s.bootFail := by unfold State.modGroup; split <;> rfl
@[simp] theorem State.modGroup_fatal (s : State) (k : GKey) (f : Group → Group) : (s.modGroup k f).fatal = s.fatal := by unfold State.modGroup; split <;> rfl
@[simp] theorem State.modGroup_thermTrip (s : State) (k : GKey) (f : Group → Group) : (s.modGroup k f).thermTrip = s.thermTrip := by unfold State.modGroup; split <;> rfl
@[simp] theorem State.modGroup_replace (s : State) (k : GKey) (f : Group → Group) : (s.modGroup k f).replace = s.replace := by unfold State.modGroup; split <;> rfl
@[simp] theorem State.modGroup_degraded (s : State) (k : GKey) (f : Group → Group) : (s.modGroup k f).degraded = s.degraded := by unfold State.modGroup; split <;> rfl
@[simp] theorem State.modGroup_hlogb (s : State) (k : GKey) (f : Group → Group) : (s.modGroup k f).hlogb = s.hlogb := by unfold State.modGroup; split <;> rfl
@[simp] theorem State.modGroup_hlogn (s : State) (k : GKey) (f : Group → Group) : (s.modGroup k f).hlogn = s.hlogn := by unfold State.modGroup; split <;> rfl
@[simp] theorem State.modGroup_hlogt (s : State) (k : GKey) (f : Group → Group) : (s.modGroup k f).hlogt = s.hlogt := by unfold State.modGroup; split <;> rfl
@[simp] theorem State.modGroup_killReg (s : State) (k : GKey) (f : Group → Group) : (s.modGroup k f).killReg = s.killReg := by unfold State.modGroup; split <;> rfl
@[simp] theorem State.modGroup_killTeam (s : State) (k : GKey) (f : Group → Group) : (s.modGroup k f).killTeam = s.killTeam := by unfold State.modGroup; split <;> rfl
@[simp] theorem State.modGroup_killNames (s : State) (k : GKey) (f : Group → Group) : (s.modGroup k f).killNames = s.killNames := by unfold State.modGroup; split <;> rfl
@[simp] theorem State.modGroup_hcnt (s : State) (k : GKey) (f : Group → Group) : (s.modGroup k f).hcnt = s.hcnt := by unfold State.modGroup; split <;> rfl
@[simp] theorem State.modGroup_hostOut (s : State) (k : GKey) (f : Group → Group) : (s.modGroup k f).hostOut = s.hostOut := by unfold State.modGroup; split <;> rfl
@[simp] theorem State.modGroup_hostCached (s : State) (k : GKey) (f : Group → Group) : (s.modGroup k f).hostCached = s.hostCached := by unfold State.modGroup; split <;> rfl
@[simp] theorem State.modGroup_hostLink (s : State) (k : GKey) (f : Group → Group) : (s.modGroup k f).hostLink = s.hostLink := by unfold State.modGroup; split <;> rfl
@[simp] theorem State.modGroup_off (s : State) (k : GKey) (f : Group → Group) : (s.modGroup k f).off = s.off := by unfold State.modGroup; split <;> rfl
@[simp] theorem State.modGroup_imgBase (s : State) (k : GKey) (f : Group → Group) : (s.modGroup k f).imgBase = s.imgBase := by unfold State.modGroup; split <;> rfl
@[simp] theorem State.modGroup_imgLen (s : State) (k : GKey) (f : Group → Group) : (s.modGroup k f).imgLen = s.imgLen := by unfold State.modGroup; split <;> rfl
@[simp] theorem State.modGroup_dbgBase (s : State) (k : GKey) (f : Group → Group) : (s.modGroup k f).dbgBase = s.dbgBase := by unfold State.modGroup; split <;> rfl
@[simp] theorem State.modGroup_sensors (s : State) (k : GKey) (f : Group → Group) : (s.modGroup k f).sensors = s.sensors := by unfold State.modGroup; split <;> rfl
@[simp] theorem State.modGroup_capAll (s : State) (k : GKey) (f : Group → Group) : (s.modGroup k f).capAll = s.capAll := by unfold State.modGroup; split <;> rfl
@[simp] theorem State.modGroup_hotDecks (s : State) (k : GKey) (f : Group → Group) : (s.modGroup k f).hotDecks = s.hotDecks := by unfold State.modGroup; split <;> rfl
@[simp] theorem State.modGroup_gated (s : State) (k : GKey) (f : Group → Group) : (s.modGroup k f).gated = s.gated := by unfold State.modGroup; split <;> rfl
@[simp] theorem State.modGroup_gating (s : State) (k : GKey) (f : Group → Group) : (s.modGroup k f).gating = s.gating := by unfold State.modGroup; split <;> rfl
@[simp] theorem State.modGroup_selfPeer (s : State) (k : GKey) (f : Group → Group) : (s.modGroup k f).selfPeer = s.selfPeer := by unfold State.modGroup; split <;> rfl
@[simp] theorem State.modGroup_numbered (s : State) (k : GKey) (f : Group → Group) : (s.modGroup k f).numbered = s.numbered := by unfold State.modGroup; split <;> rfl
@[simp] theorem State.modGroup_domains (s : State) (k : GKey) (f : Group → Group) : (s.modGroup k f).domains = s.domains := by unfold State.modGroup; split <;> rfl
@[simp] theorem State.modGroup_ports (s : State) (k : GKey) (f : Group → Group) : (s.modGroup k f).ports = s.ports := by unfold State.modGroup; split <;> rfl
@[simp] theorem State.modGroup_planeMap (s : State) (k : GKey) (f : Group → Group) : (s.modGroup k f).planeMap = s.planeMap := by unfold State.modGroup; split <;> rfl
@[simp] theorem State.modGroup_moving (s : State) (k : GKey) (f : Group → Group) : (s.modGroup k f).moving = s.moving := by unfold State.modGroup; split <;> rfl
@[simp] theorem State.modGroup_seqOut (s : State) (k : GKey) (f : Group → Group) : (s.modGroup k f).seqOut = s.seqOut := by unfold State.modGroup; split <;> rfl
@[simp] theorem State.modGroup_seqIn (s : State) (k : GKey) (f : Group → Group) : (s.modGroup k f).seqIn = s.seqIn := by unfold State.modGroup; split <;> rfl
@[simp] theorem State.modGroup_requests (s : State) (k : GKey) (f : Group → Group) : (s.modGroup k f).requests = s.requests := by unfold State.modGroup; split <;> rfl
@[simp] theorem State.modGroup_sent (s : State) (k : GKey) (f : Group → Group) : (s.modGroup k f).sent = s.sent := by unfold State.modGroup; split <;> rfl
@[simp] theorem State.modGroup_heldOut (s : State) (k : GKey) (f : Group → Group) : (s.modGroup k f).heldOut = s.heldOut := by unfold State.modGroup; split <;> rfl
@[simp] theorem State.modGroup_rekeyAsks (s : State) (k : GKey) (f : Group → Group) : (s.modGroup k f).rekeyAsks = s.rekeyAsks := by unfold State.modGroup; split <;> rfl
@[simp] theorem State.modGroup_pushes (s : State) (k : GKey) (f : Group → Group) : (s.modGroup k f).pushes = s.pushes := by unfold State.modGroup; split <;> rfl
@[simp] theorem State.modGroup_owed (s : State) (k : GKey) (f : Group → Group) : (s.modGroup k f).owed = s.owed := by unfold State.modGroup; split <;> rfl
@[simp] theorem State.modGroup_sessions (s : State) (k : GKey) (f : Group → Group) : (s.modGroup k f).sessions = s.sessions := by unfold State.modGroup; split <;> rfl
@[simp] theorem State.modGroup_subs (s : State) (k : GKey) (f : Group → Group) : (s.modGroup k f).subs = s.subs := by unfold State.modGroup; split <;> rfl
@[simp] theorem State.modGroup_homes (s : State) (k : GKey) (f : Group → Group) : (s.modGroup k f).homes = s.homes := by unfold State.modGroup; split <;> rfl
@[simp] theorem State.modGroup_ucopies (s : State) (k : GKey) (f : Group → Group) : (s.modGroup k f).ucopies = s.ucopies := by unfold State.modGroup; split <;> rfl
@[simp] theorem State.modGroup_colls (s : State) (k : GKey) (f : Group → Group) : (s.modGroup k f).colls = s.colls := by unfold State.modGroup; split <;> rfl
@[simp] theorem State.modGroup_grids (s : State) (k : GKey) (f : Group → Group) : (s.modGroup k f).grids = s.grids := by unfold State.modGroup; split <;> rfl
@[simp] theorem State.modGroup_teams (s : State) (k : GKey) (f : Group → Group) : (s.modGroup k f).teams = s.teams := by unfold State.modGroup; split <;> rfl
@[simp] theorem State.modGroup_saved (s : State) (k : GKey) (f : Group → Group) : (s.modGroup k f).saved = s.saved := by unfold State.modGroup; split <;> rfl
@[simp] theorem State.modGroup_served (s : State) (k : GKey) (f : Group → Group) : (s.modGroup k f).served = s.served := by unfold State.modGroup; split <;> rfl
@[simp] theorem State.modGroup_copies (s : State) (k : GKey) (f : Group → Group) : (s.modGroup k f).copies = s.copies := by unfold State.modGroup; split <;> rfl
@[simp] theorem State.modGroup_rings (s : State) (k : GKey) (f : Group → Group) : (s.modGroup k f).rings = s.rings := by unfold State.modGroup; split <;> rfl
@[simp] theorem State.modGroup_bounds (s : State) (k : GKey) (f : Group → Group) : (s.modGroup k f).bounds = s.bounds := by unfold State.modGroup; split <;> rfl
@[simp] theorem State.modGroup_packets (s : State) (k : GKey) (f : Group → Group) : (s.modGroup k f).packets = s.packets := by unfold State.modGroup; split <;> rfl
@[simp] theorem State.modGroup_cores (s : State) (k : GKey) (f : Group → Group) : (s.modGroup k f).cores = s.cores := by unfold State.modGroup; split <;> rfl
@[simp] theorem State.modGroup_parts (s : State) (k : GKey) (f : Group → Group) : (s.modGroup k f).parts = s.parts := by unfold State.modGroup; split <;> rfl
@[simp] theorem State.modGroup_pairs (s : State) (k : GKey) (f : Group → Group) : (s.modGroup k f).pairs = s.pairs := by unfold State.modGroup; split <;> rfl
@[simp] theorem State.modGroup_fresh (s : State) (k : GKey) (f : Group → Group) : (s.modGroup k f).fresh = s.fresh := by unfold State.modGroup; split <;> rfl
@[simp] theorem State.modGroup_cycle (s : State) (k : GKey) (f : Group → Group) : (s.modGroup k f).cycle = s.cycle := by unfold State.modGroup; split <;> rfl
@[simp] theorem State.modGroup_issued (s : State) (k : GKey) (f : Group → Group) : (s.modGroup k f).issued = s.issued := by unfold State.modGroup; split <;> rfl
@[simp] theorem State.modGroup_runs (s : State) (k : GKey) (f : Group → Group) : (s.modGroup k f).runs = s.runs := by unfold State.modGroup; split <;> rfl
@[simp] theorem State.modGroup_focus (s : State) (k : GKey) (f : Group → Group) : (s.modGroup k f).focus = s.focus := by unfold State.modGroup; split <;> rfl
@[simp] theorem State.modGroup_stalled (s : State) (k : GKey) (f : Group → Group) : (s.modGroup k f).stalled = s.stalled := by unfold State.modGroup; split <;> rfl
@[simp] theorem State.modGroup_slotE (s : State) (k : GKey) (f : Group → Group) : (s.modGroup k f).slotE = s.slotE := by unfold State.modGroup; split <;> rfl
@[simp] theorem State.modGroup_slotW (s : State) (k : GKey) (f : Group → Group) : (s.modGroup k f).slotW = s.slotW := by unfold State.modGroup; split <;> rfl
@[simp] theorem State.modGroup_agenda (s : State) (k : GKey) (f : Group → Group) : (s.modGroup k f).agenda = s.agenda := by unfold State.modGroup; split <;> rfl
@[simp] theorem State.modGroup_ev (s : State) (k : GKey) (f : Group → Group) : (s.modGroup k f).ev = s.ev := by unfold State.modGroup; split <;> rfl
@[simp] theorem State.modGroup_inputs (s : State) (k : GKey) (f : Group → Group) : (s.modGroup k f).inputs = s.inputs := by unfold State.modGroup; split <;> rfl
@[simp] theorem State.modGroup_picks (s : State) (k : GKey) (f : Group → Group) : (s.modGroup k f).picks = s.picks := by unfold State.modGroup; split <;> rfl

-- ## modTeam

@[simp] theorem State.modTeam_mem (s : State) (u : TKey) (f : Team → Team) : (s.modTeam u f).mem = s.mem := by unfold State.modTeam; split <;> rfl
@[simp] theorem State.modTeam_writes (s : State) (u : TKey) (f : Team → Team) : (s.modTeam u f).writes = s.writes := by unfold State.modTeam; split <;> rfl
@[simp] theorem State.modTeam_nextWrite (s : State) (u : TKey) (f : Team → Team) : (s.modTeam u f).nextWrite = s.nextWrite := by unfold State.modTeam; split <;> rfl
@[simp] theorem State.modTeam_poisoned (s : State) (u : TKey) (f : Team → Team) : (s.modTeam u f).poisoned = s.poisoned := by unfold State.modTeam; split <;> rfl
@[simp] theorem State.modTeam_keys (s : State) (u : TKey) (f : Team → Team) : (s.modTeam u f).keys = s.keys := by unfold State.modTeam; split <;> rfl
@[simp] theorem State.modTeam_keyGen (s : State) (u : TKey) (f : Team → Team) : (s.modTeam u f).keyGen = s.keyGen := by unfold State.modTeam; split <;> rfl
@[simp] theorem State.modTeam_lineKeys (s : State) (u : TKey) (f : Team → Team) : (s.modTeam u f).lineKeys = s.lineKeys := by unfold State.modTeam; split <;> rfl
@[simp] theorem State.modTeam_caches (s : State) (u : TKey) (f : Team → Team) : (s.modTeam u f).caches = s.caches := by unfold State.modTeam; split <;> rfl
@[simp] theorem State.modTeam_snoopBad (s : State) (u : TKey) (f : Team → Team) : (s.modTeam u f).snoopBad = s.snoopBad := by unfold State.modTeam; split <;> rfl
@[simp] theorem State.modTeam_rebuild (s : State) (u : TKey) (f : Team → Team) : (s.modTeam u f).rebuild = s.rebuild := by unfold State.modTeam; split <;> rfl
@[simp] theorem State.modTeam_delayed (s : State) (u : TKey) (f : Team → Team) : (s.modTeam u f).delayed = s.delayed := by unfold State.modTeam; split <;> rfl
@[simp] theorem State.modTeam_notes (s : State) (u : TKey) (f : Team → Team) : (s.modTeam u f).notes = s.notes := by unfold State.modTeam; split <;> rfl
@[simp] theorem State.modTeam_lost (s : State) (u : TKey) (f : Team → Team) : (s.modTeam u f).lost = s.lost := by unfold State.modTeam; split <;> rfl
@[simp] theorem State.modTeam_tlb (s : State) (u : TKey) (f : Team → Team) : (s.modTeam u f).tlb = s.tlb := by unfold State.modTeam; split <;> rfl
@[simp] theorem State.modTeam_tables (s : State) (u : TKey) (f : Team → Team) : (s.modTeam u f).tables = s.tables := by unfold State.modTeam; split <;> rfl
@[simp] theorem State.modTeam_walks (s : State) (u : TKey) (f : Team → Team) : (s.modTeam u f).walks = s.walks := by unfold State.modTeam; split <;> rfl
@[simp] theorem State.modTeam_shoots (s : State) (u : TKey) (f : Team → Team) : (s.modTeam u f).shoots = s.shoots := by unfold State.modTeam; split <;> rfl
@[simp] theorem State.modTeam_nextShoot (s : State) (u : TKey) (f : Team → Team) : (s.modTeam u f).nextShoot = s.nextShoot := by unfold State.modTeam; split <;> rfl
@[simp] theorem State.modTeam_ready (s : State) (u : TKey) (f : Team → Team) : (s.modTeam u f).ready = s.ready := by unfold State.modTeam; split <;> rfl
@[simp] theorem State.modTeam_bootFail (s : State) (u : TKey) (f : Team → Team) : (s.modTeam u f).bootFail = s.bootFail := by unfold State.modTeam; split <;> rfl
@[simp] theorem State.modTeam_fatal (s : State) (u : TKey) (f : Team → Team) : (s.modTeam u f).fatal = s.fatal := by unfold State.modTeam; split <;> rfl
@[simp] theorem State.modTeam_thermTrip (s : State) (u : TKey) (f : Team → Team) : (s.modTeam u f).thermTrip = s.thermTrip := by unfold State.modTeam; split <;> rfl
@[simp] theorem State.modTeam_replace (s : State) (u : TKey) (f : Team → Team) : (s.modTeam u f).replace = s.replace := by unfold State.modTeam; split <;> rfl
@[simp] theorem State.modTeam_degraded (s : State) (u : TKey) (f : Team → Team) : (s.modTeam u f).degraded = s.degraded := by unfold State.modTeam; split <;> rfl
@[simp] theorem State.modTeam_hlogb (s : State) (u : TKey) (f : Team → Team) : (s.modTeam u f).hlogb = s.hlogb := by unfold State.modTeam; split <;> rfl
@[simp] theorem State.modTeam_hlogn (s : State) (u : TKey) (f : Team → Team) : (s.modTeam u f).hlogn = s.hlogn := by unfold State.modTeam; split <;> rfl
@[simp] theorem State.modTeam_hlogt (s : State) (u : TKey) (f : Team → Team) : (s.modTeam u f).hlogt = s.hlogt := by unfold State.modTeam; split <;> rfl
@[simp] theorem State.modTeam_killReg (s : State) (u : TKey) (f : Team → Team) : (s.modTeam u f).killReg = s.killReg := by unfold State.modTeam; split <;> rfl
@[simp] theorem State.modTeam_killTeam (s : State) (u : TKey) (f : Team → Team) : (s.modTeam u f).killTeam = s.killTeam := by unfold State.modTeam; split <;> rfl
@[simp] theorem State.modTeam_killNames (s : State) (u : TKey) (f : Team → Team) : (s.modTeam u f).killNames = s.killNames := by unfold State.modTeam; split <;> rfl
@[simp] theorem State.modTeam_hcnt (s : State) (u : TKey) (f : Team → Team) : (s.modTeam u f).hcnt = s.hcnt := by unfold State.modTeam; split <;> rfl
@[simp] theorem State.modTeam_hostOut (s : State) (u : TKey) (f : Team → Team) : (s.modTeam u f).hostOut = s.hostOut := by unfold State.modTeam; split <;> rfl
@[simp] theorem State.modTeam_hostCached (s : State) (u : TKey) (f : Team → Team) : (s.modTeam u f).hostCached = s.hostCached := by unfold State.modTeam; split <;> rfl
@[simp] theorem State.modTeam_hostLink (s : State) (u : TKey) (f : Team → Team) : (s.modTeam u f).hostLink = s.hostLink := by unfold State.modTeam; split <;> rfl
@[simp] theorem State.modTeam_off (s : State) (u : TKey) (f : Team → Team) : (s.modTeam u f).off = s.off := by unfold State.modTeam; split <;> rfl
@[simp] theorem State.modTeam_imgBase (s : State) (u : TKey) (f : Team → Team) : (s.modTeam u f).imgBase = s.imgBase := by unfold State.modTeam; split <;> rfl
@[simp] theorem State.modTeam_imgLen (s : State) (u : TKey) (f : Team → Team) : (s.modTeam u f).imgLen = s.imgLen := by unfold State.modTeam; split <;> rfl
@[simp] theorem State.modTeam_dbgBase (s : State) (u : TKey) (f : Team → Team) : (s.modTeam u f).dbgBase = s.dbgBase := by unfold State.modTeam; split <;> rfl
@[simp] theorem State.modTeam_sensors (s : State) (u : TKey) (f : Team → Team) : (s.modTeam u f).sensors = s.sensors := by unfold State.modTeam; split <;> rfl
@[simp] theorem State.modTeam_capAll (s : State) (u : TKey) (f : Team → Team) : (s.modTeam u f).capAll = s.capAll := by unfold State.modTeam; split <;> rfl
@[simp] theorem State.modTeam_hotDecks (s : State) (u : TKey) (f : Team → Team) : (s.modTeam u f).hotDecks = s.hotDecks := by unfold State.modTeam; split <;> rfl
@[simp] theorem State.modTeam_gated (s : State) (u : TKey) (f : Team → Team) : (s.modTeam u f).gated = s.gated := by unfold State.modTeam; split <;> rfl
@[simp] theorem State.modTeam_gating (s : State) (u : TKey) (f : Team → Team) : (s.modTeam u f).gating = s.gating := by unfold State.modTeam; split <;> rfl
@[simp] theorem State.modTeam_selfPeer (s : State) (u : TKey) (f : Team → Team) : (s.modTeam u f).selfPeer = s.selfPeer := by unfold State.modTeam; split <;> rfl
@[simp] theorem State.modTeam_numbered (s : State) (u : TKey) (f : Team → Team) : (s.modTeam u f).numbered = s.numbered := by unfold State.modTeam; split <;> rfl
@[simp] theorem State.modTeam_domains (s : State) (u : TKey) (f : Team → Team) : (s.modTeam u f).domains = s.domains := by unfold State.modTeam; split <;> rfl
@[simp] theorem State.modTeam_ports (s : State) (u : TKey) (f : Team → Team) : (s.modTeam u f).ports = s.ports := by unfold State.modTeam; split <;> rfl
@[simp] theorem State.modTeam_planeMap (s : State) (u : TKey) (f : Team → Team) : (s.modTeam u f).planeMap = s.planeMap := by unfold State.modTeam; split <;> rfl
@[simp] theorem State.modTeam_moving (s : State) (u : TKey) (f : Team → Team) : (s.modTeam u f).moving = s.moving := by unfold State.modTeam; split <;> rfl
@[simp] theorem State.modTeam_seqOut (s : State) (u : TKey) (f : Team → Team) : (s.modTeam u f).seqOut = s.seqOut := by unfold State.modTeam; split <;> rfl
@[simp] theorem State.modTeam_seqIn (s : State) (u : TKey) (f : Team → Team) : (s.modTeam u f).seqIn = s.seqIn := by unfold State.modTeam; split <;> rfl
@[simp] theorem State.modTeam_requests (s : State) (u : TKey) (f : Team → Team) : (s.modTeam u f).requests = s.requests := by unfold State.modTeam; split <;> rfl
@[simp] theorem State.modTeam_sent (s : State) (u : TKey) (f : Team → Team) : (s.modTeam u f).sent = s.sent := by unfold State.modTeam; split <;> rfl
@[simp] theorem State.modTeam_heldOut (s : State) (u : TKey) (f : Team → Team) : (s.modTeam u f).heldOut = s.heldOut := by unfold State.modTeam; split <;> rfl
@[simp] theorem State.modTeam_rekeyAsks (s : State) (u : TKey) (f : Team → Team) : (s.modTeam u f).rekeyAsks = s.rekeyAsks := by unfold State.modTeam; split <;> rfl
@[simp] theorem State.modTeam_pushes (s : State) (u : TKey) (f : Team → Team) : (s.modTeam u f).pushes = s.pushes := by unfold State.modTeam; split <;> rfl
@[simp] theorem State.modTeam_owed (s : State) (u : TKey) (f : Team → Team) : (s.modTeam u f).owed = s.owed := by unfold State.modTeam; split <;> rfl
@[simp] theorem State.modTeam_sessions (s : State) (u : TKey) (f : Team → Team) : (s.modTeam u f).sessions = s.sessions := by unfold State.modTeam; split <;> rfl
@[simp] theorem State.modTeam_subs (s : State) (u : TKey) (f : Team → Team) : (s.modTeam u f).subs = s.subs := by unfold State.modTeam; split <;> rfl
@[simp] theorem State.modTeam_homes (s : State) (u : TKey) (f : Team → Team) : (s.modTeam u f).homes = s.homes := by unfold State.modTeam; split <;> rfl
@[simp] theorem State.modTeam_ucopies (s : State) (u : TKey) (f : Team → Team) : (s.modTeam u f).ucopies = s.ucopies := by unfold State.modTeam; split <;> rfl
@[simp] theorem State.modTeam_colls (s : State) (u : TKey) (f : Team → Team) : (s.modTeam u f).colls = s.colls := by unfold State.modTeam; split <;> rfl
@[simp] theorem State.modTeam_grids (s : State) (u : TKey) (f : Team → Team) : (s.modTeam u f).grids = s.grids := by unfold State.modTeam; split <;> rfl
@[simp] theorem State.modTeam_groups (s : State) (u : TKey) (f : Team → Team) : (s.modTeam u f).groups = s.groups := by unfold State.modTeam; split <;> rfl
@[simp] theorem State.modTeam_saved (s : State) (u : TKey) (f : Team → Team) : (s.modTeam u f).saved = s.saved := by unfold State.modTeam; split <;> rfl
@[simp] theorem State.modTeam_served (s : State) (u : TKey) (f : Team → Team) : (s.modTeam u f).served = s.served := by unfold State.modTeam; split <;> rfl
@[simp] theorem State.modTeam_copies (s : State) (u : TKey) (f : Team → Team) : (s.modTeam u f).copies = s.copies := by unfold State.modTeam; split <;> rfl
@[simp] theorem State.modTeam_rings (s : State) (u : TKey) (f : Team → Team) : (s.modTeam u f).rings = s.rings := by unfold State.modTeam; split <;> rfl
@[simp] theorem State.modTeam_bounds (s : State) (u : TKey) (f : Team → Team) : (s.modTeam u f).bounds = s.bounds := by unfold State.modTeam; split <;> rfl
@[simp] theorem State.modTeam_packets (s : State) (u : TKey) (f : Team → Team) : (s.modTeam u f).packets = s.packets := by unfold State.modTeam; split <;> rfl
@[simp] theorem State.modTeam_cores (s : State) (u : TKey) (f : Team → Team) : (s.modTeam u f).cores = s.cores := by unfold State.modTeam; split <;> rfl
@[simp] theorem State.modTeam_parts (s : State) (u : TKey) (f : Team → Team) : (s.modTeam u f).parts = s.parts := by unfold State.modTeam; split <;> rfl
@[simp] theorem State.modTeam_pairs (s : State) (u : TKey) (f : Team → Team) : (s.modTeam u f).pairs = s.pairs := by unfold State.modTeam; split <;> rfl
@[simp] theorem State.modTeam_fresh (s : State) (u : TKey) (f : Team → Team) : (s.modTeam u f).fresh = s.fresh := by unfold State.modTeam; split <;> rfl
@[simp] theorem State.modTeam_cycle (s : State) (u : TKey) (f : Team → Team) : (s.modTeam u f).cycle = s.cycle := by unfold State.modTeam; split <;> rfl
@[simp] theorem State.modTeam_issued (s : State) (u : TKey) (f : Team → Team) : (s.modTeam u f).issued = s.issued := by unfold State.modTeam; split <;> rfl
@[simp] theorem State.modTeam_runs (s : State) (u : TKey) (f : Team → Team) : (s.modTeam u f).runs = s.runs := by unfold State.modTeam; split <;> rfl
@[simp] theorem State.modTeam_focus (s : State) (u : TKey) (f : Team → Team) : (s.modTeam u f).focus = s.focus := by unfold State.modTeam; split <;> rfl
@[simp] theorem State.modTeam_stalled (s : State) (u : TKey) (f : Team → Team) : (s.modTeam u f).stalled = s.stalled := by unfold State.modTeam; split <;> rfl
@[simp] theorem State.modTeam_slotE (s : State) (u : TKey) (f : Team → Team) : (s.modTeam u f).slotE = s.slotE := by unfold State.modTeam; split <;> rfl
@[simp] theorem State.modTeam_slotW (s : State) (u : TKey) (f : Team → Team) : (s.modTeam u f).slotW = s.slotW := by unfold State.modTeam; split <;> rfl
@[simp] theorem State.modTeam_agenda (s : State) (u : TKey) (f : Team → Team) : (s.modTeam u f).agenda = s.agenda := by unfold State.modTeam; split <;> rfl
@[simp] theorem State.modTeam_ev (s : State) (u : TKey) (f : Team → Team) : (s.modTeam u f).ev = s.ev := by unfold State.modTeam; split <;> rfl
@[simp] theorem State.modTeam_inputs (s : State) (u : TKey) (f : Team → Team) : (s.modTeam u f).inputs = s.inputs := by unfold State.modTeam; split <;> rfl
@[simp] theorem State.modTeam_picks (s : State) (u : TKey) (f : Team → Team) : (s.modTeam u f).picks = s.picks := by unfold State.modTeam; split <;> rfl

-- ## modGrid

@[simp] theorem State.modGrid_mem (s : State) (n : Nat) (f : Grid → Grid) : (s.modGrid n f).mem = s.mem := by unfold State.modGrid; split <;> rfl
@[simp] theorem State.modGrid_writes (s : State) (n : Nat) (f : Grid → Grid) : (s.modGrid n f).writes = s.writes := by unfold State.modGrid; split <;> rfl
@[simp] theorem State.modGrid_nextWrite (s : State) (n : Nat) (f : Grid → Grid) : (s.modGrid n f).nextWrite = s.nextWrite := by unfold State.modGrid; split <;> rfl
@[simp] theorem State.modGrid_poisoned (s : State) (n : Nat) (f : Grid → Grid) : (s.modGrid n f).poisoned = s.poisoned := by unfold State.modGrid; split <;> rfl
@[simp] theorem State.modGrid_keys (s : State) (n : Nat) (f : Grid → Grid) : (s.modGrid n f).keys = s.keys := by unfold State.modGrid; split <;> rfl
@[simp] theorem State.modGrid_keyGen (s : State) (n : Nat) (f : Grid → Grid) : (s.modGrid n f).keyGen = s.keyGen := by unfold State.modGrid; split <;> rfl
@[simp] theorem State.modGrid_lineKeys (s : State) (n : Nat) (f : Grid → Grid) : (s.modGrid n f).lineKeys = s.lineKeys := by unfold State.modGrid; split <;> rfl
@[simp] theorem State.modGrid_caches (s : State) (n : Nat) (f : Grid → Grid) : (s.modGrid n f).caches = s.caches := by unfold State.modGrid; split <;> rfl
@[simp] theorem State.modGrid_snoopBad (s : State) (n : Nat) (f : Grid → Grid) : (s.modGrid n f).snoopBad = s.snoopBad := by unfold State.modGrid; split <;> rfl
@[simp] theorem State.modGrid_rebuild (s : State) (n : Nat) (f : Grid → Grid) : (s.modGrid n f).rebuild = s.rebuild := by unfold State.modGrid; split <;> rfl
@[simp] theorem State.modGrid_delayed (s : State) (n : Nat) (f : Grid → Grid) : (s.modGrid n f).delayed = s.delayed := by unfold State.modGrid; split <;> rfl
@[simp] theorem State.modGrid_notes (s : State) (n : Nat) (f : Grid → Grid) : (s.modGrid n f).notes = s.notes := by unfold State.modGrid; split <;> rfl
@[simp] theorem State.modGrid_lost (s : State) (n : Nat) (f : Grid → Grid) : (s.modGrid n f).lost = s.lost := by unfold State.modGrid; split <;> rfl
@[simp] theorem State.modGrid_tlb (s : State) (n : Nat) (f : Grid → Grid) : (s.modGrid n f).tlb = s.tlb := by unfold State.modGrid; split <;> rfl
@[simp] theorem State.modGrid_tables (s : State) (n : Nat) (f : Grid → Grid) : (s.modGrid n f).tables = s.tables := by unfold State.modGrid; split <;> rfl
@[simp] theorem State.modGrid_walks (s : State) (n : Nat) (f : Grid → Grid) : (s.modGrid n f).walks = s.walks := by unfold State.modGrid; split <;> rfl
@[simp] theorem State.modGrid_shoots (s : State) (n : Nat) (f : Grid → Grid) : (s.modGrid n f).shoots = s.shoots := by unfold State.modGrid; split <;> rfl
@[simp] theorem State.modGrid_nextShoot (s : State) (n : Nat) (f : Grid → Grid) : (s.modGrid n f).nextShoot = s.nextShoot := by unfold State.modGrid; split <;> rfl
@[simp] theorem State.modGrid_ready (s : State) (n : Nat) (f : Grid → Grid) : (s.modGrid n f).ready = s.ready := by unfold State.modGrid; split <;> rfl
@[simp] theorem State.modGrid_bootFail (s : State) (n : Nat) (f : Grid → Grid) : (s.modGrid n f).bootFail = s.bootFail := by unfold State.modGrid; split <;> rfl
@[simp] theorem State.modGrid_fatal (s : State) (n : Nat) (f : Grid → Grid) : (s.modGrid n f).fatal = s.fatal := by unfold State.modGrid; split <;> rfl
@[simp] theorem State.modGrid_thermTrip (s : State) (n : Nat) (f : Grid → Grid) : (s.modGrid n f).thermTrip = s.thermTrip := by unfold State.modGrid; split <;> rfl
@[simp] theorem State.modGrid_replace (s : State) (n : Nat) (f : Grid → Grid) : (s.modGrid n f).replace = s.replace := by unfold State.modGrid; split <;> rfl
@[simp] theorem State.modGrid_degraded (s : State) (n : Nat) (f : Grid → Grid) : (s.modGrid n f).degraded = s.degraded := by unfold State.modGrid; split <;> rfl
@[simp] theorem State.modGrid_hlogb (s : State) (n : Nat) (f : Grid → Grid) : (s.modGrid n f).hlogb = s.hlogb := by unfold State.modGrid; split <;> rfl
@[simp] theorem State.modGrid_hlogn (s : State) (n : Nat) (f : Grid → Grid) : (s.modGrid n f).hlogn = s.hlogn := by unfold State.modGrid; split <;> rfl
@[simp] theorem State.modGrid_hlogt (s : State) (n : Nat) (f : Grid → Grid) : (s.modGrid n f).hlogt = s.hlogt := by unfold State.modGrid; split <;> rfl
@[simp] theorem State.modGrid_killReg (s : State) (n : Nat) (f : Grid → Grid) : (s.modGrid n f).killReg = s.killReg := by unfold State.modGrid; split <;> rfl
@[simp] theorem State.modGrid_killTeam (s : State) (n : Nat) (f : Grid → Grid) : (s.modGrid n f).killTeam = s.killTeam := by unfold State.modGrid; split <;> rfl
@[simp] theorem State.modGrid_killNames (s : State) (n : Nat) (f : Grid → Grid) : (s.modGrid n f).killNames = s.killNames := by unfold State.modGrid; split <;> rfl
@[simp] theorem State.modGrid_hcnt (s : State) (n : Nat) (f : Grid → Grid) : (s.modGrid n f).hcnt = s.hcnt := by unfold State.modGrid; split <;> rfl
@[simp] theorem State.modGrid_hostOut (s : State) (n : Nat) (f : Grid → Grid) : (s.modGrid n f).hostOut = s.hostOut := by unfold State.modGrid; split <;> rfl
@[simp] theorem State.modGrid_hostCached (s : State) (n : Nat) (f : Grid → Grid) : (s.modGrid n f).hostCached = s.hostCached := by unfold State.modGrid; split <;> rfl
@[simp] theorem State.modGrid_hostLink (s : State) (n : Nat) (f : Grid → Grid) : (s.modGrid n f).hostLink = s.hostLink := by unfold State.modGrid; split <;> rfl
@[simp] theorem State.modGrid_off (s : State) (n : Nat) (f : Grid → Grid) : (s.modGrid n f).off = s.off := by unfold State.modGrid; split <;> rfl
@[simp] theorem State.modGrid_imgBase (s : State) (n : Nat) (f : Grid → Grid) : (s.modGrid n f).imgBase = s.imgBase := by unfold State.modGrid; split <;> rfl
@[simp] theorem State.modGrid_imgLen (s : State) (n : Nat) (f : Grid → Grid) : (s.modGrid n f).imgLen = s.imgLen := by unfold State.modGrid; split <;> rfl
@[simp] theorem State.modGrid_dbgBase (s : State) (n : Nat) (f : Grid → Grid) : (s.modGrid n f).dbgBase = s.dbgBase := by unfold State.modGrid; split <;> rfl
@[simp] theorem State.modGrid_sensors (s : State) (n : Nat) (f : Grid → Grid) : (s.modGrid n f).sensors = s.sensors := by unfold State.modGrid; split <;> rfl
@[simp] theorem State.modGrid_capAll (s : State) (n : Nat) (f : Grid → Grid) : (s.modGrid n f).capAll = s.capAll := by unfold State.modGrid; split <;> rfl
@[simp] theorem State.modGrid_hotDecks (s : State) (n : Nat) (f : Grid → Grid) : (s.modGrid n f).hotDecks = s.hotDecks := by unfold State.modGrid; split <;> rfl
@[simp] theorem State.modGrid_gated (s : State) (n : Nat) (f : Grid → Grid) : (s.modGrid n f).gated = s.gated := by unfold State.modGrid; split <;> rfl
@[simp] theorem State.modGrid_gating (s : State) (n : Nat) (f : Grid → Grid) : (s.modGrid n f).gating = s.gating := by unfold State.modGrid; split <;> rfl
@[simp] theorem State.modGrid_selfPeer (s : State) (n : Nat) (f : Grid → Grid) : (s.modGrid n f).selfPeer = s.selfPeer := by unfold State.modGrid; split <;> rfl
@[simp] theorem State.modGrid_numbered (s : State) (n : Nat) (f : Grid → Grid) : (s.modGrid n f).numbered = s.numbered := by unfold State.modGrid; split <;> rfl
@[simp] theorem State.modGrid_domains (s : State) (n : Nat) (f : Grid → Grid) : (s.modGrid n f).domains = s.domains := by unfold State.modGrid; split <;> rfl
@[simp] theorem State.modGrid_ports (s : State) (n : Nat) (f : Grid → Grid) : (s.modGrid n f).ports = s.ports := by unfold State.modGrid; split <;> rfl
@[simp] theorem State.modGrid_planeMap (s : State) (n : Nat) (f : Grid → Grid) : (s.modGrid n f).planeMap = s.planeMap := by unfold State.modGrid; split <;> rfl
@[simp] theorem State.modGrid_moving (s : State) (n : Nat) (f : Grid → Grid) : (s.modGrid n f).moving = s.moving := by unfold State.modGrid; split <;> rfl
@[simp] theorem State.modGrid_seqOut (s : State) (n : Nat) (f : Grid → Grid) : (s.modGrid n f).seqOut = s.seqOut := by unfold State.modGrid; split <;> rfl
@[simp] theorem State.modGrid_seqIn (s : State) (n : Nat) (f : Grid → Grid) : (s.modGrid n f).seqIn = s.seqIn := by unfold State.modGrid; split <;> rfl
@[simp] theorem State.modGrid_requests (s : State) (n : Nat) (f : Grid → Grid) : (s.modGrid n f).requests = s.requests := by unfold State.modGrid; split <;> rfl
@[simp] theorem State.modGrid_sent (s : State) (n : Nat) (f : Grid → Grid) : (s.modGrid n f).sent = s.sent := by unfold State.modGrid; split <;> rfl
@[simp] theorem State.modGrid_heldOut (s : State) (n : Nat) (f : Grid → Grid) : (s.modGrid n f).heldOut = s.heldOut := by unfold State.modGrid; split <;> rfl
@[simp] theorem State.modGrid_rekeyAsks (s : State) (n : Nat) (f : Grid → Grid) : (s.modGrid n f).rekeyAsks = s.rekeyAsks := by unfold State.modGrid; split <;> rfl
@[simp] theorem State.modGrid_pushes (s : State) (n : Nat) (f : Grid → Grid) : (s.modGrid n f).pushes = s.pushes := by unfold State.modGrid; split <;> rfl
@[simp] theorem State.modGrid_owed (s : State) (n : Nat) (f : Grid → Grid) : (s.modGrid n f).owed = s.owed := by unfold State.modGrid; split <;> rfl
@[simp] theorem State.modGrid_sessions (s : State) (n : Nat) (f : Grid → Grid) : (s.modGrid n f).sessions = s.sessions := by unfold State.modGrid; split <;> rfl
@[simp] theorem State.modGrid_subs (s : State) (n : Nat) (f : Grid → Grid) : (s.modGrid n f).subs = s.subs := by unfold State.modGrid; split <;> rfl
@[simp] theorem State.modGrid_homes (s : State) (n : Nat) (f : Grid → Grid) : (s.modGrid n f).homes = s.homes := by unfold State.modGrid; split <;> rfl
@[simp] theorem State.modGrid_ucopies (s : State) (n : Nat) (f : Grid → Grid) : (s.modGrid n f).ucopies = s.ucopies := by unfold State.modGrid; split <;> rfl
@[simp] theorem State.modGrid_colls (s : State) (n : Nat) (f : Grid → Grid) : (s.modGrid n f).colls = s.colls := by unfold State.modGrid; split <;> rfl
@[simp] theorem State.modGrid_teams (s : State) (n : Nat) (f : Grid → Grid) : (s.modGrid n f).teams = s.teams := by unfold State.modGrid; split <;> rfl
@[simp] theorem State.modGrid_groups (s : State) (n : Nat) (f : Grid → Grid) : (s.modGrid n f).groups = s.groups := by unfold State.modGrid; split <;> rfl
@[simp] theorem State.modGrid_saved (s : State) (n : Nat) (f : Grid → Grid) : (s.modGrid n f).saved = s.saved := by unfold State.modGrid; split <;> rfl
@[simp] theorem State.modGrid_served (s : State) (n : Nat) (f : Grid → Grid) : (s.modGrid n f).served = s.served := by unfold State.modGrid; split <;> rfl
@[simp] theorem State.modGrid_copies (s : State) (n : Nat) (f : Grid → Grid) : (s.modGrid n f).copies = s.copies := by unfold State.modGrid; split <;> rfl
@[simp] theorem State.modGrid_rings (s : State) (n : Nat) (f : Grid → Grid) : (s.modGrid n f).rings = s.rings := by unfold State.modGrid; split <;> rfl
@[simp] theorem State.modGrid_bounds (s : State) (n : Nat) (f : Grid → Grid) : (s.modGrid n f).bounds = s.bounds := by unfold State.modGrid; split <;> rfl
@[simp] theorem State.modGrid_packets (s : State) (n : Nat) (f : Grid → Grid) : (s.modGrid n f).packets = s.packets := by unfold State.modGrid; split <;> rfl
@[simp] theorem State.modGrid_cores (s : State) (n : Nat) (f : Grid → Grid) : (s.modGrid n f).cores = s.cores := by unfold State.modGrid; split <;> rfl
@[simp] theorem State.modGrid_parts (s : State) (n : Nat) (f : Grid → Grid) : (s.modGrid n f).parts = s.parts := by unfold State.modGrid; split <;> rfl
@[simp] theorem State.modGrid_pairs (s : State) (n : Nat) (f : Grid → Grid) : (s.modGrid n f).pairs = s.pairs := by unfold State.modGrid; split <;> rfl
@[simp] theorem State.modGrid_fresh (s : State) (n : Nat) (f : Grid → Grid) : (s.modGrid n f).fresh = s.fresh := by unfold State.modGrid; split <;> rfl
@[simp] theorem State.modGrid_cycle (s : State) (n : Nat) (f : Grid → Grid) : (s.modGrid n f).cycle = s.cycle := by unfold State.modGrid; split <;> rfl
@[simp] theorem State.modGrid_issued (s : State) (n : Nat) (f : Grid → Grid) : (s.modGrid n f).issued = s.issued := by unfold State.modGrid; split <;> rfl
@[simp] theorem State.modGrid_runs (s : State) (n : Nat) (f : Grid → Grid) : (s.modGrid n f).runs = s.runs := by unfold State.modGrid; split <;> rfl
@[simp] theorem State.modGrid_focus (s : State) (n : Nat) (f : Grid → Grid) : (s.modGrid n f).focus = s.focus := by unfold State.modGrid; split <;> rfl
@[simp] theorem State.modGrid_stalled (s : State) (n : Nat) (f : Grid → Grid) : (s.modGrid n f).stalled = s.stalled := by unfold State.modGrid; split <;> rfl
@[simp] theorem State.modGrid_slotE (s : State) (n : Nat) (f : Grid → Grid) : (s.modGrid n f).slotE = s.slotE := by unfold State.modGrid; split <;> rfl
@[simp] theorem State.modGrid_slotW (s : State) (n : Nat) (f : Grid → Grid) : (s.modGrid n f).slotW = s.slotW := by unfold State.modGrid; split <;> rfl
@[simp] theorem State.modGrid_agenda (s : State) (n : Nat) (f : Grid → Grid) : (s.modGrid n f).agenda = s.agenda := by unfold State.modGrid; split <;> rfl
@[simp] theorem State.modGrid_ev (s : State) (n : Nat) (f : Grid → Grid) : (s.modGrid n f).ev = s.ev := by unfold State.modGrid; split <;> rfl
@[simp] theorem State.modGrid_inputs (s : State) (n : Nat) (f : Grid → Grid) : (s.modGrid n f).inputs = s.inputs := by unfold State.modGrid; split <;> rfl
@[simp] theorem State.modGrid_picks (s : State) (n : Nat) (f : Grid → Grid) : (s.modGrid n f).picks = s.picks := by unfold State.modGrid; split <;> rfl

-- ## noteAt

@[simp] theorem State.noteAt_mem (s : State) (self : Option GKey) (place : Nat → Place) (old : List Byte) : (s.noteAt self place old).mem = s.mem := rfl
@[simp] theorem State.noteAt_writes (s : State) (self : Option GKey) (place : Nat → Place) (old : List Byte) : (s.noteAt self place old).writes = s.writes := rfl
@[simp] theorem State.noteAt_nextWrite (s : State) (self : Option GKey) (place : Nat → Place) (old : List Byte) : (s.noteAt self place old).nextWrite = s.nextWrite := rfl
@[simp] theorem State.noteAt_poisoned (s : State) (self : Option GKey) (place : Nat → Place) (old : List Byte) : (s.noteAt self place old).poisoned = s.poisoned := rfl
@[simp] theorem State.noteAt_keys (s : State) (self : Option GKey) (place : Nat → Place) (old : List Byte) : (s.noteAt self place old).keys = s.keys := rfl
@[simp] theorem State.noteAt_keyGen (s : State) (self : Option GKey) (place : Nat → Place) (old : List Byte) : (s.noteAt self place old).keyGen = s.keyGen := rfl
@[simp] theorem State.noteAt_lineKeys (s : State) (self : Option GKey) (place : Nat → Place) (old : List Byte) : (s.noteAt self place old).lineKeys = s.lineKeys := rfl
@[simp] theorem State.noteAt_caches (s : State) (self : Option GKey) (place : Nat → Place) (old : List Byte) : (s.noteAt self place old).caches = s.caches := rfl
@[simp] theorem State.noteAt_snoopBad (s : State) (self : Option GKey) (place : Nat → Place) (old : List Byte) : (s.noteAt self place old).snoopBad = s.snoopBad := rfl
@[simp] theorem State.noteAt_rebuild (s : State) (self : Option GKey) (place : Nat → Place) (old : List Byte) : (s.noteAt self place old).rebuild = s.rebuild := rfl
@[simp] theorem State.noteAt_delayed (s : State) (self : Option GKey) (place : Nat → Place) (old : List Byte) : (s.noteAt self place old).delayed = s.delayed := rfl
@[simp] theorem State.noteAt_lost (s : State) (self : Option GKey) (place : Nat → Place) (old : List Byte) : (s.noteAt self place old).lost = s.lost := rfl
@[simp] theorem State.noteAt_tlb (s : State) (self : Option GKey) (place : Nat → Place) (old : List Byte) : (s.noteAt self place old).tlb = s.tlb := rfl
@[simp] theorem State.noteAt_tables (s : State) (self : Option GKey) (place : Nat → Place) (old : List Byte) : (s.noteAt self place old).tables = s.tables := rfl
@[simp] theorem State.noteAt_walks (s : State) (self : Option GKey) (place : Nat → Place) (old : List Byte) : (s.noteAt self place old).walks = s.walks := rfl
@[simp] theorem State.noteAt_shoots (s : State) (self : Option GKey) (place : Nat → Place) (old : List Byte) : (s.noteAt self place old).shoots = s.shoots := rfl
@[simp] theorem State.noteAt_nextShoot (s : State) (self : Option GKey) (place : Nat → Place) (old : List Byte) : (s.noteAt self place old).nextShoot = s.nextShoot := rfl
@[simp] theorem State.noteAt_ready (s : State) (self : Option GKey) (place : Nat → Place) (old : List Byte) : (s.noteAt self place old).ready = s.ready := rfl
@[simp] theorem State.noteAt_bootFail (s : State) (self : Option GKey) (place : Nat → Place) (old : List Byte) : (s.noteAt self place old).bootFail = s.bootFail := rfl
@[simp] theorem State.noteAt_fatal (s : State) (self : Option GKey) (place : Nat → Place) (old : List Byte) : (s.noteAt self place old).fatal = s.fatal := rfl
@[simp] theorem State.noteAt_thermTrip (s : State) (self : Option GKey) (place : Nat → Place) (old : List Byte) : (s.noteAt self place old).thermTrip = s.thermTrip := rfl
@[simp] theorem State.noteAt_replace (s : State) (self : Option GKey) (place : Nat → Place) (old : List Byte) : (s.noteAt self place old).replace = s.replace := rfl
@[simp] theorem State.noteAt_degraded (s : State) (self : Option GKey) (place : Nat → Place) (old : List Byte) : (s.noteAt self place old).degraded = s.degraded := rfl
@[simp] theorem State.noteAt_hlogb (s : State) (self : Option GKey) (place : Nat → Place) (old : List Byte) : (s.noteAt self place old).hlogb = s.hlogb := rfl
@[simp] theorem State.noteAt_hlogn (s : State) (self : Option GKey) (place : Nat → Place) (old : List Byte) : (s.noteAt self place old).hlogn = s.hlogn := rfl
@[simp] theorem State.noteAt_hlogt (s : State) (self : Option GKey) (place : Nat → Place) (old : List Byte) : (s.noteAt self place old).hlogt = s.hlogt := rfl
@[simp] theorem State.noteAt_killReg (s : State) (self : Option GKey) (place : Nat → Place) (old : List Byte) : (s.noteAt self place old).killReg = s.killReg := rfl
@[simp] theorem State.noteAt_killTeam (s : State) (self : Option GKey) (place : Nat → Place) (old : List Byte) : (s.noteAt self place old).killTeam = s.killTeam := rfl
@[simp] theorem State.noteAt_killNames (s : State) (self : Option GKey) (place : Nat → Place) (old : List Byte) : (s.noteAt self place old).killNames = s.killNames := rfl
@[simp] theorem State.noteAt_hcnt (s : State) (self : Option GKey) (place : Nat → Place) (old : List Byte) : (s.noteAt self place old).hcnt = s.hcnt := rfl
@[simp] theorem State.noteAt_hostOut (s : State) (self : Option GKey) (place : Nat → Place) (old : List Byte) : (s.noteAt self place old).hostOut = s.hostOut := rfl
@[simp] theorem State.noteAt_hostCached (s : State) (self : Option GKey) (place : Nat → Place) (old : List Byte) : (s.noteAt self place old).hostCached = s.hostCached := rfl
@[simp] theorem State.noteAt_hostLink (s : State) (self : Option GKey) (place : Nat → Place) (old : List Byte) : (s.noteAt self place old).hostLink = s.hostLink := rfl
@[simp] theorem State.noteAt_off (s : State) (self : Option GKey) (place : Nat → Place) (old : List Byte) : (s.noteAt self place old).off = s.off := rfl
@[simp] theorem State.noteAt_imgBase (s : State) (self : Option GKey) (place : Nat → Place) (old : List Byte) : (s.noteAt self place old).imgBase = s.imgBase := rfl
@[simp] theorem State.noteAt_imgLen (s : State) (self : Option GKey) (place : Nat → Place) (old : List Byte) : (s.noteAt self place old).imgLen = s.imgLen := rfl
@[simp] theorem State.noteAt_dbgBase (s : State) (self : Option GKey) (place : Nat → Place) (old : List Byte) : (s.noteAt self place old).dbgBase = s.dbgBase := rfl
@[simp] theorem State.noteAt_sensors (s : State) (self : Option GKey) (place : Nat → Place) (old : List Byte) : (s.noteAt self place old).sensors = s.sensors := rfl
@[simp] theorem State.noteAt_capAll (s : State) (self : Option GKey) (place : Nat → Place) (old : List Byte) : (s.noteAt self place old).capAll = s.capAll := rfl
@[simp] theorem State.noteAt_hotDecks (s : State) (self : Option GKey) (place : Nat → Place) (old : List Byte) : (s.noteAt self place old).hotDecks = s.hotDecks := rfl
@[simp] theorem State.noteAt_gated (s : State) (self : Option GKey) (place : Nat → Place) (old : List Byte) : (s.noteAt self place old).gated = s.gated := rfl
@[simp] theorem State.noteAt_gating (s : State) (self : Option GKey) (place : Nat → Place) (old : List Byte) : (s.noteAt self place old).gating = s.gating := rfl
@[simp] theorem State.noteAt_selfPeer (s : State) (self : Option GKey) (place : Nat → Place) (old : List Byte) : (s.noteAt self place old).selfPeer = s.selfPeer := rfl
@[simp] theorem State.noteAt_numbered (s : State) (self : Option GKey) (place : Nat → Place) (old : List Byte) : (s.noteAt self place old).numbered = s.numbered := rfl
@[simp] theorem State.noteAt_domains (s : State) (self : Option GKey) (place : Nat → Place) (old : List Byte) : (s.noteAt self place old).domains = s.domains := rfl
@[simp] theorem State.noteAt_ports (s : State) (self : Option GKey) (place : Nat → Place) (old : List Byte) : (s.noteAt self place old).ports = s.ports := rfl
@[simp] theorem State.noteAt_planeMap (s : State) (self : Option GKey) (place : Nat → Place) (old : List Byte) : (s.noteAt self place old).planeMap = s.planeMap := rfl
@[simp] theorem State.noteAt_moving (s : State) (self : Option GKey) (place : Nat → Place) (old : List Byte) : (s.noteAt self place old).moving = s.moving := rfl
@[simp] theorem State.noteAt_seqOut (s : State) (self : Option GKey) (place : Nat → Place) (old : List Byte) : (s.noteAt self place old).seqOut = s.seqOut := rfl
@[simp] theorem State.noteAt_seqIn (s : State) (self : Option GKey) (place : Nat → Place) (old : List Byte) : (s.noteAt self place old).seqIn = s.seqIn := rfl
@[simp] theorem State.noteAt_requests (s : State) (self : Option GKey) (place : Nat → Place) (old : List Byte) : (s.noteAt self place old).requests = s.requests := rfl
@[simp] theorem State.noteAt_sent (s : State) (self : Option GKey) (place : Nat → Place) (old : List Byte) : (s.noteAt self place old).sent = s.sent := rfl
@[simp] theorem State.noteAt_heldOut (s : State) (self : Option GKey) (place : Nat → Place) (old : List Byte) : (s.noteAt self place old).heldOut = s.heldOut := rfl
@[simp] theorem State.noteAt_rekeyAsks (s : State) (self : Option GKey) (place : Nat → Place) (old : List Byte) : (s.noteAt self place old).rekeyAsks = s.rekeyAsks := rfl
@[simp] theorem State.noteAt_pushes (s : State) (self : Option GKey) (place : Nat → Place) (old : List Byte) : (s.noteAt self place old).pushes = s.pushes := rfl
@[simp] theorem State.noteAt_owed (s : State) (self : Option GKey) (place : Nat → Place) (old : List Byte) : (s.noteAt self place old).owed = s.owed := rfl
@[simp] theorem State.noteAt_sessions (s : State) (self : Option GKey) (place : Nat → Place) (old : List Byte) : (s.noteAt self place old).sessions = s.sessions := rfl
@[simp] theorem State.noteAt_subs (s : State) (self : Option GKey) (place : Nat → Place) (old : List Byte) : (s.noteAt self place old).subs = s.subs := rfl
@[simp] theorem State.noteAt_homes (s : State) (self : Option GKey) (place : Nat → Place) (old : List Byte) : (s.noteAt self place old).homes = s.homes := rfl
@[simp] theorem State.noteAt_ucopies (s : State) (self : Option GKey) (place : Nat → Place) (old : List Byte) : (s.noteAt self place old).ucopies = s.ucopies := rfl
@[simp] theorem State.noteAt_colls (s : State) (self : Option GKey) (place : Nat → Place) (old : List Byte) : (s.noteAt self place old).colls = s.colls := rfl
@[simp] theorem State.noteAt_grids (s : State) (self : Option GKey) (place : Nat → Place) (old : List Byte) : (s.noteAt self place old).grids = s.grids := rfl
@[simp] theorem State.noteAt_teams (s : State) (self : Option GKey) (place : Nat → Place) (old : List Byte) : (s.noteAt self place old).teams = s.teams := rfl
@[simp] theorem State.noteAt_groups (s : State) (self : Option GKey) (place : Nat → Place) (old : List Byte) : (s.noteAt self place old).groups = s.groups := rfl
@[simp] theorem State.noteAt_saved (s : State) (self : Option GKey) (place : Nat → Place) (old : List Byte) : (s.noteAt self place old).saved = s.saved := rfl
@[simp] theorem State.noteAt_served (s : State) (self : Option GKey) (place : Nat → Place) (old : List Byte) : (s.noteAt self place old).served = s.served := rfl
@[simp] theorem State.noteAt_copies (s : State) (self : Option GKey) (place : Nat → Place) (old : List Byte) : (s.noteAt self place old).copies = s.copies := rfl
@[simp] theorem State.noteAt_rings (s : State) (self : Option GKey) (place : Nat → Place) (old : List Byte) : (s.noteAt self place old).rings = s.rings := rfl
@[simp] theorem State.noteAt_bounds (s : State) (self : Option GKey) (place : Nat → Place) (old : List Byte) : (s.noteAt self place old).bounds = s.bounds := rfl
@[simp] theorem State.noteAt_packets (s : State) (self : Option GKey) (place : Nat → Place) (old : List Byte) : (s.noteAt self place old).packets = s.packets := rfl
@[simp] theorem State.noteAt_cores (s : State) (self : Option GKey) (place : Nat → Place) (old : List Byte) : (s.noteAt self place old).cores = s.cores := rfl
@[simp] theorem State.noteAt_parts (s : State) (self : Option GKey) (place : Nat → Place) (old : List Byte) : (s.noteAt self place old).parts = s.parts := rfl
@[simp] theorem State.noteAt_pairs (s : State) (self : Option GKey) (place : Nat → Place) (old : List Byte) : (s.noteAt self place old).pairs = s.pairs := rfl
@[simp] theorem State.noteAt_fresh (s : State) (self : Option GKey) (place : Nat → Place) (old : List Byte) : (s.noteAt self place old).fresh = s.fresh := rfl
@[simp] theorem State.noteAt_cycle (s : State) (self : Option GKey) (place : Nat → Place) (old : List Byte) : (s.noteAt self place old).cycle = s.cycle := rfl
@[simp] theorem State.noteAt_issued (s : State) (self : Option GKey) (place : Nat → Place) (old : List Byte) : (s.noteAt self place old).issued = s.issued := rfl
@[simp] theorem State.noteAt_runs (s : State) (self : Option GKey) (place : Nat → Place) (old : List Byte) : (s.noteAt self place old).runs = s.runs := rfl
@[simp] theorem State.noteAt_focus (s : State) (self : Option GKey) (place : Nat → Place) (old : List Byte) : (s.noteAt self place old).focus = s.focus := rfl
@[simp] theorem State.noteAt_stalled (s : State) (self : Option GKey) (place : Nat → Place) (old : List Byte) : (s.noteAt self place old).stalled = s.stalled := rfl
@[simp] theorem State.noteAt_slotE (s : State) (self : Option GKey) (place : Nat → Place) (old : List Byte) : (s.noteAt self place old).slotE = s.slotE := rfl
@[simp] theorem State.noteAt_slotW (s : State) (self : Option GKey) (place : Nat → Place) (old : List Byte) : (s.noteAt self place old).slotW = s.slotW := rfl
@[simp] theorem State.noteAt_agenda (s : State) (self : Option GKey) (place : Nat → Place) (old : List Byte) : (s.noteAt self place old).agenda = s.agenda := rfl
@[simp] theorem State.noteAt_ev (s : State) (self : Option GKey) (place : Nat → Place) (old : List Byte) : (s.noteAt self place old).ev = s.ev := rfl
@[simp] theorem State.noteAt_inputs (s : State) (self : Option GKey) (place : Nat → Place) (old : List Byte) : (s.noteAt self place old).inputs = s.inputs := rfl
@[simp] theorem State.noteAt_picks (s : State) (self : Option GKey) (place : Nat → Place) (old : List Byte) : (s.noteAt self place old).picks = s.picks := rfl

end Sys2Proof.Machine
end

