-- ==== Sys2Proof/Laws/Memory.lean ====
section
/-! SUPPORT. Memory: which operations leave it as it is, and that every operation that changes it keeps its canonical form. -/

namespace Sys2Proof.Machine

-- ## Operations that leave memory as it is

theorem foldl_mem {α : Type} {f : State → α → State} (h : ∀ s x, (f s x).mem = s.mem) (l : List α) (s : State) : (l.foldl f s).mem = s.mem := by
  induction l generalizing s with
  | nil => rfl
  | cons x l ih => rw [List.foldl_cons, ih, h]

@[simp] theorem askRekey_mem (s : State) (dom : Nat) : (s.askRekey dom).mem = s.mem := by
  simp only [State.askRekey]; split <;> rfl

@[simp] theorem sendNow_mem (s : State) (peer dom home o : Nat) (b : Body) : (s.sendNow peer dom home o b).mem = s.mem := by
  simp only [State.sendNow]
  split
  · rfl
  · split <;> simp

@[simp] theorem send_mem (s : State) (peer dom home o : Nat) (b : Body) : (s.send peer dom home o b).mem = s.mem := by
  simp only [State.send]; split <;> simp

@[simp] theorem pushLine_mem (s : State) (pa : Nat) : (s.pushLine pa).mem = s.mem := by
  refine foldl_mem (fun s r => ?_) _ _
  split
  · rfl
  · exact foldl_mem (fun s q => by simp) _ _

@[simp] theorem noteWrite_mem (s : State) (pa core : Nat) (b a : Option Nat) (self : Option GKey) : (s.noteWrite pa core b a self).mem = s.mem := by
  simp only [State.noteWrite, State.later_mem]; split <;> simp

@[simp] theorem dropIf_mem (s : State) (test : CacheLine → Bool) : (s.dropIf test).mem = s.mem := rfl
@[simp] theorem dropCopies_mem (s : State) (scope core base : Nat) (keep : CacheUnit → Bool) : (s.dropCopies scope core base keep).mem = s.mem := rfl
@[simp] theorem cleanCopies_mem (s : State) (base : Nat) : (s.cleanCopies base).mem = s.mem := rfl

@[simp] theorem reachCopies_mem (s : State) (core base before after : Nat) : (s.reachCopies core base before after).mem = s.mem := by
  simp only [State.reachCopies]; split <;> simp

@[simp] theorem noteOwn_mem (s : State) (self : Option GKey) (pa : Nat) (bs : List Byte) : (s.noteOwn self pa bs).mem = s.mem := rfl

@[simp] theorem makeRoom_mem (s : State) (u : CacheUnit) (set : Nat) : (s.makeRoom u set).mem = s.mem := by
  unfold State.makeRoom
  split
  · rfl
  · split <;> simp

@[simp] theorem filterRoom_mem (s : State) (base : Nat) : (s.filterRoom base).mem = s.mem := by
  simp only [State.filterRoom]; split <;> simp

@[simp] theorem addCopy_mem (s : State) (u : CacheUnit) (base : Nat) (st : LineState) (pol : Nat) : (s.addCopy u base st pol).mem = s.mem := by
  unfold State.addCopy
  split
  · rfl
  · dsimp only; split <;> simp

@[simp] theorem fillCopy_mem (s : State) (core base pol : Nat) : (s.fillCopy core base pol).mem = s.mem := by
  simp only [State.fillCopy]; split <;> simp

@[simp] theorem ownCopy_mem (s : State) (core base pol : Nat) : (s.ownCopy core base pol).mem = s.mem := by
  simp only [State.ownCopy]; split <;> simp

@[simp] theorem recallHost_mem (s : State) (pa : Nat) : (s.recallHost pa).mem = s.mem := by
  unfold State.recallHost; split <;> rfl

@[simp] theorem countHealth_mem (s : State) (kind n : Nat) : (s.countHealth kind n).mem = s.mem := rfl

@[simp] theorem poisonLine_mem (s : State) (line : Nat) : (s.poisonLine line).mem = s.mem := by
  unfold State.poisonLine; split <;> simp

-- ## Operations that keep its form

theorem foldl_memOk {α : Type} {f : State → α → State} (h : ∀ s x, s.MemOk → (f s x).MemOk) (l : List α) (s : State) (w : s.MemOk) : (l.foldl f s).MemOk := by
  induction l generalizing s with
  | nil => exact w
  | cons x l ih => exact ih _ (h s x w)

theorem memOk_of_mem {s t : State} (h : t.mem = s.mem) (w : s.MemOk) : t.MemOk := by unfold State.MemOk; rw [h]; exact w

theorem homeWrite_memOk {s : State} (pa : Nat) (bs : List Byte) (w : s.MemOk) : (s.homeWrite pa bs).MemOk := cellWrite_wf pa bs w

theorem arriveHome_memOk {s : State} (x : PWrite) (w : s.MemOk) : (s.arriveHome x).MemOk :=
  memOk_of_mem (s := s.homeWrite x.pa x.bytes) (by simp [State.arriveHome, State.homeWrite]) (homeWrite_memOk x.pa x.bytes w)

/-- Every write goes home or stays, and those that stay fail the test. -/
theorem mem_homeBound (test : PWrite → Bool) (ws : List PWrite) (x : PWrite) :
    x ∈ ws ↔ x ∈ (homeBound test ws).1 ∨ x ∈ (homeBound test ws).2 := by
  induction ws with
  | nil => simp [homeBound]
  | cons w ws ih => by_cases h : (test w || (homeBound test ws).1.any fun x => overlaps w.pa w.bytes.length x.pa x.bytes.length) = true <;>
      simp only [homeBound, h, ↓reduceIte, List.mem_cons, Bool.false_eq_true] <;> tauto

theorem homeBound_stays (test : PWrite → Bool) (ws : List PWrite) : ∀ x ∈ (homeBound test ws).2, test x = false := by
  induction ws with
  | nil => simp [homeBound]
  | cons w ws ih =>
    simp only [homeBound]
    split
    · exact ih
    · rename_i h
      simp only [Bool.or_eq_true, not_or, Bool.not_eq_true] at h
      simpa [h.1] using ih

@[simp] theorem recallHost_writes (s : State) (pa : Nat) : (s.recallHost pa).writes = s.writes := by
  unfold State.recallHost; split <;> rfl

theorem foldl_writes {α : Type} {f : State → α → State} (h : ∀ s x, (f s x).writes = s.writes) (l : List α) (s : State) : (l.foldl f s).writes = s.writes := by
  induction l generalizing s with
  | nil => rfl
  | cons x l ih => exact (ih _).trans (h s x)

@[simp] theorem askRekey_writes (s : State) (dom : Nat) : (s.askRekey dom).writes = s.writes := by
  unfold State.askRekey; split <;> rfl

@[simp] theorem sendNow_writes (s : State) (peer dom home o : Nat) (b : Body) : (s.sendNow peer dom home o b).writes = s.writes := by
  unfold State.sendNow; dsimp only; split
  · rfl
  · split <;> simp

@[simp] theorem send_writes (s : State) (peer dom home o : Nat) (b : Body) : (s.send peer dom home o b).writes = s.writes := by
  unfold State.send; split <;> simp

@[simp] theorem pushLine_writes (s : State) (pa : Nat) : (s.pushLine pa).writes = s.writes :=
  foldl_writes (fun s _ => by split <;> [rfl; exact foldl_writes (fun s _ => by simp) _ s]) _ _

@[simp] theorem noteWrite_writes (s : State) (pa core : Nat) (b a : Option Nat) (self : Option GKey) : (s.noteWrite pa core b a self).writes = s.writes := by
  unfold State.noteWrite; dsimp only [State.later]; split <;> simp

@[simp] theorem reachCopies_writes (s : State) (core base before after : Nat) : (s.reachCopies core base before after).writes = s.writes := by
  simp only [State.reachCopies]; split <;> rfl

@[simp] theorem arriveHome_writes (s : State) (x : PWrite) : (s.arriveHome x).writes = s.writes := by
  simp [State.arriveHome, State.cleanCopies, State.homeWrite]

/-- What stays on its way is what homeBound says. -/
@[simp] theorem propagate_writes (s : State) (test : PWrite → Bool) : (s.propagate test).writes = (homeBound test s.writes).2 :=
  foldl_writes (fun s x => arriveHome_writes s x) _ _

theorem propagate_memOk {s : State} (test : PWrite → Bool) (w : s.MemOk) : (s.propagate test).MemOk :=
  foldl_memOk (fun _ x h => arriveHome_memOk x h) _ _ (memOk_of_mem (s := s) rfl w)

theorem recallLine_memOk {s : State} (level core line : Nat) (w : s.MemOk) : (s.recallLine level core line).MemOk := by
  have h := propagate_memOk (s := s) (fun w => lineOf w.pa == line && scopeHas level core w.core) w
  unfold State.recallLine
  dsimp only
  split
  · exact memOk_of_mem (by simp) h
  · exact memOk_of_mem (by simp) h

theorem settleRange_memOk {s : State} (pa n : Nat) (w : s.MemOk) : (s.settleRange pa n).MemOk := propagate_memOk _ w

theorem rekeyLine_memOk {s : State} (pa slot : Nat) (w : s.MemOk) : (s.rekeyLine pa slot).MemOk := by
  unfold State.rekeyLine
  split
  · exact w
  · dsimp only
    split
    · exact homeWrite_memOk (s := (s.settleRange _ 128).noteAt none _ _) _ _ (settleRange_memOk _ _ w)
    · exact w

theorem writeHome_memOk {s : State} (core : Nat) (self : Option GKey) (pa : Nat) (bs : List Byte) (w : s.MemOk) :
    (s.writeHome core self pa bs).MemOk :=
  memOk_of_mem (s := (s.settleRange pa bs.length).homeWrite pa bs) (by simp [State.writeHome, State.homeWrite])
    (homeWrite_memOk _ _ (settleRange_memOk _ _ w))

theorem noteOwn_memOk {s : State} (self : Option GKey) (pa : Nat) (bs : List Byte) (w : s.MemOk) : (s.noteOwn self pa bs).MemOk :=
  memOk_of_mem (noteOwn_mem s self pa bs) w

theorem deviceWrite_memOk {s : State} (pa : Nat) (bs : List Byte) (w : s.MemOk) : (s.deviceWrite pa bs).MemOk :=
  writeHome_memOk _ _ _ _ (noteOwn_memOk _ _ _ w)

theorem storeBytes_memOk {s : State} (core scope : Nat) (self : Option GKey) (f : Frame) (bs : List Byte) (pol : Nat) (w : s.MemOk) :
    (s.storeBytes core scope self f bs pol).MemOk := by
  have w1 := noteOwn_memOk self f.pa bs (rekeyLine_memOk f.pa f.key w)
  unfold State.storeBytes
  dsimp only
  split
  · exact memOk_of_mem (fillCopy_mem _ _ _ _) (writeHome_memOk _ _ _ _ w1)
  · exact memOk_of_mem (s := (s.rekeyLine f.pa f.key).noteOwn self f.pa bs) (by simp) w1

theorem widen_memOk {s : State} (id reach : Nat) (w : s.MemOk) : (s.widen id reach).MemOk := by
  unfold State.widen
  split
  · exact w
  · split
    · exact w
    · split
      · exact propagate_memOk _ w
      · exact memOk_of_mem (s := s) (by simp) w

theorem observe_memOk {s : State} (core pa n : Nat) (w : s.MemOk) : (s.observe core pa n).MemOk :=
  foldl_memOk (fun _ _ w => widen_memOk _ _ w) _ _ w

theorem observeAll_memOk {s : State} (core n : Nat) (fs : List Frame) (w : s.MemOk) : (s.observeAll core n fs).MemOk :=
  foldl_memOk (fun _ f w => observe_memOk core f.pa n w) _ _ w

theorem loaded_memOk {s : State} (core : Nat) (f : Frame) (n pol : Nat) (w : s.MemOk) : (s.loaded core f n pol).MemOk := by
  unfold State.loaded
  split
  · exact memOk_of_mem (fillCopy_mem _ _ _ _) (observe_memOk core f.pa n w)
  · exact memOk_of_mem (fillCopy_mem _ _ _ _) w

theorem rmwWrite_memOk {s : State} (core scope : Nat) (self : Option GKey) (f : Frame) (bs : List Byte) (w : s.MemOk) :
    (s.rmwWrite core scope self f bs).MemOk := by
  have w0 := observe_memOk core f.pa bs.length w
  unfold State.rmwWrite
  dsimp only
  split
  · exact writeHome_memOk _ _ _ _ (noteOwn_memOk _ _ _ (rekeyLine_memOk _ _ w0))
  · exact widen_memOk _ _ (storeBytes_memOk _ _ _ _ _ _ w0)

theorem release_memOk {s : State} (core scope : Nat) (w : s.MemOk) : (s.release core scope).MemOk := by
  unfold State.release
  split
  · exact propagate_memOk _ w
  · exact foldl_memOk (fun s x w => widen_memOk _ _ w) _ _ w

theorem poisonLine_memOk {s : State} (line : Nat) (w : s.MemOk) : (s.poisonLine line).MemOk := memOk_of_mem (poisonLine_mem s line) w

theorem healthRecord_memOk {s : State} (kind addr core : Nat) (w : s.MemOk) : (s.healthRecord kind addr core).MemOk := by
  unfold State.MemOk State.healthRecord
  dsimp only
  split
  · exact w
  · exact deviceWrite_memOk (s := s.countHealth kind) _ _ (memOk_of_mem (countHealth_mem s kind 1) w)

end Sys2Proof.Machine
end

