-- ==== Sys2Proof/Laws/Near.lean ====
section
/-! SUPPORT. Near memory: every operation that changes a scratchpad or a column keeps its canonical form. -/

namespace Sys2Proof.Machine

theorem of_mem_kput {κ α : Type} [DecidableEq κ] {m : KMap κ α} {k : κ} {v : α} {x : κ × α} (h : x ∈ kput m k v) : x = (k, v) ∨ x ∈ m := by
  induction m with
  | nil => exact .inl (by simpa [kput] using h)
  | cons p m ih =>
    obtain ⟨a, y⟩ := p
    by_cases e : a = k
    · simp only [kput, e, if_true, List.mem_cons] at h
      exact h.imp_right (by simp +contextual)
    · simp only [kput, e, if_false, List.mem_cons] at h
      rcases h with h | h
      · exact .inr (by simp [h])
      · exact (ih h).imp_right (by simp +contextual)

theorem mem_of_kfind {κ α : Type} [DecidableEq κ] {m : KMap κ α} {k : κ} {v : α} (h : kfind m k = some v) : (k, v) ∈ m := by
  induction m with
  | nil => simp at h
  | cons p m ih =>
    obtain ⟨a, y⟩ := p
    by_cases e : a = k
    · simp_all [kfind]
    · simp only [kfind, e, if_false] at h
      exact List.mem_cons_of_mem _ (ih h)

/-- A list of bytes, laid out as cells, has the canonical form. -/
theorem cellsFrom_wf (a : Nat) (bs : List Byte) : Memory.wf (cellsFrom a bs) = true :=
  wfFrom_mono (Nat.zero_le a) (by simpa using wfFrom_cellsFrom (m := []) a rfl)

theorem nearOk_of {s t : State} (h : s.NearOk) (ht : t.teams = s.teams) (hs : t.saved = s.saved) (hc : t.cores = s.cores) : t.NearOk := by
  unfold State.NearOk; rwa [ht, hs, hc]

theorem setTeam_nearOk {s : State} (h : s.NearOk) (t : TKey) {x : Team} (hx : Memory.wf x.spad = true) : (s.setTeam t x).NearOk :=
  ⟨fun y hy => by rcases of_mem_kput hy with e | hm; exacts [e ▸ hx, h.1 y hm], h.2⟩

theorem modTeam_nearOk {s : State} (h : s.NearOk) (t : TKey) {f : Team → Team} (hf : ∀ x, Memory.wf x.spad = true → Memory.wf (f x).spad = true) :
    (s.modTeam t f).NearOk := by
  unfold State.modTeam
  split
  · exact h
  · exact setTeam_nearOk h t (hf _ (h.1 _ (mem_of_kfind ‹_›)))

theorem core_column_wf {s : State} (h : s.NearOk) (c : Nat) : Memory.wf (s.core c).column = true := by
  unfold State.core
  cases e : kfind s.cores c with
  | none => rfl
  | some x => exact h.2.2 _ (mem_of_kfind e)

theorem modCore_nearOk {s : State} (h : s.NearOk) (c : Nat) {f : Core → Core}
    (hf : ∀ x, Memory.wf x.column = true → Memory.wf (f x).column = true) : (s.modCore c f).NearOk :=
  ⟨h.1, h.2.1, fun y hy => by rcases of_mem_kput hy with e | hm; exacts [e ▸ hf _ (core_column_wf h c), h.2.2 y hm]⟩

theorem noteAt_nearOk {s : State} (h : s.NearOk) (self : Option GKey) (place : Nat → Place) (old : List Byte) : (s.noteAt self place old).NearOk :=
  nearOk_of h rfl rfl rfl

theorem nearWrite_nearOk {s : State} (h : s.NearOk) (x : NearAt) (bs : List Byte) (self : Option GKey := none) : (s.nearWrite x bs self).NearOk := by
  cases x with
  | spad t o => exact modTeam_nearOk (noteAt_nearOk h _ _ _) t fun _ w => cellWrite_wf o bs w
  | column c o => exact modCore_nearOk (noteAt_nearOk h _ _ _) c fun _ w => cellWrite_wf o bs w

theorem writeColumn_nearOk {s : State} (h : s.NearOk) (c a : Nat) (bs : List Byte) : (s.writeColumn c a bs).NearOk :=
  modCore_nearOk (noteAt_nearOk h _ _ _) c fun _ w => cellWrite_wf a bs w

theorem setDirEntry_nearOk {s : State} (h : s.NearOk) (c i x : Nat) : (s.setDirEntry c i x).NearOk := writeColumn_nearOk h c _ _

end Sys2Proof.Machine
end

