-- ==== Sys2Proof/Laws/PerInstr.lean ====
section
/-! SUPPORT. For every constructor of Instr: what the encoder makes of it, the decoder reads back. -/

namespace Sys2Proof.Laws.Decodes

/-- The fields that the encoder makes of a well-formed instruction (none of them a prefix word's) decode to that instruction, under every
setting of the E bit and the W field. -/
def Statement (i : Instr) : Prop :=
  i.wellFormed = true → ∀ (e : Bool) (w : BitVec 3),
    ∃ f, i.fields e w = some f ∧ f.e = e ∧ f.w = w ∧ (f.op == 0x7F#7) = false ∧ f.toInstr i.payloadArg = some i

theorem sysc (n : BitVec 7) : Statement (.sysc n) := fun _ _ _ => ⟨_, rfl, rfl, rfl, rfl, rfl⟩
theorem bra (i : BitVec 21) : Statement (.bra i) := fun _ e w => ⟨_, rfl, rfl, rfl, rfl, congrArg (fun x => some (Instr.bra x)) (cat21 i)⟩
theorem call (d : Reg) (i : BitVec 14) : Statement (.call d i) := fun _ e w => ⟨_, rfl, rfl, rfl, rfl, congrArg (fun x => some (Instr.call d x)) (cat14 i)⟩
theorem jmp (a : Reg) : Statement (.jmp a) := fun _ _ _ => ⟨_, rfl, rfl, rfl, rfl, rfl⟩
theorem jmpl (d a : Reg) : Statement (.jmpl d a) := fun _ _ _ => ⟨_, rfl, rfl, rfl, rfl, by show Fields.op03 _ none = _; simp [Fields.op03]⟩
theorem brz (d : Reg) (i : BitVec 14) : Statement (.brz d i) := fun _ e w => ⟨_, rfl, rfl, rfl, rfl, congrArg (fun x => some (Instr.brz d x)) (cat14 i)⟩
theorem brnz (d : Reg) (i : BitVec 14) : Statement (.brnz d i) := fun _ e w => ⟨_, rfl, rfl, rfl, rfl, congrArg (fun x => some (Instr.brnz d x)) (cat14 i)⟩
theorem brany (d : Reg) (i : BitVec 14) : Statement (.brany d i) := fun _ e w => ⟨_, rfl, rfl, rfl, rfl, congrArg (fun x => some (Instr.brany d x)) (cat14 i)⟩
theorem brall (d : Reg) (i : BitVec 14) : Statement (.brall d i) := fun _ e w => ⟨_, rfl, rfl, rfl, rfl, congrArg (fun x => some (Instr.brall d x)) (cat14 i)⟩
theorem mark (i : BitVec 14) : Statement (.mark i) := fun _ e w => ⟨_, rfl, rfl, rfl, rfl, congrArg (fun x => some (Instr.mark x)) (cat14 i)⟩
theorem voteAny (d a : Reg) : Statement (.voteAny d a) := fun _ _ _ => ⟨_, rfl, rfl, rfl, rfl, rfl⟩
theorem voteAll (d a : Reg) : Statement (.voteAll d a) := fun _ _ _ => ⟨_, rfl, rfl, rfl, rfl, rfl⟩
theorem voteBallot (d a : Reg) : Statement (.voteBallot d a) := fun _ _ _ => ⟨_, rfl, rfl, rfl, rfl, rfl⟩
theorem voteCount (d a : Reg) : Statement (.voteCount d a) := fun _ _ _ => ⟨_, rfl, rfl, rfl, rfl, rfl⟩
theorem voteFirst (d a : Reg) : Statement (.voteFirst d a) := fun _ _ _ => ⟨_, rfl, rfl, rfl, rfl, rfl⟩
theorem barArrive (d : Reg) : Statement (.barArrive d) := fun _ _ _ => ⟨_, rfl, rfl, rfl, rfl, rfl⟩
theorem barWait (a : Reg) : Statement (.barWait a) := fun _ _ _ => ⟨_, rfl, rfl, rfl, rfl, by show Fields.op0A _ none = _; simp [Fields.op0A]⟩
theorem mona (p : Option (BitVec 21)) (d a : Reg) (s : BitVec 3) (z : BitVec 2) (pol : BitVec 2) : Statement (.mona p d a s z pol) := fun _ e w => ⟨_, rfl, rfl, rfl, rfl, by rw [show Fields.toInstr _ _ = some (Instr.mona p d a ((s ++ z ++ pol).extractLsb' 4 3) ((s ++ z ++ pol).extractLsb' 2 2) ((s ++ z ++ pol).extractLsb' 0 2)) from rfl, (cat322 s z pol).1, (cat322 s z pol).2.1, (cat322 s z pol).2.2]⟩
theorem monw (d a : Reg) : Statement (.monw d a) := fun _ _ _ => ⟨_, rfl, rfl, rfl, rfl, rfl⟩
theorem fget (d a b : Reg) : Statement (.fget d a b) := fun _ _ _ => ⟨_, rfl, rfl, rfl, rfl, rfl⟩
theorem fput (d a b : Reg) : Statement (.fput d a b) := fun _ _ _ => ⟨_, rfl, rfl, rfl, rfl, rfl⟩
theorem spawn (d a b : Reg) : Statement (.spawn d a b) := fun _ _ _ => ⟨_, rfl, rfl, rfl, rfl, rfl⟩
theorem mov (d a : Reg) : Statement (.mov d a) := fun _ _ _ => ⟨_, rfl, rfl, rfl, rfl, rfl⟩
theorem mov64 (d a : Reg) : Statement (.mov64 d a) := fun _ _ _ => ⟨_, rfl, rfl, rfl, rfl, rfl⟩
theorem movi (p : Option (BitVec 21)) (d : Reg) (i : BitVec 14) : Statement (.movi p d i) := fun _ e w => ⟨_, rfl, rfl, rfl, rfl, congrArg (fun x => some (Instr.movi p d x)) (cat14 i)⟩
theorem movhi (d : Reg) (i : BitVec 14) : Statement (.movhi d i) := fun _ e w => ⟨_, rfl, rfl, rfl, rfl, congrArg (fun x => some (Instr.movhi d x)) (cat14 i)⟩
theorem wbase (i : BitVec 14) : Statement (.wbase i) := fun _ e w => ⟨_, rfl, rfl, rfl, rfl, congrArg (fun x => some (Instr.wbase x)) (cat14 i)⟩
theorem wbaseRel (i : BitVec 14) : Statement (.wbaseRel i) := fun _ e w => ⟨_, rfl, rfl, rfl, rfl, congrArg (fun x => some (Instr.wbaseRel x)) (cat14 i)⟩
theorem sget (d : Reg) (n : BitVec 7) : Statement (.sget d n) := fun _ _ _ => ⟨_, rfl, rfl, rfl, rfl, rfl⟩
theorem sset (a : Reg) (n : BitVec 7) : Statement (.sset a n) := fun _ _ _ => ⟨_, rfl, rfl, rfl, rfl, rfl⟩
theorem shfl (d a b : Reg) : Statement (.shfl d a b) := fun _ _ _ => ⟨_, rfl, rfl, rfl, rfl, rfl⟩
theorem shflx (d a b : Reg) : Statement (.shflx d a b) := fun _ _ _ => ⟨_, rfl, rfl, rfl, rfl, rfl⟩
theorem csel (d a b : Reg) : Statement (.csel d a b) := fun _ _ _ => ⟨_, rfl, rfl, rfl, rfl, rfl⟩
theorem fmtSet (a : Reg) : Statement (.fmtSet a) := fun _ _ _ => ⟨_, rfl, rfl, rfl, rfl, rfl⟩
theorem fmtGet (d : Reg) : Statement (.fmtGet d) := fun _ _ _ => ⟨_, rfl, rfl, rfl, rfl, by show Fields.op19 _ none = _; simp [Fields.op19]⟩
theorem dqPush (d a : Reg) : Statement (.dqPush d a) := fun _ _ _ => ⟨_, rfl, rfl, rfl, rfl, rfl⟩
theorem dqPop (d a : Reg) : Statement (.dqPop d a) := fun _ _ _ => ⟨_, rfl, rfl, rfl, rfl, rfl⟩
theorem dqSteal (d a : Reg) : Statement (.dqSteal d a) := fun _ _ _ => ⟨_, rfl, rfl, rfl, rfl, rfl⟩
theorem dqSize (d a : Reg) : Statement (.dqSize d a) := fun _ _ _ => ⟨_, rfl, rfl, rfl, rfl, rfl⟩
theorem bndPubmin (d : Reg) (s : BitVec 3) : Statement (.bndPubmin d s) := fun h e w => ⟨_, rfl, rfl, rfl, rfl, by clear h; revert s; apply bv3 <;> (show Fields.op1B _ none = _; simp [Fields.op1B])⟩
theorem bndPubmax (d : Reg) (s : BitVec 3) : Statement (.bndPubmax d s) := fun h e w => ⟨_, rfl, rfl, rfl, rfl, by clear h; revert s; apply bv3 <;> (show Fields.op1B _ none = _; simp [Fields.op1B])⟩
theorem bndGet (d : Reg) (s : BitVec 3) : Statement (.bndGet d s) := fun h e w => ⟨_, rfl, rfl, rfl, rfl, by clear h; revert s; apply bv3 <;> (show Fields.op1B _ none = _; simp [Fields.op1B])⟩
theorem bndReset (d : Reg) (s : BitVec 3) : Statement (.bndReset d s) := fun h e w => ⟨_, rfl, rfl, rfl, rfl, by clear h; revert s; apply bv3 <;> (show Fields.op1B _ none = _; simp [Fields.op1B])⟩
theorem tjoin (d a : Reg) : Statement (.tjoin d a) := fun _ _ _ => ⟨_, rfl, rfl, rfl, rfl, rfl⟩
theorem tjoinTest (d a : Reg) : Statement (.tjoinTest d a) := fun _ _ _ => ⟨_, rfl, rfl, rfl, rfl, rfl⟩
theorem launch (d a : Reg) : Statement (.launch d a) := fun _ _ _ => ⟨_, rfl, rfl, rfl, rfl, rfl⟩
theorem rld (d a b : Reg) : Statement (.rld d a b) := fun _ _ _ => ⟨_, rfl, rfl, rfl, rfl, rfl⟩
theorem rst (d a b : Reg) : Statement (.rst d a b) := fun _ _ _ => ⟨_, rfl, rfl, rfl, rfl, rfl⟩
theorem add (d a b : Reg) : Statement (.add d a b) := fun _ _ _ => ⟨_, rfl, rfl, rfl, rfl, rfl⟩
theorem sub (d a b : Reg) : Statement (.sub d a b) := fun _ _ _ => ⟨_, rfl, rfl, rfl, rfl, rfl⟩
theorem addi (p : Option (BitVec 21)) (d a : Reg) (i : BitVec 7) : Statement (.addi p d a i) := fun _ _ _ => ⟨_, rfl, rfl, rfl, rfl, rfl⟩
theorem mul (d a b : Reg) : Statement (.mul d a b) := fun _ _ _ => ⟨_, rfl, rfl, rfl, rfl, rfl⟩
theorem mulhs (d a b : Reg) : Statement (.mulhs d a b) := fun _ _ _ => ⟨_, rfl, rfl, rfl, rfl, rfl⟩
theorem mulhu (d a b : Reg) : Statement (.mulhu d a b) := fun _ _ _ => ⟨_, rfl, rfl, rfl, rfl, rfl⟩
theorem mad (d a b : Reg) : Statement (.mad d a b) := fun _ _ _ => ⟨_, rfl, rfl, rfl, rfl, rfl⟩
theorem add64 (d a b : Reg) : Statement (.add64 d a b) := fun _ _ _ => ⟨_, rfl, rfl, rfl, rfl, rfl⟩
theorem addz64 (p : Option (BitVec 21)) (d a b : Reg) : Statement (.addz64 p d a b) := fun _ _ _ => ⟨_, rfl, rfl, rfl, rfl, rfl⟩
theorem mulws (d a b : Reg) : Statement (.mulws d a b) := fun _ _ _ => ⟨_, rfl, rfl, rfl, rfl, rfl⟩
theorem mulwz (d a b : Reg) : Statement (.mulwz d a b) := fun _ _ _ => ⟨_, rfl, rfl, rfl, rfl, rfl⟩
theorem min (d a b : Reg) : Statement (.min d a b) := fun _ _ _ => ⟨_, rfl, rfl, rfl, rfl, rfl⟩
theorem max (d a b : Reg) : Statement (.max d a b) := fun _ _ _ => ⟨_, rfl, rfl, rfl, rfl, rfl⟩
theorem minu (d a b : Reg) : Statement (.minu d a b) := fun _ _ _ => ⟨_, rfl, rfl, rfl, rfl, rfl⟩
theorem maxu (d a b : Reg) : Statement (.maxu d a b) := fun _ _ _ => ⟨_, rfl, rfl, rfl, rfl, rfl⟩
theorem and (d a b : Reg) : Statement (.and d a b) := fun _ _ _ => ⟨_, rfl, rfl, rfl, rfl, rfl⟩
theorem or (d a b : Reg) : Statement (.or d a b) := fun _ _ _ => ⟨_, rfl, rfl, rfl, rfl, rfl⟩
theorem xor (d a b : Reg) : Statement (.xor d a b) := fun _ _ _ => ⟨_, rfl, rfl, rfl, rfl, rfl⟩
theorem andi (p : Option (BitVec 21)) (d a : Reg) (i : BitVec 7) : Statement (.andi p d a i) := fun _ _ _ => ⟨_, rfl, rfl, rfl, rfl, rfl⟩
theorem ori (p : Option (BitVec 21)) (d a : Reg) (i : BitVec 7) : Statement (.ori p d a i) := fun _ _ _ => ⟨_, rfl, rfl, rfl, rfl, rfl⟩
theorem xori (p : Option (BitVec 21)) (d a : Reg) (i : BitVec 7) : Statement (.xori p d a i) := fun _ _ _ => ⟨_, rfl, rfl, rfl, rfl, rfl⟩
theorem shl (d a b : Reg) : Statement (.shl d a b) := fun _ _ _ => ⟨_, rfl, rfl, rfl, rfl, rfl⟩
theorem shr (d a b : Reg) : Statement (.shr d a b) := fun _ _ _ => ⟨_, rfl, rfl, rfl, rfl, rfl⟩
theorem sar (d a b : Reg) : Statement (.sar d a b) := fun _ _ _ => ⟨_, rfl, rfl, rfl, rfl, rfl⟩
theorem shli (d a : Reg) (n : BitVec 5) : Statement (.shli d a n) := fun h e w => ⟨_, rfl, rfl, rfl, rfl, by clear h; revert n; apply bv5 <;> (show Fields.op38 _ none = _; simp [Fields.op38])⟩
theorem shri (d a : Reg) (n : BitVec 5) : Statement (.shri d a n) := fun h e w => ⟨_, rfl, rfl, rfl, rfl, by clear h; revert n; apply bv5 <;> (show Fields.op38 _ none = _; simp [Fields.op38])⟩
theorem sari (d a : Reg) (n : BitVec 5) : Statement (.sari d a n) := fun h e w => ⟨_, rfl, rfl, rfl, rfl, by clear h; revert n; apply bv5 <;> (show Fields.op38 _ none = _; simp [Fields.op38])⟩
theorem roti (d a : Reg) (n : BitVec 5) : Statement (.roti d a n) := fun h e w => ⟨_, rfl, rfl, rfl, rfl, by clear h; revert n; apply bv5 <;> (show Fields.op38 _ none = _; simp [Fields.op38])⟩
theorem rot (d a b : Reg) : Statement (.rot d a b) := fun _ _ _ => ⟨_, rfl, rfl, rfl, rfl, rfl⟩
theorem clz (d a : Reg) : Statement (.clz d a) := fun _ _ _ => ⟨_, rfl, rfl, rfl, rfl, rfl⟩
theorem popc (d a : Reg) : Statement (.popc d a) := fun _ _ _ => ⟨_, rfl, rfl, rfl, rfl, rfl⟩
theorem brev (d a : Reg) : Statement (.brev d a) := fun _ _ _ => ⟨_, rfl, rfl, rfl, rfl, rfl⟩
theorem abs (d a : Reg) : Statement (.abs d a) := fun _ _ _ => ⟨_, rfl, rfl, rfl, rfl, rfl⟩
theorem neg (d a : Reg) : Statement (.neg d a) := fun _ _ _ => ⟨_, rfl, rfl, rfl, rfl, rfl⟩
theorem not (d a : Reg) : Statement (.not d a) := fun _ _ _ => ⟨_, rfl, rfl, rfl, rfl, rfl⟩
theorem sextb (d a : Reg) : Statement (.sextb d a) := fun _ _ _ => ⟨_, rfl, rfl, rfl, rfl, rfl⟩
theorem sexth (d a : Reg) : Statement (.sexth d a) := fun _ _ _ => ⟨_, rfl, rfl, rfl, rfl, rfl⟩
theorem zextb (d a : Reg) : Statement (.zextb d a) := fun _ _ _ => ⟨_, rfl, rfl, rfl, rfl, rfl⟩
theorem zexth (d a : Reg) : Statement (.zexth d a) := fun _ _ _ => ⟨_, rfl, rfl, rfl, rfl, rfl⟩
theorem ctz (d a : Reg) : Statement (.ctz d a) := fun _ _ _ => ⟨_, rfl, rfl, rfl, rfl, rfl⟩
theorem bfx (d a b : Reg) : Statement (.bfx d a b) := fun _ _ _ => ⟨_, rfl, rfl, rfl, rfl, rfl⟩
theorem bfi (d a b : Reg) : Statement (.bfi d a b) := fun _ _ _ => ⟨_, rfl, rfl, rfl, rfl, rfl⟩
theorem seq (d a b : Reg) : Statement (.seq d a b) := fun _ _ _ => ⟨_, rfl, rfl, rfl, rfl, rfl⟩
theorem slt (d a b : Reg) : Statement (.slt d a b) := fun _ _ _ => ⟨_, rfl, rfl, rfl, rfl, rfl⟩
theorem sltu (d a b : Reg) : Statement (.sltu d a b) := fun _ _ _ => ⟨_, rfl, rfl, rfl, rfl, rfl⟩
theorem fadd (d a b : Reg) : Statement (.fadd d a b) := fun _ _ _ => ⟨_, rfl, rfl, rfl, rfl, rfl⟩
theorem fsub (d a b : Reg) : Statement (.fsub d a b) := fun _ _ _ => ⟨_, rfl, rfl, rfl, rfl, rfl⟩
theorem fmul (d a b : Reg) : Statement (.fmul d a b) := fun _ _ _ => ⟨_, rfl, rfl, rfl, rfl, rfl⟩
theorem ffma (d a b : Reg) : Statement (.ffma d a b) := fun _ _ _ => ⟨_, rfl, rfl, rfl, rfl, rfl⟩
theorem fmin (d a b : Reg) : Statement (.fmin d a b) := fun _ _ _ => ⟨_, rfl, rfl, rfl, rfl, rfl⟩
theorem fmax (d a b : Reg) : Statement (.fmax d a b) := fun _ _ _ => ⟨_, rfl, rfl, rfl, rfl, rfl⟩
theorem fseq (d a b : Reg) : Statement (.fseq d a b) := fun _ _ _ => ⟨_, rfl, rfl, rfl, rfl, rfl⟩
theorem fslt (d a b : Reg) : Statement (.fslt d a b) := fun _ _ _ => ⟨_, rfl, rfl, rfl, rfl, rfl⟩
theorem fsle (d a b : Reg) : Statement (.fsle d a b) := fun _ _ _ => ⟨_, rfl, rfl, rfl, rfl, rfl⟩
theorem collStart (d a : Reg) : Statement (.collStart d a) := fun _ _ _ => ⟨_, rfl, rfl, rfl, rfl, rfl⟩
theorem collWait (d a : Reg) : Statement (.collWait d a) := fun _ _ _ => ⟨_, rfl, rfl, rfl, rfl, rfl⟩
theorem collTest (d a : Reg) : Statement (.collTest d a) := fun _ _ _ => ⟨_, rfl, rfl, rfl, rfl, rfl⟩
theorem fabs (d a : Reg) : Statement (.fabs d a) := fun _ _ _ => ⟨_, rfl, rfl, rfl, rfl, rfl⟩
theorem fneg (d a : Reg) : Statement (.fneg d a) := fun _ _ _ => ⟨_, rfl, rfl, rfl, rfl, rfl⟩
theorem frndn (d a : Reg) : Statement (.frndn d a) := fun _ _ _ => ⟨_, rfl, rfl, rfl, rfl, rfl⟩
theorem frndz (d a : Reg) : Statement (.frndz d a) := fun _ _ _ => ⟨_, rfl, rfl, rfl, rfl, rfl⟩
theorem frndp (d a : Reg) : Statement (.frndp d a) := fun _ _ _ => ⟨_, rfl, rfl, rfl, rfl, rfl⟩
theorem frndm (d a : Reg) : Statement (.frndm d a) := fun _ _ _ => ⟨_, rfl, rfl, rfl, rfl, rfl⟩
theorem fclass (d a : Reg) : Statement (.fclass d a) := fun _ _ _ => ⟨_, rfl, rfl, rfl, rfl, rfl⟩
theorem frcp (d a : Reg) : Statement (.frcp d a) := fun _ _ _ => ⟨_, rfl, rfl, rfl, rfl, rfl⟩
theorem frsq (d a : Reg) : Statement (.frsq d a) := fun _ _ _ => ⟨_, rfl, rfl, rfl, rfl, rfl⟩
theorem fsqrt (d a : Reg) : Statement (.fsqrt d a) := fun _ _ _ => ⟨_, rfl, rfl, rfl, rfl, rfl⟩
theorem fex2 (d a : Reg) : Statement (.fex2 d a) := fun _ _ _ => ⟨_, rfl, rfl, rfl, rfl, rfl⟩
theorem flg2 (d a : Reg) : Statement (.flg2 d a) := fun _ _ _ => ⟨_, rfl, rfl, rfl, rfl, rfl⟩
theorem fsin (d a : Reg) : Statement (.fsin d a) := fun _ _ _ => ⟨_, rfl, rfl, rfl, rfl, rfl⟩
theorem fcos (d a : Reg) : Statement (.fcos d a) := fun _ _ _ => ⟨_, rfl, rfl, rfl, rfl, rfl⟩
theorem badd2 (d a b : Reg) : Statement (.badd2 d a b) := fun _ _ _ => ⟨_, rfl, rfl, rfl, rfl, rfl⟩
theorem bmul2 (d a b : Reg) : Statement (.bmul2 d a b) := fun _ _ _ => ⟨_, rfl, rfl, rfl, rfl, rfl⟩
theorem bfma2 (d a b : Reg) : Statement (.bfma2 d a b) := fun _ _ _ => ⟨_, rfl, rfl, rfl, rfl, rfl⟩
theorem hfma2 (d a b : Reg) : Statement (.hfma2 d a b) := fun _ _ _ => ⟨_, rfl, rfl, rfl, rfl, rfl⟩
theorem rsubs (d a : Reg) : Statement (.rsubs d a) := fun _ _ _ => ⟨_, rfl, rfl, rfl, rfl, rfl⟩
theorem rsubsOff (d a : Reg) : Statement (.rsubsOff d a) := fun _ _ _ => ⟨_, rfl, rfl, rfl, rfl, rfl⟩
theorem ratom (p : Option (BitVec 21)) (d a b : Reg) : Statement (.ratom p d a b) := fun _ _ _ => ⟨_, rfl, rfl, rfl, rfl, rfl⟩
theorem cvtF32F16 (d a : Reg) : Statement (.cvtF32F16 d a) := fun _ _ _ => ⟨_, rfl, rfl, rfl, rfl, rfl⟩
theorem cvtF32Bf16 (d a : Reg) : Statement (.cvtF32Bf16 d a) := fun _ _ _ => ⟨_, rfl, rfl, rfl, rfl, rfl⟩
theorem cvtF16F32 (d a : Reg) : Statement (.cvtF16F32 d a) := fun _ _ _ => ⟨_, rfl, rfl, rfl, rfl, rfl⟩
theorem cvtBf16F32 (d a : Reg) : Statement (.cvtBf16F32 d a) := fun _ _ _ => ⟨_, rfl, rfl, rfl, rfl, rfl⟩
theorem cvtF32S32 (d a : Reg) : Statement (.cvtF32S32 d a) := fun _ _ _ => ⟨_, rfl, rfl, rfl, rfl, rfl⟩
theorem cvtF32Z32 (d a : Reg) : Statement (.cvtF32Z32 d a) := fun _ _ _ => ⟨_, rfl, rfl, rfl, rfl, rfl⟩
theorem cvtS32F32 (d a : Reg) : Statement (.cvtS32F32 d a) := fun _ _ _ => ⟨_, rfl, rfl, rfl, rfl, rfl⟩
theorem cvtZ32F32 (d a : Reg) : Statement (.cvtZ32F32 d a) := fun _ _ _ => ⟨_, rfl, rfl, rfl, rfl, rfl⟩
theorem cvtF32E4m3 (d a : Reg) : Statement (.cvtF32E4m3 d a) := fun _ _ _ => ⟨_, rfl, rfl, rfl, rfl, rfl⟩
theorem cvtF32E5m2 (d a : Reg) : Statement (.cvtF32E5m2 d a) := fun _ _ _ => ⟨_, rfl, rfl, rfl, rfl, rfl⟩
theorem cvtF32E3m2 (d a : Reg) : Statement (.cvtF32E3m2 d a) := fun _ _ _ => ⟨_, rfl, rfl, rfl, rfl, rfl⟩
theorem cvtF32E2m3 (d a : Reg) : Statement (.cvtF32E2m3 d a) := fun _ _ _ => ⟨_, rfl, rfl, rfl, rfl, rfl⟩
theorem cvtF32E2m1 (d a : Reg) : Statement (.cvtF32E2m1 d a) := fun _ _ _ => ⟨_, rfl, rfl, rfl, rfl, rfl⟩
theorem cvtE4m3F32 (d a : Reg) : Statement (.cvtE4m3F32 d a) := fun _ _ _ => ⟨_, rfl, rfl, rfl, rfl, rfl⟩
theorem cvtE5m2F32 (d a : Reg) : Statement (.cvtE5m2F32 d a) := fun _ _ _ => ⟨_, rfl, rfl, rfl, rfl, rfl⟩
theorem cvtE3m2F32 (d a : Reg) : Statement (.cvtE3m2F32 d a) := fun _ _ _ => ⟨_, rfl, rfl, rfl, rfl, rfl⟩
theorem cvtE2m3F32 (d a : Reg) : Statement (.cvtE2m3F32 d a) := fun _ _ _ => ⟨_, rfl, rfl, rfl, rfl, rfl⟩
theorem cvtE2m1F32 (d a : Reg) : Statement (.cvtE2m1F32 d a) := fun _ _ _ => ⟨_, rfl, rfl, rfl, rfl, rfl⟩
theorem cvtF32E8m0 (d a : Reg) : Statement (.cvtF32E8m0 d a) := fun _ _ _ => ⟨_, rfl, rfl, rfl, rfl, rfl⟩
theorem cvtE8m0F32 (d a : Reg) : Statement (.cvtE8m0F32 d a) := fun _ _ _ => ⟨_, rfl, rfl, rfl, rfl, rfl⟩
theorem cvtS16S32 (d a : Reg) : Statement (.cvtS16S32 d a) := fun _ _ _ => ⟨_, rfl, rfl, rfl, rfl, rfl⟩
theorem cvtS8S32 (d a : Reg) : Statement (.cvtS8S32 d a) := fun _ _ _ => ⟨_, rfl, rfl, rfl, rfl, rfl⟩
theorem cvtZ16Z32 (d a : Reg) : Statement (.cvtZ16Z32 d a) := fun _ _ _ => ⟨_, rfl, rfl, rfl, rfl, rfl⟩
theorem cvtZ8Z32 (d a : Reg) : Statement (.cvtZ8Z32 d a) := fun _ _ _ => ⟨_, rfl, rfl, rfl, rfl, rfl⟩
theorem cvtF32S64 (d a : Reg) : Statement (.cvtF32S64 d a) := fun _ _ _ => ⟨_, rfl, rfl, rfl, rfl, rfl⟩
theorem cvtS64F32 (d a : Reg) : Statement (.cvtS64F32 d a) := fun _ _ _ => ⟨_, rfl, rfl, rfl, rfl, rfl⟩
theorem cvtp (d a b : Reg) : Statement (.cvtp d a b) := fun _ _ _ => ⟨_, rfl, rfl, rfl, rfl, rfl⟩
theorem dot4i (d a b : Reg) : Statement (.dot4i d a b) := fun _ _ _ => ⟨_, rfl, rfl, rfl, rfl, rfl⟩
theorem dot8i (d a b : Reg) : Statement (.dot8i d a b) := fun _ _ _ => ⟨_, rfl, rfl, rfl, rfl, rfl⟩
theorem dot4f (d a b : Reg) : Statement (.dot4f d a b) := fun _ _ _ => ⟨_, rfl, rfl, rfl, rfl, rfl⟩
theorem dot8f (d a b : Reg) : Statement (.dot8f d a b) := fun _ _ _ => ⟨_, rfl, rfl, rfl, rfl, rfl⟩
theorem dot2b (d a b : Reg) : Statement (.dot2b d a b) := fun _ _ _ => ⟨_, rfl, rfl, rfl, rfl, rfl⟩
theorem ldn (p : Option (BitVec 21)) (d a : Reg) (z : BitVec 2) : Statement (.ldn p d a z) := fun h e w => ⟨_, rfl, rfl, rfl, rfl, by clear h; revert z; apply bv2 <;> (show Fields.op58 _ p = _; simp [Fields.op58])⟩
theorem stn (p : Option (BitVec 21)) (d a : Reg) (z : BitVec 2) : Statement (.stn p d a z) := fun h e w => ⟨_, rfl, rfl, rfl, rfl, by clear h; revert z; apply bv2 <;> (show Fields.op59 _ p = _; simp [Fields.op59])⟩
theorem atnAdd (p : Option (BitVec 21)) (d a : Reg) (b : BitVec 4) : Statement (.atnAdd p d a b) := fun h e w => ⟨_, rfl, rfl, rfl, rfl, by clear h; revert b; apply bv4 <;> (show Fields.op5A _ p = _; simp [Fields.op5A])⟩
theorem atnMin (p : Option (BitVec 21)) (d a : Reg) (b : BitVec 4) : Statement (.atnMin p d a b) := fun h e w => ⟨_, rfl, rfl, rfl, rfl, by clear h; revert b; apply bv4 <;> (show Fields.op5A _ p = _; simp [Fields.op5A])⟩
theorem atnMax (p : Option (BitVec 21)) (d a : Reg) (b : BitVec 4) : Statement (.atnMax p d a b) := fun h e w => ⟨_, rfl, rfl, rfl, rfl, by clear h; revert b; apply bv4 <;> (show Fields.op5A _ p = _; simp [Fields.op5A])⟩
theorem atnMinu (p : Option (BitVec 21)) (d a : Reg) (b : BitVec 4) : Statement (.atnMinu p d a b) := fun h e w => ⟨_, rfl, rfl, rfl, rfl, by clear h; revert b; apply bv4 <;> (show Fields.op5A _ p = _; simp [Fields.op5A])⟩
theorem atnMaxu (p : Option (BitVec 21)) (d a : Reg) (b : BitVec 4) : Statement (.atnMaxu p d a b) := fun h e w => ⟨_, rfl, rfl, rfl, rfl, by clear h; revert b; apply bv4 <;> (show Fields.op5A _ p = _; simp [Fields.op5A])⟩
theorem atnAnd (p : Option (BitVec 21)) (d a : Reg) (b : BitVec 4) : Statement (.atnAnd p d a b) := fun h e w => ⟨_, rfl, rfl, rfl, rfl, by clear h; revert b; apply bv4 <;> (show Fields.op5A _ p = _; simp [Fields.op5A])⟩
theorem atnOr (p : Option (BitVec 21)) (d a : Reg) (b : BitVec 4) : Statement (.atnOr p d a b) := fun h e w => ⟨_, rfl, rfl, rfl, rfl, by clear h; revert b; apply bv4 <;> (show Fields.op5A _ p = _; simp [Fields.op5A])⟩
theorem atnXch (p : Option (BitVec 21)) (d a : Reg) (b : BitVec 4) : Statement (.atnXch p d a b) := fun h e w => ⟨_, rfl, rfl, rfl, rfl, by clear h; revert b; apply bv4 <;> (show Fields.op5A _ p = _; simp [Fields.op5A])⟩
theorem casn (d a b : Reg) : Statement (.casn d a b) := fun _ _ _ => ⟨_, rfl, rfl, rfl, rfl, rfl⟩
theorem rrot (d a b : Reg) : Statement (.rrot d a b) := fun _ _ _ => ⟨_, rfl, rfl, rfl, rfl, rfl⟩
theorem vput (a : Reg) : Statement (.vput a) := fun _ _ _ => ⟨_, rfl, rfl, rfl, rfl, rfl⟩
theorem vputNb (d a : Reg) : Statement (.vputNb d a) := fun _ _ _ => ⟨_, rfl, rfl, rfl, rfl, by show Fields.op5D _ none = _; simp [Fields.op5D]⟩
theorem vget (d : Reg) : Statement (.vget d) := fun _ _ _ => ⟨_, rfl, rfl, rfl, rfl, rfl⟩
theorem vgetNb (d a : Reg) : Statement (.vgetNb d a) := fun _ _ _ => ⟨_, rfl, rfl, rfl, rfl, by show Fields.op5E _ none = _; simp [Fields.op5E]⟩
theorem twxWr (a : Reg) (s : BitVec 3) : Statement (.twxWr a s) := fun h e w => ⟨_, rfl, rfl, rfl, rfl, by clear h; revert s; apply bv3 <;> (show Fields.op5F _ none = _; simp [Fields.op5F])⟩
theorem twxRd (d : Reg) (s : BitVec 3) : Statement (.twxRd d s) := fun h e w => ⟨_, rfl, rfl, rfl, rfl, by clear h; revert s; apply bv3 <;> (show Fields.op5F _ none = _; simp [Fields.op5F])⟩
theorem ld (p : Option (BitVec 21)) (d a : Reg) (s : BitVec 3) (z : BitVec 2) (pol : BitVec 2) : Statement (.ld p d a s z pol) := fun _ e w => ⟨_, rfl, rfl, rfl, rfl, by rw [show Fields.toInstr _ _ = some (Instr.ld p d a ((s ++ z ++ pol).extractLsb' 4 3) ((s ++ z ++ pol).extractLsb' 2 2) ((s ++ z ++ pol).extractLsb' 0 2)) from rfl, (cat322 s z pol).1, (cat322 s z pol).2.1, (cat322 s z pol).2.2]⟩
theorem st (p : Option (BitVec 21)) (d a : Reg) (s : BitVec 3) (z : BitVec 2) (pol : BitVec 2) : Statement (.st p d a s z pol) := fun _ e w => ⟨_, rfl, rfl, rfl, rfl, by rw [show Fields.toInstr _ _ = some (Instr.st p d a ((s ++ z ++ pol).extractLsb' 4 3) ((s ++ z ++ pol).extractLsb' 2 2) ((s ++ z ++ pol).extractLsb' 0 2)) from rfl, (cat322 s z pol).1, (cat322 s z pol).2.1, (cat322 s z pol).2.2]⟩
theorem aadd (p : Option (BitVec 21)) (d a : Reg) (s : BitVec 3) (b : BitVec 4) : Statement (.aadd p d a s b) := fun _ e w => ⟨_, rfl, rfl, rfl, rfl, congrArg₂ (fun x y => some (Instr.aadd p d a x y)) (cat34 s b).1 (cat34 s b).2⟩
theorem amin (p : Option (BitVec 21)) (d a : Reg) (s : BitVec 3) (b : BitVec 4) : Statement (.amin p d a s b) := fun _ e w => ⟨_, rfl, rfl, rfl, rfl, congrArg₂ (fun x y => some (Instr.amin p d a x y)) (cat34 s b).1 (cat34 s b).2⟩
theorem amax (p : Option (BitVec 21)) (d a : Reg) (s : BitVec 3) (b : BitVec 4) : Statement (.amax p d a s b) := fun _ e w => ⟨_, rfl, rfl, rfl, rfl, congrArg₂ (fun x y => some (Instr.amax p d a x y)) (cat34 s b).1 (cat34 s b).2⟩
theorem aminu (p : Option (BitVec 21)) (d a : Reg) (s : BitVec 3) (b : BitVec 4) : Statement (.aminu p d a s b) := fun _ e w => ⟨_, rfl, rfl, rfl, rfl, congrArg₂ (fun x y => some (Instr.aminu p d a x y)) (cat34 s b).1 (cat34 s b).2⟩
theorem amaxu (p : Option (BitVec 21)) (d a : Reg) (s : BitVec 3) (b : BitVec 4) : Statement (.amaxu p d a s b) := fun _ e w => ⟨_, rfl, rfl, rfl, rfl, congrArg₂ (fun x y => some (Instr.amaxu p d a x y)) (cat34 s b).1 (cat34 s b).2⟩
theorem aand (p : Option (BitVec 21)) (d a : Reg) (s : BitVec 3) (b : BitVec 4) : Statement (.aand p d a s b) := fun _ e w => ⟨_, rfl, rfl, rfl, rfl, congrArg₂ (fun x y => some (Instr.aand p d a x y)) (cat34 s b).1 (cat34 s b).2⟩
theorem aor (p : Option (BitVec 21)) (d a : Reg) (s : BitVec 3) (b : BitVec 4) : Statement (.aor p d a s b) := fun _ e w => ⟨_, rfl, rfl, rfl, rfl, congrArg₂ (fun x y => some (Instr.aor p d a x y)) (cat34 s b).1 (cat34 s b).2⟩
theorem axor (p : Option (BitVec 21)) (d a : Reg) (s : BitVec 3) (b : BitVec 4) : Statement (.axor p d a s b) := fun _ e w => ⟨_, rfl, rfl, rfl, rfl, congrArg₂ (fun x y => some (Instr.axor p d a x y)) (cat34 s b).1 (cat34 s b).2⟩
theorem axch (p : Option (BitVec 21)) (d a : Reg) (s : BitVec 3) (b : BitVec 4) : Statement (.axch p d a s b) := fun _ e w => ⟨_, rfl, rfl, rfl, rfl, congrArg₂ (fun x y => some (Instr.axch p d a x y)) (cat34 s b).1 (cat34 s b).2⟩
theorem acas (p : Option (BitVec 21)) (d a : Reg) (s : BitVec 3) (b : BitVec 4) : Statement (.acas p d a s b) := fun _ e w => ⟨_, rfl, rfl, rfl, rfl, congrArg₂ (fun x y => some (Instr.acas p d a x y)) (cat34 s b).1 (cat34 s b).2⟩
theorem afadd (p : Option (BitVec 21)) (d a : Reg) (s : BitVec 3) (b : BitVec 4) : Statement (.afadd p d a s b) := fun _ e w => ⟨_, rfl, rfl, rfl, rfl, congrArg₂ (fun x y => some (Instr.afadd p d a x y)) (cat34 s b).1 (cat34 s b).2⟩
theorem fenceAcq (s : BitVec 3) : Statement (.fenceAcq s) := fun h e w => ⟨_, rfl, rfl, rfl, rfl, by clear h; revert s; apply bv3 <;> (show Fields.op6D _ none = _; simp [Fields.op6D])⟩
theorem fenceRel (s : BitVec 3) : Statement (.fenceRel s) := fun h e w => ⟨_, rfl, rfl, rfl, rfl, by clear h; revert s; apply bv3 <;> (show Fields.op6D _ none = _; simp [Fields.op6D])⟩
theorem fenceAcqrel (s : BitVec 3) : Statement (.fenceAcqrel s) := fun h e w => ⟨_, rfl, rfl, rfl, rfl, by clear h; revert s; apply bv3 <;> (show Fields.op6D _ none = _; simp [Fields.op6D])⟩
theorem fenceSc (s : BitVec 3) : Statement (.fenceSc s) := fun h e w => ⟨_, rfl, rfl, rfl, rfl, by clear h; revert s; apply bv3 <;> (show Fields.op6D _ none = _; simp [Fields.op6D])⟩
theorem fenceAsync (s : BitVec 3) : Statement (.fenceAsync s) := fun h e w => ⟨_, rfl, rfl, rfl, rfl, by clear h; revert s; apply bv3 <;> (show Fields.op6D _ none = _; simp [Fields.op6D])⟩
theorem touch (p : Option (BitVec 21)) (d a : Reg) : Statement (.touch p d a) := fun _ _ _ => ⟨_, rfl, rfl, rfl, rfl, rfl⟩
theorem cmaintWb (a : Reg) (s : BitVec 3) : Statement (.cmaintWb a s) := fun h e w => ⟨_, rfl, rfl, rfl, rfl, by clear h; revert s; apply bv3 <;> (show Fields.op6F _ none = _; simp [Fields.op6F])⟩
theorem cmaintInv (a : Reg) (s : BitVec 3) : Statement (.cmaintInv a s) := fun h e w => ⟨_, rfl, rfl, rfl, rfl, by clear h; revert s; apply bv3 <;> (show Fields.op6F _ none = _; simp [Fields.op6F])⟩
theorem cmaintWbinv (a : Reg) (s : BitVec 3) : Statement (.cmaintWbinv a s) := fun h e w => ⟨_, rfl, rfl, rfl, rfl, by clear h; revert s; apply bv3 <;> (show Fields.op6F _ none = _; simp [Fields.op6F])⟩
theorem cmaintTlb (d a : Reg) (s : BitVec 3) : Statement (.cmaintTlb d a s) := fun h e w => ⟨_, rfl, rfl, rfl, rfl, by clear h; revert s; apply bv3 <;> (show Fields.op6F _ none = _; simp [Fields.op6F])⟩
theorem trec (d a : Reg) (s : BitVec 4) : Statement (.trec d a s) := fun h e w => ⟨_, rfl, rfl, rfl, rfl, by clear h; revert s; apply bv4 <;> (show Fields.op70 _ none = _; simp [Fields.op70])⟩
theorem trecN (d a : Reg) (s : BitVec 4) : Statement (.trecN d a s) := fun h e w => ⟨_, rfl, rfl, rfl, rfl, by clear h; revert s; apply bv4 <;> (show Fields.op70 _ none = _; simp [Fields.op70])⟩
theorem tcopy (d a b : Reg) : Statement (.tcopy d a b) := fun _ _ _ => ⟨_, rfl, rfl, rfl, rfl, rfl⟩
theorem tstore (d a b : Reg) : Statement (.tstore d a b) := fun _ _ _ => ⟨_, rfl, rfl, rfl, rfl, rfl⟩
theorem tcommit (d : Reg) : Statement (.tcommit d) := fun _ _ _ => ⟨_, rfl, rfl, rfl, rfl, rfl⟩
theorem twaitb (d a : Reg) : Statement (.twaitb d a) := fun _ _ _ => ⟨_, rfl, rfl, rfl, rfl, rfl⟩
theorem twaitbTest (d a : Reg) : Statement (.twaitbTest d a) := fun _ _ _ => ⟨_, rfl, rfl, rfl, rfl, rfl⟩
theorem cbarInit (d a : Reg) : Statement (.cbarInit d a) := fun _ _ _ => ⟨_, rfl, rfl, rfl, rfl, rfl⟩
theorem cbarArrive (d a : Reg) : Statement (.cbarArrive d a) := fun _ _ _ => ⟨_, rfl, rfl, rfl, rfl, rfl⟩
theorem cbarExpect (d a : Reg) : Statement (.cbarExpect d a) := fun _ _ _ => ⟨_, rfl, rfl, rfl, rfl, rfl⟩
theorem cbarWait (d a : Reg) : Statement (.cbarWait d a) := fun _ _ _ => ⟨_, rfl, rfl, rfl, rfl, rfl⟩
theorem cbarTest (d a : Reg) : Statement (.cbarTest d a) := fun _ _ _ => ⟨_, rfl, rfl, rfl, rfl, rfl⟩
theorem lcopy (d a b : Reg) : Statement (.lcopy d a b) := fun _ _ _ => ⟨_, rfl, rfl, rfl, rfl, rfl⟩
theorem gangSet (a : Reg) : Statement (.gangSet a) := fun _ _ _ => ⟨_, rfl, rfl, rfl, rfl, rfl⟩
theorem gangCur (a : Reg) : Statement (.gangCur a) := fun _ _ _ => ⟨_, rfl, rfl, rfl, rfl, rfl⟩
theorem gangNear (a : Reg) : Statement (.gangNear a) := fun _ _ _ => ⟨_, rfl, rfl, rfl, rfl, rfl⟩
theorem gangScl (a : Reg) : Statement (.gangScl a) := fun _ _ _ => ⟨_, rfl, rfl, rfl, rfl, rfl⟩
theorem mma (p : Option (BitVec 21)) (d a b : Reg) : Statement (.mma p d a b) := fun _ _ _ => ⟨_, rfl, rfl, rfl, rfl, rfl⟩
theorem accAlloc (p : Option (BitVec 21)) (d a : Reg) : Statement (.accAlloc p d a) := fun _ _ _ => ⟨_, rfl, rfl, rfl, rfl, rfl⟩
theorem accFree (p : Option (BitVec 21)) (a : Reg) : Statement (.accFree p a) := fun _ _ _ => ⟨_, rfl, rfl, rfl, rfl, rfl⟩
theorem accZero (p : Option (BitVec 21)) (a : Reg) : Statement (.accZero p a) := fun _ _ _ => ⟨_, rfl, rfl, rfl, rfl, rfl⟩
theorem accRdf32 (p : Option (BitVec 21)) (d a : Reg) : Statement (.accRdf32 p d a) := fun _ _ _ => ⟨_, rfl, rfl, rfl, rfl, by show Fields.op7A _ p = _; simp [Fields.op7A]⟩
theorem accRdbf2 (p : Option (BitVec 21)) (d a : Reg) : Statement (.accRdbf2 p d a) := fun _ _ _ => ⟨_, rfl, rfl, rfl, rfl, by show Fields.op7A _ p = _; simp [Fields.op7A]⟩
theorem accRdi32 (p : Option (BitVec 21)) (d a : Reg) : Statement (.accRdi32 p d a) := fun _ _ _ => ⟨_, rfl, rfl, rfl, rfl, by show Fields.op7A _ p = _; simp [Fields.op7A]⟩
theorem accWrf32 (p : Option (BitVec 21)) (d a : Reg) : Statement (.accWrf32 p d a) := fun _ _ _ => ⟨_, rfl, rfl, rfl, rfl, by show Fields.op7A _ p = _; simp [Fields.op7A]⟩
theorem accStn (p : Option (BitVec 21)) (d a : Reg) : Statement (.accStn p d a) := fun _ _ _ => ⟨_, rfl, rfl, rfl, rfl, by show Fields.op7A _ p = _; simp [Fields.op7A]⟩
theorem accStat (p : Option (BitVec 21)) (d a : Reg) : Statement (.accStat p d a) := fun _ _ _ => ⟨_, rfl, rfl, rfl, rfl, by show Fields.op7A _ p = _; simp [Fields.op7A]⟩
theorem mfence (d : Reg) : Statement (.mfence d) := fun _ _ _ => ⟨_, rfl, rfl, rfl, rfl, rfl⟩
theorem mwaitb (d a : Reg) : Statement (.mwaitb d a) := fun _ _ _ => ⟨_, rfl, rfl, rfl, rfl, by show Fields.op7B _ none = _; simp [Fields.op7B]⟩
theorem cpass (d : Reg) : Statement (.cpass d) := fun _ _ _ => ⟨_, rfl, rfl, rfl, rfl, rfl⟩
theorem lstat (d : Reg) : Statement (.lstat d) := fun _ _ _ => ⟨_, rfl, rfl, rfl, rfl, rfl⟩
theorem nop : Statement .nop := fun _ _ _ => ⟨_, rfl, rfl, rfl, rfl, rfl⟩
theorem yield : Statement .yield := fun _ _ _ => ⟨_, rfl, rfl, rfl, rfl, rfl⟩
theorem exit : Statement .exit := fun _ _ _ => ⟨_, rfl, rfl, rfl, rfl, rfl⟩
theorem join : Statement .join := fun _ _ _ => ⟨_, rfl, rfl, rfl, rfl, rfl⟩
theorem tret : Statement .tret := fun _ _ _ => ⟨_, rfl, rfl, rfl, rfl, rfl⟩
theorem tretSkip : Statement .tretSkip := fun _ _ _ => ⟨_, rfl, rfl, rfl, rfl, rfl⟩
theorem tfence : Statement .tfence := fun _ _ _ => ⟨_, rfl, rfl, rfl, rfl, rfl⟩
theorem brk : Statement .brk := fun _ _ _ => ⟨_, rfl, rfl, rfl, rfl, rfl⟩
theorem hvc : Statement .hvc := fun _ _ _ => ⟨_, rfl, rfl, rfl, rfl, rfl⟩
theorem texit : Statement .texit := fun _ _ _ => ⟨_, rfl, rfl, rfl, rfl, rfl⟩
theorem halt : Statement .halt := fun _ _ _ => ⟨_, rfl, rfl, rfl, rfl, rfl⟩
theorem barTeam : Statement .barTeam := fun _ _ _ => ⟨_, rfl, rfl, rfl, rfl, rfl⟩
theorem barClu : Statement .barClu := fun _ _ _ => ⟨_, rfl, rfl, rfl, rfl, rfl⟩
theorem barGrid : Statement .barGrid := fun _ _ _ => ⟨_, rfl, rfl, rfl, rfl, rfl⟩
theorem gangClr : Statement .gangClr := fun _ _ _ => ⟨_, rfl, rfl, rfl, rfl, rfl⟩
theorem ctake : Statement .ctake := fun _ _ _ => ⟨_, rfl, rfl, rfl, rfl, rfl⟩
theorem lrel : Statement .lrel := fun _ _ _ => ⟨_, rfl, rfl, rfl, rfl, rfl⟩
theorem nrmRead : Statement .nrmRead := fun h => nomatch h
theorem cycloRead : Statement .cycloRead := fun h => nomatch h
theorem aflagsRead : Statement .aflagsRead := fun h => nomatch h
theorem rspeekWrite : Statement .rspeekWrite := fun h => nomatch h
theorem ctxbaseWrite : Statement .ctxbaseWrite := fun h => nomatch h
theorem ctxbaseTakeEffect : Statement .ctxbaseTakeEffect := fun h => nomatch h
theorem boundPublishArrival : Statement .boundPublishArrival := fun h => nomatch h
theorem ringStepStart : Statement .ringStepStart := fun h => nomatch h
theorem ringStepComplete : Statement .ringStepComplete := fun h => nomatch h
theorem beamEntryArrival : Statement .beamEntryArrival := fun h => nomatch h
theorem beamCreditReturn : Statement .beamCreditReturn := fun h => nomatch h
theorem beamRealignmentDue : Statement .beamRealignmentDue := fun h => nomatch h
theorem beamRealignmentStart : Statement .beamRealignmentStart := fun h => nomatch h
theorem beamRealignmentComplete : Statement .beamRealignmentComplete := fun h => nomatch h
theorem upperDeckGate : Statement .upperDeckGate := fun h => nomatch h
theorem upperDeckUngate : Statement .upperDeckUngate := fun h => nomatch h
theorem refreshWindowStart : Statement .refreshWindowStart := fun h => nomatch h
theorem refreshWindowEnd : Statement .refreshWindowEnd := fun h => nomatch h
theorem columnRefreshRateChange : Statement .columnRefreshRateChange := fun h => nomatch h
theorem residencyRequest : Statement .residencyRequest := fun h => nomatch h
theorem tlbInvalidationArrival : Statement .tlbInvalidationArrival := fun h => nomatch h
theorem tlbInvalidationAck : Statement .tlbInvalidationAck := fun h => nomatch h
theorem shootdownComplete : Statement .shootdownComplete := fun h => nomatch h
theorem tableWalk : Statement .tableWalk := fun h => nomatch h
theorem walkAheadFetch : Statement .walkAheadFetch := fun h => nomatch h
theorem copyComplete : Statement .copyComplete := fun h => nomatch h
theorem rendezvousComplete : Statement .rendezvousComplete := fun h => nomatch h
theorem matrixOperationStart : Statement .matrixOperationStart := fun h => nomatch h
theorem matrixOperationComplete : Statement .matrixOperationComplete := fun h => nomatch h
theorem accStnComplete : Statement .accStnComplete := fun h => nomatch h
theorem allocGrant : Statement .allocGrant := fun h => nomatch h
theorem carryGrant : Statement .carryGrant := fun h => nomatch h
theorem licenceGrant : Statement .licenceGrant := fun h => nomatch h
theorem licenceIdleRelease : Statement .licenceIdleRelease := fun h => nomatch h
theorem licenceRelease : Statement .licenceRelease := fun h => nomatch h
theorem issueArbitration : Statement .issueArbitration := fun h => nomatch h
theorem runLimit : Statement .runLimit := fun h => nomatch h
theorem activeSetEntry : Statement .activeSetEntry := fun h => nomatch h
theorem activeSetEviction : Statement .activeSetEviction := fun h => nomatch h
theorem quantumExpiry : Statement .quantumExpiry := fun h => nomatch h
theorem fixedLatencyWriteback : Statement .fixedLatencyWriteback := fun h => nomatch h
theorem interlockedWriteComplete : Statement .interlockedWriteComplete := fun h => nomatch h
theorem pathReady : Statement .pathReady := fun h => nomatch h
theorem breakpointTrap : Statement .breakpointTrap := fun h => nomatch h
theorem singleStepTrap : Statement .singleStepTrap := fun h => nomatch h
theorem monitorWriteWake : Statement .monitorWriteWake := fun h => nomatch h
theorem monitorLineLoss : Statement .monitorLineLoss := fun h => nomatch h
theorem monwTimeout : Statement .monwTimeout := fun h => nomatch h
theorem taskPacketArrival : Statement .taskPacketArrival := fun h => nomatch h
theorem overflowPacketReturn : Statement .overflowPacketReturn := fun h => nomatch h
theorem waveFormation : Statement .waveFormation := fun h => nomatch h
theorem parkedContextResume : Statement .parkedContextResume := fun h => nomatch h
theorem waitCounterCheck : Statement .waitCounterCheck := fun h => nomatch h
theorem teamPlacement : Statement .teamPlacement := fun h => nomatch h
theorem priorityAging : Statement .priorityAging := fun h => nomatch h
theorem sliceEnd : Statement .sliceEnd := fun h => nomatch h
theorem preemptionStop : Statement .preemptionStop := fun h => nomatch h
theorem contextSave : Statement .contextSave := fun h => nomatch h
theorem contextRestore : Statement .contextRestore := fun h => nomatch h
theorem teamKill : Statement .teamKill := fun h => nomatch h
theorem gridEnd : Statement .gridEnd := fun h => nomatch h
theorem holdRequest : Statement .holdRequest := fun h => nomatch h
theorem debugHalt : Statement .debugHalt := fun h => nomatch h
theorem debugResume : Statement .debugResume := fun h => nomatch h
theorem debugRdreg : Statement .debugRdreg := fun h => nomatch h
theorem debugWrreg : Statement .debugWrreg := fun h => nomatch h
theorem debugRdmem : Statement .debugRdmem := fun h => nomatch h
theorem debugWrmem : Statement .debugWrmem := fun h => nomatch h
theorem debugStep : Statement .debugStep := fun h => nomatch h
theorem debugSetbp : Statement .debugSetbp := fun h => nomatch h
theorem debugClrbp : Statement .debugClrbp := fun h => nomatch h
theorem debugList : Statement .debugList := fun h => nomatch h
theorem writePropagation : Statement .writePropagation := fun h => nomatch h
theorem cacheUncorrectableError : Statement .cacheUncorrectableError := fun h => nomatch h
theorem dieLoss : Statement .dieLoss := fun h => nomatch h
theorem directoryRebuildComplete : Statement .directoryRebuildComplete := fun h => nomatch h
theorem hostSnoop : Statement .hostSnoop := fun h => nomatch h
theorem hostMemoryAccess : Statement .hostMemoryAccess := fun h => nomatch h
theorem remoteRequestReceive : Statement .remoteRequestReceive := fun h => nomatch h
theorem remoteResponseReceive : Statement .remoteResponseReceive := fun h => nomatch h
theorem requestTimeout : Statement .requestTimeout := fun h => nomatch h
theorem sequenceGap : Statement .sequenceGap := fun h => nomatch h
theorem nackReceive : Statement .nackReceive := fun h => nomatch h
theorem flitReplay : Statement .flitReplay := fun h => nomatch h
theorem portDown : Statement .portDown := fun h => nomatch h
theorem planeRemap : Statement .planeRemap := fun h => nomatch h
theorem planeRecovery : Statement .planeRecovery := fun h => nomatch h
theorem portWidthChange : Statement .portWidthChange := fun h => nomatch h
theorem subscriptionPush : Statement .subscriptionPush := fun h => nomatch h
theorem spdmSession : Statement .spdmSession := fun h => nomatch h
theorem domainKeyLoad : Statement .domainKeyLoad := fun h => nomatch h
theorem memberMaskUpdate : Statement .memberMaskUpdate := fun h => nomatch h
theorem rekeyBarrierSend : Statement .rekeyBarrierSend := fun h => nomatch h
theorem rekeySwitch : Statement .rekeySwitch := fun h => nomatch h
theorem rekeyTimeout : Statement .rekeyTimeout := fun h => nomatch h
theorem collectiveComplete : Statement .collectiveComplete := fun h => nomatch h
theorem collectiveTimeout : Statement .collectiveTimeout := fun h => nomatch h
theorem powerSample : Statement .powerSample := fun h => nomatch h
theorem tarUpdate : Statement .tarUpdate := fun h => nomatch h
theorem thermalTrip : Statement .thermalTrip := fun h => nomatch h
theorem thermalShutdown : Statement .thermalShutdown := fun h => nomatch h
theorem coldReset : Statement .coldReset := fun h => nomatch h
theorem warmReset : Statement .warmReset := fun h => nomatch h
theorem hostLinkTrain : Statement .hostLinkTrain := fun h => nomatch h
theorem kill : Statement .kill := fun h => nomatch h
theorem healthCounterRead : Statement .healthCounterRead := fun h => nomatch h
theorem managementRegisterWrite : Statement .managementRegisterWrite := fun h => nomatch h
theorem coreFence : Statement .coreFence := fun h => nomatch h
theorem blockFence : Statement .blockFence := fun h => nomatch h
theorem ownerKeyAssign : Statement .ownerKeyAssign := fun h => nomatch h
theorem ownerKeyRelease : Statement .ownerKeyRelease := fun h => nomatch h
theorem writePerformed : Statement .writePerformed := fun h => nomatch h
theorem peerNumberAssignment : Statement .peerNumberAssignment := fun h => nomatch h

end Sys2Proof.Laws.Decodes
end

