-- ==== Sys2Proof/Tests/Slice0.lean ====
section
/-! SUPPORT. Tests: words of the specification that decode as it says, ill-formed terms, single steps, and for every obligation with
hypotheses a state and operands that meet them. -/

namespace Sys2Proof.Tests

open Machine

set_option Elab.async false

-- ## Words written out in the specification (the examples of each chapter's encodings)

/-- A word that stands alone, with E = 0 and W = 0. -/
def reads (w : Word) (i : Instr) : Bool := decide (decodeWords w none = .ok ⟨false, 0#3, i⟩)
/-- A prefix and the word that follows it. -/
def readsPair (x w : Word) (i : Instr) : Bool := decide (decodeWords x (some w) = .ok ⟨false, 0#3, i⟩)

theorem test_word_sub : reads 0x04204103#32 (.sub 1#7 2#7 3#7) = true := by decide
theorem test_word_addi : reads 0x0440C1FF#32 (.addi none 3#7 3#7 0x7F#7) = true := by decide
theorem test_word_andi : readsPair 0x0FE00001#32 0x064183FF#32 (.andi (some 1#21) 6#7 7#7 0x7F#7) = true := by decide
theorem test_word_wbase : reads 0x02600002#32 (.wbase 2#14) = true := by decide
theorem test_word_sget : reads 0x02810000#32 (.sget 4#7 0#7) = true := by decide
theorem test_word_fsqrt : reads 0x09418389#32 (.fsqrt 6#7 7#7) = true := by decide
theorem test_word_dot2b : reads 0x0AE2048A#32 (.dot2b 8#7 9#7 10#7) = true := by decide
theorem test_word_cvt : reads 0x0A210281#32 (.cvtF32Bf16 4#7 5#7) = true := by decide
theorem test_word_st : reads 0x0C214168#32 (.st none 5#7 2#7 6#3 2#2 0#2) = true := by decide
theorem test_word_aadd : reads 0x0C418167#32 (.aadd none 6#7 2#7 6#3 7#4) = true := by decide
theorem test_word_acas : readsPair 0x0FE80000#32 0x0D618168#32 (.acas (some 0x80000#21) 6#7 2#7 6#3 8#4) = true := by decide
theorem test_word_afadd : readsPair 0x0FF80000#32 0x0D800167#32 (.afadd (some 0x180000#21) 0#7 2#7 6#3 7#4) = true := by decide
theorem test_word_barTeam : reads 0x01400000#32 .barTeam = true := by decide
theorem test_word_spawn : reads 0x01E18104#32 (.spawn 6#7 2#7 4#7) = true := by decide
theorem test_word_rld : reads 0x03C20106#32 (.rld 8#7 2#7 6#7) = true := by decide
theorem test_word_rst : reads 0x03E20106#32 (.rst 8#7 2#7 6#7) = true := by decide
theorem test_word_ratom : readsPair 0x0FE00009#32 0x0A020106#32 (.ratom (some 9#21) 8#7 2#7 6#7) = true := by decide
theorem test_word_rsubs : reads 0x09E18100#32 (.rsubs 6#7 2#7) = true := by decide
theorem test_word_coll : reads 0x09250900#32 (.collStart 20#7 18#7) = true := by decide
theorem test_word_mma : reads 0x0F230A40#32 (.mma none 12#7 20#7 64#7) = true := by decide
theorem test_word_mmaAdv : readsPair 0x0FE00002#32 0x0F2A0540#32 (.mma (some 2#21) 40#7 10#7 64#7) = true := by decide
theorem test_word_gangCur : reads 0x0F000C01#32 (.gangCur 24#7) = true := by decide
theorem test_word_accStn : reads 0x0F479407#32 (.accStn none 30#7 40#7) = true := by decide

-- ## A group that is about to issue

/-- The group of the tests and its path: user mode, offset 0, all lanes. -/
def k0 : GKey := ⟨0, 0, 0⟩
def p0 : Path := ⟨0#32, 0xFFFFFFFF#32, 0#32⟩
def g0 : Group := { wsize := 128, cur := some p0 }
/-- The machine after reset, with a team of one group that runs a NOP in an identity-mapped space. -/
def demo : State := State.reset.withFetchWord 32 0
/-- The same with another group in its place. -/
def demoOf (g : Group) : State := demo.setGroup k0 g

theorem issuing_demoOf (g : Group) (p : Path) (h : g.cur = some p) : Issuing (demoOf g) k0 g p := ⟨rfl, rfl, h⟩

theorem ready_free (s : State) (k : GKey) (g : Group) (p : Path) (names reads : List Nat) (hp : g.pend = []) (hw : ∀ r ∈ names, g.wbasev + r < g.wsize) :
    Ready s k g p names reads :=
  ⟨by simp [Group.waits, hp], hw, fun _ => by simp [Group.early, hp]⟩

theorem ready_demoOf (g : Group) (p : Path) (names reads : List Nat) (hp : g.pend = []) (hw : ∀ r ∈ names, g.wbasev + r < g.wsize) :
    Ready (demoOf g) k0 g p names reads := ready_free _ _ _ _ _ _ hp hw

theorem ready0 (names reads : List Nat) (hw : ∀ r ∈ names, r < 128) : Ready (demoOf g0) k0 g0 p0 names reads :=
  ready_demoOf g0 p0 names reads rfl (by simpa [g0] using hw)

/-- The group in a privileged mode. -/
def g1 : Group := { g0 with mode := .supervisor }
def g2 : Group := { g0 with mode := .hypervisor }
theorem ready1 (names reads : List Nat) (hw : ∀ r ∈ names, r < 128) : Ready (demoOf g1) k0 g1 p0 names reads :=
  ready_demoOf g1 p0 names reads rfl (by simpa [g1, g0] using hw)
theorem ready2 (names reads : List Nat) (hw : ∀ r ∈ names, r < 128) : Ready (demoOf g2) k0 g2 p0 names reads :=
  ready_demoOf g2 p0 names reads rfl (by simpa [g2, g0] using hw)
theorem issuing0 : Issuing (demoOf g0) k0 g0 p0 := issuing_demoOf g0 p0 rfl
theorem issuing1 : Issuing (demoOf g1) k0 g1 p0 := issuing_demoOf g1 p0 rfl
theorem issuing2 : Issuing (demoOf g2) k0 g2 p0 := issuing_demoOf g2 p0 rfl

-- ## Integer and floating instructions

theorem witness_IntegerResults : Issuing (demoOf g0) k0 g0 p0 ∧ Ready (demoOf g0) k0 g0 p0 [0, 126, 127] [126, 127] ∧
    Ready (demoOf g0) k0 g0 p0 [0, 126, 127] [0, 126, 127] := ⟨issuing0, ready0 _ _ (by decide), ready0 _ _ (by decide)⟩
theorem witness_UnaryAndImmediateResults : Issuing (demoOf g0) k0 g0 p0 ∧ Ready (demoOf g0) k0 g0 p0 [127, 0] [0] ∧
    Ready (demoOf g0) k0 g0 p0 [127] [127] ∧ Ready (demoOf g0) k0 g0 p0 [127] [] :=
  ⟨issuing0, ready0 _ _ (by decide), ready0 _ _ (by decide), ready0 _ _ (by decide)⟩
theorem witness_PairResults : Issuing (demoOf g0) k0 g0 p0 ∧ Ready (demoOf g0) k0 g0 p0 [126, 127, 0, 1, 2, 3] [0, 1, 2, 3] :=
  ⟨issuing0, ready0 _ _ (by decide)⟩
/-- The least and the greatest base that fit, one that does not, and lanes that differ. -/
theorem witness_WindowBaseAndFmt : Issuing (demoOf g0) k0 g0 p0 ∧ (0 ≤ (0#14).toInt * 8 ∧ (0#14).toInt * 8 ≤ (g0.wsize : Int) - 8) ∧
    (15#14).toInt * 8 = (g0.wsize : Int) - 8 ∧ ¬ (16#14).toInt * 8 ≤ (g0.wsize : Int) - 8 ∧ Ready (demoOf g0) k0 g0 p0 [0] [0] ∧ Uniform g0 p0 [0] :=
  ⟨issuing0, by decide, by decide, by decide, ready0 _ _ (by decide), by unfold Uniform; decide⟩
def gLanes : Group := { g0 with regs := [(0, ⟨lanesOf fun L => BitVec.ofNat 32 L.val, false⟩)] }
theorem witness_WindowBaseAndFmt_lanes : Issuing (demoOf gLanes) k0 gLanes p0 ∧ Ready (demoOf gLanes) k0 gLanes p0 [0] [0] ∧ ¬ Uniform gLanes p0 [0] :=
  ⟨issuing_demoOf _ _ rfl, ready_demoOf _ _ _ _ rfl (by decide), by unfold Uniform; decide⟩
theorem witness_VotesShufflesAndNop_shuffles : Issuing (demoOf gLanes) k0 gLanes p0 ∧ Ready (demoOf gLanes) k0 gLanes p0 [1, 0, 127] [0, 127] :=
  ⟨issuing_demoOf _ _ rfl, ready_demoOf _ _ _ _ rfl (by decide)⟩
theorem witness_FloatArithmeticResults : Issuing (demoOf g0) k0 g0 p0 ∧ Ready (demoOf g0) k0 g0 p0 [127, 1, 2] [1, 2] ∧
    Ready (demoOf g0) k0 g0 p0 [127, 1, 2] [127, 1, 2] := ⟨issuing0, ready0 _ _ (by decide), ready0 _ _ (by decide)⟩
/-- A number and a NaN, two NaNs, two numbers in order, and a number that is no NaN. -/
theorem witness_FloatChoicesAndClasses : (f32 0#32).isNan = false ∧ (f32 0x7FC00000#32).isNan = true ∧
    orderKey 0xBF800000#32 < orderKey 0x3F800000#32 := by decide
theorem witness_OneSourceFloatResults : Issuing (demoOf g0) k0 g0 p0 ∧ Ready (demoOf g0) k0 g0 p0 [127, 1] [1] := ⟨issuing0, ready0 _ _ (by decide)⟩
theorem witness_SpecialFunctionResults : (f32 0x7F800001#32).isNan = true ∧ (0xFF800000#32).msb = true ∧ (0xFF800000#32).toNat % 2 ^ 31 = 0x7F800000 ∧
    (0x3F800000#32).msb = false ∧ (0x3F800000#32).toNat % 2 ^ 31 = 0x3F800000 := by decide
theorem witness_SpecialFunctionsAndDotProducts : Issuing (demoOf g0) k0 g0 p0 ∧ Ready (demoOf g0) k0 g0 p0 [127, 1] [1] ∧
    Ready (demoOf g0) k0 g0 p0 [127, 1, 2] [127, 1, 2] := ⟨issuing0, ready0 _ _ (by decide), ready0 _ _ (by decide)⟩
theorem witness_ConversionResults : Issuing (demoOf g0) k0 g0 p0 ∧ p0.fmt.toNat / 2 ^ 22 = 0 ∧ Ready (demoOf g0) k0 g0 p0 [127, 1] [1] ∧
    Ready (demoOf g0) k0 g0 p0 [127, 1, 2] [1, 2] ∧ Ready (demoOf g0) k0 g0 p0 [126, 127, 1] [1] ∧
    Ready (demoOf g0) k0 g0 p0 [127, 1, 2] [127, 1, 2] ∧ p0.fmt.toNat % 16 ≤ 10 :=
  ⟨issuing0, by decide, ready0 _ _ (by decide), ready0 _ _ (by decide), ready0 _ _ (by decide), ready0 _ _ (by decide), by decide⟩

-- ## Special registers

/-- A load on its way, and a result on its way that raises NV. -/
def gWaits : Group := { g0 with
  pend := [{ reg := 5, mask := 1#32, vals := uniformLanes 0#32, left := none },
    { reg := 6, mask := 1#32, vals := uniformLanes 0#32, flags := uniformLanes 1#5, left := some 3 }] }
theorem ready_gWaits (names : List Nat) (hw : ∀ r ∈ names, r < 128) : Ready (demoOf gWaits) k0 gWaits p0 names [] :=
  ⟨by decide, by simpa [gWaits, g0] using hw, fun h => absurd h (by decide)⟩
theorem witness_SpecialRegisterReads : Issuing (demoOf g0) k0 g0 p0 ∧ isSpecial 0 = true ∧ specialRefused g0.mode 0 = false ∧ isSpecial 0x1B = true ∧
    specialRefused g0.mode 0x1B = false ∧ isSpecial 0x6D = true ∧ specialRefused g2.mode 0x6D = false ∧ Ready (demoOf g0) k0 g0 p0 [127] [] ∧
    Issuing (demoOf g2) k0 g2 p0 ∧ Ready (demoOf g2) k0 g2 p0 [127] [] :=
  ⟨issuing0, by decide, by decide, by decide, by decide, by decide, by decide, ready0 _ _ (by decide), issuing2, ready2 _ _ (by decide)⟩
theorem witness_SpecialRegisterReads_sampled : Issuing (demoOf g0) k0 g0 p0 ∧ Ready (demoOf g0) k0 g0 p0 [127] [] ∧ g0.pend = [] ∧ (demoOf g0).requests = [] ∧
    Issuing (demoOf gWaits) k0 gWaits p0 ∧ Ready (demoOf gWaits) k0 gWaits p0 [127] [] ∧
    (∃ q ∈ gWaits.pend, q.left = none ∧ q.await = none ∧ q.mask &&& p0.ex ≠ 0#32) ∧ ∃ q ∈ gWaits.pend, q.raises = true :=
  ⟨issuing0, ready0 _ _ (by decide), rfl, rfl, issuing_demoOf _ _ rfl, ready_gWaits _ (by decide), by decide, by decide⟩
theorem witness_SpecialRegisterWrites : Issuing (demoOf g1) k0 g1 p0 ∧ Ready (demoOf g1) k0 g1 p0 [127] [127] ∧ Uniform g1 p0 [127] ∧ g1.mode ≠ .user ∧
    Issuing (demoOf g2) k0 g2 p0 ∧ Ready (demoOf g2) k0 g2 p0 [0] [0] ∧ Uniform g2 p0 [0] ∧ g2.mode = .hypervisor :=
  ⟨issuing1, ready1 _ _ (by decide), by unfold Uniform; decide, by decide, issuing2, ready2 _ _ (by decide), by unfold Uniform; decide, rfl⟩
/-- The first and the last number of each range. -/
theorem witness_SpecialRegisterChecksAndSteps : Issuing (demoOf g0) k0 g0 p0 ∧ g0.waits [127] p0.ex = false ∧
    (∀ n ∈ [0x1C, 0x3F, 0x4C, 0x5F, 0x65, 0x67, 0x6E, 0x7F], isSpecial n = false) ∧ (∀ n ∈ [0x40, 0x4B, 0x60, 0x64, 0x68, 0x6D], isSpecial n = true) ∧
    g0.mode = .user ∧ Issuing (demoOf g1) k0 g1 p0 ∧ g1.mode = .supervisor ∧ kfind (demoOf g0).groups (demoOf g0).ev.key = some g0 ∧
    Issuing (demoOf gLanes) k0 gLanes p0 ∧ Ready (demoOf gLanes) k0 gLanes p0 [0] [0] ∧ ¬ Uniform gLanes p0 [0] ∧
    (∀ n ∈ [0x01, 0x1B], isSpecial n = true ∧ specialRefused gLanes.mode n = false) :=
  ⟨issuing0, rfl, by decide, by decide, rfl, issuing1, rfl, rfl, issuing_demoOf _ _ rfl, ready_demoOf _ _ _ _ rfl (by decide), by unfold Uniform; decide,
    by decide⟩

-- ## Control flow and traps

theorem witness_VotesShufflesAndNop : Issuing (demoOf gLanes) k0 gLanes p0 ∧ Ready (demoOf gLanes) k0 gLanes p0 [127, 0] [0] :=
  ⟨issuing_demoOf _ _ rfl, ready_demoOf _ _ _ _ rfl (by decide)⟩
/-- A stack with one entry free, and a full one. -/
def gDeep (n : Nat) : Group := { gLanes with stack := List.replicate n ⟨.mark, 64#32, 0xFFFFFFFF#32, 0#32⟩ }
/-- Lanes that jump to two targets, and each lane to one of its own. -/
def gJump (n : Nat) : Group := { g0 with regs := [(0, ⟨lanesOf fun L => BitVec.ofNat 32 (4 * (L.val / n)), false⟩)] }
theorem ready_any (g : Group) (hg : g.pend = []) (hw : g.wbasev = 0) (hs : g.wsize = 128) (names reads : List Nat) (h : ∀ r ∈ names, r < 128) :
    Ready (demoOf g) k0 g p0 names reads := ready_demoOf g p0 names reads hg (by simpa [hw, hs] using h)
/-- No lane, every lane and some lanes take the branch, with the stack almost full and full; targets that are misaligned, one, two and 32. -/
theorem witness_BranchesAndJumps : Issuing (demoOf g0) k0 g0 p0 ∧ p0.ex ≠ 0#32 ∧ Ready (demoOf g0) k0 g0 p0 [127] [127] ∧ g0.seen 127 0 = 0#32 ∧
    (∀ n ∈ [23, 24], Issuing (demoOf (gDeep n)) k0 (gDeep n) p0 ∧ Ready (demoOf (gDeep n)) k0 (gDeep n) p0 [0] [0] ∧ (gDeep n).used = n) ∧
    lanesMask ((maskLanes p0.ex).filter fun L => decide (gLanes.seen 0 L = 0#32)) = 1#32 ∧
    (maskLanes p0.ex).filter (fun L => decide ((gLanes.seen 0 L).toNat % 4 ≠ 0)) ≠ [] ∧
    (∀ n ∈ [1, 16, 32], Issuing (demoOf (gJump n)) k0 (gJump n) p0 ∧ Ready (demoOf (gJump n)) k0 (gJump n) p0 [127, 0] [0] ∧
      (maskLanes p0.ex).filter (fun L => decide (((gJump n).seen 0 L).toNat % 4 ≠ 0)) = [] ∧
      (rising ((maskLanes p0.ex).map fun L => ((gJump n).seen 0 L).toNat)).length = 32 / n) := by
  refine ⟨issuing0, by decide, ready0 _ _ (by decide), by decide, fun n hn => ⟨issuing_demoOf _ _ rfl, ready_any _ rfl rfl rfl _ _ (by decide), ?_⟩, by decide,
    by decide, fun n hn => ⟨issuing_demoOf _ _ rfl, ready_any _ rfl rfl rfl _ _ (by decide), ?_⟩⟩
  · revert n; decide
  · revert n; decide
/-- A group inside a mark with its rejoin at `pc`, in which `lanes` set out; `joined` waits there, and `others` wait their turn. -/
def gMark (pc lanes joined others : Word) : Group := { g0 with
  stack := ⟨.mark, pc, lanes, 0#32⟩ :: ((if joined = 0#32 then [] else [⟨.path .joined, pc, joined, 0#32⟩]) ++
    if others = 0#32 then [] else [⟨.path .ready, 8#32, others, 0#32⟩]) }
def gHalf (joined others : Word) : Group := { gMark 0#32 0xFFFFFFFF#32 joined others with cur := some ⟨0#32, 0xFF#32, 0#32⟩ }
/-- No mark, a JOIN elsewhere, the last lanes, the first lanes, and lanes after others; and groups that end, and that go on. -/
theorem witness_MarksJoinsAndExits : Issuing (demoOf g0) k0 g0 p0 ∧ g0.used < 24 ∧ innermostMark g0.stack = none ∧
    Issuing (demoOf (gDeep 24)) k0 (gDeep 24) p0 ∧ 24 ≤ (gDeep 24).used ∧
    (let g := gMark 4#32 0xFFFFFFFF#32 0#32 0#32
     Issuing (demoOf g) k0 g p0 ∧ innermostMark g.stack = some 0) ∧
    (let g := gMark 0#32 0xFFFFFFFF#32 0#32 0#32
     Issuing (demoOf g) k0 g p0 ∧ innermostMark g.stack = some 0 ∧ p0.ex ||| joinedMask g.stack = 0xFFFFFFFF#32) ∧
    (let g := gHalf 0#32 0xFFFFFF00#32
     Issuing (demoOf g) k0 g ⟨0#32, 0xFF#32, 0#32⟩ ∧ innermostMark g.stack = some 0 ∧ 0xFF#32 ||| joinedMask g.stack ≠ 0xFFFFFFFF#32 ∧ g.used < 24 ∧
       ∀ e ∈ g.stack.drop (frameBase g.stack), e.isJoined = false) ∧
    (let g := gHalf 0xFF00#32 0xFFFF0000#32
     Issuing (demoOf g) k0 g ⟨0#32, 0xFF#32, 0#32⟩ ∧ 0xFF#32 ||| joinedMask g.stack ≠ 0xFFFFFFFF#32 ∧ frameBase g.stack ≤ 1 ∧
       ∃ e, g.stack[1]? = some e ∧ e.isJoined = true) ∧
    g0.tasks &&& p0.ex = 0#32 ∧ g0.pfail = [] ∧ (g0.exitLanes p0.ex).live = 0#32 ∧ ((gHalf 0#32 0xFFFFFF00#32).exitLanes 0xFF#32).live ≠ 0#32 :=
  ⟨issuing0, by decide, by decide, issuing_demoOf _ _ rfl, by decide, ⟨issuing_demoOf _ _ rfl, by decide⟩, ⟨issuing_demoOf _ _ rfl, by decide⟩,
    ⟨issuing_demoOf _ _ rfl, by decide⟩, ⟨issuing_demoOf _ _ rfl, by decide⟩, by decide, rfl, by decide, by decide⟩
/-- From user mode into supervisor mode, and from a privileged mode into hypervisor mode, with room for one open trap more. -/
def gTraps (n : Nat) : Group := { g1 with stack := List.replicate n ⟨.trap .supervisor 0#32, 8#32, 0xFFFFFFFF#32, 0#32⟩ }
theorem witness_CallsEnterTheirHandler : Issuing (demoOf g0) k0 g0 p0 ∧ g0.openInto .supervisor < 4 ∧ (g0.bank .supervisor).tvec.toNat % 4 = 0 ∧
    Issuing (demoOf (gTraps 3)) k0 (gTraps 3) p0 ∧ (gTraps 3).mode ≠ .user ∧ (gTraps 3).openInto .supervisor = 3 ∧ (gTraps 3).openInto .hypervisor < 4 ∧
    ((gTraps 3).bank .hypervisor).tvec.toNat % 4 = 0 :=
  ⟨issuing0, by decide, by decide, issuing_demoOf _ _ rfl, by decide, by decide, by decide, by decide⟩
/-- User mode without a trap entry and above one; a trap entry that leads back to user mode. -/
def gAbove : Group := { g0 with stack := [⟨.trap .user 0#32, 8#32, 0xFFFFFFFF#32, 0#32⟩, ⟨.mark, 8#32, 1#32, 0#32⟩] }
def gBack : Group := { g1 with stack := [⟨.mark, 8#32, 1#32, 0#32⟩, ⟨.trap .user 0#32, 0#32, 0xFFFFFFFF#32, 0#32⟩] }
theorem witness_PrivilegeTrapReturnsAndFlags : Issuing (demoOf g0) k0 g0 p0 ∧ g0.mode = .user ∧ g0.aboveTrap = false ∧ Issuing (demoOf gAbove) k0 gAbove p0 ∧
    gAbove.mode = .user ∧ gAbove.aboveTrap = true ∧ Issuing (demoOf gBack) k0 gBack p0 ∧ gBack.mode ≠ .user ∧
    gBack.stack.getLast? = some ⟨.trap .user 0#32, 0#32, 0xFFFFFFFF#32, 0#32⟩ ∧
    ((demoOf gBack).view k0 gBack p0 none).s.fetchWord k0 .user 0#32 = .ok 0#32 :=
  ⟨issuing0, rfl, by decide, issuing_demoOf _ _ rfl, rfl, by decide, issuing_demoOf _ _ rfl, by decide, by decide, by decide⟩
def gFlags : Group := { g0 with aflags := uniformLanes 3#5, aen := lanesOf fun L => if L.val = 31 then 1#5 else 0#5 }
theorem witness_PrivilegeTrapReturnsAndFlags_fence : Issuing (demoOf g0) k0 g0 p0 ∧ g0.pend = [] ∧ (demoOf g0).requests = [] ∧
    (maskLanes p0.ex).filter (fun L => decide (g0.aflags[L] &&& g0.aen[L] ≠ 0#5)) = [] ∧ Issuing (demoOf gFlags) k0 gFlags p0 ∧
    (maskLanes p0.ex).filter (fun L => decide (gFlags.aflags[L] &&& gFlags.aen[L] ≠ 0#5)) = [31] ∧
    Issuing (demoOf g1) k0 g1 p0 ∧ g1.mode ≠ .user ∧ g1.quantum ≠ 1023 :=
  ⟨issuing0, rfl, rfl, by decide, issuing_demoOf _ _ rfl, by decide, issuing1, by decide, by decide⟩

-- ## Global memory

/-- Every lane at one address, in a pair that starts at register 2. -/
def gAt (a : DWord) : Group := { g0 with regs := [(2, ⟨uniformLanes (loWord a), true⟩), (3, ⟨uniformLanes (hiWord a), true⟩)] }
/-- A lane's own line of memory. -/
def gOwn : Group := { g0 with regs := [(2, ⟨lanesOf fun L => BitVec.ofNat 32 (0x300000 + 128 * L.val), false⟩)] }
/-- The machine with a second table entry that marks the 64 GiB above the first as absent, for residency requests. -/
def demoAbsent (g : Group) : State := { demoOf g with mem := cellWrite (demoOf g).mem (standInRoot + 0x10000 + 8) (bytesOf 8 0x7F) }
theorem witness_LoadsReturnMemory : Issuing (demoOf gOwn) k0 gOwn p0 ∧ Ready (demoOf gOwn) k0 gOwn p0 [2, 3, 126, 127] [2, 3] ∧
    (∀ L : Fin 32, (demoOf gOwn).finds k0 gOwn 2 0#64 8 .read L = .ok ⟨0x300000 + 128 * L.val, false, 0⟩) ∧
    Issuing (demoAbsent (gAt 0x1000000000#64)) k0 (gAt 0x1000000000#64) p0 ∧
    Ready (demoAbsent (gAt 0x1000000000#64)) k0 (gAt 0x1000000000#64) p0 [2, 3, 127] [2, 3] ∧
    (∀ L : Fin 32, (demoAbsent (gAt 0x1000000000#64)).finds k0 (gAt 0x1000000000#64) 2 0#64 4 .read L = .absent 1) ∧
    Unheld (demoOf gOwn) gOwn ∧ Unheld (demoAbsent (gAt 0x1000000000#64)) (gAt 0x1000000000#64) :=
  ⟨issuing_demoOf _ _ rfl, ready_any _ rfl rfl rfl _ _ (by decide), by decide, ⟨rfl, rfl, rfl⟩, ready_free _ _ _ _ _ _ rfl (by decide), by decide,
    ⟨rfl, rfl⟩, ⟨rfl, rfl⟩⟩
/-- The frame that the stand-in space gives for an address. -/
def frameAt (a : Nat) : Frame := ⟨a, false, 0⟩
theorem witness_StoresWriteMemory : Issuing (demoOf gOwn) k0 gOwn p0 ∧ Ready (demoOf gOwn) k0 gOwn p0 [2, 3, 127] [2, 3, 127] ∧
    ((∀ L : Fin 32, (demoOf gOwn).finds k0 gOwn 2 0#64 4 .write L = .ok (frameAt (0x300000 + 128 * L.val)) ∧
      (demoOf gOwn).wrongKey (0x300000 + 128 * L.val) 0 = false) ∧ ∀ L : Fin 32, lastLane p0.ex (fun L => frameAt (0x300000 + 128 * L.val)) L = true) ∧
    ((∀ L : Fin 32, (demoOf g0).finds k0 g0 2 0#64 4 .write L = .ok (frameAt 0) ∧ (demoOf g0).wrongKey 0 0 = false) ∧
      (maskLanes p0.ex).filter (lastLane p0.ex fun _ => frameAt 0) = [31]) ∧ Unheld (demoOf gOwn) gOwn :=
  ⟨issuing_demoOf _ _ rfl, ready_any _ rfl rfl rfl _ _ (by decide), by decide, by decide, ⟨rfl, rfl⟩⟩
theorem witness_AtomicsReadModifyWrite : Issuing (demoOf g0) k0 g0 p0 ∧ Ready (demoOf g0) k0 g0 p0 [2, 3, 14, 15, 126, 127] [2, 3, 14, 15, 126, 127] ∧
    Ready (demoOf g0) k0 g0 p0 [2, 3, 15] [2, 3, 15] ∧
    (∀ L : Fin 32, (demoOf g0).finds k0 g0 2 0#64 8 .both L = .ok (frameAt 0) ∧ (demoOf g0).wrongKey 0 0 = false) ∧
    laneBefore p0.ex (fun _ => frameAt 0) 0 = none ∧ laneBefore p0.ex (fun _ => frameAt 0) 31 = some 30 ∧ Unheld (demoOf g0) g0 :=
  ⟨issuing0, ready0 _ _ (by decide), ready0 _ _ (by decide), by decide, by decide, by decide, ⟨rfl, rfl⟩⟩
/-- Every lane outside the address space; the first lanes misaligned and the others outside it, of which lane 0 is the lowest with the first check. -/
theorem witness_FailedAccessesTrap : Issuing (demoOf (gAt 0x200000000000000#64)) k0 (gAt 0x200000000000000#64) p0 ∧
    Ready (demoOf (gAt 0x200000000000000#64)) k0 (gAt 0x200000000000000#64) p0 [2, 3, 127] [2, 3, 127] ∧
    (∀ L : Fin 32, (demoOf (gAt 0x200000000000000#64)).finds k0 (gAt 0x200000000000000#64) 2 0#64 4 .write L = .bad 1 .pageInvalid) ∧
    (∀ L : Fin 32, (demoOf (gAt 2#64)).finds k0 (gAt 2#64) 2 0#64 4 .read L = .bad 2 .align) ∧
    Issuing (demoOf (gAt 2#64)) k0 (gAt 2#64) p0 ∧ Ready (demoOf (gAt 2#64)) k0 (gAt 2#64) p0 [2, 3, 127] [2, 3] ∧
    Unheld (demoOf (gAt 0x200000000000000#64)) (gAt 0x200000000000000#64) ∧ Unheld (demoOf (gAt 2#64)) (gAt 2#64) :=
  ⟨issuing_demoOf _ _ rfl, ready_any _ rfl rfl rfl _ _ (by decide), by decide, by decide, issuing_demoOf _ _ rfl, ready_any _ rfl rfl rfl _ _ (by decide),
    ⟨rfl, rfl⟩, ⟨rfl, rfl⟩⟩
/-- A fence of each kind that waits for nothing, one that waits for a directory, and a group that three of them hold. -/
def demoRebuild (g : Group) : State := { demoOf g with rebuild := [0] }
def gFenced : Group := { g0 with fences := [⟨1, 2⟩, ⟨2, 6⟩, ⟨3, 6⟩] }
theorem witness_FencesAndTouch : Issuing (demoOf g0) k0 g0 p0 ∧ g0.pfail = [] ∧ (∀ n ∈ [1, 2, 3, 4], (demoOf g0).fenceReady 0 g0 ⟨n, 7⟩ = true) ∧
    Issuing (demoRebuild g0) k0 g0 p0 ∧ (∀ n ∈ [1, 2, 3, 4], (demoRebuild g0).fenceReady 0 g0 ⟨n, 6⟩ = false) ∧
    Issuing (demoRebuild gFenced) k0 gFenced p0 ∧ (∃ f ∈ gFenced.fences, f.kind = 3 ∧ (demoRebuild gFenced).fenceReady 0 gFenced f = false) ∧
    (∃ f ∈ gFenced.fences, f.kind = 2 ∧ (demoRebuild gFenced).fenceReady 0 gFenced f = false) ∧
    Ready (demoRebuild gFenced) k0 gFenced p0 [2, 3, 127] [2, 3] ∧ Ready (demoRebuild gFenced) k0 gFenced p0 [2, 3, 127] [2, 3, 127] ∧
    Issuing (demoAbsent (gAt 0x1000000000#64)) k0 (gAt 0x1000000000#64) p0 ∧
    Ready (demoAbsent (gAt 0x1000000000#64)) k0 (gAt 0x1000000000#64) p0 [127, 2, 3] [2, 3] ∧
    (demoAbsent (gAt 0x1000000000#64)).translate 0 (((demoAbsent (gAt 0x1000000000#64)).team k0.tkey).space .user) 0x1000000000 .read = .absent 1 :=
  ⟨issuing0, rfl, by decide, ⟨rfl, rfl, rfl⟩, by decide, ⟨rfl, rfl, rfl⟩, by decide, by decide, ready_free _ _ _ _ _ _ rfl (by decide),
    ready_free _ _ _ _ _ _ rfl (by decide), ⟨rfl, rfl, rfl⟩, ready_free _ _ _ _ _ _ rfl (by decide), by decide⟩

-- ## Near memory and the beam

/-- The team of the tests with a scratchpad row, a column unit and the beam, and its machine. -/
def x0 : Team := { ptb := 0x100000#64, spRows := 1, colUnits := 1 }
def demoTeam (x : Team) (g : Group) : State := (demoOf g).setTeam k0.tkey x
/-- The column address of its allotment. -/
def gColumn : Group := { g0 with regs := [(2, ⟨uniformLanes 0x400000#32, true⟩)] }
theorem witness_NearLoadsAndStores : Issuing (demoTeam x0 g0) k0 g0 p0 ∧ Ready (demoTeam x0 g0) k0 g0 p0 [2, 127] [2, 127] ∧
    ((∀ L : Fin 32, (g0.seen 2 L).toNat % 4 = 0 ∧ (demoTeam x0 g0).nearDecode k0.tkey .user (g0.seen 2 L).toNat 4 = some (.spad k0.tkey 0)) ∧
      (demoTeam x0 g0).nearPoisoned (.spad k0.tkey 0) 4 = false ∧ (demoTeam x0 g0).nearStalled (.spad k0.tkey 0) = false ∧
      (demoTeam x0 g0).hasPlace (.spad k0.tkey 0) = true) ∧
    Issuing (demoTeam x0 gColumn) k0 gColumn p0 ∧
    ((∀ L : Fin 32, (demoTeam x0 gColumn).nearDecode k0.tkey .user (gColumn.seen 2 L).toNat 16 = some (.column 0 0)) ∧
      (demoTeam x0 gColumn).nearPoisoned (.column 0 0) 16 = false ∧ (demoTeam x0 gColumn).nearStalled (.column 0 0) = false) ∧
    lastPlace p0.ex (fun _ => .column 0 0) 31 = true :=
  ⟨⟨rfl, rfl, rfl⟩, ready_free _ _ _ _ _ _ rfl (by decide), by decide, ⟨rfl, rfl, rfl⟩, by decide, by decide⟩
theorem witness_NearAtomicsReadModifyWrite : Issuing (demoTeam x0 g0) k0 g0 p0 ∧ Ready (demoTeam x0 g0) k0 g0 p0 [2, 14, 15, 126, 127] [2, 14, 15] ∧
    (∀ L : Fin 32, (g0.seen 2 L).toNat % 8 = 0 ∧ (demoTeam x0 g0).nearDecode k0.tkey .user (g0.seen 2 L).toNat 8 = some (.spad k0.tkey 0)) ∧
    placeBefore p0.ex (fun _ => .spad k0.tkey 0) 0 = none ∧ placeBefore p0.ex (fun _ => .spad k0.tkey 0) 31 = some 30 :=
  ⟨⟨rfl, rfl, rfl⟩, ready_free _ _ _ _ _ _ rfl (by decide), by decide, by decide, by decide⟩
/-- A step of 128 bytes of a ring of one team, issued, started, and after the team's end. -/
def gRing : Group := { g0 with regs := [(2, ⟨uniformLanes 0#32, true⟩), (3, ⟨uniformLanes 896#32, true⟩), (4, ⟨uniformLanes 128#32, true⟩)] }
def ring0 (sent : Option (List Byte × List Nat)) : RingStep := ⟨k0.tkey, 0#32, 0, 896, 128, k0, 0, sent⟩
def demoRing (sent : Option (List Byte × List Nat)) : State := { demoTeam x0 g0 with rings := [ring0 sent] }
def demoRingEnded : State := { demoOf g0 with
  teams := [], rings := [], grids := kput (demoOf g0).grids 0 { (demoOf g0).grid 0 with ended := [0], ringEnd := [(0, 0#32)] } }
theorem witness_RingStepsMoveBytes : Issuing (demoTeam x0 gRing) k0 gRing p0 ∧ Ready (demoTeam x0 gRing) k0 gRing p0 [127, 4, 2, 3] [4, 2, 3] ∧
    kfind (demoTeam x0 gRing).teams k0.tkey = some x0 ∧ 896 + (gRing.seen 4 0).toNat ≤ 1024 * x0.spRows ∧
    ((demoRing none).clusterTeams k0.tkey = [k0.tkey] ∧ (demoRing none).isResident k0.tkey = true ∧ ring0 none ∈ (demoRing none).rings) ∧
    (demoRing (some (List.replicate 128 0#8, []))).ringSteps k0.tkey 0 = [some (ring0 (some (List.replicate 128 0#8, [])))] ∧
    (demoRingEnded.clusterTeams k0.tkey = [k0.tkey] ∧ demoRingEnded.isResident k0.tkey = false ∧ demoRingEnded.hasEnded k0.tkey = true ∧
      ((kfind (demoRingEnded.grid 0).ringEnd 0).getD 0#32).toNat ≤ demoRingEnded.ev.n) :=
  ⟨⟨rfl, rfl, rfl⟩, ready_free _ _ _ _ _ _ rfl (by decide), rfl, by decide, by decide, by decide, by decide⟩
/-- A team that holds the beam with a holder at its twin, and an entry in its FIFO; one without a holder there; one without a credit. -/
def demoBeam (twin : Bool) (q : Part) : State :=
  let s := demoTeam x0 g0
  { s with
    grids := kput s.grids 0 { s.grid 0 with lr := { (s.grid 0).lr with beam := true, teamsm1 := 1#32 } }
    teams := s.teams ++ if twin then [(⟨0, 1⟩, { core := 256 })] else []
    parts := kput s.parts 0 q }
def full0 : Part := { credits := 0 }
def entry0 : Part := { fifo := [uniformLanes 7#32], transit := [uniformLanes 8#32], returning := 1 }
theorem witness_BeamTransfers : (∀ s ∈ [demoBeam true entry0, demoBeam false entry0, demoBeam true full0], Issuing s k0 g0 p0 ∧
      Ready s k0 g0 p0 [127, 0] [0] ∧ (s.record k0.tkey).beam = true ∧ s.realigning 0 = false) ∧
    ((demoBeam true entry0).noHolder 0 = false ∧ (demoBeam true entry0).twinGated 0 = false ∧ ((demoBeam true entry0).part 0 0).credits = 16) ∧
    (demoBeam false entry0).noHolder 0 = true ∧ ((demoBeam true full0).part 0 0).credits = 0 ∧ ((demoBeam true full0).part 0 0).fifo = [] ∧
    ((demoBeam true entry0).part 0 0).fifo = [uniformLanes 7#32] ∧ isUpper 0 = false ∧ ((demoOf g0).record k0.tkey).beam = false := by
  refine ⟨fun s hs => ?_, by decide, by decide, by decide, by decide, by decide, by decide, by decide⟩
  have h : kfind s.groups k0 = some g0 ∧ s.focus = some k0 ∧ (s.record k0.tkey).beam = true ∧ s.realigning 0 = false := by revert s; decide
  exact ⟨⟨h.2.1, h.1, rfl⟩, ready_free _ _ _ _ _ _ rfl (by decide), h.2.2⟩
/-- Entries that arrive with and without a holder; a pair at each point of a realignment; upper decks with and without teams; gated; temperatures. -/
def demoPair (r : Realign) : State := { demoBeam true entry0 with pairs := [(0, { realign := r })], ev := { k := 1, n := 83 } }
theorem witness_BeamSteps : ((demoBeam true entry0).part 0 0).transit = [uniformLanes 8#32] ∧ (demoBeam true entry0).realigning 0 = false ∧
    (demoBeam true entry0).hasBeamTeam 0 = true ∧ ((demoOf g0).modPart 0 0 fun _ => entry0).hasBeamTeam 0 = false ∧
    0 < ((demoBeam true entry0).part 0 0).returning ∧
    (∀ r ∈ [Realign.idle, .deferred, .running], ((demoPair r).pair 0).realign = r ∧ (demoPair r).beamBusy 0 = true) ∧
    ((demoBeam true { entry0 with doomed := 1 }).part 0 0).doomed = 1 ∧ (demoOf g0).beamBusy 0 = false ∧ (demoPair .idle).ev.k % 2 = 1 ∧ (demoPair .idle).ev.k ∉ (demoPair .idle).gated ∧
    (∃ y ∈ (demoPair .idle).teams, y.2.core / 256 = 1) ∧ (∀ y ∈ (demoOf g0).teams, y.2.core / 256 ≠ 1) ∧
    (let s : State := { demoOf g0 with gated := [1], ev := { k := 1 } }
     s.ev.k ∈ s.gated) := by decide

-- ## Caches, translation and coherence

/-- A dirty copy of the line at 0, a poisoned line, and a write of another line on its way. -/
def demoCached (g : Group) : State := { demoOf g with
  caches := [⟨.l1 0, 0, .m, 0⟩, ⟨.l2 0, 0, .s, 0⟩, ⟨.l1 1, 2 ^ 51, .o, 0⟩], poisoned := [0], writes := [⟨0, 0, 0x300000, [1#8], 2, 1, 0⟩], nextWrite := 1, rebuild := [1]
  lost := [(1, 5), (2, 6)] }
theorem witness_CacheMaintenance : Issuing (demoCached g1) k0 g1 p0 ∧ Ready (demoCached g1) k0 g1 p0 [127, 2, 3] [127, 2, 3] ∧
    Ready (demoCached g1) k0 g1 p0 [2, 3] [2, 3] ∧ Issuing (demoCached g0) k0 g0 p0 ∧
    (∀ L : Fin 32, (g1.seen2 2 L).toNat < 2 ^ 57 ∧ (demoOf g1).translate 0 (((demoOf g1).team k0.tkey).space .supervisor) (g1.seen2 2 L).toNat .read =
      .ok (frameAt 0)) ∧
    (∀ w ∈ (demoCached g1).writes, lineOf w.pa ≠ lineOf 0 ∧ overlaps 0 128 w.pa w.bytes.length = false) ∧ lineOf 0 ∈ (demoCached g1).poisoned ∧
    g1.mode = .supervisor ∧ (g1.seen 127 0).toNat % 2 ^ 16 = ((demoCached g1).team k0.tkey).asid.toNat ∧ (g1.seen 127 0).toNat / 2 ^ 16 = 0 :=
  ⟨⟨rfl, rfl, rfl⟩, ready_free _ _ _ _ _ _ rfl (by decide), ready_free _ _ _ _ _ _ rfl (by decide), ⟨rfl, rfl, rfl⟩, by decide, by decide, by decide,
    rfl, by decide, by decide⟩
/-- A shootdown with a TLB that it has not reached and one that has not acknowledged it, stale and fresh walks, and a request queue with room. -/
def demoShoot (stale : Bool) : State := { demoOf g0 with
  shoots := [⟨0, k0, 0#16, 0, 2 ^ 57, [.l1 0], [.l2 0]⟩], walks := [⟨.l1 0, 0#16, 0, 1, 0x7D#64, stale⟩]
  tlb := [⟨.l1 0, 0, 0#16, 1, 0, 0x7D#64⟩], mem := cellWrite (demoOf g0).mem 0x304008 (bytesOf 8 (0x400000 + 4))
  ev := { data := bytesOf 8 0x300000 } }
theorem witness_TranslationSteps : (demoShoot false).shoots.find? (fun x => x.id == (demoShoot false).ev.n) = some ⟨0, k0, 0#16, 0, 2 ^ 57, [.l1 0], [.l2 0]⟩ ∧
    (∀ w ∈ (demoShoot false).walks, w.stale = false) ∧ (demoShoot true).walks = [⟨.l1 0, 0#16, 0, 1, 0x7D#64, true⟩] ∧ (demoOf g0).walks = [] ∧
    8 ≤ ({ demoOf g0 with walks := List.replicate 8 ⟨.l1 1, 0#16, 0, 1, 0x7D#64, false⟩ } : State).walks.length ∧
    (demoOf g0).fillable 0 (((demoOf g0).team k0.tkey).space .supervisor) 0 none = some (1, 0x7D) ∧
    (demoOf g0).fillable 0 (((demoOf g0).team k0.tkey).space .user) 0 (some .write) = some (1, 0x7D) ∧
    (demoOf g0).fillable 0 (((demoOf g0).team k0.tkey).space .supervisor) (2 ^ 56) none = none ∧
    natBits ((demoShoot false).homeNat 0x304008 1) 4 0 = 4 ∧ (demoShoot false).homeNat 0x304010 4 = (demoShoot false).homeNat 0x304018 4 ∧
    natBits ((demoOf g0).homeNat 0x304008 1) 4 0 = 0 := by decide
/-- A write of a running die and one of a die whose directory is rebuilt; copies in M and S; hosts that read, write and snoop. -/
def demoLoss : State := { demoCached g0 with
  saved := [⟨⟨0, 5⟩, 0, 0, false, 0x3000, 1, {}, [], [], [], [], 0#32, false⟩], snoopBad := [2 ^ 51], hostCached := [7] }
theorem witness_CoherenceSteps : (demoCached g0).dirBusy 0 2 = false ∧ (demoCached g0).dirBusy 0 6 = false ∧
    ({ demoCached g0 with rebuild := [0] } : State).dirBusy 0 2 = true ∧ ({ demoCached g0 with rebuild := [0] } : State).dirBusy 0 6 = true ∧
    (∀ w ∈ (demoCached g0).writes, lineOf w.pa ≠ lineOf (2 ^ 20)) ∧ 2 ^ 20 < hbmBytes ∧ homeStack (2 ^ 20) = 0 ∧ kfind (demoTeam x0 g0).teams k0.tkey = some x0 ∧
    (∃ y ∈ demoLoss.saved, y.ovf = false ∧ y.core / 256 = 0) ∧ 2 ^ 51 ∈ demoLoss.snoopBad ∧ 0 ∉ demoLoss.snoopBad ∧
    (demoOf g0).wrongKey 0 ((demoOf g0).lineSlot 0) = false ∧ (demoCached g0).writes.find? (fun w => w.id == (demoCached g0).ev.n) = some ⟨0, 0, 0x300000, [1#8], 2, 1, 0⟩ ∧
    0 ∉ (demoCached g0).rebuild ∧ (let s : State := { demoCached g0 with rebuild := [0] }
      0 ∈ s.rebuild) ∧ (demoCached g0).caches.find? (fun c => c.cache == .l1 0 && c.base == copyBase 0) = some ⟨.l1 0, 0, .m, 0⟩ ∧
    (demoCached g0).caches.find? (fun c => c.cache == .l2 0 && c.base == copyBase 0) = some ⟨.l2 0, 0, .s, 0⟩ ∧ isHost (2 ^ 51) = true ∧ isHost 0 = false ∧
    (∃ x ∈ (demoCached g0).lost, x.1 = 1) ∧ (∃ x ∈ (demoCached g0).lost, x.1 ≠ 1) ∧ (demoCached g0).isPoisoned 0 = true ∧
    (demoOf g0).isPoisoned 0 = false ∧ (demoOf g0).lineLocked 0 = false := by decide

-- ## The tile engine

/-- A record of 64 BF16 elements at 0x300000 in one dimension, with a box of 64. -/
def rec0 : BitVec 1024 := 0x300000#1024 ||| 3#1024 <<< 64 ||| 1#1024 <<< 72 ||| 64#1024 <<< 192 ||| 63#1024 <<< 704
/-- The machine with the record's bytes in memory at 0x300000. -/
def demoRec (g : Group) : State :=
  let s := demoTeam x0 g
  { s with mem := s.mem ++ [(0x300002, 0x30#8), (0x300008, 3#8), (0x300009, 1#8), (0x300018, 64#8), (0x300058, 63#8)] }
theorem demoRec_zeros : (demoRec (gAt 0#64)).loadBytes 0 (frameAt 0) 128 = List.replicate 128 0#8 := by decide +kernel
theorem demoRec_record : (demoRec (gAt 0x300000#64)).loadBytes 0 (frameAt 0x300000) 128 =
    [0, 0, 0x30, 0, 0, 0, 0, 0, 3, 1] ++ List.replicate 14 0 ++ 64 :: List.replicate 63 0 ++ 63 :: List.replicate 39 0 := by decide +kernel
theorem zeros_record : BitVec.ofNat 1024 (ofBytes (List.replicate 128 0#8)) = 0#1024 := by decide +kernel
theorem bytes_record : BitVec.ofNat 1024 (ofBytes
    ([0, 0, 0x30, 0, 0, 0, 0, 0, 3, 1] ++ List.replicate 14 0 ++ 64 :: List.replicate 63 0 ++ 63 :: List.replicate 39 0)) = rec0 := by decide +kernel
theorem witness_TileRecordsAndBatches :
    (∀ v ∈ [0#64, 0x300000#64], Issuing (demoRec (gAt v)) k0 (gAt v) p0 ∧ Ready (demoRec (gAt v)) k0 (gAt v) p0 [0, 2, 3] [2, 3]) ∧
    ((demoRec (gAt 0#64)).translate 0 (x0.space .user) 0 .read = .ok (frameAt 0) ∧ (demoRec (gAt 0#64)).isPoisoned 0 = false) ∧
    ((demoRec (gAt 0x300000#64)).translate 0 (x0.space .user) 0x300000 .read = .ok (frameAt 0x300000) ∧
      (demoRec (gAt 0x300000#64)).isPoisoned 0x300000 = false) ∧
    recordStatus (BitVec.ofNat 1024 (ofBytes ((demoRec (gAt 0#64)).loadBytes 0 (frameAt 0) 128))) false ≠ 0 ∧
    recordStatus (BitVec.ofNat 1024 (ofBytes ((demoRec (gAt 0x300000#64)).loadBytes 0 (frameAt 0x300000) 128))) false = 0 ∧
    (demoAbsent (gAt 0x1000000000#64)).translate 0 (((demoAbsent (gAt 0x1000000000#64)).team k0.tkey).space .user) 0x1000000000 .read = .absent 1 ∧
    ((demoTeam x0 g0).nearDecode k0.tkey .user 0 128 = some (.spad k0.tkey 0) ∧ (demoTeam x0 g0).nearPoisoned (.spad k0.tkey 0) 128 = false ∧
      (demoTeam x0 g0).nearStalled (.spad k0.tkey 0) = false ∧ (demoTeam x0 g0).hasPlace (.spad k0.tkey 0) = true) ∧
    Ready (demoTeam x0 g0) k0 g0 p0 (2 :: dataRegs 8 16) [2] ∧ batchLe 0#32 (batchDone g0.tb.committed ((demoTeam x0 g0).copyBatches k0)) = true ∧
    batchLe 1#32 (batchDone g0.tb.committed ((demoTeam x0 g0).copyBatches k0)) = false := by
  refine ⟨fun v _ => ⟨⟨rfl, rfl, rfl⟩, ready_free _ _ _ _ _ _ rfl (show ∀ r ∈ _, 0 + r < 128 by decide)⟩, by decide +kernel, by decide +kernel, by rw [demoRec_zeros, zeros_record]; decide +kernel, by rw [demoRec_record, bytes_record]; decide +kernel,
    by decide, by decide, ready_free _ _ _ _ _ _ rfl (by decide), by decide, by decide⟩
/-- Groups whose register 8 holds 255, or a word in error for EXPECT. -/
def gCell (w : Word) : Group := { g0 with regs := [(8, ⟨uniformLanes w, true⟩)] }
/-- The counts and generations at the ends of their ranges: the cell is clear, so 255 and 0 name the generations before it and it. -/
theorem witness_CountBarriers : (∀ w ∈ [0#32, 1#32, 255#32, 4095#32, 4096#32, 0x7FFFFFF#32, 0x8000000#32], Issuing (demoTeam x0 (gCell w)) k0 (gCell w) p0 ∧
      Ready (demoTeam x0 (gCell w)) k0 (gCell w) p0 [8, 2] [2, 8] ∧ (gCell w).seen 2 0 = 0#32) ∧
    (kfind (demoTeam x0 g0).teams k0.tkey).isSome ∧ 0 + 8 ≤ 1024 * ((demoTeam x0 g0).team k0.tkey).spRows ∧
    ((255#32).toNat + 1) % 256 = ((demoTeam x0 g0).cellAt k0.tkey 0).gen ∧ (0#32).toNat % 256 = ((demoTeam x0 g0).cellAt k0.tkey 0).gen := by
  refine ⟨fun w _ => ⟨⟨rfl, rfl, rfl⟩, ready_free _ _ _ _ _ _ rfl (show ∀ r ∈ _, 0 + r < 128 by decide), rfl⟩, by decide, by decide, by decide, by decide⟩
/-- The team with the record under its handle 0 and a tile under its handle 0, which are the word 0x80000000 in register 2 of the group; a layer
address of the near memory in registers 4 and 5, a length and no barrier in 6 and 7, and a layer address of the twin in 16 and 17. -/
def x1 : Team := { x0 with handles := [(0, ⟨0#8, some rec0⟩)], tiles := [(0, { alloc := true })] }
def gHandle : Group := { g0 with regs := [(2, ⟨uniformLanes 0x80000000#32, true⟩), (5, ⟨uniformLanes 0x80000000#32, true⟩),
  (6, ⟨uniformLanes 128#32, true⟩), (7, ⟨uniformLanes 0xFFFFFFFF#32, true⟩), (17, ⟨uniformLanes 0x90000000#32, true⟩)] }
def copy0 : Copy := { id := 0, key := k0, core := 0, kind := .tile false rec0 0 [0, 0, 0, 0, 0, 0], bar := some 128, mode := .user, batch := 1#32, idx := 0 }
def demoQueue (n : Nat) : State := { demoTeam x1 gHandle with copies := List.replicate n copy0 }
theorem issuing_demoQueue (n : Nat) : Issuing (demoQueue n) k0 gHandle p0 := ⟨rfl, rfl, rfl⟩
theorem witness_CopiesEnterTheirQueue : (∀ n ∈ [0, 63, 64], Issuing (demoQueue n) k0 gHandle p0 ∧
      ((demoQueue n).copies.filter fun c => c.core = (demoQueue n).coreOf k0 && partOf c.key = partOf k0).length = n) ∧
    Ready (demoQueue 0) k0 gHandle p0 (2 :: (pairRegs 8 ++ (List.range 6).map (10 + ·))) (2 :: (pairRegs 8 ++ (List.range 6).map (10 + ·))) ∧
    Uniform gHandle p0 [2] ∧ x1.handleValid 0x80000000#32 = true ∧ (Tensor.ofRecord rec0).tileBytes = 128 ∧ (Tensor.ofRecord rec0).exp = 0 ∧
    Ready (demoQueue 0) k0 gHandle p0 (pairRegs 8 ++ pairRegs 4 ++ pairRegs 6) (pairRegs 8 ++ pairRegs 4 ++ pairRegs 6) ∧
    layerOf (gHandle.seen2 8 0) = .global 0 ∧ layerOf (gHandle.seen2 4 0) = .near 0 ∧ layerOf (gHandle.seen2 16 0) = .twin 0 ∧
    (demoQueue 0).nearDecode k0.tkey .user 0 128 = some (.spad k0.tkey 0) ∧ ((demoBeam true entry0).record k0.tkey).beam = true := by
  refine ⟨fun n hn => ⟨issuing_demoQueue n, ?_⟩, ready_free _ _ _ _ _ _ rfl (by decide), by unfold Uniform; decide, by decide, by decide +kernel,
    by decide +kernel, ready_free _ _ _ _ _ _ rfl (by decide), by decide, by decide, by decide, by decide, by decide⟩
  revert n; decide +kernel
theorem witness_CopiesMoveTheirBytes : (demoQueue 1).copies.find? (fun c => c.id = (demoQueue 1).ev.n) = some copy0 ∧
    (demoQueue 1).copyWaits copy0 = false ∧ (demoQueue 1).copyPaused copy0 = false ∧
    (let T := Tensor.ofRecord rec0
     T.exp = 0 ∧ T.layer = 0 ∧ T.w % 8 = 0 ∧ T.within 0 0 = true ∧ T.within 0 (0 + 64 - 1) = true ∧ T.box.headD 1 = 64 ∧ T.rows = 1 ∧ T.rowB = 128 ∧
       T.rowWithin (T.rowCoords [0, 0, 0, 0, 0, 0] 0) = true ∧ T.rowAddr (T.rowCoords [0, 0, 0, 0, 0, 0] 0) = 0x300000 ∧ 0 + T.tileBytes ≤ 128) ∧
    (kfind (demoQueue 1).teams copy0.key.tkey).isSome ∧
    (∀ i ∈ [0, 1, 127], (demoQueue 1).translate 0 (((demoQueue 1).team k0.tkey).space .user) (0x300000 + i) .read true = .ok (frameAt (0x300000 + i)) ∧
      isHost (0x300000 + i) = false ∧ (demoQueue 1).isPoisoned (0x300000 + i) = false) := by
  refine ⟨by decide +kernel, by decide +kernel, by decide +kernel, by decide +kernel, by decide, by decide⟩

-- ## Accumulator tiles and matrix work

/-- The team with 32 tiles on a core with 76 of which it reserves `r`; ALLOC of the count in register 2. -/
def demoTiles (r : Nat) (y : Team) (g : Group) (q : List (GKey × Nat)) : State :=
  let s := (demoTeam y g).modCore 0 fun c => { c with allocQ := q }
  { s with grids := kput s.grids 0 { s.grid 0 with lr := { (s.grid 0).lr with tiles := r } } }
def gCount (n : Nat) : Group := { g0 with regs := [(2, ⟨uniformLanes (BitVec.ofNat 32 n), true⟩)] }
/-- A team that holds `n` tiles. -/
def holding (n : Nat) : Team := { x0 with tiles := (List.range n).map fun i => (i, { alloc := true }) }
theorem witness_AccumulatorTiles :
    (∀ n ∈ [0, 1, 16, 17], Issuing (demoTiles 4 x1 (gCount n) []) k0 (gCount n) p0 ∧ Ready (demoTiles 4 x1 (gCount n) []) k0 (gCount n) p0 [8, 2] [8, 2]) ∧
    (∀ e ∈ ((demoTiles 4 x1 g0 []).core 0).allocQ, e.1 ≠ k0) ∧ (holding 32).freeRun 1 = none ∧ (holding 31).freeRun 1 = some 31 ∧
    (demoTiles 4 x0 g0 []).spareCap 0 = 72 ∧ (demoTiles 4 x0 g0 []).tilesFit k0.tkey 16 = true ∧ ((demoTiles 4 x0 g0 []).core 0).waiting = [] ∧
    (demoTiles 76 (holding 16) g0 []).spareCap 0 = 0 ∧ (holding 16).held = 16 ∧ (holding 16).freeRun 16 = some 16 ∧
    ((demoTiles 4 x0 g0 [(⟨0, 0, 4⟩, 1)]).core 0).waiting ≠ [] ∧ x0.held = 0 ∧ (holding 1).held ≠ 0 ∧
    (let s : State := demoTiles 1 x0 g0 [(k0, 1)]
     ((s.core s.ev.core).waiting.head? = some (k0, 1) ∧ s.tilesFit k0.tkey 1 = true)) ∧
    (Issuing (demoTeam x1 gHandle) k0 gHandle p0 ∧ Ready (demoTeam x1 gHandle) k0 gHandle p0 [2, 8] [2, 8] ∧ Uniform gHandle p0 [2] ∧
      x1.tileValid 0x80000000#32 = true ∧ (demoTeam x1 gHandle).tileBusy k0.tkey 0x80000000#32 = false ∧
      fmtReserved p0.fmt = false ∧ fmtAccf p0.fmt < 2) := by
  refine ⟨fun n _ => ⟨⟨rfl, rfl, rfl⟩, ready_free _ _ _ _ _ _ rfl (show ∀ r ∈ _, 0 + r < 128 by decide)⟩, by decide, by decide +kernel, by decide +kernel,
    by decide +kernel, by decide +kernel, by decide, by decide +kernel, by decide, by decide +kernel, by decide, by decide, by decide, by decide +kernel,
    ⟨rfl, rfl, rfl⟩, ready_free _ _ _ _ _ _ rfl (by decide), by unfold Uniform; decide, by decide, by decide, by decide, by decide⟩
/-- A gang of the groups 0 and 4 of the team, the group as a member of it, and a partition of its machine. -/
def gang0 : GangId := ⟨k0.tkey, 3#24⟩
def k4 : GKey := ⟨0, 0, 4⟩
def gMember : Group := { gHandle with gang := 3#24, gangOk := true, regs := (8, ⟨uniformLanes 3#32, true⟩) :: gHandle.regs }
def demoGang (g : Group) (q : Part) (l : Pair) : State :=
  let s := (demoTeam x1 g).setGroup k4 g
  { s with parts := kput s.parts 0 q, pairs := [(0, l)], cycle := 4096 }
theorem issuing_demoGang (g : Group) (q : Part) (l : Pair) (h : g.cur = some p0) : Issuing (demoGang g q l) k0 g p0 := ⟨rfl, rfl, h⟩
def carrying : Part := { carry := some gang0, carryQ := [⟨⟨0, 1⟩, 3#24⟩] }
def queued : Part := { carryQ := [gang0] }
def busy : Part := { matQ := [{ id := 0, team := k0.tkey, members := [], handle := 0x80000000#32, fmt := 0#32 }] }
theorem witness_GangsCarryAndLicence :
    (∀ q ∈ [{}, carrying, queued], ∀ g ∈ [gMember, gHandle], Issuing (demoGang g q {}) k0 g p0 ∧ Ready (demoGang g q {}) k0 g p0 [8, 9] [8, 9]) ∧
    Uniform gMember p0 [8, 9] ∧ gMember.seen 8 0 = 3#32 ∧ k0 ∈ gangMembers k0 3 ∧ bitCount 3 = 2 ∧ bitCount 63 = 6 ∧
    (∀ j ∈ gangMembers k0 3, (kfind (demoGang gMember {} {}).groups j).isSome) ∧ gMember.gangOk = true ∧ gHandle.gangOk = false ∧
    (gMember.seen 10 0).toNat < 1024 * ((demoGang gMember {} {}).team k0.tkey).spRows ∧
    ((demoGang gMember carrying {}).part 0 0).carry = some gang0 ∧ gang0 ∈ ((demoGang gMember queued {}).part 0 0).carryQ ∧
    ((demoGang gMember queued {}).part 0 0).carry = none ∧ ((demoGang gMember {} {}).part 0 0).carryQ = [] ∧
    ((demoGang gMember {} { wants := [1] }).pair 0).licence = none ∧ ((demoGang gMember {} { wants := [1] }).pair 0).wants = [1] ∧
    (let s := demoGang gMember {} { licence := some 0, wants := [twinOf 0], lrelp := true }
     (s.pair 0).licence = some 0 ∧ twinOf 0 ∈ (s.pair 0).wants ∧ (s.pair 0).lrelp = true ∧ s.matIdle 0 = true ∧ 4096 ≤ s.cycle - (s.core 0).idleFrom) ∧
    (demoGang gMember busy {}).matIdle 0 = false := by
  refine ⟨fun q _ g hg => ⟨issuing_demoGang _ _ _ ?_, ready_free _ _ _ _ _ _ ?_ ?_⟩, by unfold Uniform; decide, by decide +kernel, by decide +kernel,
    by decide +kernel, by decide +kernel, by decide +kernel, rfl, rfl, by decide +kernel, by decide +kernel, by decide +kernel, by decide +kernel,
    by decide +kernel, by decide +kernel, by decide +kernel, by decide +kernel, by decide +kernel⟩
  · revert g; decide +kernel
  · revert g; decide +kernel
  · revert g; decide +kernel
/-- The member at its MMA, at a latch that the other member has opened, and the latch when both have come. -/
def arrival0 (k : GKey) : Arrival := ⟨k, p0, 4#32, 64, 0⟩
def latch0 (ks : List GKey) : Latch := ⟨gang0, 0x80000000#32, 0x80000000#32, 0#32, {}, 0, 0#7, rec0, ks.map arrival0⟩
def meeting (ks : List GKey) : Part := { carry := some gang0, latches := [latch0 ks] }
def holds0 : Pair := { licence := some 0 }
theorem witness_MatrixWorkIssues :
    (∀ q ∈ [{}, meeting [k4]], Issuing (demoGang gMember q {}) k0 gMember p0 ∧
      Ready (demoGang gMember q {}) k0 gMember p0 (2 :: 2 :: (List.range 8).map (64 + ·)) [2, 2]) ∧
    gMember.gangId k0 = some gang0 ∧ Uniform gMember p0 [2, 2] ∧ fmtBadMma p0.fmt = false ∧ fmtMN p0.fmt = false ∧ 120 + fmtNB p0.fmt ≤ 128 ∧
    x1.handleValid (gMember.seen 2 0) = true ∧ x1.tileValid (gMember.seen 2 0) = true ∧
    mmaFault (Tensor.ofRecord (x1.handleRecord (gMember.seen 2 0))) gMember.cursor p0.fmt (bitCount gMember.gang.toNat * fmtS p0.fmt) (1024 * x1.spRows) = none ∧
    ((((demoGang gMember {} {}).part 0 0).latches.find? fun z => z.gang = gang0) = none) ∧
    ((((demoGang gMember (meeting [k4]) {}).part 0 0).latches.find? fun z => z.gang = gang0) = some (latch0 [k4])) ∧
    (∀ w ∈ (latch0 [k4]).arrivals, w.key ≠ k0) := by
  refine ⟨fun q _ => ⟨issuing_demoGang _ _ _ rfl, ready_free _ _ _ _ _ _ rfl (show ∀ r ∈ _, 0 + r < 128 by decide)⟩, by decide +kernel,
    by unfold Uniform; decide, by decide +kernel, by decide, by decide +kernel, by decide +kernel, by decide +kernel, by decide +kernel, by decide +kernel,
    by decide +kernel, by decide +kernel⟩
/-- An STN of FP32 needs 16 KiB of scratchpad; the queue with and without room; batches that are and are not complete; the rendezvous. -/
theorem witness_MatrixWorkIssues_others :
    (let y : Team := { x1 with spRows := 16 }
     Ready (demoTeam y gMember) k0 gMember p0 [8, 2] [8, 2] ∧ y.tileValid (gMember.seen 2 0) = true ∧ (gMember.seen 16 0).toNat % 128 = 0 ∧
       0 + 4096 * stnBytes 0 ≤ 1024 * y.spRows) ∧
    ((demoGang gMember { matQ := List.replicate 4 { id := 0, team := k0.tkey, members := [], handle := 0#32, fmt := 0#32 } } {}).part 0 0).matQ.length = 4 ∧
    Ready (demoTeam x1 gMember) k0 gMember p0 (2 :: dataRegs 8 16) [2] ∧
    batchLe 0#32 (batchDone gMember.mb.committed ((demoTeam x1 gMember).matBatches k0)) = true ∧
    batchLe 1#32 (batchDone gMember.mb.committed ((demoTeam x1 gMember).matBatches k0)) = false ∧
    (∀ ks ∈ [[k0], [k0, k4]], ((demoGang gMember (meeting ks) holds0).part 0 0).latches.find? (fun l => l.arrivals.any fun a => a.key = k0) = some (latch0 ks)) ∧
    (demoGang gMember (meeting [k0]) holds0).meets 0 0 (latch0 [k0]) = false ∧
    (demoGang gMember (meeting [k0, k4]) holds0).meets 0 0 (latch0 [k0, k4]) = true ∧ (latch0 [k0]).arrivals = [arrival0 k0] := by
  refine ⟨⟨ready_free _ _ _ _ _ _ rfl (by decide), by decide +kernel, by decide +kernel, by decide +kernel⟩, by decide +kernel,
    ready_free _ _ _ _ _ _ rfl (by decide), by decide +kernel, by decide +kernel, by decide +kernel, by decide +kernel, by decide +kernel, rfl⟩
/-- An operation before and after its start, and an STN, each at the head of its queue. -/
def op0 (stn : Option (Nat × Nat)) (tar : Option Nat) : MatOp :=
  { id := 0, team := k0.tkey, members := [⟨k0, 1#32, 0, List.replicate 8 (uniformLanes 0#32), 64, false⟩], handle := 0x80000000#32, fmt := 0#32, record := rec0
    stn := stn, tar := tar }
theorem witness_MatrixWorkCompletes : (∀ o ∈ [op0 none none, op0 none (some 0x10000), op0 (some (0, 0)) none],
      ((demoGang gMember { matQ := [o] } {}).part 0 0).matQ = [o] ∧ (demoGang gMember { matQ := [o] } {}).opWaits 0 o = false ∧
      (demoGang gMember { matQ := [o] } {}).opPaused 0 o = false) ∧
    (kfind (demoGang gMember {} {}).teams k0.tkey).isSome ∧ (demoGang gMember {} {}).groupsOf k0.tkey ≠ [] ∧ (op0 none none).half = false ∧
    fmtN (op0 none none).fmt = 32 := by
  refine ⟨by decide +kernel, by decide +kernel, by decide +kernel, rfl, by decide⟩

-- ## Barriers, monitors, bound slots, join records, futures and deques

def gWave : Group := { g0 with wave := true }
def gArrived (m : Word) : Group := { g0 with arrTeam := m, arrClu := m, arrGrid := m }
def gMon (m : Monitor) (w : Word) : Group := { g0 with mon := m, regs := [(2, ⟨uniformLanes w, true⟩)] }
/-- The group with one path of its own suspended or ready beside the current one, in lanes 0 to 7. -/
def gBeside (w : Wait) (m : Monitor) : Group := { g0 with
  cur := some ⟨0#32, 0xFFFFFF00#32, 0#32⟩, mon := m, stack := [⟨.path (.suspended w), 8#32, 0xFF#32, 0#32⟩] }
def armed (line : Nat) (r : Option (BitVec 2)) : Monitor := { armed := true, addr := 0#64, line := some line, reason := r }
/-- One bound slot with a publish that one copy lacks. -/
def demoBound : State := { demoTeam x0 g0 with
  bounds := [((0, (demoTeam x0 g0).clusterOf k0.tkey, 0), { base := 5#64, ops := [⟨7, 0, 3#64, [], 0⟩] })], ev := { m := 7 } }
theorem witness_BarriersMonitorsAndBounds :
    (∀ g ∈ [g0, gWave, gArrived 0#32, gArrived 1#32, gMon {} 0#32, gMon (armed 0 none) 0#32, gMon (armed 0 none) 9#32, gMon (armed 0 (some 2#2)) 0#32,
        gMon {} 0xFFFFFFFF#32], Issuing (demoTeam x0 g) k0 g p0 ∧ Ready (demoTeam x0 g) k0 g p0 [2, 3, 8, 9, 10, 11] [2, 3, 8, 9] ∧ g.full = false) ∧
    gWave.wave = true ∧ g0.wave = false ∧ (∀ i ∈ [0, 1, 2], (gArrived 1#32).arrived i &&& p0.ex ≠ 0#32 ∧ (gArrived 0#32).arrived i &&& p0.ex = 0#32) ∧
    (((demoTeam x0 g0).team k0.tkey).teamC - 0xFFFFFFFF#32 - 1#32).toNat < 2 ^ 31 ∧
    2 ^ 31 ≤ (((demoTeam x0 g0).team k0.tkey).teamC - 0#32 - 1#32).toNat ∧
    (demoTeam x0 g0).access 0 (((demoTeam x0 g0).team k0.tkey).space .user) (g0.seen2 2 0 + 0#64) 8 .read = .ok (frameAt 0) ∧
    (demoAbsent g0).access 0 (((demoAbsent g0).team k0.tkey).space .user) 0x1000000000#64 8 .read = .absent 1 ∧
    (demoBound.record k0.tkey).clusterSize = 1 ∧ demoBound.rankOf k0.tkey = 0 := by
  refine ⟨fun g hg => ?_, rfl, rfl, by decide, by decide, by decide, by decide, by decide, by decide +kernel, by decide +kernel⟩
  have h : g.cur = some p0 ∧ g.pend = [] ∧ (∀ r ∈ [2, 3, 8, 9, 10, 11], g.wbasev + r < g.wsize) ∧ g.full = false := by revert g; decide
  exact ⟨⟨rfl, rfl, h.1⟩, ready_free _ _ _ _ _ _ h.2.1 h.2.2.1, h.2.2.2⟩
/-- A recall by a deck directory of a line that a core of the deck has written. -/
theorem witness_BarriersMonitorsAndBounds_recall : (let s : State := { demoTeam x0 g0 with
      writes := [⟨0, 3, 0x300000, [1#8], 2, 2, 0⟩], caches := [⟨.l1 3, 0x300000, .m, 0⟩], ev := { n := lineOf 0x300000, part := 3 } }
     2 ≤ s.ev.part ∧ s.rebuild = [] ∧ scopeHas s.ev.part s.ev.core 3 = true ∧ (CacheUnit.l1 3).within s.ev.part s.ev.core = true) := by decide +kernel
theorem witness_BarriersMonitorsAndBounds_steps :
    (demoTeam x0 (gArrived 0xFFFF#32)).teamArrived k0.tkey 0 = false ∧ (demoTeam x0 (gArrived 0xFFFFFFFF#32)).teamArrived k0.tkey 0 = true ∧
    kfind (demoTeam x0 (gArrived 0xFFFFFFFF#32)).teams k0.tkey = some x0 ∧
    (∀ r ∈ [none, some 1#2], let g := gBeside (.monw 5 (some 0)) (armed 0 r)
      let s := demoOf g
      kfind s.groups s.ev.key = some g ∧ g.mon.armed = true ∧ g.mon.line = some s.ev.n ∧ s.coreOf s.ev.key = s.ev.core ∧ g.monwDue s.cycle = true ∧
        g.inMonw = true) ∧
    (let g := gBeside .over {}
     g.mon.reason = none ∧ g.cur.isSome ∧ (g.stack.findIdx? fun e => e.kind = .path (.suspended .over)) = some 0 ∧
       g.stack[0]? = some ⟨.path (.suspended .over), 8#32, 0xFF#32, 0#32⟩) ∧
    (let b := demoBound.bound k0.tkey 0
     demoBound.ev.key.tkey = k0.tkey ∧ demoBound.ev.k < (demoBound.record k0.tkey).clusterSize ∧ b.ops = [⟨7, 0, 3#64, [], 0⟩] ∧
       ∃ o ∈ b.ops, o.id = demoBound.ev.m ∧ demoBound.ev.k ∉ o.seen) := by decide +kernel
/-- Bytes put above everything that the tests' memory lists. -/
def demoBytes (x : Team) (g : Group) (bs : List (Nat × Byte)) : State :=
  let s := demoTeam x g
  { s with mem := s.mem ++ bs }
/-- A group of one path, in a wave or not, with a state word and a future's state at an address. -/
def gWaveAt (wave : Bool) (a : DWord) : Group := { gAt a with wave := wave }
theorem witness_JoinsFuturesAndDeques :
    (∀ a ∈ [0#64, 0x300000#64], ∀ w ∈ [false, true], Issuing (demoRec (gWaveAt w a)) k0 (gWaveAt w a) p0 ∧
      Ready (demoRec (gWaveAt w a)) k0 (gWaveAt w a) p0 ([10, 2, 3, 8, 9]) [10, 2, 3, 8, 9] ∧ (gWaveAt w a).full = false ∧
      (gWaveAt w a).seen 10 0 = 0#32 ∧ liveRegs 0#32 = []) ∧
    Uniform (gWaveAt true 0#64) p0 [10, 2, 3] ∧
    ((∀ L : Fin 32, (demoRec (gWaveAt true 0#64)).finds k0 (gWaveAt true 0#64) 2 0#64 16 .both L = .ok (frameAt 0)) ∧
      (demoRec (gWaveAt true 0#64)).wrongKey 0 0 = false ∧ ofBytes ((demoRec (gWaveAt true 0#64)).newestRead 0 16) = 0) ∧
    ((∀ L : Fin 32, (demoRec (gWaveAt true 0x300000#64)).finds k0 (gWaveAt true 0x300000#64) 2 0#64 16 .read L = .ok (frameAt 0x300000)) ∧
      (demoRec (gWaveAt true 0x300000#64)).wrongKey 0x300000 0 = false ∧
      ofBytes ((demoRec (gWaveAt true 0x300000#64)).newestRead 0x300000 16) = 2 ^ 72 + 3 * 2 ^ 64 + 0x300000) ∧
    natBits 0 31 0 = 0 ∧ natBits (2 ^ 72 + 3 * 2 ^ 64 + 0x300000) 31 0 ≠ 0 ∧ futureState 0 = 0 ∧ futureState (2 ^ 72 + 3 * 2 ^ 64 + 0x300000) ≠ 0 ∧
    ((gWaveAt true 0#64).wave = true ∧ p0.ex = (gWaveAt true 0#64).live ∧ (gWaveAt true 0#64).stack = [] ∧
      ((demoRec (gWaveAt true 0#64)).part 0 0).parked.length < 8 ∧ (gWaveAt true 0#64).pend = [] ∧ (demoRec (gWaveAt true 0#64)).copies = [] ∧
      (demoRec (gWaveAt true 0#64)).matBatches k0 = [] ∧ (gWaveAt true 0#64).posted = []) := by
  refine ⟨fun a ha w hw => ⟨⟨rfl, rfl, rfl⟩, ready_free _ _ _ _ _ _ rfl (show ∀ r ∈ _, 0 + r < 128 by decide), rfl, rfl, by decide⟩,
    by unfold Uniform; decide, by decide +kernel, by decide +kernel, by decide, by decide, by decide, by decide, by decide +kernel⟩
/-- A deque of two entries at 0x400000 under a header at 0x300000, with `n` entries; the deque at 0 is malformed. -/
def demoDeque (n : Byte) (g : Group) : State := demoBytes x0 g [(0x300002, 0x40#8), (0x300008, 1#8), (0x300014, n)]
def gOne : Group := { gAt 0x300000#64 with cur := some ⟨0#32, 1#32, 0#32⟩ }
theorem witness_JoinsFuturesAndDeques_deques :
    (∀ n ∈ [1#8, 2#8], Issuing (demoDeque n gOne) k0 gOne ⟨0#32, 1#32, 0#32⟩ ∧
      Ready (demoDeque n gOne) k0 gOne ⟨0#32, 1#32, 0#32⟩ [2, 3, 8, 9, 10, 11] [2, 3, 8, 9]) ∧
    Uniform gOne ⟨0#32, 1#32, 0#32⟩ [2, 3] ∧
    (demoDeque 1#8 gOne).access 0 (((demoDeque 1#8 gOne).team k0.tkey).space .user) (gOne.seen2 2 0) 64 .both = .ok (frameAt 0x300000) ∧
    (demoDeque 1#8 gOne).deque (frameAt 0x300000) = ⟨0x400000, 1, 0#32, 1#32, 0⟩ ∧
    (⟨0x400000, 1, 0#32, 1#32, 0⟩ : Deque).bad = false ∧ (⟨0x400000, 1, 0#32, 1#32, 0⟩ : Deque).size = 1#32 ∧
    (⟨0x400000, 1, 0#32, 2#32, 0⟩ : Deque).bad = false ∧ (⟨0x400000, 1, 0#32, 0#32, 0⟩ : Deque).bad = false ∧
    ((demoTeam x0 g0).deque (frameAt 0)).bad = true ∧ overlaps 0x300000 64 0x400000 8 = false ∧ (1#32 : Word) = 1#32 <<< (0 : Fin 32).val ∧
    (demoDeque 1#8 gOne).access 0 (((demoDeque 1#8 gOne).team k0.tkey).space .user) ((⟨0x400000, 1, 0#32, 1#32, 0⟩ : Deque).entry 0#32) 8 .read =
      .ok (frameAt 0x400000) ∧
    ((demoDeque 1#8 gOne).release 0 6).access 0 (((demoDeque 1#8 gOne).team k0.tkey).space .user)
      ((⟨0x400000, 1, 0#32, 1#32, 0⟩ : Deque).entry 1#32) 8 .write = .ok (frameAt 0x400008) := by
  refine ⟨fun n _ => ⟨⟨rfl, rfl, rfl⟩, ready_free _ _ _ _ _ _ rfl (show ∀ r ∈ _, 0 + r < 128 by decide)⟩, by unfold Uniform; decide, by decide +kernel,
    by decide +kernel, by decide, by decide, by decide, by decide, by decide +kernel, by decide, by decide, by decide +kernel, by decide +kernel⟩

-- ## Tasks and launches

/-- The machine with `n` wave slots and an overflow area of 256 packets, or none. -/
def demoTasks (n : Nat) (area : DWord) (s : State) : State :=
  { s with grids := kput s.grids 0 { s.grid 0 with lr := { (s.grid 0).lr with taskw := n, tqovf := area, tqlog := 8 } } }
def packet0 : Packet := { owner := k0.tkey, entry := 0#32, arg := 0#64, join := 0#64, id := 0#32, sender := k0, token := 0, lane := 0, since := 0 }
/-- A launch record for a grid of one team of one group. -/
def demoLaunch (g : Group) : State := demoBytes x0 g [(0x300018, 1#8), (0x300020, 16#8)]
def gLaunch : Group := { gAt 0x300000#64 with mode := .supervisor }
theorem witness_TasksAndLaunches :
    (∀ n ∈ [0, 4], Issuing (demoTasks n 0#64 (demoTeam x0 g0)) k0 g0 p0 ∧ Ready (demoTasks n 0#64 (demoTeam x0 g0)) k0 g0 p0 [8, 2, 3, 4, 5] [8, 2, 3, 4, 5] ∧
      ((demoTasks n 0#64 (demoTeam x0 g0)).record k0.tkey).taskw = n) ∧ Uniform g0 p0 [8] ∧
    (∀ L : Fin 32, (demoTasks 4 0#64 (demoTeam x0 g0)).ownerOf k0.tkey (g0.seen2 2 L) = .ok 0 ∧
      (demoTasks 4 0#64 (demoTeam x0 g0)).finds k0 g0 4 0#64 8 .read L = .ok (frameAt 0)) ∧
    (Issuing (demoLaunch gLaunch) k0 gLaunch p0 ∧ Ready (demoLaunch gLaunch) k0 gLaunch p0 [8, 2, 3] [2, 3] ∧ Uniform gLaunch p0 [2, 3] ∧
      gLaunch.mode ≠ .user ∧
      (demoLaunch gLaunch).access 0 (((demoLaunch gLaunch).team k0.tkey).space .supervisor) (gLaunch.seen2 2 0) 256 .read = .ok (frameAt 0x300000) ∧
      (demoLaunch gLaunch).isPoisoned (0x300000 + 128) = false) ∧
    ofBytes ((demoLaunch gLaunch).loadBytes 0 (frameAt 0x300000) 128 ++ (demoLaunch gLaunch).loadBytes 0 { frameAt 0x300000 with pa := 0x300080 } 128) =
      2 ^ 192 + 16 * 2 ^ 256 ∧
    (demoLaunch gLaunch).refusal 0 k0.tkey .supervisor (2 ^ 192 + 16 * 2 ^ 256) = 0 ∧ (demoLaunch gLaunch).refusal 0 k0.tkey .supervisor 0 = 1 ∧
    (List.range 256).find? (fun n => (kfind (demoLaunch gLaunch).grids n).isNone) = some 1 := by
  refine ⟨fun n _ => ⟨⟨rfl, rfl, rfl⟩, ready_free _ _ _ _ _ _ rfl (show ∀ r ∈ _, 0 + r < 128 by decide), rfl⟩, by unfold Uniform; decide, by decide +kernel,
    ⟨⟨rfl, rfl, rfl⟩, ready_free _ _ _ _ _ _ rfl (by decide), by unfold Uniform; decide, by decide, by decide +kernel, by decide +kernel⟩,
    by decide +kernel, by decide +kernel, by decide +kernel, by decide +kernel⟩
/-- A packet on its way, in the overflow area and in the store; and a parked context. -/
def demoPackets (n : Nat) (area : DWord) (wait store : List Packet) (parked : List Parked) : State :=
  let s := (demoTasks n area (demoTeam x0 g0)).modCore 0 fun c => { c with store := store }
  let s := s.modGrid 0 fun g => { g with overflow := wait }
  { s.modPart 0 0 fun q => { q with parked := parked } with packets := [packet0], cycle := 1000 }
theorem witness_TasksAndLaunches_steps :
    (let s := demoPackets 1 0#64 [] [] []
     s.packets[s.ev.n]? = some packet0 ∧ s.hasEnded packet0.owner = false ∧ s.storeFor packet0.owner = some 0 ∧
       ¬ (s.grid 0).overflow.length < (s.grid 0).lr.overflowCap) ∧
    (let s := demoPackets 1 0x40#64 [packet0] [] []
     (∃ q ∈ (s.grid 0).overflow, q.owner = packet0.owner) ∧ (s.grid 0).overflow.length < (s.grid 0).lr.overflowCap ∧
       ((s.grid s.ev.n).overflow.findIdx? fun p => (s.storeFor p.owner).isSome) = some 0 ∧ (s.grid s.ev.n).overflow[0]? = some packet0) ∧
    (let s := demoPackets 4 0#64 [] [packet0] [⟨k0.tkey, gWave, 0#32, [0x300000]⟩]
     let t : State := { s with mem := s.mem ++ [(0x300008, 1#8)] }
     s.nextWave s.ev.core = some packet0 ∧ s.freeWaves packet0.owner = [⟨0, 0, 1⟩, ⟨0, 0, 2⟩, ⟨0, 0, 3⟩, k4] ∧
       (t.part t.ev.core t.ev.part).parked[t.ev.n]? = some ⟨k0.tkey, gWave, 0#32, [0x300000]⟩ ∧
       t.parkSlot t.ev.part ⟨k0.tkey, gWave, 0#32, [0x300000]⟩ = some k4 ∧ (t.team k0.tkey).stop = false ∧
       futureState (ofBytes (t.newestRead 0x300000 16)) ≠ 0) := by
  refine ⟨by decide +kernel, by decide +kernel, by decide +kernel⟩

-- ## Peers

/-- The device as peer 0 of a domain with the peer 5, and its heap of 64 KiB at 0x300000; registers 6 names the peer, 8 its number and an offset. -/
def domain0 : Domain := { heapb := 0x300000#64, heapsz := 0x10000#64, ptb := BitVec.ofNat 64 standInRoot, valid := true, members := [0, 5] }
def demoPeers (g : Group) : State := { demoTeam x0 g with
  selfPeer := 0x80000000#32, domains := [(0, domain0)], ports := (List.range 32).map fun n => (n, { up := true }) }
def gPeer (n : Nat) : Group := { g0 with regs := [(6, ⟨uniformLanes (BitVec.ofNat 32 n), true⟩)] }
theorem witness_RemoteInstructionsSend :
    (∀ n ∈ [5, 0, 6, 512], Issuing (demoPeers (gPeer n)) k0 (gPeer n) p0 ∧
      Ready (demoPeers (gPeer n)) k0 (gPeer n) p0 [6, 2, 3, 8, 9, 10, 11] [6, 2, 3, 8, 9, 10, 11] ∧ NoPosted (gPeer n)) ∧
    ((demoPeers (gPeer 5)).joined k0.tkey = true ∧ ((demoPeers (gPeer 5)).domainOf k0.tkey).paused = false ∧ (demoPeers (gPeer 5)).noPlane = false ∧
      (demoPeers (gPeer 5)).moving = [] ∧ (∀ n < 32, ((demoPeers (gPeer 5)).port n).up = true) ∧ (∀ n < 32, (demoPeers (gPeer 5)).planeOf n < 32) ∧
      (demoPeers (gPeer 5)).requests = []) ∧
    (5 < 512 ∧ 5 ∈ ((demoPeers (gPeer 5)).domainOf k0.tkey).members ∧ 5 ≠ (demoPeers (gPeer 5)).selfNum ∧
      (kfind (demoPeers (gPeer 5)).seqOut (0, 5)).getD 0 + 32 < 2 ^ 48 - 1 ∧ (demoPeers (gPeer 5)).ucopy 5 0 0 = none ∧
      (demoPeers (gPeer 5)).subscribed 5 0 0 = false) ∧
    6 ∉ ((demoPeers (gPeer 5)).domainOf k0.tkey).members ∧ (demoPeers (gPeer 5)).subs.length < 1024 ∧ (demoTeam x0 g0).joined k0.tkey = false := by
  refine ⟨fun n _ => ⟨⟨rfl, rfl, rfl⟩, ready_free _ _ _ _ _ _ rfl (show ∀ r ∈ _, 0 + r < 128 by decide), rfl, rfl⟩, by decide +kernel, by decide +kernel,
    by decide +kernel, by decide +kernel, by decide +kernel⟩
/-- A packet of the peer 5, and the request of a group that waits for it. -/
def rpacket (kind : RKind) (off : Nat) : RPacket :=
  { src := 5#9, dom := 0#10, seq := 7, auth := false, kind := kind, lanes := [{ lane := 0, off := off, b := 1#64, e := 0#64 }] }
def request0 (asker : Asker) : Request :=
  { id := 0, dom := 0, peer := 5, seq := 7, plane := 0, entry := 0, kind := .load, lanes := [{ lane := 0, off := 0, b := 0#64, e := 0#64 }], asker := asker, sent := 0 }
def remote0 : RemoteOp := { path := p0, npc := 4#32, reg := 8, words := 1, beats := 1, w := 0, waiting := [0], align := false, answers := [], fails := [] }
def gAsks : Group := { g0 with cur := none, remote := some remote0, posted := [⟨3, 0#32, [0], [], false⟩] }
def demoAsk (asker : Asker) : State := { demoPeers gAsks with
  requests := [request0 asker], cycle := 4800000
  ev := { n := 0, pkt := some (rpacket .load 0), ans := [⟨0, 9#64, false, none, 0#5⟩] } }
def accepted (s : State) (x : RPacket) : State := (s.acceptFrom x).getD s
theorem witness_PeersAreServedAndAnswered :
    (demoAsk .nobody).acceptFrom (rpacket .load 0) ≠ none ∧ (accepted (demoAsk .nobody) (rpacket .load 0)).acceptFrom (rpacket .load 0) = none ∧
    (let s := accepted (demoAsk .nobody) (rpacket .load 0)
     kfind s.domains 0 = some domain0 ∧ kfind (demoAsk .nobody).seqIn (0, 5) = none ∧ (kfind s.seqOut (0, 5)).getD 0 < 2 ^ 48 - 1 ∧ s.homes = [] ∧
       s.resolve 0 5 0 4 .read = .ok (frameAt 0x300000) ∧ s.resolve 0 5 0 8 .both = .ok (frameAt 0x300000) ∧ s.resolve 0 5 0 4 .write = .ok (frameAt 0x300000) ∧
       s.wrongKey 0x300000 0 = false ∧ s.resolve 0 5 0x10000 4 .read = .fail 3 ∧ 0xF000 + 4096 ≤ ((kfind s.domains 0).getD {}).heapsz.toNat) ∧
    (∀ a ∈ [Asker.blocking k0, .posted k0 3], (accepted (demoAsk a) (rpacket .load 0)).requests.find? (fun r => r.id = (demoAsk a).ev.n) = some (request0 a) ∧
      (demoAsk a).requests.find? (fun r => r.id = (demoAsk a).ev.n) = some (request0 a) ∧ (request0 a).sent + 4800000 ≤ (demoAsk a).cycle ∧
      kfind (accepted (demoAsk a) (rpacket .load 0)).groups k0 = some gAsks ∧ (∀ z ∈ (demoAsk a).ev.ans, z.fail = none ∧ z.lane < 32) ∧
      ((demoAsk a).ev.ans.map (·.lane)).Nodup) ∧
    gAsks.remote = some remote0 ∧ remote0.waiting = [0] ∧ gAsks.posted.find? (fun q => q.id = 3) = some ⟨3, 0#32, [0], [], false⟩ ∧
    (let s := demoAsk (.posted k0 3)
     s.requests.find? (fun r => r.dom = 0 && r.peer = 5 && r.seq = 7) = some (request0 (.posted k0 3))) ∧
    (let y : StreamIn := { high := some 1, seen := [(1, 0)] }
     let s : State := { demoPeers g0 with seqIn := [((0, 5), y)], cycle := 2400000, ev := { k := 0, m := 5, n := 0 } }
     (kfind s.seqIn (s.ev.k, s.ev.m)).getD {} = y ∧ s.ev.n < 1 ∧ s.ev.n ∉ y.given ∧ (∀ z ∈ y.seen, z.1 ≠ s.ev.n) ∧
       ∃ z ∈ y.seen, s.ev.n < z.1 ∧ z.2 + 2400000 ≤ s.cycle) := by decide +kernel
/-- A region of a peer with a copy of a line, whose push comes. -/
theorem witness_PeersAreServedAndAnswered_pushes :
    (let s : State := { demoAsk .nobody with subs := [⟨0, 5, 0, 0⟩], ucopies := [⟨0, 5, 0, 0, [], false⟩], ev := { n := 0, flag := true, pkt := some (rpacket .load 0) } }
     (accepted s (rpacket .load 0)).subscribed 5 0 s.ev.n = true ∧ ((accepted s (rpacket .load 0)).ucopy 5 0 s.ev.n).isSome = true ∧ s.ev.flag = true) := by
  decide +kernel
/-- A collective of one participant: its record at 0x304000 names the mask at 0x300000, which holds 1; the record at 0x300000 has a misaligned buffer
and an empty mask, and the one at 0x305000 a reserved bit. -/
def demoColl (g : Group) (c : Coll) : State := { demoPeers g with
  mem := (demoPeers g).mem ++ [(0x300000, 1#8), (0x304008, 0x80#8), (0x304012, 0x30#8), (0x30503F, 1#8)], colls := [(0, c)] }
def coll0 (n : Nat) : CollRun := ⟨BitVec.ofNat 512 (n * 2 ^ 352), [0], 0, 0⟩
theorem witness_CollectivesRun :
    (∀ a ∈ [0x304000#64, 0x300000#64, 0x305000#64, 0x300080#64], Issuing (demoColl (gAt a) {}) k0 (gAt a) p0 ∧
      Ready (demoColl (gAt a) {}) k0 (gAt a) p0 [8, 2, 3] [2, 3] ∧ NoPosted (gAt a)) ∧ ((demoColl g0 {}).domainOf k0.tkey).paused = false ∧
    (demoColl g0 {}).access 0 (((demoColl g0 {}).team k0.tkey).space .user) 0x304000#64 64 .read = .ok (frameAt 0x304000) ∧
    ofBytes ((demoColl g0 {}).loadBytes 0 (frameAt 0x304000) 64) = 0x80 * 2 ^ 64 + 0x300000 * 2 ^ 128 ∧
    ofBytes ((demoColl g0 {}).loadBytes 0 (frameAt 0x300000) 64) = 1 ∧ ofBytes ((demoColl g0 {}).loadBytes 0 (frameAt 0x305000) 64) = 2 ^ 504 ∧
    ofBytes ((demoColl g0 {}).loadBytes 0 (frameAt 0x300080) 64) = 0 := by
  refine ⟨fun a _ => ⟨⟨rfl, rfl, rfl⟩, ready_free _ _ _ _ _ _ rfl (show ∀ r ∈ _, 0 + r < 128 by decide), rfl, rfl⟩, by decide +kernel, by decide +kernel,
    by decide +kernel, by decide +kernel, by decide +kernel, by decide +kernel⟩
theorem witness_CollectivesRun_codes :
    (let x := 0x80 * 2 ^ 64 + 0x300000 * 2 ^ 128
     let r := CollRec.ofRecord x
     let v := (demoColl (gAt 0x304000#64) {}).view k0 (gAt 0x304000#64) p0 none
     r.malformed x = false ∧ r.send % 16 = 0 ∧ r.recv % 16 = 0 ∧ r.donea.toNat % 8 = 0 ∧ v.maskBytes r.pset = .ok (1#8 :: List.replicate 63 0#8) ∧
       v.collRefusal r [0] = 0 ∧ v.collRefusal r [] = 3) ∧
    (List.range 512).filter (ofBytes (1#8 :: List.replicate 63 0#8)).testBit = [0] ∧ (CollRec.ofRecord (2 ^ 504)).malformed (2 ^ 504) = true ∧
    (CollRec.ofRecord 1).malformed 1 = false ∧ (CollRec.ofRecord 1).send % 16 ≠ 0 ∧ (demoColl g0 {}).freeColl = some 0 := by decide +kernel
/-- Tickets of a slot that is complete, that runs, and that another grid has taken. -/
theorem witness_CollectivesRun_tickets : (∀ c ∈ [({ slot := some 0 } : Coll), { slot := some 0, running := some (coll0 0) }, { slot := some 1 }, { gen := 1#8, slot := some 0 }],
      Issuing (demoColl gHandle c) k0 gHandle p0 ∧ Ready (demoColl gHandle c) k0 gHandle p0 [8, 2] [2] ∧ (demoColl gHandle c).coll 0 = c) ∧
    (gHandle.seen 2 0).toNat = 2 ^ 31 ∧
    (let s : State := { demoColl g0 { slot := some 0, running := some (coll0 1) } with cycle := 2400000 }
     (s.coll s.ev.n).running = some (coll0 1) ∧ ((kfind s.domains 0).getD {}).paused = false ∧ s.ev.flag = false ∧ s.ev.k ≠ 1 ∧
       (CollRec.ofRecord (coll0 1).record.toNat).tmoms = 1 ∧ (coll0 1).start + 1 * 2400000 ≤ s.cycle ∧ (CollRec.ofRecord (coll0 1).record.toNat).donea = 0#64) := by
  refine ⟨fun c _ => ⟨⟨rfl, rfl, rfl⟩, ready_free _ _ _ _ _ _ rfl (by decide), rfl⟩, by decide, by decide +kernel⟩

-- ## The fabric

/-- Ports up and down, replays at the limit, an entry that moves, and a domain that is paused before and after its barriers. -/
def demoPorts (tries : Nat) : State := { demoPeers g0 with
  ports := [(0, { up := true, tries := tries }), (1, { up := true }), (2, {})], moving := [(2, 0)], sessions := [9], ev := { n := 0, m := 2 } }
def demoRekey (e : Domain) : State := { demoPeers g0 with domains := [(0, { e with members := [0, 5], paused := true })] }
theorem witness_FabricSteps : (∀ t ∈ [0, 7, 8], ((demoPorts t).port (demoPorts t).ev.n).tries = t ∧ ((demoPorts t).port 0).up = true) ∧
    kfind (demoPorts 0).hcnt 3 = none ∧ ((demoPorts 0).port 2).up = false ∧ (demoPorts 0).requests = [] ∧ (demoPorts 0).livePlane 2 = some 0 ∧
    (demoPorts 0).moving.find? (fun x => x.1 = (demoPorts 0).ev.m) = some (2, 0) ∧ 9 ∈ (demoPorts 0).sessions ∧ (demoPorts 0).ev.m ∉ (demoPorts 0).sessions ∧
    (let e := (kfind (demoRekey {}).domains 0).getD {}
     e.paused = true ∧ e.sentBarrier = false ∧ (demoRekey {}).selfNum ∉ e.joining ∧ 5 ∈ e.members ∧ 5 ∉ e.joining ∧ 5 ≠ (demoRekey {}).selfNum ∧
       (kfind (demoRekey {}).seqOut (0, 5)).getD 0 + 512 < 2 ^ 48 - 1) ∧
    (let e := (kfind (demoRekey { nextv := true, sentBarrier := true, barriers := [5] }).domains 0).getD {}
     e.paused = true ∧ e.nextv = true ∧ e.sentBarrier = true ∧ ∀ j ∈ e.members, j ∉ e.joining → j ≠ 0 → j ∈ e.barriers) := by decide +kernel

-- ## Issue, the scheduler and pre-emption

/-- Another group of the same partition, in the active set or not. -/
def demoRuns (g : Group) (runs active : List GKey) : State :=
  let s := (demoTeam x0 g).setGroup k4 g0
  { s.modPart 0 0 fun q => { q with active := active } with runs := runs, cycle := 64, ev := { key := k0 } }
def gPends : Group := { g0 with runLen := 24, pend := [{ reg := 6, mask := 1#32, vals := uniformLanes 0#32, left := none }] }
def gQuantum (rest : List Entry) : Group := { g0 with quantum := 1024, stack := rest }
def gBusy : Group := { g0 with lastIssue := 1, cur := none, unready := some 0 }
theorem witness_IssueSteps :
    ((demoRuns g0 [] [k0]).candidate k0 = true ∧ (demoRuns gBusy [] [k0]).candidate k0 = false ∧ (demoRuns { g0 with lastIssue := 1 } [] [k0, k4]).candidate k4 = true ∧
      ((demoRuns g0 [k0, k0, k4, k4] [k0]).runs.filter fun j => (demoRuns g0 [k0, k0, k4, k4] [k0]).coreOf j = 0 && j.g % 4 = 0).length = 4) ∧
    (k0 ∈ (demoRuns gPends [k0] [k0]).runs ∧ 24 ≤ gPends.runLen ∧ k0 ∉ ((demoRuns g0 [] [k4]).part 0 0).active) ∧
    ((demoRuns gBusy [] [k0]).runReady k0 = false ∧ k0 ∉ (demoRuns gBusy [] [k0]).runs ∧ gBusy.unready = some 0 ∧ 0 + 64 ≤ (demoRuns gBusy [] [k0]).cycle ∧
      kfind (demoRuns gBusy [] [k0]).groups k4 = some g0 ∧ k4.g % 4 = k0.g % 4 ∧ (demoRuns gBusy [] [k0]).runReady k4 = true) ∧
    ((gPends.pend.zipIdx.filter fun p => p.1.left == none && p.1.await == none)[(demoRuns gPends [] []).ev.n]?).isSome = true ∧
    ((∀ e ∈ (gQuantum []).stack.drop (frameBase (gQuantum []).stack), e.isReady = false) ∧
      (let e : Entry := ⟨.path .ready, 8#32, 1#32, 0#32⟩
       (gQuantum [e]).stack = [] ++ e :: [] ∧ frameBase (gQuantum [e]).stack ≤ 0 ∧ e.isReady = true)) ∧
    (g0.openInto .supervisor < 4 ∧ (g0.bank .supervisor).tvec.toNat % 4 = 0 ∧
      (let s := (demoTeam { x0 with bps := [(3, 1#32)] } g0)
       (kfind (s.team k0.tkey).bps 3).getD 0#32 = p0.pc ||| 1#32 ∧ ∀ j < 3, ¬ (((kfind (s.team k0.tkey).bps j).getD 0#32).getLsbD 0 = true))) := by
  decide +kernel
/-- A machine with a second grid of one team to place, and one where that grid is done. -/
def lrNew : LaunchRec := { tsize := 1, pword := 16#32 }
def demoGrids (e : Bool) (x : Team) : State :=
  let s := demoTeam x g0
  { s with grids := [(0, s.grid 0), (1, { lr := lrNew, eligible := e })], cycle := 120000000, ev := { n := 1, key := k0 } }
def demoDone : State := { demoGrids true x0 with grids := [(1, { lr := { lrNew with done := 0x300000#64, ptb := BitVec.ofNat 64 standInRoot }, eligible := true, nextTeam := 1, ended := [0] })] }
theorem witness_SchedulerSteps :
    (∃ gr, kfind (demoGrids false x0).grids (demoGrids false x0).ev.n = some gr ∧ gr.eligible = false ∧ gr.lr.wait0a = 0#64) ∧
    ((demoGrids true x0).waiting 1 = true ∧ ((demoGrids true x0).grid 1).agedAt + 120000000 ≤ (demoGrids true x0).cycle) ∧
    (demoDone.gridDone demoDone.ev.n = true ∧ demoDone.access noCore ((demoDone.grid 1).lr.space ((demoDone.grid 1).launcher == .user)) 0x300000#64 8 .both =
      .ok (frameAt 0x300000) ∧ demoDone.wrongKey 0x300000 0 = false) ∧
    ((demoGrids true x0).turn none = some (1, none, [1]) ∧ (demoGrids true x0).nextCluster 1 = [⟨1, 0⟩] ∧ 0 ∉ ((demoGrids true x0).grid 1).ended ∧
      (demoGrids true x0).fitsNew 1 lrNew = true) ∧
    (x0.stop = false ∧ x0.slice ≤ (demoGrids true x0).cycle ∧ ((demoGrids true x0).grid 0).prio ≤ ((demoGrids true x0).grid 1).prio) ∧
    (let s : State := { demoGrids true { x0 with usedMatrix := true } with pairs := [(0, { hot := true })] }
     (s.team k0.tkey).usedMatrix = true ∧ (s.pair 0).hot = true ∧ (s.record k0.tkey).beam = false) := by
  refine ⟨⟨{ lr := lrNew, eligible := false }, by decide +kernel⟩, by decide +kernel, by decide +kernel, by decide +kernel, by decide +kernel, by decide +kernel⟩
/-- The team saved in the slot of core 0, held or not, and its image with one live group. -/
def saved0 : Saved := { team := k0.tkey, core := 0, entry := 0, ovf := false, addr := 0x241000, lenK := 32, keep := { x0 with spRows := 0 }, groups := [], parks := [], fifo := [], packets := [], gridC := 0#32 }
def demoSaved (e : Byte) (bad : List Nat) : State :=
  let s := State.modCore { demoTeam x0 g0 with teams := [], groups := [], runs := [], focus := none, saved := [saved0] } 0 fun c =>
    { c with column := [(0x240000, e), (0x241042, 32#8), (0x241044, 0x10#8), (0x241049, 0x80#8), (0x24420E, 1#8)], colBad := bad, ctxPend := some 0x30 }
  State.modGrid { s with ev := { key := k0 } } 0 fun g => { g with lr := { g.lr with pword := 16#32 } }
def full1 : State := State.modCore (demoTeam x0 g0) 0 fun c => { c with ctx := 0 }
theorem witness_PreemptionSteps :
    ((demoTeam x0 g0).isResident k0.tkey = true ∧ (demoTeam x0 g0).clusterHere k0.tkey = [k0.tkey] ∧ x0.killed = false ∧ x0.stop = false ∧
      ((demoTeam x0 g0).clusterRoom k0.tkey).isSome = true ∧ full1.clusterRoom k0.tkey = none ∧ full1.clusterHere k0.tkey = [k0.tkey]) ∧
    (let s := demoTeam { x0 with stop := true } g0
     s.teamDrained k0.tkey = true ∧ s.savePlace k0.tkey = some ⟨0, false, 0x241000, s.imageLength k0.tkey⟩) ∧
    (let s := State.modCore (demoTeam { x0 with stop := true } g0) 0 fun c => { c with ctx := 0 }
     s.roomFor 0 (s.imageLength k0.tkey) none = none) ∧
    ((demoSaved 1#8 []).turn none = some (0, some k0.tkey, [0]) ∧ (demoSaved 1#8 []).savedOf k0.tkey = some saved0 ∧ (demoSaved 1#8 []).badImage saved0 = false ∧
      (demoSaved 1#8 [0x12080]).badImage saved0 = true ∧ (demoSaved 1#8 [0x12080]).turn none = some (0, some k0.tkey, [0]) ∧
      0 ∈ (imageMap ((demoSaved 1#8 []).imageRead saved0) ((demoSaved 1#8 []).record k0.tkey) saved0.keep.spRows).live) ∧
    (k0.team ∉ ((demoTeam x0 g0).grid 0).ended ∧ kfind (demoSaved 1#8 []).teams k0.tkey = none ∧ (demoTeam { x0 with killed := true } g0).teamDrained k0.tkey = true) ∧
    ((List.range 256).find? ((demoSaved 2#8 []).holdAsked 0) = some 0 ∧
      (let s := (demoTeam x0 g0).modCore 0 fun c => { c with column := [(0x240000, 2#8)] }
       (List.range 256).find? (s.holdAsked 0) = some 0 ∧ s.dirEntry 0 0 / 2 ^ 24 % 256 = 0 ∧ s.dirEntry 0 0 / 2 ^ 32 % 2 ^ 32 = 0 ∧ x0.core = 0 ∧ x0.holdAt = none)) ∧
    (((demoSaved 1#8 []).core 0).ctxPend = some 0x30 ∧ (demoSaved 1#8 []).allotmentAbove 0 (slotStart 0x30) = false ∧
      ∃ x ∈ (demoSaved 1#8 []).saved, x.core = 0 ∧ x.ovf = false) := by
  refine ⟨by decide +kernel, by decide +kernel, by decide +kernel, by decide +kernel, by decide +kernel, by decide +kernel, by decide +kernel⟩

-- ## Debug, power and management

/-- A request with a number, a command, a selector and a length in the mailbox of core 0, above a machine whose team runs, is saved and held, or is not there. -/
def demoMail (s : State) (req cmd sel len : Byte) : State := { s with
  dbgBase := 0x400000, mem := s.mem ++ [(0x400000, req), (0x400011, cmd), (0x40001A, sel), (0x40001C, len)], ev := { key := k0 } }
theorem witness_MonitorServes :
    (∀ cmd ∈ [1#8, 2#8, 3#8, 4#8, 5#8, 6#8, 7#8, 8#8, 9#8, 10#8], (demoMail (demoTeam x0 g0) 1#8 cmd 3#8 8#8).mail 0 =
      { addr := 0, len := 8, sel := 3, group := 0, team := k0.tkey, cmd := cmd.toNat, ack := 0, req := 1 }) ∧
    ((demoMail (demoTeam x0 g0) 2#8 1#8 0#8 0#8).mail 0).req = 2 ∧ (demoMail (demoTeam x0 g0) 1#8 1#8 0#8 0#8).dbgBase % 4096 = 0 ∧
    (let s := demoMail (demoSaved 3#8 []) 1#8 3#8 3#8 8#8
     s.saved.find? (fun x => x.team = k0.tkey && x.core = 0) = some saved0 ∧ s.isHeld saved0 = true ∧ slotStart (s.core 0).ctx + 4096 ≤ saved0.addr ∧
       s.liveGroup saved0 0 = true ∧ s.liveGroup saved0 1 = false ∧ (s.readItem saved0 0 0x300).isSome = true ∧ s.readItem saved0 0 0xFFFF = none ∧
       (s.writeItem saved0 0 0x300 (s.mailRead 0 64 128)).isSome = true ∧ s.writeItem saved0 0 0xFFFF (s.mailRead 0 64 128) = none) ∧
    (let s := demoMail (demoTeam x0 g0) 1#8 5#8 0#8 8#8
     s.monitorFrames 0 8 .read = some [(frameAt 0, 8)] ∧ s.monitorFrames (2 ^ 57) 8 .read = none ∧ s.freeEntry 0 = some 0) := by
  refine ⟨by decide +kernel, by decide +kernel, by decide +kernel, by decide +kernel, by decide +kernel⟩
theorem witness_PowerAndManagement : (demoTeam x0 g0).off = false ∧ (demoTeam x0 g0).killReg.getLsbD 31 = false ∧ (demoTeam x0 g0).ev.flag = false ∧
    (demoTeam x0 g0).off = false ∧ State.reset.off = false ∧ (let s : State := { demoTeam x0 g0 with killReg := 0x80000000#32, off := true }
      s.killReg.getLsbD 31 = true ∧ s.off = true) ∧
    (2 ^ 31 : Nat).testBit 31 = true ∧ (kfind (demoTeam x0 g0).grids 0).isSome = true ∧
    (List.range ((demoTeam x0 g0).grid 0).lr.teamCount).filter (fun i =>
      ((demoTeam x0 g0).killTeam = 0xFFFFFFFF#32 ∨ (demoTeam x0 g0).killTeam.toNat = i) ∧ i ∉ ((demoTeam x0 g0).grid 0).ended) = [0] ∧
    ((demoTeam x0 g0).core 0).fenced = false ∧ 1 ∉ (demoTeam x0 g0).keys ∧ 0 ∈ (demoTeam x0 g0).keys ∧
    (let s : State := { demoTeam x0 g0 with writes := [⟨0, 0, 0x300000, [1#8], 6, 2, 0⟩] }
     ∃ w ∈ s.writes, w.core / 16 = 0 ∧ 2 ≤ w.reach ∧ w.reach < 6) := by decide +kernel

-- ## The machine

/-- A word at the PC that decodes, and a pair. -/
theorem witness_StepRunsDecoded : Issuing demo k0 g0 p0 ∧ demo.agenda = [] ∧ demo.breakpointAt k0 g0 p0 = none ∧
    (demo.fetchWord k0 .user 0#32 = .ok 0#32 ∧ isPfx 0#32 = false ∧ decodeWords 0#32 none = .ok ⟨false, 0#3, .nop⟩) ∧
    (let s := State.reset.withFetchWord 64 0x064183FF0FE00001
     Issuing s k0 g0 p0 ∧ s.fetchWord k0 .user 0#32 = .ok 0x0FE00001#32 ∧ isPfx 0x0FE00001#32 = true ∧
       s.fetchWord k0 .user (0#32 + 4#32) = .ok 0x064183FF#32 ∧ decodeWords 0x0FE00001#32 (some 0x064183FF#32) = .ok ⟨false, 0#3, .andi (some 1#21) 6#7 7#7 0x7F#7⟩) :=
  ⟨⟨rfl, rfl, rfl⟩, rfl, by decide, by decide +kernel, ⟨rfl, rfl, rfl⟩, by decide +kernel, by decide, by decide +kernel, by decide⟩
theorem witness_DecodeInvertsEncode : (Instr.sub 1#7 2#7 3#7).wellFormed = true ∧ (Instr.mma (some 2#21) 40#7 10#7 64#7).wellFormed = true := by decide
theorem witness_MemoryFormIsKept : demo.MemOk ∧ ∃ t, step demo = .next t := ⟨by unfold State.MemOk; decide +kernel, _, rfl⟩

-- ## Ill-formed terms, one for each check of WellFormed

/-- A pair, an aligned group of four, payload bits, register numbers of a tile's coordinates, reserved operand values, and a step without a word. -/
theorem test_pairs_are_even : (Instr.mov64 2#7 4#7).wellFormed = true ∧ (Instr.mov64 3#7 4#7).wellFormed = false ∧ (Instr.mov64 2#7 5#7).wellFormed = false ∧
    (Instr.add64 2#7 4#7 7#7).wellFormed = false ∧ (Instr.ld none 4#7 3#7 0#3 2#2 0#2).wellFormed = false ∧ (Instr.cvtS64F32 5#7 1#7).wellFormed = false := by
  decide
theorem test_quads_are_aligned : (Instr.dqPush 8#7 2#7).wellFormed = true ∧ (Instr.dqPush 10#7 2#7).wellFormed = false ∧
    (Instr.twaitb 9#7 1#7).wellFormed = false ∧ (Instr.mwaitb 6#7 1#7).wellFormed = false ∧ (Instr.ldn (some 0x80000#21) 6#7 1#7 3#2).wellFormed = false := by
  decide
theorem test_data_registers : (Instr.ld none 5#7 2#7 0#3 3#2 0#2).wellFormed = false ∧ (Instr.st none 4#7 2#7 0#3 3#2 0#2).wellFormed = true ∧
    (Instr.mona none 5#7 2#7 0#3 3#2 0#2).wellFormed = false ∧ (Instr.mona none 5#7 2#7 0#3 2#2 0#2).wellFormed = true := by decide
theorem test_payload_bits : (Instr.movi (some 0x3FFFF#21) 1#7 0#14).wellFormed = true ∧ (Instr.movi (some 0x40000#21) 1#7 0#14).wellFormed = false ∧
    (Instr.addz64 (some 0x20#21) 2#7 4#7 1#7).wellFormed = false ∧ (Instr.mma (some 4#21) 1#7 2#7 3#7).wellFormed = false ∧
    (Instr.ld (some 0x80000#21) 8#7 2#7 0#3 2#2 0#2).wellFormed = false ∧ (Instr.ld (some 0x100000#21) 8#7 2#7 0#3 3#2 0#2).wellFormed = false ∧
    (Instr.accFree (some 1#21) 1#7).wellFormed = false ∧ (Instr.touch (some 0x80000#21) 1#7 2#7).wellFormed = false := by decide
theorem test_atomic_registers : (Instr.aadd (some 0x80000#21) 7#7 2#7 0#3 8#4).wellFormed = false ∧ (Instr.aadd (some 0x80000#21) 6#7 2#7 0#3 7#4).wellFormed = false ∧
    (Instr.aadd (some 0x100000#21) 1#7 2#7 0#3 7#4).wellFormed = false ∧ (Instr.aadd (some 0x100000#21) 0#7 2#7 0#3 7#4).wellFormed = true ∧
    (Instr.acas (some 0x80000#21) 6#7 2#7 0#3 9#4).wellFormed = false ∧ (Instr.afadd (some 0x100000#21) 2#7 2#7 0#3 7#4).wellFormed = false := by decide
theorem test_ratom_operations : (Instr.ratom (some 9#21) 8#7 2#7 6#7).wellFormed = true ∧ (Instr.ratom (some 9#21) 9#7 2#7 6#7).wellFormed = false ∧
    (Instr.ratom (some 11#21) 8#7 2#7 6#7).wellFormed = false ∧ (Instr.ratom (some 0x2A#21) 8#7 2#7 6#7).wellFormed = false ∧
    (Instr.ratom (some 0x29#21) 6#7 2#7 6#7).wellFormed = false := by decide
theorem test_reserved_operands : (Instr.sget 1#7 0x1C#7).wellFormed = false ∧ (Instr.sset 1#7 0x4C#7).wellFormed = false ∧
    (Instr.cmaintTlb 2#7 4#7 7#3).wellFormed = false ∧ (Instr.tcopy 2#7 1#7 123#7).wellFormed = false ∧ (Instr.tcopy 2#7 1#7 122#7).wellFormed = true ∧
    Instr.copyComplete.wellFormed = false := by decide
/-- R20's example: NOP with a reserved bit is ILLEGAL. -/
theorem test_reserved_bits_are_refused : decodeWords 0x00004000#32 none ≠ .ok ⟨false, 0#3, .nop⟩ := by decide

-- ## Single steps with the results that the specification works out

/-- Lane 0's value and flags of the newest write on its way, after an instruction of the group. -/
def sent0 (g : Group) (i : Instr) : Option (Word × BitVec 5) := match exec i (demoOf g) with
  | .next t => ((kfind t.groups k0).bind fun h => h.pend.getLast?).map fun q => (q.vals[0], q.flags[0])
  | _ => none
/-- What the next instruction reads in lane 0 of a register, and lane 0's flags. -/
def read0 (g : Group) (i : Instr) (r : Nat) : Option (Word × BitVec 5) := match exec i (demoOf g) with
  | .next t => (kfind t.groups k0).map fun h => ((h.read r)[0], h.aflags[0])
  | _ => none
def gVals (fmt : Word) (vs : List (Nat × Word)) : Group := { g0 with
  cur := some { p0 with fmt := fmt }, regs := vs.map fun v => (v.1, ⟨uniformLanes v.2, false⟩) }
/-- The examples of BFX and BFI in the chapter on arithmetic. -/
theorem test_bfx_sign_extends : read0 (gVals 0#32 [(1, 0xB0#32), (2, 0x884#32)]) (.bfx 3#7 1#7 2#7) 3 = some (0xFFFFFFFB#32, 0#5) := by decide +kernel
theorem test_bfi_inserts : read0 (gVals 0#32 [(1, 0xB0#32), (2, 0x884#32), (3, 0x12345678#32)]) (.bfi 3#7 1#7 2#7) 3 = some (0x12345608#32, 0#5) := by decide +kernel
/-- The example of DOT2B: the exact chunk is 1. -/
theorem test_dot2b_is_exact : sent0 (gVals 0#32 [(9, 0xCB804B80#32), (10, 0x3F803F80#32), (8, 0x3F800000#32)]) (.dot2b 8#7 9#7 10#7) =
    some (0x3F800000#32, 0#5) := by decide +kernel
/-- The example of CVT.E4M3.F32 of 465.0, without and with SAT. -/
theorem test_cvt_e4m3_overflows : read0 (gVals 0#32 [(5, 0x43E88000#32)]) (.cvtE4m3F32 4#7 5#7) 4 = some (0x7F#32, 0b00101#5) := by decide +kernel
theorem test_cvt_e4m3_saturates : (read0 (gVals 0x80000#32 [(5, 0x43E88000#32)]) (.cvtE4m3F32 4#7 5#7) 4).map (·.1) = some 0x7E#32 := by decide +kernel
/-- The example of SPAWN's owner: in a grid of 64 teams, the address 0x4000110D04 belongs to team 32. -/
theorem test_spawn_owner : (let s := demoOf g0
    let s := s.modGrid 0 fun g => { g with lr := { g.lr with teamsm1 := 63#32 } }
    s.ownerOf k0.tkey 0x4000110D04#64) = .ok 32 := by decide +kernel
/-- ADDI of 0 and −1 wraps, and a step of the machine runs the instruction at the PC. -/
theorem test_addi_wraps : read0 g0 (.addi none 3#7 3#7 0x7F#7) 3 = some (0xFFFFFFFF#32, 0#5) := by decide +kernel
theorem test_step_runs_a_word : (match step (State.reset.withFetchWord 32 0x0440C1FF) with
    | .next t => (kfind t.groups k0).map fun h => ((h.read 3)[0], h.cur.map (·.pc))
    | _ => none) = some (0xFFFFFFFF#32, some 4#32) := by decide +kernel
/-- A system call enters the supervisor. -/
theorem test_sysc_enters : (match exec (.sysc 5#7) (demoOf g0) with
    | .next t => (kfind t.groups k0).map fun h => (h.mode, h.stack.length, (h.bank .supervisor).tpc)
    | _ => none) = some (.supervisor, 1, 0#32) := by decide +kernel

-- ## Witnesses of the clauses on fences, holds, planes and the end of an identity

/-- Nothing is held: no fence, and no directory that is rebuilt. -/
theorem witness_Unheld : (∀ v ∈ [0#64, 0x300000#64], Unheld (demoRec (gAt v)) (gAt v)) ∧ Unheld (demoAbsent (gAt 0x1000000000#64)) (gAt 0x1000000000#64) ∧
    (∀ a ∈ [0#64, 0x300000#64], ∀ w ∈ [false, true], Unheld (demoRec (gWaveAt w a)) (gWaveAt w a)) ∧
    (∀ n ∈ [1#8, 2#8], Unheld (demoDeque n gOne) gOne) ∧ (∀ m w, Unheld (demoTeam x0 (gMon m w)) (gMon m w)) ∧
    (∀ g ∈ [gHandle, gMember, gPeer 5], g.fences = []) :=
  ⟨fun _ _ => ⟨rfl, rfl⟩, ⟨rfl, rfl⟩, fun _ _ _ _ => ⟨rfl, rfl⟩, fun _ _ => ⟨rfl, rfl⟩, fun _ _ => ⟨rfl, rfl⟩, by decide +kernel⟩
theorem witness_CopiesMoveTheirBytes_member : copy0.orphan = false ∧ kfind (demoQueue 1).groups copy0.key = some gHandle := by decide +kernel
theorem witness_MatrixWorkIssues_tile : ((demoGang gMember (meeting [k0, k4]) holds0).team (latch0 [k0, k4]).gang.team).tileValid (latch0 [k0, k4]).d = true := by
  decide +kernel
theorem witness_MatrixWorkCompletes_member : (op0 none none).members = [⟨k0, 1#32, 0, List.replicate 8 (uniformLanes 0#32), 64, false⟩] ∧
    kfind (demoGang gMember {} {}).groups k0 = some gMember := by decide +kernel
/-- RATOM wide and without return, and the subscriptions that are on their way. -/
theorem witness_RemoteInstructionsSend_forms : ratomWide (some 0x20#21) = true ∧ ratomNoReturn (some 0x10#21) = true ∧ ratomWide none = false ∧
    (demoPeers (gPeer 5)).entriesAsked = 0 ∧ (demoPeers (gPeer 5)).usedUp 0 5 = false ∧ (gPeer 5).posted = [] ∧
    ({ demoPeers (gPeer 5) with ports := [] } : State).noPlane = true := by decide +kernel
/-- No plane that the answers take is held; and a push whose set of U ways has room. -/
theorem witness_PeersAreServedAndAnswered_planes :
    (let s := accepted (demoAsk .nobody) (rpacket .load 0)
     (demoAsk .nobody).planeHeld (planeEntry (demoAsk .nobody).selfNum 0) = false ∧ (demoAsk .nobody).planeHeld (planeEntry 5 0) = false ∧
       s.subscribed 5 0 0 = false ∧ (s.uSet 5 0).length < 2 ∧ (request0 .nobody).peer ≠ (demoAsk .nobody).selfNum) := by decide +kernel
/-- A collective of `n` elements of FP32 that are sent from the start of the heap and received at `recv`, among the given participants. -/
def collOf (n recv : Nat) (ps : List Nat) : CollRun := ⟨BitVec.ofNat 512 (n * 2 ^ 256 + recv * 2 ^ 64), ps, 0, 0⟩
def demoCollOf (c : CollRun) (bad : List Nat) : State := { demoColl g0 { slot := some 0, running := some c } with poisoned := bad }
/-- A collective that runs, that waits for its domain, that can reach nobody, that disagrees, and whose buffers fail. -/
theorem witness_CollectivesRun_ends :
    (∀ c ∈ [collOf 1 0x80 [0], collOf 0 0 [0, 5], collOf 1 0x10000 [0]], ((demoCollOf c []).coll 0).running = some c ∧ (demoCollOf c []).collHeld c = false ∧
      (demoCollOf c []).collReach c = true) ∧
    (let s : State := { demoCollOf (collOf 0 0 [0]) [] with domains := [(0, { domain0 with paused := true })] }
     s.collHeld (collOf 0 0 [0]) = true) ∧
    (let s : State := { demoCollOf (collOf 0 0 [0, 5]) [] with ports := [] }
     s.collReach (collOf 0 0 [0, 5]) = false ∧ s.collHeld (collOf 0 0 [0, 5]) = false) ∧
    headerKey [] ≠ headerKey (collHeader [0, 5] (collOf 0 0 [0, 5]).record.toNat) ∧
    (∃ b ∈ (demoCollOf (collOf 1 0x80 [0]) [lineOf 0x300000]).heapBytes 0 0 4, b.2.1 = true) ∧
    (∀ b ∈ (demoCollOf (collOf 1 0x80 [0]) []).heapBytes 0 0 4, b.2.2 = false) ∧ (∃ b ∈ (demoCollOf (collOf 1 0x80 [0]) []).heapBytes 0 0x10000 4, b.2.2 = true) ∧
    ((demoCollOf (collOf 1 0x80 [0]) []).heapWrite 0 0x80 (List.replicate 4 (0#8, false))).2 = false ∧
    ((demoCollOf (collOf 1 0x10000 [0]) []).heapWrite 0 0x10000 (List.replicate 4 (0#8, false))).2 = true ∧
    (∀ f ∈ (gAt 0x304000#64).fences, f.kind ≠ 3 ∧ f.kind ≠ 4) := by decide +kernel
/-- A packet that waits for its plane and one that need not, a port with a flit to replay, and a domain that nothing waits for. -/
def held0 : HeldPacket := ⟨5, 0, 5, 0, .barrier, none⟩
theorem witness_FabricSteps_held : (let s : State := { demoPeers g0 with heldOut := [held0] }
      s.packetHeld held0 = false ∧ s.heldOut = [held0] ∧ (kfind s.seqOut (held0.dom, held0.peer)).getD 0 < 2 ^ 48 - 1) ∧
    ({ demoPeers g0 with heldOut := [held0], ports := [] } : State).packetHeld held0 = true ∧
    (let s : State := { demoPeers g0 with ports := [(0, { up := true, replay := [⟨0, 5, 7, 0⟩] })] }
     (s.port 0).replay ≠ []) ∧ (demoRekey {}).barrierHeld 0 = false ∧ (demoPeers g0).heldOut = [] ∧ (demoPeers g0).owed = [] ∧
    (demoPeers g0).planeHeld (planeEntry 5 0) = false := by decide +kernel
theorem witness_IssueSteps_entered : (demoRuns g0 [] [k0]).entered k0 = true ∧ (demoRuns { g0 with runFrom := 65 } [] [k0]).entered k0 = false ∧
    ((demoRuns gBusy [] [k0]).candidate k4 = true ∧ k4 ∉ ((demoRuns gBusy [] [k0]).part 0 0).active ∧ kfind (demoRuns gBusy [] [k0]).groups k4 = some g0 ∧
      (demoRuns gBusy [] [k0]).coreOf k4 = 0 ∧ ((demoRuns gBusy [] [k0]).part 0 0).active.length < 8) ∧ gBusy.cur = none := by decide +kernel
theorem witness_SchedulerSteps_rest : x0.gone = false ∧ demoDone.heldOut = [] := by decide +kernel
theorem witness_PreemptionSteps_rest : (demoSaved 1#8 []).imageTeam saved0 = saved0.team ∧ (∀ r ∈ (demoTeam x0 g0).rings, r.team ≠ k0.tkey) ∧
    k0.tkey.team < ((demoTeam x0 g0).grid 0).lr.teamCount ∧ (∀ l ∈ ((demoTeam x0 g0).part 0 0).latches, l.gang.team ≠ k0.tkey) ∧
    (∀ k : GKey, k.tkey = k0.tkey → kfind (demoSaved 1#8 []).groups k = none) := by
  refine ⟨by decide +kernel, by decide +kernel, by decide +kernel, by decide +kernel, fun k _ => rfl⟩
/-- A command that the mailbox does not have, and a team that is there and not held. -/
theorem witness_MonitorServes_rest : ((demoMail (demoTeam x0 g0) 1#8 11#8 0#8 0#8).mail 0).cmd = 11 ∧
    (demoMail (demoSaved 1#8 []) 1#8 3#8 3#8 8#8).isHeld saved0 = false ∧ (demoMail (demoTeam x0 g0) 1#8 2#8 0#8 0#8).saved = [] ∧
    (∀ i < 256, (demoMail (demoTeam x0 g0) 1#8 1#8 0#8 0#8).dirEntry 0 i = 0) := by decide +kernel
/-- Sensors below and above the trip, a twin that is hot, and a team to kill. -/
theorem witness_PowerAndManagement_rest :
    (let s : State := { demoTeam x0 g0 with sensors := [(0, 110)], hotDecks := [0] }
     s.off = false ∧ 0 ∈ s.hotDecks ∧ ¬ (∀ i < 16, s.sensor (16 * 0 + i) < 100)) ∧ (demoTeam x0 g0).rebuild = [] ∧
    (let s : State := { demoTeam x0 g0 with killReg := 0x80000000#32, killNames := [k0.tkey] }
     s.killNamed ≠ []) ∧ (let s : State := { demoTeam x0 g0 with killReg := 0x80000000#32, killNames := [] }
     s.killNamed = []) := by decide +kernel
theorem witness_StepRunsDecoded_rest : g0.stepDue = false ∧ demo.rebuild = [] := by decide +kernel

-- ## Witnesses of further clauses

/-- Sources of FSQRT at the ends of the positive finite range. -/
theorem witness_SpecialFunctionResults_root :
    let fits := fun a : Word => a.msb = false ∧ 0 < a.toNat % 2 ^ 31 ∧ a.toNat % 2 ^ 31 < 0x7F800000
    fits 1#32 ∧ fits 0x3F800000#32 ∧ fits 0x7F7FFFFF#32 := by decide
/-- FMT with a reserved bit, and with an element code that CVTP does not have. -/
def pFmt (w : Word) : Path := ⟨0#32, 0xFFFFFFFF#32, w⟩
def gFmt (w : Word) : Group := { g0 with cur := some (pFmt w) }
theorem witness_ConversionResults_illegal : (∀ w ∈ [0x400000#32, 11#32, 15#32], Issuing (demoOf (gFmt w)) k0 (gFmt w) (pFmt w) ∧
      Ready (demoOf (gFmt w)) k0 (gFmt w) (pFmt w) [] [1] ∧ Ready (demoOf (gFmt w)) k0 (gFmt w) (pFmt w) [] [1, 2] ∧
      Ready (demoOf (gFmt w)) k0 (gFmt w) (pFmt w) [] [127, 1, 2]) ∧
    (pFmt 0x400000#32).fmt.toNat / 2 ^ 22 ≠ 0 ∧ 11 ≤ (pFmt 11#32).fmt.toNat % 16 ∧ (pFmt 11#32).fmt.toNat / 2 ^ 22 = 0 :=
  ⟨fun _ _ => ⟨issuing_demoOf _ _ rfl, ready_free _ _ _ _ _ _ rfl (by simp), ready_free _ _ _ _ _ _ rfl (by simp), ready_free _ _ _ _ _ _ rfl (by simp)⟩,
    by decide, by decide, by decide⟩
/-- A load whose register a later write took, and whose lane was absent. -/
def gAbsent : Group := { g0 with pend := [{ reg := 5, mask := 0#32, vals := uniformLanes 0#32, absent := 1#32, left := none }] }
theorem witness_SpecialRegisterReads_sampled_absent : Issuing (demoOf gAbsent) k0 gAbsent p0 ∧ Ready (demoOf gAbsent) k0 gAbsent p0 [127] [] ∧
    ∃ q ∈ gAbsent.pend, q.left = none ∧ q.await = none ∧ (q.mask ||| q.absent) &&& p0.ex ≠ 0#32 :=
  ⟨issuing_demoOf _ _ rfl, ⟨by decide, by decide, fun h => absurd h (by decide)⟩, by decide⟩
theorem witness_PrivilegeTrapReturnsAndFlags_user : Issuing (demoOf g0) k0 g0 p0 ∧ g0.mode = .user ∧ ((demoOf g0).record k0.tkey).lright = false ∧
    Ready (demoOf g0) k0 g0 p0 [] [127, 2, 3] ∧ Ready (demoOf g0) k0 g0 p0 [] [2, 3] ∧ gAbove.aboveTrap = true :=
  ⟨issuing0, rfl, by decide, ready0 _ _ (by simp), ready0 _ _ (by simp), by decide⟩
theorem witness_LoadsReturnMemory_home : (frameAt 0x300000).atHome = false := by decide
/-- Lane 0 misaligned and every other lane at a line of its own; with room in the stack, and with 24 entries used. -/
def gMixed (n : Nat) (step : Nat) : Group := { g0 with
  regs := [(2, ⟨lanesOf fun L => if L = 0 then 2#32 else BitVec.ofNat 32 (step + 128 * L.val), false⟩)]
  stack := List.replicate n ⟨.mark, 64#32, 0xFFFFFFFF#32, 0#32⟩ }
theorem witness_FailedAccessesTrap_mixed : (∀ n ∈ [0, 24], Issuing (demoOf (gMixed n 0x300000)) k0 (gMixed n 0x300000) p0 ∧
      Ready (demoOf (gMixed n 0x300000)) k0 (gMixed n 0x300000) p0 [2, 3, 127] [2, 3, 127] ∧ Unheld (demoOf (gMixed n 0x300000)) (gMixed n 0x300000) ∧
      (gMixed n 0x300000).used = n) ∧
    (∀ L : Fin 32, (demoOf (gMixed 0 0x300000)).finds k0 (gMixed 0 0x300000) 2 0#64 4 .write L =
      if L = 0 then .bad 2 .align else .ok (frameAt (0x300000 + 128 * L.val))) ∧
    (∀ L : Fin 32, (demoOf (gMixed 0 0x300000)).wrongKey (0x300000 + 128 * L.val) 0 = false) ∧ p0.ex.getLsbD 0 = true := by
  refine ⟨fun n hn => ?_, by decide +kernel, by decide +kernel, by decide⟩
  have h : (gMixed n 0x300000).used = n := by revert n; decide
  exact ⟨issuing_demoOf _ _ rfl, ready_any _ rfl rfl rfl _ _ (by decide), ⟨rfl, rfl⟩, h⟩
/-- Lane 0 misaligned, lane 1 beyond the near memory, and the others in the scratchpad. -/
def gNearMixed (n : Nat) : Group := { g0 with
  regs := [(2, ⟨lanesOf fun L => if L = 0 then 2#32 else if L = 1 then 0x7FFFFFF8#32 else BitVec.ofNat 32 (8 * L.val), false⟩)]
  stack := List.replicate n ⟨.mark, 64#32, 0xFFFFFFFF#32, 0#32⟩ }
theorem witness_NearLoadsAndStores_mixed : (∀ n ∈ [0, 24], Issuing (demoTeam x0 (gNearMixed n)) k0 (gNearMixed n) p0 ∧
      Ready (demoTeam x0 (gNearMixed n)) k0 (gNearMixed n) p0 [2, 3, 4, 5, 6, 127] [2, 3, 4, 5, 127] ∧ (gNearMixed n).used = n ∧ (gNearMixed n).fences = []) ∧
    (∀ L : Fin 32, L.val < 2 → ((gNearMixed 0).seen 2 L).toNat % 4 ≠ 0 ∨ (demoTeam x0 (gNearMixed 0)).nearDecode k0.tkey .user ((gNearMixed 0).seen 2 L).toNat 4 = none) ∧
    ∀ L : Fin 32, 2 ≤ L.val → ((gNearMixed 0).seen 2 L).toNat % 8 = 0 ∧
      (demoTeam x0 (gNearMixed 0)).nearDecode k0.tkey .user ((gNearMixed 0).seen 2 L).toNat 8 = some (.spad k0.tkey (8 * L.val)) := by
  refine ⟨fun n hn => ?_, by decide +kernel, by decide +kernel⟩
  have h : (gNearMixed n).used = n := by revert n; decide
  exact ⟨⟨rfl, rfl, rfl⟩, ready_free _ _ _ _ _ _ rfl (show ∀ r ∈ _, 0 + r < 128 by decide), h, rfl⟩
/-- A posted atomic without its response behind fences that acquire, and a failure to report. -/
def gPosted : Group := { g0 with posted := [⟨3, 0#32, [0], [], true⟩], fences := [⟨0, 7⟩, ⟨2, 7⟩] }
def fail0 : PFail := ⟨3, 8#64, 64#32, 1#32, 9#8⟩
def gFailed : Group := { g0 with pfail := [fail0] }
theorem witness_FencesAndTouch_posted : Issuing (demoOf gPosted) k0 gPosted p0 ∧ gPosted.posted.any (·.reads) = true ∧ gPosted.pfail = [] ∧
    (∀ n ∈ [0, 2], ∃ f ∈ gPosted.fences, f.kind = n ∧ f.scope = 7) ∧
    (∀ n ∈ [1, 2, 3], (demoOf gPosted).fenceReady 0 gPosted ⟨n, 7⟩ = false) ∧ Ready (demoOf gPosted) k0 gPosted p0 [2, 3, 127] [2, 3] ∧
    Ready (demoOf gPosted) k0 gPosted p0 [2, 3, 127] [2, 3, 127] ∧ Issuing (demoOf gFailed) k0 gFailed p0 ∧ gFailed.pfail = fail0 :: [] ∧
    gFailed.posted = [] ∧ Ready (demoOf gFailed) k0 gFailed p0 [8, 6, 2, 3, 9] [6, 2, 3, 8, 9] ∧ ratomNoReturn none = false :=
  ⟨issuing_demoOf _ _ rfl, by decide, rfl, by decide, by decide, ready_any _ rfl rfl rfl _ _ (by decide), ready_any _ rfl rfl rfl _ _ (by decide),
    issuing_demoOf _ _ rfl, rfl, rfl, ready_any _ rfl rfl rfl _ _ (by decide), by decide⟩
/-- The beam without an entry, and the upper deck's end of a pair that is realigned. -/
def demoAway : State := { demoBeam true {} with
  teams := kput (demoTeam x0 g0).teams k0.tkey { x0 with core := 256 }, pairs := [(0, { realign := .running })] }
theorem witness_BeamTransfers_waits : ((demoBeam true {}).part 0 0).fifo = [] ∧ ((demoBeam true {}).record k0.tkey).beam = true ∧
    Issuing demoAway k0 g0 p0 ∧ demoAway.coreOf k0 = 256 ∧ (demoAway.record k0.tkey).beam = true ∧ isUpper (demoAway.coreOf k0) = true ∧
    demoAway.realigning (demoAway.coreOf k0) = true ∧ Ready demoAway k0 g0 p0 [127] [127] ∧ (demoPair .running).realigning 0 = true ∧
    Issuing (demoPair .running) k0 g0 p0 ∧ isUpper ((demoPair .running).coreOf k0) = false ∧ ((demoPair .running).record k0.tkey).beam = true ∧
    (demoPair .running).noHolder 0 = false ∧ (demoPair .running).twinGated 0 = false ∧ ((demoPair .running).part 0 0).credits = 16 :=
  ⟨by decide, by decide, ⟨rfl, rfl, rfl⟩, by decide, by decide, by decide, by decide, ready_free _ _ _ _ _ _ rfl (by decide), by decide,
    ⟨rfl, rfl, rfl⟩, by decide, by decide, by decide, by decide, by decide⟩
/-- Readings of the column region at the ends of their ranges. -/
theorem witness_BeamSteps_heat : ∀ n ∈ [82, 83, 85, 86, 114, 115], ({ demoOf g0 with ev := { n := n } } : State).ev.n = n ∧
    (demoOf g0).off = false := by decide
/-- The machine with copies and a write, no directory being rebuilt; a range of pages in register 127, aligned or not. -/
def demoLines (g : Group) : State := { demoCached g with rebuild := [] }
def gRange (m : Mode) (a : Word) : Group := { g0 with mode := m, regs := [(2, ⟨uniformLanes a, true⟩), (127, ⟨uniformLanes 0x10000#32, true⟩)] }
theorem witness_CacheMaintenance_lines : (∀ m ∈ [Mode.user, .supervisor, .hypervisor], ∀ a ∈ [0#32, 0x10000#32, 0x80#32],
      Issuing (demoLines (gRange m a)) k0 (gRange m a) p0 ∧ (demoLines (gRange m a)).rebuild = [] ∧
      Ready (demoLines (gRange m a)) k0 (gRange m a) p0 [127, 2, 3] [127, 2, 3] ∧ Ready (demoLines (gRange m a)) k0 (gRange m a) p0 [2, 3] [2, 3]) ∧
    (gRange .supervisor 0x80#32).mode = .supervisor ∧
    ((gRange .supervisor 0x80#32).seen 127 0).toNat % 2 ^ 16 = ((demoLines g1).team k0.tkey).asid.toNat ∧
    ((gRange .supervisor 0x80#32).seen 127 0).toNat / 2 ^ 16 ≠ 0 ∧ ((gRange .supervisor 0x80#32).seen2 2 0).toNat % 65536 ≠ 0 ∧
    ((gRange .supervisor 0x10000#32).seen2 2 0).toNat % 65536 = 0 ∧ (gRange .user 0#32).mode ≠ .hypervisor ∧ (gRange .user 0#32).mode ≠ .supervisor := by
  refine ⟨fun m _ a _ => ⟨⟨rfl, rfl, rfl⟩, rfl, ready_free _ _ _ _ _ _ rfl (show ∀ r ∈ _, 0 + r < 128 by decide),
    ready_free _ _ _ _ _ _ rfl (show ∀ r ∈ _, 0 + r < 128 by decide)⟩, ?_⟩
  decide +kernel
/-- A stale walk for which no team waits, behind a TLB that the shootdown has reached; a request queue of 16 entries at 0x400000 with and without
room. -/
def demoStale : State := { demoShoot true with
  shoots := [⟨0, k0, 0#16, 0, 2 ^ 57, [], [.l1 5]⟩], walks := [⟨.l1 5, 7#16, 0, 1, 0x7D#64, true⟩] }
def demoQueued (head : Byte) : State := { demoOf g0 with
  mem := (demoOf g0).mem ++ [(0x304002, 0x40#8), (0x304008, 4#8), (0x304010, 16#8), (0x304018, head)], ev := { data := bytesOf 8 0x300000 } }
theorem witness_TranslationSteps_stale :
    (∃ sh u, demoStale.shoots.find? (fun x => x.id == demoStale.ev.n) = some sh ∧ sh.unacked[demoStale.ev.m]? = some u ∧
      (∃ w ∈ demoStale.walks, u.reaches w.tlb = true ∧ w.stale = true) ∧ ∀ w ∈ demoStale.walks, demoStale.walkLapsed w = true) ∧
    (∀ h ∈ [0#8, 1#8], let x := (demoQueued h).engineNat (ofBytes (demoQueued h).ev.data + 0x4000) 64
      natBits x 51 0 = 0x400000 ∧ natBits x 68 64 = 4 ∧ natBits x 159 128 = 16 ∧ natBits x 223 192 = h.toNat) ∧
    overlaps (0x400000 + 16 * (16 % 2 ^ 4)) 16 (0x304000 + 16) 4 = false := by
  refine ⟨⟨⟨0, k0, 0#16, 0, 2 ^ 57, [], [.l1 5]⟩, .l1 5, by decide +kernel⟩, by decide +kernel, by decide⟩
/-- A write that a directory below the home has and one that is next to its home, and a package that is shut down. -/
theorem witness_CoherenceSteps_reach : (∀ n ∈ [4, 5], let s : State := { demoCached g0 with writes := [⟨0, 0, 0x300000, [1#8], 2, n, 0⟩], rebuild := [] }
      s.writes.find? (fun w => w.id == s.ev.n) = some ⟨0, 0, 0x300000, [1#8], 2, n, 0⟩ ∧ s.dirBusy 0 (n + 1) = false) ∧
    (let s : State := { demoCached g0 with ev := { flag := true } }
     s.caches.find? (fun c => c.cache == .l2 (s.ev.core / 16) && c.base == copyBase s.ev.n) = some ⟨.l2 0, 0, .s, 0⟩) ∧
    ({ demoOf g0 with off := true } : State).off = true := by decide +kernel
/-- Generations at the ends of the window of WAIT: the clear cell's generation is 1 and 128 past 255 and 128, and 0 and 127 before 0 and 127. -/
theorem witness_CountBarriers_window : ((demoTeam x0 g0).cellAt k0.tkey 0).gen = 0 ∧ 0 = ((255#32).toNat + 1) % 256 ∧ 0 = ((128#32).toNat + 128) % 256 ∧
    (0 + 0) % 256 = (0#32).toNat % 256 ∧ (0 + 127) % 256 = (127#32).toNat % 256 ∧
    ∀ w ∈ [128#32, 127#32], Issuing (demoTeam x0 (gCell w)) k0 (gCell w) p0 ∧ Ready (demoTeam x0 (gCell w)) k0 (gCell w) p0 [8, 2] [2, 8] := by
  refine ⟨by decide, by decide, by decide, by decide, by decide, fun w _ => ⟨⟨rfl, rfl, rfl⟩, ready_free _ _ _ _ _ _ rfl (show ∀ r ∈ _, 0 + r < 128 by decide)⟩⟩
/-- A copy from the device's own memory needs no answer; one from the peer 5 needs its packet. -/
def recPeer : BitVec 1024 := rec0 ||| 3#1024 <<< 76 ||| 5#1024 <<< 80
def copyPeer : Copy := { copy0 with kind := .tile false recPeer 0 [0, 0, 0, 0, 0, 0] }
def demoCopies : State := { demoPeers gHandle with copies := [copyPeer] }
theorem witness_CopiesMoveTheirBytes_answers : copy0.record = some (Tensor.ofRecord rec0) ∧
    ((demoQueue 1).takeAnswers k0.tkey (Tensor.ofRecord rec0) (demoQueue 1).ev).2 = true ∧ copyPeer.record = some (Tensor.ofRecord recPeer) ∧
    (demoCopies.takeAnswers k0.tkey (Tensor.ofRecord recPeer) {}).2 = false ∧
    (demoCopies.takeAnswers k0.tkey (Tensor.ofRecord recPeer) { pkts := [rpacket .load 0] }).2 = true ∧
    demoCopies.copies.find? (fun c => c.id = demoCopies.ev.n) = some copyPeer ∧ demoCopies.copyWaits copyPeer = false ∧
    demoCopies.copyPaused copyPeer = false := by decide +kernel
theorem witness_MatrixWorkCompletes_answers : (op0 none (some 0x10000)).cursor.near = false ∧
    ((demoGang gMember {} {}).takeAnswers k0.tkey (op0 none none).aTile.1 (demoGang gMember {} {}).ev).2 = true := by decide +kernel
/-- A barrier's directory is being rebuilt; and a path waits at MONW while another arms an absent page. -/
def demoBusy (g : Group) : State := { demoTeam x0 g with rebuild := [0] }
def gInMonw : Group := { gAt 0x1000000000#64 with
  cur := some ⟨0#32, 0xFFFFFF00#32, 0#32⟩, mon := armed 0 none, stack := [⟨.path (.suspended (.monw 5 none)), 8#32, 0xFF#32, 0#32⟩] }
theorem witness_BarriersMonitorsAndBounds_more : Issuing (demoBusy g0) k0 g0 p0 ∧ Ready (demoBusy g0) k0 g0 p0 [] [] ∧ g0.full = false ∧ g0.wave = false ∧
    (∀ i ∈ [0, 1, 2], g0.arrived i &&& p0.ex = 0#32) ∧
    (∃ w ∈ [0, 1, 2], (demoBusy g0).dirBusy 0 (((demoBusy g0).record k0.tkey).barrierScope w) = true) ∧
    (∀ w ∈ [0, 1, 2], (demoTeam x0 g0).dirBusy 0 (((demoTeam x0 g0).record k0.tkey).barrierScope w) = false) ∧ (demoTeam x0 g0).rebuild = [] ∧
    Issuing (demoAbsent gInMonw) k0 gInMonw ⟨0#32, 0xFFFFFF00#32, 0#32⟩ ∧
    Ready (demoAbsent gInMonw) k0 gInMonw ⟨0#32, 0xFFFFFF00#32, 0#32⟩ [2, 3, 8, 9] [2, 3] ∧ gInMonw.inMonw = true ∧
    (demoAbsent gInMonw).access 0 (((demoAbsent gInMonw).team k0.tkey).space .user) (gInMonw.seen2 2 8) 8 .read = .absent 1 := by
  refine ⟨⟨rfl, rfl, rfl⟩, ready_free _ _ _ _ _ _ rfl (by simp), rfl, rfl, by decide, by decide, by decide, rfl, ⟨rfl, rfl, rfl⟩,
    ready_free _ _ _ _ _ _ rfl (show ∀ r ∈ _, 0 + r < 128 by decide), by decide, by decide⟩
/-- Every grid slot is taken. -/
theorem witness_TasksAndLaunches_full : (let s : State := { demoLaunch gLaunch with grids := (List.range 256).map fun n => (n, (demoLaunch gLaunch).grid 0) }
      ∀ n < 256, (kfind s.grids n).isSome) ∧ (demoLaunch gLaunch).rebuild = [] ∧ (demoTasks 4 0#64 (demoTeam x0 g0)).rebuild = [] := by decide +kernel
theorem witness_RemoteInstructionsSend_posted : (gPeer 5).fences = [] ∧ (gPeer 5).posted.length < 32 ∧ (∀ q ∈ (gPeer 5).posted, q.id ≠ (demoPeers (gPeer 5)).fresh) ∧
    p0.ex ≠ 0#32 := by decide +kernel
/-- A packet that still waits for its plane when an answer comes. -/
theorem witness_PeersAreServedAndAnswered_held : (let s : State := { demoAsk (.blocking k0) with heldOut := [held0], ports := [] }
      ∀ q ∈ (accepted s (rpacket .load 0)).heldOut, (accepted s (rpacket .load 0)).packetHeld q = true) := by decide +kernel
/-- A collective whose participants are the device and the peer 5, or a stranger to its domain, whose buffers fit or do not, whose team has joined its
domain or not, and whose tag runs already. -/
theorem witness_CollectivesRun_refusals :
    (let s := demoColl (gAt 0x304000#64) {}
     let r := CollRec.ofRecord (0x80 * 2 ^ 64 + 0x300000 * 2 ^ 128)
     let e := s.domainOf k0.tkey
     (s.selfNum ∈ [0, 5] ∧ (∀ z ∈ [0, 5], z ∈ e.members) ∧ r.op ≠ 3 ∧ 6 ∉ e.members ∧ s.selfNum ∉ [5]) ∧
       (r.send + r.sendLen 1 * r.size ≤ e.heapsz.toNat ∧ r.recv + r.recvLen 1 * r.size ≤ e.heapsz.toNat ∧
         overlaps r.send (r.sendLen 1 * r.size) r.recv (r.recvLen 1 * r.size) = false) ∧
       (let z := CollRec.ofRecord (0x10000 * 2 ^ 64 + 0x300000 * 2 ^ 128 + 2 ^ 256)
        ¬ z.recv + z.recvLen 1 * z.size ≤ e.heapsz.toNat) ∧ s.joined k0.tkey = true ∧ (demoTeam x0 g0).joined k0.tkey = false ∧
       (let t := demoColl (gAt 0x304000#64) { slot := some 0, running := some (coll0 0) }
        (∃ z ∈ t.colls, ∃ y, z.2.running = some y ∧ y.dom = (t.team k0.tkey).tdom.toNat ∧ (CollRec.ofRecord y.record.toNat).tag = r.tag) ∧ t.freeColl = some 1) ∧
       ({ s with colls := (List.range 64).map fun n => (n, { running := some (coll0 0) }) } : State).freeColl = none) := by
  refine ⟨by decide +kernel, by decide +kernel, by decide +kernel, by decide +kernel, by decide +kernel, ⟨⟨(0, { slot := some 0, running := some (coll0 0) }), by decide +kernel, coll0 0, rfl, by decide +kernel, by decide +kernel⟩, by decide +kernel⟩, by decide +kernel⟩
/-- Tickets that name no slot, and one that does. -/
theorem witness_CollectivesRun_names : (∀ t ∈ [0, 0x80010000, 0x80000040, 0x40000000], ¬ (t / 2 ^ 16 = 2 ^ 15 ∧ t / 2 ^ 6 % 4 = 0)) ∧
    (0x8000FF3F / 2 ^ 16 = 2 ^ 15 ∧ 0x8000FF3F / 2 ^ 6 % 4 = 0) := by decide
/-- What the peer 5 sends for a collective of two has come, or has not; and the done counter is reached. -/
def collDone : CollRun := ⟨BitVec.ofNat 512 (1 * 2 ^ 256 + 0x80 * 2 ^ 64 + 0x400000 * 2 ^ 192), [0], 0, 0⟩
theorem witness_CollectivesRun_here :
    (let s := demoCollOf (collOf 0 0 [0, 5]) []
     (s.acceptAll [rpacket .load 0]).2 = true ∧ (rpacket .load 0).src.toNat = 5 ∧ (rpacket .load 0).dom.toNat = 0 ∧
       (∀ p ∈ [0, 5], p ≠ s.selfNum → ∃ x ∈ [rpacket .load 0], x.src.toNat = p) ∧ ¬ (∀ p ∈ [0, 5], p ≠ s.selfNum → ∃ x ∈ ([] : List RPacket), x.src.toNat = p) ∧
       headerTag (collHeader [0, 5] (collOf 0 0 [0, 5]).record.toNat) = (CollRec.ofRecord (collOf 0 0 [0, 5]).record.toNat).tag) ∧
    (let c : Coll := { slot := some 0, running := some collDone, ptb := BitVec.ofNat 64 standInRoot }
     let s := demoColl g0 c
     (CollRec.ofRecord collDone.record.toNat).donea = 0x400000#64 ∧
       (s.releaseBuffers collDone).access c.core ⟨c.asid, c.ptb.toNat, c.ownkey.toNat, c.mode == .user⟩ 0x400000#64 8 .both = .ok (frameAt 0x400000) ∧
       (s.releaseBuffers collDone).wrongKey 0x400000 0 = false) := by
  refine ⟨by decide +kernel, by decide +kernel⟩
/-- A team with a room kept, one without room for its image, and a kill of a team that has not been placed and whose packet waits. -/
def room0 : ImageRoom := ⟨0, false, 0x241000, 32768⟩
theorem witness_PreemptionSteps_rooms :
    (let s := demoTeam { x0 with stop := true, room := some room0 } g0
     (s.core 0).ctxPend = none ∧ (s.team k0.tkey).room = some room0 ∧ s.teamDrained k0.tkey = true) ∧
    (let s := State.modCore (demoTeam { x0 with stop := true } g0) 0 fun c => { c with ctx := 0 }
     s.savePlace k0.tkey = none ∧ s.teamDrained k0.tkey = true) ∧
    (let s := State.modGrid { demoTeam x0 g0 with teams := [], groups := [], saved := [] } 0 fun g => { g with overflow := [packet0] }
     kfind s.teams k0.tkey = none ∧ k0.tkey.team < (s.grid 0).lr.teamCount ∧ k0.tkey.team ∉ (s.grid 0).ended ∧
       ∃ q ∈ (s.grid 0).overflow, q.owner = k0.tkey) := by decide +kernel
/-- An uncorrectable error in the logic of a core that waits for its licence. -/
theorem witness_PowerAndManagement_fence : (let s : State := { demoTeam x0 g0 with pairs := [(0, { wants := [0] })], ev := { flag := true } }
      (s.core s.ev.core).fenced = false ∧ s.ev.flag = true ∧ 0 ∈ (s.pair 0).wants) := by decide +kernel
/-- JOIN before the last lanes behind a full stack; lanes that run tasks, in a handler or not, that end with a failure to report; and the join record
that an end reaches. -/
def gJoinFull : Group := { g0 with
  cur := some ⟨0#32, 0xFF#32, 0#32⟩, stack := List.replicate 24 ⟨.mark, 0#32, 0xFFFFFFFF#32, 0#32⟩ ++ [⟨.path .ready, 8#32, 0xFFFFFF00#32, 0#32⟩] }
def gTasks : Group := { g0 with tasks := 3#32, joins := uniformLanes 0x300000#64, pfail := [fail0] }
theorem witness_MarksJoinsAndExits_tasks : (Issuing (demoOf gJoinFull) k0 gJoinFull ⟨0#32, 0xFF#32, 0#32⟩ ∧ innermostMark gJoinFull.stack = some 23 ∧
      gJoinFull.stack[23]? = some ⟨.mark, 0#32, 0xFFFFFFFF#32, 0#32⟩ ∧ 0xFF#32 ||| joinedMask gJoinFull.stack ≠ 0xFFFFFFFF#32 ∧ 24 ≤ gJoinFull.used ∧
      ∀ e ∈ gJoinFull.stack.drop (frameBase gJoinFull.stack), e.isJoined = false) ∧
    (Issuing (demoOf gTasks) k0 gTasks p0 ∧ gTasks.tasks &&& p0.ex ≠ 0#32 ∧ (demoOf gTasks).rebuild = [] ∧ gTasks.pfail.length = 1 ∧
      p0.ex &&& gTasks.tasks &&& ~~~gTasks.faultedLanes ≠ 0#32) ∧
    (demoTeam x0 g0).access ((demoTeam x0 g0).team k0.tkey).core ((demoTeam x0 g0).taskSpace k0.tkey) 0x300000#64 16 .both = .ok (frameAt 0x300000) ∧
    (demoTeam x0 g0).wrongKey 0x300000 0 = false :=
  ⟨⟨issuing_demoOf _ _ rfl, by decide +kernel⟩, ⟨issuing_demoOf _ _ rfl, by decide +kernel⟩, by decide +kernel⟩
/-- The near memory of the tests has its form, and a step from it goes on. -/
theorem witness_NearMemoryFormIsKept : demo.NearOk ∧ ∃ t, step demo = .next t := ⟨by unfold State.NearOk; decide +kernel, _, rfl⟩

-- ## Witnesses of the clauses on failing lanes, places, peers' lanes and folds

/-- What hits a TLB does not depend on memory. -/
theorem translate_of_hit (s s' : State) (core : Nat) (sp : Space) (va : Nat) (need : Need) (ahead : Bool)
    (h : (s.tlb.find? fun e => (e.tlb == .l1 core || e.tlb == .l2 (core / 16) || (ahead && e.tlb == .ahead core)) && e.hits sp.asid va).isSome = true)
    (ht : s'.tlb = s.tlb) (hk : s'.keys = s.keys) : s'.translate core sp va need ahead = s.translate core sp va need ahead := by
  obtain ⟨e, he⟩ := Option.isSome_iff_exists.1 h
  simp [State.translate, State.findLeaf, State.keyRefuses, ht, hk, he]
/-- The machine whose L1 TLB of a core holds the page of the tests. -/
def hitting (s : State) (core : Nat) : State := { s with tlb := [⟨.l1 core, 0, 0#16, 1, 0, 0x7D#64⟩] }
theorem steady_of_hit (s : State) (core : Nat) (sp : Space) (a : Nat) (need : Need) (f : Frame)
    (h : (s.tlb.find? fun e => (e.tlb == .l1 core || e.tlb == .l2 (core / 16) || (true && e.tlb == .ahead core)) && e.hits sp.asid a).isSome = true)
    (hf : s.translate core sp a need true = .ok f) : s.steady (fun _ => False) core sp a need f :=
  ⟨fun _ h => h.elim, fun s' hs => (translate_of_hit s s' core sp a need true h hs.1 hs.2.1).trans hf⟩
theorem steadyAccess_of_hit (s : State) (core : Nat) (sp : Space) (a : DWord) (n : Nat) (need : Need) (f : Frame)
    (h : (s.tlb.find? fun e => (e.tlb == .l1 core || e.tlb == .l2 (core / 16) || (false && e.tlb == .ahead core)) && e.hits sp.asid a.toNat).isSome = true)
    (hf : s.access core sp a n need = .ok f) : s.steadyAccess (fun _ => False) core sp a n need f := by
  refine ⟨fun _ h => h.elim, fun s' hs => ?_⟩
  rw [← hf]
  simp only [State.access, translate_of_hit s s' core sp a.toNat need false h hs.1 hs.2.1, State.isPoisoned, hs.2.2.2.2.1, hs.2.2.2.2.2.1]
  rfl
theorem steadyResolve_of_hit (s : State) (dom src o n : Nat) (need : Need) (e : Domain) (hd : kfind s.domains dom = some e)
    (h : (s.tlb.find? fun x => (x.tlb == .l1 noCore || x.tlb == .l2 (noCore / 16) || (false && x.tlb == .ahead noCore)) &&
      x.hits e.space.asid (e.heapb.toNat + o)).isSome = true) : s.steadyResolve (fun _ => False) dom src o n need (s.resolve dom src o n need) := by
  refine ⟨fun _ _ _ h => h.elim, fun s' hs => ?_⟩
  simp only [State.resolve, State.resolveFrame, hs.2.2.2.1, hd, translate_of_hit s s' noCore e.space (e.heapb.toNat + o) need false h hs.1 hs.2.1,
    State.isPoisoned, hs.2.2.2.2.1, hs.2.2.2.2.2.1]
  rfl
theorem apart_of_none (s : State) : s.tablesApart fun _ => False := fun _ _ _ _ h => h
/-- Atomics of which lane 0 is misaligned and every other lane acts on bytes of its own. -/
theorem witness_FailedAccessesTrap_atomics :
    (∀ n ∈ [0, 24], Ready (demoOf (gMixed n 0x300000)) k0 (gMixed n 0x300000) p0 [2, 3, 14, 15, 126, 127] [2, 3, 14, 15, 126, 127]) ∧
    (∀ n ∈ [4, 8], ∀ L : Fin 32, (demoOf (gMixed 0 0x300000)).finds k0 (gMixed 0 0x300000) 2 0#64 n .both L =
      if L = 0 then .bad 2 .align else .ok (frameAt (0x300000 + 128 * L.val))) ∧
    (let m := p0.ex &&& ~~~1#32
     (∀ L : Fin 32, m.getLsbD L = true ↔ L ≠ 0) ∧ laneBefore m (fun L => frameAt (0x300000 + 128 * L.val)) 1 = none ∧
       laneBefore m (fun _ => frameAt 0) 31 = some 30 ∧ lastLane m (fun L => frameAt (0x300000 + 128 * L.val)) 1 = true) := by
  refine ⟨fun n _ => ready_any _ rfl rfl rfl _ _ (by decide), by decide +kernel, by decide +kernel⟩
/-- Every lane at a word of its own, of which the second is in error: a load or an atomic meets it, a store of the whole word ends it, and a store of one
byte does not. -/
def gWords : Group := { g0 with regs := [(2, ⟨lanesOf fun L => BitVec.ofNat 32 (4 * L.val), false⟩)] }
def xBad : Team := { x0 with spadBad := [1] }
theorem witness_NearLoadsAndStores_errors :
    (Issuing (demoTeam xBad gWords) k0 gWords p0 ∧ Ready (demoTeam xBad gWords) k0 gWords p0 [2, 4, 6, 126, 127] [2, 4, 6, 126, 127] ∧ gWords.fences = [] ∧
      gWords.used < 24) ∧
    (∀ L : Fin 32, ∀ n ∈ [1, 4], (gWords.seen 2 L).toNat % n = 0 ∧
      (demoTeam xBad gWords).nearDecode k0.tkey .user (gWords.seen 2 L).toNat n = some (.spad k0.tkey (4 * L.val)) ∧
      (demoTeam xBad gWords).nearStalled (.spad k0.tkey (4 * L.val)) = false ∧ (demoTeam xBad gWords).hasPlace (.spad k0.tkey (4 * L.val)) = true ∧
      (NearAt.spad k0.tkey (4 * L.val)).units n = [L.val] ∧
      ((demoTeam xBad gWords).nearBad (.spad k0.tkey (4 * L.val)) L.val = true ↔ L = 1) ∧
      ((∃ e ∈ (NearAt.spad k0.tkey (4 * L.val)).unitBytes L.val, ∀ M : Fin 32, ∀ i < n, (NearAt.spad k0.tkey (4 * M.val)).plus i ≠ e) ↔ n = 1)) := by
  refine ⟨⟨⟨rfl, rfl, rfl⟩, ready_free _ _ _ _ _ _ rfl (show ∀ r ∈ _, 0 + r < 128 by decide), rfl, by decide⟩, by decide +kernel⟩
/-- CMAINT of which lane 0 lies outside the address space, with room in the stack and with 24 entries used; every lane outside it. -/
def gFar (n : Nat) (all : Bool) : Group := { g1 with
  regs := [(3, ⟨lanesOf fun L => if L = 0 ∨ all then 0x2000000#32 else 0#32, false⟩)]
  stack := List.replicate n ⟨.mark, 64#32, 0xFFFFFFFF#32, 0#32⟩ }
theorem witness_CacheMaintenance_lanes :
    (∀ n ∈ [0, 24], ∀ a ∈ [false, true], Issuing (demoLines (gFar n a)) k0 (gFar n a) p0 ∧ (demoLines (gFar n a)).rebuild = [] ∧
      Ready (demoLines (gFar n a)) k0 (gFar n a) p0 [2, 3] [2, 3] ∧ (gFar n a).used = n) ∧
    ∀ a ∈ [false, true], ∀ L : Fin 32, (if ((gFar 0 a).seen2 2 L).toNat < 2 ^ 57 then
        (demoLines (gFar 0 a)).translate 0 (((demoLines (gFar 0 a)).team k0.tkey).space .supervisor) ((gFar 0 a).seen2 2 L).toNat .read
      else .bad 1 .pageInvalid) = if L = 0 ∨ a = true then .bad 1 .pageInvalid else .ok (frameAt 0) := by
  refine ⟨fun n hn a _ => ⟨⟨rfl, rfl, rfl⟩, rfl, ready_free _ _ _ _ _ _ rfl (show ∀ r ∈ _, 0 + r < 128 by decide), ?_⟩, by decide +kernel⟩
  revert n; cases a <;> decide
/-- A copy in flight below a committed batch and none; an entry at RSPEEK and none; a core at the last place of the mesh; sources of the roundings on both
sides of 2^23. -/
theorem witness_SpecialRegisterWords :
    (let g : Group := { gHandle with tb := { committed := 2#32 } }
     (∃ y ∈ (demoQueue 1).copies, y.key = k0 ∧ y.orphan = false ∧ y.batch = 1#32) ∧ (∀ y ∈ (demoQueue 1).copies, y.batch = 1#32) ∧
       (g.tb.committed - 1#32).toNat < 2 ^ 31 ∧ (demoQueue 0).copies = []) ∧
    (demoBeam true entry0).noHolder 0 = false ∧ (demoBeam false entry0).noHolder 0 = true ∧ (gDeep 1).stack[0]? = some ⟨.mark, 64#32, 0xFFFFFFFF#32, 0#32⟩ ∧
    g0.stack.length ≤ (g0.rspeek.extractLsb' 0 5).toNat ∧
    (∃ is < 4, ∃ d < 2, ∃ by_ < 4, ∃ bx < 4, ∃ cy < 4, ∃ cx < 4, 2047 = ((is * 2 + d) * 16 + (4 * by_ + bx)) * 16 + (4 * cy + cx)) ∧
    ((f32 0x4B000000#32).isNan = false ∧ 0x4B000000 ≤ (0x4B000000#32).toNat % 2 ^ 31) ∧
    ((f32 0xCAFFFFFF#32).isNan = false ∧ (0xCAFFFFFF#32).toNat % 2 ^ 31 < 0x4B000000) ∧ ((f32 0#32).isNan = false ∧ (0#32).toNat % 2 ^ 31 < 0x4B000000) := by
  refine ⟨by decide +kernel, by decide +kernel, by decide +kernel, by decide, by decide,
    ⟨3, by decide, 1, by decide, 3, by decide, 3, by decide, 3, by decide, 3, by decide, rfl⟩, by decide, by decide, by decide⟩
/-- Records for each row of the table of checks, and one that passes them. -/
theorem witness_TileRecordsAndBatches_checks :
    (∀ x ∈ [(0x8000000000000000000#1024, 1), (0#1024, 2), (rec0 ||| 4#1024 <<< 64, 3), (rec0 ||| 1#1024, 4), (rec0, 0)], recordStatus x.1 false = x.2) ∧
    recordStatus (rec0 ||| 3#1024 <<< 76) false = 3 ∧ recordStatus (rec0 ||| 3#1024 <<< 76) true = 0 := by decide +kernel
/-- A byte of HBM whose accesses are performed below the home, as a tile copy reads it. -/
theorem tileReads_of_frame (s : State) (mv : Mover) (T : Tensor) (a : Nat) (b : Byte) (f : Frame) (hl : T.layer = 0) (ha : a < 2 ^ 57)
    (ht : s.translate mv.core mv.space a .read true = .ok f) (hh : isHost f.pa = false) (hf : f.atHome = false) (ho : mv.old = none)
    (hp : s.isPoisoned f.pa = false) (hb : s.loadBytes mv.core f 1 = [b]) : s.tileReads mv T a b := by
  unfold State.tileReads
  rw [hl]
  exact ⟨ha, f, ht, hh, fun _ h => absurd h (by simp [hf]), ⟨hp, hb⟩, fun _ h => absurd h (by simp [ho])⟩
/-- A load of a tile whose bytes the core sees as they are. -/
theorem witness_CopiesMoveTheirBytes_reads (i : Nat) (hi : i < 128) :
    (demoQueue 1).tileReads ((demoQueue 1).mover copy0 (demoQueue 1).ev) (Tensor.ofRecord rec0) (0x300000 + i) 0#8 := by
  have h : ∀ i < 128, (demoQueue 1).translate ((demoQueue 1).mover copy0 (demoQueue 1).ev).core ((demoQueue 1).mover copy0 (demoQueue 1).ev).space (0x300000 + i)
        .read true = .ok (frameAt (0x300000 + i)) ∧
      isHost (0x300000 + i) = false ∧ (demoQueue 1).isPoisoned (0x300000 + i) = false ∧
      (demoQueue 1).loadBytes ((demoQueue 1).mover copy0 (demoQueue 1).ev).core (frameAt (0x300000 + i)) 1 = [0#8] ∧
      (frameAt (0x300000 + i)).atHome = false := by decide +kernel
  have h := h i hi
  have hl : (Tensor.ofRecord rec0).layer = 0 := by decide +kernel
  have ho : ((demoQueue 1).mover copy0 (demoQueue 1).ev).old = none := by decide +kernel
  have ha : 0x300000 + i < 2 ^ 57 := by omega
  generalize (demoQueue 1).mover copy0 (demoQueue 1).ev = mv at *
  generalize Tensor.ofRecord rec0 = T at *
  exact tileReads_of_frame _ _ _ _ _ _ hl ha h.1 h.2.1 h.2.2.2.2 ho h.2.2.1 h.2.2.2.1
theorem witness_CopiesMoveTheirBytes_load :
    (recordStatus rec0 true = 0 ∧ (demoQueue 1).takeAnswers k0.tkey (Tensor.ofRecord rec0) (demoQueue 1).ev = (demoQueue 1, true) ∧
      (Tensor.ofRecord rec0).rows = 1 ∧ (Tensor.ofRecord rec0).box.headD 1 = 64 ∧ (Tensor.ofRecord rec0).exp = 0 ∧ (Tensor.ofRecord rec0).w = 16) ∧
    (let T := Tensor.ofRecord rec0
     ∀ j < 64, T.inBounds (T.coord [0, 0, 0, 0, 0, 0] 0 j) = true ∧
       ∀ b < 16, T.bitAt (T.nearest (T.coord [0, 0, 0, 0, 0, 0] 0 j)) b = 0x300000 + (16 * j + b) / 8) :=
  ⟨by decide +kernel, by decide +kernel⟩
/-- A store of the same shape into the column, where its bytes have places of their own. -/
def recCol : BitVec 1024 := 3#1024 <<< 64 ||| 1#1024 <<< 72 ||| 2#1024 <<< 76 ||| 64#1024 <<< 192 ||| 63#1024 <<< 704
def copyCol : Copy := { copy0 with kind := .tile true recCol 0 [0, 0, 0, 0, 0, 0] }
def demoCol : State := { demoTeam x1 gHandle with copies := [copyCol] }
theorem witness_CopiesMoveTheirBytes_store :
    let s := demoCol
    let T := Tensor.ofRecord recCol
    let at_ := T.coord [0, 0, 0, 0, 0, 0]
    let to_ := fun (row j b : Nat) => T.bitAt (T.nearest (at_ row j)) b
    let Y := fun (a : Nat) => Place.column 0 a
    (s.copies.find? (fun c => c.id = s.ev.n) = some copyCol ∧ s.copyWaits copyCol = false ∧ s.copyPaused copyCol = false ∧
      s.takeAnswers k0.tkey T s.ev = (s, true) ∧ recordStatus recCol true = 0 ∧ T.layer = 2 ∧ T.exp = 0 ∧ T.rows = 1 ∧ T.box.headD 1 = 64 ∧ T.w = 16 ∧
      T.tileBytes = 128 ∧ ∀ i < T.tileBytes, s.nearPoisoned (.spad k0.tkey (0 + i)) 1 = false) ∧
    (∀ j < 64, T.inBounds (at_ 0 j) = true ∧ ∀ b < 16, to_ 0 j b = (16 * j + b) / 8) ∧
    (∀ a < 128, s.tileWrites copyCol T (fun _ => False) 0 a (Y a)) ∧ (∀ a b, Y a = Y b → a = b) ∧ s.tablesApart fun _ => False := by
  refine ⟨by decide +kernel, by decide +kernel, fun a ha => ?_, fun a b h => by injection h, apart_of_none _⟩
  have h : ∀ a < 128, demoCol.columnAt k0.tkey a 1 = some (.column 0 a) ∧ demoCol.nearPoisoned (.column 0 a) 1 = false := by decide +kernel
  unfold State.tileWrites
  rw [show (Tensor.ofRecord recCol).layer = 2 by decide +kernel]
  exact ⟨0, a, (h a ha).1, (h a ha).2, rfl⟩
/-- A copy of a layer from the scratchpad to global memory, and back; and a place of global memory that stays where it is. -/
def copyLayer (src dst : DWord) : Copy := { copy0 with kind := .layer src dst 32 }
theorem witness_CopiesMoveTheirBytes_layer :
    (∀ i ∈ [0, 16], (demoQueue 1).unitReads (copyLayer 0x8000000000000000#64 0x300000#64) 0x8000000000000000#64 i (List.replicate 16 0#8) ∧
      (demoQueue 1).unitWrites (copyLayer 0x8000000000000000#64 0x300000#64) 0x300000#64 i (.mem (0x300000 + i)) ∧
      (demoQueue 1).unitReads (copyLayer 0x300000#64 0x8000000000000000#64) 0x300000#64 i (List.replicate 16 0#8) ∧
      (demoQueue 1).unitWrites (copyLayer 0x300000#64 0x8000000000000000#64) 0x8000000000000000#64 i (.spad k0.tkey i)) ∧
    (let s := hitting (demoQueue 1) 0
     s.steady (fun _ => False) 0 ((s.team k0.tkey).space .user) 0x300000 .write (frameAt 0x300000) ∧ isHost 0x300000 = false ∧
       s.isPoisoned 0x300000 = false ∧ s.wrongKey 0x300000 0 = false) := by
  refine ⟨fun i hi => ?_, steady_of_hit _ _ _ _ _ _ (by decide +kernel) (by decide +kernel), by decide, by decide +kernel, by decide +kernel⟩
  have h : (demoQueue 1).translate 0 (((demoQueue 1).team k0.tkey).space .user) (0x300000 + i) .read true = .ok (frameAt (0x300000 + i)) ∧
      (demoQueue 1).translate 0 (((demoQueue 1).team k0.tkey).space .user) (0x300000 + i) .write true = .ok (frameAt (0x300000 + i)) ∧
      (demoQueue 1).isPoisoned (0x300000 + i) = false ∧ (demoQueue 1).wrongKey (0x300000 + i) 0 = false ∧
      (demoQueue 1).loadBytes 0 (frameAt (0x300000 + i)) 16 = List.replicate 16 0#8 ∧
      (demoQueue 1).nearDecode k0.tkey .user (0 + i) 16 = some (.spad k0.tkey i) ∧ (demoQueue 1).hasPlace (.spad k0.tkey i) = true ∧
      (demoQueue 1).nearPoisoned (.spad k0.tkey i) 16 = false ∧ (demoQueue 1).nearRead (.spad k0.tkey i) 16 = List.replicate 16 0#8 ∧ 0x300000 + i < 2 ^ 57 ∧
      (frameAt (0x300000 + i)).atHome = false := by
    revert i; decide +kernel
  have hg : layerOf 0x300000#64 = .global 0x300000 := by decide
  have hn : layerOf 0x8000000000000000#64 = .near 0 := by decide
  obtain ⟨h1, h2, h3, h4, h5, h6, h7, h8, h9, h0, ha⟩ := h
  unfold State.unitReads State.unitWrites
  rw [hg, hn]
  exact ⟨⟨_, h6, h7, h8, h9⟩, ⟨h0, _, h2, h3, h4, rfl⟩, ⟨h0, _, h1, h3, (fun h => absurd h (by simp [ha])), h5⟩, ⟨_, h6, h7, by simp [NearAt.place], trivial⟩⟩
/-- An operation whose first row of A lies in its tensor and whose other rows lie beyond it; and one whose A is an image in the scratchpad. -/
def recTile : BitVec 1024 := 0x300000#1024 ||| 3#1024 <<< 64 ||| 2#1024 <<< 72 ||| 64#1024 <<< 192 ||| 64#1024 <<< 224 ||| 128#1024 <<< 384 ||| 63#1024 <<< 704 |||
  63#1024 <<< 714
theorem spad_empty (o : Nat) : (demoQueue 1).spadReads ((demoQueue 1).mover copy0 (demoQueue 1).ev) o 0#8 := by
  have ht : ((demoQueue 1).mover copy0 (demoQueue 1).ev).team = k0.tkey := by decide +kernel
  have ho : ((demoQueue 1).mover copy0 (demoQueue 1).ev).old = none := by decide +kernel
  have hb : ((demoQueue 1).team k0.tkey).spadBad = [] := rfl
  generalize (demoQueue 1).mover copy0 (demoQueue 1).ev = mv at *
  refine ⟨⟨?_, ?_⟩, fun _ h => absurd h (by simp [ho])⟩
  · rw [ht]; simp [State.nearPoisoned, State.nearBad, hb, NearAt.units]
  · rw [ht]; rfl
theorem witness_MatrixArithmetic : fmtBadMma 0#32 = false ∧ fmtBadMma 0x22#32 = false ∧ fmtBadMma 0x66#32 = false ∧ fmtBadMma 0x100077#32 = false ∧ fmtBadMma 0x1000AA#32 = false ∧
    fmtBadMma 11#32 = false ∧
    (op0 none none).members.length = 1 ∧ fmtS (op0 none none).fmt = 16 ∧ fmtBsc (op0 none none).fmt = false ∧ (op0 none none).cursor.near = false ∧
    (op0 none none).cursor.c0.toInt = 0 ∧ (op0 none none).cursor.c1.toInt = 0 := by decide +kernel
theorem witness_MatrixArithmetic_team : (kfind (demoQueue 1).teams ((demoQueue 1).mover copy0 (demoQueue 1).ev).team).isSome = true := by decide +kernel
theorem witness_MatrixArithmetic_records : recordStatus rec0 true = 0 ∧ recordStatus recTile true = 0 ∧ 64 ≤ (Tensor.ofRecord recTile).rows ∧
    16 ≤ (Tensor.ofRecord recTile).box.headD 1 ∧ (Tensor.ofRecord recTile).rowB = 128 := by decide +kernel
theorem witness_MatrixArithmetic_rows :
    let T := Tensor.ofRecord rec0
    let at_ := fun (m l i : Nat) => if i = 0 then (l : Int) else if i = 1 then (m : Int) else 0
    (∀ l < 16, T.inBounds (at_ 0 l) = true) ∧
    (∀ l ∈ [0, 15], ∀ m ∈ [1, 63], ((T.inBounds (at_ m l) && (decide (2 ≤ T.ndim) || at_ m l 1 == 0)) || T.oobf == 3) = false) ∧
    ∀ l < 16, ∀ b ∈ [0, 15], T.bitAt (T.nearest (at_ 0 l)) b = 0x300000 + (16 * l + b) / 8 :=
  ⟨by decide +kernel, by decide +kernel, by decide +kernel⟩
/-- A team all of whose groups have arrived at every barrier, and one of which none has; a grid whose teams are all placed. -/
def demoArrived (m : Word) : State := (demoTeam x0 (gArrived m)).modGrid 0 fun g => { g with nextTeam := 1 }
theorem witness_BarriersMonitorsAndBounds_phases :
    (demoArrived 0#32).clusterTeams k0.tkey = [k0.tkey] ∧ (demoArrived 0#32).hasEnded k0.tkey = false ∧ (demoArrived 0#32).groups = [(k0, gArrived 0#32)] ∧
    (demoArrived 0xFFFFFFFF#32).groups = [(k0, gArrived 0xFFFFFFFF#32)] ∧ (kfind (demoArrived 0#32).teams k0.tkey).isSome = true ∧
    (∀ w ∈ [1, 2], (gArrived 0xFFFFFFFF#32).arrived w &&& (gArrived 0xFFFFFFFF#32).live = (gArrived 0xFFFFFFFF#32).live ∧
      (gArrived 0#32).arrived w &&& (gArrived 0#32).live ≠ (gArrived 0#32).live) ∧
    (∃ gr, kfind (demoArrived 0xFFFFFFFF#32).grids 0 = some gr ∧ gr.allPlaced = true ∧ gr.lr.teamCount = 1 ∧ gr.ended = [] ∧ gr.arrived = []) := by
  refine ⟨by decide +kernel, by decide +kernel, by decide +kernel, by decide +kernel, by decide +kernel, by decide +kernel, _, rfl, by decide +kernel⟩
/-- A deque of four entries at 0x400000 under a header at 0x300000, with `n` entries; two lanes of a group whose core's TLB holds their page. -/
def gTwo : Group := { gAt 0x300000#64 with cur := some ⟨0#32, 3#32, 0#32⟩ }
def demoDeque4 (n : Byte) : State := hitting (demoBytes x0 gTwo [(0x300002, 0x40#8), (0x300008, 2#8), (0x300014, n)]) 0
theorem witness_JoinsFuturesAndDeques_lanes :
    (∀ n ∈ [1#8, 3#8], Issuing (demoDeque4 n) k0 gTwo ⟨0#32, 3#32, 0#32⟩ ∧
      Ready (demoDeque4 n) k0 gTwo ⟨0#32, 3#32, 0#32⟩ [2, 3, 8, 9, 10, 11] [2, 3, 8, 9] ∧ Unheld (demoDeque4 n) gTwo ∧
      (demoDeque4 n).access 0 (((demoDeque4 n).team k0.tkey).space .user) (gTwo.seen2 2 0) 64 .both = .ok (frameAt 0x300000) ∧
      (demoDeque4 n).deque (frameAt 0x300000) = ⟨0x400000, 2, 0#32, n.setWidth 32, 0⟩ ∧ (⟨0x400000, 2, 0#32, n.setWidth 32, 0⟩ : Deque).bad = false ∧
      (∀ at_ ∈ [0, 1, 2, 3], ∀ need ∈ [Need.read, .write], (demoDeque4 n).steadyAccess (fun _ => False) 0 (((demoDeque4 n).team k0.tkey).space .user)
        ((⟨0x400000, 2, 0#32, n.setWidth 32, 0⟩ : Deque).entry (BitVec.ofNat 32 at_)) 8 need (frameAt (0x400000 + 8 * at_)))) ∧
    overlaps 0x300000 64 0x400000 32 = false ∧ lineApart (fun _ => False) 0x300000 ∧ (demoDeque4 1#8).tablesApart (fun _ => False) ∧
    maskLanes 3#32 = [0, 1] ∧ (⟨0x400000, 2, 0#32, 3#32, 0⟩ : Deque).size = 3#32 ∧
    ((demoTeam x0 g0).deque (frameAt 0)).bad = true ∧ (demoTeam x0 g0).access 0 (((demoTeam x0 g0).team k0.tkey).space .user) (g0.seen2 2 0) 64 .both = .ok (frameAt 0) := by
  refine ⟨fun n hn => ⟨⟨rfl, rfl, rfl⟩, ready_free _ _ _ _ _ _ rfl (show ∀ r ∈ _, 0 + r < 128 by decide), ⟨rfl, rfl⟩, ?_, ?_, ?_, fun i hi r hr => ?_⟩, by decide,
    fun _ h => h.elim, apart_of_none _, by decide, by decide, by decide +kernel, by decide +kernel⟩
  · revert n; decide +kernel
  · revert n; decide +kernel
  · revert n; decide +kernel
  · refine steadyAccess_of_hit _ _ _ _ _ _ _ ?_ ?_
    · revert n i r; decide +kernel
    · revert n i r; decide +kernel
/-- Lanes that name their own device at offsets of their own, with `n` entries used; and lanes of which the first does and the others name the peer 5. -/
def gSelf (n : Nat) : Group := { g0 with
  regs := [(2, ⟨lanesOf fun L => BitVec.ofNat 32 (8 * L.val), false⟩)], stack := List.replicate n ⟨.mark, 64#32, 0xFFFFFFFF#32, 0#32⟩ }
def gSome : Group := { g0 with regs := [(6, ⟨lanesOf fun L => if L = 0 then 0#32 else 5#32, false⟩)] }
theorem witness_RemoteInstructionsSend_own :
    (∀ n ∈ [0, 24], let s := hitting (demoPeers (gSelf n)) noCore
      Issuing s k0 (gSelf n) p0 ∧ Ready s k0 (gSelf n) p0 [6, 2, 3, 8, 9, 10, 11] [6, 2, 3, 8, 9, 10, 11] ∧ NoPosted (gSelf n) ∧ s.requests = [] ∧
        (gSelf n).fences = [] ∧ s.homes = [] ∧ s.joined k0.tkey = true ∧ s.selfNum < 512 ∧ s.selfNum ∈ (s.domainOf k0.tkey).members ∧
        (∀ L : Fin 32, ((gSelf n).seen 6 L).toNat = s.selfNum ∧ ((gSelf n).seen2 2 L).toNat = 8 * L.val) ∧ ((gSelf n).full = true ↔ n = 24) ∧
        (gSelf n).checked ≠ some p0.pc ∧ 1 < popcount p0.ex) ∧
    (let s := hitting (demoPeers (gSelf 0)) noCore
     s.tablesApart (fun _ => False) ∧ ∀ n ∈ [4, 8], ∀ need ∈ [Need.read, .write, .both], ∀ L : Fin 32,
       s.steadyResolve (fun _ => False) 0 0 (8 * L.val) n need (.ok (frameAt (0x300000 + 8 * L.val))) ∧ s.wrongKey (0x300000 + 8 * L.val) 0 = false ∧
       8 * L.val % n = 0) ∧
    (∀ L M : Fin 32, overlaps (0x300000 + 8 * L.val) 8 (0x300000 + 8 * M.val) 8 = true → L = M) ∧
    (Issuing (demoPeers gSome) k0 gSome p0 ∧ Ready (demoPeers gSome) k0 gSome p0 [6, 2, 3, 8, 9, 10, 11] [6, 2, 3, 8, 9, 10, 11] ∧ (gSome.seen 6 0).toNat = 0 ∧
      (gSome.seen 6 1).toNat = 5) := by
  refine ⟨fun n hn => ⟨⟨rfl, rfl, rfl⟩, ready_free _ _ _ _ _ _ rfl (show ∀ r ∈ _, 0 + r < 128 by decide), ⟨rfl, rfl⟩, rfl, rfl, rfl, ?_⟩,
    ⟨apart_of_none _, fun n hn need hneed L => ?_⟩, by decide,
    ⟨⟨rfl, rfl, rfl⟩, ready_free _ _ _ _ _ _ rfl (show ∀ r ∈ _, 0 + r < 128 by decide), by decide, by decide⟩⟩
  · revert n; decide +kernel
  · have h : (hitting (demoPeers (gSelf 0)) noCore).resolve 0 0 (8 * L.val) n need = .ok (frameAt (0x300000 + 8 * L.val)) ∧
        (hitting (demoPeers (gSelf 0)) noCore).wrongKey (0x300000 + 8 * L.val) 0 = false ∧ 8 * L.val % n = 0 := by revert n need L; decide +kernel
    refine ⟨h.1 ▸ steadyResolve_of_hit _ 0 0 (8 * L.val) n need domain0 rfl ?_, h.2⟩
    clear h; revert L; decide +kernel
/-- A request of two lanes, of which the second lies beyond the heap; the answers to a request for checks; and a lost request of two lanes. -/
def rpacket2 (kind : RKind) : RPacket := { rpacket kind 0 with lanes := [⟨0, 0, 1#64, 0#64⟩, ⟨1, 0x10000, 1#64, 0#64⟩] }
def request2 : Request := { request0 (.posted k0 3) with lanes := [⟨0, 0, 0#64, 0#64⟩, ⟨1, 4, 0#64, 0#64⟩] }
def demoHit : State := hitting (demoAsk .nobody) noCore
theorem witness_PeersAreServedAndAnswered_lanes :
    (let s1 := accepted demoHit (rpacket2 .load)
     demoHit.acceptFrom (rpacket2 .load) ≠ none ∧ (kfind s1.seqOut (0, 5)).getD 0 < 2 ^ 48 - 1 ∧ s1.homes = [] ∧
       (rpacket2 .load).lanes = (maskLanes 3#32).map (fun L => ⟨L.val, 0x10000 * L.val, 1#64, 0#64⟩) ∧ demoHit.planeHeld (planeEntry demoHit.selfNum 0) = false ∧
       s1.wrongKey 0x300000 0 = false) ∧
    ((accepted demoHit (rpacket2 .load)).tablesApart fun _ => False) ∧
    (∀ n ∈ [4, 8], ∀ need ∈ [Need.read, .write, .both],
      (accepted demoHit (rpacket2 .load)).steadyResolve (fun _ => False) 0 5 0 n need (.ok (frameAt 0x300000)) ∧
      (accepted demoHit (rpacket2 .load)).steadyResolve (fun _ => False) 0 5 0x10000 n need (.fail 3)) ∧
    ((request2.lanes.map (·.lane)).Nodup ∧ (∀ l ∈ request2.lanes, l.lane < 32) ∧ (⟨0, 0, 0#64, 0#64⟩ : RLane) ∈ request2.lanes ∧
      (∀ z ∈ request2.lanes, 0 ≤ z.lane)) ∧ ({ remote0 with probe := true } : RemoteOp).waiting = [0] := by
  refine ⟨by decide +kernel, apart_of_none _, fun n hn need hneed => ?_, by decide, rfl⟩
  have h : (accepted demoHit (rpacket2 .load)).resolve 0 5 0 n need = .ok (frameAt 0x300000) ∧
      (accepted demoHit (rpacket2 .load)).resolve 0 5 0x10000 n need = .fail 3 := by revert n need; decide +kernel
  exact ⟨h.1 ▸ steadyResolve_of_hit _ 0 5 0 n need domain0 (by decide +kernel) (by decide +kernel),
    h.2 ▸ steadyResolve_of_hit _ 0 5 0x10000 n need domain0 (by decide +kernel) (by decide +kernel)⟩
/-- A cluster of two teams, of which the second is being killed; and a packet for a team that has ended, with and without room in the overflow area. -/
def demoMate : State :=
  let s := (demoTeam x0 g0).setTeam ⟨0, 1⟩ { x0 with core := 1, killed := true }
  { s.modGrid 0 fun g => { g with lr := { g.lr with clw := 1, teamsm1 := 1#32 } } with ev := { key := k0 } }
theorem witness_PreemptionSteps_mate : demoMate.isResident k0.tkey = true ∧ (demoMate.team k0.tkey).killed = false ∧
    (∃ u ∈ demoMate.clusterHere k0.tkey, (demoMate.team u).killed = true) := by decide +kernel
def demoEnded (area : DWord) : State :=
  { demoTasks 4 area (demoTeam x0 g0) with packets := [packet0], grids := [(0, { lr := { tqovf := area, tqlog := 8 }, ended := [0] })] }
theorem witness_TasksAndLaunches_ended : (demoEnded 0#64).packets = [packet0] ∧ (demoEnded 0#64).ev.n = 0 ∧ (demoEnded 0#64).hasEnded packet0.owner = true ∧
    ¬ ((demoEnded 0#64).grid 0).overflow.length < ((demoEnded 0#64).grid 0).lr.overflowCap ∧ (demoEnded 0x500000#64).packets = [packet0] ∧
    (demoEnded 0x500000#64).hasEnded packet0.owner = true ∧
    ((demoEnded 0x500000#64).grid 0).overflow.length < ((demoEnded 0x500000#64).grid 0).lr.overflowCap := by decide +kernel
/-- A write that must wait for the directory of its die, and one that need not. -/
theorem witness_CoherenceSteps_waits :
    (let s : State := { demoCached g0 with rebuild := [0] }
     ∃ w, s.writes.find? (fun w => w.id == s.ev.n) = some w ∧ s.goBusy w w.scope = true ∧ s.goBusy w (w.reach + 1) = true) ∧
    (let s : State := { demoCached g0 with rebuild := [] }
     ∃ w, s.writes.find? (fun w => w.id == s.ev.n) = some w ∧ s.goBusy w w.scope = false ∧ s.goBusy w (w.reach + 1) = false) :=
  ⟨⟨⟨0, 0, 0x300000, [1#8], 2, 1, 0⟩, by decide +kernel⟩, ⟨0, 0, 0x300000, [1#8], 2, 1, 0⟩, by decide +kernel⟩
/-- Records of every kind, the ends of each format, and blocks and participants that are there. -/
def coll1 : CollRec := CollRec.ofRecord (2 * 2 ^ 256 + 2 ^ 320)
theorem witness_CollectiveFolds : (coll1.dtype < 6 ∧ coll1.redop < 6 ∧ coll1.op = 1 ∧ 1 < coll1.count) ∧
    (∀ t < 3, ∃ F, [fp32, bf16, fp16][t]? = some F ∧ 8 * [4, 2, 2, 4, 4, 8].getD t 0 = F.bits) ∧
    (fp32.decode 0x7F800001).isSig = true ∧ (fp32.decode 0x7FC00000).isNan = true ∧ (fp16.decode 0x8000).isNan = false ∧ [1] ≠ ([] : List Nat) := by
  refine ⟨by decide +kernel, fun t ht => ?_, by decide, by decide, by decide, by decide⟩
  match t, ht with
  | 0, _ => exact ⟨fp32, rfl, rfl⟩
  | 1, _ => exact ⟨bf16, rfl, rfl⟩
  | 2, _ => exact ⟨fp16, rfl, rfl⟩
/-- The example of R323: 1.0, 2^24 and −2^24 fold to +0 with NX. -/
theorem test_fold_rounds_each : coll1.fold [0x3F800000, 0x4B800000, 0xCB800000] = (0, flagNX) := by decide +kernel

end Sys2Proof.Tests
end

/-! The encoder's words read back: the fields by the lemma of each constructor, then the words and the bytes. -/

namespace Sys2Proof.Laws.Decodes

/-- Every constructor has its lemma; a step of the device without a word is not well-formed. -/
theorem statement_all (i : Instr) : Statement i := by
  cases i with
  | sysc n => exact sysc n | bra i => exact bra i | call d i => exact call d i | jmp a => exact jmp a | jmpl d a => exact jmpl d a
  | brz d i => exact brz d i | brnz d i => exact brnz d i | brany d i => exact brany d i | brall d i => exact brall d i | mark i => exact mark i
  | voteAny d a => exact voteAny d a | voteAll d a => exact voteAll d a | voteBallot d a => exact voteBallot d a
  | voteCount d a => exact voteCount d a | voteFirst d a => exact voteFirst d a | barArrive d => exact barArrive d | barWait a => exact barWait a
  | mona p d a s z pol => exact mona p d a s z pol | monw d a => exact monw d a | fget d a b => exact fget d a b | fput d a b => exact fput d a b
  | spawn d a b => exact spawn d a b | mov d a => exact mov d a | mov64 d a => exact mov64 d a | movi p d i => exact movi p d i
  | movhi d i => exact movhi d i | wbase i => exact wbase i | wbaseRel i => exact wbaseRel i | sget d n => exact sget d n
  | sset a n => exact sset a n | shfl d a b => exact shfl d a b | shflx d a b => exact shflx d a b | csel d a b => exact csel d a b
  | fmtSet a => exact fmtSet a | fmtGet d => exact fmtGet d | dqPush d a => exact dqPush d a | dqPop d a => exact dqPop d a
  | dqSteal d a => exact dqSteal d a | dqSize d a => exact dqSize d a | bndPubmin d s => exact bndPubmin d s | bndPubmax d s => exact bndPubmax d s
  | bndGet d s => exact bndGet d s | bndReset d s => exact bndReset d s | tjoin d a => exact tjoin d a | tjoinTest d a => exact tjoinTest d a
  | launch d a => exact launch d a | rld d a b => exact rld d a b | rst d a b => exact rst d a b | add d a b => exact add d a b
  | sub d a b => exact sub d a b | addi p d a i => exact addi p d a i | mul d a b => exact mul d a b | mulhs d a b => exact mulhs d a b
  | mulhu d a b => exact mulhu d a b | mad d a b => exact mad d a b | add64 d a b => exact add64 d a b | addz64 p d a b => exact addz64 p d a b
  | mulws d a b => exact mulws d a b | mulwz d a b => exact mulwz d a b | min d a b => exact min d a b | max d a b => exact max d a b
  | minu d a b => exact minu d a b | maxu d a b => exact maxu d a b | and d a b => exact and d a b | or d a b => exact or d a b
  | xor d a b => exact xor d a b | andi p d a i => exact andi p d a i | ori p d a i => exact ori p d a i | xori p d a i => exact xori p d a i
  | shl d a b => exact shl d a b | shr d a b => exact shr d a b | sar d a b => exact sar d a b | shli d a n => exact shli d a n
  | shri d a n => exact shri d a n | sari d a n => exact sari d a n | roti d a n => exact roti d a n | rot d a b => exact rot d a b
  | clz d a => exact clz d a | popc d a => exact popc d a | brev d a => exact brev d a | abs d a => exact abs d a | neg d a => exact neg d a
  | not d a => exact not d a | sextb d a => exact sextb d a | sexth d a => exact sexth d a | zextb d a => exact zextb d a
  | zexth d a => exact zexth d a | ctz d a => exact ctz d a | bfx d a b => exact bfx d a b | bfi d a b => exact bfi d a b
  | seq d a b => exact seq d a b | slt d a b => exact slt d a b | sltu d a b => exact sltu d a b | fadd d a b => exact fadd d a b
  | fsub d a b => exact fsub d a b | fmul d a b => exact fmul d a b | ffma d a b => exact ffma d a b | fmin d a b => exact fmin d a b
  | fmax d a b => exact fmax d a b | fseq d a b => exact fseq d a b | fslt d a b => exact fslt d a b | fsle d a b => exact fsle d a b
  | collStart d a => exact collStart d a | collWait d a => exact collWait d a | collTest d a => exact collTest d a | fabs d a => exact fabs d a
  | fneg d a => exact fneg d a | frndn d a => exact frndn d a | frndz d a => exact frndz d a | frndp d a => exact frndp d a
  | frndm d a => exact frndm d a | fclass d a => exact fclass d a | frcp d a => exact frcp d a | frsq d a => exact frsq d a
  | fsqrt d a => exact fsqrt d a | fex2 d a => exact fex2 d a | flg2 d a => exact flg2 d a | fsin d a => exact fsin d a | fcos d a => exact fcos d a
  | badd2 d a b => exact badd2 d a b | bmul2 d a b => exact bmul2 d a b | bfma2 d a b => exact bfma2 d a b | hfma2 d a b => exact hfma2 d a b
  | rsubs d a => exact rsubs d a | rsubsOff d a => exact rsubsOff d a | ratom p d a b => exact ratom p d a b | cvtF32F16 d a => exact cvtF32F16 d a
  | cvtF32Bf16 d a => exact cvtF32Bf16 d a | cvtF16F32 d a => exact cvtF16F32 d a | cvtBf16F32 d a => exact cvtBf16F32 d a
  | cvtF32S32 d a => exact cvtF32S32 d a | cvtF32Z32 d a => exact cvtF32Z32 d a | cvtS32F32 d a => exact cvtS32F32 d a
  | cvtZ32F32 d a => exact cvtZ32F32 d a | cvtF32E4m3 d a => exact cvtF32E4m3 d a | cvtF32E5m2 d a => exact cvtF32E5m2 d a
  | cvtF32E3m2 d a => exact cvtF32E3m2 d a | cvtF32E2m3 d a => exact cvtF32E2m3 d a | cvtF32E2m1 d a => exact cvtF32E2m1 d a
  | cvtE4m3F32 d a => exact cvtE4m3F32 d a | cvtE5m2F32 d a => exact cvtE5m2F32 d a | cvtE3m2F32 d a => exact cvtE3m2F32 d a
  | cvtE2m3F32 d a => exact cvtE2m3F32 d a | cvtE2m1F32 d a => exact cvtE2m1F32 d a | cvtF32E8m0 d a => exact cvtF32E8m0 d a
  | cvtE8m0F32 d a => exact cvtE8m0F32 d a | cvtS16S32 d a => exact cvtS16S32 d a | cvtS8S32 d a => exact cvtS8S32 d a
  | cvtZ16Z32 d a => exact cvtZ16Z32 d a | cvtZ8Z32 d a => exact cvtZ8Z32 d a | cvtF32S64 d a => exact cvtF32S64 d a
  | cvtS64F32 d a => exact cvtS64F32 d a | cvtp d a b => exact cvtp d a b | dot4i d a b => exact dot4i d a b | dot8i d a b => exact dot8i d a b
  | dot4f d a b => exact dot4f d a b | dot8f d a b => exact dot8f d a b | dot2b d a b => exact dot2b d a b | ldn p d a z => exact ldn p d a z
  | stn p d a z => exact stn p d a z | atnAdd p d a b => exact atnAdd p d a b | atnMin p d a b => exact atnMin p d a b
  | atnMax p d a b => exact atnMax p d a b | atnMinu p d a b => exact atnMinu p d a b | atnMaxu p d a b => exact atnMaxu p d a b
  | atnAnd p d a b => exact atnAnd p d a b | atnOr p d a b => exact atnOr p d a b | atnXch p d a b => exact atnXch p d a b
  | casn d a b => exact casn d a b | rrot d a b => exact rrot d a b | vput a => exact vput a | vputNb d a => exact vputNb d a
  | vget d => exact vget d | vgetNb d a => exact vgetNb d a | twxWr a s => exact twxWr a s | twxRd d s => exact twxRd d s
  | ld p d a s z pol => exact ld p d a s z pol | st p d a s z pol => exact st p d a s z pol | aadd p d a s b => exact aadd p d a s b
  | amin p d a s b => exact amin p d a s b | amax p d a s b => exact amax p d a s b | aminu p d a s b => exact aminu p d a s b
  | amaxu p d a s b => exact amaxu p d a s b | aand p d a s b => exact aand p d a s b | aor p d a s b => exact aor p d a s b
  | axor p d a s b => exact axor p d a s b | axch p d a s b => exact axch p d a s b | acas p d a s b => exact acas p d a s b
  | afadd p d a s b => exact afadd p d a s b | fenceAcq s => exact fenceAcq s | fenceRel s => exact fenceRel s | fenceAcqrel s => exact fenceAcqrel s
  | fenceSc s => exact fenceSc s | fenceAsync s => exact fenceAsync s | touch p d a => exact touch p d a | cmaintWb a s => exact cmaintWb a s
  | cmaintInv a s => exact cmaintInv a s | cmaintWbinv a s => exact cmaintWbinv a s | cmaintTlb d a s => exact cmaintTlb d a s
  | trec d a s => exact trec d a s | trecN d a s => exact trecN d a s | tcopy d a b => exact tcopy d a b | tstore d a b => exact tstore d a b
  | tcommit d => exact tcommit d | twaitb d a => exact twaitb d a | twaitbTest d a => exact twaitbTest d a | cbarInit d a => exact cbarInit d a
  | cbarArrive d a => exact cbarArrive d a | cbarExpect d a => exact cbarExpect d a | cbarWait d a => exact cbarWait d a
  | cbarTest d a => exact cbarTest d a | lcopy d a b => exact lcopy d a b | gangSet a => exact gangSet a | gangCur a => exact gangCur a
  | gangNear a => exact gangNear a | gangScl a => exact gangScl a | mma p d a b => exact mma p d a b | accAlloc p d a => exact accAlloc p d a
  | accFree p a => exact accFree p a | accZero p a => exact accZero p a | accRdf32 p d a => exact accRdf32 p d a
  | accRdbf2 p d a => exact accRdbf2 p d a | accRdi32 p d a => exact accRdi32 p d a | accWrf32 p d a => exact accWrf32 p d a
  | accStn p d a => exact accStn p d a | accStat p d a => exact accStat p d a | mfence d => exact mfence d | mwaitb d a => exact mwaitb d a
  | cpass d => exact cpass d | lstat d => exact lstat d | nop => exact nop | yield => exact yield | exit => exact exit | join => exact join
  | tret => exact tret | tretSkip => exact tretSkip | tfence => exact tfence | brk => exact brk | hvc => exact hvc | texit => exact texit
  | halt => exact halt | barTeam => exact barTeam | barClu => exact barClu | barGrid => exact barGrid | gangClr => exact gangClr
  | ctake => exact ctake | lrel => exact lrel
  | _ => exact fun h => nomatch h

/-- A word whose fields stand for an instruction, read after the payload that this instruction takes, decodes to it with E and W. -/
theorem decodeAfter_wordOf {f : Fields} {i : Instr} (hwf : i.wellFormed = true) (hi : f.toInstr i.payloadArg = some i) :
    decodeAfter i.payloadArg (wordOf f) = .ok ⟨f.e, f.w, i⟩ := by
  simp [decodeAfter, fieldsOf_wordOf, hi, hwf]

theorem isPfx_wordOf (f : Fields) : isPfx (wordOf f) = (f.op == 0x7F#7) := by rw [isPfx, fieldsOf_wordOf]

/-- Without a payload the decoder takes one word (R25). -/
theorem decode_wordBytes {w0 : Word} {d : Decoded} (h : isPfx w0 = false) (hd : decodeAfter none w0 = .ok d) (rest : List Byte) :
    decode (wordBytes w0 ++ rest) = .ok (d, rest) := by
  simp [decode, takeWord_wordBytes, h, decodeWords, hd, Except.map]

/-- After a word of major 0x7F the decoder takes one word more, with its payload (R25). -/
theorem decode_pfxWord {p : BitVec 21} {w1 : Word} {d : Decoded} (hd : decodeAfter (some p) w1 = .ok d) (rest : List Byte) :
    decode (wordBytes (pfxWord p) ++ (wordBytes w1 ++ rest)) = .ok (d, rest) := by
  obtain ⟨hpfx, hallowed, hpayload⟩ := pfxWord_spec p
  simp [decode, takeWord_wordBytes, hpfx, decodeWords, hallowed, hpayload, hd, Except.map]

/-- Settles O57: the fields of the instruction's word read back, then the word, then its bytes, with and without a word that holds its payload. -/
theorem decodeInvertsEncode : Obligations.DecodeInvertsEncode := by
  intro i e w hwf
  obtain ⟨f, hf, rfl, rfl, hop, hi⟩ := statement_all i hwf e w
  have hd := decodeAfter_wordOf hwf hi
  cases hp : i.payloadArg with
  | none =>
    refine ⟨[wordOf f], by simp [encode, hf, hp], fun rest => ?_⟩
    simpa using decode_wordBytes ((isPfx_wordOf f).trans hop) (hp ▸ hd) rest
  | some p =>
    refine ⟨[pfxWord p, wordOf f], by simp [encode, hf, hp], fun rest => ?_⟩
    simpa using decode_pfxWord (hp ▸ hd) rest

/-- Settles O56: the decoder is run on each word. -/
theorem knownWordsDecode : Obligations.KnownWordsDecode := by
  refine ⟨?_, by decide, by decide⟩
  decide

end Sys2Proof.Laws.Decodes

namespace Sys2Proof.Machine

/-! The step of the group in focus: what it fetches, and that it runs what it has fetched (R17 to R19, R25, R243). -/

/-- A word of another major than 0x7F is fetched alone (R25). -/
theorem fetch_plain {s : State} {k : GKey} {g : Group} {p : Path} {w0 : Word} {d : Decoded} (h0 : s.fetchWord k g.mode p.pc = .ok w0)
    (hpfx : isPfx w0 = false) (hd : decodeWords w0 none = .ok d) : s.fetch k g p = .instr d := by
  simp [State.fetch, h0, hpfx, hd, Fetched.ofDecode]

/-- A word of major 0x7F is fetched with the word after it (R25). -/
theorem fetch_pair {s : State} {k : GKey} {g : Group} {p : Path} {w0 w1 : Word} {d : Decoded} (h0 : s.fetchWord k g.mode p.pc = .ok w0)
    (hpfx : isPfx w0 = true) (h1 : s.fetchWord k g.mode (p.pc + 4#32) = .ok w1) (hd : decodeWords w0 (some w1) = .ok d) :
    s.fetch k g p = .instr d := by
  simp [State.fetch, h0, hpfx, h1, hd, Fetched.ofDecode]

/-- With nothing due and no trap before it, a step of the focus group runs the instruction that it fetches, unless that needs a directory under
rebuild. -/
theorem step_of_fetch {s : State} {k : GKey} {g : Group} {p : Path} {d : Decoded} (hi : Issuing s k g p) (hag : s.agenda = [])
    (hdue : g.stepDue = false) (hbp : s.breakpointAt k g p = none) (hf : s.fetch k g p = .instr d) :
    let s0 : State := { s with slotE := d.e, slotW := d.w }
    step s = afterInstr (s0.unlessCrossing (s0.holdIssue k []) (s.coreOf k) (exec d.i s0)) := by
  simp [step, hag, hi.focus, hi.found, hi.path, State.stepGroup, hdue, hbp, hf]

/-- With no directory under rebuild, nothing needs one (R243). -/
theorem unlessCrossing_of_rebuild_nil {s : State} (h : s.rebuild = []) (wait : State) (actor : Nat) (o : Host.Outcome State Fault Refusal) :
    s.unlessCrossing wait actor o = o := by
  cases o with
  | next t => simp [State.unlessCrossing, State.crosses, h]
  | fault f => rfl
  | refused r => rfl

/-- Settles O55: the fetch gives the instruction, and the step is that of `exec` on it, unless it needs a directory under rebuild. -/
theorem stepRunsDecoded : Obligations.StepRunsDecoded := by
  intro s k g p hi hag hdue hbp w0 h0 runs
  have hruns : ∀ d, s.fetch k g p = .instr d → runs d := by
    intro d hf
    have hstep := step_of_fetch hi hag hdue hbp hf
    refine ⟨fun hr => ?_, fun t ht => ?_⟩
    · rw [hstep, unlessCrossing_of_rebuild_nil (by exact hr)]
      cases exec d.i { s with slotE := d.e, slotW := d.w } <;> rfl
    · rw [hstep, ht]
      rfl
  exact ⟨fun hpfx d hd => hruns d (fetch_plain h0 hpfx hd), fun hpfx w1 h1 d hd => hruns d (fetch_pair h0 hpfx h1 hd)⟩

end Sys2Proof.Machine

namespace Sys2Proof.Machine

/-! A trap lets no cycle pass beside the beats of its instruction, and an instruction of a path without active lanes can take no beat at all (R64). -/

-- ## Traps and the cycle counter

@[simp] theorem State.endRun_cycle (s : State) (k : GKey) : (s.endRun k).cycle = s.cycle := by simp [State.endRun]

theorem State.stepped_cycle (s : State) (k : GKey) (g : Group) (trapped : Bool) : (s.stepped k g trapped).cycle = s.cycle := by
  unfold State.stepped
  cases g.step && g.mode = .user <;> cases trapped <;> simp

theorem State.trapAlone_cycle (s : State) (k : GKey) (p : Path) (npc : Word) (r : TrapReq) : (s.trapAlone k p npc r).cycle = s.cycle := by
  unfold State.trapAlone
  split <;> simp

theorem State.trapAlone_parts (s : State) (k : GKey) (p : Path) (npc : Word) (r : TrapReq) : (s.trapAlone k p npc r).parts = s.parts := by
  unfold State.trapAlone
  split <;> simp [State.endRun]

/-- Where no partition holds anything, no latch empties, and a trap lets no cycle pass. -/
theorem State.trap_cycle_of_parts_nil {s : State} (h : s.parts = []) (k : GKey) (p : Path) (npc : Word) (r : TrapReq) :
    (s.trap k p npc r).cycle = s.cycle := by
  have hlatches : ∀ c q, ((s.trapAlone k p npc r).part c q).latches = [] := by simp [State.part, State.trapAlone_parts, h]
  unfold State.trap
  split
  · exact State.trapAlone_cycle s k p npc r
  · simp [State.breakGang, hlatches, State.trapAlone_cycle]

-- ## A path without active lanes

/-- A path with no active lane. -/
def idlePath : Path := ⟨0#32, 0#32, 0#32⟩
/-- Its group, whose register v0 is not uniform. -/
def idleGroup : Group := { regs := [(0, ⟨uniformLanes 0#32, false⟩)], cur := some idlePath }
/-- The machine after reset, with that group about to issue. -/
def idleState : State := { State.reset with groups := [(⟨0, 0, 0⟩, idleGroup)], focus := some ⟨0, 0, 0⟩ }

/-- Where `Traps` lets the idle path spend `n` beats, the cycle counter stands at `n`. -/
theorem idle_trap_cycle (n : Nat) (npc : Word) (r : TrapReq) :
    ((((idleState.view ⟨0, 0, 0⟩ idleGroup idlePath none).s.spend n).trap ⟨0, 0, 0⟩ idlePath npc r).stepped ⟨0, 0, 0⟩ idleGroup true).cycle = n := by
  rw [State.stepped_cycle, State.trap_cycle_of_parts_nil rfl]
  exact Nat.zero_add n

/-- An SSET of an unassigned number that reads, in no lane, a register that is not uniform takes no beat: it traps with the cycle counter at 0. -/
theorem idle_sset_cycle : ∃ t, exec (.sset 0#7 0x1C#7) idleState = .next t ∧ t.cycle = 0 := by
  have hi : Issuing idleState ⟨0, 0, 0⟩ idleGroup idlePath := ⟨rfl, rfl, rfl⟩
  rw [exec_sset, execSset]
  refine ⟨_, issue_trap hi _ rfl rfl { cause := .illegal, lanes := 0#32 } rfl rfl, ?_⟩
  rw [State.stepped_cycle, State.trap_cycle_of_parts_nil rfl]
  decide

/-- Refutes O14: `Traps` asks for at least one beat, but on a path without active lanes, which `Issuing` admits, an SSET of an unassigned number
whose source is not uniform takes none, as `beats` counts the active lanes. -/
theorem not_specialRegisterChecksAndSteps : ¬ Obligations.SpecialRegisterChecksAndSteps := by
  rintro ⟨checks, -⟩
  obtain ⟨n, hn, hexec⟩ := (checks idleState ⟨0, 0, 0⟩ idleGroup idlePath ⟨rfl, rfl, rfl⟩ 0#7 0x1C#7 rfl (.sset 0#7 0x1C#7) (by simp)).1
    (.inl (by decide))
  obtain ⟨t, ht, hcycle⟩ := idle_sset_cycle
  obtain rfl := Host.Outcome.next.inj (hexec.symm.trans ht)
  rw [idle_trap_cycle] at hcycle
  omega

end Sys2Proof.Machine

namespace Sys2Proof.Machine

/-! The least recently issued of a set of groups, and what arbitration does with it (R66, R67). -/

-- ## Keys of a map

theorem mem_keys_iff {κ α : Type} [DecidableEq κ] {m : KMap κ α} {k : κ} : k ∈ m.map (·.1) ↔ ∃ v, kfind m k = some v := by
  induction m with
  | nil => simp
  | cons x m ih =>
    obtain ⟨j, v⟩ := x
    by_cases h : j = k
    · simp [kfind, h]
    · simpa [kfind, h, Ne.symm h] using ih

-- ## Arbitration (R66)

/-- `w` is `j`, or has issued less recently, or as recently from a lower slot. -/
def State.ahead (s : State) (w j : GKey) : Prop :=
  j = w ∨ (s.group w).lastIssue < (s.group j).lastIssue ∨ ((s.group w).lastIssue = (s.group j).lastIssue ∧ s.slotOf w < s.slotOf j)

theorem earlier_eq_left {s : State} {w j : GKey} (h : s.ahead w j) : s.earlier w j = w := by
  obtain rfl | h | ⟨h, hslot⟩ := h
  · simp [State.earlier]
  · simp [State.earlier, show ¬ (s.group j).lastIssue < (s.group w).lastIssue by omega, show (s.group w).lastIssue ≠ (s.group j).lastIssue by omega]
  · simp [State.earlier, h, show ¬ s.slotOf j < s.slotOf w by omega]

theorem earlier_eq_right {s : State} {w j : GKey} (h : s.ahead w j) : s.earlier j w = w := by
  obtain rfl | h | ⟨h, hslot⟩ := h
  · simp [State.earlier]
  · simp [State.earlier, h]
  · simp [State.earlier, h, hslot]

theorem earlier_eq_or (s : State) (a b : GKey) : s.earlier a b = a ∨ s.earlier a b = b := (ite_eq_or_eq _ b a).symm

theorem foldl_earlier_eq_of_ahead {s : State} {w : GKey} {l : List GKey} (h : ∀ j ∈ l, s.ahead w j) : l.foldl s.earlier w = w := by
  induction l with
  | nil => rfl
  | cons j l ih =>
    rw [List.foldl_cons, earlier_eq_left (h j (by simp))]
    exact ih fun i hi => h i (by simp [hi])

theorem foldl_earlier_eq_of_mem {s : State} {w : GKey} {l : List GKey} (hw : w ∈ l) (h : ∀ j ∈ l, s.ahead w j) :
    ∀ a, s.ahead w a → l.foldl s.earlier a = w := by
  induction l with
  | nil => simp at hw
  | cons j l ih =>
    intro a ha
    have hj := h j (by simp)
    have hl : ∀ i ∈ l, s.ahead w i := fun i hi => h i (by simp [hi])
    rw [List.foldl_cons]
    rcases List.mem_cons.1 hw with rfl | hmem
    · rw [earlier_eq_right ha]
      exact foldl_earlier_eq_of_ahead hl
    · refine ih hmem hl _ ?_
      rcases earlier_eq_or s a j with e | e <;> rw [e] <;> assumption

/-- Of a list, the group that is ahead of all the others is the one that `earliest` names. -/
theorem earliest_eq {s : State} {w : GKey} {l : List GKey} (hw : w ∈ l) (h : ∀ j ∈ l, s.ahead w j) : s.earliest l = some w := by
  cases l with
  | nil => simp at hw
  | cons a l =>
    have hl : ∀ i ∈ l, s.ahead w i := fun i hi => h i (by simp [hi])
    rcases List.mem_cons.1 hw with rfl | hmem
    · exact congrArg some (foldl_earlier_eq_of_ahead hl)
    · exact congrArg some (foldl_earlier_eq_of_mem hmem hl a (h a (by simp)))

theorem issueArbitration_full {s : State} (h : s.slotFree s.ev.core s.ev.part = false) : exec .issueArbitration s = .next s := by
  rw [exec_issueArbitration]
  unfold execIssueArbitration
  split <;> simp [h]

theorem issueArbitration_idle {s : State} (h : ∀ j ∈ (s.part s.ev.core s.ev.part).active, s.candidate j = false ∨ s.entered j = false) :
    exec .issueArbitration s = .next s := by
  have hnone : ((s.part s.ev.core s.ev.part).active.filter fun k => s.candidate k && s.entered k) = [] :=
    List.filter_eq_nil_iff.2 fun j hj => by rcases h j hj with e | e <;> simp [e]
  rw [exec_issueArbitration]
  simp [execIssueArbitration, hnone, State.earliest]

theorem issueArbitration_takes {s : State} {w : GKey} (hw : w ∈ (s.part s.ev.core s.ev.part).active) (hc : s.candidate w = true)
    (he : s.entered w = true) (hfree : s.slotFree s.ev.core s.ev.part = true)
    (h : ∀ j ∈ (s.part s.ev.core s.ev.part).active, s.candidate j = true → s.entered j = true → s.ahead w j) :
    exec .issueArbitration s = .next { s with runs := w :: s.runs, focus := some w } := by
  have e : s.earliest ((s.part s.ev.core s.ev.part).active.filter fun k => s.candidate k && s.entered k) = some w := by
    refine earliest_eq (by simp [hw, hc, he]) fun j hj => ?_
    simp only [List.mem_filter, Bool.and_eq_true] at hj
    exact h j hj.1 hj.2.1 hj.2.2
  rw [exec_issueArbitration]
  simp [execIssueArbitration, e, hfree]

-- ## The active set (R67)

theorem mem_outside_iff {s : State} {core part : Nat} {j : GKey} : j ∈ s.outside core part ↔
    (∃ g, kfind s.groups j = some g) ∧ s.coreOf j = core ∧ j.g % 4 = part ∧ s.candidate j = true ∧ j ∉ (s.part core part).active := by
  simp [State.outside, List.mem_filter, ← mem_keys_iff, partOf, and_assoc]

end Sys2Proof.Machine

namespace Sys2Proof.Machine

/-! Writes on their way that complete: what they leave as it was, which of them stay, and what a reader sees (R68 to R71). -/

-- ## What completing writes leaves of a group

/-- What no completing write changes, completing any number of them does not change. -/
theorem completeAll_frame {α : Type} (f : Group → α) (hpend : ∀ g ps, f { g with pend := ps } = f g)
    (hwrite : ∀ g before q after, f (g.completeWrite before q after) = f g) (test : PendWrite → Bool) :
    ∀ rest before g, f (Group.completeAll test before rest g) = f g := by
  intro rest
  induction rest with
  | nil => exact fun before g => hpend g before
  | cons q rest ih =>
    intro before g
    rw [Group.completeAll]
    split
    · rw [ih, hwrite]
    · exact ih _ g

section
variable (g : Group) (before : List PendWrite) (q : PendWrite) (after : List PendWrite)

@[simp] theorem completeWrite_cur : (g.completeWrite before q after).cur = g.cur := by
  simp only [Group.completeWrite, apply_ite Group.cur, Group.put, Group.orFlags, ite_self]
@[simp] theorem completeWrite_stack : (g.completeWrite before q after).stack = g.stack := by
  simp only [Group.completeWrite, apply_ite Group.stack, Group.put, Group.orFlags, ite_self]
@[simp] theorem completeWrite_mode : (g.completeWrite before q after).mode = g.mode := by
  simp only [Group.completeWrite, apply_ite Group.mode, Group.put, Group.orFlags, ite_self]
@[simp] theorem completeWrite_sbank : (g.completeWrite before q after).sbank = g.sbank := by
  simp only [Group.completeWrite, apply_ite Group.sbank, Group.put, Group.orFlags, ite_self]
@[simp] theorem completeWrite_hbank : (g.completeWrite before q after).hbank = g.hbank := by
  simp only [Group.completeWrite, apply_ite Group.hbank, Group.put, Group.orFlags, ite_self]
@[simp] theorem completeWrite_pend : (g.completeWrite before q after).pend = dropLanes q.reg q.mask before ++ after := by
  simp only [Group.completeWrite, apply_ite Group.pend, Group.put, Group.orFlags, ite_self]
@[simp] theorem completeWrite_nrm : (g.completeWrite before q after).nrm = g.nrm ||| q.absent := by
  simp only [Group.completeWrite, apply_ite Group.nrm, Group.put, Group.orFlags, ite_self]
@[simp] theorem completeWrite_aflags : (g.completeWrite before q after).aflags = (g.orFlags q.flags).aflags := by
  simp only [Group.completeWrite, apply_ite Group.aflags, Group.put, ite_self]
@[simp] theorem completeWrite_live : (g.completeWrite before q after).live = g.live := by simp [Group.live]

end

section
variable (g : Group) (before : List PendWrite) (q : PendWrite) (after : List PendWrite)

/-- The registers are those after the write that completes, which no lane takes where its mask is empty. -/
theorem completeWrite_regs : (g.completeWrite before q after).regs = if q.mask = 0#32 then g.regs else (g.put q.reg q.mask q.vals).regs := by
  simp only [Group.completeWrite, apply_ite Group.regs, Group.put, Group.orFlags, Group.reg, Group.live]

theorem completeWrite_reg (n : Nat) : (g.completeWrite before q after).reg n = if q.mask = 0#32 then g.reg n else (g.put q.reg q.mask q.vals).reg n := by
  unfold Group.reg
  rw [completeWrite_regs]
  split <;> rfl

theorem completeWrite_reg_ne {n : Nat} (h : n ≠ q.reg) : (g.completeWrite before q after).reg n = g.reg n := by
  rw [completeWrite_reg, reg_put_ne _ _ _ h, ite_self]

/-- A lane that the completing write names holds its value. -/
theorem completeWrite_in {L : Fin 32} (h : q.mask.getLsbD L.val = true) :
    ((g.completeWrite before q after).reg q.reg).vals[L] = q.vals[L] := by
  have hm : q.mask ≠ 0#32 := fun e => by simp [e] at h
  rw [completeWrite_reg, if_neg hm]
  exact put_in g q.reg q.mask q.vals h

/-- A lane that it does not name keeps its contents, unless it has ended and one copy stands for the register. -/
theorem completeWrite_out {L : Fin 32} (h : q.mask.getLsbD L.val = false) :
    ((g.completeWrite before q after).reg q.reg).vals[L] = (g.reg q.reg).vals[L] ∨
      (g.live.getLsbD L = false ∧ ((g.completeWrite before q after).reg q.reg).vals[L] = q.vals[lowestLane q.mask]) := by
  rw [completeWrite_reg]
  split
  · exact .inl rfl
  · exact put_out g q.reg q.mask q.vals h

end

section
variable (g : Group)

@[simp] theorem drainFixed_cur : g.drainFixed.cur = g.cur := completeAll_frame Group.cur (fun _ _ => rfl) completeWrite_cur _ _ _ g
@[simp] theorem drainFixed_stack : g.drainFixed.stack = g.stack := completeAll_frame Group.stack (fun _ _ => rfl) completeWrite_stack _ _ _ g
@[simp] theorem drainFixed_mode : g.drainFixed.mode = g.mode := completeAll_frame Group.mode (fun _ _ => rfl) completeWrite_mode _ _ _ g
@[simp] theorem drainFixed_sbank : g.drainFixed.sbank = g.sbank := completeAll_frame Group.sbank (fun _ _ => rfl) completeWrite_sbank _ _ _ g
@[simp] theorem drainFixed_hbank : g.drainFixed.hbank = g.hbank := completeAll_frame Group.hbank (fun _ _ => rfl) completeWrite_hbank _ _ _ g
@[simp] theorem drainDue_cur : g.drainDue.cur = g.cur := completeAll_frame Group.cur (fun _ _ => rfl) completeWrite_cur _ _ _ g

end

-- ## Which writes stay on their way

/-- What a later write leaves of the earlier ones differs from them in their lanes alone. -/
theorem mem_dropLanes {n : Nat} {m : Word} {ps : List PendWrite} {q : PendWrite} (h : q ∈ dropLanes n m ps) :
    ∃ x ∈ ps, ∃ l, q = { x with mask := l } := by
  simp only [dropLanes, List.mem_filter, List.mem_map] at h
  obtain ⟨⟨x, hx, rfl⟩, -⟩ := h
  refine ⟨x, hx, ?_⟩
  split
  · exact ⟨_, rfl⟩
  · exact ⟨x.mask, rfl⟩

/-- Where the test does not look at the lanes, none of the writes that satisfy it stay on their way. -/
theorem completeAll_pend {test : PendWrite → Bool} (hmask : ∀ (q : PendWrite) l, test { q with mask := l } = test q) :
    ∀ rest before g, (∀ q ∈ before, test q = false) → ∀ q ∈ (Group.completeAll test before rest g).pend, test q = false := by
  intro rest
  induction rest with
  | nil => exact fun _ _ h => h
  | cons p rest ih =>
    intro before g h
    rw [Group.completeAll]
    split
    · refine ih _ _ fun q hq => ?_
      obtain ⟨x, hx, l, rfl⟩ := mem_dropLanes hq
      rw [hmask, h x hx]
    · refine ih _ _ fun q hq => ?_
      rcases List.mem_append.1 hq with hq | hq
      · exact h q hq
      · rw [List.mem_singleton.1 hq]; simpa using ‹¬ test p = true›

theorem drainFixed_pend (g : Group) : ∀ q ∈ g.drainFixed.pend, q.left = none := fun q hq => by
  simpa [PendWrite.isFixed] using completeAll_pend (test := PendWrite.isFixed) (fun _ _ => rfl) g.pend [] g (by simp) q hq

theorem drainDue_pend (g : Group) : ∀ q ∈ g.drainDue.pend, q.left ≠ some 0 := fun q hq => by
  simpa using completeAll_pend (test := fun p => p.left == some 0) (fun _ _ => rfl) g.pend [] g (by simp) q hq

-- ## What a reader sees (R70, R71)

/-- What a lane of a register holds once a write has been passed, the oldest first: its value, where its counted beats are over. -/
def PendWrite.passed (n : Nat) (L : Fin 32) (x : Word) (p : PendWrite) : Word :=
  if p.reg = n ∧ p.mask.getLsbD L.val = true ∧ p.left = some 0 then p.vals[L] else x

theorem laneSeen_append (n : Nat) (L : Fin 32) (old : Word) (ps qs : List PendWrite) :
    laneSeen n L old (ps ++ qs) = laneSeen n L (laneSeen n L old qs) ps := by
  induction ps with
  | nil => rfl
  | cons p ps ih =>
    simp only [List.cons_append, laneSeen, ih]

theorem laneSeen_reverse (n : Nat) (L : Fin 32) (ps : List PendWrite) : ∀ old, laneSeen n L old ps.reverse = ps.foldl (PendWrite.passed n L) old := by
  induction ps with
  | nil => exact fun _ => rfl
  | cons p ps ih =>
    intro old
    rw [List.reverse_cons, laneSeen_append, ih, List.foldl_cons]
    congr 1
    unfold laneSeen PendWrite.passed
    split <;> rename_i h
    · simp only [Bool.and_eq_true, decide_eq_true_eq] at h
      split <;> simp_all [laneSeen]
    · simp only [Bool.and_eq_true, decide_eq_true_eq] at h
      rw [if_neg fun x => h ⟨x.1, x.2.1⟩]
      rfl

/-- A reader sees the register with the writes passed whose counted beats are over. -/
theorem read_get (g : Group) (n : Nat) (L : Fin 32) : (g.read n)[L] = g.pend.foldl (PendWrite.passed n L) (g.reg n).vals[L] := by
  unfold Group.read
  dsimp only
  split <;> rename_i h
  · simp [List.isEmpty_iff.1 h]
  · rw [lanesOf_get, laneSeen_reverse]

/-- A write that does not name the lane leaves what it holds. -/
theorem foldl_passed_idle {n : Nat} {L : Fin 32} {ps : List PendWrite} (h : ∀ q ∈ ps, q.reg = n → q.mask.getLsbD L.val = false) (x : Word) :
    ps.foldl (PendWrite.passed n L) x = x := by
  induction ps with
  | nil => rfl
  | cons p ps ih =>
    have hp : p.passed n L x = x := if_neg fun ⟨hn, hm, _⟩ => Bool.false_ne_true ((h p (by simp) hn).symm.trans hm)
    rw [List.foldl_cons, hp]
    exact ih fun q hq => h q (by simp [hq])

/-- What a later write to the lanes `m` of register `r` leaves of a write. -/
def PendWrite.lose (r : Nat) (m : Word) (p : PendWrite) : PendWrite := if p.reg = r then { p with mask := p.mask &&& ~~~m } else p

theorem passed_lose {n r : Nat} {m : Word} {L : Fin 32} (h : r = n → m.getLsbD L.val = false) (x : Word) (p : PendWrite) :
    (p.lose r m).passed n L x = p.passed n L x := by
  unfold PendWrite.lose
  split <;> rename_i hr
  · by_cases hn : r = n
    · have hm : m[L.val] = false := by simpa using h hn
      simp [PendWrite.passed, hm]
    · simp [PendWrite.passed, hr, hn]
  · rfl

/-- What a later write takes away in another lane or register does not show in this one. -/
theorem foldl_passed_dropLanes {n r : Nat} {m : Word} {L : Fin 32} (h : r = n → m.getLsbD L.val = false) (ps : List PendWrite) :
    ∀ x, (dropLanes r m ps).foldl (PendWrite.passed n L) x = ps.foldl (PendWrite.passed n L) x := by
  induction ps with
  | nil => exact fun _ => rfl
  | cons p ps ih =>
    intro x
    rw [List.foldl_cons, ← passed_lose h x p]
    by_cases hk : (decide ((p.lose r m).reg ≠ r) || decide ((p.lose r m).mask ≠ 0#32) || decide ((p.lose r m).absent ≠ 0#32) ||
      (p.lose r m).raises) = true
    · have e : dropLanes r m (p :: ps) = p.lose r m :: dropLanes r m ps := List.filter_cons_of_pos hk
      rw [e, List.foldl_cons, ih]
    · have e : dropLanes r m (p :: ps) = dropLanes r m ps := List.filter_cons_of_neg hk
      simp only [Bool.or_eq_true, decide_eq_true_eq, not_or, not_not] at hk
      obtain ⟨⟨⟨-, hmask⟩, -⟩, -⟩ := hk
      have hidle : (p.lose r m).passed n L x = x := by simp [PendWrite.passed, hmask]
      rw [e, hidle, ih]

/-- In a lane that is left in the group, a reader sees the same before and after a write completes whose counted beats are over. -/
theorem completeWrite_passed {g : Group} {q : PendWrite} {n : Nat} {L : Fin 32} (before after : List PendWrite) (hdue : q.left = some 0)
    (hlive : g.live.getLsbD L.val = true) :
    (dropLanes q.reg q.mask before ++ after).foldl (PendWrite.passed n L) ((g.completeWrite before q after).reg n).vals[L] =
      (before ++ q :: after).foldl (PendWrite.passed n L) (g.reg n).vals[L] := by
  rw [List.foldl_append, List.foldl_append, List.foldl_cons]
  congr 1
  by_cases hn : n = q.reg
  · subst hn
    by_cases hm : q.mask.getLsbD L.val = true
    · have hq : ∀ x, q.passed q.reg L x = q.vals[L] := fun x => if_pos ⟨rfl, hm, hdue⟩
      rw [hq, completeWrite_in g before q after hm]
      exact foldl_passed_idle (fun x hx hr => dropLanes_mem hx hr hm) _
    · rw [Bool.not_eq_true] at hm
      have hq : ∀ x, q.passed q.reg L x = x := fun x => if_neg fun c => Bool.false_ne_true (hm.symm.trans c.2.1)
      rw [hq, foldl_passed_dropLanes fun _ => hm]
      rcases completeWrite_out g before q after hm with e | ⟨hdead, -⟩
      · rw [e]
      · exact absurd (hdead.symm.trans hlive) Bool.false_ne_true
  · have hq : ∀ x, q.passed n L x = x := fun x => if_neg fun c => hn c.1.symm
    rw [hq, foldl_passed_dropLanes fun hr => absurd hr.symm hn, completeWrite_reg_ne g before q after hn]

theorem completeAll_passed (n : Nat) (L : Fin 32) : ∀ rest before g, g.live.getLsbD L.val = true →
    let h := Group.completeAll (fun p => p.left == some 0) before rest g
    h.pend.foldl (PendWrite.passed n L) (h.reg n).vals[L] = (before ++ rest).foldl (PendWrite.passed n L) (g.reg n).vals[L] := by
  intro rest
  induction rest with
  | nil => intro before g _; rw [List.append_nil]; rfl
  | cons q rest ih =>
    intro before g hlive
    rw [Group.completeAll]
    split <;> rename_i hdue
    · rw [← completeWrite_passed before rest (by simpa using hdue) hlive]
      exact ih _ _ (by simpa using hlive)
    · rw [List.append_cons before q rest]
      exact ih _ _ hlive

/-- Results whose counted beats are over go into their registers, and a reader in a lane that is left sees no change (R68). -/
theorem drainDue_read (g : Group) (n : Nat) {L : Fin 32} (hlive : g.live.getLsbD L.val = true) : (g.drainDue.read n)[L] = (g.read n)[L] := by
  rw [read_get, read_get]
  exact completeAll_passed n L g.pend [] g hlive

end Sys2Proof.Machine

namespace Sys2Proof.Machine

/-! The trap of a breakpoint and of a single step: a BRK of the whole path (R329, R330, R350). -/

theorem endRun_groups_self {s : State} {k : GKey} {g : Group} (h : kfind s.groups k = some g) :
    kfind (s.endRun k).groups k = some { g with runLen := 0 } := by
  simp [State.endRun, modGroup_found h]

theorem enterTrap_bank (g : Group) (p : Path) (npc : Word) (r : TrapReq) (m : Mode) (code detail : Nat) (addr : DWord) :
    (g.enterTrap p npc r m code detail addr).bank m =
      ⟨(g.bank m).tvec, BitVec.ofNat 32 (code + 256 * (detail % 128)), addr, r.lanes, r.tpc.getD p.pc⟩ := by
  cases m <;> simp [Group.enterTrap, Group.bank, Group.setBank]

/-- The mode that a BRK enters from each mode. -/
def Mode.handler (m : Mode) : Mode := if m = .user then .supervisor else m

theorem handler_eq_or (m : Mode) : m.handler = .supervisor ∨ m.handler = .hypervisor := by cases m <;> simp [Mode.handler]

theorem trapTarget_brk (m : Mode) : trapTarget m .brk = m.handler := by cases m <;> rfl

/-- A BRK with a place for one more trap and an aligned vector enters the handler of its mode. -/
theorem takeTrap_brk {g : Group} {p : Path} {npc : Word} {r : TrapReq} (hr : r.cause = .brk) (hopen : g.openInto g.mode.handler < 4)
    (hvec : (g.bank g.mode.handler).tvec.toNat % 4 = 0) :
    g.takeTrap p npc r = some (g.enterTrap p npc r g.mode.handler 6 r.detail r.addr) := by
  have hgood : badVector (g.bank g.mode.handler).tvec = false := by simp [badVector, hvec]
  unfold Group.takeTrap
  rw [hr, trapTarget_brk]
  rcases handler_eq_or g.mode with e | e <;> rw [e] at hopen hgood ⊢ <;> dsimp only [Group.bank] at hgood
  · simp [hgood, Nat.not_le.2 hopen, Cause.code]
  · simp [Group.enterHyper, hgood, Nat.not_le.2 hopen, Cause.code]

/-- What a BRK of the whole path does: the handler's mode and vector, the trap entry, and the bank; memory is as it was. -/
theorem trap_brk {s : State} {k : GKey} {g : Group} {p : Path} (hk : kfind s.groups k = some g) {n : Nat} (hn : n < 128)
    (hopen : g.openInto g.mode.handler < 4) (hvec : (g.bank g.mode.handler).tvec.toNat % 4 = 0) :
    ∃ h, kfind (s.trap k p p.pc { cause := .brk, lanes := p.ex, detail := n }).groups k = some h ∧ h.mode = g.mode.handler ∧
      h.cur = some { p with pc := (g.bank g.mode.handler).tvec } ∧ h.stack = g.stack ++ [⟨.trap g.mode 0#32, p.pc, p.ex, p.fmt⟩] ∧
      h.bank g.mode.handler = ⟨(g.bank g.mode.handler).tvec, BitVec.ofNat 32 (6 + 256 * n), 0#64, p.ex, p.pc⟩ ∧
      (s.trap k p p.pc { cause := .brk, lanes := p.ex, detail := n }).mem = s.mem := by
  let r : TrapReq := { cause := .brk, lanes := p.ex, detail := n }
  have htake := takeTrap_brk (g := g) (p := p) (npc := p.pc) (r := r) rfl hopen hvec
  have htrap : s.trap k p p.pc r = (s.setGroup k (g.enterTrap p p.pc r g.mode.handler 6 n 0#64)).endRun k := by
    simp only [State.trap, State.trapAlone, group_found hk, htake]
    rfl
  rw [htrap]
  refine ⟨_, endRun_groups_self (kfind_kput_self _ _ _), rfl, ?_, ?_, ?_, ?_⟩
  · cases hm : g.mode.handler <;> simp [Group.enterTrap, Group.bank, r]
  · simp [Group.enterTrap, r, Cause.isCall]
  · exact (enterTrap_bank g p p.pc r g.mode.handler 6 n 0#64).trans (by simp [r, Nat.mod_eq_of_lt hn])
  · simp [State.endRun]

end Sys2Proof.Machine

namespace Sys2Proof.Machine

/-! The steps of issue, one equation for each outcome (R19, R66 to R69, R76, R77, R350). -/

-- ## Entry into the active set and the way out of it (R67)

theorem activeSetEntry_takes {s : State} {w : GKey} {g : Group} (hw : w ∈ s.outside s.ev.core s.ev.part) (hg : kfind s.groups w = some g)
    (hroom : (s.part s.ev.core s.ev.part).active.length < 8) (h : ∀ j ∈ s.outside s.ev.core s.ev.part, s.ahead w j) :
    exec .activeSetEntry s = .next ((s.modPart s.ev.core s.ev.part fun p => { p with active := p.active ++ [w] }).setGroup w
      { g.drainFixed with runFrom := s.cycle + 4 }) := by
  have hg' : kfind (s.modPart s.ev.core s.ev.part fun p => { p with active := p.active ++ [w] }).groups w = some g := hg
  rw [exec_activeSetEntry]
  simp only [execActiveSetEntry, earliest_eq hw h, hroom, if_true, modGroup_found hg']

theorem active_modPart_setGroup (s : State) (c q : Nat) (f : Part → Part) (k : GKey) (g : Group) :
    (((s.modPart c q f).setGroup k g).part c q).active = (f (s.part c q)).active := by
  simp [State.part, State.modPart, State.setGroup]

theorem activeSetEviction_leaves {s : State} {g : Group} (hg : kfind s.groups s.ev.key = some g) (hready : s.runReady s.ev.key = false)
    (hruns : s.ev.key ∉ s.runs) {a : Nat} (ha : g.unready = some a) (hlong : a + 64 ≤ s.cycle)
    (hout : s.outside (s.coreOf s.ev.key) (partOf s.ev.key) ≠ []) :
    exec .activeSetEviction s = .next ((s.modPart (s.coreOf s.ev.key) (partOf s.ev.key) fun p =>
      { p with active := p.active.filter (· ≠ s.ev.key) }).setGroup s.ev.key { g with cached := [] }) := by
  have hlong' : s.longUnready s.ev.key = true := by simp [State.longUnready, hready, hruns, group_found hg, ha, hlong]
  have hg' : ∀ c q f, kfind (s.modPart c q f).groups s.ev.key = some g := fun _ _ _ => hg
  rw [exec_activeSetEviction]
  simp only [execActiveSetEviction, hlong', Bool.true_and, Bool.not_eq_true', List.isEmpty_eq_false_iff.2 hout, if_true, State.leaveActive,
    modGroup_found (hg' _ _ _)]

-- ## The ends of runs and quanta (R19, R76, R77)

theorem runLimit_ends {s : State} {g : Group} (hg : kfind s.groups s.ev.key = some g) (hruns : s.ev.key ∈ s.runs) (hlen : 24 ≤ g.runLen) :
    exec .runLimit s = .next (s.endRun s.ev.key) := by
  rw [exec_runLimit]
  simp [execRunLimit, hruns, group_found hg, hlen]

theorem drop_zipIdx {α : Type} (l : List α) : ∀ n k, (l.zipIdx k).drop n = (l.drop n).zipIdx (k + n) := by
  induction l with
  | nil => simp
  | cons x l ih =>
    intro n k
    cases n with
    | zero => rfl
    | succ n => simpa [Nat.add_assoc, Nat.add_comm 1] using ih n (k + 1)

theorem find?_zipIdx_eq_none {α : Type} {f : α → Bool} {l : List α} (h : ∀ x ∈ l, f x = false) (k : Nat) :
    (l.zipIdx k).find? (fun p => f p.1) = none :=
  List.find?_eq_none.2 fun p hp => by simp [h p.1 (List.fst_mem_of_mem_zipIdx hp)]

theorem oldestReady_eq_none {st : List Entry} (h : ∀ e ∈ st.drop (frameBase st), e.isReady = false) : oldestReady st = none := by
  rw [oldestReady, drop_zipIdx, find?_zipIdx_eq_none h, Option.map_none]

/-- The first ready entry of the frame is the oldest. -/
theorem oldestReady_eq_some {below above : List Entry} {e : Entry} (hbase : frameBase (below ++ e :: above) ≤ below.length) (he : e.isReady = true)
    (hbelow : ∀ x ∈ below.drop (frameBase (below ++ e :: above)), x.isReady = false) :
    oldestReady (below ++ e :: above) = some (below.length, e) := by
  rw [oldestReady, drop_zipIdx, List.drop_append_of_le_length hbase, List.zipIdx_append, List.find?_append, find?_zipIdx_eq_none hbelow]
  simp [List.zipIdx_cons, he, List.length_drop, Nat.add_sub_cancel' hbase]

theorem quantumExpiry_alone {s : State} {g : Group} {p : Path} (hg : kfind s.groups s.ev.key = some g) (hp : g.cur = some p)
    (hq : 1024 ≤ g.quantum) (h : oldestReady g.stack = none) : exec .quantumExpiry s = .next (s.setGroup s.ev.key { g with quantum := 0 }) := by
  rw [exec_quantumExpiry]
  simp [execQuantumExpiry, hg, hp, Nat.not_lt.2 hq, Group.rotate, h]

theorem quantumExpiry_rotates {s : State} {g : Group} {p : Path} {i : Nat} {e : Entry} (hg : kfind s.groups s.ev.key = some g) (hp : g.cur = some p)
    (hq : 1024 ≤ g.quantum) (h : oldestReady g.stack = some (i, e)) : exec .quantumExpiry s = .next ((s.setGroup s.ev.key
      { g with stack := g.stack.eraseIdx i ++ [⟨.path .ready, p.pc, p.ex, p.fmt⟩], cur := some e.asPath, quantum := 0 }).endRun s.ev.key) := by
  rw [exec_quantumExpiry]
  simp [execQuantumExpiry, hg, hp, Nat.not_lt.2 hq, Group.rotate, h]

-- ## Results that arrive (R68, R69)

theorem fixedLatencyWriteback_eq {s : State} {g : Group} (hg : kfind s.groups s.ev.key = some g) :
    exec .fixedLatencyWriteback s = .next (s.setGroup s.ev.key g.drainDue) := by
  rw [exec_fixedLatencyWriteback]
  rw [execFixedLatencyWriteback, modGroup_found hg]

theorem interlockedWriteComplete_eq {s : State} {g : Group} {q : PendWrite} {i : Nat} (hg : kfind s.groups s.ev.key = some g)
    (hq : (g.pend.zipIdx.filter fun p => p.1.left == none && p.1.await == none)[s.ev.n]? = some (q, i)) :
    exec .interlockedWriteComplete s = .next { s.setGroup s.ev.key (g.completeWrite (g.pend.take i) q (g.pend.drop (i + 1))) with
      stalled := s.stalled.filter (· ≠ s.ev.key) } := by
  rw [exec_interlockedWriteComplete]
  simp only [execInterlockedWriteComplete, group_found hg, hq, modGroup_found hg]

-- ## Breakpoints and single steps (R350)

/-- An aligned PC with the bit of a breakpoint that is set, and the bit taken away. -/
theorem breakpoint_pc {pc : Word} (h : pc.toNat % 4 = 0) : (pc ||| 1#32).getLsbD 0 = true ∧ (pc ||| 1#32) &&& 0xFFFFFFFC#32 = pc := by
  refine ⟨by simp, BitVec.eq_of_getLsbD_eq fun j hj => ?_⟩
  have hlow : j < 2 → pc.getLsbD j = false ∧ (0xFFFFFFFC#32).getLsbD j = false := by
    intro hj
    interval_cases j <;> simp only [BitVec.getLsbD, Nat.testBit_eq_decide_div_mod_eq, decide_eq_false_iff_not] <;> exact ⟨by omega, by decide⟩
  have hhigh : ∀ j : Fin 32, 2 ≤ j.val → (1#32).getLsbD j = false ∧ (0xFFFFFFFC#32).getLsbD j = true := by decide
  rw [BitVec.getLsbD_and, BitVec.getLsbD_or]
  by_cases hj2 : j < 2
  · obtain ⟨h0, h1⟩ := hlow hj2
    rw [h0, h1, Bool.and_false]
  · obtain ⟨h0, h1⟩ := hhigh ⟨j, hj⟩ (Nat.not_lt.1 hj2)
    simp only at h0 h1
    rw [h0, h1, Bool.or_false, Bool.and_true]

/-- The breakpoint of lowest number that matches the PC of a user path without an exemption. -/
theorem breakpointAt_eq {s : State} {k : GKey} {g : Group} {p : Path} {i : Nat} (hi : i < 4) (hmode : g.mode = .user) (hex : g.exempt ≠ some p.pc)
    (hbp : (kfind (s.team k.tkey).bps i).getD 0#32 = p.pc ||| 1#32) (halign : p.pc.toNat % 4 = 0)
    (hfirst : ∀ j < i, ¬ (((kfind (s.team k.tkey).bps j).getD 0#32).getLsbD 0 = true ∧
      (kfind (s.team k.tkey).bps j).getD 0#32 &&& 0xFFFFFFFC#32 = p.pc)) :
    s.breakpointAt k g p = some i := by
  obtain ⟨hset, hpc⟩ := breakpoint_pc halign
  rw [State.breakpointAt, if_pos (by simp [hmode, hex]), List.find?_range_eq_some]
  refine ⟨?_, List.mem_range.2 hi, fun j hj => ?_⟩
  · simp only [hbp, hset, hpc, beq_self_eq_true, Bool.and_self]
  · have hne := hfirst j hj
    simpa only [Bool.not_eq_true', Bool.eq_false_iff, ne_eq, Bool.and_eq_true, beq_iff_eq] using hne

theorem breakpointTrap_eq {s : State} {g : Group} {p : Path} {i : Nat} (hg : kfind s.groups s.ev.key = some g) (hp : g.cur = some p)
    (hbp : s.breakpointAt s.ev.key g p = some i) :
    exec .breakpointTrap s = .next (s.trap s.ev.key p p.pc { cause := .brk, lanes := p.ex, detail := 1 + i }) := by
  rw [exec_breakpointTrap]
  simp only [execBreakpointTrap, hg, hp, hbp]

theorem singleStepTrap_waits {s : State} {g : Group} (hg : kfind s.groups s.ev.key = some g) (hp : g.cur = none) :
    exec .singleStepTrap s = .next (s.setGroup s.ev.key { g with stepDue := true }) := by
  rw [exec_singleStepTrap]
  simp only [execSingleStepTrap, hg, hp, modGroup_found hg]

theorem singleStepTrap_eq {s : State} {g : Group} {p : Path} (hg : kfind s.groups s.ev.key = some g) (hp : g.cur = some p) :
    exec .singleStepTrap s = .next ((s.setGroup s.ev.key { g with stepDue := false }).trap s.ev.key p p.pc
      { cause := .brk, lanes := p.ex, detail := 0x10 }) := by
  rw [exec_singleStepTrap]
  simp only [execSingleStepTrap, hg, hp, modGroup_found hg]

end Sys2Proof.Machine

namespace Sys2Proof.Machine

/-- Settles O50, one lemma a clause: who is ahead of all the others takes the rod pair or the free place, results that arrive keep what a reader sees in
the lanes that are left, a rotation takes the oldest ready path, and a BRK enters the handler of its mode. -/
theorem issueSteps : Obligations.IssueSteps := by
  intro s k c active set out first
  refine ⟨?_, ?_, ?_, ?_⟩
  · rintro (hfull | hidle)
    · exact issueArbitration_full (decide_eq_false (Nat.not_lt.2 hfull))
    · exact issueArbitration_idle hidle
  · intro w hw hc he hfree h
    exact issueArbitration_takes hw hc he (decide_eq_true hfree) h
  · intro w g hw hg h hroom
    exact ⟨_, _, activeSetEntry_takes (mem_outside_iff.2 hw) hg hroom fun j hj => h j (mem_outside_iff.1 hj), active_modPart_setGroup s _ _ _ w _,
      kfind_kput_self _ _ _, rfl, drainFixed_cur g, rfl, drainFixed_pend g⟩
  intro g hg
  refine ⟨?_, ?_, ?_, ?_, ?_, ?_⟩
  · intro hruns hlen
    refine ⟨_, runLimit_ends hg hruns hlen, endRun_groups_self hg, rfl, ?_⟩
    simp [State.endRun]
  · rintro hready hruns ⟨a, ha, hlong⟩ ⟨j, hj⟩
    have hout : s.outside (s.coreOf s.ev.key) (partOf s.ev.key) ≠ [] := List.ne_nil_of_mem (mem_outside_iff.2 hj)
    exact ⟨_, activeSetEviction_leaves hg hready hruns ha hlong hout, active_modPart_setGroup s _ _ _ k _, kfind_kput_self _ _ _, rfl⟩
  · exact ⟨_, _, fixedLatencyWriteback_eq hg, kfind_kput_self _ _ _, drainDue_pend g, fun n L hlive => drainDue_read g n hlive, drainDue_cur g, rfl⟩
  · intro q i hq
    refine ⟨_, _, interlockedWriteComplete_eq hg hq, kfind_kput_self _ _ _, by simp [k], completeWrite_pend _ _ _ _, completeWrite_nrm _ _ _ _,
      completeWrite_cur _ _ _ _, fun n hn => completeWrite_reg_ne _ _ _ _ hn, fun L => ⟨?_, ?_⟩⟩
    · rw [completeWrite_aflags, Group.orFlags, lanesOf_get]
    · split <;> rename_i hm
      · exact completeWrite_in _ _ _ _ hm
      · exact completeWrite_out _ _ _ _ (Bool.eq_false_iff.2 hm)
  · exact singleStepTrap_waits hg
  intro p hp
  refine ⟨?_, ?_, ?_, ?_⟩
  · exact fun hq hnone => quantumExpiry_alone hg hp hq (oldestReady_eq_none hnone)
  · intro below e above hq hst hbase he hbelow
    have hold : oldestReady g.stack = some (below.length, e) := by
      rw [hst] at hbase hbelow ⊢
      exact oldestReady_eq_some hbase he hbelow
    refine ⟨_, _, quantumExpiry_rotates hg hp hq hold, endRun_groups_self (kfind_kput_self _ _ _), rfl, ?_, rfl, rfl, by simp [k, State.endRun]⟩
    simp [hst, List.eraseIdx_append_of_length_le]
  · intro i hi hmode hex hbp halign hfirst hopen hvec
    obtain ⟨h, hk⟩ := trap_brk hg (n := 1 + i) (by omega) hopen hvec
    exact ⟨_, h, breakpointTrap_eq hg hp (breakpointAt_eq hi hmode hex hbp halign hfirst), hk⟩
  · intro hopen hvec
    obtain ⟨h, hk⟩ := trap_brk (s := s.setGroup k { g with stepDue := false }) (p := p) (kfind_kput_self _ _ _) (n := 0x10) (by omega) hopen hvec
    exact ⟨_, h, singleStepTrap_eq hg hp, hk⟩

end Sys2Proof.Machine

namespace Sys2Proof.Machine

/-! The values of FP32 encodings, their order, and the special functions' cases (R41, R61, R62). -/

-- ## Values of FP32 encodings (R41)

/-- The significand of the finite FP32 encoding whose bits [30:0] are `m`. -/
def mag32 (m : Nat) : Nat := if m < 2 ^ 23 then m else 2 ^ 23 + m % 2 ^ 23
/-- Its place above the least exponent, −149. -/
def place32 (m : Nat) : Nat := m / 2 ^ 23 - 1
/-- Its magnitude in units of 2^−256. -/
def units32 (m : Nat) : Nat := mag32 m * 2 ^ (place32 m + 107)

theorem sign_eq_msb (a : Word) : (a.toNat / 2 ^ 31 % 2 == 1) = a.msb := by
  rw [BitVec.msb_eq_decide, Bool.eq_iff_iff, beq_iff_eq, decide_eq_true_iff]
  omega

theorem f32_eq (a : Word) : f32 a =
    if a.toNat / 2 ^ 23 % 2 ^ 8 = 255 then
      if a.toNat % 2 ^ 23 = 0 then .inf a.msb else .nan (decide (a.toNat % 2 ^ 23 < 2 ^ 22))
    else if a.toNat / 2 ^ 23 % 2 ^ 8 = 0 then .num a.msb (a.toNat % 2 ^ 23) (-149)
    else .num a.msb (2 ^ 23 + a.toNat % 2 ^ 23) ((a.toNat / 2 ^ 23 % 2 ^ 8 : Nat) - 127 - 23) := by
  rw [← sign_eq_msb]
  rfl

theorem f32_of_lt {a : Word} (h : a.toNat % 2 ^ 31 < 0x7F800000) :
    f32 a = .num a.msb (mag32 (a.toNat % 2 ^ 31)) ((place32 (a.toNat % 2 ^ 31) : Int) - 149) := by
  rw [f32_eq, if_neg (by omega)]
  unfold mag32 place32
  by_cases hsmall : a.toNat % 2 ^ 31 < 2 ^ 23
  · rw [if_pos (by omega), if_pos hsmall]
    congr 1 <;> omega
  · rw [if_neg (by omega), if_neg hsmall]
    congr 1 <;> omega

theorem f32_of_eq {a : Word} (h : a.toNat % 2 ^ 31 = 0x7F800000) : f32 a = .inf a.msb := by
  rw [f32_eq, if_pos (by omega), if_pos (by omega)]

theorem f32_of_isNan {a : Word} (h : (f32 a).isNan = true) : f32 a = .nan (f32 a).isSig := by
  generalize f32 a = x at h ⊢
  cases x with
  | nan sig => rfl
  | inf neg | num neg mag exp => exact nomatch h

theorem mag32_pos {m : Nat} (h : 0 < m) : 0 < mag32 m := by
  unfold mag32
  split <;> omega

/-- The order of the encodings is that of the magnitudes. -/
theorem units32_strictMono : StrictMono units32 := by
  refine strictMono_nat_of_lt_succ fun m => ?_
  unfold units32
  obtain hsame | ⟨hnext, hmag, hmag'⟩ : (place32 (m + 1) = place32 m ∧ mag32 m < mag32 (m + 1)) ∨
      (place32 (m + 1) = place32 m + 1 ∧ mag32 m < 2 ^ 23 * 2 ∧ mag32 (m + 1) = 2 ^ 23) := by
    unfold place32 mag32
    split <;> split <;> omega
  · rw [hsame.1]
    exact Nat.mul_lt_mul_of_pos_right hsame.2 (Nat.two_pow_pos _)
  · rw [hnext, hmag', Nat.add_right_comm, pow_succ' 2 (place32 m + 107), ← Nat.mul_assoc]
    exact Nat.mul_lt_mul_of_pos_right hmag (Nat.two_pow_pos _)

-- ## Values within a bound (R61)

theorem keyWord_magnitude {k : Int} (h : k.natAbs < 2 ^ 31) : (keyWord k).toNat % 2 ^ 31 = k.natAbs := by
  unfold keyWord
  split <;> rw [BitVec.toNat_ofNat] <;> omega

theorem sfuCandidates_magnitude {bound top : Nat} {lo hi : Int} (htop : top < 2 ^ 31) {w : Word} (h : w ∈ sfuCandidates bound lo hi top) :
    w.toNat % 2 ^ 31 ≤ top := by
  simp only [sfuCandidates, List.mem_append, List.mem_map, List.mem_filter, Bool.and_eq_true, decide_eq_true_eq, List.mem_ite_nil_right,
    List.mem_singleton] at h
  rcases h with ⟨k, ⟨-, ⟨hk, -⟩, -⟩, rfl⟩ | ⟨-, rfl⟩
  · rwa [keyWord_magnitude (by omega)]
  · exact Nat.zero_le _

/-- A value within the bound has a magnitude code of at most `top`. -/
theorem sfuResult_magnitude (code : Nat) (x : Word) (bound : Nat) (lo hi : Int) {top : Nat} (htop : top < 2 ^ 31) :
    (sfuResult code x bound lo hi top).toNat % 2 ^ 31 ≤ top := by
  unfold sfuResult
  dsimp only
  rw [List.getD_eq_getElem?_getD]
  cases hw : (sfuCandidates bound lo hi top)[Config.sfuPick code x % (sfuCandidates bound lo hi top).length]? with
  | none => exact Nat.zero_le _
  | some w => exact sfuCandidates_magnitude htop (List.mem_of_getElem? hw)

-- ## NaN and negative operands (R62)

theorem sfu_of_nan {a : Word} {sig : Bool} (h : f32 a = .nan sig) :
    ∀ f ∈ [frcp, frsq, fsqrt, fex2, flg2, sinCos 0x0C, sinCos 0x0D], f a = (0x7FC00000#32, if sig then flagNV else 0#5) := by
  simp only [List.forall_mem_cons, List.not_mem_nil, false_imp_iff, implies_true, and_true, frcp, frsq, fsqrt, fex2, flg2, sinCos, h]
  exact ⟨rfl, rfl, rfl, rfl, rfl, rfl, rfl⟩

/-- A negative operand, −∞ among them, of a function that has no value there. -/
theorem sfu_of_neg {a : Word} (hneg : a.msb = true) (hpos : 0 < a.toNat % 2 ^ 31) (h : a.toNat % 2 ^ 31 ≤ 0x7F800000) :
    ∀ f ∈ [frsq, fsqrt, flg2], f a = (0x7FC00000#32, flagNV) := by
  rcases Nat.lt_or_eq_of_le h with hlt | heq
  · have hmag := Nat.pos_iff_ne_zero.1 (mag32_pos hpos)
    simp only [List.forall_mem_cons, List.not_mem_nil, false_imp_iff, implies_true, and_true, frsq, fsqrt, flg2, f32_of_lt hlt, hneg, hmag, if_true,
      if_false]
    exact ⟨rfl, rfl, rfl⟩
  · simp only [List.forall_mem_cons, List.not_mem_nil, false_imp_iff, implies_true, and_true, frsq, fsqrt, flg2, f32_of_eq heq, hneg, if_true]
    exact ⟨rfl, rfl, rfl⟩

-- ## FRCP

/-- An operand whose reciprocal is beyond the largest finite value. -/
theorem frcp_overflow {a : Word} (hpos : 0 < a.toNat % 2 ^ 31) (h : a.toNat % 2 ^ 31 ≤ 2 ^ 21) : frcp a = (inf32 a.msb, flagOF) := by
  have hmag : mag32 (a.toNat % 2 ^ 31) = a.toNat % 2 ^ 31 := if_pos (by omega)
  have hplace : place32 (a.toNat % 2 ^ 31) = 0 := by unfold place32; omega
  simp only [frcp, f32_of_lt (show a.toNat % 2 ^ 31 < 0x7F800000 by omega), hmag, hplace]
  rw [if_neg (by omega), if_pos (by rw [decide_eq_true h]; rfl)]

/-- The operands above 2^21 units are those that do not overflow, and those above 2^126 have a zero or a subnormal for a reciprocal. -/
theorem frcp_finite {a : Word} (hpos : 2 ^ 21 < a.toNat % 2 ^ 31) (h : a.toNat % 2 ^ 31 < 0x7F800000) : ∃ lo hi,
    frcp a = if 0x7E800000 < a.toNat % 2 ^ 31 then (sfuResult 0x07 a 1 lo hi 0x007FFFFF, flagUF) else (sfuResult 0x07 a 1 lo hi, 0#5) := by
  have hmag := Nat.pos_iff_ne_zero.1 (mag32_pos (show 0 < a.toNat % 2 ^ 31 by omega))
  have hover : ¬ ((place32 (a.toNat % 2 ^ 31) : Int) - 149 = -149 && decide (mag32 (a.toNat % 2 ^ 31) ≤ 2 ^ 21)) = true := by
    simp only [Bool.and_eq_true, decide_eq_true_eq]
    unfold place32 mag32
    split <;> omega
  have hunder : ((((place32 (a.toNat % 2 ^ 31) : Int) - 149 = 103 && mag32 (a.toNat % 2 ^ 31) ≠ 2 ^ 23) ||
      (place32 (a.toNat % 2 ^ 31) : Int) - 149 = 104) = true) = (0x7E800000 < a.toNat % 2 ^ 31) := by
    simp only [Bool.or_eq_true, Bool.and_eq_true, decide_eq_true_eq, eq_iff_iff]
    unfold place32 mag32
    split <;> omega
  simp only [frcp, f32_of_lt h, if_neg hmag, if_neg hover, hunder]
  exact ⟨_, _, rfl⟩

-- ## Functions of positive numbers

theorem frsq_flags {a : Word} (hsign : a.msb = false) (hpos : 0 < a.toNat % 2 ^ 31) (h : a.toNat % 2 ^ 31 < 0x7F800000) : (frsq a).2 = 0#5 := by
  have hmag := Nat.pos_iff_ne_zero.1 (mag32_pos hpos)
  simp only [frsq, f32_of_lt h, hmag, hsign, if_false, Bool.false_eq_true]

theorem flg2_flags {a : Word} (hsign : a.msb = false) (hpos : 0 < a.toNat % 2 ^ 31) (h : a.toNat % 2 ^ 31 < 0x7F800000) : (flg2 a).2 = 0#5 := by
  have hmag := Nat.pos_iff_ne_zero.1 (mag32_pos hpos)
  simp only [flg2, f32_of_lt h, hmag, hsign, if_false, Bool.false_eq_true]
  split <;> rfl

-- ## FSQRT

/-- What is left to fix of a root lies below 2^n. -/
theorem isqrtFrom_spec (M n r : Nat) (hlo : r * r ≤ M) (hhi : M < (r + 2 ^ n) * (r + 2 ^ n)) :
    isqrtFrom M n r * isqrtFrom M n r ≤ M ∧ M < (isqrtFrom M n r + 1) * (isqrtFrom M n r + 1) := by
  induction n generalizing r with
  | zero => exact ⟨hlo, hhi⟩
  | succ n ih =>
    rw [pow_succ, Nat.mul_two, ← Nat.add_assoc] at hhi
    unfold isqrtFrom
    split
    · exact ih _ ‹_› hhi
    · exact ih _ hlo (Nat.lt_of_not_le ‹_›)

theorem isqrt_spec (M : Nat) : isqrt M * isqrt M ≤ M ∧ M < (isqrt M + 1) * (isqrt M + 1) := by
  refine isqrtFrom_spec M _ 0 (Nat.zero_le M) ?_
  rw [Nat.zero_add, ← pow_add]
  exact Nat.lt_log2_self.trans_le (Nat.pow_le_pow_right (by decide) (by omega))

theorem le_isqrt {M r : Nat} (h : r * r ≤ M) : r ≤ isqrt M := by
  have hhi := (isqrt_spec M).2
  by_contra hlt
  exact absurd (Nat.mul_self_le_mul_self (show isqrt M + 1 ≤ r by omega)) (by omega)

/-- The integer root that FSQRT takes, at a scale that makes the exponent even, is the root of the operand in a binary unit. -/
theorem fsqrt_of_pos {a : Word} (hsign : a.msb = false) (hpos : 0 < a.toNat % 2 ^ 31) (h : a.toNat % 2 ^ 31 < 0x7F800000) :
    ∃ (mag : Nat) (exp : Int) (M : Nat) (j : Int), f32 a = .num false mag exp ∧ 2 ^ 24 ≤ M ∧ 2 * j ≤ exp ∧
      M * M ≤ mag * 2 ^ (exp - 2 * j).toNat ∧ mag * 2 ^ (exp - 2 * j).toNat < (M + 1) * (M + 1) ∧
      fsqrt a = toF32 (.num false (2 * M + if M * M = mag * 2 ^ (exp - 2 * j).toNat then 0 else 1) (j - 1)) := by
  have hf := hsign ▸ f32_of_lt h
  have hmag := mag32_pos hpos
  generalize mag32 (a.toNat % 2 ^ 31) = mag at hf hmag
  generalize (place32 (a.toNat % 2 ^ 31) : Int) - 149 = exp at hf
  obtain ⟨sh, hsh, hlarge⟩ : ∃ sh : Nat, (if exp % 2 = 0 then 80 else 81) = sh ∧ 80 ≤ sh := ⟨_, rfl, by split <;> decide⟩
  have heven : (exp - 2 * ((exp - sh) / 2)).toNat = sh ∧ 2 * ((exp - sh) / 2) ≤ exp := by
    split at hsh <;> omega
  obtain ⟨hlo, hhi⟩ := isqrt_spec (mag * 2 ^ sh)
  have hroot : 2 ^ 24 ≤ isqrt (mag * 2 ^ sh) := le_isqrt <| calc
    2 ^ 24 * 2 ^ 24 ≤ 1 * 2 ^ 80 := by decide
    _ ≤ mag * 2 ^ sh := Nat.mul_le_mul hmag (Nat.pow_le_pow_right (by decide) hlarge)
  refine ⟨mag, exp, isqrt (mag * 2 ^ sh), (exp - sh) / 2, hf, hroot, heven.2, ?_⟩
  rw [heven.1]
  refine ⟨hlo, hhi, ?_⟩
  simp only [fsqrt, hf, if_neg (Nat.pos_iff_ne_zero.1 hmag), Bool.false_eq_true, if_false, hsh]

-- ## FEX2

/-- A finite operand in units of 2^−256. -/
theorem units_of_num (neg : Bool) (m : Nat) : (FVal.num neg (mag32 m) ((place32 m : Int) - 149)).units (-(sfuBits : Int)) =
    (if neg then -1 else 1) * (units32 m : Int) := by
  have hexp : ((place32 m : Int) - 149 - -(sfuBits : Int)).toNat = place32 m + 107 := by unfold sfuBits; omega
  rw [FVal.units, hexp, units32]

/-- The encoding of 128, and of −149 but for its sign. -/
theorem units32_overflow : units32 0x43000000 = 128 * 2 ^ 256 := by decide
theorem units32_underflow : units32 0x43150000 = 149 * 2 ^ 256 := by decide

theorem fex2_overflow {a : Word} (hsign : a.msb = false) (hlarge : 0x43000000 ≤ a.toNat % 2 ^ 31) (h : a.toNat % 2 ^ 31 < 0x7F800000) :
    fex2 a = (inf32 false, flagOF) := by
  have hunits : 128 * 2 ^ 256 ≤ units32 (a.toNat % 2 ^ 31) := units32_overflow.ge.trans (units32_strictMono.monotone hlarge)
  simp only [fex2, f32_of_lt h, units_of_num, hsign, Bool.false_eq_true, if_false, one_mul]
  rw [if_pos (by unfold sfuBits; omega)]

theorem fex2_underflow {a : Word} (hsign : a.msb = true) (hlarge : 0x43150000 < a.toNat % 2 ^ 31) (h : a.toNat % 2 ^ 31 < 0x7F800000) :
    fex2 a = (0#32, flagUF) := by
  have hunits : 149 * 2 ^ 256 < units32 (a.toNat % 2 ^ 31) := units32_underflow.ge.trans_lt (units32_strictMono hlarge)
  simp only [fex2, f32_of_lt h, units_of_num, hsign, if_true]
  rw [if_neg (by unfold sfuBits; omega), if_pos (by unfold sfuBits; omega)]
  rfl

/-- From −149 to below 128 the result is a value within the bound. -/
theorem fex2_finite {a : Word} (h : if a.msb then a.toNat % 2 ^ 31 ≤ 0x43150000 else a.toNat % 2 ^ 31 < 0x43000000) :
    ∃ lo hi, fex2 a = (sfuResult 0x0A a 2 lo hi, ufOf (sfuResult 0x0A a 2 lo hi)) := by
  have hfinite : a.toNat % 2 ^ 31 < 0x7F800000 := by split at h <;> omega
  have hrange : ¬ 128 * ((2 ^ sfuBits : Nat) : Int) ≤ (if a.msb then -1 else 1) * (units32 (a.toNat % 2 ^ 31) : Int) ∧
      ¬ (if a.msb then -1 else 1) * (units32 (a.toNat % 2 ^ 31) : Int) < -149 * ((2 ^ sfuBits : Nat) : Int) := by
    unfold sfuBits
    split at h
    · have hunits : units32 (a.toNat % 2 ^ 31) ≤ 149 * 2 ^ 256 := (units32_strictMono.monotone h).trans units32_underflow.le
      rw [if_pos ‹_›]
      omega
    · have hunits : units32 (a.toNat % 2 ^ 31) < 128 * 2 ^ 256 := (units32_strictMono h).trans_le units32_overflow.le
      rw [if_neg ‹_›]
      omega
  simp only [fex2, f32_of_lt hfinite, units_of_num, if_neg hrange.1, if_neg hrange.2]
  exact ⟨_, _, rfl⟩

-- ## FSIN and FCOS

/-- FSIN and FCOS have no value for the operands beyond 2^21 π in magnitude, those whose encoding is above 0x4AC90FDA. -/
theorem sinCos_of_pos {a : Word} (code : Nat) (hpos : 0 < a.toNat % 2 ^ 31) (h : a.toNat % 2 ^ 31 < 0x7F800000) : ∃ r,
    sinCos code a = if 0x4AC90FDA < a.toNat % 2 ^ 31 then (canonical32, flagNV) else (r, 0#5) := by
  have hmag := Nat.pos_iff_ne_zero.1 (mag32_pos hpos)
  have hexp : ((place32 (a.toNat % 2 ^ 31) : Int) - 149 + sfuBits).toNat = place32 (a.toNat % 2 ^ 31) + 107 := by unfold sfuBits; omega
  have hbound : 2 ^ 22 * halfPi < mag32 (a.toNat % 2 ^ 31) * 2 ^ (place32 (a.toNat % 2 ^ 31) + 107) ↔ 0x4AC90FDA < a.toNat % 2 ^ 31 := by
    have hbelow : units32 0x4AC90FDA ≤ 2 ^ 22 * halfPi := by decide
    have habove : 2 ^ 22 * halfPi < units32 0x4AC90FDB := by decide
    refine ⟨fun hlt => ?_, fun hlt => habove.trans_le (units32_strictMono.monotone hlt)⟩
    exact units32_strictMono.lt_iff_lt.1 (hbelow.trans_lt hlt)
  simp only [sinCos, f32_of_lt h, if_neg hmag, hexp, hbound]
  exact ⟨_, rfl⟩

/-- Settles O8, one lemma a row of R62's table: the encodings are ordered as their magnitudes, so each threshold is one encoding, and FSQRT's integer
root is the root of the operand in a binary unit. -/
theorem specialFunctionResults : Obligations.SpecialFunctionResults := by
  refine ⟨fun neg => ?_, rfl, rfl, rfl, rfl, rfl, fun a ha => sfu_of_nan (f32_of_isNan ha), fun a => ?_⟩
  · cases neg <;> exact ⟨rfl, rfl, rfl, rfl, rfl, rfl, rfl, rfl, rfl⟩
  refine ⟨sfu_of_neg, frcp_overflow, ?_, ?_, fun hsign hpos h => ⟨frsq_flags hsign hpos h, flg2_flags hsign hpos h⟩, fex2_overflow, fex2_underflow,
    ?_, fsqrt_of_pos, ?_, ?_⟩
  · intro hpos h
    obtain ⟨lo, hi, e⟩ := frcp_finite hpos (by omega)
    rw [e, if_neg (by omega)]
  · intro hlarge h
    obtain ⟨lo, hi, e⟩ := frcp_finite (by omega) h
    rw [e, if_pos hlarge]
    exact ⟨Nat.lt_succ_of_le (sfuResult_magnitude _ _ _ _ _ (by decide)), rfl⟩
  · intro h
    obtain ⟨lo, hi, e⟩ := fex2_finite h
    rw [e]
    refine ⟨sfuResult_magnitude _ _ _ _ _ (by decide), ?_⟩
    simp only [ufOf, flagIf, decide_eq_true_eq]
  · intro hpos h
    obtain ⟨sin, hsin⟩ := sinCos_of_pos 0x0C hpos (by omega)
    obtain ⟨cos, hcos⟩ := sinCos_of_pos 0x0D hpos (by omega)
    rw [hsin, hcos, if_neg (by omega), if_neg (by omega)]
    exact ⟨rfl, rfl⟩
  · intro hlarge h
    obtain ⟨sin, hsin⟩ := sinCos_of_pos 0x0C (by omega) h
    obtain ⟨cos, hcos⟩ := sinCos_of_pos 0x0D (by omega) h
    rw [hsin, hcos, if_pos hlarge, if_pos hlarge]
    exact ⟨rfl, rfl⟩

end Sys2Proof.Machine

namespace Sys2Proof.Machine

/-! Instructions whose effect lies outside the registers of their group: what they leave, in the terms of `Becomes` (R32, R64 to R70). -/

/-- An instruction that does not issue and records its arrival. -/
theorem issue_await {form : View → Form} {body : View → Res} {s : State} {k : GKey} {g : Group} {p : Path} (hi : Issuing s k g p)
    (f : Form) (hf : form ⟨s, k, g, p, p.pc + 4#32⟩ = f) (hw : g.waits (f.reads.map (g.wbasev + ·)) p.ex = false) (a : State → State)
    (hc : (s.view k g p f.pfx).checked f body = .await a) : issue form body s = .next (a (s.holdIssue k [])) := by
  simp only [issue, hi.focus, hi.found, hi.path, hf, hw, Bool.false_and, Bool.false_eq_true, if_false]
  simp only [State.view] at hc
  simp only [hc]

/-- An instruction whose registers are in order, and whose effect is that of `s'` on the rest of the machine, some writes on their way, and the flags
`fl`. -/
theorem issue_becomes {form : View → Form} {body : View → Res} {s s' s2 : State} {k : GKey} {g : Group} {p : Path} (hi : Issuing s k g p)
    (f : Form) (hf : form ⟨s, k, g, p, p.pc + 4#32⟩ = f) (hr : Ready s k g p f.names f.reads) (hill : f.illegal = false)
    (hpriv : f.priv = false) (hlate : f.late = []) (hu : Uniform g p f.unif) (hch : f.check = true → NoPosted g) {new : List PendWrite}
    {fl : Lanes (BitVec 5)} (hb : body (s.view k g p f.pfx) = .ok s2)
    (h2 : kfind s2.groups k = some { g.counted s.issued with pend := g.pend ++ new, aflags := fl })
    (hoth : ∀ j, j ≠ k → kfind s2.groups j = kfind s'.groups j) (hrest : s2.rest = s'.rest) (hw : s'.slotW = s.slotW) :
    ∃ t h, issue form body s = .next t ∧ Becomes s' t k { g.onWith p f.pfx new with aflags := fl } h := by
  have hw2 : s2.slotW = s.slotW := (congrArg State.slotW hrest).trans hw
  obtain ⟨t, ht, hrest', hoth', r, x, hk⟩ := issue_effect hi f hf hr hill hpriv hlate hu hch hb h2 hw2
  refine ⟨t, _, ht, hk, hrest'.trans hrest, fun j hj => (hoth' j hj).trans (hoth j hj), rfl, rfl, rfl, rfl, ?_⟩
  rw [hw]
  rfl

/-- A write that an instruction sends on its way, after changes of the machine that leave the groups alone. -/
theorem writeLater_groups {s s1 : State} {k : GKey} {g : Group} {p : Path} (x : Pfx) (hg : s1.groups = (s.view k g p x).s.groups) (q : PendWrite) :
    kfind (s1.modGroup k fun g => g.writeLater q).groups k = some { g.counted s.issued with pend := g.pend ++ [q], aflags := g.aflags } ∧
      ∀ j, j ≠ k → kfind (s1.modGroup k fun g => g.writeLater q).groups j = kfind s.groups j := by
  have hk : kfind s1.groups k = some (g.counted s.issued) := hg ▸ view_found x
  refine ⟨?_, fun j hj => ?_⟩
  · rw [modGroup_found hk]
    exact kfind_kput_self _ _ _
  · rw [modGroup_others _ hj, hg]
    exact view_others x hj

theorem modTeam_found {s : State} {u : TKey} {y : Team} (h : kfind s.teams u = some y) (f : Team → Team) : s.modTeam u f = s.setTeam u (f y) := by
  simp [State.modTeam, h]

theorem team_found {s : State} {u : TKey} {y : Team} (h : kfind s.teams u = some y) : s.team u = y := by simp [State.team, h]

theorem modTile_found {s : State} {u : TKey} {y : Team} (hy : kfind s.teams u = some y) (w : Word) (f : Tile → Tile) :
    s.modTile u w f = s.setTeam u { y with tiles := kput y.tiles (tileSlot w) (f (y.tile w)) } := modTeam_found hy _

theorem setTeam_rest (s : State) (u : TKey) (y : Team) : (s.setTeam u y).rest = s.rest.setTeam u y := rfl

-- ## ACC ALLOC (R197)

/-- The slots that an ALLOC fills hold cleared tiles of the next generation, and the others what they held. -/
theorem kfind_fillTiles (y : Team) (b n i : Nat) : kfind (y.fillTiles b n).tiles i =
    if b ≤ i ∧ i < b + n then some { alloc := true, gen := y.allocN + 1#8 } else kfind y.tiles i := by
  unfold Team.fillTiles
  induction n with
  | zero => simp [show ¬ (b ≤ i ∧ i < b) by omega]
  | succ n ih =>
    simp only [List.range_succ, List.foldl_append, List.foldl_cons, List.foldl_nil, kfind_kput] at ih ⊢
    rw [ih]
    by_cases hnew : i = b + n
    · rw [if_pos hnew, if_pos (by omega)]
    · simp only [if_neg hnew, show (b ≤ i ∧ i < b + (n + 1)) = (b ≤ i ∧ i < b + n) from propext (by omega)]

theorem freeRun_lt {y : Team} {n b : Nat} (hn : 1 ≤ n) (h : y.freeRun n = some b) : b < 32 := by
  have := List.mem_range.1 (List.mem_of_find?_eq_some h)
  omega

/-- The handle of slot `b` with generation `gen`: its fields do not overlap (R196). -/
theorem handle_eq (gen : BitVec 8) {b : Nat} (hb : b < 32) :
    0x80000000#32 ||| (gen.setWidth 32 <<< 8) ||| BitVec.ofNat 32 b = BitVec.ofNat 32 (2 ^ 31 + 2 ^ 8 * gen.toNat + b) := by
  have hgen := gen.isLt
  apply BitVec.eq_of_toNat_eq
  rw [BitVec.toNat_or, BitVec.toNat_or, BitVec.toNat_shiftLeft, BitVec.toNat_setWidth, BitVec.toNat_ofNat, BitVec.toNat_ofNat, BitVec.toNat_ofNat,
    Nat.shiftLeft_eq, Nat.mod_eq_of_lt (show gen.toNat < 2 ^ 32 by omega), Nat.mod_eq_of_lt (show gen.toNat * 2 ^ 8 < 2 ^ 32 by omega),
    Nat.mod_eq_of_lt (show b < 2 ^ 32 by omega), Nat.mod_eq_of_lt (show 2 ^ 31 + 2 ^ 8 * gen.toNat + b < 2 ^ 32 by omega), Nat.or_assoc,
    Nat.mul_comm gen.toNat, ← Nat.two_pow_add_eq_or_of_lt (show b < 2 ^ 8 by omega), Nat.add_assoc]
  exact (Nat.two_pow_add_eq_or_of_lt (i := 31) (show 2 ^ 8 * gen.toNat + b < 2 ^ 31 by omega) 1).symm

/-- What an ALLOC of `n` tiles does whose group has none waiting, in the team `y`: the first of its checks that decides. -/
def View.allocNew (v : View) (y : Team) (d n : Nat) : Res :=
  if n = 0 ∨ 16 < n then .ok (v.wrLaterAll v.s d 4#32)
  else if y.freeRun n = none then .ok (v.wrLaterAll v.s d 2#32)
  else if (v.s.record v.k.tkey).tiles - min y.held (v.s.record v.k.tkey).tiles + v.s.spareCap v.core < n then .ok (v.wrLaterAll v.s d 3#32)
  else if (v.s.core v.core).waiting = [] ∧ v.s.tilesFit v.k.tkey n = true then v.grantTiles d n
  else if y.held ≠ 0 then .ok (v.wrLaterAll v.s d 1#32)
  else .await fun s => s.modCore v.core fun c => { c with allocQ := c.allocQ ++ [(v.k, n)] }

theorem checked_congr {v : View} {f : Form} {body body' : View → Res} (h : body v = body' v) : v.checked f body = v.checked f body' := by
  simp only [View.checked, h]

/-- What an instruction answers depends on its effect in the state in which it is counted alone. -/
theorem issue_congr {form : View → Form} {body body' : View → Res} {s : State} {k : GKey} {g : Group} {p : Path} (hi : Issuing s k g p)
    (f : Form) (hf : form ⟨s, k, g, p, p.pc + 4#32⟩ = f) (h : body (s.view k g p f.pfx) = body' (s.view k g p f.pfx)) :
    issue form body s = issue form body' s := by
  have hc := checked_congr (f := f) h
  simp only [State.view] at hc
  simp only [issue, hi.focus, hi.found, hi.path, hf, hc]

/-- What an ALLOC demands. -/
def allocForm (x : Pfx) (d a : Reg) : Form := { pfx := x, names := [d.toNat, a.toNat], reads := [a.toNat], oneBeat := true }

section
variable {s : State} {k : GKey} {g : Group} {p : Path} {x : Pfx} {d a : Reg} {y : Team}

theorem accAlloc_eq (hi : Issuing s k g p) (hy : kfind s.teams k.tkey = some y) (hq : ∀ e ∈ (s.core (s.coreOf k)).allocQ, e.1 ≠ k) :
    exec (.accAlloc x d a) s = issue (fun _ => allocForm x d a) (fun v => v.allocNew y d.toNat (v.rd a.toNat)[v.f].toNat) s := by
  have hteam : (s.view k g p x).team = y := team_found hy
  have hnone : ((s.view k g p x).s.core (s.view k g p x).core).allocQ.find? (fun e => e.1 = (s.view k g p x).k) = none :=
    List.find?_eq_none.2 fun e he h => hq e he (of_decide_eq_true h)
  rw [exec_accAlloc]
  refine issue_congr hi (allocForm x d a) rfl ?_
  dsimp only [allocForm]
  rw [hnone]
  simp only [View.allocNew, hteam, Bool.or_eq_true, Bool.and_eq_true, decide_eq_true_eq, Option.isNone_iff_eq_none, List.isEmpty_iff]

/-- An ALLOC that ends with a status. -/
theorem accAlloc_gives (hi : Issuing s k g p) (hr : Ready s k g p [d.toNat, a.toNat] [a.toNat]) (hy : kfind s.teams k.tkey = some y)
    (hq : ∀ e ∈ (s.core (s.coreOf k)).allocQ, e.1 ≠ k) (w : Word)
    (hb : (s.view k g p x).allocNew y d.toNat (g.seen a.toNat (lowestLane p.ex)).toNat =
      .ok ((s.view k g p x).wrLaterAll (s.view k g p x).s d.toNat w)) :
    ∃ t h, exec (.accAlloc x d a) s = .next t ∧ Becomes s t k (g.onWith p x
      [{ reg := g.wbasev + d.toNat, mask := p.ex, vals := uniformLanes w, left := none }]) h := by
  rw [accAlloc_eq hi hy hq]
  obtain ⟨hk, hoth⟩ := writeLater_groups (s1 := (s.view k g p x).s) x rfl
    { reg := g.wbasev + d.toNat, mask := p.ex, vals := uniformLanes w, left := none }
  exact issue_becomes hi (allocForm x d a) rfl hr rfl rfl rfl (by simp [allocForm, Uniform]) (by simp [allocForm]) hb hk hoth (modGroup_rest _ _ _) rfl

/-- An ALLOC that is granted its tiles at slot `b`. -/
theorem accAlloc_grants (hi : Issuing s k g p) (hr : Ready s k g p [d.toNat, a.toNat] [a.toNat]) (hy : kfind s.teams k.tkey = some y)
    (hq : ∀ e ∈ (s.core (s.coreOf k)).allocQ, e.1 ≠ k) {n b : Nat} (hn : 1 ≤ n) (hrun : y.freeRun n = some b)
    (hb : (s.view k g p x).allocNew y d.toNat (g.seen a.toNat (lowestLane p.ex)).toNat = (s.view k g p x).grantTiles d.toNat n) :
    ∃ t h, exec (.accAlloc x d a) s = .next t ∧
      Becomes ((s.setTeam k.tkey (y.fillTiles b n)).modCore (s.coreOf k) fun c => c.granted k) t k (g.onWith p x
        [{ reg := g.wbasev + d.toNat, mask := p.ex, left := none
           vals := uniformLanes (BitVec.ofNat 32 (2 ^ 31 + 2 ^ 8 * (y.allocN + 1#8).toNat + b)) }]) h := by
  have hteam : (s.view k g p x).team = y := team_found hy
  have hgrant : (s.view k g p x).grantTiles d.toNat n = .ok ((s.view k g p x).wrLaterAll
      (((s.view k g p x).s.setTeam k.tkey (y.fillTiles b n)).modCore (s.coreOf k) fun c => c.granted k) d.toNat
      (BitVec.ofNat 32 (2 ^ 31 + 2 ^ 8 * (y.allocN + 1#8).toNat + b))) := by
    simp only [View.grantTiles, hteam, hrun, handle_eq _ (freeRun_lt hn hrun)]
    rw [show (s.view k g p x).k = k from rfl, modTeam_found (s := (s.view k g p x).s) hy]
    rfl
  rw [accAlloc_eq hi hy hq]
  obtain ⟨hk, hoth⟩ := writeLater_groups (p := p)
    (s1 := ((s.view k g p x).s.setTeam k.tkey (y.fillTiles b n)).modCore (s.coreOf k) fun c => c.granted k) x rfl
    { reg := g.wbasev + d.toNat, mask := p.ex, left := none
      vals := uniformLanes (BitVec.ofNat 32 (2 ^ 31 + 2 ^ 8 * (y.allocN + 1#8).toNat + b)) }
  exact issue_becomes hi (allocForm x d a) rfl hr rfl rfl rfl (by simp [allocForm, Uniform]) (by simp [allocForm]) (hb.trans hgrant) hk hoth
    (modGroup_rest _ _ _) rfl

/-- An ALLOC that waits in its core's queue. -/
theorem accAlloc_waits (hi : Issuing s k g p) (hr : Ready s k g p [d.toNat, a.toNat] [a.toNat]) (hy : kfind s.teams k.tkey = some y)
    (hq : ∀ e ∈ (s.core (s.coreOf k)).allocQ, e.1 ≠ k) {n : Nat}
    (hb : (s.view k g p x).allocNew y d.toNat (g.seen a.toNat (lowestLane p.ex)).toNat =
      .await fun s' => s'.modCore (s.coreOf k) fun c => { c with allocQ := c.allocQ ++ [(k, n)] }) :
    exec (.accAlloc x d a) s = .next ((s.holdIssue k []).modCore (s.coreOf k) fun c => { c with allocQ := c.allocQ ++ [(k, n)] }) := by
  rw [accAlloc_eq hi hy hq]
  exact issue_await hi (allocForm x d a) rfl hr.waits _
    ((checked_ok (f := allocForm x d a) (body := fun v => v.allocNew y d.toNat (v.rd a.toNat)[v.f].toNat) hr rfl rfl rfl (by simp [allocForm, Uniform])
      (by simp [allocForm])).trans hb)

-- ## ACC functions on a tile (R198, R207, R208)

/-- The values and the flags of the lanes of a mask, and zeros elsewhere. -/
theorem masked_values (m : Word) (v : Fin 32 → Nat × Flags) : (lanesOf fun L => BitVec.ofNat 32 (if m.getLsbD L.val then v L else (0, 0#5)).1) =
    lanesOf fun L => if m.getLsbD L.val then BitVec.ofNat 32 (v L).1 else 0#32 :=
  congrArg lanesOf (funext fun L => by split <;> rfl)

theorem masked_flags (m : Word) (v : Fin 32 → Nat × Flags) :
    (lanesOf fun L => if m.getLsbD L.val then (if m.getLsbD L.val then v L else (0, 0#5)).2 else 0#5) =
      lanesOf fun L => if m.getLsbD L.val then (v L).2 else 0#5 :=
  congrArg lanesOf (funext fun L => by split <;> rfl)

/-- A tile after the cells of a mask's lanes, from a cell on, have been written, and its overflow flag where one was clamped (R45, R208). -/
def Tile.writeLanes (t : Tile) (m : Word) (base : Nat) (c : Fin 32 → Nat × Flags × Bool) : Tile :=
  let t1 := (maskLanes m).foldl (fun t L => t.setCell (base + L.val) (c L).1) t
  { t1 with status := t1.status ||| BitVec.ofNat 32 (if (maskLanes m).any fun L => (c L).2.2 then stAccovf else 0) }

theorem setCell_cell (t : Tile) (i c j : Nat) : (t.setCell i c).cell j = if j = i then c % 2 ^ 40 else t.cell j := by
  simp only [Tile.cell, Tile.setCell, kfind_kput]
  split
  · exact BitVec.toNat_ofNat _ _
  · rfl

/-- Cells that no lane writes stay. -/
theorem setCells_cell_of_ne {c : Fin 32 → Nat} {base i : Nat} {ls : List (Fin 32)} (h : ∀ L ∈ ls, i ≠ base + L.val) (t : Tile) :
    (ls.foldl (fun t L => t.setCell (base + L.val) (c L)) t).cell i = t.cell i := by
  induction ls generalizing t with
  | nil => rfl
  | cons M ls ih =>
    rw [List.foldl_cons, ih (fun L hL => h L (List.mem_cons_of_mem M hL)), setCell_cell, if_neg (h M List.mem_cons_self)]

/-- Each lane's cell holds what the lane writes. -/
theorem setCells_cell_of_mem {c : Fin 32 → Nat} {base : Nat} {ls : List (Fin 32)} {L : Fin 32} (hL : L ∈ ls) (t : Tile) :
    (ls.foldl (fun t L => t.setCell (base + L.val) (c L)) t).cell (base + L.val) = c L % 2 ^ 40 := by
  induction ls generalizing t with
  | nil => simp at hL
  | cons M ls ih =>
    rw [List.foldl_cons]
    by_cases hls : L ∈ ls
    · exact ih hls _
    · obtain rfl : L = M := (List.mem_cons.1 hL).resolve_right hls
      have hothers : ∀ N ∈ ls, base + L.val ≠ base + N.val := fun N hN he => hls (Fin.ext (Nat.add_left_cancel he) ▸ hN)
      rw [setCells_cell_of_ne hothers, setCell_cell, if_pos rfl]

theorem setCells_frame (c : Fin 32 → Nat) (base : Nat) (ls : List (Fin 32)) (t : Tile) :
    ∃ cells, ls.foldl (fun t L => t.setCell (base + L.val) (c L)) t = { t with cells := cells } := by
  induction ls generalizing t with
  | nil => exact ⟨t.cells, rfl⟩
  | cons M ls ih => exact ih (t.setCell (base + M.val) (c M))

theorem mem_maskLanes {m : Word} {L : Fin 32} : L ∈ maskLanes m ↔ m.getLsbD L.val = true := by simp [maskLanes]

theorem writeLanes_spec (t : Tile) (m : Word) (base : Nat) (c : Fin 32 → Nat × Flags × Bool) :
    (t.writeLanes m base c).alloc = t.alloc ∧ (t.writeLanes m base c).gen = t.gen ∧
      (∀ L : Fin 32, m.getLsbD L.val = true → (t.writeLanes m base c).cell (base + L.val) = (c L).1 % 2 ^ 40) ∧
      (∀ i, (∀ L : Fin 32, m.getLsbD L.val = true → i ≠ base + L.val) → (t.writeLanes m base c).cell i = t.cell i) ∧
      (t.writeLanes m base c).status = if ∃ L : Fin 32, m.getLsbD L.val = true ∧ (c L).2.2 = true then t.status ||| 0x20#32 else t.status := by
  have hcell : ∀ i, (t.writeLanes m base c).cell i = ((maskLanes m).foldl (fun t L => t.setCell (base + L.val) (c L).1) t).cell i := fun _ => rfl
  obtain ⟨cells, hframe⟩ := setCells_frame (fun L => (c L).1) base (maskLanes m) t
  refine ⟨?_, ?_, fun L hL => ?_, fun i hi => ?_, ?_⟩
  · simp only [Tile.writeLanes, hframe]
  · simp only [Tile.writeLanes, hframe]
  · rw [hcell]
    exact setCells_cell_of_mem (c := fun L => (c L).1) (mem_maskLanes.2 hL) t
  · rw [hcell]
    exact setCells_cell_of_ne (c := fun L => (c L).1) (fun L hL => hi L (mem_maskLanes.1 hL)) t
  · simp only [Tile.writeLanes, hframe, List.any_eq_true, mem_maskLanes]
    split
    · rfl
    · exact BitVec.or_zero

/-- What an ACC function on a tile demands. -/
def tileForm (x : Pfx) (a : Reg) (names reads : List Nat) (illegal : Bool) : Form :=
  { pfx := x, names := a.toNat :: names, reads := a.toNat :: reads, unif := [a.toNat], oneBeat := true, illegal := illegal }

end

section
variable {s : State} {k : GKey} {g : Group} {p : Path} {x : Pfx} {d a : Reg} {y : Team} (hi : Issuing s k g p) (hu : Uniform g p [a.toNat])
  (hy : kfind s.teams k.tkey = some y) (hvalid : y.tileValid (g.seen a.toNat (lowestLane p.ex)) = true)
  (hbusy : s.tileBusy k.tkey (g.seen a.toNat (lowestLane p.ex)) = false)
include hi hu hy hvalid hbusy

/-- An ACC function on a valid tile without work in flight, with its effect on the rest of the machine, its writes on their way and its flags. -/
theorem onTile_becomes {s' s2 : State} {names reads : List Nat} {illegal : View → Bool} {body : View → Word → Res} 
    (hr : Ready s k g p (a.toNat :: names) (a.toNat :: reads))
    (hill : illegal ⟨s, k, g, p, p.pc + 4#32⟩ = false) {new : List PendWrite} {fl : Lanes (BitVec 5)}
    (hb : body (s.view k g p x) (g.seen a.toNat (lowestLane p.ex)) = .ok s2)
    (h2 : kfind s2.groups k = some { g.counted s.issued with pend := g.pend ++ new, aflags := fl })
    (hoth : ∀ j, j ≠ k → kfind s2.groups j = kfind s'.groups j) (hrest : s2.rest = s'.rest) (hw : s'.slotW = s.slotW) :
    ∃ t h, onTile x a names reads illegal body s = .next t ∧ Becomes s' t k { g.onWith p x new with aflags := fl } h := by
  have hteam : (s.view k g p x).team = y := team_found hy
  have hnamed : (!(s.view k g p x).team.tileValid (g.seen a.toNat (lowestLane p.ex))) = false := by rw [hteam, hvalid]; rfl
  refine issue_becomes hi (tileForm x a names reads (illegal ⟨s, k, g, p, p.pc + 4#32⟩)) rfl hr hill rfl rfl hu (by simp [tileForm]) ?_ h2 hoth
    hrest hw
  exact (if_neg (Bool.eq_false_iff.1 hnamed)).trans ((if_neg (Bool.eq_false_iff.1 hbusy)).trans hb)

/-- An ACC function that changes its team alone. -/
theorem onTile_changes {illegal : View → Bool} {body : View → Word → Res} {z : Team} 
    (hr : Ready s k g p [a.toNat] [a.toNat])
    (hill : illegal ⟨s, k, g, p, p.pc + 4#32⟩ = false)
    (hb : body (s.view k g p x) (g.seen a.toNat (lowestLane p.ex)) = .ok ((s.view k g p x).s.setTeam k.tkey z)) :
    ∃ t h, onTile x a [] [] illegal body s = .next t ∧ Becomes (s.setTeam k.tkey z) t k (g.onWith p x []) h := by
  refine onTile_becomes (fl := g.aflags) hi hu hy hvalid hbusy hr hill hb ?_ (fun j hj => view_others (p := p) x hj) ?_ rfl
  · rw [List.append_nil]
    exact view_found (p := p) x
  · rw [setTeam_rest, setTeam_rest, view_rest]

theorem accFree_becomes (hr : Ready s k g p [a.toNat] [a.toNat]) :
    ∃ t h, exec (.accFree x a) s = .next t ∧ Becomes (s.setTeam k.tkey
      { y with tiles := kdel y.tiles (tileSlot (g.seen a.toNat (lowestLane p.ex))) }) t k (g.onWith p x []) h := by
  rw [exec_accFree]
  exact onTile_changes hi hu hy hvalid hbusy hr rfl (congrArg Res.ok (modTeam_found (s := (s.view k g p x).s) hy _))

theorem accZero_becomes (hr : Ready s k g p [a.toNat] [a.toNat]) :
    let h0 := g.seen a.toNat (lowestLane p.ex)
    ∃ t h, exec (.accZero x a) s = .next t ∧ Becomes (s.setTeam k.tkey
      { y with tiles := kput y.tiles (tileSlot h0) { y.tile h0 with cells := [] } }) t k (g.onWith p x []) h := by
  rw [exec_accZero]
  exact onTile_changes hi hu hy hvalid hbusy hr rfl (congrArg Res.ok (modTile_found (s := (s.view k g p x).s) hy _ _))

theorem accStat_becomes (hr : Ready s k g p [a.toNat, d.toNat] [a.toNat]) :
    let h0 := g.seen a.toNat (lowestLane p.ex)
    ∃ t h, exec (.accStat x d a) s = .next t ∧ Becomes (s.setTeam k.tkey
      { y with tiles := kput y.tiles (tileSlot h0) { y.tile h0 with status := 0#32 } }) t k (g.onWith p x
        [{ reg := g.wbasev + d.toNat, mask := p.ex, vals := uniformLanes (y.tile h0).status, left := none }]) h := by
  intro h0
  have hteam : (s.view k g p x).team = y := team_found hy
  have hmod := modTile_found (s := (s.view k g p x).s) hy h0 fun t => { t with status := 0#32 }
  obtain ⟨hk, hoth⟩ := writeLater_groups (p := p) (s1 := (s.view k g p x).s.setTeam k.tkey
    { y with tiles := kput y.tiles (tileSlot h0) { y.tile h0 with status := 0#32 } }) x rfl
    { reg := g.wbasev + d.toNat, mask := p.ex, vals := uniformLanes (y.tile h0).status, left := none }
  rw [exec_accStat]
  refine onTile_becomes hi hu hy hvalid hbusy hr rfl ?_ hk hoth ((modGroup_rest _ _ _).trans ?_) rfl
  · rw [← hmod, hteam]
    rfl
  · rw [setTeam_rest, setTeam_rest, view_rest]

theorem accRead_becomes {i : Instr} {f : Word → Tile → Fin 32 → Nat × Flags} (he : exec i s = accRead x d a f s)
    (hr : Ready s k g p [a.toNat, d.toNat] [a.toNat]) (hfmt : fmtBadAcc p.fmt = false) (v : Fin 32 → Nat × Flags)
    (hv : f p.fmt (y.tile (g.seen a.toNat (lowestLane p.ex))) = v) :
    ∃ t h, exec i s = .next t ∧ Becomes s t k (g.onWith p x
      [{ reg := g.wbasev + d.toNat, mask := p.ex, left := none
         vals := lanesOf fun L => if p.ex.getLsbD L then BitVec.ofNat 32 (v L).1 else 0#32
         flags := lanesOf fun L => if p.ex.getLsbD L then (v L).2 else 0#5 }]) h := by
  have hteam : (s.view k g p x).team = y := team_found hy
  rw [he]
  obtain ⟨hk, hoth⟩ := writeLater_groups (s1 := (s.view k g p x).s) x rfl
    { reg := g.wbasev + d.toNat, mask := p.ex, left := none
      vals := lanesOf fun L => if p.ex.getLsbD L then BitVec.ofNat 32 (v L).1 else 0#32
      flags := lanesOf fun L => if p.ex.getLsbD L then (v L).2 else 0#5 }
  refine onTile_becomes hi hu hy hvalid hbusy hr hfmt ?_ hk hoth (modGroup_rest _ _ _) rfl
  simp only [hteam, View.wrLaterFlags, View.activeFlags, lanesOf_get, masked_values, masked_flags]
  subst hv
  rfl

theorem accWrf32_becomes (hr : Ready s k g p [a.toNat, d.toNat] [a.toNat, d.toNat]) (hfmt : fmtBadAcc p.fmt = false) :
    let h0 := g.seen a.toNat (lowestLane p.ex)
    let new := fun (L : Fin 32) => cellOf p.fmt (g.seen d.toNat L)
    ∃ t h, exec (.accWrf32 x d a) s = .next t ∧
      Becomes (s.setTeam k.tkey { y with
        tiles := kput y.tiles (tileSlot h0) ((y.tile h0).writeLanes p.ex (64 * selRow x + 32 * selHalf x) new) }) t k
      { g.onWith p x [] with aflags := lanesOf fun L => if p.ex.getLsbD L then g.aflags[L] ||| (new L).2.1 else g.aflags[L] } h := by
  intro h0 new
  rw [exec_accWrf32]
  unfold execAccWrf32
  refine onTile_becomes (new := [])
    (fl := lanesOf fun L => if p.ex.getLsbD L then g.aflags[L] ||| (new L).2.1 else g.aflags[L])
    (s2 := ((s.view k g p x).s.setGroup k ((g.counted s.issued).raise p.ex (lanesOf fun L => (new L).2.1))).setTeam k.tkey
    { y with tiles := kput y.tiles (tileSlot h0) ((y.tile h0).writeLanes p.ex (64 * selRow x + 32 * selHalf x) new) })
    hi hu hy hvalid hbusy hr hfmt ?_ ?_ (fun j hj => ?_) ?_ rfl
  · simp only [lanesOf_get, flag_view]
    rw [modTile_found (y := y) (by exact hy)]
    rfl
  · simp only [State.setTeam_groups, setGroup_groups, kfind_kput_self, Group.raise, lanesOf_get, List.append_nil]
    rfl
  · simp only [State.setTeam_groups, setGroup_groups, kfind_kput_ne _ _ hj]
    exact view_others x hj
  · rw [setTeam_rest, setTeam_rest, setGroup_rest, view_rest]

end

-- ## ALLOC_GRANT (R197)

/-- The groups that may try again leave the list of those that wait, the head of the queue among them where its tiles fit; nothing else changes. -/
theorem allocGrant_wakes (s : State) : ∃ t, exec .allocGrant s = .next t ∧ { t with stalled := [] } = { s with stalled := [] } ∧
    (∀ j ∈ t.stalled, j ∈ s.stalled) ∧
    ∀ e, (s.core s.ev.core).waiting.head? = some e → s.tilesFit e.1.tkey e.2 = true → e.1 ∉ t.stalled := by
  refine ⟨_, rfl, rfl, fun j hj => List.mem_of_mem_filter hj, fun e he hfit => ?_⟩
  simp [he, hfit]

theorem fmtBadAcc_eq_false {fmt : Word} (h : fmtReserved fmt = false) (ha : fmtAccf fmt < 2) : fmtBadAcc fmt = false := by
  simpa [fmtBadAcc, h] using ha

theorem cellFloat_eq (F : FFormat) (fmt : Word) (c : Nat) : cellFloat F fmt c =
    F.round (fmtRnd fmt) (fmtSat fmt) (if fmtAccf fmt = 1 then intVal (signedOf 40 c) else fE8m31.decode c) := by
  simp only [cellFloat, cellVal, fmtInt, beq_iff_eq]

/-- Settles O37, one lemma for each outcome: ALLOC by the first of its checks that decides, the ACC functions on a valid tile without work in flight
by what their effect leaves of the team and the group. -/
theorem accumulatorTiles : Obligations.AccumulatorTiles := by
  intro s k g p hi x d a y hy core c f h0 later
  refine ⟨?_, ?_, allocGrant_wakes s⟩
  · intro hr hq n r gives fits
    refine ⟨fun hn => accAlloc_gives hi hr hy hq _ (if_pos hn), fun hn1 hn16 => ?_⟩
    have hsize : (s.view k g p x).allocNew y d.toNat n = _ := if_neg (show ¬ (n = 0 ∨ 16 < n) by omega)
    refine ⟨fun hrun => accAlloc_gives hi hr hy hq _ (hsize.trans (if_pos hrun)), fun b hrun => ?_⟩
    have hslots := hsize.trans (if_neg (show y.freeRun n ≠ none by simp [hrun]))
    refine ⟨fun hspare => accAlloc_gives hi hr hy hq _ (hslots.trans (if_pos hspare)), fun hspare => ?_⟩
    have hcap := hslots.trans (if_neg (Nat.not_lt.2 hspare))
    refine ⟨fun hfits => ?_, fun hfits hheld => ?_, fun hfits hheld => ?_⟩
    · obtain ⟨t, h, ht, hbecomes⟩ := accAlloc_grants hi hr hy hq hn1 hrun (hcap.trans (if_pos hfits))
      exact ⟨t, h, y.fillTiles b n, ht, rfl, kfind_fillTiles y b n, hbecomes⟩
    · exact accAlloc_gives hi hr hy hq _ ((hcap.trans (if_neg hfits)).trans (if_pos hheld))
    · exact accAlloc_waits hi hr hy hq ((hcap.trans (if_neg hfits)).trans (if_neg (not_not.2 hheld)))
  · intro hu hvalid hbusy tile holds
    refine ⟨fun hr => ⟨accFree_becomes hi hu hy hvalid hbusy hr, accZero_becomes hi hu hy hvalid hbusy hr⟩,
      fun hr => ⟨accStat_becomes hi hu hy hvalid hbusy hr, ?_⟩, ?_⟩
    · intro fmt val row at_ reads hres haccf
      have hfmt := fmtBadAcc_eq_false hres haccf
      refine ⟨?_, ?_, ?_⟩
      · exact accRead_becomes hi hu hy hvalid hbusy (exec_accRdf32 x d a s) hr hfmt _ (funext fun L => cellFloat_eq fp32 _ _)
      · exact accRead_becomes hi hu hy hvalid hbusy (exec_accRdbf2 x d a s) hr hfmt _ (funext fun L => by simp only [cellFloat_eq]; rfl)
      · exact accRead_becomes hi hu hy hvalid hbusy (exec_accRdi32 x d a s) hr hfmt _ rfl
    · intro hr hres haccf new at_
      obtain ⟨t, h, ht, hbecomes⟩ := accWrf32_becomes hi hu hy hvalid hbusy hr (fmtBadAcc_eq_false hres haccf)
      exact ⟨t, h, _, ht, hbecomes, writeLanes_spec tile p.ex (64 * selRow x + 32 * selHalf x) new⟩

end Sys2Proof.Machine

namespace Sys2Proof.Machine

/-! Matrix operations start and complete, and STN completes (R185, R187, R198 to R200, R209). The first part says that traffic in memory, caches and
the fabric leaves groups, teams and partitions alone. -/

/-- The groups, the teams and the partitions of cores. -/
def State.residents (s : State) : KMap GKey Group × KMap TKey Team × KMap Nat Part := (s.groups, s.teams, s.parts)

theorem residents_eq {s t : State} (h : t.residents = s.residents) : t.groups = s.groups ∧ t.teams = s.teams ∧ t.parts = s.parts :=
  ⟨congrArg (·.1) h, congrArg (·.2.1) h, congrArg (·.2.2) h⟩

theorem foldl_residents {α : Type} {f : State → α → State} (h : ∀ s x, (f s x).residents = s.residents) (l : List α) (s : State) :
    (l.foldl f s).residents = s.residents := by
  induction l generalizing s with
  | nil => rfl
  | cons x l ih => exact (ih _).trans (h s x)

@[simp] theorem later_residents (s : State) (ds : List Due) : (s.later ds).residents = s.residents := rfl

-- ## The fabric (R302, R304, R305, R320)

@[simp] theorem askRekey_residents (s : State) (dom : Nat) : (s.askRekey dom).residents = s.residents := by
  unfold State.askRekey
  split <;> rfl

@[simp] theorem sendNow_residents (s : State) (peer dom home o : Nat) (b : Body) : (s.sendNow peer dom home o b).residents = s.residents := by
  unfold State.sendNow
  dsimp only
  split
  · rfl
  · split
    · exact askRekey_residents _ dom
    · rfl

@[simp] theorem send_residents (s : State) (peer dom home o : Nat) (b : Body) : (s.send peer dom home o b).residents = s.residents := by
  unfold State.send
  split
  · rfl
  · exact sendNow_residents s peer dom home o b

@[simp] theorem pushLine_residents (s : State) (pa : Nat) : (s.pushLine pa).residents = s.residents := by
  refine foldl_residents (fun s r => ?_) _ _
  split
  · rfl
  · dsimp only
    refine foldl_residents (fun s q => ?_) _ _
    exact send_residents s q _ _ _ _

theorem acceptFrom_residents {s t : State} {p : RPacket} (h : s.acceptFrom p = some t) : t.residents = s.residents := by
  unfold State.acceptFrom at h
  dsimp only at h
  cases hd : kfind s.domains p.dom.toNat with
  | none => simp [hd] at h
  | some e =>
    rw [hd] at h
    dsimp only at h
    by_cases hv : (!e.valid || !e.members.contains p.src.toNat || (e.isSealed && !p.auth)) = true
    · rw [if_pos hv] at h
      cases h
    · rw [if_neg hv] at h
      have taken : ∀ (b : Bool) (x : KMap (Nat × Nat) StreamIn),
          some { (if b then s.askRekey p.dom.toNat else s) with seqIn := x } = some t → t.residents = s.residents := by
        rintro (_ | _) x ⟨⟩
        · rfl
        · exact askRekey_residents s p.dom.toNat
      split at h
      · exact taken _ _ h
      · split at h
        · exact taken _ _ h
        · split at h
          · exact taken _ _ h
          · cases h

@[simp] theorem acceptAll_residents (s : State) (ps : List RPacket) : (s.acceptAll ps).1.residents = s.residents := by
  unfold State.acceptAll
  generalize true = ok
  induction ps generalizing s ok with
  | nil => rfl
  | cons p ps ih =>
    rw [List.foldl_cons]
    cases hp : s.acceptFrom p with
    | none => exact ih s false
    | some t => exact (ih t ok).trans (acceptFrom_residents hp)

theorem takeAnswers_residents (s : State) (team : TKey) (r : Tensor) (a : EvArg) : (s.takeAnswers team r a).1.residents = s.residents := by
  unfold State.takeAnswers
  split
  · rfl
  · exact acceptAll_residents s a.pkts

-- ## Caches (R235 to R241)

@[simp] theorem noteWrite_residents (s : State) (pa core : Nat) (b a : Option Nat) (self : Option GKey) :
    (s.noteWrite pa core b a self).residents = s.residents := by
  unfold State.noteWrite
  dsimp only
  rw [later_residents]
  split
  · exact pushLine_residents s pa
  · rfl

@[simp] theorem makeRoom_residents (s : State) (u : CacheUnit) (set : Nat) : (s.makeRoom u set).residents = s.residents := by
  unfold State.makeRoom
  split
  · rfl
  · cases u <;> rfl

@[simp] theorem filterRoom_residents (s : State) (base : Nat) : (s.filterRoom base).residents = s.residents := by
  unfold State.filterRoom
  dsimp only
  split <;> rfl

@[simp] theorem addCopy_residents (s : State) (u : CacheUnit) (base : Nat) (st : LineState) (pol : Nat) :
    (s.addCopy u base st pol).residents = s.residents := by
  unfold State.addCopy
  split
  · rfl
  · have placed : ∀ (t : State) (cs : List CacheLine), ({ t with caches := cs } : State).residents = t.residents := fun _ _ => rfl
    dsimp only
    rw [placed]
    split <;> simp

@[simp] theorem fillCopy_residents (s : State) (core base pol : Nat) : (s.fillCopy core base pol).residents = s.residents := by
  unfold State.fillCopy
  dsimp only
  split <;> simp <;> rfl

@[simp] theorem reachCopies_residents (s : State) (core base before after : Nat) :
    (s.reachCopies core base before after).residents = s.residents := by
  unfold State.reachCopies
  dsimp only
  split <;> rfl

@[simp] theorem recallHost_residents (s : State) (pa : Nat) : (s.recallHost pa).residents = s.residents := by
  unfold State.recallHost
  split <;> rfl

@[simp] theorem noteOwn_residents (s : State) (self : Option GKey) (pa : Nat) (bs : List Byte) : (s.noteOwn self pa bs).residents = s.residents := rfl

@[simp] theorem cleanCopies_residents (s : State) (base : Nat) : (s.cleanCopies base).residents = s.residents := rfl
@[simp] theorem homeWrite_residents (s : State) (pa : Nat) (bs : List Byte) : (s.homeWrite pa bs).residents = s.residents := rfl

-- ## Writes on their way (R219, R241)

@[simp] theorem arriveHome_residents (s : State) (w : PWrite) : (s.arriveHome w).residents = s.residents := by
  simp [State.arriveHome]

@[simp] theorem propagate_residents (s : State) (test : PWrite → Bool) : (s.propagate test).residents = s.residents :=
  foldl_residents arriveHome_residents _ _

@[simp] theorem widen_residents (s : State) (id reach : Nat) : (s.widen id reach).residents = s.residents := by
  unfold State.widen
  split
  · rfl
  · split
    · rfl
    · split
      · exact propagate_residents s _
      · simp
        rfl

@[simp] theorem loaded_residents (s : State) (core : Nat) (f : Frame) (n pol : Nat) : (s.loaded core f n pol).residents = s.residents := by
  unfold State.loaded
  rw [fillCopy_residents]
  split
  · exact foldl_residents (fun s w => widen_residents s _ _) _ _
  · rfl

@[simp] theorem writeHome_residents (s : State) (core : Nat) (self : Option GKey) (pa : Nat) (bs : List Byte) :
    (s.writeHome core self pa bs).residents = s.residents := by
  simp [State.writeHome, State.settleRange]

@[simp] theorem healthRecord_residents (s : State) (kind addr core : Nat) : (s.healthRecord kind addr core).residents = s.residents := by
  unfold State.healthRecord
  have counted : (s.countHealth kind).residents = s.residents := rfl
  have logged : ∀ (t : State) (n : Word), ({ t with hlogt := n } : State).residents = t.residents := fun _ _ => rfl
  dsimp only
  rw [logged]
  split
  · exact counted
  · exact ((writeHome_residents _ noCore none _ _).trans (noteOwn_residents _ _ _ _)).trans counted

-- ## What an operation asks for (R164, R189, R206, R300)

theorem askAbsent_residents (s : State) (team : TKey) (t : Tensor) (origin : List Int) (need : Need) :
    (s.askAbsent team t origin need).residents = s.residents := by
  unfold State.askAbsent
  dsimp only
  split
  · rfl
  · split <;> rfl

theorem askPeer_residents (s : State) (team : TKey) (t : Tensor) (origin : List Int) : (s.askPeer team t origin).residents = s.residents := by
  unfold State.askPeer
  split
  · exact foldl_residents (fun s l => sendNow_residents s _ _ _ _ _) _ _
  · rfl

theorem fillReads_residents (s : State) (mv : Mover) (layer : Nat) (ranges : List (Nat × Nat)) :
    (s.fillReads mv layer ranges).residents = s.residents := by
  unfold State.fillReads
  split
  · rfl
  · refine foldl_residents (fun s c => ?_) _ _
    unfold State.fillRead
    split
    · split
      · rfl
      · exact loaded_residents s _ _ _ _
    · rfl

theorem askForA_residents (s : State) (mv : Mover) (o : MatOp) : (s.askForA mv o).residents = s.residents := by
  unfold State.askForA
  split
  · rfl
  · rw [fillReads_residents, askPeer_residents, askAbsent_residents]

-- ## Leaving the queue (R198 to R200)

theorem kput_keys {κ α : Type} [DecidableEq κ] {m : KMap κ α} {k : κ} {x : α} (h : kfind m k = some x) (y : α) :
    (kput m k y).map (·.1) = m.map (·.1) := by
  induction m with
  | nil => simp at h
  | cons p m ih =>
    obtain ⟨j, z⟩ := p
    by_cases hj : j = k
    · simp [kput, hj]
    · simpa [kput, hj] using ih (by simpa [kfind, hj] using h)

theorem modGroup_groupsOf (s : State) (k : GKey) (f : Group → Group) (u : TKey) : (s.modGroup k f).groupsOf u = s.groupsOf u := by
  unfold State.modGroup
  cases h : kfind s.groups k with
  | none => rfl
  | some g =>
    exact congrArg (List.filter _) (kput_keys h _)

/-- A report adds its status, whatever it tells of the fault. -/
theorem report_status (b : Batch) (st : Nat) (batch : Word) (idx : Nat) (what : Word) :
    (b.report st batch idx what).status = b.status ||| BitVec.ofNat 32 st := by
  unfold Batch.report
  split <;> simp_all

/-- A team with a group left does not end. -/
theorem endTeamIfDone_of_group {s : State} {u : TKey} (h : s.groupsOf u ≠ []) : s.endTeamIfDone u = s := by
  simp [State.endTeamIfDone, h]

/-- The groups hear of the end of an operation of theirs. -/
def MatMember.heard (o : MatOp) (st : Nat) (s : State) (m : MatMember) : State :=
  s.modGroup m.key fun g => { g with mb := g.mb.report st m.batch m.idx o.handle }

/-- The core as an operation leaves it: idle from now on where it was the last one (R163). -/
def State.quiet (s : State) (core : Nat) : State :=
  { (if s.matIdle core then s.modCore core fun c => { c with idleFrom := s.cycle } else s) with stalled := [] }

theorem quiet_residents (s : State) (core : Nat) : (s.quiet core).residents = s.residents := by
  have woken : ∀ t : State, ({ t with stalled := [] } : State).residents = t.residents := fun _ => rfl
  rw [State.quiet, woken]
  split <;> rfl

theorem groupsOf_of_residents {s t : State} (h : t.residents = s.residents) (u : TKey) : t.groupsOf u = s.groupsOf u := by
  rw [State.groupsOf, State.groupsOf, (residents_eq h).1]

theorem heard_frame (o : MatOp) (st : Nat) (ms : List MatMember) (s : State) :
    (ms.foldl (MatMember.heard o st) s).teams = s.teams ∧ (ms.foldl (MatMember.heard o st) s).parts = s.parts ∧
      ∀ u, (ms.foldl (MatMember.heard o st) s).groupsOf u = s.groupsOf u := by
  induction ms generalizing s with
  | nil => exact ⟨rfl, rfl, fun _ => rfl⟩
  | cons m ms ih =>
    obtain ⟨hteams, hparts, hgroups⟩ := ih (MatMember.heard o st s m)
    exact ⟨hteams.trans (State.modGroup_teams s _ _), hparts.trans (State.modGroup_parts s _ _),
      fun u => (hgroups u).trans (modGroup_groupsOf s _ _ u)⟩

/-- The queue of `o` without it, and its status in its tile. -/
def State.unqueued (s : State) (core q : Nat) (o : MatOp) (st : Nat) : State :=
  (s.modPart core q fun p => { p with matQ := p.matQ.tail }).modTile o.team o.handle fun t => { t with status := t.status ||| BitVec.ofNat 32 st }

/-- The members of an operation whose groups can hear of it. -/
def MatOp.live (o : MatOp) : List MatMember := o.members.filter fun m => !m.orphan

theorem leaveQueue_eq (s : State) (core q : Nat) (o : MatOp) (st : Nat) : s.leaveQueue core q o st =
    ((o.live.foldl (MatMember.heard o st) (s.unqueued core q o st)).quiet core).endTeamIfDone o.team := rfl

/-- What an operation of a team with a group left leaves behind, in the groups, the teams and the partitions. -/
theorem leaveQueue_residents {s : State} {core q : Nat} {o : MatOp} (hg : s.groupsOf o.team ≠ []) (st : Nat) :
    (s.leaveQueue core q o st).residents = (o.live.foldl (MatMember.heard o st) (s.unqueued core q o st)).residents := by
  obtain ⟨-, -, hgroups⟩ := heard_frame o st o.live (s.unqueued core q o st)
  have kept : (s.unqueued core q o st).groupsOf o.team = s.groupsOf o.team := by
    rw [State.groupsOf, show (s.unqueued core q o st).groups = s.groups from State.modTeam_groups _ _ _, State.groupsOf]
  rw [leaveQueue_eq, endTeamIfDone_of_group, quiet_residents]
  rwa [groupsOf_of_residents (quiet_residents _ core), hgroups, kept]

/-- The states that an operation `o` can leave its queue into with the status `st`, its tile having stood at `old`: the rest of the queue is left,
and the status goes to the tile and to the batch of an only member. -/
structure MatOp.Ended (o : MatOp) (s t : State) (core q : Nat) (rest : List MatOp) (old : Word) (st : Nat) : Prop where
  queue  : (t.part core q).matQ = rest
  tile   : ∀ x, kfind t.teams o.team = some x → (x.tile o.handle).status = old ||| BitVec.ofNat 32 st
  member : ∀ m, o.members = [m] → m.orphan = false → ∀ g h, kfind s.groups m.key = some g → kfind t.groups m.key = some h →
    h.mb.status = g.mb.status ||| BitVec.ofNat 32 st

/-- A team with a status added to one of its tiles. -/
def Team.marked (y : Team) (w : Word) (st : Nat) : Team :=
  { y with tiles := kput y.tiles (tileSlot w) { y.tile w with status := (y.tile w).status ||| BitVec.ofNat 32 st } }

theorem marked_tile (y : Team) (w : Word) (st : Nat) :
    (y.marked w st).tile w = { y.tile w with status := (y.tile w).status ||| BitVec.ofNat 32 st } := by
  simp [Team.marked, Team.tile]

/-- An operation of a team with a group left leaves the queue: its tile and its members hear of its status, and the team has nothing else changed. -/
theorem leaveQueue_ended {s : State} {core q : Nat} {o : MatOp} {rest : List MatOp} {y : Team} (hq : (s.part core q).matQ = o :: rest)
    (hy : kfind s.teams o.team = some y) (hg : s.groupsOf o.team ≠ []) (st : Nat) :
    o.Ended s (s.leaveQueue core q o st) core q rest (y.tile o.handle).status st ∧
      kfind (s.leaveQueue core q o st).teams o.team = some (y.marked o.handle st) := by
  obtain ⟨hgroups, hteams', hparts'⟩ := residents_eq (leaveQueue_residents (core := core) (q := q) hg st)
  obtain ⟨hteams, hparts, -⟩ := heard_frame o st o.live (s.unqueued core q o st)
  have hteam : kfind (s.leaveQueue core q o st).teams o.team = some (y.marked o.handle st) := by
    rw [hteams', hteams, State.unqueued,
      modTile_found (s := s.modPart core q _) hy]
    exact kfind_kput_self _ _ _
  refine ⟨⟨?_, fun x hx => ?_, fun m hm horphan g h hfound hleft => ?_⟩, hteam⟩
  · have hrest : (s.unqueued core q o st).parts = kput s.parts (4 * core + q) { s.part core q with matQ := (s.part core q).matQ.tail } :=
      State.modTeam_parts _ _ _
    rw [State.part, hparts', hparts, hrest, kfind_kput_self]
    simp [hq]
  · obtain rfl := Option.some.inj (hteam.symm.trans hx)
    rw [marked_tile]
  · have hsame : (s.unqueued core q o st).groups = s.groups := State.modTeam_groups _ _ _
    have hlive : o.live = [m] := by simp [MatOp.live, hm, horphan]
    rw [hgroups, hlive, List.foldl_cons, List.foldl_nil, MatMember.heard,
      modGroup_found (hsame ▸ hfound)] at hleft
    obtain rfl := Option.some.inj ((kfind_kput_self _ _ _).symm.trans hleft)
    exact report_status _ _ _ _ _

-- ## The cells of an operation (R58, R187)

section
variable {κ α : Type} [DecidableEq κ]

theorem kfind_append (l r : KMap κ α) (k : κ) : kfind (l ++ r) k = (kfind l k).or (kfind r k) := by
  induction l with
  | nil => rfl
  | cons p l ih => by_cases h : p.1 = k <;> simp [kfind, h, ih]

theorem kfind_filter_key (test : κ → Bool) (l : KMap κ α) (k : κ) : kfind (l.filter fun c => test c.1) k = if test k then kfind l k else none := by
  induction l with
  | nil => simp
  | cons p l ih =>
    by_cases h : p.1 = k
    · subst h
      cases ht : test p.1 <;> simp_all [kfind]
    · cases ht : test p.1 <;> simp_all [kfind]

end

/-- The cells that an operation writes: those of its values that are not zero. -/
def newCells (l : List (Nat × Nat × Nat)) : KMap Nat (BitVec 40) := l.filterMap fun c => if c.2.1 = 0 then none else some (c.1, BitVec.ofNat 40 c.2.1)

theorem newCells_none {l : List (Nat × Nat × Nat)} {i : Nat} (h : ∀ c ∈ l, c.1 ≠ i) : kfind (newCells l) i = none := by
  induction l with
  | nil => rfl
  | cons c l ih =>
    have hc := h c List.mem_cons_self
    have hl := ih fun x hx => h x (List.mem_cons_of_mem c hx)
    simp only [newCells] at hl ⊢
    by_cases hz : c.2.1 = 0 <;> simp [hz, kfind, hc, hl]

theorem newCells_some {l : List (Nat × Nat × Nat)} {i v : Nat} (hmem : ∃ c ∈ l, c.1 = i) (hval : ∀ c ∈ l, c.1 = i → c.2.1 = v) :
    kfind (newCells l) i = if v = 0 then none else some (BitVec.ofNat 40 v) := by
  induction l with
  | nil => simp at hmem
  | cons c l ih =>
    have htail : ∀ x ∈ l, x.1 = i → x.2.1 = v := fun x hx => hval x (List.mem_cons_of_mem c hx)
    have hskip : (c.1 = i → v = 0) → kfind (newCells (c :: l)) i = kfind (newCells l) i := fun h => by
      by_cases hz : c.2.1 = 0
      · simp [newCells, hz]
      · have hc : c.1 ≠ i := fun hc => hz ((hval c List.mem_cons_self hc).trans (h hc))
        simp [newCells, hz, kfind, hc]
    by_cases hc : c.1 = i ∧ v ≠ 0
    · have hv := hval c List.mem_cons_self hc.1
      simp [newCells, hv, kfind, hc.1, hc.2]
    · rw [hskip fun h => not_not.1 fun hv => hc ⟨h, hv⟩]
      by_cases hin : ∃ x ∈ l, x.1 = i
      · exact ih hin htail
      · have hhead : c.1 = i := ((List.exists_mem_cons_iff _ _ _).1 hmem).resolve_right hin
        have hv : v = 0 := not_not.1 fun hv => hc ⟨hhead, hv⟩
        rw [newCells_none fun x hx he => hin ⟨x, hx, he⟩, if_pos hv]

/-- The products of the rows of A with the columns of B, each with its cell's number. -/
def gridCells (fmt : Word) (t : Tile) (shift : Nat) (as_ bs : List (List Scaled)) : List (Nat × Nat × Nat) :=
  as_.zipIdx.flatMap fun row => bs.zipIdx.map fun col =>
    (64 * row.2 + col.2 + shift, cellAfter fmt (t.cell (64 * row.2 + col.2 + shift)) row.1 col.1)

theorem mem_gridCells {fmt : Word} {t : Tile} {shift : Nat} {as_ bs : List (List Scaled)} {c : Nat × Nat × Nat} :
    c ∈ gridCells fmt t shift as_ bs ↔ ∃ m < as_.length, ∃ n < bs.length, c = (64 * m + n + shift,
      cellAfter fmt (t.cell (64 * m + n + shift)) (as_.getD m []) (bs.getD n [])) := by
  simp only [gridCells, List.mem_flatMap, List.mem_map, Prod.exists, List.mem_zipIdx_iff_getElem?, List.getElem?_eq_some_iff]
  constructor
  · rintro ⟨row, m, ⟨hm, hrow⟩, col, n, ⟨hn, hcol⟩, rfl⟩
    exact ⟨m, hm, n, hn, by simp [hm, hn, hrow, hcol]⟩
  · rintro ⟨m, hm, n, hn, rfl⟩
    exact ⟨as_[m], m, ⟨hm, rfl⟩, bs[n], n, ⟨hn, rfl⟩, by simp [hm, hn]⟩

theorem aSide_length (s : State) (mv : Mover) (o : MatOp) (k : Nat) : (s.aSide mv o k).1.length = 64 := by
  simp [State.aSide]

theorem bSide_length (s : State) (mv : Mover) (o : MatOp) (k : Nat) : (s.bSide mv o k).1.length = fmtN o.fmt := by
  simp [State.bSide]

/-- The first column that an operation writes (R187). -/
def MatOp.shift (o : MatOp) : Nat := if o.half then 32 else 0

theorem runOp_cells (s : State) (mv : Mover) (o : MatOp) : (s.runOp mv o).1.cells =
    ((s.team o.team).tile o.handle).cells.filter (fun c => c.1 % 64 < o.shift || o.shift + fmtN o.fmt ≤ c.1 % 64) ++
      newCells (gridCells o.fmt ((s.team o.team).tile o.handle) o.shift (s.aSide mv o (o.members.length * fmtS o.fmt)).1
        (s.bSide mv o (o.members.length * fmtS o.fmt)).1) := rfl

/-- Each cell of an operation's columns takes its chunked sum, and the others stay. -/
theorem runOp_cell (s : State) (mv : Mover) {o : MatOp} (hhalf : o.half = true → fmtN o.fmt = 32) {m n : Nat} (hm : m < 64) (hn : n < 64) :
    (s.runOp mv o).1.cell (64 * m + n) =
      if o.shift ≤ n ∧ n < o.shift + fmtN o.fmt then
        (cellAfter o.fmt (((s.team o.team).tile o.handle).cell (64 * m + n)) ((s.aSide mv o (o.members.length * fmtS o.fmt)).1.getD m [])
          ((s.bSide mv o (o.members.length * fmtS o.fmt)).1.getD (n - o.shift) [])).1 % 2 ^ 40
      else ((s.team o.team).tile o.handle).cell (64 * m + n) := by
  have hwide : o.shift + fmtN o.fmt ≤ 64 := by
    have hfmt : fmtN o.fmt ≤ 64 := by
      unfold fmtN
      split <;> decide
    unfold MatOp.shift
    split
    · simp [hhalf ‹_›]
    · rwa [Nat.zero_add]
  have hmod : (64 * m + n) % 64 = n := by omega
  have hkept := kfind_filter_key (fun i => decide (i % 64 < o.shift) || decide (o.shift + fmtN o.fmt ≤ i % 64))
    ((s.team o.team).tile o.handle).cells (64 * m + n)
  have hkey : ∀ m' < 64, ∀ n' < fmtN o.fmt, 64 * m' + n' + o.shift = 64 * m + n → m' = m ∧ n' = n - o.shift ∧ o.shift ≤ n := by omega
  rw [Tile.cell, runOp_cells, kfind_append, hkept]
  generalize ((s.team o.team).tile o.handle) = t
  have ha := aSide_length s mv o (o.members.length * fmtS o.fmt)
  have hb := bSide_length s mv o (o.members.length * fmtS o.fmt)
  generalize (s.aSide mv o (o.members.length * fmtS o.fmt)).1 = as_ at ha ⊢
  generalize (s.bSide mv o (o.members.length * fmtS o.fmt)).1 = bs at hb ⊢
  by_cases hin : o.shift ≤ n ∧ n < o.shift + fmtN o.fmt
  · have hnew := newCells_some (l := gridCells o.fmt t o.shift as_ bs) (i := 64 * m + n)
      (v := (cellAfter o.fmt (t.cell (64 * m + n)) (as_.getD m []) (bs.getD (n - o.shift) [])).1)
      ⟨_, mem_gridCells.2 ⟨m, by omega, n - o.shift, by omega, rfl⟩, by dsimp only; omega⟩ (by
        intro c hc he
        obtain ⟨m', hm', n', hn', rfl⟩ := mem_gridCells.1 hc
        obtain ⟨rfl, rfl, -⟩ := hkey m' (ha ▸ hm') n' (hb ▸ hn') he
        dsimp only at he ⊢
        rw [he])
    have hout : ¬ (n < o.shift ∨ o.shift + fmtN o.fmt ≤ n) := by omega
    rw [if_pos hin, hnew]
    simp only [hmod, Bool.or_eq_true, decide_eq_true_eq, if_neg hout, Option.none_or]
    split <;> simp_all
  · have hnew : kfind (newCells (gridCells o.fmt t o.shift as_ bs)) (64 * m + n) = none := newCells_none fun c hc he => by
      obtain ⟨m', hm', n', hn', rfl⟩ := mem_gridCells.1 hc
      obtain ⟨rfl, rfl, hle⟩ := hkey m' (ha ▸ hm') n' (hb ▸ hn') he
      exact hin ⟨hle, by omega⟩
    have hout : n < o.shift ∨ o.shift + fmtN o.fmt ≤ n := by omega
    rw [if_neg hin, hnew]
    simp only [hmod, Bool.or_eq_true, decide_eq_true_eq, if_pos hout, Option.or_none]
    rfl

-- ## An MMA completes (R187, R199, R200, R305)

/-- A tile with other cells, in its team. -/
def Team.withCells (y : Team) (w : Word) (cells : KMap Nat (BitVec 40)) : Team :=
  { y with tiles := kput y.tiles (tileSlot w) { y.tile w with cells := cells } }

theorem withCells_tile (y : Team) (w : Word) (cells : KMap Nat (BitVec 40)) : (y.withCells w cells).tile w = { y.tile w with cells := cells } := by
  simp [Team.withCells, Team.tile]

/-- What an operation does to the rest of the machine before it writes its tile: it asks for what A lacks, and its bad bytes are recorded. -/
def State.readFor (s : State) (core : Nat) (mv : Mover) (o : MatOp) : State :=
  (s.aErrors mv o).foldl (fun s a => s.healthRecord 5 a core) (s.askForA mv o)

theorem readFor_residents (s : State) (core : Nat) (mv : Mover) (o : MatOp) : (s.readFor core mv o).residents = s.residents :=
  (foldl_residents (fun s a => healthRecord_residents s 5 a core) _ _).trans (askForA_residents s mv o)

/-- The answers that an operation waits for, and whether all of them were accepted. -/
def State.cameFor (s : State) (o : MatOp) : State × Bool := if o.cursor.near then (s, true) else s.takeAnswers o.team o.aTile.1 s.ev

theorem cameFor_residents (s : State) (o : MatOp) : (s.cameFor o).1.residents = s.residents := by
  unfold State.cameFor
  split
  · rfl
  · exact takeAnswers_residents s _ _ _

theorem team_of_residents {s t : State} (h : t.residents = s.residents) (u : TKey) : t.team u = s.team u := by
  rw [State.team, (residents_eq h).2.1, State.team]

theorem part_of_residents {s t : State} (h : t.residents = s.residents) (core q : Nat) : t.part core q = s.part core q := by
  rw [State.part, (residents_eq h).2.2, State.part]

/-- What an operation leaves is told of the state before as well, where that state has the same groups. -/
theorem MatOp.Ended.of_groups {o : MatOp} {s s' t : State} {core q : Nat} {rest : List MatOp} {old : Word} {st : Nat}
    (h : o.Ended s' t core q rest old st) (hg : s'.groups = s.groups) : o.Ended s t core q rest old st :=
  ⟨h.queue, h.tile, hg ▸ h.member⟩

section
variable {s : State} {o : MatOp} {rest : List MatOp}

/-- An operation that runs: of the queue's head, with its sources at hand. -/
theorem matrixOperationComplete_eq (hq : (s.part s.ev.core s.ev.part).matQ = o :: rest) (hw : s.opWaits s.ev.core o = false) (hstn : o.stn = none)
    (htar : o.tar.isSome) (hp : s.opPaused s.ev.core o = false) : exec .matrixOperationComplete s =
      if (s.cameFor o).2 = false then .next (s.cameFor o).1
      else
        let mv := (s.cameFor o).1.opMover s.ev.core o s.ev
        let r := (s.cameFor o).1.runOp mv o
        .next ((((s.cameFor o).1.readFor s.ev.core mv o).modTile o.team o.handle fun t => { t with cells := r.1.cells }).leaveQueue
          s.ev.core s.ev.part o r.2) := by
  rw [exec_matrixOperationComplete, execMatrixOperationComplete]
  obtain ⟨tar, htar⟩ := Option.isSome_iff_exists.1 htar
  simp only [hq, hstn, htar, hw, hp, Option.isSome_none, Option.isNone_some, Bool.or_false, Bool.false_eq_true, if_false, Bool.not_eq_true']
  rfl

/-- An operation of a team with a group left, where what came has left the groups, the teams and the partitions as they were, ends in its tile. -/
theorem ran_ended {s' : State} {y : Team} (hres : s'.residents = s.residents) {core q : Nat} (hq : (s.part core q).matQ = o :: rest)
    (hy : kfind s.teams o.team = some y) (hg : s.groupsOf o.team ≠ []) (cells : KMap Nat (BitVec 40)) (st : Nat) :
    let t := (s'.modTile o.team o.handle fun t => { t with cells := cells }).leaveQueue core q o st
    o.Ended s t core q rest (y.tile o.handle).status st ∧ kfind t.teams o.team = some ((y.withCells o.handle cells).marked o.handle st) := by
  have hy' : kfind s'.teams o.team = some y := (residents_eq hres).2.1 ▸ hy
  have hgroups : (s'.setTeam o.team (y.withCells o.handle cells)).groups = s.groups := (residents_eq hres).1
  have hq' : ((s'.setTeam o.team (y.withCells o.handle cells)).part core q).matQ = o :: rest := (part_of_residents hres core q).symm ▸ hq
  have hg' : (s'.setTeam o.team (y.withCells o.handle cells)).groupsOf o.team ≠ [] := (groupsOf_of_residents hres o.team).symm ▸ hg
  obtain ⟨hended, hteam⟩ := leaveQueue_ended hq' (kfind_kput_self _ _ _) hg' st
  rw [withCells_tile] at hended
  rw [modTile_found hy']
  exact ⟨hended.of_groups hgroups, hteam⟩

end

-- ## An STN completes (R209)

@[simp] theorem bytesOf_length (n x : Nat) : (bytesOf n x).length = n := by
  induction n generalizing x with
  | zero => rfl
  | succ n ih => simp [bytesOf, ih]

/-- In a run of pieces of one length, each element lies in its piece. -/
theorem flatMap_getElem? {α β : Type} {f : α → List β} {w : Nat} (hw : ∀ x, (f x).length = w) {l : List α} {j i : Nat} (hi : i < w) :
    (l.flatMap f)[w * j + i]? = l[j]?.bind fun x => (f x)[i]? := by
  induction l generalizing j with
  | nil => simp
  | cons x l ih =>
    cases j with
    | zero => simp [List.getElem?_append_left (show i < (f x).length by rwa [hw])]
    | succ j =>
      have hle : (f x).length ≤ w * (j + 1) + i := by rw [hw, Nat.mul_add]; omega
      have hsub : w * (j + 1) + i - (f x).length = w * j + i := by rw [hw, Nat.mul_add]; omega
      rw [List.flatMap_cons, List.getElem?_append_right hle, hsub, ih, List.getElem?_cons_succ]

theorem flatMap_length {α β : Type} {f : α → List β} {w : Nat} (hw : ∀ x, (f x).length = w) (l : List α) : (l.flatMap f).length = w * l.length := by
  simp [List.length_flatMap, hw, Nat.mul_comm]

/-- What an STN writes of a tile, row after row. -/
def Tile.stnBytesOf (t : Tile) (z : Nat) (fmt : Word) : List Byte := ((List.range 64).map (t.stnRow z fmt)).flatMap (·.1)

/-- The flags of all its cells. -/
def Tile.stnFlags (t : Tile) (z : Nat) (fmt : Word) : Flags := ((List.range 64).map (t.stnRow z fmt)).foldl (fun f r => f ||| r.2) 0#5

theorem stnBytesOf_eq (t : Tile) (z : Nat) (fmt : Word) :
    t.stnBytesOf z fmt = (List.range 64).flatMap fun m => (List.range 64).flatMap fun n =>
      bytesOf (stnBytes z) (stnCell z fmt (t.cell (64 * m + n))).1 := by
  simp only [Tile.stnBytesOf, Tile.stnRow, List.flatMap_map]

theorem stnRow_length (t : Tile) (z : Nat) (fmt : Word) (m : Nat) :
    ((List.range 64).flatMap fun n => bytesOf (stnBytes z) (stnCell z fmt (t.cell (64 * m + n))).1).length = stnBytes z * 64 := by
  rw [flatMap_length (fun _ => bytesOf_length _ _), List.length_range]

theorem stnBytesOf_length (t : Tile) (z : Nat) (fmt : Word) : (t.stnBytesOf z fmt).length = 4096 * stnBytes z := by
  rw [stnBytesOf_eq, flatMap_length (stnRow_length t z fmt), List.length_range]
  omega

/-- The bytes of cell (m, n) lie at its place. -/
theorem stnBytesOf_getElem? (t : Tile) (z : Nat) (fmt : Word) {m n i : Nat} (hm : m < 64) (hn : n < 64) (hi : i < stnBytes z) :
    (t.stnBytesOf z fmt)[stnBytes z * (64 * m + n) + i]? = (bytesOf (stnBytes z) (stnCell z fmt (t.cell (64 * m + n))).1)[i]? := by
  have hin : stnBytes z * n + i < stnBytes z * 64 := calc
    stnBytes z * n + i < stnBytes z * n + stnBytes z := Nat.add_lt_add_left hi _
    _ = stnBytes z * (n + 1) := rfl
    _ ≤ stnBytes z * 64 := Nat.mul_le_mul_left _ hn
  have hplace : stnBytes z * (64 * m + n) + i = stnBytes z * 64 * m + (stnBytes z * n + i) := by rw [Nat.mul_add, Nat.mul_assoc, Nat.add_assoc]
  rw [stnBytesOf_eq, hplace, flatMap_getElem? (stnRow_length t z fmt) hin, List.getElem?_range hm, Option.bind_some,
    flatMap_getElem? (fun _ => bytesOf_length _ _) hi, List.getElem?_range hn, Option.bind_some]

/-- Flags collected row by row are those collected in one pass. -/
theorem foldl_or_start {α : Type} (f : α → Flags) (l : List α) (a : Flags) :
    l.foldl (fun s x => s ||| f x) a = a ||| l.foldl (fun s x => s ||| f x) 0#5 := by
  induction l generalizing a with
  | nil => simp
  | cons x l ih => rw [List.foldl_cons, List.foldl_cons, ih, ih (0#5 ||| f x), BitVec.zero_or, BitVec.or_assoc]

theorem range_rows (r w : Nat) : List.range (w * r) = (List.range r).flatMap fun m => (List.range w).map fun n => w * m + n := by
  induction r with
  | zero => rfl
  | succ r ih => rw [Nat.mul_succ, List.range_add, ih, List.range_succ, List.flatMap_append]; simp

theorem stnFlags_eq (t : Tile) (z : Nat) (fmt : Word) :
    t.stnFlags z fmt = (List.range 4096).foldl (fun f i => f ||| (stnCell z fmt (t.cell i)).2) 0#5 := by
  rw [show 4096 = 64 * 64 from rfl, range_rows, List.foldl_flatMap, Tile.stnFlags, List.foldl_map]
  congr 1
  funext f m
  rw [foldl_or_start, List.foldl_map]
  simp only [Tile.stnRow, List.foldl_map]

/-- Bytes written to a team's scratchpad: its other bytes, its tiles, the groups and the partitions stay. -/
theorem rewriteSpad_found {s : State} {u : TKey} {y : Team} (hy : kfind s.teams u = some y) (at_ : Nat) (bs : List Byte) :
    ∃ y' : Team, kfind (s.rewriteSpad u at_ bs).teams u = some y' ∧ y'.spad = cellWrite y.spad at_ bs ∧ y'.tiles = y.tiles ∧
      (s.rewriteSpad u at_ bs).groups = s.groups ∧ (s.rewriteSpad u at_ bs).parts = s.parts := by
  have hwrite : kfind (s.nearWrite (.spad u at_) bs).teams u = some { y with spad := cellWrite y.spad at_ bs } := by
    have hy' : kfind (s.noteAt none (NearAt.spad u at_).place (s.nearRead (.spad u at_) bs.length)).teams u = some y := hy
    rw [State.nearWrite, modTeam_found hy']
    exact kfind_kput_self _ _ _
  have hgroups : (s.nearWrite (.spad u at_) bs).groups = s.groups := State.modTeam_groups _ _ _
  have hparts : (s.nearWrite (.spad u at_) bs).parts = s.parts := State.modTeam_parts _ _ _
  unfold State.rewriteSpad
  rw [modTeam_found hwrite]
  refine ⟨_, kfind_kput_self _ _ _, ?_, ?_, hgroups, hparts⟩
  · split <;> rfl
  · split <;> rfl

section
variable {s : State} {o : MatOp} {rest : List MatOp}

theorem accStnComplete_eq (hq : (s.part s.ev.core s.ev.part).matQ = o :: rest) (hw : s.opWaits s.ev.core o = false) {at_ z : Nat}
    (hstn : o.stn = some (at_, z)) : exec .accStnComplete s =
      let t := (s.team o.team).tile o.handle
      .next ((s.rewriteSpad o.team at_ (t.stnBytesOf z o.fmt)).leaveQueue s.ev.core s.ev.part o (256 * (t.stnFlags z o.fmt).toNat)) := by
  rw [exec_accStnComplete, execAccStnComplete]
  simp only [hq, hstn, hw, Bool.false_eq_true, if_false]
  rfl

/-- An STN of a team with a group left ends in its tile, and with its bytes in the team's scratchpad. -/
theorem stored_ended {y : Team} {core q : Nat} (hq : (s.part core q).matQ = o :: rest) (hy : kfind s.teams o.team = some y)
    (hg : s.groupsOf o.team ≠ []) (at_ : Nat) (bs : List Byte) (st : Nat) :
    let t := (s.rewriteSpad o.team at_ bs).leaveQueue core q o st
    o.Ended s t core q rest (y.tile o.handle).status st ∧
      ∀ x, kfind t.teams o.team = some x → x.spad = cellWrite y.spad at_ bs ∧ ∀ i, (x.tile o.handle).cell i = (y.tile o.handle).cell i := by
  obtain ⟨y', hy', hspad, htiles, hgroups, hparts⟩ := rewriteSpad_found hy at_ bs
  have hq' : ((s.rewriteSpad o.team at_ bs).part core q).matQ = o :: rest := by rwa [State.part, hparts]
  have hg' : (s.rewriteSpad o.team at_ bs).groupsOf o.team ≠ [] := by rwa [State.groupsOf, hgroups]
  have htile : y'.tile o.handle = y.tile o.handle := by rw [Team.tile, htiles, Team.tile]
  obtain ⟨hended, hteam⟩ := leaveQueue_ended hq' hy' hg' st
  rw [htile] at hended
  refine ⟨hended.of_groups hgroups, fun x hx => ?_⟩
  obtain rfl := Option.some.inj (hteam.symm.trans hx)
  exact ⟨hspad, fun i => by rw [marked_tile, htile]; rfl⟩

/-- A byte of a cell that an STN has written. -/
theorem stored_byte (spad : List Host.Cell) (t : Tile) (z : Nat) (fmt : Word) (at_ : Nat) {m n i : Nat} (hm : m < 64) (hn : n < 64)
    (hi : i < stnBytes z) : cellGet (cellWrite spad at_ (t.stnBytesOf z fmt)) (at_ + stnBytes z * (64 * m + n) + i) =
      (bytesOf (stnBytes z) (stnCell z fmt (t.cell (64 * m + n))).1).getD i 0#8 := by
  have hbyte := stnBytesOf_getElem? t z fmt hm hn hi
  have hsome : (bytesOf (stnBytes z) (stnCell z fmt (t.cell (64 * m + n))).1)[i]? ≠ none := by simpa using hi
  have hin : stnBytes z * (64 * m + n) + i < (t.stnBytesOf z fmt).length := not_le.1 fun hle => hsome (hbyte ▸ List.getElem?_eq_none hle)
  have hsub : at_ + stnBytes z * (64 * m + n) + i - at_ = stnBytes z * (64 * m + n) + i := by omega
  rw [cellGet_cellWrite, dif_pos ⟨by omega, by omega⟩, List.getD_eq_getElem?_getD, ← hbyte]
  simp [hsub, hin]

/-- A byte outside the range that an STN writes. -/
theorem stored_other (spad : List Host.Cell) (t : Tile) (z : Nat) (fmt : Word) {at_ j : Nat} (hj : j < at_ ∨ at_ + 4096 * stnBytes z ≤ j) :
    cellGet (cellWrite spad at_ (t.stnBytesOf z fmt)) j = cellGet spad j := by
  rw [cellGet_cellWrite, dif_neg (by rw [stnBytesOf_length]; omega)]

end

-- ## Operations start (R185), and what the completions come to

section
variable {s : State} {o : MatOp} {rest : List MatOp}

theorem matrixOperationStart_eq (hq : (s.part s.ev.core s.ev.part).matQ = o :: rest) (hw : s.opWaits s.ev.core o = false) (hstn : o.stn = none)
    (htar : o.tar = none) : exec .matrixOperationStart s = .next (s.modPart s.ev.core s.ev.part fun x =>
      { x with matQ := { o with tar := some (max 0x2000 (s.pair s.ev.core).tar) } :: rest }) := by
  rw [exec_matrixOperationStart, execMatrixOperationStart]
  simp only [hq, hstn, htar, hw, Option.isSome_none, Bool.or_false, Bool.false_eq_true, if_false]

end

/-- Settles O40: every completion leaves its queue in one way (`leaveQueue_ended`), what an operation asks of memory and the fabric leaves
groups, teams and partitions alone, and its values form a grid in which each cell has one place (`runOp_cell`, `stored_byte`). -/
theorem matrixWorkCompletes : Obligations.MatrixWorkCompletes := by
  intro s o rest core q hq hw tile ends
  refine ⟨fun hstn htar => matrixOperationStart_eq hq hw hstn htar, fun hstn htar hp hteam hg hhalf => ?_, fun at_ z hstn hteam hg => ?_⟩
  · obtain ⟨y, hy⟩ := Option.isSome_iff_exists.1 hteam
    intro came
    have hres : came.1.residents = s.residents := cameFor_residents s o
    have hexec := matrixOperationComplete_eq hq hw hstn htar hp
    refine ⟨fun hno => hexec.trans (if_pos hno), fun hyes => ?_⟩
    intro mv k shift
    have htile : (came.1.team o.team).tile o.handle = tile := by rw [team_of_residents hres]
    obtain ⟨⟨hqueue, hstatus, hmember⟩, hleft⟩ := ran_ended ((readFor_residents came.1 core mv o).trans hres) hq hy hg
      (came.1.runOp mv o).1.cells (came.1.runOp mv o).2
    have hold : y.tile o.handle = tile := by rw [← team_found hy]
    refine ⟨_, hexec.trans (if_neg fun hno => Bool.noConfusion (hyes.symm.trans hno)), ⟨hqueue, hold ▸ hstatus, hmember⟩, fun x hx m hm n hn => ?_⟩
    obtain rfl := Option.some.inj (hleft.symm.trans hx)
    rw [marked_tile, withCells_tile]
    exact (runOp_cell came.1 mv hhalf hm hn).trans (by rw [htile]; rfl)
  · obtain ⟨y, hy⟩ := Option.isSome_iff_exists.1 hteam
    have hold : y.tile o.handle = tile := by rw [← team_found hy]
    obtain ⟨⟨hqueue, hstatus, hmember⟩, hleft⟩ := stored_ended hq hy hg at_ (tile.stnBytesOf z o.fmt) (256 * (tile.stnFlags z o.fmt).toNat)
    rw [hold] at hstatus
    refine ⟨_, accStnComplete_eq hq hw hstn, ?_, fun x hx => ?_⟩
    · rw [← stnFlags_eq]
      exact ⟨hqueue, hstatus, hmember⟩
    · obtain ⟨hspad, hcells⟩ := hleft x hx
      refine ⟨hold ▸ hcells, fun j hj => ?_, fun m hm n hn i hi => ?_⟩
      · rw [hspad, stored_other _ _ _ _ hj, team_found hy]
      · rw [hspad, stored_byte _ _ _ _ _ hm hn hi]

end Sys2Proof.Machine

namespace Sys2Proof.Machine

/-! The words of the special registers (R103): their fields, and the batch numbers that TDONE and MDONE give (R172, R200). -/

-- ## Fields of words

theorem loWord_eq_setWidth (v : DWord) : loWord v = v.setWidth 32 := by
  ext i hi
  simp [loWord]

/-- GANGV: the mask, the RVN above it and the valid bit do not overlap. -/
theorem gangWord_eq (g : Group) :
    g.gangWord = BitVec.ofNat 32 (g.gang.toNat + 2 ^ 24 * g.rvn.toNat + if g.gangOk then 2 ^ 31 else 0) := by
  have hgang := g.gang.isLt
  have hrvn := g.rvn.isLt
  have hlow : (g.rvn.setWidth 32 <<< 24 ||| g.gang.setWidth 32).toNat = 2 ^ 24 * g.rvn.toNat + g.gang.toNat := by
    rw [BitVec.toNat_or, BitVec.toNat_shiftLeft, BitVec.toNat_setWidth, BitVec.toNat_setWidth, Nat.shiftLeft_eq,
      Nat.mod_eq_of_lt (show g.rvn.toNat < 2 ^ 32 by omega), Nat.mod_eq_of_lt (show g.rvn.toNat * 2 ^ 24 < 2 ^ 32 by omega),
      Nat.mod_eq_of_lt (show g.gang.toNat < 2 ^ 32 by omega), Nat.mul_comm, ← Nat.two_pow_add_eq_or_of_lt hgang]
  apply BitVec.eq_of_toNat_eq
  rw [Group.gangWord, BitVec.or_assoc, BitVec.toNat_or, hlow, BitVec.toNat_ofNat]
  split
  · refine (Nat.two_pow_add_eq_or_of_lt (i := 31) (show 2 ^ 24 * g.rvn.toNat + g.gang.toNat < 2 ^ 31 by omega) 1).symm.trans ?_
    omega
  · refine (Nat.zero_or _).trans ?_
    omega

/-- TDOM with the sealed bit above it. -/
theorem domainWord_eq (b : Bool) (d : BitVec 10) :
    (if b then 0x80000000#32 else 0#32) ||| d.setWidth 32 = BitVec.ofNat 32 (d.toNat + if b then 2 ^ 31 else 0) := by
  have hd := d.isLt
  apply BitVec.eq_of_toNat_eq
  rw [BitVec.toNat_or, BitVec.toNat_setWidth, BitVec.toNat_ofNat, Nat.mod_eq_of_lt (show d.toNat < 2 ^ 32 by omega)]
  cases b
  · refine (Nat.zero_or _).trans ?_
    simp
    omega
  · refine (Nat.two_pow_add_eq_or_of_lt (i := 31) (show d.toNat < 2 ^ 31 by omega) 1).symm.trans ?_
    simp
    omega

/-- Three flags, each a bit of its own. -/
theorem licence_eq (s : State) (c : Nat) : s.licence c = BitVec.ofNat 32 ((if (s.pair c).licence == some c then 2 ^ 0 else 0) +
    (if (s.pair c).wants.contains c then 2 ^ 1 else 0) + if (s.pair c).wants.contains (twinOf c) then 2 ^ 2 else 0) := by
  unfold State.licence
  simp only [beq_iff_eq]
  split <;> split <;> split <;> rfl

theorem bstat_eq (s : State) (c : Nat) : s.bstat c = BitVec.ofNat 32 ((if (s.pair c).realign == .deferred then 2 ^ 0 else 0) +
    (if (s.pair c).realign == .deferred then 2 ^ 1 else 0) + (if s.twinGated c then 2 ^ 2 else 0) +
    (if (s.pair c).realign == .running then 2 ^ 3 else 0) + if s.noHolder c then 2 ^ 4 else 0) := by
  unfold State.bstat
  cases (s.pair c).realign <;> cases s.twinGated c <;> cases s.noHolder c <;> rfl

theorem ctxbase_eq (c : Core) : c.ctxbase = BitVec.ofNat 32 (2 ^ 16 * (c.ctx % 64) + match c.ctxPend with
    | none => 0
    | some m => 2 ^ 31 + 2 ^ 24 * (m % 64)) := by
  unfold Core.ctxbase
  cases c.ctxPend with
  | none => rfl
  | some m => exact congrArg (BitVec.ofNat 32) (Nat.add_comm (2 ^ 31 + 2 ^ 24 * (m % 64)) (2 ^ 16 * (c.ctx % 64)))

theorem modeWord_eq (m : Mode) : BitVec.ofNat 32 m.code = match m with
    | .user => 0#32
    | .supervisor => 1#32
    | .hypervisor => 2#32 := by
  cases m <;> rfl

theorem ofNat_mod_width (n : Nat) : BitVec.ofNat 32 n = BitVec.ofNat 32 (n % 2 ^ 32) := by
  apply BitVec.eq_of_toNat_eq
  simp

theorem noHolder_iff (s : State) (c : Nat) : s.noHolder c = true ↔
    (∀ u ∈ s.teams, u.2.core = twinOf c → u.2.gone = false → (s.record u.1).beam = false) ∧
      ∀ u ∈ s.saved, u.core = twinOf c → (s.record u.team).beam = false := by
  simp [State.noHolder, State.hasBeamTeam, and_assoc]

-- ## COREID (R2)

theorem core_place {is d by_ bx cy cx : Nat} (hd : d < 2) (hby : by_ < 4) (hbx : bx < 4) (hcy : cy < 4) (hcx : cx < 4) :
    let c := ((is * 2 + d) * 16 + (4 * by_ + bx)) * 16 + (4 * cy + cx)
    coreId c = BitVec.ofNat 32 (c + 2 ^ 16 * (4 * bx + cx) + 2 ^ 20 * (4 * by_ + cy)) ∧
      twinOf c = ((is * 2 + (1 - d)) * 16 + (4 * by_ + bx)) * 16 + (4 * cy + cx) := by
  intro c
  have hx : meshX c = 4 * bx + cx := by unfold meshX; omega
  have hy : meshY c = 4 * by_ + cy := by unfold meshY; omega
  refine ⟨by rw [coreId, hx, hy]; rfl, ?_⟩
  have hdeck : c / 256 % 2 = d := by omega
  unfold twinOf
  rw [hdeck]
  split <;> omega

-- ## TDONE and MDONE (R172, R200)

/-- Of two batches, the one further below a base; the first of equals. -/
def lowerBatch (base x y : Word) : Word := if (base - x).toNat < (base - y).toNat then y else x

theorem lowerBatch_mem (base x y : Word) : lowerBatch base x y = x ∨ lowerBatch base x y = y := by
  unfold lowerBatch
  split <;> simp

theorem lowerBatch_far (base x y : Word) :
    (base - x).toNat ≤ (base - lowerBatch base x y).toNat ∧ (base - y).toNat ≤ (base - lowerBatch base x y).toNat := by
  unfold lowerBatch
  split <;> omega

/-- Folding picks a listed batch than which none lies further below the base. -/
theorem foldl_lowerBatch (base : Word) (bs : List Word) : ∀ b, bs.foldl (lowerBatch base) b ∈ b :: bs ∧
    ∀ y ∈ b :: bs, (base - y).toNat ≤ (base - bs.foldl (lowerBatch base) b).toNat := by
  induction bs with
  | nil => simp
  | cons x bs ih =>
    intro b
    obtain ⟨hmem, hfar⟩ := ih (lowerBatch base b x)
    obtain ⟨hb, hx⟩ := lowerBatch_far base b x
    have hthis := hfar _ (List.mem_cons_self ..)
    rw [List.foldl_cons]
    refine ⟨?_, fun y hy => ?_⟩
    · rcases List.mem_cons.1 hmem with e | hmem
      · rw [e]
        rcases lowerBatch_mem base b x with e | e <;> simp [e]
      · simp [hmem]
    · rcases List.mem_cons.1 hy with rfl | hy
      · exact hb.trans hthis
      · rcases List.mem_cons.1 hy with rfl | hy
        · exact hx.trans hthis
        · exact hfar y (List.mem_cons_of_mem _ hy)

theorem batchDone_of_none {base : Word} {ws : List Word} (h : ∀ b ∈ ws, batchLe b base = false) : batchDone base ws = base := by
  have hnone : (ws.filter fun b => batchLe b base) = [] := List.filter_eq_nil_iff.2 fun b hb => by simp [h b hb]
  rw [batchDone, hnone]
  rfl

/-- The batch furthest below the base of those in flight is the first that is not complete. -/
theorem batchDone_of_lowest {base b : Word} {ws : List Word} (hb : b ∈ ws) (hle : batchLe b base = true)
    (h : ∀ y ∈ ws, batchLe y base = true → (base - y).toNat ≤ (base - b).toNat) : batchDone base ws = b - 1#32 := by
  have hin : b ∈ ws.filter fun b => batchLe b base := List.mem_filter.2 ⟨hb, hle⟩
  unfold batchDone
  cases hl : ws.filter fun b => batchLe b base with
  | nil => rw [hl] at hin; cases hin
  | cons x xs =>
    obtain ⟨hmem, hfar⟩ := foldl_lowerBatch base xs x
    rw [hl] at hin
    rw [← hl] at hmem
    obtain ⟨hws, hlow⟩ := List.mem_filter.1 hmem
    have hsame : (base - xs.foldl (lowerBatch base) x).toNat = (base - b).toNat := Nat.le_antisymm (h _ hws hlow) (hfar b hin)
    have heq : xs.foldl (lowerBatch base) x = b := by
      have e := BitVec.eq_of_toNat_eq hsame
      rwa [BitVec.sub_right_inj] at e
    exact congrArg (· - 1#32) heq

/-- What `batchDone` gives, where `inFlight` tells which batches at or below the base have work in flight. -/
theorem batchDone_spec {base : Word} {ws : List Word} {inFlight : Word → Prop}
    (h : ∀ b, inFlight b ↔ b ∈ ws ∧ (base - b).toNat < 2 ^ 31) :
    ((∀ b, ¬ inFlight b) → batchDone base ws = base) ∧
      ∀ b, inFlight b → (∀ b', inFlight b' → (base - b').toNat ≤ (base - b).toNat) → batchDone base ws = b - 1#32 := by
  refine ⟨fun hno => batchDone_of_none fun b hb => ?_, fun b hb hfar => ?_⟩
  · exact decide_eq_false fun hle => hno b ((h b).2 ⟨hb, hle⟩)
  · obtain ⟨hmem, hle⟩ := (h b).1 hb
    exact batchDone_of_lowest hmem (decide_eq_true hle) fun y hy hyle => hfar y ((h y).2 ⟨hy, of_decide_eq_true hyle⟩)

theorem mem_copyBatches {s : State} {k : GKey} {b : Word} :
    b ∈ s.copyBatches k ↔ ∃ y ∈ s.copies, y.key = k ∧ y.orphan = false ∧ y.batch = b := by
  simp [State.copyBatches, and_assoc]

theorem mem_matBatches {s : State} {k : GKey} {b : Word} : b ∈ s.matBatches k ↔
    ∃ u < 4, ∃ o ∈ (s.part (s.coreOf k) u).matQ, ∃ m ∈ o.members, m.key = k ∧ m.orphan = false ∧ m.batch = b := by
  simp only [State.matBatches, State.matOpsOn, List.mem_flatMap, List.mem_range, List.mem_map, List.mem_filter, Bool.and_eq_true,
    decide_eq_true_eq, Bool.not_eq_true']
  constructor
  · rintro ⟨o, ⟨u, hu, ho⟩, m, ⟨hm, hk, horphan⟩, rfl⟩
    exact ⟨u, hu, o, ho, m, hm, hk, horphan, rfl⟩
  · rintro ⟨u, hu, o, ho, m, hm, hk, horphan, rfl⟩
    exact ⟨o, ⟨u, hu, ho⟩, m, ⟨hm, hk, horphan⟩, rfl⟩

-- ## RSPEEK (R103)

theorem peek_of_none {g : Group} (h : g.stack.length ≤ (g.rspeek.extractLsb' 0 5).toNat) : g.peek = 0#32 := by
  rw [Group.peek, List.getElem?_eq_none h]

theorem peek_of_some {g : Group} {e : Entry} (h : g.stack[(g.rspeek.extractLsb' 0 5).toNat]? = some e) :
    g.peek = e.words.getD (g.rspeek.extractLsb' 5 2).toNat 0#32 := by
  rw [Group.peek, h]

/-- Settles O12: the words field by field, and TDONE and MDONE by the batch furthest below the committed one of those in flight. -/
theorem specialRegisterWords : Obligations.SpecialRegisterWords := by
  intro s k g p x word c q t r bit
  refine ⟨?_, noHolder_iff s c, ?_, ?_, fun h => peek_of_none h, fun e he => (peek_of_some he).trans ?_⟩
  · refine (Prod.forall (p := fun y => y ∈ _ → word y.1 = y.2)).1 ?_
    simp only [List.forall_mem_cons]
    refine ⟨rfl, rfl, rfl, rfl, rfl, rfl, rfl, rfl, rfl, rfl, rfl, rfl, rfl, ofNat_mod_width s.cycle, loWord_eq_setWidth t.shb, rfl, rfl, rfl, rfl,
      loWord_eq_setWidth t.ptb, rfl, domainWord_eq t.isSealed t.tdom, rfl, gangWord_eq g, licence_eq s c, rfl, bstat_eq s c, rfl,
      ctxbase_eq (s.core c), modeWord_eq g.mode, rfl, rfl, loWord_eq_setWidth _, rfl, rfl, rfl, rfl, rfl, rfl, loWord_eq_setWidth _, rfl, rfl, rfl,
      List.forall_mem_nil _⟩
  · intro is _ d hd by_ hby bx hbx cy hcy cx hcx hc
    have h := core_place (is := is) hd hby hbx hcy hcx
    rw [← hc] at h
    exact h
  · intro inT inM y hy
    simp only [List.mem_cons, List.not_mem_nil, or_false] at hy
    rcases hy with rfl | rfl
    · exact batchDone_spec fun b => and_congr_left fun _ => mem_copyBatches.symm
    · exact batchDone_spec fun b => and_congr_left fun _ => mem_matBatches.symm
  · have hsel := (g.rspeek.extractLsb' 5 2).isLt
    obtain ⟨kind, pc, mask, fmt⟩ := e
    dsimp only [State.view, Group.counted]
    generalize (g.rspeek.extractLsb' 5 2).toNat = i at hsel ⊢
    match i, hsel with
    | 0, _ => rfl
    | 1, _ => rfl
    | 2, _ => rfl
    | 3, _ =>
      cases kind with
      | mark => rfl
      | path st =>
        cases st with
        | ready => rfl
        | joined => rfl
        | suspended w => exact (by decide : 1#32 ||| 0x20#32 = 0x21#32)
      | trap m _ => cases m <;> rfl

end Sys2Proof.Machine

namespace Sys2Proof.Machine

/-! Lanes and masks (R6): a mask and the list of its lanes say the same. -/

theorem getLsbD_foldl_lanes (ls : List (Fin 32)) : ∀ (m : Word) (L : Fin 32),
    (ls.foldl (fun m L => m ||| (1#32 <<< L.val)) m).getLsbD L.val = (m.getLsbD L.val || decide (L ∈ ls)) := by
  induction ls with
  | nil => simp
  | cons M ls ih =>
    intro m L
    rw [List.foldl_cons, ih, BitVec.getLsbD_or, Bool.or_assoc]
    congr 1
    have hbit : (1#32 <<< M.val).getLsbD L.val = decide (L = M) := by revert L M; decide
    rw [hbit, ← Bool.decide_or]
    simp

theorem getLsbD_lanesMask (ls : List (Fin 32)) (L : Fin 32) : (lanesMask ls).getLsbD L.val = decide (L ∈ ls) := by
  rw [lanesMask, getLsbD_foldl_lanes]
  simp

/-- Two masks with the same lanes are the same. -/
theorem mask_ext {m n : Word} (h : ∀ L : Fin 32, m.getLsbD L.val = n.getLsbD L.val) : m = n :=
  BitVec.eq_of_getLsbD_eq fun i hi => h ⟨i, hi⟩

@[simp] theorem lanesMask_maskLanes (m : Word) : lanesMask (maskLanes m) = m :=
  mask_ext fun L => by rw [getLsbD_lanesMask, Bool.eq_iff_iff, decide_eq_true_eq, mem_maskLanes]

/-- The lanes of a mask that satisfy a test are those of the mask made of them. -/
@[simp] theorem maskLanes_lanesMask_filter (m : Word) (test : Fin 32 → Bool) :
    maskLanes (lanesMask ((maskLanes m).filter test)) = (maskLanes m).filter test := by
  have hlane : ∀ L : Fin 32, (lanesMask ((maskLanes m).filter test)).getLsbD L = (test L && m.getLsbD L) := fun L => by
    rw [Bool.eq_iff_iff, getLsbD_lanesMask, decide_eq_true_eq, List.mem_filter, mem_maskLanes, Bool.and_eq_true, and_comm]
  refine (List.filter_congr fun L _ => hlane L).trans ?_
  rw [maskLanes, List.filter_filter]

theorem lanesMask_filter_eq_zero {m : Word} {test : Fin 32 → Bool} :
    lanesMask ((maskLanes m).filter test) = 0#32 ↔ (maskLanes m).filter test = [] := by
  constructor
  · intro h
    rw [← maskLanes_lanesMask_filter, h]
    rfl
  · intro h
    rw [h]
    rfl

theorem lanesMask_filter_eq_self {m : Word} {test : Fin 32 → Bool} :
    lanesMask ((maskLanes m).filter test) = m ↔ (maskLanes m).filter test = maskLanes m := by
  constructor
  · intro h
    rw [← maskLanes_lanesMask_filter, h]
  · intro h
    rw [h, lanesMask_maskLanes]

/-- The other lanes of a mask are those that fail the test. -/
theorem and_not_lanesMask_filter (m : Word) (test : Fin 32 → Bool) :
    m &&& ~~~lanesMask ((maskLanes m).filter test) = lanesMask ((maskLanes m).filter fun L => !test L) := by
  refine mask_ext fun L => ?_
  rw [BitVec.getLsbD_and, BitVec.getLsbD_not, getLsbD_lanesMask, getLsbD_lanesMask]
  cases hm : m.getLsbD L.val <;> cases ht : test L <;> simp [mem_maskLanes, hm, ht, -BitVec.getLsbD_eq_getElem]

@[simp] theorem popcount_lanesMask_filter (m : Word) (test : Fin 32 → Bool) :
    popcount (lanesMask ((maskLanes m).filter test)) = ((maskLanes m).filter test).length := by
  rw [popcount, maskLanes_lanesMask_filter]

@[simp] theorem lowestLane_lanesMask_filter (m : Word) (test : Fin 32 → Bool) :
    lowestLane (lanesMask ((maskLanes m).filter test)) = ((maskLanes m).filter test).headD 0 := by
  rw [lowestLane, maskLanes_lanesMask_filter]

theorem eq_zero_of_popcount {m : Word} (h : popcount m = 0) : m = 0#32 := by
  rw [← lanesMask_maskLanes m, List.length_eq_zero_iff.1 h]
  rfl

/-- A group with an active lane takes a beat (R64). -/
theorem beats_pos {g : Group} {f : Form} {m : Word} (h : m ≠ 0#32) (hf : f.factor = 1) : 1 ≤ beats g f m := by
  have hhalf : popcount (m &&& 0x0000FFFF#32) ≠ 0 ∨ popcount (m &&& 0xFFFF0000#32) ≠ 0 := by
    by_contra hnone
    obtain ⟨hlow, hhigh⟩ := not_or.1 hnone
    refine h ?_
    calc m = m &&& (0x0000FFFF#32 ||| 0xFFFF0000#32) := (BitVec.and_allOnes (x := m)).symm
      _ = (m &&& 0x0000FFFF#32) ||| (m &&& 0xFFFF0000#32) := BitVec.and_or_distrib_left
      _ = 0#32 := by rw [eq_zero_of_popcount (not_not.1 hlow), eq_zero_of_popcount (not_not.1 hhigh)]; rfl
  unfold beats
  rw [hf]
  dsimp only
  split <;> omega

/-- An instruction without sources takes one beat at least. -/
theorem beats_pos_of_no_reads {g : Group} {f : Form} (m : Word) (hf : f.factor = 1) (hr : f.reads = []) : 1 ≤ beats g f m := by
  simp [beats, hf, hr]

end Sys2Proof.Machine

namespace Sys2Proof.Machine

/-! Instructions that set the path of their group themselves, in the terms of `Becomes` (R64 to R66, R76, R77). -/

-- ## What issue counts

/-- A group without what the order of issue and the register cache keep of it. -/
def Group.bare (g : Group) : Group :=
  { g with cached := [], quantum := 0, runLen := 0, exempt := none, lastIssue := 0, unready := none, step := false }

/-- Two groups that differ at most in what `Group.bare` leaves out. -/
def Group.Alike (g q : Group) : Prop := g.bare = q.bare

theorem Group.Alike.trans {g q h : Group} (a : g.Alike q) (b : q.Alike h) : g.Alike h := Eq.trans a b

/-- What does not depend on those parts is the same in groups that are alike. -/
theorem Group.Alike.same {α : Type} {g q : Group} (h : g.Alike q) (f : Group → α) (hf : ∀ x, f x.bare = f x) : f g = f q := by
  rw [← hf g, ← hf q, h]

/-- A change that does not depend on those parts keeps groups alike. -/
theorem Group.Alike.map {g q : Group} (h : g.Alike q) (f : Group → Group) (hf : ∀ x : Group, (f x.bare).bare = (f x).bare) : (f g).Alike (f q) :=
  h.same (fun x => (f x).bare) hf

theorem counted_alike (g : Group) (n : Nat) : (g.counted n).Alike g := rfl

theorem Group.Alike.restack {g q : Group} (h : g.Alike q) (st : List Entry) : ({ g with stack := st } : Group).Alike { q with stack := st } :=
  h.map (fun x : Group => { x with stack := st }) fun _ => rfl

theorem Group.Alike.write {g q : Group} (h : g.Alike q) (n : Nat) (m : Word) (v : Lanes Word) : (g.write n m v).Alike (q.write n m v) :=
  h.map (·.write n m v) fun _ => rfl

theorem rotate_bare (p : Path) (dest : Word) (g : Group) : (g.bare.rotate p dest).1.bare = (g.rotate p dest).1.bare := by
  unfold Group.rotate
  cases h : oldestReady g.stack <;> simp [Group.bare, h]

theorem moved_bare (p : Path) (dest : Word) (rotates : Bool) (g : Group) : (g.bare.moved p dest rotates).bare = (g.moved p dest rotates).bare := by
  cases rotates
  · rfl
  · exact rotate_bare p dest g

theorem takeOldest_bare (g : Group) : g.bare.takeOldest.bare = g.takeOldest.bare := by
  unfold Group.takeOldest
  cases h : oldestReady g.stack <;> simp [Group.bare, h]

theorem settleN_bare (n : Nat) : ∀ g : Group, (g.bare.settleN n).bare = (g.settleN n).bare := by
  induction n with
  | zero => exact takeOldest_bare
  | succ n ih =>
    intro g
    have hst : g.bare.stack = g.stack := rfl
    rw [Group.settleN, Group.settleN, hst]
    split
    · exact takeOldest_bare g
    · split
      · exact takeOldest_bare g
      · split
        · exact takeOldest_bare g
        · dsimp only
          split
          · rfl
          · rw [← ih, ← ih { g with stack := _ }]
            rfl

theorem settle_bare (g : Group) : g.bare.settle.bare = g.settle.bare := by
  rw [Group.settle, Group.settle, ← settleN_bare _ { g with cur := none }, ← settleN_bare]
  rfl

-- ## Forms without checks

/-- A form that names and reads registers, and demands nothing else. -/
def plainForm (names reads : List Nat) : Form := { names := names, reads := reads }

theorem ready_nil (s : State) (k : GKey) (g : Group) (p : Path) : Ready s k g p [] [] := by
  refine ⟨?_, by simp, fun _ => ?_⟩
  · simp [Group.waits]
  · simp [Group.early]

section
variable {s : State} {k : GKey} {g : Group} {p : Path}

theorem plain_checked {names reads : List Nat} {body : View → Res} (hr : Ready s k g p names reads) :
    (s.view k g p none).checked (plainForm names reads) body = body (s.view k g p none) :=
  checked_ok hr rfl rfl rfl (by simp [plainForm, Uniform]) (by simp [plainForm])

-- ## After the effect

/-- From `s` to `t` nothing changes but group `k`, which is then `q`, the clocks and the order of steps. -/
structure Sets (s t : State) (k : GKey) (q : Group) : Prop where
  found  : kfind t.groups k = some q
  rest   : t.rest = s.rest
  others : ∀ j, j ≠ k → kfind t.groups j = kfind s.groups j

theorem sets_setGroup (s : State) (k : GKey) (q : Group) : Sets s (s.setGroup k q) k q :=
  ⟨kfind_kput_self _ _ _, rfl, fun _ hj => kfind_kput_ne _ _ hj⟩

theorem sets_view (s : State) (k : GKey) (g : Group) (p : Path) (x : Pfx) : Sets s (s.view k g p x).s k (g.counted s.issued) :=
  ⟨view_found x, view_rest x, fun _ hj => view_others x hj⟩

theorem Sets.trans {s t u : State} {q q' : Group} (a : Sets s t k q) (b : Sets t u k q') : Sets s u k q' :=
  ⟨b.found, b.rest.trans a.rest, fun j hj => (b.others j hj).trans (a.others j hj)⟩

theorem Sets.setGroup {t : State} {q : Group} (a : Sets s t k q) (q' : Group) : Sets s (t.setGroup k q') k q' := a.trans (sets_setGroup t k q')

theorem Sets.modGroup {t : State} {q : Group} (a : Sets s t k q) (f : Group → Group) : Sets s (t.modGroup k f) k (f q) := by
  rw [modGroup_found a.found]
  exact a.setGroup (f q)

theorem Sets.cycle {t : State} {q : Group} (a : Sets s t k q) (n : Nat) : Sets s { t with cycle := n } k q := ⟨a.found, a.rest, a.others⟩

/-- The end of an instruction whose effect has made `g2` of its group, in the terms of a group alike. -/
theorem finish_becomes {s2 : State} {g2 q : Group} (hs : Sets s s2 k g2) (ha : g2.Alike q) (n : Nat) (ended : Bool) (g' : Group) :
    ∃ h, Becomes s ((s2.finish k n ended).stepped k g' false) k q h := by
  have hw : s2.slotW = s.slotW := (congrArg State.slotW hs.rest :)
  have l := (finish_light hs.found n ended).trans (light_stepped k _ g' false)
  obtain ⟨r, x, hx⟩ := l.own _ (kfind_kput_self _ _ _)
  refine ⟨_, hx, l.rest.trans hs.rest, fun j hj => ?_, ?_, ?_, ?_, ?_, ?_⟩
  · rw [l.others j hj, setGroup_groups, kfind_kput_ne _ _ hj]
    exact hs.others j hj
  · exact ha.same Group.rest fun _ => rfl
  · exact ha.same (·.cur) fun _ => rfl
  · exact ha.same (·.regs) fun _ => rfl
  · exact ha.same (·.aflags) fun _ => rfl
  · rw [hw, ← ha.same (·.pend) fun _ => rfl]
    rfl

@[simp] theorem sooner_runs (s : State) (ds : List Due) : (s.sooner ds).runs = s.runs := rfl

theorem endRun_not_running (s : State) (k : GKey) : k ∉ (s.endRun k).runs := by simp [State.endRun]

@[simp] theorem stepped_runs (s : State) (k : GKey) (g : Group) (b : Bool) : (s.stepped k g b).runs = s.runs := by
  unfold State.stepped
  split
  · cases b <;> simp
  · rfl

/-- Where the effect ends the run, the group has none. -/
theorem finish_ended_runs (s : State) (k : GKey) (n : Nat) : k ∉ (s.finish k n true).runs := by
  simp only [State.finish, Bool.or_true, if_true]
  split
  · exact endRun_not_running _ k
  · exact endRun_not_running _ k

/-- What a group does whose path goes on at `dest`. -/
theorem goOn_went (v : View) {s1 : State} {g1 : Group} (hk : kfind s1.groups v.k = some g1) (p1 : Path) (dest : Word) (rotates : Bool) (more : Nat) :
    ∃ s2 ended, v.goOn s1 p1 dest rotates more = .went s2 ended ∧ Sets s1 s2 v.k (g1.moved p1 dest rotates) := by
  unfold View.goOn
  dsimp only
  rw [group_found hk]
  cases rotates
  · refine ⟨_, _, rfl, ?_⟩
    rw [View.setPath, modGroup_found hk]
    split
    · exact sets_setGroup _ _ _
    · exact (sets_setGroup _ _ _).cycle _
  · refine ⟨_, _, rfl, ?_⟩
    split
    · exact sets_setGroup _ _ _
    · split
      · exact sets_setGroup _ _ _
      · exact (sets_setGroup _ _ _).cycle _

section
variable {names reads : List Nat} {body : View → Res} {s1 : State} {g1 q : Group}

/-- An instruction that completes, its path going on at the next one. -/
theorem plain_ok (hi : Issuing s k g p) (hr : Ready s k g p names reads) (hb : body (s.view k g p none) = .ok s1) (hs : Sets s s1 k g1)
    (ha : g1.Alike q) :
    ∃ t h, issue (fun _ => plainForm names reads) body s = .next t ∧ Becomes s t k { q with cur := some { p with pc := p.pc + 4#32 } } h := by
  obtain ⟨h, hbecomes⟩ := finish_becomes (hs.modGroup fun g => { g with cur := some { p with pc := p.pc + 4#32 } })
    (ha.map (fun x : Group => { x with cur := some { p with pc := p.pc + 4#32 } }) fun _ => rfl) (beats g (plainForm names reads) p.ex) false g
  exact ⟨_, h, issue_ok hi _ rfl hr.waits ((plain_checked hr).trans hb), hbecomes⟩

/-- An instruction that sets the path itself. -/
theorem plain_went (hi : Issuing s k g p) (hr : Ready s k g p names reads) {ended : Bool} (hb : body (s.view k g p none) = .went s1 ended)
    (hs : Sets s s1 k g1) (ha : g1.Alike q) :
    ∃ t h, issue (fun _ => plainForm names reads) body s = .next t ∧ Becomes s t k q h ∧ (ended = true → k ∉ t.runs) := by
  obtain ⟨h, hbecomes⟩ := finish_becomes hs ha (beats g (plainForm names reads) p.ex) ended g
  refine ⟨_, h, issue_went hi _ rfl hr.waits ended ((plain_checked hr).trans hb), hbecomes, ?_⟩
  rintro rfl
  rw [stepped_runs]
  exact finish_ended_runs _ _ _

/-- An instruction whose path, after a change of its group, goes on at `dest`. -/
theorem plain_goOn (hi : Issuing s k g p) (hr : Ready s k g p names reads) (hs : Sets s s1 k g1) (ha : g1.Alike q) (p1 : Path) (dest : Word)
    (rotates : Bool) (more : Nat) (hb : body (s.view k g p none) = (s.view k g p none).goOn s1 p1 dest rotates more) :
    ∃ t h, issue (fun _ => plainForm names reads) body s = .next t ∧ Becomes s t k (q.moved p1 dest rotates) h := by
  obtain ⟨s2, ended, he, hs2⟩ := goOn_went (s.view k g p none) (s1 := s1) hs.found p1 dest rotates more
  obtain ⟨t, h, ht, hbecomes, -⟩ := plain_went hi hr (hb.trans he) (hs.trans hs2) (ha.map (·.moved p1 dest rotates) (moved_bare p1 dest rotates))
  exact ⟨t, h, ht, hbecomes⟩

/-- An instruction that traps with all its lanes. -/
theorem plain_traps {i : Instr} (hexec : exec i s = issue (fun _ => plainForm names reads) body s) (hi : Issuing s k g p)
    (hr : Ready s k g p names reads) {r : TrapReq} (hsplit : r.split = false) (hbeats : reads = [] ∨ p.ex ≠ 0#32)
    (hb : body (s.view k g p none) = .trap r (s.view k g p none).s) : Traps i s k g p none r := by
  refine ⟨_, ?_, hexec.trans (issue_trap hi _ rfl hr.waits r (by simp [hsplit]) ((plain_checked hr).trans hb))⟩
  rcases hbeats with rfl | hex
  · exact beats_pos_of_no_reads _ rfl rfl
  · exact beats_pos hex rfl

end
end

end Sys2Proof.Machine

namespace Sys2Proof.Machine

/-! NOP, YIELD, votes and shuffles (R82, R90, R114). -/

section
variable {s : State} {k : GKey} {g : Group} {p : Path} {d a b : Reg}

theorem nop_becomes (hi : Issuing s k g p) :
    ∃ t h, exec .nop s = .next t ∧ Becomes s t k { g with cur := some { p with pc := p.pc + 4#32 } } h := by
  rw [exec_nop]
  exact plain_ok hi (ready_nil s k g p) rfl (sets_view s k g p none) (counted_alike g _)

theorem yield_becomes (hi : Issuing s k g p) :
    ∃ t h, exec .yield s = .next t ∧ Becomes s t k (g.rotate p (p.pc + 4#32)).1 h ∧ k ∉ t.runs := by
  have halike : ((g.counted s.issued).rotate p (p.pc + 4#32)).1.Alike (g.rotate p (p.pc + 4#32)).1 :=
    (counted_alike g s.issued).map (fun x => (x.rotate p (p.pc + 4#32)).1) (rotate_bare p _)
  obtain ⟨t, h, ht, hbecomes, hruns⟩ := plain_went hi (ready_nil s k g p)
    (body := fun v => .went (v.s.setGroup v.k (v.g.rotate v.p v.npc).1) true) rfl ((sets_view s k g p none).setGroup _) halike
  exact ⟨t, h, (exec_yield s).trans ht, hbecomes, hruns rfl⟩

-- ## Votes (R90)

/-- The active lanes in which a register of the window is not zero. -/
def Group.votes (g : Group) (p : Path) (r : Nat) : List (Fin 32) := (maskLanes p.ex).filter fun L => decide (g.seen r L ≠ 0#32)

theorem zeroLanes_view (x : Pfx) (r : Nat) :
    (s.view k g p x).zeroLanes r = lanesMask ((maskLanes p.ex).filter fun L => decide (g.seen r L = 0#32)) := rfl

theorem nonzeroLanes_view (x : Pfx) (r : Nat) : p.ex &&& ~~~(s.view k g p x).zeroLanes r = lanesMask (g.votes p r) := by
  rw [zeroLanes_view, and_not_lanesMask_filter]
  simp only [Group.votes, decide_not]

/-- A vote writes what it makes of the active lanes and of those that vote yes. -/
theorem vote_spec {i : Instr} {f : Word → Word → Word} {w : Word} (hexec : exec i s = vote d a f s) (hi : Issuing s k g p)
    (hr : Ready s k g p [d.toNat, a.toNat] [a.toNat]) (hw : f p.ex (lanesMask (g.votes p a.toNat)) = w) :
    ∃ t h, exec i s = .next t ∧ OnlyRegs s t k g h [g.wbasev + d.toNat] ∧ h.aflags = g.aflags ∧ GoesOn h p (p.pc + 4#32) ∧
      Writes g h p.ex (g.wbasev + d.toNat) fun _ => w := by
  obtain ⟨t, h, ht, honly, hflags, hon, hwrites⟩ := wr_spec (form := fun _ => plainForm [d.toNat, a.toNat] [a.toNat]) hi _ rfl hr rfl rfl rfl
    (by simp [plainForm, Uniform]) (by simp [plainForm]) d.toNat (uniformLanes w) (body := fun v =>
      .ok (v.wr v.s d.toNat (uniformLanes (f v.ex (v.ex &&& ~~~v.zeroLanes a.toNat)))))
    (by rw [← hw, ← nonzeroLanes_view (s := s) (k := k) none]; rfl)
  refine ⟨t, h, hexec.trans ht, honly, hflags, hon, fun L => ?_⟩
  simpa only [uniformLanes_get] using hwrites L

theorem votes_first (g : Group) (p : Path) (r : Nat) :
    (if lanesMask (g.votes p r) = 0#32 then 0xFFFFFFFF#32 else BitVec.ofNat 32 (lowestLane (lanesMask (g.votes p r))).val) =
      match g.votes p r with
      | [] => 0xFFFFFFFF#32
      | L :: _ => BitVec.ofNat 32 L.val := by
  unfold Group.votes
  rw [lowestLane_lanesMask_filter]
  simp only [lanesMask_filter_eq_zero]
  cases (maskLanes p.ex).filter fun L => decide (g.seen r L ≠ 0#32) <;> rfl

-- ## Shuffles (R114)

/-- What a lane of a shuffle receives: A in the lane that `src` gives, when that lane is active, else its own. -/
def Group.shuffled (g : Group) (p : Path) (src : Fin 32 → Word → Nat) (a b : Nat) (L : Fin 32) : Word :=
  let from_ := Fin.ofNat 32 (src L (g.seen b L))
  if p.ex.getLsbD from_ then g.seen a from_ else g.seen a L

theorem shuffle_spec {i : Instr} {src : Fin 32 → Word → Nat} (hexec : exec i s = shuffle src d a b s) (hi : Issuing s k g p)
    (hr : Ready s k g p [d.toNat, a.toNat, b.toNat] [a.toNat, b.toNat]) :
    ∃ t h, exec i s = .next t ∧ OnlyRegs s t k g h [g.wbasev + d.toNat] ∧ h.aflags = g.aflags ∧ GoesOn h p (p.pc + 4#32) ∧
      h.reg (g.wbasev + d.toNat) = g.reg (g.wbasev + d.toNat) ∧
      Sends h p.ex (g.wbasev + d.toNat) (some (6 - (1 + s.slotW.toNat))) (g.shuffled p src a.toNat b.toNat) fun _ => 0#5 := by
  obtain ⟨t, h, ht, honly, hflags, hon, hsends, hreg⟩ := fixed_spec
    (form := fun _ => plainForm [d.toNat, a.toNat, b.toNat] [a.toNat, b.toNat])
    (body := fun v => .ok (v.wrFixed v.s d.toNat 6 (lanesOf (v.g.shuffled v.p src a.toNat b.toNat))))
    hi _ rfl hr rfl rfl rfl (by simp [plainForm, Uniform]) (by simp [plainForm]) d.toNat 6 (g.shuffled p src a.toNat b.toNat) (uniformLanes 0#5) rfl
  refine ⟨t, h, hexec.trans ht, honly, hflags, hon, hreg, ?_⟩
  simpa only [uniformLanes_get] using hsends

end

/-- Settles O15: NOP and YIELD by what they make of the group, each vote by the mask of the lanes that vote yes, both shuffles by one lemma. -/
theorem votesShufflesAndNop : Obligations.VotesShufflesAndNop := by
  refine ⟨fun s k g p hi => ⟨nop_becomes hi, yield_becomes hi, fun d a hr => ?_⟩, fun s k g p hi d a b hr => ?_⟩
  · simp only [List.forall_mem_cons]
    refine ⟨vote_spec (exec_voteAny d a s) hi hr ?_, vote_spec (exec_voteAll d a s) hi hr ?_, vote_spec (exec_voteBallot d a s) hi hr rfl,
      vote_spec (exec_voteCount d a s) hi hr ?_, vote_spec (exec_voteFirst d a s) hi hr (votes_first g p a.toNat), List.forall_mem_nil _⟩
    · simp only [Group.votes, lanesMask_filter_eq_zero]
    · simp only [Group.votes, lanesMask_filter_eq_self]
    · exact congrArg _ (popcount_lanesMask_filter _ _)
  · simp only [List.forall_mem_cons]
    exact ⟨shuffle_spec (src := fun _ b => b.toNat % 32) (exec_shfl d a b s) hi hr,
      shuffle_spec (src := fun L b => Nat.xor L.val (b.toNat % 32)) (exec_shflx d a b s) hi hr, List.forall_mem_nil _⟩

end Sys2Proof.Machine

namespace Sys2Proof.Machine

/-! Branches, calls and jumps (R23, R77, R86 to R89). -/

theorem isBackward_eq (pc target : Word) : isBackward pc target = decide (target ≤ pc) := by simp [isBackward, BitVec.le_def]

section
variable {s : State} {k : GKey} {g : Group} {p : Path} {d a : Reg} {i : Instr} {names reads : List Nat} {body : View → Res}

/-- A branch of the whole path that is taken, after a change of its group. -/
theorem goTo_becomes (hi : Issuing s k g p) (hr : Ready s k g p names reads) {s1 : State} {g1 q : Group} (hs : Sets s s1 k g1) (ha : g1.Alike q)
    (p1 : Path) (target : Word) (hb : body (s.view k g p none) = (s.view k g p none).goTo s1 p1 target (isBackward p.pc target)) :
    ∃ t h, issue (fun _ => plainForm names reads) body s = .next t ∧ Becomes s t k (q.moved p1 target (decide (target ≤ p.pc))) h :=
  plain_goOn hi hr hs ha p1 target _ 2 (hb.trans (by rw [View.goTo, isBackward_eq]))

theorem bra_becomes (hi : Issuing s k g p) (j : BitVec 21) : let target := p.pc + 4#32 * j.signExtend 32
    ∃ t h, exec (.bra j) s = .next t ∧ Becomes s t k (g.moved p target (decide (target ≤ p.pc))) h := by
  intro target
  rw [exec_bra]
  exact goTo_becomes hi (ready_nil s k g p) (sets_view s k g p none) (counted_alike g _) p target rfl

theorem call_becomes (hi : Issuing s k g p) (hr : Ready s k g p [d.toNat] []) (j : BitVec 14) : let target := p.pc + 4#32 * j.signExtend 32
    ∃ t h, exec (.call d j) s = .next t ∧
      Becomes s t k ((g.write (g.wbasev + d.toNat) p.ex (uniformLanes (p.pc + 4#32))).moved p target (decide (target ≤ p.pc))) h := by
  intro target
  rw [exec_call]
  exact goTo_becomes hi hr ((sets_view s k g p none).modGroup _) ((counted_alike g _).write _ _ _) p target rfl

-- ## BRANY and BRALL (R88)

theorem zeroLanes_ne_active (x : Pfx) (r : Nat) :
    ((s.view k g p x).zeroLanes r != p.ex) = (maskLanes p.ex).any fun L => decide (g.seen r L ≠ 0#32) := by
  rw [zeroLanes_view, Bool.eq_iff_iff, bne_iff_ne, ne_eq, lanesMask_filter_eq_self, List.filter_eq_self]
  simp

theorem zeroLanes_none (x : Pfx) (r : Nat) :
    ((s.view k g p x).zeroLanes r == 0#32) = (maskLanes p.ex).all fun L => decide (g.seen r L ≠ 0#32) := by
  rw [zeroLanes_view, Bool.eq_iff_iff, beq_iff_eq, lanesMask_filter_eq_zero, List.filter_eq_nil_iff]
  simp

/-- A branch that takes the whole path or none of it. -/
theorem branchAll_becomes (hexec : exec i s = issue (fun _ => plainForm [d.toNat] [d.toNat]) body s) (hi : Issuing s k g p)
    (hr : Ready s k g p [d.toNat] [d.toNat]) (takes : Bool) (target : Word)
    (hb : body (s.view k g p none) = (s.view k g p none).branchAll takes target) :
    ∃ t h, exec i s = .next t ∧ Becomes s t k
      (if takes then g.moved p target (decide (target ≤ p.pc)) else { g with cur := some { p with pc := p.pc + 4#32 } }) h := by
  rw [hexec]
  cases takes
  · exact plain_ok hi hr hb (sets_view s k g p none) (counted_alike g _)
  · exact goTo_becomes hi hr (sets_view s k g p none) (counted_alike g _) p target hb

-- ## BRZ and BRNZ (R87)

/-- The outcomes of a branch that the lanes `taken` take to `target`. -/
structure Branches (i : Instr) (s : State) (k : GKey) (g : Group) (p : Path) (taken target : Word) : Prop where
  none_  : taken = 0#32 → ∃ t h, exec i s = .next t ∧ Becomes s t k { g with cur := some { p with pc := p.pc + 4#32 } } h
  all    : taken = p.ex → ∃ t h, exec i s = .next t ∧ Becomes s t k (g.moved p target (decide (target ≤ p.pc))) h
  splits : taken ≠ 0#32 → taken ≠ p.ex → g.used < 24 →
    ∃ t h, exec i s = .next t ∧
      Becomes s t k (({ g with stack := g.stack ++ [⟨.path .ready, target, taken, p.fmt⟩] } : Group).moved { p with ex := p.ex &&& ~~~taken }
        (p.pc + 4#32) (decide (target ≤ p.pc))) h
  full   : taken ≠ 0#32 → taken ≠ p.ex → 24 ≤ g.used → Traps i s k g p none { cause := .rsOverflow, lanes := p.ex }

theorem full_counted (g : Group) (n : Nat) : (g.counted n).full = decide (24 ≤ g.used) := rfl

theorem branch_spec (hexec : exec i s = issue (fun _ => plainForm [d.toNat] [d.toNat]) body s) (hi : Issuing s k g p) (hex : p.ex ≠ 0#32)
    (hr : Ready s k g p [d.toNat] [d.toNat]) {taken target : Word} (hb : body (s.view k g p none) = (s.view k g p none).branch taken target) :
    Branches i s k g p taken target := by
  have hfull : (s.view k g p none).g.full = decide (24 ≤ g.used) := full_counted g _
  refine ⟨fun h0 => ?_, fun hall => ?_, fun h0 hall hroom => ?_, fun h0 hall hroom => ?_⟩
  · rw [hexec]
    exact plain_ok hi hr (hb.trans (if_pos h0)) (sets_view s k g p none) (counted_alike g _)
  · rw [hexec]
    exact goTo_becomes hi hr (sets_view s k g p none) (counted_alike g _) p target
      (hb.trans ((if_neg (hall ▸ hex)).trans (if_pos hall)))
  · rw [hexec]
    have hsplit : (s.view k g p none).branch taken target = (s.view k g p none).goOn
        ((s.view k g p none).s.setGroup k { g.counted s.issued with stack := g.stack ++ [⟨.path .ready, target, taken, p.fmt⟩] })
        { p with ex := p.ex &&& ~~~taken } (p.pc + 4#32) (decide (target ≤ p.pc)) 0 := by
      rw [View.branch, if_neg h0, if_neg (show ¬ taken = (s.view k g p none).ex from hall), hfull, ← isBackward_eq,
        if_neg (by simpa using hroom)]
      rfl
    exact plain_goOn hi hr ((sets_view s k g p none).setGroup _) ((counted_alike g s.issued).restack _) _ _ _ 0 (hb.trans hsplit)
  · refine plain_traps hexec hi hr rfl (.inr hex) (hb.trans ?_)
    rw [View.branch, if_neg h0, if_neg (show ¬ taken = (s.view k g p none).ex from hall), hfull, if_pos (by simpa using hroom)]
    rfl

-- ## JMP and JMPL (R89)

/-- The active lanes whose target is misaligned. -/
def Group.astray (g : Group) (p : Path) (a : Nat) : List (Fin 32) := (maskLanes p.ex).filter fun L => decide ((g.seen a L).toNat % 4 ≠ 0)

/-- The same lanes, as a jump finds them. -/
def View.astray (v : View) (a : Nat) : Word := lanesMask ((maskLanes v.ex).filter fun L => (v.rd a)[L].toNat % 4 != 0)

theorem astray_view (x : Pfx) (r : Nat) : (s.view k g p x).astray r = lanesMask (g.astray p r) :=
  congrArg lanesMask (List.filter_congr fun L _ => (show ∀ n : Nat, (n != 0) = decide (n ≠ 0) by simp [bne, Bool.beq_eq_decide_eq]) ((g.seen r L).toNat % 4))

/-- The state with the link register of a JMPL written. -/
def View.linked (v : View) (link : Option Nat) : State := match link with
  | none => v.s
  | some d => v.wr v.s d (uniformLanes v.npc)

/-- The active lanes whose target is `u`. -/
def Group.lanesTo (g : Group) (p : Path) (a u : Nat) : Word := lanesMask ((maskLanes p.ex).filter fun L => (g.seen a L).toNat == u)

/-- The group with the link register of a JMPL written. -/
def Group.linked (g : Group) (p : Path) (link : Option Nat) : Group :=
  link.elim g fun d => g.write (g.wbasev + d) p.ex (uniformLanes (p.pc + 4#32))

/-- The outcomes of a jump to the targets in register `a`. -/
structure Jumps (i : Instr) (s : State) (k : GKey) (g q : Group) (p : Path) (a : Nat) : Prop where
  strays : ∀ L0 rest, g.astray p a = L0 :: rest →
    Traps i s k g p none { cause := .align, lanes := lanesMask (g.astray p a), addr := (g.seen a L0).setWidth 64 }
  goes : g.astray p a = [] → ∀ u0 us, rising ((maskLanes p.ex).map fun L => (g.seen a L).toNat) = u0 :: us →
    (g.used + us.length ≤ 24 →
      ∃ t h, exec i s = .next t ∧
        Becomes s t k (({ q with stack := g.stack ++ us.map fun u => ⟨.path .ready, BitVec.ofNat 32 u, g.lanesTo p a u, p.fmt⟩ } : Group).moved
          { p with ex := g.lanesTo p a u0 } (BitVec.ofNat 32 u0) (decide (u0 ≤ p.pc.toNat))) h) ∧
    (24 < g.used + us.length → Traps i s k g p none { cause := .rsOverflow, lanes := p.ex })

theorem active_of_astray {g : Group} {p : Path} {r : Nat} {L0 : Fin 32} {rest : List (Fin 32)} (h : g.astray p r = L0 :: rest) : p.ex ≠ 0#32 := by
  intro h0
  simp [Group.astray, h0, maskLanes] at h

theorem active_of_rising {m : Word} {f : Fin 32 → Nat} {u0 : Nat} {us : List Nat} (h : rising ((maskLanes m).map f) = u0 :: us) : m ≠ 0#32 := by
  rintro rfl
  simp [maskLanes, rising] at h

theorem sets_linked (s : State) (k : GKey) (g : Group) (p : Path) (link : Option Nat) :
    Sets s ((s.view k g p none).linked link) k ((g.counted s.issued).linked p link) := by
  cases link with
  | none => exact sets_view s k g p none
  | some d => exact (sets_view s k g p none).modGroup fun x => x.write (g.wbasev + d) p.ex (uniformLanes (p.pc + 4#32))

theorem linked_alike (g : Group) (n : Nat) (p : Path) (link : Option Nat) : ((g.counted n).linked p link).Alike (g.linked p link) := by
  cases link <;> rfl

theorem linked_stack (g : Group) (p : Path) (link : Option Nat) : (g.linked p link).stack = g.stack := by
  cases link <;> rfl

theorem jump_of_astray {v : View} {r : Nat} {link : Option Nat} (h : v.astray r ≠ 0#32) :
    v.jump r link = .trap { cause := .align, lanes := v.astray r, addr := (v.rd r)[lowestLane (v.astray r)].setWidth 64 } v.s :=
  if_pos h

theorem jump_of_aligned {v : View} {r : Nat} {link : Option Nat} {u0 : Nat} {us : List Nat} (h : v.astray r = 0#32)
    (hu : rising ((maskLanes v.ex).map fun L => (v.rd r)[L].toNat) = u0 :: us) :
    v.jump r link = if 24 < v.g.used + us.length then v.whole .rsOverflow
      else v.goTo ((v.linked link).modGroup v.k fun g => { g with
          stack := g.stack ++ us.map fun u => ⟨.path .ready, BitVec.ofNat 32 u, v.lanesAt (v.rd r) u, v.p.fmt⟩ })
        { v.p with ex := v.lanesAt (v.rd r) u0 } (BitVec.ofNat 32 u0) (decide (u0 ≤ v.p.pc.toNat)) := by
  unfold View.jump
  dsimp only
  rw [hu]
  exact if_neg (not_not.2 h)

theorem jump_spec {link : Option Nat} (hexec : exec i s = issue (fun _ => plainForm names [a.toNat]) (fun v => v.jump a.toNat link) s)
    (hi : Issuing s k g p) (hr : Ready s k g p names [a.toNat]) : Jumps i s k g (g.linked p link) p a.toNat := by
  have hstray := astray_view (s := s) (k := k) (g := g) (p := p) none a.toNat
  refine ⟨fun L0 rest hL0 => ?_, fun hnone u0 us hu => ?_⟩
  · refine plain_traps hexec hi hr rfl (.inr (active_of_astray hL0)) ?_
    have hne : lanesMask (g.astray p a.toNat) ≠ 0#32 := fun h0 => by
      rw [Group.astray, lanesMask_filter_eq_zero, ← Group.astray, hL0] at h0
      cases h0
    have hlow : lowestLane (lanesMask (g.astray p a.toNat)) = L0 := by
      rw [Group.astray, lowestLane_lanesMask_filter, ← Group.astray, hL0]
      rfl
    rw [jump_of_astray (hstray ▸ hne)]
    simp only [hstray, hlow]
    rfl
  · have halign : (s.view k g p none).astray a.toNat = 0#32 := by rw [hstray, hnone]; rfl
    have hjump := jump_of_aligned (link := link) halign hu
    refine ⟨fun hroom => ?_, fun hroom => ?_⟩
    · rw [hexec]
      have hstack := (linked_alike g s.issued p link).map
        (fun x : Group => { x with stack := x.stack ++ us.map fun u => ⟨.path .ready, BitVec.ofNat 32 u, g.lanesTo p a.toNat u, p.fmt⟩ }) fun _ => rfl
      simp only [linked_stack g] at hstack
      exact plain_goOn hi hr ((sets_linked s k g p link).modGroup _) hstack _ _ _ 2 (hjump.trans (if_neg (Nat.not_lt.2 hroom)))
    · exact plain_traps hexec hi hr rfl (.inr (active_of_rising hu)) (hjump.trans (if_pos hroom))

end

/-- Settles O16: branches of the whole path by `goTo_becomes`, BRZ and BRNZ by the lanes that they take, JMP and JMPL by `jump_spec`. -/
theorem branchesAndJumps : Obligations.BranchesAndJumps := by
  refine ⟨fun s k g p hi d i j => ?_, fun s k g p hi hex d j hr => ?_, fun s k g p hi d a hr hrl => ?_⟩
  · refine ⟨bra_becomes hi i, fun hr => call_becomes hi hr j, fun hr => ⟨?_, ?_⟩⟩
    · exact branchAll_becomes (exec_brany d j s) hi hr _ _ (by rw [← zeroLanes_ne_active (s := s) (k := k) none]; rfl)
    · exact branchAll_becomes (exec_brall d j s) hi hr _ _ (by rw [← zeroLanes_none (s := s) (k := k) none]; rfl)
  · intro target y hy taken
    have h : Branches y.1 s k g p taken target := by
      simp only [List.mem_cons, List.not_mem_nil, or_false] at hy
      rcases hy with rfl | rfl
      · exact branch_spec (exec_brz d j s) hi hex hr rfl
      · exact branch_spec (exec_brnz d j s) hi hex hr (congrArg (View.branch _ · target) (nonzeroLanes_view (s := s) (k := k) none d.toNat))
    exact ⟨h.none_, h.all, h.splits, h.full⟩
  · intro to_ bad lanes y hy
    have h : Jumps y.1 s k g y.2 p a.toNat := by
      simp only [List.mem_cons, List.not_mem_nil, or_false] at hy
      rcases hy with rfl | rfl
      · exact jump_spec (link := none) (exec_jmp a s) hi hr
      · exact jump_spec (link := some d.toNat) (exec_jmpl d a s) hi hrl
    exact ⟨h.strays, h.goes⟩

end Sys2Proof.Machine

namespace Sys2Proof.Machine

/-! MARK and JOIN (R84, R85). -/

theorem Group.Alike.settle {g q : Group} (h : g.Alike q) : g.settle.Alike q.settle := h.map Group.settle settle_bare

-- ## The topmost entry of a kind

theorem topIdx_eq_none {f : Entry → Bool} {st : List Entry} (h : ∀ e ∈ st, f e = false) : topIdx f st = none := by
  have hnone : (st.zipIdx.filter fun p => f p.1) = [] :=
    List.filter_eq_nil_iff.2 fun p hp => by simp [h p.1 (List.fst_mem_of_mem_zipIdx hp)]
  simp [topIdx, hnone]

theorem topIdx_eq_some {f : Entry → Bool} {below above : List Entry} {e : Entry} (he : f e = true) (h : ∀ x ∈ above, f x = false) :
    topIdx f (below ++ e :: above) = some below.length := by
  have hnone : ((above.zipIdx (below.length + 1)).filter fun p => f p.1) = [] :=
    List.filter_eq_nil_iff.2 fun p hp => by simp [h p.1 (List.fst_mem_of_mem_zipIdx hp)]
  simp [topIdx, List.zipIdx_append, List.zipIdx_cons, he, hnone]

theorem modify_at_length (below : List Entry) (e : Entry) (above : List Entry) (f : Entry → Entry) :
    (below ++ e :: above).modify below.length f = below ++ f e :: above := by
  induction below with
  | nil => rfl
  | cons x below ih => simp [ih]

section
variable {s : State} {k : GKey} {g : Group} {p : Path}

-- ## MARK (R85)

theorem full_view (x : Pfx) : (s.view k g p x).g.full = true ↔ 24 ≤ g.used := decide_eq_true_iff

/-- The effect of a MARK. -/
def View.mark (v : View) (i : BitVec 14) : Res :=
  if v.g.full then v.whole .rsOverflow
  else .ok (v.s.setGroup v.k { v.g with stack := v.g.stack ++ [⟨.mark, target14 v.p.pc i, v.ex, v.p.fmt⟩] })

theorem exec_mark_eq (i : BitVec 14) (s : State) : exec (.mark i) s = issue (fun _ => plainForm [] []) (fun v => v.mark i) s := rfl

theorem mark_becomes (hi : Issuing s k g p) (i : BitVec 14) (hroom : g.used < 24) : ∃ t h, exec (.mark i) s = .next t ∧
    Becomes s t k { g with
      cur := some { p with pc := p.pc + 4#32 }
      stack := g.stack ++ [⟨.mark, p.pc + 4#32 * i.signExtend 32, p.ex, p.fmt⟩] } h := by
  have hb : (s.view k g p none).mark i = .ok ((s.view k g p none).s.setGroup k { g.counted s.issued with
      stack := g.stack ++ [⟨.mark, p.pc + 4#32 * i.signExtend 32, p.ex, p.fmt⟩] }) :=
    if_neg fun h => Nat.not_le.2 hroom ((full_view none).1 h)
  exact plain_ok (body := fun v => v.mark i) hi (ready_nil s k g p) hb ((sets_view s k g p none).setGroup _) ((counted_alike g s.issued).restack _)

theorem mark_traps (hi : Issuing s k g p) (i : BitVec 14) (hfull : 24 ≤ g.used) : Traps (.mark i) s k g p none { cause := .rsOverflow, lanes := p.ex } :=
  plain_traps (exec_mark_eq i s) hi (ready_nil s k g p) rfl (.inl rfl) (if_pos ((full_view none).2 hfull))

-- ## JOIN (R84)

/-- What a JOIN at its mark's rejoin PC does while lanes are still to come. -/
def View.joinLater (v : View) : Res := match topIdx (fun e => e.isJoined) (v.g.stack.drop (frameBase v.g.stack)) with
  | some j => .went (v.s.setGroup v.k (Group.settle { v.g with
      stack := v.g.stack.modify (j + frameBase v.g.stack) fun e => { e with mask := e.mask ||| v.ex } })) true
  | none => if v.g.full then v.whole .rsOverflow
      else .went (v.s.setGroup v.k (Group.settle { v.g with stack := v.g.stack ++ [⟨.path .joined, v.p.pc, v.ex, v.p.fmt⟩] })) true

/-- The effect of a JOIN whose innermost mark is `m`, at index `n`. -/
def View.joinAt (v : View) (n : Nat) (m : Entry) : Res :=
  if m.pc ≠ v.p.pc then .ok v.s
  else if v.ex ||| joinedMask v.g.stack = m.mask then
    .went (v.s.setGroup v.k { v.g with stack := v.g.stack.take n, cur := some ⟨v.npc, m.mask, m.fmt⟩, quantum := 0 }) false
  else v.joinLater

/-- The effect of a JOIN. -/
def View.join (v : View) : Res := match innermostMark v.g.stack with
  | none => .ok v.s
  | some n => match v.g.stack[n]? with
    | none => .ok v.s
    | some m => v.joinAt n m

theorem exec_join_eq (s : State) : exec .join s = issue (fun _ => plainForm [] []) View.join s := rfl

theorem join_eq_ok {v : View} (h : innermostMark v.g.stack = none) : v.join = .ok v.s := by simp only [View.join, h]

theorem join_eq_joinAt {v : View} {n : Nat} {m : Entry} (hn : innermostMark v.g.stack = some n) (hm : v.g.stack[n]? = some m) :
    v.join = v.joinAt n m := by simp only [View.join, hn, hm]

theorem join_without_mark (hi : Issuing s k g p) (hnone : innermostMark g.stack = none) :
    ∃ t h, exec .join s = .next t ∧ Becomes s t k { g with cur := some { p with pc := p.pc + 4#32 } } h := by
  rw [exec_join_eq]
  exact plain_ok hi (ready_nil s k g p) (join_eq_ok hnone) (sets_view s k g p none) (counted_alike g _)

section
variable {n : Nat} {m : Entry} (hi : Issuing s k g p) (hn : innermostMark g.stack = some n) (hm : g.stack[n]? = some m)
include hi hn hm

theorem join_elsewhere (hpc : m.pc ≠ p.pc) :
    ∃ t h, exec .join s = .next t ∧ Becomes s t k { g with cur := some { p with pc := p.pc + 4#32 } } h := by
  rw [exec_join_eq]
  exact plain_ok hi (ready_nil s k g p) ((join_eq_joinAt hn hm).trans (if_pos hpc)) (sets_view s k g p none) (counted_alike g _)

/-- The last lanes of a mark pop it, with all above it. -/
theorem join_completes (hpc : m.pc = p.pc) (hall : p.ex ||| joinedMask g.stack = m.mask) :
    ∃ t h, exec .join s = .next t ∧ Becomes s t k { g with stack := g.stack.take n, cur := some ⟨p.pc + 4#32, m.mask, m.fmt⟩ } h := by
  have hb : (s.view k g p none).join = _ := (join_eq_joinAt hn hm).trans ((if_neg (not_not.2 hpc)).trans (if_pos hall))
  obtain ⟨t, h, ht, hbecomes, -⟩ := plain_went hi (ready_nil s k g p) hb ((sets_view s k g p none).setGroup _)
    (q := { g with stack := g.stack.take n, cur := some ⟨p.pc + 4#32, m.mask, m.fmt⟩ }) rfl
  exact ⟨t, h, ht, hbecomes⟩

section
variable (hpc : m.pc = p.pc) (hpart : p.ex ||| joinedMask g.stack ≠ m.mask)
include hpc hpart

omit hi in
theorem join_view_later : (s.view k g p none).join = (s.view k g p none).joinLater :=
  (join_eq_joinAt hn hm).trans ((if_neg (not_not.2 hpc)).trans (if_neg hpart))

/-- Lanes that join first get an entry of their own. -/
theorem join_first (hnone : ∀ e ∈ g.stack.drop (frameBase g.stack), e.isJoined = false) :
    (g.used < 24 → ∃ t h, exec .join s = .next t ∧
      Becomes s t k (Group.settle { g with stack := g.stack ++ [⟨.path .joined, p.pc, p.ex, p.fmt⟩] }) h ∧ k ∉ t.runs) ∧
    (24 ≤ g.used → Traps .join s k g p none { cause := .rsOverflow, lanes := p.ex }) := by
  have htop : topIdx (fun e => e.isJoined) ((s.view k g p none).g.stack.drop (frameBase (s.view k g p none).g.stack)) = none :=
    topIdx_eq_none hnone
  have hb := join_view_later (s := s) (k := k) hn hm hpc hpart
  rw [View.joinLater, htop] at hb
  refine ⟨fun hroom => ?_, fun hfull => ?_⟩
  · have hwent := hb.trans (if_neg fun h => Nat.not_le.2 hroom ((full_view none).1 h))
    obtain ⟨t, h, ht, hbecomes, hruns⟩ := plain_went hi (ready_nil s k g p) hwent ((sets_view s k g p none).setGroup _)
      ((counted_alike g s.issued).restack _).settle
    exact ⟨t, h, ht, hbecomes, hruns rfl⟩
  · exact plain_traps (exec_join_eq s) hi (ready_nil s k g p) rfl (.inl rfl) (hb.trans (if_pos ((full_view none).2 hfull)))

/-- Later lanes go into the entry of those that have joined. -/
theorem join_more {below above : List Entry} {e : Entry} (hst : g.stack = below ++ e :: above) (he : e.isJoined = true)
    (habove : ∀ x ∈ above, x.isJoined = false) (hbase : frameBase g.stack ≤ below.length) : ∃ t h, exec .join s = .next t ∧
      Becomes s t k (Group.settle { g with stack := below ++ { e with mask := e.mask ||| p.ex } :: above }) h ∧ k ∉ t.runs := by
  have hst' : (s.view k g p none).g.stack = g.stack := rfl
  have htop : topIdx (fun e => e.isJoined) (g.stack.drop (frameBase g.stack)) = some (below.length - frameBase g.stack) := by
    rw [hst] at hbase ⊢
    rw [List.drop_append_of_le_length hbase, topIdx_eq_some he habove, List.length_drop]
  have hmodify : g.stack.modify (below.length - frameBase g.stack + frameBase g.stack) (fun e => { e with mask := e.mask ||| p.ex }) =
      below ++ { e with mask := e.mask ||| p.ex } :: above := by
    rw [Nat.sub_add_cancel hbase, hst, modify_at_length]
  have hb := join_view_later (s := s) (k := k) hn hm hpc hpart
  rw [View.joinLater, hst', htop] at hb
  dsimp only at hb
  rw [show (s.view k g p none).ex = p.ex from rfl, hmodify] at hb
  obtain ⟨t, h, ht, hbecomes, hruns⟩ := plain_went hi (ready_nil s k g p) hb ((sets_view s k g p none).setGroup _)
    ((counted_alike g s.issued).restack _).settle
  exact ⟨t, h, ht, hbecomes, hruns rfl⟩

end
end
end

end Sys2Proof.Machine

namespace Sys2Proof.Machine

/-! What the ends of lanes, groups and teams leave of memory and of the groups (R83, R92, R266, R278). -/

-- ## What barriers and join records leave of a group

/-- Of a group, the current path, the mode, the registers, what it has posted and what of it has failed, and its entries without their kinds. -/
abbrev Group.Shape := Option Path × Mode × KMap Nat RegVal × List PostedOp × List PFail × List (Word × Word × Word)

/-- What no barrier, no join record and no order of issue changes in a group. -/
def Group.shape (g : Group) : Group.Shape :=
  (g.cur, g.mode, g.regs, g.posted, g.pfail, g.stack.map fun e => (e.pc, e.mask, e.fmt))

theorem endWaits_shape (g : Group) (test : Wait → Bool) : (g.endWaits test).shape = g.shape := by
  simp only [Group.shape, Group.endWaits, List.map_map, Prod.mk.injEq, true_and]
  refine List.map_congr_left fun e _ => ?_
  simp only [Function.comp_apply]
  split
  · split <;> rfl
  · rfl

theorem setArrived_shape (g : Group) (which : Nat) (m : Word) : (g.setArrived which m).shape = g.shape := by
  unfold Group.setArrived
  split <;> rfl

/-- Memory with the writes on their way there, and the count of health records. -/
def State.store (s : State) : List Host.Cell × List PWrite × Word := (s.mem, s.writes, s.hlogt)

/-- The shape of a group that is there. -/
def State.shapeOf (s : State) (k : GKey) : Option Group.Shape := (kfind s.groups k).map Group.shape

/-- Both together. -/
def State.outline (s : State) (k : GKey) : (List Host.Cell × List PWrite × Word) × Option Group.Shape := (s.store, s.shapeOf k)

/-- A fold whose steps keep a part of the state keeps it. -/
theorem foldl_keeps {α β : Type} {π : State → β} {f : State → α → State} (h : ∀ s x, π (f s x) = π s) (l : List α) (s : State) :
    π (l.foldl f s) = π s := by
  induction l generalizing s with
  | nil => rfl
  | cons x l ih => exact (ih _).trans (h s x)

theorem ite_outline {c : Prop} [Decidable c] {a b : State} {k : GKey} {x : (List Host.Cell × List PWrite × Word) × Option Group.Shape}
    (ha : a.outline k = x) (hb : b.outline k = x) : (if c then a else b).outline k = x := by
  split
  · exact ha
  · exact hb

/-- A change of groups in their places that keeps shapes keeps them under every key. -/
theorem kfind_map_shape {f : GKey × Group → GKey × Group} (hkey : ∀ x, (f x).1 = x.1) (hshape : ∀ x, (f x).2.shape = x.2.shape)
    (m : KMap GKey Group) (k : GKey) : (kfind (m.map f) k).map Group.shape = (kfind m k).map Group.shape := by
  induction m with
  | nil => rfl
  | cons x m ih =>
    obtain ⟨j, g⟩ := x
    have hj : (f (j, g)).1 = j := hkey _
    simp only [List.map_cons, kfind, hj]
    split
    · exact congrArg some (hshape _)
    · exact ih

theorem modGroup_outline {f : Group → Group} (hf : ∀ g, (f g).shape = g.shape) (s : State) (k j : GKey) :
    (s.modGroup k f).outline j = s.outline j := by
  unfold State.modGroup
  cases hk : kfind s.groups k with
  | none => rfl
  | some g =>
    simp only [State.outline, State.store, State.shapeOf, State.setGroup, kfind_kput, Prod.mk.injEq, true_and]
    split
    · next h => simp [h, hk, hf]
    · rfl

theorem endWaitsIn_outline (s : State) (who : GKey → Bool) (test : Wait → Bool) (k : GKey) : (s.endWaitsIn who test).outline k = s.outline k := by
  refine congrArg (Prod.mk s.store) (kfind_map_shape (fun x => ?_) (fun x => ?_) s.groups k)
  · split <;> rfl
  · split
    · exact endWaits_shape _ _
    · rfl

-- ## Barriers (R266)

theorem openBarrier_outline (s : State) (t : TKey) (which : Nat) (k : GKey) : (s.openBarrier t which).outline k = s.outline k := by
  refine congrArg (Prod.mk s.store) (kfind_map_shape (fun x => ?_) (fun x => ?_) s.groups k)
  · split <;> rfl
  · split
    · exact (endWaits_shape _ _).trans (setArrived_shape _ _ _)
    · rfl

theorem modTeam_outline (s : State) (t : TKey) (f : Team → Team) (k : GKey) : (s.modTeam t f).outline k = s.outline k := by
  simp [State.outline, State.store, State.shapeOf]

theorem modGrid_outline (s : State) (n : Nat) (f : Grid → Grid) (k : GKey) : (s.modGrid n f).outline k = s.outline k := by
  simp [State.outline, State.store, State.shapeOf]

theorem checkTeamBarrier_outline (s : State) (t : TKey) (k : GKey) : (s.checkTeamBarrier t).outline k = s.outline k := by
  exact ite_outline ((openBarrier_outline _ _ _ _).trans (modTeam_outline _ _ _ _)) rfl

theorem checkClusterBarrier_outline (s : State) (t : TKey) (k : GKey) : (s.checkClusterBarrier t).outline k = s.outline k := by
  unfold State.checkClusterBarrier
  dsimp only
  split
  · exact foldl_keeps (π := fun s => s.outline k) (fun s u => (openBarrier_outline _ _ _ _).trans (modTeam_outline _ _ _ _)) _ s
  · rfl

theorem checkGridBarrier_outline (s : State) (slot : Nat) (k : GKey) : (s.checkGridBarrier slot).outline k = s.outline k := by
  unfold State.checkGridBarrier
  dsimp only
  split
  · rfl
  · split
    · exact (foldl_keeps (π := fun s => s.outline k) (fun s u => openBarrier_outline _ _ _ _) _ _).trans (modGrid_outline _ _ _ _)
    · rfl

theorem checkBarriers_outline (s : State) (t : TKey) (k : GKey) : (s.checkBarriers t).outline k = s.outline k := by
  rw [State.checkBarriers, checkGridBarrier_outline, checkClusterBarrier_outline, checkTeamBarrier_outline]

-- ## Teams (R92, R156, R194)

theorem releaseBeam_outline (s : State) (core : Nat) (k : GKey) : (s.releaseBeam core).outline k = s.outline k := by
  have emptied : ((List.range 4).foldl (fun s p => (s.modPart core p fun x => { x with fifo := [], doomed := x.transit.length }).modPart (twinOf core) p
      fun x => { x with returning := x.returning + (s.part core p).fifo.length }) s).outline k = s.outline k := by
    refine foldl_keeps (π := fun s => s.outline k) (fun s p => ?_) _ _
    rfl
  unfold State.releaseBeam
  dsimp only
  split
  · rfl
  · split
    · exact emptied
    · exact emptied

theorem dropLicence_outline (s : State) (core : Nat) (x : Team) (k : GKey) : (s.dropLicence core x).outline k = s.outline k := by
  unfold State.dropLicence
  split <;> rfl

theorem leaveTeam_outline (s : State) (t : TKey) (k : GKey) : (s.leaveTeam t).outline k = s.outline k := by
  unfold State.leaveTeam
  dsimp only
  rw [dropLicence_outline, releaseBeam_outline]
  refine (foldl_keeps (π := fun s => s.outline k) (fun s p => ?_) _ _).trans (modTeam_outline _ _ _ _)
  rfl

theorem releaseTeam_outline (s : State) (t : TKey) (k : GKey) : (s.releaseTeam t).outline k = s.outline k := by
  have unlisted : ({ s.leaveTeam t with teams := kdel (s.leaveTeam t).teams t } : State).outline k = s.outline k := leaveTeam_outline s t k
  have unbound : ∀ (u : State) b, ({ u with bounds := b } : State).outline k = u.outline k := fun _ _ => rfl
  unfold State.releaseTeam
  dsimp only
  rw [checkGridBarrier_outline, checkClusterBarrier_outline]
  refine ite_outline (unbound _ _ |>.trans ?_) ?_
  · exact (modGrid_outline _ _ _ _).trans (ite_outline rfl unlisted)
  · exact (modGrid_outline _ _ _ _).trans (ite_outline rfl unlisted)

theorem endTeamIfDone_outline (s : State) (t : TKey) (k : GKey) : (s.endTeamIfDone t).outline k = s.outline k := by
  have left : (if (s.team t).gone then s else s.leaveTeam t).outline k = s.outline k := ite_outline rfl (leaveTeam_outline _ _ _)
  unfold State.endTeamIfDone
  dsimp only
  refine ite_outline (ite_outline ?_ ((releaseTeam_outline _ _ _).trans ?_)) rfl
  · exact ite_outline left ((modTeam_outline _ _ _ _).trans left)
  · exact ite_outline left ((modTeam_outline _ _ _ _).trans left)

-- ## The end of an instruction

theorem endRun_outline (s : State) (k j : GKey) : (s.endRun k).outline j = s.outline j :=
  modGroup_outline (f := fun g => { g with runLen := 0 }) (fun _ => rfl) s k j

theorem stepped_outline (s : State) (k : GKey) (g : Group) (trapped : Bool) (j : GKey) : (s.stepped k g trapped).outline j = s.outline j := by
  unfold State.stepped
  split
  · cases trapped
    · exact modGroup_outline (f := fun g => { g with step := false }) (fun _ => rfl) s k j
    · exact modGroup_outline (f := fun g => { g with step := false }) (fun _ => rfl) s k j
  · rfl

theorem finish_outline (s : State) (k : GKey) (n : Nat) (ended : Bool) (j : GKey) : (s.finish k n ended).outline j = s.outline j := by
  have sooner : ∀ (u : State) ds, (u.sooner ds).outline j = u.outline j := fun _ _ => rfl
  have counted : ({ s.modGroup k fun g => g.count (1 + s.slotW.toNat) with cycle := s.cycle + n + s.slotW.toNat } : State).outline j = s.outline j :=
    modGroup_outline (f := fun g => g.count (1 + s.slotW.toNat)) (fun _ => rfl) s k j
  unfold State.finish
  dsimp only
  have ran : ∀ u : State, (if u.slotE || ended then u.endRun k
      else if (u.group k).runLen = 24 then u.sooner [⟨.runLimit, { key := k }⟩] else u).outline j = u.outline j :=
    fun u => ite_outline (endRun_outline u k j) (ite_outline rfl rfl)
  exact ite_outline ((sooner _ _).trans ((ran _).trans counted)) ((ran _).trans counted)

end Sys2Proof.Machine

namespace Sys2Proof.Machine

/-! EXIT and TEXIT (R83, R92, R278). -/

-- ## The groups as lanes end

theorem shapeOf_of_residents {s t : State} (h : t.residents = s.residents) (k : GKey) : t.shapeOf k = s.shapeOf k := by
  rw [State.shapeOf, State.shapeOf, (residents_eq h).1]

theorem shapeOf_of_outline {s t : State} {k : GKey} (h : t.outline k = s.outline k) : t.shapeOf k = s.shapeOf k := congrArg Prod.snd h

theorem store_of_outline {s t : State} {k : GKey} (h : t.outline k = s.outline k) : t.store = s.store := congrArg Prod.fst h

theorem rekeyLine_residents (s : State) (pa slot : Nat) : (s.rekeyLine pa slot).residents = s.residents := by
  have keyed : ∀ (u : State) x, ({ u with lineKeys := x } : State).residents = u.residents := fun _ _ => rfl
  unfold State.rekeyLine
  split
  · rfl
  · dsimp only
    rw [keyed]
    split
    · exact (propagate_residents _ _ : _)
    · rfl

theorem observe_residents (s : State) (core pa n : Nat) : (s.observe core pa n).residents = s.residents :=
  foldl_residents (fun s _ => widen_residents s _ _) _ _

/-- A read-modify-write at package scope, as it is performed. -/
theorem rmwWrite_pkg (s : State) (core : Nat) (self : Option GKey) (f : Frame) (bs : List Byte) : s.rmwWrite core 6 self f bs =
    (((s.observe core f.pa bs.length).rekeyLine f.pa f.key).noteOwn self f.pa bs).writeHome core self f.pa bs := by
  simp [State.rmwWrite]

theorem wakeLinked_shape (s : State) (slot : Nat) (wlink : Word) (test : Wait → Bool) (k : GKey) :
    (s.wakeLinked slot wlink test).shapeOf k = s.shapeOf k := by
  unfold State.wakeLinked
  split
  · rfl
  · exact shapeOf_of_outline (endWaitsIn_outline _ _ _ _)

theorem endTask_shape (s : State) (t : TKey) (j : DWord) (how : TaskEnd) (k : GKey) : (s.endTask t j how).shapeOf k = s.shapeOf k := by
  unfold State.endTask
  split
  · rfl
  · dsimp only
    split
    · rw [wakeLinked_shape, rmwWrite_pkg]
      apply shapeOf_of_residents
      rw [writeHome_residents, noteOwn_residents, rekeyLine_residents, observe_residents, observe_residents]
    · exact shapeOf_of_residents (healthRecord_residents _ _ _ _) _

theorem endTaskLanes_shape (s : State) (j : GKey) (lanes : Word) (how : TaskEnd) (k : GKey) :
    (s.endTaskLanes j lanes how).shapeOf k = s.shapeOf k :=
  (foldl_keeps (π := fun s => s.shapeOf k) (fun s _ => endTask_shape s _ _ how k) _ _).trans
    (shapeOf_of_outline (modGroup_outline (f := fun g => { g with tasks := g.tasks &&& ~~~(lanes &&& (s.group j).tasks) }) (fun _ => rfl) _ _ _))

theorem kput_of_kfind {κ α : Type} [DecidableEq κ] {m : KMap κ α} {k : κ} {x : α} (h : kfind m k = some x) : kput m k x = m := by
  induction m with
  | nil => cases h
  | cons p m ih =>
    obtain ⟨j, y⟩ := p
    by_cases hj : j = k
    · obtain rfl : y = x := by simpa [kfind, hj] using h
      simp [kput, hj]
    · simpa [kput, hj] using ih (by simpa [kfind, hj] using h)

/-- Without task lanes among them, no lane ends a task. -/
theorem endTaskLanes_eq_self {s : State} {k : GKey} {g : Group} (hk : kfind s.groups k = some g) {lanes : Word} (h : lanes &&& g.tasks = 0#32)
    (how : TaskEnd) : s.endTaskLanes k lanes how = s := by
  have hsame : ({ g with tasks := g.tasks &&& ~~~0#32 } : Group) = g := congrArg (fun m => ({ g with tasks := m } : Group)) BitVec.and_allOnes
  simp only [State.endTaskLanes, group_found hk, h, modGroup_found hk, hsame, State.setGroup, kput_of_kfind hk]
  rfl

-- ## A group's own lanes

/-- What the end of lanes leaves alone in a group: its registers, what it has posted and what of it has failed. -/
def Group.beyondLanes (g : Group) : KMap Nat RegVal × List PostedOp × List PFail := (g.regs, g.posted, g.pfail)

theorem takeOldest_beyondLanes (g : Group) : g.takeOldest.beyondLanes = g.beyondLanes := by
  unfold Group.takeOldest
  split <;> rfl

theorem settleN_beyondLanes (n : Nat) (g : Group) : (g.settleN n).beyondLanes = g.beyondLanes := by
  induction n generalizing g with
  | zero => exact takeOldest_beyondLanes g
  | succ n ih =>
    unfold Group.settleN
    split
    · exact takeOldest_beyondLanes g
    · split
      · exact takeOldest_beyondLanes g
      · split
        · exact takeOldest_beyondLanes g
        · dsimp only
          split
          · rfl
          · exact ih _

theorem popEmptyTraps_beyondLanes (n : Nat) (g : Group) : (g.popEmptyTraps n).beyondLanes = g.beyondLanes := by
  induction n generalizing g with
  | zero => rfl
  | succ n ih =>
    unfold Group.popEmptyTraps
    split
    · rfl
    · split
      · split
        · rfl
        · exact ih _
      · rfl

theorem exitLanes_beyondLanes (g : Group) (lanes : Word) : (g.exitLanes lanes).beyondLanes = g.beyondLanes :=
  (settleN_beyondLanes _ _).trans (popEmptyTraps_beyondLanes _ _)

theorem beyondLanes_of_shape {g q : Group} (h : g.shape = q.shape) : g.beyondLanes = q.beyondLanes :=
  Prod.ext (congrArg (·.2.2.1) h) (Prod.ext (congrArg (·.2.2.2.1) h) (congrArg (·.2.2.2.2.1) h))

-- ## A group retires (R92)

theorem trapAlone_store (s : State) (k : GKey) (p : Path) (npc : Word) (r : TrapReq) : (s.trapAlone k p npc r).store = s.store := by
  unfold State.trapAlone
  split
  · exact (store_of_outline (endRun_outline _ k k) :)
  · exact store_of_outline (endRun_outline s k k)

theorem emptyLatchN_store (n : Nat) (s : State) (k : GKey) (gang : GangId) (c : Cause) : (s.emptyLatchN n k gang c).store = s.store := by
  induction n generalizing s gang c with
  | zero => rfl
  | succ n ih =>
    unfold State.emptyLatchN
    dsimp only
    split
    · rfl
    · refine (foldl_keeps (π := State.store) (fun s h => ih s h _) _ _).trans ?_
      refine (foldl_keeps (π := State.store) (fun s a => ?_) _ _).trans rfl
      exact (store_of_outline (stepped_outline _ a.key _ _ a.key)).trans (trapAlone_store _ _ _ _ _)

theorem breakGang_store (s : State) (k : GKey) : (s.breakGang k).store = s.store :=
  foldl_keeps (π := State.store) (fun _ _ => emptyLatchN_store _ _ _ _ _) _ _

theorem leaveActive_store (s : State) (k : GKey) : (s.leaveActive k).store = s.store := by
  simp [State.leaveActive, State.store]

theorem healthRecord_hlogt (s : State) (kind addr core : Nat) : (s.healthRecord kind addr core).hlogt = s.hlogt + 1#32 := rfl

/-- The failures that a group which retires has not reported. -/
def Group.tells (g : Group) : Nat := g.pfail.length + (g.posted.filter fun q => q.fails ≠ []).length

theorem filter_fails (l : List PostedOp) : (l.filter fun q => !q.fails.isEmpty) = l.filter fun q => q.fails ≠ [] :=
  List.filter_congr fun q _ => by cases q.fails <;> rfl

/-- A state with a record of each of several failures. -/
def State.recorded {α : Type} (s : State) (addr : α → Nat) (core : Nat) (l : List α) : State :=
  l.foldl (fun s x => s.healthRecord 4 (addr x) core) s

theorem recorded_hlogt {α : Type} (addr : α → Nat) (core : Nat) (l : List α) (s : State) :
    (s.recorded addr core l).hlogt = s.hlogt + BitVec.ofNat 32 l.length := by
  induction l generalizing s with
  | nil => simp [State.recorded]
  | cons x l ih =>
    rw [State.recorded, List.foldl_cons]
    refine (ih _).trans ?_
    rw [healthRecord_hlogt, BitVec.add_assoc, List.length_cons, Nat.add_comm l.length, BitVec.ofNat_add]

/-- What a group that retires has told first. -/
def State.told (s : State) (k : GKey) : State :=
  ((s.breakGang k).recorded (·.offset.toNat) (s.coreOf k) (s.group k).pfail).recorded (·.off) (s.coreOf k)
    (((s.group k).posted.filter fun p => !p.fails.isEmpty).map fun p => lowestFail p.fails)

theorem told_hlogt (s : State) (k : GKey) : (s.told k).hlogt = s.hlogt + BitVec.ofNat 32 (s.group k).tells := by
  have hbroken : (s.breakGang k).hlogt = s.hlogt := congrArg (·.2.2) (breakGang_store s k)
  rw [State.told, recorded_hlogt, recorded_hlogt, hbroken, List.length_map, filter_fails, BitVec.add_assoc, ← BitVec.ofNat_add, Group.tells]

/-- With nothing to tell, memory is as it was. -/
theorem told_of_tells_eq_zero {s : State} {k : GKey} (h : (s.group k).tells = 0) : (s.told k).store = s.store := by
  have hpfail : (s.group k).pfail = [] := List.eq_nil_of_length_eq_zero (Nat.eq_zero_of_add_eq_zero_right h)
  have hposted : ((s.group k).posted.filter fun q => q.fails ≠ []) = [] := List.eq_nil_of_length_eq_zero (Nat.eq_zero_of_add_eq_zero_left h)
  rw [State.told, filter_fails, hposted, hpfail]
  exact breakGang_store s k

/-- The state that a group of a core has left for good. -/
def State.departed (s : State) (k : GKey) (core : Nat) : State :=
  (({ (s.leaveActive k).orphanWork k with groups := kdel s.groups k, runs := s.runs.filter (· ≠ k) } : State).dropCarry core (partOf k)).modCore core
    fun c => { c with allocQ := c.allocQ.filter (·.1 ≠ k) }

theorem departed_outline (s : State) (k : GKey) (core : Nat) : (s.departed k core).outline k = (s.store, none) := by
  have hgone : kfind (kdel s.groups k) k = none := by simp [kfind_kdel]
  exact Prod.ext (leaveActive_store s k) (congrArg (Option.map Group.shape) hgone)

theorem retireGroup_eq (s : State) (k : GKey) :
    s.retireGroup k = (((s.told k).departed k (s.coreOf k)).checkBarriers k.tkey).endTeamIfDone k.tkey := rfl

theorem retireGroup_outline (s : State) (k : GKey) : (s.retireGroup k).outline k = ((s.told k).store, none) := by
  rw [retireGroup_eq, endTeamIfDone_outline, checkBarriers_outline, departed_outline]

-- ## The lanes of the current path end

/-- The state in which the lanes have ended. -/
def State.endLanes (s : State) (k : GKey) (lanes : Word) : State :=
  let g := (s.group k).exitLanes lanes
  if g.live = 0#32 then (s.setGroup k g).retireGroup k else (s.setGroup k g).checkBarriers k.tkey

theorem exit_eq (v : View) (s : State) : v.exit s = .went (s.endLanes v.k v.ex) true := rfl

end Sys2Proof.Machine

namespace Sys2Proof.Machine

/-! The end of an EXIT or a TEXIT, as the obligation states it (R83, R92, R278). -/

theorem endLanes_retired {u : State} {k : GKey} {lanes : Word} (h : ((u.group k).exitLanes lanes).live = 0#32) :
    u.endLanes k lanes = (u.setGroup k ((u.group k).exitLanes lanes)).retireGroup k := if_pos h

theorem endLanes_left {u : State} {k : GKey} {lanes : Word} (h : ((u.group k).exitLanes lanes).live ≠ 0#32) :
    u.endLanes k lanes = (u.setGroup k ((u.group k).exitLanes lanes)).checkBarriers k.tkey := if_neg h

theorem setGroup_group (s : State) (k : GKey) (g : Group) : (s.setGroup k g).group k = g := by simp [State.group]

theorem tells_of_beyondLanes {g q : Group} (h : g.beyondLanes = q.beyondLanes) : g.tells = q.tells :=
  congrArg (fun x : KMap Nat RegVal × List PostedOp × List PFail => x.2.2.length + (x.2.1.filter fun q => q.fails ≠ []).length) h

section
variable {s t u : State} {k : GKey} {g : Group} {p : Path}

/-- What is left once a group without lanes has retired. -/
theorem retired_outcome {lanes : Word} (ht : t.outline k = (u.endLanes k lanes).outline k) (hg : (u.group k).beyondLanes = g.beyondLanes)
    (hlive : ((u.group k).exitLanes lanes).live = 0#32) :
    kfind t.groups k = none ∧ t.hlogt = u.hlogt + BitVec.ofNat 32 g.tells ∧ (g.tells = 0 → t.mem = u.mem ∧ t.writes = u.writes) := by
  set u1 := u.setGroup k ((u.group k).exitLanes lanes) with hu1
  rw [endLanes_retired hlive, ← hu1, retireGroup_outline] at ht
  have htells : (u1.group k).tells = g.tells := by
    rw [hu1, setGroup_group]
    exact tells_of_beyondLanes ((exitLanes_beyondLanes _ _).trans hg)
  have hstore : t.store = (u1.told k).store := congrArg Prod.fst ht
  refine ⟨Option.map_eq_none_iff.1 (congrArg Prod.snd ht), ?_, fun hnone => ?_⟩
  · rw [← htells]
    exact (congrArg (·.2.2) hstore).trans (told_hlogt u1 k)
  · have hkept : t.store = u.store := hstore.trans (told_of_tells_eq_zero (htells.trans hnone))
    exact ⟨congrArg (·.1) hkept, congrArg (·.2.1) hkept⟩

/-- What is left where lanes are. -/
theorem left_outcome {lanes : Word} (ht : t.outline k = (u.endLanes k lanes).outline k) (hg : (u.group k).beyondLanes = g.beyondLanes)
    (hlive : ((u.group k).exitLanes lanes).live ≠ 0#32) :
    t.mem = u.mem ∧ t.writes = u.writes ∧ ∃ h, kfind t.groups k = some h ∧ h.cur = ((u.group k).exitLanes lanes).cur ∧
      h.mode = ((u.group k).exitLanes lanes).mode ∧ h.regs = g.regs ∧
      h.stack.map (fun e => (e.pc, e.mask, e.fmt)) = ((u.group k).exitLanes lanes).stack.map fun e => (e.pc, e.mask, e.fmt) := by
  rw [endLanes_left hlive, checkBarriers_outline] at ht
  have hstore : t.store = u.store := congrArg Prod.fst ht
  have hfound : (kfind t.groups k).map Group.shape = some ((u.group k).exitLanes lanes).shape := by
    have hset : (u.setGroup k ((u.group k).exitLanes lanes)).shapeOf k = some ((u.group k).exitLanes lanes).shape :=
      congrArg (Option.map Group.shape) (kfind_kput_self _ _ _)
    exact (congrArg Prod.snd ht).trans hset
  obtain ⟨h, hk, hshape⟩ := Option.map_eq_some_iff.1 hfound
  have hregs : h.regs = g.regs := congrArg (·.1) ((beyondLanes_of_shape hshape).trans ((exitLanes_beyondLanes _ _).trans hg))
  exact ⟨congrArg (·.1) hstore, congrArg (·.2.1) hstore, h, hk, congrArg (·.1) hshape, congrArg (·.2.1) hshape, hregs,
    congrArg (·.2.2.2.2.2) hshape⟩

-- ## What an ending instruction waits for

theorem fenced_unheld {v : View} (h : v.g.fences = []) (m : MemKind) (body : View → Res) : v.fenced m body = body v := by
  simp [View.fenced, h]

theorem releaseBusy_of_no_rebuild {s : State} (h : s.rebuild = []) (core scope : Nat) : s.releaseBusy core scope = false := by
  simp [State.releaseBusy, State.dirBusy, h]

/-- Without fences and rebuilds, or without a task that ends, nothing is waited for. -/
theorem ending_eq (hu : g.tasks &&& p.ex ≠ 0#32 → Unheld s g) (body : View → Res) :
    (s.view k g p none).ending body = body (s.view k g p none) := by
  unfold View.ending
  split
  · rfl
  · next h =>
    obtain ⟨hfences, hrebuild⟩ := hu fun h' => h ((BitVec.and_comm _ _).trans h')
    have hbusy : (s.view k g p none).s.releaseBusy (s.view k g p none).core 6 = false := releaseBusy_of_no_rebuild hrebuild _ _
    rw [fenced_unheld hfences, hbusy]
    rfl

/-- An instruction whose effect ends the lanes of the current path in a state `u` made before. -/
theorem exec_ending_outline (hi : Issuing s k g p) {i : Instr} {made : View → State} (hu : g.tasks &&& p.ex ≠ 0#32 → Unheld s g)
    (hexec : exec i s = issue (fun _ => plainForm [] []) (fun v => v.ending fun v => v.exit (made v)) s) :
    ∃ t, exec i s = .next t ∧ t.outline k = ((made (s.view k g p none)).endLanes k p.ex).outline k := by
  have hb : (s.view k g p none).ending (fun v => v.exit (made v)) = .went ((made (s.view k g p none)).endLanes k p.ex) true :=
    (ending_eq hu _).trans (exit_eq _ _)
  have hr := ready_nil s k g p
  exact ⟨_, hexec.trans (issue_went hi _ rfl hr.waits true ((plain_checked hr).trans hb)),
    (stepped_outline _ _ _ _ _).trans (finish_outline _ _ _ _ _)⟩

/-- What the obligation says of an instruction that ends the lanes of the current path in `u`, in which their tasks have ended. -/
def EndsLanes (i : Instr) (s u : State) (k : GKey) (g : Group) (p : Path) : Prop :=
  let w := (u.group k).exitLanes p.ex
  ∃ t, exec i s = .next t ∧ (g.tasks &&& p.ex = 0#32 → u.mem = s.mem ∧ u.writes = s.writes) ∧
    (w.live = 0#32 → kfind t.groups k = none ∧ t.hlogt = u.hlogt + BitVec.ofNat 32 g.tells ∧ (g.tells = 0 → t.mem = u.mem ∧ t.writes = u.writes)) ∧
    (w.live ≠ 0#32 → t.mem = u.mem ∧ t.writes = u.writes ∧ ∃ h, kfind t.groups k = some h ∧ h.cur = w.cur ∧ h.mode = w.mode ∧
      h.regs = g.regs ∧ h.stack.map (fun e => (e.pc, e.mask, e.fmt)) = w.stack.map fun e => (e.pc, e.mask, e.fmt))

/-- It is enough that the ends of tasks keep the group's shape, and are nothing where no lane has a task. -/
theorem endsLanes (hi : Issuing s k g p) {i : Instr} {made : View → State} (hu : g.tasks &&& p.ex ≠ 0#32 → Unheld s g)
    (hexec : exec i s = issue (fun _ => plainForm [] []) (fun v => v.ending fun v => v.exit (made v)) s) (hmade : made (s.view k g p none) = u)
    (hshape : u.shapeOf k = (s.view k g p none).s.shapeOf k) (hidle : g.tasks &&& p.ex = 0#32 → u = (s.view k g p none).s) :
    EndsLanes i s u k g p := by
  obtain ⟨t, ht, hout⟩ := exec_ending_outline hi hu hexec
  rw [hmade] at hout
  have hfound : u.shapeOf k = some (g.counted s.issued).shape := hshape.trans (congrArg (Option.map Group.shape) (view_found none))
  obtain ⟨q, hq, hqshape⟩ := Option.map_eq_some_iff.1 hfound
  have hg : (u.group k).beyondLanes = g.beyondLanes := by
    rw [group_found hq]
    exact beyondLanes_of_shape hqshape
  refine ⟨t, ht, fun h => ?_, retired_outcome hout hg, left_outcome hout hg⟩
  rw [hidle h]
  exact ⟨rfl, rfl⟩

-- ## EXIT and TEXIT

/-- The tasks of the lanes in `a` have ended one way, then those of the lanes in `b` another way. -/
def State.endBoth (s : State) (k : GKey) (a : Word) (hows : TaskEnd × TaskEnd) (b : Word) : State :=
  (s.endTaskLanes k a hows.1).endTaskLanes k b hows.2

theorem endBoth_shape (s : State) (k : GKey) (a b : Word) (hows : TaskEnd × TaskEnd) : (s.endBoth k a hows b).shapeOf k = s.shapeOf k :=
  (endTaskLanes_shape _ _ _ _ _).trans (endTaskLanes_shape _ _ _ _ _)

theorem endBoth_eq_self {s : State} (hk : kfind s.groups k = some g) {a b : Word} (ha : a &&& g.tasks = 0#32) (hb : b &&& g.tasks = 0#32)
    (hows : TaskEnd × TaskEnd) : s.endBoth k a hows b = s := by
  rw [State.endBoth, endTaskLanes_eq_self hk ha, endTaskLanes_eq_self hk hb]

theorem and_and_eq_zero {a b : Word} (h : b &&& a = 0#32) (c : Word) : a &&& c &&& b = 0#32 := by
  rw [BitVec.and_assoc, BitVec.and_comm c, ← BitVec.and_assoc, BitVec.and_comm a, h, BitVec.zero_and]

theorem exec_exit_eq (s : State) : exec .exit s = issue (fun _ => plainForm [] []) (fun v => v.ending fun v => v.exit
    (v.s.endBoth v.k (v.ex &&& v.g.faultedLanes) (.faulted, .killed) (v.ex &&& ~~~v.g.faultedLanes))) s := rfl

theorem exec_texit_eq (s : State) : exec .texit s = issue (fun _ => plainForm [] []) (fun v => v.ending fun v => v.exit
    ((if v.ex &&& v.g.tasks &&& ~~~v.g.faultedLanes = 0#32 then v.s else v.s.release v.core 6).endBoth v.k
      (v.ex &&& v.g.tasks &&& ~~~v.g.faultedLanes) (.normal, .faulted) (v.ex &&& v.g.faultedLanes))) s := rfl

theorem release_residents (s : State) (core : Nat) : (s.release core 6).residents = s.residents := propagate_residents _ _

theorem exit_endsLanes (hi : Issuing s k g p) (hu : g.tasks &&& p.ex ≠ 0#32 → Unheld s g) : EndsLanes .exit s
    ((s.view k g p none).s.endBoth k (p.ex &&& g.faultedLanes) (.faulted, .killed) (p.ex &&& ~~~g.faultedLanes)) k g p :=
  endsLanes hi hu (exec_exit_eq s) rfl (endBoth_shape _ _ _ _ _) fun hidle =>
    endBoth_eq_self (view_found none) (and_and_eq_zero hidle _) (and_and_eq_zero hidle _) _

theorem texit_endsLanes (hi : Issuing s k g p) (hu : g.tasks &&& p.ex ≠ 0#32 → Unheld s g) : EndsLanes .texit s
    ((if p.ex &&& g.tasks &&& ~~~g.faultedLanes = 0#32 then (s.view k g p none).s else (s.view k g p none).s.release (s.coreOf k) 6).endBoth k
      (p.ex &&& g.tasks &&& ~~~g.faultedLanes) (.normal, .faulted) (p.ex &&& g.faultedLanes)) k g p := by
  refine endsLanes hi hu (exec_texit_eq s) rfl ((endBoth_shape _ _ _ _ _).trans ?_) fun hidle => ?_
  · split
    · rfl
    · exact shapeOf_of_residents (release_residents _ _) k
  · have hnormal : p.ex &&& g.tasks &&& ~~~g.faultedLanes = 0#32 := by rw [BitVec.and_comm p.ex, hidle, BitVec.zero_and]
    have hnone : p.ex &&& g.tasks &&& ~~~g.faultedLanes &&& g.tasks = 0#32 := by rw [hnormal, BitVec.zero_and]
    rw [if_pos hnormal]
    exact endBoth_eq_self (view_found none) hnone (and_and_eq_zero hidle _) _

end

end Sys2Proof.Machine

namespace Sys2Proof.Machine

/-! Memory byte by byte: the newest value of a byte, whether its write has come home or not (R219, R241). -/

-- ## A byte under writes

/-- A write covers the byte at `x`. -/
def PWrite.covers (w : PWrite) (x : Nat) : Prop := w.pa ≤ x ∧ x < w.pa + w.bytes.length

/-- What a write makes of the byte at `x`. -/
def PWrite.over (x : Nat) (b : Byte) (w : PWrite) : Byte := if w.pa ≤ x then w.bytes.getD (x - w.pa) b else b

theorem over_of_not_covers {x : Nat} {w : PWrite} (h : ¬ w.covers x) (b : Byte) : w.over x b = b := by
  unfold PWrite.over
  split
  · next hle =>
    have hlen : w.bytes.length ≤ x - w.pa := by
      unfold PWrite.covers at h
      omega
    rw [List.getD_eq_getElem?_getD, List.getElem?_eq_none hlen, Option.getD_none]
  · rfl

theorem foldl_over_of_not_covers {x : Nat} {ws : List PWrite} (h : ∀ w ∈ ws, ¬ w.covers x) (b : Byte) : ws.foldl (PWrite.over x) b = b := by
  induction ws with
  | nil => rfl
  | cons w ws ih =>
    rw [List.foldl_cons, over_of_not_covers (h w List.mem_cons_self)]
    exact ih fun y hy => h y (List.mem_cons_of_mem _ hy)

/-- Writes to one byte overlap. -/
theorem overlaps_of_covers {x : Nat} {w y : PWrite} (hw : w.covers x) (hy : y.covers x) : overlaps w.pa w.bytes.length y.pa y.bytes.length = true := by
  obtain ⟨hw1, hw2⟩ := hw
  obtain ⟨hy1, hy2⟩ := hy
  simp only [overlaps, Bool.and_eq_true, decide_eq_true_eq]
  omega

/-- Home, a write does to the byte there what it did on its way. -/
theorem cellGet_home (m : List Host.Cell) (w : PWrite) (x : Nat) : cellGet (cellWrite m w.pa w.bytes) x = w.over x (cellGet m x) := by
  rw [cellGet_cellWrite]
  unfold PWrite.over
  by_cases hle : w.pa ≤ x
  · by_cases hlt : x - w.pa < w.bytes.length <;> simp [hle, hlt]
  · simp [hle]

theorem cellGet_allHome (ws : List PWrite) (m : List Host.Cell) (x : Nat) :
    cellGet (ws.foldl (fun m w => cellWrite m w.pa w.bytes) m) x = ws.foldl (PWrite.over x) (cellGet m x) := by
  induction ws generalizing m with
  | nil => rfl
  | cons w ws ih => rw [List.foldl_cons, ih, cellGet_home, List.foldl_cons]

-- ## A read of the newest bytes

/-- A read of bytes is a read of each. -/
theorem overlay_map (pa n wpa : Nat) (ws : List Byte) (f : Nat → Byte) : overlay pa ((List.range n).map f) wpa ws =
    (List.range n).map fun i => if wpa ≤ pa + i then ws.getD (pa + i - wpa) (f i) else f i := by
  refine List.ext_getElem (by simp [overlay]) fun i h _ => ?_
  simp [overlay]

theorem not_covers_of_not_overlaps {pa n i : Nat} (hi : i < n) {w : PWrite} (h : overlaps pa n w.pa w.bytes.length = false) : ¬ w.covers (pa + i) := by
  rintro ⟨h1, h2⟩
  have : overlaps pa n w.pa w.bytes.length = true := by
    simp only [overlaps, Bool.and_eq_true, decide_eq_true_eq]
    omega
  simp [h] at this

theorem foldl_overlay (pa n : Nat) (ws : List PWrite) (f : Nat → Byte) :
    ws.foldl (fun bs w => if overlaps pa n w.pa w.bytes.length then overlay pa bs w.pa w.bytes else bs) ((List.range n).map f) =
      (List.range n).map fun i => ws.foldl (PWrite.over (pa + i)) (f i) := by
  induction ws generalizing f with
  | nil => rfl
  | cons w ws ih =>
    have hw : (if overlaps pa n w.pa w.bytes.length then overlay pa ((List.range n).map f) w.pa w.bytes else (List.range n).map f) =
        (List.range n).map fun i => w.over (pa + i) (f i) := by
      cases h : overlaps pa n w.pa w.bytes.length
      · exact List.map_congr_left fun i hi => (over_of_not_covers (not_covers_of_not_overlaps (List.mem_range.1 hi) h) _).symm
      · exact overlay_map pa n w.pa w.bytes f
    rw [List.foldl_cons, hw, ih]
    rfl

theorem newestRead_eq_foldl (s : State) (pa n : Nat) :
    s.newestRead pa n = (List.range n).map fun i => s.writes.foldl (PWrite.over (pa + i)) (cellGet s.mem (pa + i)) := by
  have hread : s.homeRead pa n = (List.range n).map fun i => cellGet s.mem (pa + i) :=
    List.ext_getElem (by simp [State.homeRead]) fun i h _ => by
      simp only [State.homeRead, List.getElem_map, List.getElem_range]
      exact cellRead_getElem (by simpa [State.homeRead] using h)
  rw [State.newestRead, hread, foldl_overlay]

theorem newest_eq_foldl (s : State) (x : Nat) : s.newest x = s.writes.foldl (PWrite.over x) (cellGet s.mem x) := by
  simp [State.newest, newestRead_eq_foldl]

theorem newestRead_eq (s : State) (pa n : Nat) : s.newestRead pa n = (List.range n).map fun i => s.newest (pa + i) := by
  rw [newestRead_eq_foldl]
  exact List.map_congr_left fun i _ => (newest_eq_foldl s _).symm

theorem newest_of_store {s t : State} (h : t.store = s.store) (x : Nat) : t.newest x = s.newest x := by
  rw [newest_eq_foldl, newest_eq_foldl, show t.mem = s.mem from congrArg (·.1) h, show t.writes = s.writes from congrArg (·.2.1) h]

-- ## Writes that go home, and writes that go on

/-- The writes that go home take nothing from those that stay. -/
theorem foldl_over_homeBound (test : PWrite → Bool) (x : Nat) (ws : List PWrite) (b : Byte) :
    (homeBound test ws).2.foldl (PWrite.over x) ((homeBound test ws).1.foldl (PWrite.over x) b) = ws.foldl (PWrite.over x) b := by
  induction ws generalizing b with
  | nil => rfl
  | cons w ws ih =>
    rw [List.foldl_cons, ← ih, homeBound]
    split
    · rfl
    · next hstays =>
      simp only [Bool.or_eq_true, not_or, Bool.not_eq_true, List.any_eq_false] at hstays
      rw [List.foldl_cons]
      refine congrArg (fun b => List.foldl (PWrite.over x) b _) ?_
      dsimp only
      by_cases hw : w.covers x
      · have hapart : ∀ y ∈ (homeBound test ws).1, ¬ y.covers x := fun y hy hc =>
          Bool.false_ne_true ((hstays.2 y hy).symm.trans (overlaps_of_covers hw hc))
        rw [foldl_over_of_not_covers hapart, foldl_over_of_not_covers hapart]
      · rw [over_of_not_covers hw, over_of_not_covers hw]

theorem arriveHome_mem (s : State) (w : PWrite) : (s.arriveHome w).mem = cellWrite s.mem w.pa w.bytes := by
  simp [State.arriveHome, State.homeWrite]

theorem foldl_arriveHome_mem (ws : List PWrite) (s : State) :
    (ws.foldl State.arriveHome s).mem = ws.foldl (fun m w => cellWrite m w.pa w.bytes) s.mem := by
  induction ws generalizing s with
  | nil => rfl
  | cons w ws ih => rw [List.foldl_cons, ih, arriveHome_mem, List.foldl_cons]

@[simp] theorem propagate_newest (s : State) (test : PWrite → Bool) (x : Nat) : (s.propagate test).newest x = s.newest x := by
  rw [newest_eq_foldl, newest_eq_foldl, propagate_writes, State.propagate, foldl_arriveHome_mem, cellGet_allHome, foldl_over_homeBound]

@[simp] theorem widen_newest (s : State) (id reach x : Nat) : (s.widen id reach).newest x = s.newest x := by
  unfold State.widen
  split
  · rfl
  · split
    · rfl
    · split
      · exact propagate_newest s _ x
      · rw [newest_eq_foldl, newest_eq_foldl]
        simp only [reachCopies_mem, noteWrite_mem, reachCopies_writes, noteWrite_writes, List.foldl_map]
        refine congrArg (fun f => List.foldl f _ _) (funext fun b => funext fun w => ?_)
        split <;> rfl

@[simp] theorem observe_newest (s : State) (core pa n x : Nat) : (s.observe core pa n).newest x = s.newest x :=
  foldl_keeps (π := fun s => s.newest x) (fun s _ => widen_newest s _ _ x) _ _

-- ## A write at its home

theorem newest_of_no_cover {s : State} {x : Nat} (h : ∀ w ∈ s.writes, ¬ w.covers x) : s.newest x = cellGet s.mem x := by
  rw [newest_eq_foldl, foldl_over_of_not_covers h]

/-- After the settling of a range no write to it is on its way. -/
theorem settleRange_no_cover (s : State) {pa n x : Nat} (hx : pa ≤ x ∧ x < pa + n) : ∀ w ∈ (s.settleRange pa n).writes, ¬ w.covers x := by
  intro w hw
  rw [State.settleRange, propagate_writes] at hw
  obtain ⟨i, rfl⟩ := Nat.exists_eq_add_of_le hx.1
  exact not_covers_of_not_overlaps (Nat.lt_of_add_lt_add_left hx.2) (homeBound_stays _ _ w hw)

/-- A write that is performed at its home at once is the newest there. -/
theorem writeHome_newest (s : State) (core : Nat) (self : Option GKey) (pa : Nat) (bs : List Byte) (x : Nat) :
    (s.writeHome core self pa bs).newest x = if h : pa ≤ x ∧ x - pa < bs.length then bs[x - pa]'h.2 else s.newest x := by
  have hmem : (s.writeHome core self pa bs).mem = cellWrite (s.settleRange pa bs.length).mem pa bs := by simp [State.writeHome]
  have hwrites : (s.writeHome core self pa bs).writes = (s.settleRange pa bs.length).writes := by simp [State.writeHome, State.cleanCopies]
  by_cases hx : pa ≤ x ∧ x - pa < bs.length
  · have hfree := settleRange_no_cover s (pa := pa) (n := bs.length) (x := x) (by omega)
    rw [newest_of_no_cover (hwrites ▸ hfree), hmem, cellGet_cellWrite, dif_pos hx, dif_pos hx]
  · rw [newest_eq_foldl, hmem, hwrites, cellGet_cellWrite, dif_neg hx, dif_neg hx, ← newest_eq_foldl]
    exact propagate_newest s _ x

end Sys2Proof.Machine

namespace Sys2Proof.Machine

/-! The join record after the end of a task (R278). -/

-- ## The keys of lines stay as a core observes what it has read

/-- The keys that lines were written under, and the generations of key slots (R366). -/
def State.tags (s : State) : KMap Nat (Nat × Nat) × KMap Nat Nat := (s.lineKeys, s.keyGen)

@[simp] theorem askRekey_tags (s : State) (dom : Nat) : (s.askRekey dom).tags = s.tags := by
  unfold State.askRekey
  split <;> rfl

@[simp] theorem send_tags (s : State) (peer dom home o : Nat) (b : Body) : (s.send peer dom home o b).tags = s.tags := by
  unfold State.send
  split
  · rfl
  · unfold State.sendNow
    dsimp only
    split
    · rfl
    · split
      · exact (askRekey_tags _ dom).trans rfl
      · rfl

@[simp] theorem pushLine_tags (s : State) (pa : Nat) : (s.pushLine pa).tags = s.tags := by
  refine foldl_keeps (fun s r => ?_) _ _
  split
  · rfl
  · refine foldl_keeps (fun s q => ?_) _ _
    exact send_tags s q _ _ _ _

@[simp] theorem noteWrite_tags (s : State) (pa core : Nat) (b a : Option Nat) (self : Option GKey) :
    (s.noteWrite pa core b a self).tags = s.tags := by
  have later : ∀ (u : State) ds, (u.later ds).tags = u.tags := fun _ _ => rfl
  unfold State.noteWrite
  dsimp only
  rw [later]
  split
  · exact pushLine_tags s pa
  · rfl

@[simp] theorem reachCopies_tags (s : State) (core base before after : Nat) : (s.reachCopies core base before after).tags = s.tags := by
  unfold State.reachCopies
  dsimp only
  split <;> rfl

@[simp] theorem recallHost_tags (s : State) (pa : Nat) : (s.recallHost pa).tags = s.tags := by
  unfold State.recallHost
  split <;> rfl

@[simp] theorem homeWrite_tags (s : State) (pa : Nat) (bs : List Byte) : (s.homeWrite pa bs).tags = s.tags := rfl
@[simp] theorem cleanCopies_tags (s : State) (base : Nat) : (s.cleanCopies base).tags = s.tags := rfl

@[simp] theorem arriveHome_tags (s : State) (w : PWrite) : (s.arriveHome w).tags = s.tags := by simp [State.arriveHome]

@[simp] theorem propagate_tags (s : State) (test : PWrite → Bool) : (s.propagate test).tags = s.tags := foldl_keeps arriveHome_tags _ _

@[simp] theorem widen_tags (s : State) (id reach : Nat) : (s.widen id reach).tags = s.tags := by
  unfold State.widen
  split
  · rfl
  · split
    · rfl
    · split
      · exact propagate_tags s _
      · rw [reachCopies_tags, noteWrite_tags]
        rfl

@[simp] theorem observe_tags (s : State) (core pa n : Nat) : (s.observe core pa n).tags = s.tags :=
  foldl_keeps (π := State.tags) (fun s _ => widen_tags s _ _) _ _

theorem wrongKey_of_tags {s t : State} (h : t.tags = s.tags) (pa slot : Nat) : t.wrongKey pa slot = s.wrongKey pa slot := by
  have hkeys : t.lineKeys = s.lineKeys := congrArg (·.1) h
  have hgen : t.keyGen = s.keyGen := congrArg (·.2) h
  simp only [State.wrongKey, State.keyTag, hkeys, hgen]

-- ## The write of a task's end

/-- A line under its own key keeps its bytes. -/
theorem rekeyLine_newest {s : State} {pa slot : Nat} (h : s.wrongKey pa slot = false) (x : Nat) : (s.rekeyLine pa slot).newest x = s.newest x := by
  unfold State.rekeyLine
  split
  · rfl
  · simp only [h, Bool.false_eq_true, if_false]
    rfl

/-- A read-modify-write at package scope of a line under its own key is the newest write to its bytes. -/
theorem rmwWrite_pkg_newest {s : State} {f : Frame} (h : s.wrongKey f.pa f.key = false) (core : Nat) (self : Option GKey) (bs : List Byte) (x : Nat) :
    (s.rmwWrite core 6 self f bs).newest x = if h : f.pa ≤ x ∧ x - f.pa < bs.length then bs[x - f.pa]'h.2 else s.newest x := by
  have hkey : (s.observe core f.pa bs.length).wrongKey f.pa f.key = false := (wrongKey_of_tags (observe_tags _ _ _ _) _ _).trans h
  have hbefore : (((s.observe core f.pa bs.length).rekeyLine f.pa f.key).noteOwn self f.pa bs).newest x = s.newest x :=
    (rekeyLine_newest hkey x).trans (observe_newest _ _ _ _ x)
  rw [rmwWrite_pkg, writeHome_newest, hbefore]

theorem wakeLinked_newest (s : State) (slot : Nat) (wlink : Word) (test : Wait → Bool) (x : Nat) :
    (s.wakeLinked slot wlink test).newest x = s.newest x := by
  unfold State.wakeLinked
  split
  · rfl
  · rfl

-- ## Numbers and bytes

theorem ofBytes_lt (bs : List Byte) : ofBytes bs < 256 ^ bs.length := by
  induction bs with
  | nil => simp [ofBytes]
  | cons b bs ih =>
    have hb := b.isLt
    rw [ofBytes, List.length_cons, Nat.pow_succ]
    omega

theorem ofBytes_append (as bs : List Byte) : ofBytes (as ++ bs) = ofBytes as + 256 ^ as.length * ofBytes bs := by
  induction as with
  | nil => simp [ofBytes]
  | cons a as ih => rw [List.cons_append, ofBytes, ih, ofBytes, List.length_cons, Nat.pow_succ]; ring

theorem ofBytes_bytesOf (n x : Nat) : ofBytes (bytesOf n x) = x % 256 ^ n := by
  induction n generalizing x with
  | zero => simp [bytesOf, ofBytes, Nat.mod_one]
  | succ n ih => rw [bytesOf, ofBytes, ih, BitVec.toNat_ofNat, pow_succ' 256, Nat.mod_mul]

-- ## The words of a join record (R278)

theorem joinAfter_lt (v : Nat) (how : TaskEnd) : joinAfter v how < 2 ^ 64 := by
  cases how <;> simp only [joinAfter, natBits, reduceCtorEq, if_false, if_true] <;> omega

/-- The fields of a join record of 16 bytes after the end of a task: one child less is pending, one more has faulted or been killed. -/
theorem joinAfter_fields (old : Nat) (how : TaskEnd) :
    let new := joinAfter (old % 2 ^ 64) how + 2 ^ 64 * (old / 2 ^ 64)
    new % 2 ^ 32 = (old + 2 ^ 32 - 1) % 2 ^ 32 ∧ new / 2 ^ 63 = old / 2 ^ 63 ∧
    new / 2 ^ 32 % 2 ^ 16 = (if how = .faulted then min (old / 2 ^ 32 % 2 ^ 16 + 1) 0xFFFF else old / 2 ^ 32 % 2 ^ 16) ∧
    new / 2 ^ 48 % 2 ^ 15 = if how = .killed then min (old / 2 ^ 48 % 2 ^ 15 + 1) 0x7FFF else old / 2 ^ 48 % 2 ^ 15 := by
  cases how <;> simp only [joinAfter, natBits, reduceCtorEq, if_false, if_true] <;> omega

section
variable {s : State} {t : TKey} {j : DWord} {f : Frame}

/-- The bytes that the end of a task writes. -/
def State.joinBytes (s : State) (f : Frame) (how : TaskEnd) : List Byte := bytesOf 8 (joinAfter (ofBytes (s.newestRead f.pa 16) % 2 ^ 64) how)

theorem endTask_newest (hj : j ≠ 0#64) (hf : s.access (s.team t).core (s.taskSpace t) j 16 .both = .ok f) (hkey : s.wrongKey f.pa f.key = false)
    (how : TaskEnd) (x : Nat) : (s.endTask t j how).newest x =
      if h : f.pa ≤ x ∧ x - f.pa < (s.joinBytes f how).length then (s.joinBytes f how)[x - f.pa]'h.2 else s.newest x := by
  have hread : s.rmwRead f 16 = s.newestRead f.pa 16 := by simp [State.rmwRead, hkey]
  have hobserved : (s.observe (s.team t).core f.pa 16).wrongKey f.pa f.key = false := (wrongKey_of_tags (observe_tags _ _ _ _) _ _).trans hkey
  rw [State.endTask, if_neg hj]
  simp only [hf, hread]
  rw [wakeLinked_newest, rmwWrite_pkg_newest hobserved, observe_newest]
  rfl

theorem joinBytes_length (how : TaskEnd) : (s.joinBytes f how).length = 8 := bytesOf_length _ _

/-- Outside the first eight bytes of the record memory is as it was. -/
theorem endTask_newest_outside (hj : j ≠ 0#64) (hf : s.access (s.team t).core (s.taskSpace t) j 16 .both = .ok f)
    (hkey : s.wrongKey f.pa f.key = false) (how : TaskEnd) {x : Nat} (hx : x < f.pa ∨ f.pa + 8 ≤ x) : (s.endTask t j how).newest x = s.newest x := by
  rw [endTask_newest hj hf hkey, dif_neg]
  rw [joinBytes_length]
  omega

/-- The record after the end of a task. -/
theorem endTask_record (hj : j ≠ 0#64) (hf : s.access (s.team t).core (s.taskSpace t) j 16 .both = .ok f)
    (hkey : s.wrongKey f.pa f.key = false) (how : TaskEnd) : ofBytes ((s.endTask t j how).newestRead f.pa 16) =
      joinAfter (ofBytes (s.newestRead f.pa 16) % 2 ^ 64) how + 2 ^ 64 * (ofBytes (s.newestRead f.pa 16) / 2 ^ 64) := by
  have hrange : List.range 16 = List.range 8 ++ (List.range 8).map (8 + ·) := rfl
  have hhalves : ∀ u : State, u.newestRead f.pa 16 = u.newestRead f.pa 8 ++ u.newestRead (f.pa + 8) 8 := fun u => by
    simp only [newestRead_eq, hrange, List.map_append, List.map_map, Function.comp_def, Nat.add_assoc]
  have hlow : (s.endTask t j how).newestRead f.pa 8 = s.joinBytes f how := by
    refine List.ext_getElem (by simp [newestRead_eq, joinBytes_length]) fun i hi hi' => ?_
    simp only [newestRead_eq, List.getElem_map, List.getElem_range, endTask_newest hj hf hkey]
    simp [hi']
  have hhigh : (s.endTask t j how).newestRead (f.pa + 8) 8 = s.newestRead (f.pa + 8) 8 := by
    simp only [newestRead_eq]
    exact List.map_congr_left fun i _ => endTask_newest_outside hj hf hkey how (.inr (by omega))
  have hlen : (s.newestRead f.pa 8).length = 8 := by simp [newestRead_eq]
  have hlt : ofBytes (s.newestRead f.pa 8) < 2 ^ 64 := (ofBytes_lt _).trans_eq (by rw [hlen]; rfl)
  have hold : ofBytes (s.newestRead f.pa 16) / 2 ^ 64 = ofBytes (s.newestRead (f.pa + 8) 8) := by
    rw [hhalves, ofBytes_append, hlen]
    omega
  rw [hold, hhalves (s.endTask t j how), hlow, hhigh, ofBytes_append, joinBytes_length, State.joinBytes, ofBytes_bytesOf,
    show (256 : Nat) ^ 8 = 2 ^ 64 from rfl, Nat.mod_eq_of_lt (joinAfter_lt _ how)]

end

end Sys2Proof.Machine

namespace Sys2Proof.Machine

/-! MARK, JOIN, EXIT and TEXIT (R83 to R85, R92, R278). -/

theorem exits_clause {s : State} {k : GKey} {g : Group} {p : Path} (hi : Issuing s k g p) (hu : g.tasks &&& p.ex ≠ 0#32 → Unheld s g) :
    let v := (s.view k g p none).s
    let normal := p.ex &&& g.tasks &&& ~~~g.faultedLanes
    ∀ y ∈ ([(.exit, v.endBoth k (p.ex &&& g.faultedLanes) (.faulted, .killed) (p.ex &&& ~~~g.faultedLanes)),
      (.texit, (if normal = 0#32 then v else v.release (s.coreOf k) 6).endBoth k normal (.normal, .faulted) (p.ex &&& g.faultedLanes))] :
        List (Instr × State)), EndsLanes y.1 s y.2 k g p := by
  intro v normal y hy
  simp only [List.mem_cons, List.not_mem_nil, or_false] at hy
  obtain rfl | rfl := hy
  · exact exit_endsLanes hi hu
  · exact texit_endsLanes hi hu

theorem endTask_clause (s : State) (t : TKey) (j : DWord) (how : TaskEnd) : (j = 0#64 → s.endTask t j how = s) ∧
    (j ≠ 0#64 → ∀ f, s.access (s.team t).core (s.taskSpace t) j 16 .both = .ok f → s.wrongKey f.pa f.key = false →
      let s' := s.endTask t j how
      let old := ofBytes (s.newestRead f.pa 16)
      let new := ofBytes (s'.newestRead f.pa 16)
      new % 2 ^ 32 = (old + 2 ^ 32 - 1) % 2 ^ 32 ∧ new / 2 ^ 63 = old / 2 ^ 63 ∧
      new / 2 ^ 32 % 2 ^ 16 = (if how = .faulted then min (old / 2 ^ 32 % 2 ^ 16 + 1) 0xFFFF else old / 2 ^ 32 % 2 ^ 16) ∧
      new / 2 ^ 48 % 2 ^ 15 = (if how = .killed then min (old / 2 ^ 48 % 2 ^ 15 + 1) 0x7FFF else old / 2 ^ 48 % 2 ^ 15) ∧
      ∀ pa, pa < f.pa ∨ f.pa + 8 ≤ pa → s'.newest pa = s.newest pa) := by
  refine ⟨fun hj => if_pos hj, fun hj f hf hkey => ?_⟩
  obtain ⟨hpending, hvalid, hfaulted, hkilled⟩ := joinAfter_fields (ofBytes (s.newestRead f.pa 16)) how
  simp only [endTask_record hj hf hkey how]
  exact ⟨hpending, hvalid, hfaulted, hkilled, fun pa hpa => endTask_newest_outside hj hf hkey how hpa⟩

/-- Settles O17: MARK and JOIN by the cases of the innermost mark, EXIT and TEXIT by what barriers, join records and retirements leave of a
group and of memory, and the join record byte by byte. -/
theorem marksJoinsAndExits : Obligations.MarksJoinsAndExits := by
  unfold Obligations.MarksJoinsAndExits
  refine ⟨fun s k g p hi => ⟨fun i => ⟨mark_becomes hi i, mark_traps hi i⟩, join_without_mark hi, fun n m hn hm => ⟨join_elsewhere hi hn hm,
    join_completes hi hn hm, ?_, ?_, fun hpc hpart below e above hst he habove hbase => join_more hi hn hm hpc hpart hst he habove hbase⟩⟩,
    fun s k g p hi hu => exits_clause hi hu, endTask_clause⟩
  · exact fun hpc hpart hnone => (join_first hi hn hm hpc hpart hnone).1
  · exact fun hpc hpart hnone => (join_first hi hn hm hpc hpart hnone).2

end Sys2Proof.Machine

namespace Sys2Proof.Machine

/-! The functions of words that the integer and register instructions compute, in the library's terms (R111, R121 to R126). -/

-- ## Comparisons, products and shifts (R121, R124)

theorem mulHighS_eq (a b : Word) : mulHighS a b = hiWord (a.signExtend 64 * b.signExtend 64) := congrArg hiWord (ofInt_mul a b)

theorem mulHighU_eq (a b : Word) : mulHighU a b = hiWord (a.setWidth 64 * b.setWidth 64) := congrArg hiWord (ofNat_mul a b)

theorem min_eq_sle (a b : Word) : (if a.toInt ≤ b.toInt then a else b) = if a.sle b then a else b := by
  simp only [BitVec.sle_iff_toInt_le]

theorem max_eq_sle (a b : Word) : (if a.toInt ≥ b.toInt then a else b) = if b.sle a then a else b := by
  simp only [BitVec.sle_iff_toInt_le, ge_iff_le]

theorem ofTest_beq (a b : Word) : ofTest (a == b) = if a = b then 1#32 else 0#32 := by
  simp only [ofTest, beq_iff_eq]

theorem ofTest_lt (a b : Word) : ofTest (decide (a.toNat < b.toNat)) = if a < b then 1#32 else 0#32 := by
  simp only [ofTest, decide_eq_true_eq, BitVec.lt_def]

theorem rotLeft_toNat (a : Word) (n : BitVec 5) : rotLeft a n.toNat = a.rotateLeft n.toNat := by
  rw [rotLeft_eq, Nat.mod_eq_of_lt n.isLt]

-- ## Counts of bits (R125)

/-- The leading zeros from bit `n` down, counted by the model and by the library. -/
theorem clzAuxRec_eq_zerosBefore (a : Word) (n : Nat) (hn : n < 32) :
    a.clzAuxRec n = BitVec.ofNat 32 (31 - n + zerosBefore a (List.range (n + 1)).reverse) := by
  induction n with
  | zero =>
    have hlist : (List.range (0 + 1)).reverse = [0] := rfl
    rw [BitVec.clzAuxRec_zero, hlist, zerosBefore]
    split <;> rfl
  | succ n ih =>
    rw [BitVec.clzAuxRec_succ, List.range_succ, List.reverse_append, List.reverse_singleton, List.singleton_append, zerosBefore]
    split
    · rfl
    · rw [ih (by omega)]
      congr 1
      omega

theorem leadingZeros_eq (a : Word) : leadingZeros a = a.clz := by
  rw [BitVec.clz, clzAuxRec_eq_zerosBefore a 31 (by decide), Nat.sub_self, Nat.zero_add, leadingZeros]

/-- The count looks at no other bits than those listed. -/
theorem zerosBefore_map (a b : Word) (f : Nat → Nat) (is : List Nat) (h : ∀ i ∈ is, a.getLsbD i = b.getLsbD (f i)) :
    zerosBefore a is = zerosBefore b (is.map f) := by
  induction is with
  | nil => rfl
  | cons i is ih =>
    obtain ⟨hi, his⟩ := List.forall_mem_cons.1 h
    rw [List.map_cons, zerosBefore, zerosBefore, hi, ih his]

theorem trailingZeros_eq (a : Word) : trailingZeros a = a.ctz := by
  have hrev : (List.range 32).reverse = (List.range 32).map fun i => 31 - i := by decide
  rw [BitVec.ctz, ← leadingZeros_eq, trailingZeros, leadingZeros, hrev, zerosBefore_map a a.reverse]
  intro i hi
  have hi := List.mem_range.1 hi
  rw [BitVec.getLsbD_reverse, BitVec.getMsbD]
  simp [show 31 - i < 32 by omega, show 31 - (31 - i) = i by omega]

theorem cpopNatRec_eq_countP (a : Word) (n : Nat) : ∀ c, a.cpopNatRec n c = c + (List.range n).countP a.getLsbD := by
  induction n with
  | zero => simp
  | succ n ih =>
    intro c
    rw [BitVec.cpopNatRec_succ, ih, List.range_succ, List.countP_append, List.countP_singleton]
    cases a.getLsbD n <;> simp; omega

theorem ofNat_popcount (a : Word) : BitVec.ofNat 32 (popcount a) = a.cpop := by
  have hlanes : popcount a = (List.range 32).countP a.getLsbD := by
    rw [popcount, maskLanes, ← List.countP_eq_length_filter, ← List.map_coe_finRange_eq_range, List.countP_map]
    rfl
  rw [BitVec.cpop, cpopNatRec_eq_countP, Nat.zero_add, hlanes]

-- ## Parts of words (R111, R125)

theorem extractLsb'_zero {v w : Nat} (a : BitVec v) : a.extractLsb' 0 w = a.setWidth w := by
  ext i hi
  simp

/-- A mask of low bits keeps those bits alone. -/
theorem and_lowBits (a : Word) {n : Nat} (hn : n ≤ 32) : a &&& BitVec.ofNat 32 (2 ^ n - 1) = (a.setWidth n).setWidth 32 := by
  have hle : 2 ^ n ≤ 2 ^ 32 := Nat.pow_le_pow_right (by decide) hn
  have hlt : a.toNat % 2 ^ n < 2 ^ 32 := (Nat.mod_lt _ (Nat.two_pow_pos n)).trans_le hle
  apply BitVec.eq_of_toNat_eq
  rw [BitVec.toNat_and, BitVec.toNat_ofNat, Nat.mod_eq_of_lt (show 2 ^ n - 1 < 2 ^ 32 by omega), Nat.and_two_pow_sub_one_eq_mod, BitVec.toNat_setWidth,
    BitVec.toNat_setWidth, Nat.mod_eq_of_lt hlt]

theorem abs_eq (a : Word) : (if a.msb then 0#32 - a else a) = a.abs := by
  rw [BitVec.abs, BitVec.zero_sub]
  rfl

theorem imm14_some (q : BitVec 21) (i : BitVec 14) : imm14 (some q) i = q.setWidth 18 ++ i := congrArg (· ++ i) (extractLsb'_zero q)

-- ## Bit fields (R126)

theorem getLsbD_lowMask {n i : Nat} (hi : i < 32) : (lowMask n).getLsbD i = decide (i < n) := by
  rw [lowMask, BitVec.getLsbD_ofNat, Nat.testBit_two_pow_sub_one, decide_eq_true hi, Bool.true_and]

theorem fieldLen_le (b : Word) : fieldLen b ≤ 32 - fieldPos b := Nat.min_le_right _ _

/-- The bits of a field, moved down to bit 0. -/
theorem getLsbD_field (a : Word) {pos n i : Nat} (hi : i < 32) :
    ((a >>> pos) &&& lowMask n).getLsbD i = (a.getLsbD (pos + i) && decide (i < n)) := by
  rw [BitVec.getLsbD_and, BitVec.getLsbD_ushiftRight, getLsbD_lowMask hi]

/-- BFX bit by bit: the field, and above it its sign where the flag asks for it. -/
theorem getLsbD_fieldOf (a b : Word) {i : Nat} (hi : i < 32) : (fieldOf a b).getLsbD i =
    if i < fieldLen b then a.getLsbD (fieldPos b + i)
    else decide (fieldLen b ≠ 0) && b.getLsbD 11 && a.getLsbD (fieldPos b + fieldLen b - 1) := by
  have hlen := fieldLen_le b
  unfold fieldOf
  dsimp only
  by_cases h0 : fieldLen b = 0
  · simp [h0]
  · have htop : fieldLen b - 1 < fieldLen b := by omega
    have hsign : ((a >>> fieldPos b) &&& lowMask (fieldLen b)).getLsbD (fieldLen b - 1) = a.getLsbD (fieldPos b + fieldLen b - 1) := by
      rw [getLsbD_field a (by omega), decide_eq_true htop, Bool.and_true, Nat.add_sub_assoc (by omega)]
    rw [if_neg h0, hsign, decide_eq_true h0, Bool.true_and]
    by_cases hs : (b.getLsbD 11 && a.getLsbD (fieldPos b + fieldLen b - 1)) = true
    · rw [if_pos hs, hs, BitVec.getLsbD_or, getLsbD_field a hi, BitVec.getLsbD_not, getLsbD_lowMask hi]
      by_cases hin : i < fieldLen b <;> simp [hin, hi, -BitVec.getLsbD_eq_getElem]
    · rw [if_neg hs, Bool.eq_false_iff.2 hs, getLsbD_field a hi]
      by_cases hin : i < fieldLen b <;> simp [hin, -BitVec.getLsbD_eq_getElem]

/-- BFI bit by bit: the low bits of A in the field, and D beside it. -/
theorem getLsbD_fieldInto (d a b : Word) {i : Nat} (hi : i < 32) : (fieldInto d a b).getLsbD i =
    if fieldPos b ≤ i ∧ i < fieldPos b + fieldLen b then a.getLsbD (i - fieldPos b) else d.getLsbD i := by
  have hmask : (lowMask (fieldLen b) <<< fieldPos b).getLsbD i = decide (fieldPos b ≤ i ∧ i < fieldPos b + fieldLen b) := by
    rw [BitVec.getLsbD_shiftLeft, getLsbD_lowMask (by omega), decide_eq_true hi, Bool.true_and, ← decide_not, ← Bool.decide_and]
    exact decide_eq_decide.2 (by omega)
  unfold fieldInto
  rw [BitVec.getLsbD_or, BitVec.getLsbD_and, BitVec.getLsbD_not, BitVec.getLsbD_and, hmask, BitVec.getLsbD_shiftLeft]
  by_cases hin : fieldPos b ≤ i ∧ i < fieldPos b + fieldLen b
  · simp [hin, hi, Nat.not_lt.2 hin.1, -BitVec.getLsbD_eq_getElem]
  · simp [hin, hi, -BitVec.getLsbD_eq_getElem]

/-- A word is what its bits are. -/
theorem eq_ofFnLE {w : Word} {f : Fin 32 → Bool} (h : ∀ i : Fin 32, w.getLsbD i.val = f i) : w = BitVec.ofFnLE f :=
  BitVec.eq_of_getLsbD_eq fun i hi => by rw [BitVec.getLsbD_ofFnLE, dif_pos hi]; exact h ⟨i, hi⟩

end Sys2Proof.Machine

namespace Sys2Proof.Machine

/-! The integer instructions and the moves (R108 to R111, R115, R116, R119 to R126). -/

section
variable {s : State} {k : GKey} {g : Group} {p : Path} {d a b : Reg}

theorem alu2_congr {f f' : Word → Word → Word} (h : ∀ x y, f x y = f' x y) : alu2 f d a b s = alu2 f' d a b s := by
  rw [funext₂ h]

theorem alu3_congr {f f' : Word → Word → Word → Word} (h : ∀ z x y, f z x y = f' z x y) : alu3 f d a b s = alu3 f' d a b s := by
  rw [funext₃ h]

theorem alu1_congr {x : Pfx} {f f' : Word → Word} (h : ∀ y, f y = f' y) : alu1 x f d a s = alu1 x f' d a s := by
  rw [funext h]

end

/-- Settles O1: each instruction is the shared operation on its function of words, and the bit fields are those functions bit by bit. -/
theorem integerResults : Obligations.IntegerResults := by
  refine ⟨fun s k g p hi d a b hr => ?_, fun s k g p hi d a b hr => ?_, fun s k g p hi d a b hr => ?_⟩
  · intro x hx
    suffices hexec : exec x.1 s = alu2 x.2 d a b s by rw [hexec]; exact alu2_spec hi hr
    revert x
    simp only [List.forall_mem_cons]
    exact ⟨exec_add d a b s, exec_sub d a b s, exec_mul d a b s, (exec_mulhs d a b s).trans (alu2_congr mulHighS_eq),
      (exec_mulhu d a b s).trans (alu2_congr mulHighU_eq), (exec_min d a b s).trans (alu2_congr min_eq_sle),
      (exec_max d a b s).trans (alu2_congr max_eq_sle), exec_minu d a b s, exec_maxu d a b s, exec_and d a b s, exec_or d a b s, exec_xor d a b s,
      (exec_seq d a b s).trans (alu2_congr ofTest_beq), exec_slt d a b s, (exec_sltu d a b s).trans (alu2_congr ofTest_lt),
      (exec_shl d a b s).trans (alu2_congr fun x y => shiftLeft_eq x y.toNat), (exec_shr d a b s).trans (alu2_congr fun x y => shiftRight_eq x y.toNat),
      (exec_sar d a b s).trans (alu2_congr fun x y => shiftArith_eq x y.toNat), (exec_rot d a b s).trans (alu2_congr fun x y => rotLeft_eq x y.toNat),
      List.forall_mem_nil _⟩
  · intro x hx
    suffices hexec : exec x.1 s = alu3 x.2 d a b s by rw [hexec]; exact alu3_spec hi hr
    revert x
    simp only [List.forall_mem_cons]
    exact ⟨exec_mad d a b s, exec_csel d a b s, (exec_bfi d a b s).trans (alu3_congr fun z x y => eq_ofFnLE fun i => getLsbD_fieldInto z x y i.isLt),
      List.forall_mem_nil _⟩
  · rw [exec_bfx, execBfx, alu2_congr fun x y => eq_ofFnLE fun i => getLsbD_fieldOf x y i.isLt]
    exact alu2_spec hi hr

theorem Ready.twice {s : State} {k : GKey} {g : Group} {p : Path} {d : Nat} {reads : List Nat} (hr : Ready s k g p [d] reads) :
    Ready s k g p [d, d] reads := ⟨hr.waits, by simpa using hr.window, hr.early⟩

/-- Settles O2: the instructions with a source are the shared operation on their function of words, and MOVI and FMT.GET fill D with one value. -/
theorem unaryAndImmediateResults : Obligations.UnaryAndImmediateResults := by
  refine ⟨fun s k g p hi d a x i n hr => ?_, fun s k g p hi d x i => ?_⟩
  · intro imm y hy
    have himm : imm7 x i = imm := by cases x <;> rfl
    suffices hexec : exec y.1 s = alu1 y.2.1 y.2.2 d a s by rw [hexec]; exact alu1_spec hi hr
    revert y
    simp only [List.forall_mem_cons, ← himm]
    exact ⟨exec_addi x d a i s, exec_andi x d a i s, exec_ori x d a i s, exec_xori x d a i s,
      (exec_shli d a n s).trans (alu1_congr fun y => shiftLeft_eq y n.toNat), (exec_shri d a n s).trans (alu1_congr fun y => shiftRight_eq y n.toNat),
      (exec_sari d a n s).trans (alu1_congr fun y => shiftArith_eq y n.toNat), (exec_roti d a n s).trans (alu1_congr fun y => rotLeft_toNat y n),
      (exec_clz d a s).trans (alu1_congr leadingZeros_eq), (exec_ctz d a s).trans (alu1_congr trailingZeros_eq),
      (exec_popc d a s).trans (alu1_congr ofNat_popcount), exec_brev d a s, (exec_abs d a s).trans (alu1_congr abs_eq),
      (exec_neg d a s).trans (alu1_congr BitVec.zero_sub), exec_not d a s,
      (exec_sextb d a s).trans (alu1_congr fun y => congrArg (BitVec.signExtend 32) (extractLsb'_zero y)),
      (exec_sexth d a s).trans (alu1_congr fun y => congrArg (BitVec.signExtend 32) (extractLsb'_zero y)),
      (exec_zextb d a s).trans (alu1_congr fun y => and_lowBits y (n := 8) (by decide)),
      (exec_zexth d a s).trans (alu1_congr fun y => and_lowBits y (n := 16) (by decide)), exec_mov d a s, List.forall_mem_nil _⟩
  · simp only [List.forall_mem_cons]
    refine ⟨fun hr => ?_, fun hr => ?_, fun hr => ?_, List.forall_mem_nil _⟩
    · rw [exec_movi]
      cases x with
      | none => exact fill_spec hi { names := [d.toNat] } rfl hr rfl rfl rfl (by simp [Uniform]) (by simp) d.toNat _ rfl
      | some q =>
        refine fill_spec hi { pfx := some q, names := [d.toNat] } rfl hr rfl rfl rfl (by simp [Uniform]) (by simp) d.toNat _ ?_
        rw [imm14_some]
    · rw [exec_movhi, execMovhi, alu1_congr fun y => congrArg (fun z : BitVec 18 => i ++ z) (extractLsb'_zero y)]
      exact alu1_spec hi hr.twice
    · rw [exec_fmtGet]
      exact fill_spec hi { names := [d.toNat] } rfl hr rfl rfl rfl (by simp [Uniform]) (by simp) d.toNat _ rfl

end Sys2Proof.Machine

namespace Sys2Proof.Machine

/-! Instructions that write a pair of registers (R13, R110, R122). -/

/-- A form that names and reads registers after a PFX word or none, at some beats a lane, and demands nothing else. -/
def pairForm (x : Pfx) (names reads : List Nat) (factor : Nat) : Form := { pfx := x, names := names, reads := reads, factor := factor }

section
variable {s : State} {k : GKey} {g : Group} {p : Path} {d a b : Reg}

/-- The state in which an instruction is counted holds its group, counted. -/
theorem view_setGroup (x : Pfx) : (s.view k g p x).s.setGroup k (g.counted s.issued) = (s.view k g p x).s := by
  simp only [State.view, State.setGroup, kput_kput]

/-- An instruction that writes a pair at once, from the registers as they stand before. -/
theorem pair_spec {i : Instr} {x : Pfx} {names reads : List Nat} {factor : Nat} {vals : View → Lanes DWord} {f : Fin 32 → DWord}
    (hi : Issuing s k g p) (hr : Ready s k g p names reads)
    (hexec : exec i s = issue (fun _ => pairForm x names reads factor) (fun v => .ok (v.wr2 v.s d.toNat (vals v))) s)
    (hf : ∀ L : Fin 32, (vals (s.view k g p x))[L] = f L) :
    ∃ t h, exec i s = .next t ∧ OnlyRegs s t k g h [g.wbasev + d.toNat, g.wbasev + d.toNat + 1] ∧ h.aflags = g.aflags ∧
      GoesOn h p (p.pc + BitVec.ofNat 32 (pfxLen x)) ∧ Writes2 g h p.ex (g.wbasev + d.toNat) f := by
  obtain ⟨t, h, ht, honly, hflags, hon, hwrites⟩ := wr2_spec (form := fun _ => pairForm x names reads factor)
    (body := fun v => .ok (v.wr2 v.s d.toNat (vals v))) hi _ rfl hr rfl rfl rfl (by simp [pairForm, Uniform]) (by simp [pairForm]) d.toNat
    (vals (s.view k g p x)) (g.counted s.issued) (onlyDests_counted g _) rfl (by rw [view_setGroup]; rfl)
  exact ⟨t, h, hexec.trans ht, honly, hflags, hon, hwrites.congr hf⟩

theorem mulPair_spec {i : Instr} {f f' : Word → Word → DWord} (hi : Issuing s k g p)
    (hr : Ready s k g p [d.toNat, d.toNat + 1, a.toNat, b.toNat] [a.toNat, b.toNat]) (hexec : exec i s = mulPair f d a b s)
    (hf : ∀ x y, f x y = f' x y) :
    ∃ t h, exec i s = .next t ∧ OnlyRegs s t k g h [g.wbasev + d.toNat, g.wbasev + d.toNat + 1] ∧ h.aflags = g.aflags ∧
      GoesOn h p (p.pc + 4#32) ∧ Writes2 g h p.ex (g.wbasev + d.toNat) fun L => f' (g.seen a.toNat L) (g.seen b.toNat L) :=
  pair_spec (x := none) (factor := 2) (vals := fun v => lanesOf fun L => f (v.rd a.toNat)[L] (v.rd b.toNat)[L]) hi hr hexec
    fun L => (lanesOf_get _ L).trans (hf _ _)

end

/-- Settles O3: all five are one shared operation, whose values come from the view of the group before the write. -/
theorem pairResults : Obligations.PairResults := by
  intro s k g p hi d a b x d0 a0 b0
  simp only [List.forall_mem_cons]
  refine ⟨fun hr => ?_, fun hr => ?_, fun hr => ?_, fun hr => ?_, fun hr => ?_, List.forall_mem_nil _⟩
  · refine pair_spec (x := none) (factor := 1) (vals := fun v => lanesOf fun L => (v.rd2 a0)[L] + (v.rd2 b0)[L]) hi hr (exec_add64 d a b s) fun L => ?_
    rw [lanesOf_get, view_rd2, view_rd2]
  · refine pair_spec (factor := 1) (vals := fun v => lanesOf fun L => (v.rd2 a0)[L] + ((v.rd b0)[L].setWidth 64 <<< ((payload x).toNat % 32))) hi hr
      (exec_addz64 x d a b s) fun L => ?_
    rw [lanesOf_get, view_rd2, view_rd]
  · exact mulPair_spec (f' := fun x y => x.signExtend 64 * y.signExtend 64) hi hr (exec_mulws d a b s) ofInt_mul
  · exact mulPair_spec (f' := fun x y => x.setWidth 64 * y.setWidth 64) hi hr (exec_mulwz d a b s) ofNat_mul
  · exact pair_spec (x := none) (factor := 1) (vals := fun v => v.rd2 a0) hi hr (exec_mov64 d a s) fun L => view_rd2 s k g p none a0 L

end Sys2Proof.Machine

namespace Sys2Proof.Machine

/-! Instructions of any form whose effect is a change of their group or of the machine around it, in the terms of `Becomes` (R32, R64 to R70, R101). -/

section
variable {form : View → Form} {body : View → Res} {s s' s1 : State} {k : GKey} {g g1 q : Group} {p : Path}

/-- An instruction whose registers are in order, and which completes: its path goes on at the next one. -/
theorem ok_becomes (hi : Issuing s k g p) (f : Form) (hf : form ⟨s, k, g, p, p.pc + 4#32⟩ = f) (hr : Ready s k g p f.names f.reads)
    (hill : f.illegal = false) (hpriv : f.priv = false) (hlate : f.late = []) (hu : Uniform g p f.unif) (hch : f.check = true → NoPosted g)
    (hb : body (s.view k g p f.pfx) = .ok s1) (hs : Sets s' s1 k g1) (ha : g1.Alike q) :
    ∃ t h, issue form body s = .next t ∧ Becomes s' t k { q with cur := some { p with pc := p.pc + BitVec.ofNat 32 (pfxLen f.pfx) } } h := by
  obtain ⟨h, hbecomes⟩ := finish_becomes (hs.modGroup fun g => { g with cur := some { p with pc := p.pc + BitVec.ofNat 32 (pfxLen f.pfx) } })
    (ha.map (fun x : Group => { x with cur := some { p with pc := p.pc + BitVec.ofNat 32 (pfxLen f.pfx) } }) fun _ => rfl) (beats g f p.ex) false g
  exact ⟨_, h, issue_ok hi f hf hr.waits ((checked_ok hr hill hpriv hlate hu hch).trans hb), hbecomes⟩

/-- The checks of R32 up to STALLCHK passed, an instruction without check points asks whether its sources are uniform. -/
theorem checked_unif {f : Form} (hr : Ready s k g p f.names f.reads) (hill : f.illegal = false) (hpriv : f.priv = false) (hlate : f.late = [])
    (hch : f.check = false) : (s.view k g p f.pfx).checked f body =
      if f.unif.any fun r => !(s.view k g p f.pfx).uniform r then (s.view k g p f.pfx).whole .uniform else body (s.view k g p f.pfx) := by
  have hrest : ∀ v : View, v.checked f body =
      v.checked { f with unif := [] } fun v => if f.unif.any fun r => !v.uniform r then v.whole .uniform else body v := fun v => by
    simp only [View.checked, hch, List.any_nil, Bool.false_eq_true, if_false]
  exact (hrest _).trans (checked_ok (f := { f with unif := [] }) hr hill hpriv hlate (by simp [Uniform]) (by simp [hch]))

theorem any_not_uniform {x : Pfx} {rs : List Nat} : (rs.any fun r => !(s.view k g p x).uniform r) = true ↔ ¬ Uniform g p rs := by
  have hread : ∀ r, (s.view k g p x).uniform r = sameOver p.ex (g.read (g.wbasev + r)) := fun _ => rfl
  simp [Uniform, hread]

/-- Lanes that differ are lanes. -/
theorem active_of_not_uniform {rs : List Nat} (h : ¬ Uniform g p rs) : p.ex ≠ 0#32 := by
  intro h0
  refine h fun r _ => ?_
  rw [h0]
  rfl

/-- An instruction traps whose source is not uniform (R101). -/
theorem uniform_traps {i : Instr} (hexec : exec i s = issue form body s) (hi : Issuing s k g p) (f : Form)
    (hf : form ⟨s, k, g, p, p.pc + 4#32⟩ = f) (hr : Ready s k g p f.names f.reads) (hill : f.illegal = false) (hpriv : f.priv = false)
    (hlate : f.late = []) (hch : f.check = false) (hfactor : f.factor = 1) (hu : ¬ Uniform g p f.unif) :
    Traps i s k g p f.pfx { cause := .uniform, lanes := p.ex } :=
  ⟨beats g f p.ex, beats_pos (active_of_not_uniform hu) hfactor, hexec.trans (issue_trap hi f hf hr.waits _ rfl
    ((checked_unif hr hill hpriv hlate hch).trans (if_pos (any_not_uniform.2 hu))))⟩

end

end Sys2Proof.Machine

namespace Sys2Proof.Machine

/-! The window base and FMT (R112, R116). -/

section
variable {s : State} {k : GKey} {g : Group} {p : Path} {i : Instr} {f : Nat → Int}

/-- The test of `setWindow`, in the terms of the claim. -/
theorem outside_iff (n : Int) (w : Nat) : (decide (n < 0) || decide ((w : Int) - 8 < n)) = true ↔ ¬ (0 ≤ n ∧ n ≤ (w : Int) - 8) := by
  simp only [Bool.or_eq_true, decide_eq_true_eq]
  omega

theorem setWindow_becomes (hexec : exec i s = setWindow f s) (hi : Issuing s k g p) (h : 0 ≤ f g.wbasev ∧ f g.wbasev ≤ (g.wsize : Int) - 8) :
    ∃ t h, exec i s = .next t ∧ Becomes s t k { g with wbasev := (f g.wbasev).toNat, cur := some { p with pc := p.pc + 4#32 } } h := by
  rw [hexec, setWindow]
  refine ok_becomes (q := { g with wbasev := (f g.wbasev).toNat }) hi { oneBeat := true } rfl (ready_nil s k g p) rfl rfl rfl (by simp [Uniform])
    (by simp) (if_neg (mt (outside_iff _ _).1 (not_not.2 h))) ((sets_view s k g p none).modGroup _)
    ((counted_alike g s.issued).map (fun x : Group => { x with wbasev := (f g.wbasev).toNat }) fun _ => rfl)

theorem setWindow_traps (hexec : exec i s = setWindow f s) (hi : Issuing s k g p) (h : ¬ (0 ≤ f g.wbasev ∧ f g.wbasev ≤ (g.wsize : Int) - 8)) :
    Traps i s k g p none { cause := .window, lanes := p.ex } := by
  have hc := checked_ok (f := { oneBeat := true }) (body := fun v =>
    if f v.g.wbasev < 0 || (v.g.wsize : Int) - 8 < f v.g.wbasev then v.whole .window
    else .ok (v.s.modGroup v.k fun g' => { g' with wbasev := (f v.g.wbasev).toNat })) (ready_nil s k g p) rfl rfl rfl (by simp [Uniform]) (by simp)
  exact ⟨_, beats_pos_of_no_reads _ rfl rfl, hexec.trans (issue_trap hi { oneBeat := true } rfl (ready_nil s k g p).waits _ rfl
    (hc.trans (if_pos ((outside_iff _ _).2 h))))⟩

variable {a : Reg}

/-- What FMT.SET demands. -/
def fmtForm (a : Reg) : Form := { names := [a.toNat], reads := [a.toNat], unif := [a.toNat] }

theorem fmtSet_becomes (hi : Issuing s k g p) (hr : Ready s k g p [a.toNat] [a.toNat]) (hu : Uniform g p [a.toNat]) :
    ∃ t h, exec (.fmtSet a) s = .next t ∧
      Becomes s t k { g with cur := some { p with pc := p.pc + 4#32, fmt := g.seen a.toNat (lowestLane p.ex) } } h := by
  obtain ⟨h, hbecomes⟩ := finish_becomes ((sets_view s k g p none).modGroup fun g' =>
      { g' with cur := some { p with pc := p.pc + 4#32, fmt := g.seen a.toNat (lowestLane p.ex) } })
    ((counted_alike g s.issued).map (fun x : Group =>
      { x with cur := some { p with pc := p.pc + 4#32, fmt := g.seen a.toNat (lowestLane p.ex) } }) fun _ => rfl) (beats g (fmtForm a) p.ex) false g
  rw [exec_fmtSet]
  exact ⟨_, h, issue_went hi (fmtForm a) rfl hr.waits false (checked_ok hr rfl rfl rfl hu (by simp [fmtForm])), hbecomes⟩

theorem fmtSet_traps (hi : Issuing s k g p) (hr : Ready s k g p [a.toNat] [a.toNat]) (hu : ¬ Uniform g p [a.toNat]) :
    Traps (.fmtSet a) s k g p none { cause := .uniform, lanes := p.ex } :=
  uniform_traps (exec_fmtSet a s) hi (fmtForm a) rfl hr rfl rfl rfl rfl rfl hu

end

/-- Settles O4: both window instructions by one operation, and FMT.SET by whether its source is uniform. -/
theorem windowBaseAndFmt : Obligations.WindowBaseAndFmt := by
  refine ⟨fun s k g p hi i => ?_, fun s k g p hi a hr => ⟨fmtSet_becomes hi hr, fmtSet_traps hi hr⟩⟩
  simp only [List.forall_mem_cons]
  exact ⟨⟨setWindow_becomes (f := fun _ => i.toInt * 8) (exec_wbase i s) hi, setWindow_traps (f := fun _ => i.toInt * 8) (exec_wbase i s) hi⟩,
    ⟨setWindow_becomes (f := fun w => w + i.toInt * 8) (exec_wbaseRel i s) hi,
      setWindow_traps (f := fun w => w + i.toInt * 8) (exec_wbaseRel i s) hi⟩,
    List.forall_mem_nil _⟩

end Sys2Proof.Machine

namespace Sys2Proof.Machine

/-! SGET (R102 to R104, R113). -/

section
variable {form : View → Form} {body : View → Res} {s : State} {k : GKey} {g : Group} {p : Path}

/-- An instruction that writes one register of its group, which it makes `g0` otherwise. -/
theorem wr_in_spec (hi : Issuing s k g p) (f : Form) (hf : form ⟨s, k, g, p, p.pc + 4#32⟩ = f) (hr : Ready s k g p f.names f.reads)
    (hill : f.illegal = false) (hpriv : f.priv = false) (hlate : f.late = []) (hu : Uniform g p f.unif) (hch : f.check = true → NoPosted g)
    (g0 : Group) (n : Nat) (v : Lanes Word) (hb : body (s.view k g p f.pfx) = .ok ((s.view k g p f.pfx).s.setGroup k
      ((g0.counted s.issued).write n p.ex v))) :
    ∃ t h, issue form body s = .next t ∧ OnlyRegs s t k g0 h [n] ∧ h.aflags = g0.aflags ∧
      GoesOn h p (p.pc + BitVec.ofNat 32 (pfxLen f.pfx)) ∧ Writes g0 h p.ex n fun L => v[L] := by
  have hs := (sets_view s k g p f.pfx).setGroup ((g0.counted s.issued).write n p.ex v)
  have ho : OnlyDests g0 ((g0.counted s.issued).write n p.ex v) [n] :=
    ((onlyDests_counted g0 s.issued).mono (by simp)).trans (onlyDests_write (g0.counted s.issued) n p.ex v)
  obtain ⟨t, ht, hrest, hoth, r, x, hk⟩ := issue_effect hi f hf hr hill hpriv hlate hu hch hb hs.found (setGroup_slotW _ _ _)
  exact ⟨t, _, ht, onlyRegs_of hrest hoth hs.rest hs.others ho hk, rfl, rfl,
    writes_write (g0 := g0.counted s.issued) n p.ex v _ (1 + s.slotW.toNat) rfl rfl⟩

/-- A register written, and then another change of the group. -/
theorem wr_modGroup (x : Pfx) (d : Nat) (m : Word) (v : Lanes Word) (f : Group → Group) :
    ((s.view k g p x).wrm (s.view k g p x).s d m v).modGroup k f =
      (s.view k g p x).s.setGroup k (f ((g.counted s.issued).write (g.wbasev + d) m v)) := by
  rw [wr_view, modGroup_setGroup]

end

-- ## What SGET does, by its number

/-- What SGET demands in a mode. -/
def sgetForm (m : Mode) (d : Reg) (n : BitVec 7) : Form :=
  { names := [d.toNat], illegal := !isSpecial n.toNat, priv := specialRefused m n.toNat }

/-- The word that SGET gives a lane, of a register whose read changes nothing. -/
def View.specialIn (v : View) (n : Nat) (L : Fin 32) : Word :=
  if n = 0x00 then BitVec.ofNat 32 L.val else if n = 0x0B then (v.g.aen[L]).setWidth 32 else v.special n

theorem uniformLanes_eq {α : Type} (x : α) : uniformLanes x = lanesOf fun _ => x := Vector.ext fun i hi => by simp [uniformLanes, lanesOf]

theorem exec_sget_nrm (d : Reg) (s : State) : exec (.sget d 0x09#7) s =
    issue (fun v => sgetForm v.g.mode d 0x09#7) (fun v => v.readNrm d.toNat) s := exec_sget d 0x09#7 s

theorem exec_sget_aflags (d : Reg) (s : State) : exec (.sget d 0x0A#7) s = issue (fun v => sgetForm v.g.mode d 0x0A#7) (fun v =>
    v.flagsSettled fun _ => .ok (v.wr v.s d.toNat (lanesOf fun L => v.g.aflags[L].setWidth 32))) s := exec_sget d 0x0A#7 s

theorem exec_sget_cyclo (d : Reg) (s : State) : exec (.sget d 0x16#7) s = issue (fun v => sgetForm v.g.mode d 0x16#7) (fun v =>
    .ok ((v.wr v.s d.toNat (uniformLanes (BitVec.ofNat 32 v.s.cycle))).modGroup v.k fun g =>
      { g with cychi := BitVec.ofNat 32 (v.s.cycle / 2 ^ 32) })) s := exec_sget d 0x16#7 s

theorem exec_sget_plain (d : Reg) {n : BitVec 7} (hn : n.toNat ∉ [0x09, 0x0A, 0x16]) (s : State) : exec (.sget d n) s =
    issue (fun v => sgetForm v.g.mode d n) (fun v => .ok (v.wr v.s d.toNat (lanesOf (v.specialIn n.toNat)))) s := by
  rw [exec_sget, execSget]
  refine congrArg (fun body => issue _ body s) (funext fun v => ?_)
  split
  · next h => rw [h]; rfl
  · next h => simp [h] at hn
  · next h => simp [h] at hn
  · next h => rw [h]; rfl
  · next h => simp [h] at hn
  · next h0 _ _ hB _ =>
    have hplain : v.specialIn n.toNat = fun _ => v.special n.toNat := funext fun L => by rw [View.specialIn, if_neg h0, if_neg hB]
    rw [hplain, uniformLanes_eq]

section
variable {body : View → Res} {s : State} {k : GKey} {g : Group} {p : Path} {d : Reg} {n : BitVec 7}

/-- An SGET whose effect writes D in the group that it makes `g0` otherwise. -/
theorem sget_spec (hexec : exec (.sget d n) s = issue (fun v => sgetForm v.g.mode d n) body s) (hi : Issuing s k g p)
    (hspecial : isSpecial n.toNat = true) (hmode : specialRefused g.mode n.toNat = false) (hr : Ready s k g p [d.toNat] []) (g0 : Group)
    (f : Fin 32 → Word) (hb : body (s.view k g p none) = .ok ((s.view k g p none).s.setGroup k
      ((g0.counted s.issued).write (g.wbasev + d.toNat) p.ex (lanesOf f)))) :
    ∃ t h, exec (.sget d n) s = .next t ∧ OnlyRegs s t k g0 h [g.wbasev + d.toNat] ∧ h.aflags = g0.aflags ∧ GoesOn h p (p.pc + 4#32) ∧
      Writes g0 h p.ex (g.wbasev + d.toNat) f := by
  rw [hexec]
  obtain ⟨t, h, ht, honly, hflags, hon, hwrites⟩ := wr_in_spec (form := fun v => sgetForm v.g.mode d n) (body := body) hi
    (sgetForm g.mode d n) rfl hr (by simp [sgetForm, hspecial]) hmode rfl (by simp [sgetForm, Uniform]) (by simp [sgetForm]) g0 _ _ hb
  exact ⟨t, h, ht, honly, hflags, hon, hwrites.congr fun L => lanesOf_get f L⟩

/-- An SGET that waits. -/
theorem sget_holds (hexec : exec (.sget d n) s = issue (fun v => sgetForm v.g.mode d n) body s) (hi : Issuing s k g p)
    (hspecial : isSpecial n.toNat = true) (hmode : specialRefused g.mode n.toNat = false) (hr : Ready s k g p [d.toNat] []) {ds : List Due}
    (hb : body (s.view k g p none) = .hold ds) : exec (.sget d n) s = .next (s.holdIssue k ds) :=
  hexec.trans (issue_hold hi (sgetForm g.mode d n) rfl hr.waits ds ((checked_ok (f := sgetForm g.mode d n) (body := body) hr
    (by simp [sgetForm, hspecial]) hmode rfl (by simp [sgetForm, Uniform]) (by simp [sgetForm])).trans hb))

theorem sget_plain (hi : Issuing s k g p) (hspecial : isSpecial n.toNat = true) (hmode : specialRefused g.mode n.toNat = false)
    (hn : n.toNat ∉ [0x09, 0x0A, 0x16]) (hr : Ready s k g p [d.toNat] []) :
    ∃ t h, exec (.sget d n) s = .next t ∧ OnlyRegs s t k g h [g.wbasev + d.toNat] ∧ h.aflags = g.aflags ∧ GoesOn h p (p.pc + 4#32) ∧
      Writes g h p.ex (g.wbasev + d.toNat) ((s.view k g p none).specialIn n.toNat) :=
  sget_spec (exec_sget_plain d hn s) hi hspecial hmode hr g _ (congrArg Res.ok (wr_view none _ _ _))

-- ## NRM (R104)

/-- A number below 0x40 is read in any mode. -/
theorem specialRefused_of_lt (m : Mode) {n : Nat} (hn : n < 0x40) : specialRefused m n = false := by
  cases m <;> simp [specialRefused] <;> omega

theorem readNrm_ok (h : ∀ q ∈ g.pend, q.left = none → q.await = none → (q.mask ||| q.absent) &&& p.ex = 0#32) (d : Nat) :
    (s.view k g p none).readNrm d = .ok ((s.view k g p none).s.setGroup k (({ g with nrm := g.nrm &&& ~~~p.ex }.counted s.issued).write
      (g.wbasev + d) p.ex (lanesOf fun L => if g.nrm.getLsbD L then 1#32 else 0#32))) := by
  have hloads : (g.pend.filter fun q => q.left.isNone && q.await.isNone && (q.mask ||| q.absent) &&& p.ex ≠ 0#32) = [] := by
    rw [List.filter_eq_nil_iff]
    intro q hq hload
    simp only [Bool.and_eq_true, Option.isNone_iff_eq_none, decide_eq_true_eq] at hload
    obtain ⟨⟨hleft, hawait⟩, hlanes⟩ := hload
    exact hlanes (h q hq hleft hawait)
  exact (if_pos (List.isEmpty_iff.2 hloads)).trans (congrArg Res.ok (wr_modGroup none d p.ex _ _))

theorem readNrm_hold (h : ∃ q ∈ g.pend, q.left = none ∧ q.await = none ∧ (q.mask ||| q.absent) &&& p.ex ≠ 0#32) (d : Nat) :
    (s.view k g p none).readNrm d = .hold [⟨.nrmRead, { key := k }⟩] := by
  obtain ⟨q, hq, hleft, hawait, hlanes⟩ := h
  have hload : q ∈ g.pend.filter fun q => q.left.isNone && q.await.isNone && (q.mask ||| q.absent) &&& p.ex ≠ 0#32 :=
    List.mem_filter.2 ⟨hq, by simp [hleft, hawait, hlanes]⟩
  exact if_neg fun hnone => List.not_mem_nil (List.isEmpty_iff.1 hnone ▸ hload)

-- ## AFLAGS (R57, R104)

theorem flagsSettled_ok (hflags : ∀ q ∈ g.pend, q.raises = false)
    (hposted : ∀ r ∈ s.requests, ∀ n w op, r.asker = .posted k n → r.kind ≠ .atom op w) (x : Pfx) (body : Unit → Res) :
    (s.view k g p x).flagsSettled body = body () := by
  refine (if_neg ?_).trans (if_neg ?_)
  · exact List.any_eq_true.not.2 fun ⟨q, hq, hraises⟩ => Bool.false_ne_true ((hflags q hq).symm.trans hraises)
  · intro hany
    obtain ⟨r, hr, hatom⟩ := List.any_eq_true.1 hany
    split at hatom
    · next hasker hkind =>
      obtain rfl := of_decide_eq_true hatom
      exact hposted r hr _ _ _ hasker hkind
    · exact Bool.false_ne_true hatom

theorem flagsSettled_hold (h : ∃ q ∈ g.pend, q.raises = true) (x : Pfx) (body : Unit → Res) :
    (s.view k g p x).flagsSettled body = .hold [⟨.aflagsRead, { key := k }⟩] := if_pos (List.any_eq_true.2 h)

end

/-- Settles O11: the sampled registers by what they wait for, and all others by one lemma. -/
theorem specialRegisterReads : Obligations.SpecialRegisterReads := by
  refine ⟨fun s k g p hi d n hspecial hmode hn hr => sget_plain hi hspecial hmode hn hr, fun s k g p hi d hr => ⟨fun h => ?_, fun h => ?_⟩,
    fun s k g p hi d hr => ⟨fun hflags hposted => ?_, fun h => ?_⟩, fun s k g p hi d hr => ?_⟩
  · exact sget_spec (exec_sget_nrm d s) hi rfl (specialRefused_of_lt _ (by decide)) hr _ _ (readNrm_ok h d.toNat)
  · exact sget_holds (exec_sget_nrm d s) hi rfl (specialRefused_of_lt _ (by decide)) hr (readNrm_hold h d.toNat)
  · exact sget_spec (exec_sget_aflags d s) hi rfl (specialRefused_of_lt _ (by decide)) hr g _
      ((flagsSettled_ok hflags hposted none _).trans (congrArg Res.ok (wr_view none _ _ _)))
  · exact sget_holds (exec_sget_aflags d s) hi rfl (specialRefused_of_lt _ (by decide)) hr (flagsSettled_hold h none _)
  · refine sget_spec (exec_sget_cyclo d s) hi rfl (specialRefused_of_lt _ (by decide)) hr { g with cychi := BitVec.ofNat 32 (s.cycle / 2 ^ 32) } _
      (congrArg Res.ok ?_)
    rw [uniformLanes_eq, ofNat_mod_width]
    exact wr_modGroup none d.toNat p.ex _ _

end Sys2Proof.Machine

namespace Sys2Proof.Machine

/-! SSET (R102, R103, R105, R113). -/

-- ## What SSET does, by its number

/-- What SSET demands in a mode. -/
def ssetForm (m : Mode) (a : Reg) (n : Nat) : Form :=
  { names := [a.toNat], reads := [a.toNat], unif := if takesAnySource n then [] else [a.toNat]
    illegal := !isSpecial n, priv := specialRefused m n }

/-- A register of five bits a lane, once its active lanes are written from a register of the window. -/
def Group.setLanes (g : Group) (m : Word) (a : Nat) (old : Lanes (BitVec 5)) : Lanes (BitVec 5) :=
  lanesOf fun L => if m.getLsbD L then (g.seen a L).setWidth 5 else old[L]

theorem exec_sset_aflags (a : Reg) (s : State) : exec (.sset a 0x0A#7) s = issue (fun v => ssetForm v.g.mode a 0x0A) (fun v =>
    .ok (v.s.modGroup v.k fun g => { g with aflags := v.g.setLanes v.ex a.toNat g.aflags })) s := exec_sset a 0x0A#7 s

theorem exec_sset_aen (a : Reg) (s : State) : exec (.sset a 0x0B#7) s = issue (fun v => ssetForm v.g.mode a 0x0B) (fun v =>
    .ok (v.s.modGroup v.k fun g => { g with aen := v.g.setLanes v.ex a.toNat g.aen })) s := exec_sset a 0x0B#7 s

theorem exec_sset_uniform (a : Reg) {n : Nat} (hn : n < 128) (hA : n ≠ 0x0A) (hB : n ≠ 0x0B) (s : State) : exec (.sset a (BitVec.ofNat 7 n)) s =
    issue (fun v => ssetForm v.g.mode a n) (fun v => .ok (v.setSpecial n (v.rd a.toNat)[v.f])) s := by
  have hnat : (BitVec.ofNat 7 n).toNat = n := by rw [BitVec.toNat_ofNat, Nat.mod_eq_of_lt hn]
  rw [exec_sset, execSset, hnat]
  refine congrArg (fun body => issue _ body s) (funext fun v => ?_)
  split
  · next h => exact absurd rfl hA
  · next h => exact absurd rfl hB
  · rfl

-- ## The writes of SSET

theorem setSpecial_bank (v : View) {i : Nat} (hi : i < 6) (x : Word) : v.setSpecial (0x41 + i) x =
    v.s.modGroup v.k fun g => g.setBank g.mode ((g.bank g.mode).setWord i x) := by
  interval_cases i <;> rfl

theorem setSpecial_sbank (v : View) {i : Nat} (hi : i < 6) (x : Word) : v.setSpecial (0x68 + i) x =
    v.s.modGroup v.k fun g => { g with sbank := g.sbank.setWord i x } := by
  interval_cases i <;> rfl

theorem setSpecial_readOnly (v : View) {n : Nat} (hn : n < 0x1C ∨ n ∈ [0x40, 0x47, 0x49, 0x4B]) (x : Word) : v.setSpecial n x = v.s := by
  rcases hn with hn | hn
  · interval_cases n <;> rfl
  · simp only [List.mem_cons, List.not_mem_nil, or_false] at hn
    rcases hn with rfl | rfl | rfl | rfl <;> rfl

theorem setBank_onPath (g : Group) (m : Mode) (b : Bank) (c : Option Path) : { g with cur := c }.setBank m b = { g.setBank m b with cur := c } := by
  cases m <;> rfl

theorem modTeam_rest (s : State) (u : TKey) (f : Team → Team) : (s.modTeam u f).rest = s.rest.modTeam u f := by
  have hteams : s.rest.teams = s.teams := rfl
  unfold State.modTeam
  rw [hteams]
  split <;> rfl

theorem specialRefused_of_privileged {m : Mode} (hm : m ≠ .user) {n : Nat} (hn : n < 0x60) : specialRefused m n = false := by
  cases m with
  | user => exact absurd rfl hm
  | supervisor => exact decide_eq_false (Nat.not_le.2 hn)
  | hypervisor => rfl

section
variable {s s' s1 : State} {k : GKey} {g g1 q : Group} {p : Path} {a : Reg}

/-- A change of the team of the group that issues. -/
theorem sets_modTeam (u : TKey) (f : Team → Team) : Sets (s.modTeam u f) ((s.view k g p none).s.modTeam u f) k (g.counted s.issued) := by
  refine ⟨?_, ?_, fun j hj => ?_⟩
  · rw [State.modTeam_groups]
    exact view_found none
  · rw [modTeam_rest, modTeam_rest, view_rest]
  · rw [State.modTeam_groups, State.modTeam_groups]
    exact view_others none hj

/-- A change of the core of the group that issues. -/
theorem sets_modCore (c : Nat) (f : Core → Core) : Sets (s.modCore c f) ((s.view k g p none).s.modCore c f) k (g.counted s.issued) :=
  ⟨view_found (p := p) none, rfl, fun _ hj => view_others (p := p) none hj⟩

/-- An SSET that its group's mode may execute, and whose source is uniform where it must be. -/
theorem sset_becomes {n : Nat} {body : View → Res} (hexec : exec (.sset a (BitVec.ofNat 7 n)) s = issue (fun v => ssetForm v.g.mode a n) body s)
    (hi : Issuing s k g p) (hr : Ready s k g p [a.toNat] [a.toNat]) (hspecial : isSpecial n = true) (hmode : specialRefused g.mode n = false)
    (hu : takesAnySource n = true ∨ Uniform g p [a.toNat]) (hb : body (s.view k g p none) = .ok s1) (hs : Sets s' s1 k g1) (ha : g1.Alike q) :
    ∃ t h, exec (.sset a (BitVec.ofNat 7 n)) s = .next t ∧ Becomes s' t k { q with cur := some { p with pc := p.pc + 4#32 } } h := by
  rw [hexec]
  refine ok_becomes hi (ssetForm g.mode a n) rfl hr (by simp [ssetForm, hspecial]) hmode rfl ?_ (by simp [ssetForm]) hb hs ha
  unfold ssetForm
  dsimp only
  split
  · simp [Uniform]
  · exact hu.resolve_left ‹_›

theorem sset_aflags_becomes (hi : Issuing s k g p) (hr : Ready s k g p [a.toNat] [a.toNat]) : ∃ t h, exec (.sset a 0x0A#7) s = .next t ∧
    Becomes s t k { g with aflags := g.setLanes p.ex a.toNat g.aflags, cur := some { p with pc := p.pc + 4#32 } } h :=
  sset_becomes (n := 0x0A) (q := { g with aflags := g.setLanes p.ex a.toNat g.aflags }) (exec_sset_aflags a s) hi hr rfl
    (specialRefused_of_lt _ (by decide)) (.inl rfl) rfl ((sets_view s k g p none).modGroup _)
    ((counted_alike g s.issued).map (fun x : Group => { x with aflags := g.setLanes p.ex a.toNat x.aflags }) fun _ => rfl)

theorem sset_aen_becomes (hi : Issuing s k g p) (hr : Ready s k g p [a.toNat] [a.toNat]) : ∃ t h, exec (.sset a 0x0B#7) s = .next t ∧
    Becomes s t k { g with aen := g.setLanes p.ex a.toNat g.aen, cur := some { p with pc := p.pc + 4#32 } } h :=
  sset_becomes (n := 0x0B) (q := { g with aen := g.setLanes p.ex a.toNat g.aen }) (exec_sset_aen a s) hi hr rfl
    (specialRefused_of_lt _ (by decide)) (.inl rfl) rfl ((sets_view s k g p none).modGroup _)
    ((counted_alike g s.issued).map (fun x : Group => { x with aen := g.setLanes p.ex a.toNat x.aen }) fun _ => rfl)

/-- An SSET of a register that has one value for the group, whose write makes `g1` of the group and `s'` of the machine around it. -/
theorem sset_special_becomes {n : Nat} (hn : n < 128) (hA : n ≠ 0x0A) (hB : n ≠ 0x0B) (hi : Issuing s k g p)
    (hr : Ready s k g p [a.toNat] [a.toNat]) (hspecial : isSpecial n = true) (hmode : specialRefused g.mode n = false)
    (hu : takesAnySource n = true ∨ Uniform g p [a.toNat])
    (hs : Sets s' ((s.view k g p none).setSpecial n (g.seen a.toNat (lowestLane p.ex))) k g1) (ha : g1.Alike q) :
    ∃ t h, exec (.sset a (BitVec.ofNat 7 n)) s = .next t ∧ Becomes s' t k { q with cur := some { p with pc := p.pc + 4#32 } } h :=
  sset_becomes (exec_sset_uniform a hn hA hB s) hi hr hspecial hmode hu rfl hs ha

/-- An SSET of a read-only register. -/
theorem sset_readOnly_becomes {n : Nat} (hn : n < 0x1C ∨ n ∈ [0x40, 0x47, 0x49, 0x4B]) (hA : n ≠ 0x0A) (hB : n ≠ 0x0B) (hi : Issuing s k g p)
    (hr : Ready s k g p [a.toNat] [a.toNat]) (hmode : specialRefused g.mode n = false) (hu : takesAnySource n = true ∨ Uniform g p [a.toNat]) :
    ∃ t h, exec (.sset a (BitVec.ofNat 7 n)) s = .next t ∧ Becomes s t k { g with cur := some { p with pc := p.pc + 4#32 } } h := by
  obtain ⟨h128, hspecial⟩ : n < 128 ∧ isSpecial n = true := by
    rcases hn with hn | hn
    · exact ⟨by omega, (by decide : ∀ n < 0x1C, isSpecial n = true) n hn⟩
    · exact (by decide : ∀ n ∈ [0x40, 0x47, 0x49, 0x4B], n < 128 ∧ isSpecial n = true) n hn
  refine sset_special_becomes h128 hA hB hi hr hspecial hmode hu ?_ (counted_alike g s.issued)
  rw [setSpecial_readOnly _ hn]
  exact sets_view s k g p none

/-- An SSET of RSPEEK. -/
theorem sset_rspeek_becomes (hi : Issuing s k g p) (hr : Ready s k g p [a.toNat] [a.toNat]) (hm : g.mode ≠ .user) (hu : Uniform g p [a.toNat]) :
    ∃ t h, exec (.sset a 0x48#7) s = .next t ∧ Becomes s t k
      { g with rspeek := (g.seen a.toNat (lowestLane p.ex)).setWidth 7, cur := some { p with pc := p.pc + 4#32 } } h :=
  sset_special_becomes (n := 0x48) (q := { g with rspeek := (g.seen a.toNat (lowestLane p.ex)).setWidth 7 }) (by decide) (by decide) (by decide) hi hr
    rfl (specialRefused_of_privileged hm (by decide)) (.inr hu) ((sets_view s k g p none).modGroup _)
    ((counted_alike g s.issued).map (fun x : Group => { x with rspeek := (g.seen a.toNat (lowestLane p.ex)).setWidth 7 }) fun _ => rfl)

/-- An SSET of the bank of the current mode. -/
theorem sset_bank_becomes (hi : Issuing s k g p) (hr : Ready s k g p [a.toNat] [a.toNat]) (hm : g.mode ≠ .user) (hu : Uniform g p [a.toNat])
    {i : Nat} (h6 : i < 6) : ∃ t h, exec (.sset a (BitVec.ofNat 7 (0x41 + i))) s = .next t ∧
      Becomes s t k ({ g with cur := some { p with pc := p.pc + 4#32 } }.setBank g.mode
        ((g.bank g.mode).setWord i (g.seen a.toNat (lowestLane p.ex)))) h := by
  rw [setBank_onPath]
  refine sset_special_becomes (by omega) (by omega) (by omega) hi hr ((by decide : ∀ i < 6, isSpecial (0x41 + i) = true) i h6)
    (specialRefused_of_privileged hm (by omega)) (.inr hu) ?_
    ((counted_alike g s.issued).map (fun x => x.setBank x.mode ((x.bank x.mode).setWord i (g.seen a.toNat (lowestLane p.ex)))) fun x => ?_)
  · rw [setSpecial_bank _ h6]
    exact (sets_view s k g p none).modGroup _
  · cases hmode : x.mode <;> simp [Group.setBank, Group.bank, Group.bare, hmode]

/-- An SSET of the supervisor bank from hypervisor mode. -/
theorem sset_sbank_becomes (hi : Issuing s k g p) (hr : Ready s k g p [a.toNat] [a.toNat]) (hm : g.mode = .hypervisor) (hu : Uniform g p [a.toNat])
    {i : Nat} (h6 : i < 6) : ∃ t h, exec (.sset a (BitVec.ofNat 7 (0x68 + i))) s = .next t ∧
      Becomes s t k { g with sbank := g.sbank.setWord i (g.seen a.toNat (lowestLane p.ex)), cur := some { p with pc := p.pc + 4#32 } } h := by
  refine sset_special_becomes (by omega) (by omega) (by omega) hi hr ((by decide : ∀ i < 6, isSpecial (0x68 + i) = true) i h6) (by rw [hm]; rfl)
    (.inr hu) ?_
    ((counted_alike g s.issued).map (fun x : Group => { x with sbank := x.sbank.setWord i (g.seen a.toNat (lowestLane p.ex)) }) fun _ => rfl)
  rw [setSpecial_sbank _ h6]
  exact (sets_view s k g p none).modGroup _

/-- An SSET, from hypervisor mode, of a register that the team holds. -/
theorem sset_team_becomes {n : Nat} {f : Team → Team} (hi : Issuing s k g p) (hr : Ready s k g p [a.toNat] [a.toNat]) (hm : g.mode = .hypervisor)
    (hu : Uniform g p [a.toNat]) (hn : n ∈ [0x60, 0x61, 0x62, 0x63, 0x64])
    (hf : (s.view k g p none).setSpecial n (g.seen a.toNat (lowestLane p.ex)) = (s.view k g p none).s.modTeam k.tkey f) :
    ∃ t h, exec (.sset a (BitVec.ofNat 7 n)) s = .next t ∧
      Becomes (s.modTeam k.tkey f) t k { g with cur := some { p with pc := p.pc + 4#32 } } h := by
  have hfacts : ∀ n ∈ [0x60, 0x61, 0x62, 0x63, 0x64], n < 128 ∧ n ≠ 0x0A ∧ n ≠ 0x0B ∧ isSpecial n = true := by decide
  obtain ⟨h128, hA, hB, hspecial⟩ := hfacts n hn
  refine sset_special_becomes h128 hA hB hi hr hspecial (by rw [hm]; rfl) (.inr hu) ?_ (counted_alike g s.issued)
  rw [hf]
  exact sets_modTeam k.tkey f

end

/-- Settles O13: each writable number by what it changes, the group, its team or its core, and the read-only ones as no change. -/
theorem specialRegisterWrites : Obligations.SpecialRegisterWrites := by
  refine ⟨fun s k g p hi a hr => ?_, fun s k g p hi a hr hu => ?_⟩
  · intro x lanes on put does
    have hput : ∀ b i, put b i = b.setWord i x := fun _ _ => rfl
    refine ⟨?_, ?_, fun n hn => ?_, fun hu => ⟨fun hm => ⟨fun i h6 => ?_, ?_⟩, fun hm i h6 => ?_⟩⟩
    · exact sset_aflags_becomes (g := g) hi hr
    · exact sset_aen_becomes (g := g) hi hr
    · have hfacts : ∀ n ∈ [0x00, 0x09, 0x0E, 0x0F], n < 0x1C ∧ n ≠ 0x0A ∧ n ≠ 0x0B ∧ takesAnySource n = true := by decide
      obtain ⟨hlow, hA, hB, htakes⟩ := hfacts n hn
      exact sset_readOnly_becomes (.inl hlow) hA hB hi hr (specialRefused_of_lt _ (by omega)) (.inl htakes)
    · rw [hput]
      exact sset_bank_becomes hi hr hm hu h6
    · exact sset_rspeek_becomes (g := g) hi hr hm hu
    · rw [hput]
      exact sset_sbank_becomes hi hr hm hu h6
  · intro x does
    refine ⟨fun hm => ?_, fun hm => ⟨?_, fun n hn => ?_⟩, fun n hn hA hB => ?_⟩
    · exact ⟨sset_team_becomes hi hr hm hu (by decide) rfl, sset_team_becomes hi hr hm hu (by decide) rfl,
        sset_team_becomes hi hr hm hu (by decide) rfl, sset_team_becomes hi hr hm hu (by decide) rfl, sset_team_becomes hi hr hm hu (by decide) rfl⟩
    · exact sset_special_becomes (by decide) (by decide) (by decide) hi hr rfl (specialRefused_of_privileged hm (by decide)) (.inr hu)
        (sets_modCore (p := p) (s.coreOf k) _) (counted_alike g s.issued)
    · have hfacts : ∀ n ∈ [0x40, 0x47, 0x49, 0x4B], n < 0x60 ∧ n ≠ 0x0A ∧ n ≠ 0x0B := by decide
      obtain ⟨h60, hA, hB⟩ := hfacts n hn
      exact sset_readOnly_becomes (.inr hn) hA hB hi hr (specialRefused_of_privileged hm h60) (.inr hu)
    · exact sset_readOnly_becomes (.inl hn) hA hB hi hr (specialRefused_of_lt _ (by omega)) (.inr hu)

end Sys2Proof.Machine

namespace Sys2Proof.Machine

/-! The floating instructions of one, two and three sources, as the shared operation on a function of words (R117, R119, R128 to R139). -/

section
variable {s : State} {k : GKey} {g : Group} {p : Path} {d a b : Reg}

/-- To name a register twice demands nothing more. -/
theorem Ready.again {n : Nat} {names reads : List Nat} (hr : Ready s k g p (n :: names) reads) : Ready s k g p (n :: n :: names) reads :=
  ⟨hr.waits, by simpa using hr.window, hr.early⟩

theorem float1_now {f : Word → Word × Flags} {factor : Nat} (hi : Issuing s k g p) (hr : Ready s k g p [d.toNat, a.toNat] [a.toNat]) :
    ∃ t h, float1 factor none f d a s = .next t ∧ OnlyRegs s t k g h [g.wbasev + d.toNat] ∧ GoesOn h p (p.pc + 4#32) ∧
      (Flags.into g h p.ex fun L => (f (g.seen a.toNat L)).2) ∧ Writes g h p.ex (g.wbasev + d.toNat) fun L => (f (g.seen a.toNat L)).1 :=
  floatOp_now hi hr

theorem float2_now {f : Word → Word → Word × Flags} (hi : Issuing s k g p)
    (hr : Ready s k g p [d.toNat, a.toNat, b.toNat] [a.toNat, b.toNat]) :
    ∃ t h, float2 f d a b s = .next t ∧ OnlyRegs s t k g h [g.wbasev + d.toNat] ∧ GoesOn h p (p.pc + 4#32) ∧
      (Flags.into g h p.ex fun L => (f (g.seen a.toNat L) (g.seen b.toNat L)).2) ∧
      Writes g h p.ex (g.wbasev + d.toNat) fun L => (f (g.seen a.toNat L) (g.seen b.toNat L)).1 :=
  floatOp_now hi hr

theorem float3_now {f : Word → Word → Word → Word × Flags} (hi : Issuing s k g p)
    (hr : Ready s k g p [d.toNat, a.toNat, b.toNat] [d.toNat, a.toNat, b.toNat]) :
    ∃ t h, float3 none f d a b s = .next t ∧ OnlyRegs s t k g h [g.wbasev + d.toNat] ∧ GoesOn h p (p.pc + 4#32) ∧
      (Flags.into g h p.ex fun L => (f (g.seen d.toNat L) (g.seen a.toNat L) (g.seen b.toNat L)).2) ∧
      Writes g h p.ex (g.wbasev + d.toNat) fun L => (f (g.seen d.toNat L) (g.seen a.toNat L) (g.seen b.toNat L)).1 :=
  floatOp_now hi hr.again

theorem float1_sends {f : Word → Word × Flags} {factor latency : Nat} (hi : Issuing s k g p)
    (hr : Ready s k g p [d.toNat, a.toNat] [a.toNat]) :
    ∃ t h, float1 factor (some latency) f d a s = .next t ∧ OnlyRegs s t k g h [g.wbasev + d.toNat] ∧ h.aflags = g.aflags ∧
      GoesOn h p (p.pc + 4#32) ∧ h.reg (g.wbasev + d.toNat) = g.reg (g.wbasev + d.toNat) ∧
      Sends h p.ex (g.wbasev + d.toNat) (some (latency - (1 + s.slotW.toNat))) (fun L => (f (g.seen a.toNat L)).1)
        fun L => (f (g.seen a.toNat L)).2 :=
  floatOp_fixed hi hr

theorem float3_sends {f : Word → Word → Word → Word × Flags} {latency : Nat} (hi : Issuing s k g p)
    (hr : Ready s k g p [d.toNat, a.toNat, b.toNat] [d.toNat, a.toNat, b.toNat]) :
    ∃ t h, float3 (some latency) f d a b s = .next t ∧ OnlyRegs s t k g h [g.wbasev + d.toNat] ∧ h.aflags = g.aflags ∧
      GoesOn h p (p.pc + 4#32) ∧ h.reg (g.wbasev + d.toNat) = g.reg (g.wbasev + d.toNat) ∧
      Sends h p.ex (g.wbasev + d.toNat) (some (latency - (1 + s.slotW.toNat)))
        (fun L => (f (g.seen d.toNat L) (g.seen a.toNat L) (g.seen b.toNat L)).1)
        fun L => (f (g.seen d.toNat L) (g.seen a.toNat L) (g.seen b.toNat L)).2 :=
  floatOp_fixed hi hr.again

theorem float1_congr {f f' : Word → Word × Flags} {factor : Nat} {latency : Option Nat} (h : ∀ x, f x = f' x) :
    float1 factor latency f d a s = float1 factor latency f' d a s := by
  rw [funext h]

theorem float3_congr {f f' : Word → Word → Word → Word × Flags} {latency : Option Nat} (h : ∀ z x y, f z x y = f' z x y) :
    float3 latency f d a b s = float3 latency f' d a b s := by
  rw [funext₃ h]

end

/-- Settles O5: each instruction is the shared operation of its number of sources, on the function of words that the claim writes out. -/
theorem floatArithmeticResults : Obligations.FloatArithmeticResults := by
  refine ⟨fun s k g p hi d a b hr => ?_, fun s k g p hi d a b hr => ?_⟩
  · intro cmp half both x hx
    suffices hexec : exec x.1 s = float2 x.2 d a b s by rw [hexec]; exact float2_now hi hr
    revert x
    simp only [List.forall_mem_cons]
    exact ⟨exec_fadd d a b s, exec_fsub d a b s, exec_fmul d a b s, exec_fmin d a b s, exec_fmax d a b s, exec_fseq d a b s, exec_fslt d a b s,
      exec_fsle d a b s, exec_badd2 d a b s, exec_bmul2 d a b s, List.forall_mem_nil _⟩
  · intro paired x hx
    suffices hexec : exec x.1 s = float3 none x.2 d a b s by rw [hexec]; exact float3_now hi hr
    revert x
    simp only [List.forall_mem_cons]
    exact ⟨exec_ffma d a b s, exec_bfma2 d a b s, exec_hfma2 d a b s, List.forall_mem_nil _⟩

end Sys2Proof.Machine

namespace Sys2Proof.Machine

/-! The choices of FMIN and FMAX, the classes of FCLASS, and the rounding of a value that FP32 holds (R53, R128, R129, R132). -/

-- ## FMIN and FMAX (R129)

theorem minMax_flags (max : Bool) (a b : Word) : (minMax max a b).2 = if (f32 a).isSig || (f32 b).isSig then flagNV else 0#5 := rfl

/-- A NaN gives way to the other operand. -/
theorem minMax_nan_right {a b : Word} (ha : (f32 a).isNan = false) (hb : (f32 b).isNan = true) (max : Bool) : (minMax max a b).1 = a := by
  simp only [minMax, ha, hb]

theorem minMax_nan_left {a b : Word} (ha : (f32 a).isNan = true) (hb : (f32 b).isNan = false) (max : Bool) : (minMax max a b).1 = b := by
  simp only [minMax, ha, hb]

theorem minMax_nan_both {a b : Word} (ha : (f32 a).isNan = true) (hb : (f32 b).isNan = true) (max : Bool) :
    (minMax max a b).1 = 0x7FC00000#32 := by
  simp only [minMax, ha, hb]
  rfl

theorem minMax_of_lt {a b : Word} (ha : (f32 a).isNan = false) (hb : (f32 b).isNan = false) (h : orderKey a < orderKey b) (max : Bool) :
    (minMax max a b).1 = if max then b else a := by
  simp only [minMax, ha, hb, decide_eq_true h, Bool.true_or]
  cases max <;> rfl

theorem minMax_of_gt {a b : Word} (ha : (f32 a).isNan = false) (hb : (f32 b).isNan = false) (h : orderKey b < orderKey a) (max : Bool) :
    (minMax max a b).1 = if max then a else b := by
  simp only [minMax, ha, hb, decide_eq_false h.asymm, beq_false_of_ne h.ne', Bool.false_and, Bool.or_false]
  cases max <;> rfl

-- ## FCLASS (R132)

theorem fraction_eq (a : Word) : natBits a.toNat 22 0 = a.toNat % 2 ^ 23 := congrArg (· % 2 ^ 23) (Nat.div_one _)

/-- The class by the exponent and the fraction of the encoding. -/
theorem classOf_eq (a : Word) : classOf a =
    if natBits a.toNat 30 23 = 255 then
      (if natBits a.toNat 22 0 = 0 then (if a.msb then 0x001#32 else 0x080#32) else if 2 ^ 22 ≤ natBits a.toNat 22 0 then 0x200#32 else 0x100#32)
    else if natBits a.toNat 30 23 = 0 then
      (if natBits a.toNat 22 0 = 0 then (if a.msb then 0x008#32 else 0x010#32) else if a.msb then 0x004#32 else 0x020#32)
    else if a.msb then 0x002#32 else 0x040#32 := by
  have hexp : natBits a.toNat 30 23 = a.toNat / 2 ^ 23 % 2 ^ 8 := rfl
  have hlt : a.toNat % 2 ^ 23 < 2 ^ 23 := Nat.mod_lt _ (Nat.two_pow_pos 23)
  rw [fraction_eq, hexp, classOf, f32_eq]
  generalize a.toNat % 2 ^ 23 = frac at hlt
  by_cases htop : a.toNat / 2 ^ 23 % 2 ^ 8 = 255
  · rw [if_pos htop, if_pos htop]
    by_cases hinf : frac = 0
    · rw [if_pos hinf, if_pos hinf]
    · rw [if_neg hinf, if_neg hinf]
      simp only [decide_eq_true_eq, ← Nat.not_le, ite_not]
  · rw [if_neg htop, if_neg htop]
    by_cases hzero : a.toNat / 2 ^ 23 % 2 ^ 8 = 0
    · simp only [if_pos hzero, if_pos hlt]
    · simp only [if_neg hzero, if_neg (show ¬ 2 ^ 23 + frac = 0 by omega), if_neg (show ¬ 2 ^ 23 + frac < 2 ^ 23 by omega)]

-- ## Encodings that round to themselves (R53, R128)

/-- An encoding that is not a NaN is finite or infinite. -/
theorem finite_or_inf_of_not_nan {a : Word} (h : (f32 a).isNan = false) : a.toNat % 2 ^ 31 < 0x7F800000 ∨ a.toNat % 2 ^ 31 = 0x7F800000 := by
  rw [f32_eq] at h
  by_cases htop : a.toNat / 2 ^ 23 % 2 ^ 8 = 255
  · by_cases hfrac : a.toNat % 2 ^ 23 = 0
    · omega
    · rw [if_pos htop, if_neg hfrac] at h
      exact nomatch h
  · omega

theorem signBit_add_magnitude (a : Word) : fp32.signBit a.msb + a.toNat % 2 ^ 31 = a.toNat := by
  have hlt := a.isLt
  have hsign : fp32.signBit a.msb = if a.msb then 2 ^ 31 else 0 := by cases a.msb <;> rfl
  rw [hsign, BitVec.msb_eq_decide]
  split
  · have := of_decide_eq_true ‹_›
    omega
  · have := of_decide_eq_false (Bool.eq_false_iff.2 ‹_›)
    omega

/-- The code of a place and a significand. -/
theorem place32_mag32 (m : Nat) : place32 m * 2 ^ 23 + mag32 m = m := by
  unfold place32 mag32
  split <;> omega

/-- The significand fills its 24 bits unless its place is the lowest. -/
theorem max_log2_mag32 {m : Nat} (h : 0 < m) : max ((Nat.log2 (mag32 m) : Int) + ((place32 m : Int) - 149)) (-126) = (place32 m : Int) - 126 := by
  by_cases hsmall : m < 2 ^ 23
  · have hlog : Nat.log2 m < 23 := (Nat.log2_lt h.ne').2 hsmall
    rw [mag32, if_pos hsmall, place32]
    omega
  · have hlog : Nat.log2 (2 ^ 23 + m % 2 ^ 23) = 23 := (Nat.log2_eq_iff (by omega)).2 (by omega)
    rw [mag32, if_neg hsmall, hlog, place32]
    omega

theorem round_finite (neg : Bool) {m : Nat} (h : m < 0x7F800000) :
    fp32.rne (.num neg (mag32 m) ((place32 m : Int) - 149)) = (fp32.signBit neg + m, 0#5) := by
  rcases Nat.eq_zero_or_pos m with rfl | hpos
  · rfl
  have hmag : mag32 m ≠ 0 := (mag32_pos hpos).ne'
  have hplace : ((place32 m : Int) - 126 - 23) = (place32 m : Int) - 149 := by omega
  have hcode : ((place32 m : Int) - 126 + 127 - 1).toNat = place32 m := by omega
  have hemin : fp32.emin = -126 := rfl
  have hneg : (neg && decide (fp32.kind ≠ .scale)) = neg := Bool.and_true neg
  have hexact : roundAt .rne neg (mag32 m) ((place32 m : Int) - 149) ((place32 m : Int) - 149) = (mag32 m, false) := by
    simp [roundAt]
  have hscale : ¬ fp32.kind = .scale := by decide
  have hmax : ¬ fp32.maxEnc < m := Nat.not_lt.2 (Nat.le_of_lt_succ h)
  have hfrac : fp32.frac = 23 := rfl
  have hbias : fp32.bias = 127 := rfl
  simp only [FFormat.rne, FFormat.round, if_neg hmag, hneg, hemin, max_log2_mag32 hpos, hfrac, hbias, Nat.cast_ofNat, hplace, hexact, hcode,
    place32_mag32, if_neg hscale, if_neg hmax, decide_eq_false hscale, Bool.false_and, Bool.false_eq_true, if_false]

/-- A value that FP32 holds rounds to its own encoding, without a flag. -/
theorem toF32_f32 {a : Word} (h : (f32 a).isNan = false) : toF32 (f32 a) = (a, 0#5) := by
  have hcode : fp32.rne (f32 a) = (a.toNat, 0#5) := by
    rw [← signBit_add_magnitude a]
    rcases finite_or_inf_of_not_nan h with hlt | heq
    · rw [f32_of_lt hlt]
      exact round_finite a.msb hlt
    · rw [f32_of_eq heq, heq]
      rfl
  rw [toF32, hcode, asWord, BitVec.ofNat_toNat, BitVec.setWidth_eq]

/-- Settles O6: FMIN and FMAX by which operands are NaN and by their order, FCLASS by the fields of its source, and the rounding of an encoding by its
significand and its place. -/
theorem floatChoicesAndClasses : Obligations.FloatChoicesAndClasses := by
  refine ⟨fun a b => ⟨?_, ?_, ?_, ?_, by decide, minMax_flags false a b, rfl⟩, classOf_eq, fun a => toF32_f32⟩
  · exact fun ha hb => ⟨minMax_nan_right ha hb false, minMax_nan_right ha hb true⟩
  · exact fun ha hb => ⟨minMax_nan_left ha hb false, minMax_nan_left ha hb true⟩
  · exact fun ha hb => ⟨minMax_nan_both ha hb false, minMax_nan_both ha hb true⟩
  · exact fun ha hb => ⟨fun h => ⟨minMax_of_lt ha hb h false, minMax_of_lt ha hb h true⟩,
      fun h => ⟨minMax_of_gt ha hb h false, minMax_of_gt ha hb h true⟩⟩

end Sys2Proof.Machine

namespace Sys2Proof.Machine

/-! The functions of the FMA unit (R131, R132). -/

/-- A function of numbers gives the canonical NaN for a NaN. -/
theorem onNumber_eq (f : Word → Word) (a : Word) : onNumber f a =
    if (f32 a).isNan then (0x7FC00000#32, if (f32 a).isSig then flagNV else 0#5) else (f a, 0#5) := by
  unfold onNumber
  cases f32 a <;> rfl

/-- What rounding to an integer makes of a magnitude whose integer part is `whole`, with `rest` units beyond it (R52, R53). -/
def roundedWhole (mode : RMode) (neg : Bool) (whole rest unit : Nat) : Nat :=
  match mode with
  | .rne => if 2 * rest < unit ∨ 2 * rest = unit ∧ whole % 2 = 0 then whole else whole + 1
  | .rz => whole
  | .ru => if rest = 0 ∨ neg = true then whole else whole + 1
  | .rd => if rest = 0 ∨ neg = false then whole else whole + 1

theorem roundShift_eq (mode : RMode) (neg : Bool) (mag d : Nat) :
    (roundShift mode neg mag d).1 = roundedWhole mode neg (mag / 2 ^ d) (mag % 2 ^ d) (2 ^ d) := by
  unfold roundShift roundedWhole
  cases mode with
  | rne =>
    dsimp only
    rw [← ite_not]
    refine if_congr ?_ rfl rfl
    simp only [Bool.or_eq_true, Bool.and_eq_true, decide_eq_true_eq, beq_iff_eq]
    omega
  | rz => rfl
  | ru | rd => cases neg <;> by_cases hrest : mag % 2 ^ d = 0 <;> simp [hrest]

/-- A magnitude of 2^23 or more has no bits below its units. -/
theorem integral_of_large (mode : RMode) {a : Word} (h : (f32 a).isNan = false) (hlarge : 0x4B000000 ≤ a.toNat % 2 ^ 31) : integral mode a = a := by
  rcases finite_or_inf_of_not_nan h with hlt | heq
  · have hplace : 0 ≤ (place32 (a.toNat % 2 ^ 31) : Int) - 149 := by
      unfold place32
      omega
    simp only [integral, f32_of_lt hlt, if_pos hplace]
  · simp only [integral, f32_of_eq heq]

/-- A number with bits below its units rounds to the integer that the mode names, under its own sign. -/
theorem integral_of_fraction (mode : RMode) {a : Word} {neg : Bool} {mag : Nat} {exp : Int} (hf : f32 a = .num neg mag exp) (hexp : exp < 0) :
    integral mode a = (toF32 (.num neg (roundedWhole mode neg (mag / 2 ^ (-exp).toNat) (mag % 2 ^ (-exp).toNat) (2 ^ (-exp).toNat)) 0)).1 := by
  simp only [integral, hf, if_neg (not_le.2 hexp), roundAt, zero_sub, roundShift_eq]
  rfl

theorem place32_lt {m : Nat} (h : m < 0x4B000000) : (place32 m : Int) - 149 < 0 := by
  unfold place32
  omega

/-- Settles O7: the shared operation on each function of words, and the roundings by whether the source has bits below its units. -/
theorem oneSourceFloatResults : Obligations.OneSourceFloatResults := by
  refine ⟨fun s k g p hi d a hr => ?_, fun a ha => ⟨fun hlarge mode _ => integral_of_large mode ha hlarge, fun hsmall => ?_⟩⟩
  · intro num x hx
    suffices hexec : exec x.1 s = float1 1 none x.2 d a s by rw [hexec]; exact float1_now hi hr
    revert x
    simp only [List.forall_mem_cons]
    have hnum : ∀ f, float1 1 none (onNumber f) d a s = float1 1 none (num f) d a s := fun f => float1_congr (onNumber_eq f)
    exact ⟨(exec_fabs d a s).trans (hnum _), (exec_fneg d a s).trans (hnum _), (exec_frndn d a s).trans (hnum _), (exec_frndz d a s).trans (hnum _),
      (exec_frndp d a s).trans (hnum _), (exec_frndm d a s).trans (hnum _), exec_fclass d a s, List.forall_mem_nil _⟩
  · have hf := f32_of_lt (show a.toNat % 2 ^ 31 < 0x7F800000 by omega)
    have hexp := place32_lt hsmall
    exact ⟨_, _, hf, hexp, integral_of_fraction .rz hf hexp, integral_of_fraction .ru hf hexp, integral_of_fraction .rd hf hexp,
      integral_of_fraction .rne hf hexp⟩

end Sys2Proof.Machine

namespace Sys2Proof.Machine

/-! The special functions and the dot products as instructions (R133, R137 to R139). -/

/-- A field read as a signed number is a bit vector's integer. -/
theorem signedOf_eq_toInt {n : Nat} (hn : 0 < n) (x : Nat) : signedOf n x = (BitVec.ofNat n x).toInt := by
  have htwice : 2 ^ n = 2 * 2 ^ (n - 1) := by rw [← pow_succ', Nat.sub_add_cancel hn]
  have hhalf : x % 2 ^ n < 2 ^ (n - 1) ↔ 2 * (x % 2 ^ n) < 2 ^ n := by omega
  rw [signedOf, BitVec.toInt_eq_toNat_cond, BitVec.toNat_ofNat]
  exact if_congr hhalf rfl rfl

theorem clampInt_eq_max_min {lo hi : Int} (h : lo ≤ hi) (i : Int) : clampInt lo hi i = max lo (min hi i) := by
  unfold clampInt
  split
  · omega
  · split <;> omega

theorem foldl_add_eq_add_sum (i : Int) (is : List Int) : is.foldl (· + ·) i = i + is.sum := by
  calc is.foldl (· + ·) i = is.foldl (· + ·) (i + 0) := by rw [add_zero]
    _ = i + is.foldl (· + ·) 0 := List.foldl_assoc
    _ = i + is.sum := by rw [List.sum_eq_foldl]

/-- DOT4I and DOT8I in the library's terms. -/
theorem dotInt_eq {n : Nat} (hn : 0 < n) (d a b : Word) : dotInt n d a b =
    (BitVec.ofInt 32 (max (-2 ^ 31) (min (2 ^ 31 - 1) (d.toInt +
      ((List.range (32 / n)).map fun i => (BitVec.ofNat n (element a n i)).toInt * (BitVec.ofNat n (element b n i)).toInt).sum))), 0#5) := by
  simp only [dotInt, signedOf_eq_toInt hn, foldl_add_eq_add_sum, clampInt_eq_max_min (show (-2 ^ 31 : Int) ≤ 2 ^ 31 - 1 by decide)]

/-- Settles O9: each is the shared operation with its latency, on its function of words. -/
theorem specialFunctionsAndDotProducts : Obligations.SpecialFunctionsAndDotProducts := by
  intro s k g p hi d a b
  refine ⟨fun hr x hx => ?_, fun hr => ?_⟩
  · suffices hexec : exec x.1 s = float1 4 (some 24) x.2 d a s by beta_reduce; rw [hexec]; exact float1_sends hi hr
    revert x
    simp only [List.forall_mem_cons]
    exact ⟨exec_frcp d a s, exec_frsq d a s, exec_fsqrt d a s, exec_fex2 d a s, exec_flg2 d a s, exec_fsin d a s, exec_fcos d a s,
      List.forall_mem_nil _⟩
  · intro part int flt x hx
    suffices hexec : exec x.1 s = float3 (some 10) x.2 d a b s by rw [hexec]; exact float3_sends hi hr
    revert x
    simp only [List.forall_mem_cons]
    exact ⟨(exec_dot4i d a b s).trans (float3_congr (dotInt_eq (by decide))), (exec_dot8i d a b s).trans (float3_congr (dotInt_eq (by decide))),
      exec_dot4f d a b s, exec_dot8f d a b s, exec_dot2b d a b s, List.forall_mem_nil _⟩

end Sys2Proof.Machine

namespace Sys2Proof.Machine

/-! A conversion under reserved bits of FMT on a path without active lanes (R64, R107, R135). -/

/-- Where no partition holds anything, an instruction that traps as `Traps` says lets a cycle pass. -/
theorem Traps.cycle_lt {i : Instr} {s t : State} {k : GKey} {g : Group} {p : Path} {x : Pfx} {r : TrapReq} (h : Traps i s k g p x r)
    (hparts : s.parts = []) (ht : exec i s = .next t) : s.cycle < t.cycle := by
  obtain ⟨n, hn, hexec⟩ := h
  obtain rfl := Host.Outcome.next.inj (hexec.symm.trans ht)
  have hview : ((s.view k g p x).s.spend n).parts = [] := hparts
  rw [State.stepped_cycle, State.trap_cycle_of_parts_nil hview]
  calc s.cycle < s.cycle + n := Nat.lt_add_of_pos_right hn
    _ ≤ s.cycle + n + s.slotW.toNat := Nat.le_add_right _ _

/-- The path without active lanes, under an FMT with its lowest reserved bit set. -/
def idleReservedPath : Path := { idlePath with fmt := 0x400000#32 }
/-- Its group, whose register v0 is not uniform. -/
def idleReservedGroup : Group := { idleGroup with cur := some idleReservedPath }
/-- The machine after reset, with that group about to issue. -/
def idleReservedState : State := { idleState with groups := [(⟨0, 0, 0⟩, idleReservedGroup)] }

theorem issuing_idleReserved : Issuing idleReservedState ⟨0, 0, 0⟩ idleReservedGroup idleReservedPath := ⟨rfl, rfl, rfl⟩

theorem ready_idleReserved : Ready idleReservedState ⟨0, 0, 0⟩ idleReservedGroup idleReservedPath [] [0] := ⟨rfl, by simp, fun _ => rfl⟩

/-- A conversion that reads, in no lane, a register that is not uniform takes no beat: it traps with the cycle counter at 0. -/
theorem idle_cvt_cycle : ∃ t, exec (.cvtF32F16 0#7 0#7) idleReservedState = .next t ∧ t.cycle = 0 := by
  rw [exec_cvtF32F16, execCvtF32F16, convert]
  refine ⟨_, issue_trap issuing_idleReserved _ rfl rfl { cause := .illegal, lanes := 0#32 } rfl rfl, ?_⟩
  rw [State.stepped_cycle, State.trap_cycle_of_parts_nil rfl]
  decide

/-- Refutes O10: `Traps` asks for at least one beat, but on a path without active lanes, which `Issuing` admits, a conversion under reserved bits of
FMT whose source is not uniform takes none, as `beats` counts the active lanes. -/
theorem not_conversionResults : ¬ Obligations.ConversionResults := by
  rintro ⟨-, -, refusals⟩
  obtain ⟨reserved, -⟩ := refusals _ _ _ _ issuing_idleReserved 0#7 0#7 0#7
  have htraps := reserved (by decide) ready_idleReserved (.cvtF32F16 0#7 0#7) (by simp)
  obtain ⟨t, ht, hcycle⟩ := idle_cvt_cycle
  exact absurd (htraps.cycle_lt rfl ht) (by omega)

end Sys2Proof.Machine

/-! The canonical form of near memory under the model's operations (O59): which functions leave the form of scratchpads and columns exactly as it
was. Each lemma is an equivalence, so that `simp` carries the form back through a chain of updates. -/

namespace Sys2Proof.Machine

/-- The form, of the three fields of the state that it speaks of. -/
def NearForm (teams : KMap TKey Team) (saved : List Saved) (cores : KMap Nat Core) : Prop :=
  (∀ x ∈ teams, Memory.wf x.2.spad = true) ∧ (∀ x ∈ saved, Memory.wf x.keep.spad = true) ∧ ∀ c ∈ cores, Memory.wf c.2.column = true

@[simp] theorem nearForm_fields (s : State) : NearForm s.teams s.saved s.cores ↔ s.NearOk := Iff.rfl

/-- The form of a state that is written out: `simp` reads it from the three fields, whatever the others are. -/
@[simp] theorem nearOk_mk
    {a0 a1 a2 a3 a4 a5 a6 a7 a8 a9 a10 a11 a12 a13 a14 a15 a16 a17 a18 a19 a20 a21 a22 a23 a24 a25 a26 a27 a28 a29 a30 a31 a32 a33 a34 a35 a36 a37 a38 a39 a40 a41 a42 a43 a44 a45 a46 a47 a48 a49 a50 a51 a52 a53 a54 a55 a56 a57 a58 a59 a60 a61 a62 a64 a66 a67 a68 a69 a70 a72 a73 a74 a75 a76 a77 a78 a79 a80 a81 a82 a83 a84 a85 teams saved cores}
    :
    (State.mk a0 a1 a2 a3 a4 a5 a6 a7 a8 a9 a10 a11 a12 a13 a14 a15 a16 a17 a18 a19 a20 a21 a22 a23 a24 a25 a26 a27 a28 a29 a30 a31 a32 a33 a34 a35
      a36 a37 a38 a39 a40 a41 a42 a43 a44 a45 a46 a47 a48 a49 a50 a51 a52 a53 a54 a55 a56 a57 a58 a59 a60 a61 a62 teams a64 saved a66 a67 a68 a69 a70
      cores a72 a73 a74 a75 a76 a77 a78 a79 a80 a81 a82 a83 a84 a85).NearOk ↔ NearForm teams saved cores :=
  Iff.rfl

@[simp] theorem nearOk_ite {c : Prop} [Decidable c] (s t : State) : (if c then s else t).NearOk ↔ if c then s.NearOk else t.NearOk := by split <;> rfl

@[simp] theorem foldl_nearOk_iff {α : Type} {f : State → α → State} (h : ∀ s x, (f s x).NearOk ↔ s.NearOk) (l : List α) (s : State) :
    (l.foldl f s).NearOk ↔ s.NearOk := by
  induction l generalizing s with
  | nil => rfl
  | cons x l ih => rw [List.foldl_cons, ih, h]

@[simp] theorem foldl_fst_nearOk_iff {α β : Type} {f : State × β → α → State × β} (h : ∀ a x, (f a x).1.NearOk ↔ a.1.NearOk) (l : List α)
    (a : State × β) :
    (l.foldl f a).1.NearOk ↔ a.1.NearOk := by
  induction l generalizing a with
  | nil => rfl
  | cons x l ih => rw [List.foldl_cons, ih, h]

/-- A value put into a map passes a test when the old value of its key does, an absent one's default passing it. -/
theorem forall_mem_kput_iff {κ α : Type} [DecidableEq κ] {P : α → Prop} {m : KMap κ α} {k : κ} {x d : α} (hd : P d)
    (hx : P x ↔ P ((kfind m k).getD d)) :
    (∀ y ∈ kput m k x, P y.2) ↔ ∀ y ∈ m, P y.2 := by
  induction m with
  | nil => simpa [kput] using hx.2 hd
  | cons y m ih =>
    obtain ⟨a, y⟩ := y
    by_cases e : a = k
    · simp only [kfind, e, if_true, Option.getD_some] at hx
      simp [kput, e, hx]
    · simp only [kfind, e, if_false] at hx
      simp only [kput, e, if_false, List.forall_mem_cons, ih hx]

@[simp] theorem modTeam_nearOk_iff (s : State) (t : TKey) (f : Team → Team) (h : ∀ x, (f x).spad = x.spad) : (s.modTeam t f).NearOk ↔ s.NearOk := by
  unfold State.modTeam
  split
  · rfl
  · next x hx =>
    exact and_congr (forall_mem_kput_iff (P := fun y : Team => Memory.wf y.spad = true) (d := {}) rfl (by simp [h, hx])) Iff.rfl

@[simp] theorem modCore_nearOk_iff (s : State) (c : Nat) (f : Core → Core) (h : ∀ x, (f x).column = x.column) : (s.modCore c f).NearOk ↔ s.NearOk :=
  and_congr Iff.rfl (and_congr Iff.rfl (forall_mem_kput_iff (P := fun y : Core => Memory.wf y.column = true) (d := {}) rfl (by simp [h, State.core])))

@[simp] theorem setGroup_nearOk_iff (s : State) (k : GKey) (g : Group) : (s.setGroup k g).NearOk ↔ s.NearOk := by simp [State.setGroup]

@[simp] theorem modGroup_nearOk_iff (s : State) (k : GKey) (f : Group → Group) : (s.modGroup k f).NearOk ↔ s.NearOk := by
  unfold State.modGroup
  split <;> simp

@[simp] theorem modGrid_nearOk_iff (s : State) (n : Nat) (f : Grid → Grid) : (s.modGrid n f).NearOk ↔ s.NearOk := by
  unfold State.modGrid
  split <;> simp

@[simp] theorem modPart_nearOk_iff (s : State) (c p : Nat) (f : Part → Part) : (s.modPart c p f).NearOk ↔ s.NearOk := by simp [State.modPart]
@[simp] theorem later_nearOk_iff (s : State) (ds : List Due) : (s.later ds).NearOk ↔ s.NearOk := by simp [State.later]
@[simp] theorem sooner_nearOk_iff (s : State) (ds : List Due) : (s.sooner ds).NearOk ↔ s.NearOk := by simp [State.sooner]

@[simp] theorem View.wrm_nearOk_iff (v : View) (s : State) (r : Nat) (mask : Word) (vals : Lanes Word) : (v.wrm s r mask vals).NearOk ↔ s.NearOk := by
  simp [View.wrm]

@[simp] theorem View.wr_nearOk_iff (v : View) (s : State) (r : Nat) (vals : Lanes Word) : (v.wr s r vals).NearOk ↔ s.NearOk := by simp [View.wr]

@[simp] theorem View.wrm2_nearOk_iff (v : View) (s : State) (r : Nat) (mask : Word) (vals : Lanes DWord) :
    (v.wrm2 s r mask vals).NearOk ↔ s.NearOk := by
  simp [View.wrm2]

@[simp] theorem View.wr2_nearOk_iff (v : View) (s : State) (r : Nat) (vals : Lanes DWord) : (v.wr2 s r vals).NearOk ↔ s.NearOk := by simp [View.wr2]

@[simp] theorem View.wrFixed_nearOk_iff (v : View) (s : State) (r : Nat) (latency : Nat) (vals : Lanes Word) (fl : Lanes (BitVec 5)) :
    (v.wrFixed s r latency vals fl).NearOk ↔ s.NearOk := by
  simp [View.wrFixed]

@[simp] theorem View.wrLater_nearOk_iff (v : View) (s : State) (r : Nat) (mask : Word) (vals : Lanes Word) (absent : Word) :
    (v.wrLater s r mask vals absent).NearOk ↔ s.NearOk := by
  simp [View.wrLater]

@[simp] theorem View.wrLaterFlags_nearOk_iff (v : View) (s : State) (r : Nat) (mask : Word) (vals : Lanes Word) (fl : Lanes (BitVec 5)) :
    (v.wrLaterFlags s r mask vals fl).NearOk ↔ s.NearOk := by
  simp [View.wrLaterFlags]

@[simp] theorem View.wrAwait_nearOk_iff (v : View) (s : State) (r : Nat) (mask : Word) (token : Nat) :
    (v.wrAwait s r mask token).NearOk ↔ s.NearOk := by
  simp [View.wrAwait]

@[simp] theorem View.wrLaterAll_nearOk_iff (v : View) (s : State) (r : Nat) (x : Word) : (v.wrLaterAll s r x).NearOk ↔ s.NearOk := by
  simp [View.wrLaterAll]

@[simp] theorem View.flagLater_nearOk_iff (v : View) (s : State) (fl : Lanes (BitVec 5)) : (v.flagLater s fl).NearOk ↔ s.NearOk := by
  simp [View.flagLater]

@[simp] theorem View.flag_nearOk_iff (v : View) (s : State) (fl : Lanes (BitVec 5)) : (v.flag s fl).NearOk ↔ s.NearOk := by simp [View.flag]
@[simp] theorem spend_nearOk_iff (s : State) (n : Nat) : (s.spend n).NearOk ↔ s.NearOk := by simp [State.spend]
@[simp] theorem endRun_nearOk_iff (s : State) (k : GKey) : (s.endRun k).NearOk ↔ s.NearOk := by simp [State.endRun]
@[simp] theorem holdIssue_nearOk_iff (s : State) (k : GKey) (ds : List Due) : (s.holdIssue k ds).NearOk ↔ s.NearOk := by simp [State.holdIssue]

@[simp] theorem stepped_nearOk_iff (s : State) (k : GKey) (g : Group) (trapped : Bool) : (s.stepped k g trapped).NearOk ↔ s.NearOk := by
  simp [State.stepped]

@[simp] theorem trapAlone_nearOk_iff (s : State) (k : GKey) (p : Path) (npc : Word) (r : TrapReq) : (s.trapAlone k p npc r).NearOk ↔ s.NearOk := by
  unfold State.trapAlone
  split <;> simp

@[simp] theorem emptyLatchN_nearOk_iff (n : Nat) (s : State) (k : GKey) (gang : GangId) (c : Cause) :
    (s.emptyLatchN n k gang c).NearOk ↔ s.NearOk := by
  induction n generalizing s gang c with
  | zero => rfl
  | succ n ih => unfold State.emptyLatchN; dsimp only; split <;> simp [ih]

@[simp] theorem emptyLatch_nearOk_iff (s : State) (k : GKey) (gang : GangId) (c : Cause) : (s.emptyLatch k gang c).NearOk ↔ s.NearOk :=
  emptyLatchN_nearOk_iff _ s k gang c

@[simp] theorem breakGang_nearOk_iff (s : State) (k : GKey) : (s.breakGang k).NearOk ↔ s.NearOk := by simp [State.breakGang]

@[simp] theorem trap_nearOk_iff (s : State) (k : GKey) (p : Path) (npc : Word) (r : TrapReq) : (s.trap k p npc r).NearOk ↔ s.NearOk := by
  simp [State.trap]

@[simp] theorem finish_nearOk_iff (s : State) (k : GKey) (n : Nat) (ended : Bool) : (s.finish k n ended).NearOk ↔ s.NearOk := by simp [State.finish]
@[simp] theorem askRekey_nearOk_iff (s : State) (dom : Nat) : (s.askRekey dom).NearOk ↔ s.NearOk := by simp [State.askRekey]

@[simp] theorem sendNow_nearOk_iff (s : State) (peer dom home o : Nat) (b : Body) : (s.sendNow peer dom home o b).NearOk ↔ s.NearOk := by
  simp [State.sendNow]

@[simp] theorem send_nearOk_iff (s : State) (peer dom home o : Nat) (b : Body) : (s.send peer dom home o b).NearOk ↔ s.NearOk := by simp [State.send]

theorem acceptFrom_nearOk_iff {s t : State} {p : RPacket} (h : s.acceptFrom p = some t) : t.NearOk ↔ s.NearOk := by
  unfold State.acceptFrom at h
  dsimp only at h
  (repeat' split at h) <;> simp_all only [reduceCtorEq, Option.some.injEq] <;> subst h <;> simp

@[simp] theorem acceptAll_nearOk_iff (s : State) (ps : List RPacket) : (s.acceptAll ps).1.NearOk ↔ s.NearOk :=
  foldl_fst_nearOk_iff (fun a p => by
    split
    · exact acceptFrom_nearOk_iff ‹_›
    · rfl) ps _

@[simp] theorem pushLine_nearOk_iff (s : State) (pa : Nat) : (s.pushLine pa).NearOk ↔ s.NearOk := foldl_nearOk_iff (fun s r => by split <;> simp) _ s

@[simp] theorem noteWrite_nearOk_iff (s : State) (pa core : Nat) (before after : Option Nat) (self : Option GKey) :
    (s.noteWrite pa core before after self).NearOk ↔ s.NearOk := by
  simp [State.noteWrite]

@[simp] theorem dropIf_nearOk_iff (s : State) (test : CacheLine → Bool) : (s.dropIf test).NearOk ↔ s.NearOk := by simp [State.dropIf]

@[simp] theorem dropCopies_nearOk_iff (s : State) (scope core base : Nat) (keep : CacheUnit → Bool) :
    (s.dropCopies scope core base keep).NearOk ↔ s.NearOk := by
  simp [State.dropCopies]

@[simp] theorem makeRoom_nearOk_iff (s : State) (u : CacheUnit) (set : Nat) : (s.makeRoom u set).NearOk ↔ s.NearOk := by
  unfold State.makeRoom; split
  · simp
  · split <;> simp

@[simp] theorem filterRoom_nearOk_iff (s : State) (base : Nat) : (s.filterRoom base).NearOk ↔ s.NearOk := by simp [State.filterRoom]

@[simp] theorem addCopy_nearOk_iff (s : State) (u : CacheUnit) (base : Nat) (st : LineState) (pol : Nat) :
    (s.addCopy u base st pol).NearOk ↔ s.NearOk := by
  simp [State.addCopy]

@[simp] theorem fillCopy_nearOk_iff (s : State) (core base pol : Nat) : (s.fillCopy core base pol).NearOk ↔ s.NearOk := by simp [State.fillCopy]
@[simp] theorem ownCopy_nearOk_iff (s : State) (core base pol : Nat) : (s.ownCopy core base pol).NearOk ↔ s.NearOk := by simp [State.ownCopy]

@[simp] theorem reachCopies_nearOk_iff (s : State) (core base before after : Nat) : (s.reachCopies core base before after).NearOk ↔ s.NearOk := by
  simp [State.reachCopies]

@[simp] theorem cleanCopies_nearOk_iff (s : State) (base : Nat) : (s.cleanCopies base).NearOk ↔ s.NearOk := by simp [State.cleanCopies]
@[simp] theorem recallHost_nearOk_iff (s : State) (pa : Nat) : (s.recallHost pa).NearOk ↔ s.NearOk := by simp [State.recallHost]
@[simp] theorem homeWrite_nearOk_iff (s : State) (pa : Nat) (bs : List Byte) : (s.homeWrite pa bs).NearOk ↔ s.NearOk := by simp [State.homeWrite]
@[simp] theorem arriveHome_nearOk_iff (s : State) (w : PWrite) : (s.arriveHome w).NearOk ↔ s.NearOk := by simp [State.arriveHome]
@[simp] theorem propagate_nearOk_iff (s : State) (test : PWrite → Bool) : (s.propagate test).NearOk ↔ s.NearOk := by simp [State.propagate]
@[simp] theorem settleRange_nearOk_iff (s : State) (pa n : Nat) : (s.settleRange pa n).NearOk ↔ s.NearOk := by simp [State.settleRange]

@[simp] theorem noteAt_nearOk_iff (s : State) (self : Option GKey) (place : Nat → Place) (old : List Byte) :
    (s.noteAt self place old).NearOk ↔ s.NearOk := by
  simp [State.noteAt]

@[simp] theorem forget_nearOk_iff (s : State) (test : GKey → Bool) : (s.forget test).NearOk ↔ s.NearOk := by simp [State.forget]

@[simp] theorem noteOwn_nearOk_iff (s : State) (self : Option GKey) (pa : Nat) (bs : List Byte) : (s.noteOwn self pa bs).NearOk ↔ s.NearOk := by
  simp [State.noteOwn]

@[simp] theorem rekeyLine_nearOk_iff (s : State) (pa slot : Nat) : (s.rekeyLine pa slot).NearOk ↔ s.NearOk := by simp [State.rekeyLine]

@[simp] theorem writeHome_nearOk_iff (s : State) (core : Nat) (self : Option GKey) (pa : Nat) (bs : List Byte) :
    (s.writeHome core self pa bs).NearOk ↔ s.NearOk := by
  simp [State.writeHome]

@[simp] theorem deviceWrite_nearOk_iff (s : State) (pa : Nat) (bs : List Byte) : (s.deviceWrite pa bs).NearOk ↔ s.NearOk := by
  simp [State.deviceWrite]

@[simp] theorem storeBytes_nearOk_iff (s : State) (core scope : Nat) (self : Option GKey) (f : Frame) (bs : List Byte) (pol : Nat) :
    (s.storeBytes core scope self f bs pol).NearOk ↔ s.NearOk := by
  simp [State.storeBytes]

@[simp] theorem widen_nearOk_iff (s : State) (id reach : Nat) : (s.widen id reach).NearOk ↔ s.NearOk := by unfold State.widen; split <;> simp
@[simp] theorem observe_nearOk_iff (s : State) (core pa n : Nat) : (s.observe core pa n).NearOk ↔ s.NearOk := by simp [State.observe]

@[simp] theorem observeAll_nearOk_iff (s : State) (core n : Nat) (fs : List Frame) : (s.observeAll core n fs).NearOk ↔ s.NearOk := by
  simp [State.observeAll]

@[simp] theorem loaded_nearOk_iff (s : State) (core : Nat) (f : Frame) (n pol : Nat) : (s.loaded core f n pol).NearOk ↔ s.NearOk := by
  simp [State.loaded]

@[simp] theorem rmwWrite_nearOk_iff (s : State) (core scope : Nat) (self : Option GKey) (f : Frame) (bs : List Byte) :
    (s.rmwWrite core scope self f bs).NearOk ↔ s.NearOk := by
  simp [State.rmwWrite]

@[simp] theorem peerWrite_nearOk_iff (s : State) (f : Frame) (bs : List Byte) : (s.peerWrite f bs).NearOk ↔ s.NearOk := by simp [State.peerWrite]
@[simp] theorem release_nearOk_iff (s : State) (core scope : Nat) : (s.release core scope).NearOk ↔ s.NearOk := by simp [State.release]

@[simp] theorem recallLine_nearOk_iff (s : State) (level core line : Nat) : (s.recallLine level core line).NearOk ↔ s.NearOk := by
  simp [State.recallLine]

@[simp] theorem poisonLine_nearOk_iff (s : State) (line : Nat) : (s.poisonLine line).NearOk ↔ s.NearOk := by simp [State.poisonLine]

@[simp] theorem countHealth_nearOk_iff (s : State) (kind : Nat) (times : Nat) : (s.countHealth kind times).NearOk ↔ s.NearOk := by
  simp [State.countHealth]

@[simp] theorem healthRecord_nearOk_iff (s : State) (kind addr core : Nat) : (s.healthRecord kind addr core).NearOk ↔ s.NearOk := by
  simp [State.healthRecord]

@[simp] theorem View.writeLoaded_nearOk_iff (v : View) (s : State) (d n : Nat) (mask absent : Word) (bs : Lanes (List Byte)) :
    (v.writeLoaded s d n mask absent bs).NearOk ↔ s.NearOk := by
  simp [View.writeLoaded]

@[simp] theorem View.atomicLanes_nearOk_iff (v : View) (ls : List (Fin 32 × Xlat)) (n scope : Nat) (op : Fin 32 → DWord → Option DWord × Flags) :
    (v.atomicLanes ls n scope op).1.NearOk ↔ v.s.NearOk :=
  foldl_fst_nearOk_iff (fun a p => by
    split
    · dsimp only; split <;> simp
    · rfl) ls _

@[simp] theorem writeBack_nearOk_iff (s : State) (scope core base : Nat) : (s.writeBack scope core base).NearOk ↔ s.NearOk := by
  simp [State.writeBack]

@[simp] theorem scrubLine_nearOk_iff (s : State) (line key : Nat) : (s.scrubLine line key).NearOk ↔ s.NearOk := by simp [State.scrubLine]

@[simp] theorem invalidate_nearOk_iff (s : State) (scope core base key : Nat) (priv : Bool) :
    (s.invalidate scope core base key priv).NearOk ↔ s.NearOk := by
  simp [State.invalidate]

@[simp] theorem writeBackInvalidate_nearOk_iff (s : State) (scope core base : Nat) : (s.writeBackInvalidate scope core base).NearOk ↔ s.NearOk := by
  simp [State.writeBackInvalidate]

@[simp] theorem modShoot_nearOk_iff (s : State) (id : Nat) (f : Shootdown → Shootdown) : (s.modShoot id f).NearOk ↔ s.NearOk := by
  simp [State.modShoot]

@[simp] theorem cacheTables_nearOk_iff (s : State) (block : Nat) (sp : Space) (va : Nat) (w : List Nat × Nat) :
    (s.cacheTables block sp va w).NearOk ↔ s.NearOk := by
  simp [State.cacheTables]

@[simp] theorem fillTlb_nearOk_iff (s : State) (u : TlbUnit) (set : Nat) (asid : BitVec 16) (va lvl leaf : Nat) :
    (s.fillTlb u set asid va lvl leaf).NearOk ↔ s.NearOk := by
  simp [State.fillTlb]

@[simp] theorem fillFor_nearOk_iff (s : State) (u : TlbUnit) (t : Team) (va lvl leaf : Nat) : (s.fillFor u t va lvl leaf).NearOk ↔ s.NearOk := by
  simp [State.fillFor]

@[simp] theorem copyError_nearOk_iff (s : State) (u : CacheUnit) (base core : Nat) : (s.copyError u base core).NearOk ↔ s.NearOk := by
  unfold State.copyError
  split <;> simp

@[simp] theorem hbmError_nearOk_iff (s : State) (pa core : Nat) : (s.hbmError pa core).NearOk ↔ s.NearOk := by simp [State.hbmError]
@[simp] theorem flushCaches_nearOk_iff (s : State) (mine : Nat → Bool) : (s.flushCaches mine).NearOk ↔ s.NearOk := by simp [State.flushCaches]
@[simp] theorem fenceCore_nearOk_iff (s : State) (c : Nat) : (s.fenceCore c).NearOk ↔ s.NearOk := by simp [State.fenceCore]
@[simp] theorem endRebuild_nearOk_iff (s : State) (d : Nat) : (s.endRebuild d).NearOk ↔ s.NearOk := by simp [State.endRebuild]
@[simp] theorem modGroups_nearOk_iff (s : State) (t : TKey) (f : Group → Group) : (s.modGroups t f).NearOk ↔ s.NearOk := by simp [State.modGroups]

@[simp] theorem endWaitsIn_nearOk_iff (s : State) (who : GKey → Bool) (test : Wait → Bool) : (s.endWaitsIn who test).NearOk ↔ s.NearOk := by
  simp [State.endWaitsIn]

@[simp] theorem openBarrier_nearOk_iff (s : State) (t : TKey) (which : Nat) : (s.openBarrier t which).NearOk ↔ s.NearOk := by simp [State.openBarrier]
@[simp] theorem checkTeamBarrier_nearOk_iff (s : State) (t : TKey) : (s.checkTeamBarrier t).NearOk ↔ s.NearOk := by simp [State.checkTeamBarrier]

@[simp] theorem checkClusterBarrier_nearOk_iff (s : State) (t : TKey) : (s.checkClusterBarrier t).NearOk ↔ s.NearOk := by
  simp [State.checkClusterBarrier]

@[simp] theorem checkGridBarrier_nearOk_iff (s : State) (slot : Nat) : (s.checkGridBarrier slot).NearOk ↔ s.NearOk := by
  unfold State.checkGridBarrier
  split <;> simp

@[simp] theorem checkBarriers_nearOk_iff (s : State) (t : TKey) : (s.checkBarriers t).NearOk ↔ s.NearOk := by simp [State.checkBarriers]

@[simp] theorem wakeLinked_nearOk_iff (s : State) (slot : Nat) (wlink : Word) (test : Wait → Bool) :
    (s.wakeLinked slot wlink test).NearOk ↔ s.NearOk := by
  simp [State.wakeLinked]

@[simp] theorem endTask_nearOk_iff (s : State) (t : TKey) (j : DWord) (how : TaskEnd) : (s.endTask t j how).NearOk ↔ s.NearOk := by
  unfold State.endTask
  split
  · rfl
  · dsimp only; split <;> simp

@[simp] theorem endTaskLanes_nearOk_iff (s : State) (k : GKey) (lanes : Word) (how : TaskEnd) : (s.endTaskLanes k lanes how).NearOk ↔ s.NearOk := by
  simp [State.endTaskLanes]

@[simp] theorem leaveActive_nearOk_iff (s : State) (k : GKey) : (s.leaveActive k).NearOk ↔ s.NearOk := by simp [State.leaveActive]
@[simp] theorem modPair_nearOk_iff (s : State) (c : Nat) (f : Pair → Pair) : (s.modPair c f).NearOk ↔ s.NearOk := by simp [State.modPair]
@[simp] theorem releaseBeam_nearOk_iff (s : State) (core : Nat) : (s.releaseBeam core).NearOk ↔ s.NearOk := by simp [State.releaseBeam]
@[simp] theorem dropCarry_nearOk_iff (s : State) (core part : Nat) : (s.dropCarry core part).NearOk ↔ s.NearOk := by simp [State.dropCarry]
@[simp] theorem dropLicence_nearOk_iff (s : State) (core : Nat) (x : Team) : (s.dropLicence core x).NearOk ↔ s.NearOk := by simp [State.dropLicence]
@[simp] theorem leaveTeam_nearOk_iff (s : State) (t : TKey) : (s.leaveTeam t).NearOk ↔ s.NearOk := by simp [State.leaveTeam]
@[simp] theorem orphanWork_nearOk_iff (s : State) (k : GKey) : (s.orphanWork k).NearOk ↔ s.NearOk := by simp [State.orphanWork]
@[simp] theorem View.send_nearOk_iff (v : View) (a : Nat) : (v.send a).NearOk ↔ v.s.NearOk := by simp [View.send]

@[simp] theorem View.claim_nearOk_iff (v : View) (d : Nat) (e : Lanes Word) (rest : List (Lanes Word)) : (v.claim d e rest).NearOk ↔ v.s.NearOk := by
  simp [View.claim]

@[simp] theorem View.setSpecial_nearOk_iff (v : View) (n : Nat) (x : Word) : (v.setSpecial n x).NearOk ↔ v.s.NearOk := by
  unfold View.setSpecial
  split <;> simp

@[simp] theorem nearClear_nearOk_iff (s : State) (x : NearAt) (us : List Nat) : (s.nearClear x us).NearOk ↔ s.NearOk := by
  unfold State.nearClear
  split
  · exact modTeam_nearOk_iff s _ _ fun y => by split <;> rfl
  · exact modCore_nearOk_iff s _ _ fun y => by split <;> rfl

@[simp] theorem answerAll_nearOk_iff (s : State) (k : GKey) (token : Nat) (x : Word) : (s.answerAll k token x).NearOk ↔ s.NearOk := by
  simp [State.answerAll]

@[simp] theorem fillRead_nearOk_iff (s : State) (mv : Mover) (host : Bool) (a n : Nat) : (s.fillRead mv host a n).NearOk ↔ s.NearOk := by
  unfold State.fillRead
  split <;> simp

@[simp] theorem fillReads_nearOk_iff (s : State) (mv : Mover) (layer : Nat) (ranges : List (Nat × Nat)) :
    (s.fillReads mv layer ranges).NearOk ↔ s.NearOk := by
  simp [State.fillReads]

@[simp] theorem copyStore_nearOk_iff (s : State) (core scope pol : Nat) (f : Frame) (bs : List Byte) :
    (s.copyStore core scope pol f bs).NearOk ↔ s.NearOk := by
  simp [State.copyStore]

@[simp] theorem heapChunk_nearOk_iff (s : State) (mv : Mover) (a : Nat) (bs : List Byte) (bad : Bool) :
    (s.heapChunk mv a bs bad).1.NearOk ↔ s.NearOk := by
  unfold State.heapChunk
  split <;> simp

@[simp] theorem nearSpoil_nearOk_iff (s : State) (at_ : NearAt) (bs : List (Byte × Nat)) : (s.nearSpoil at_ bs).NearOk ↔ s.NearOk := by
  unfold State.nearSpoil
  split <;> simp

@[simp] theorem fillUnit_nearOk_iff (s : State) (mv : Mover) (x : DWord) (i : Nat) : (s.fillUnit mv x i).NearOk ↔ s.NearOk := by
  unfold State.fillUnit; split
  · split <;> simp
  · simp

@[simp] theorem askPeer_nearOk_iff (s : State) (team : TKey) (t : Tensor) (origin : List Int) : (s.askPeer team t origin).NearOk ↔ s.NearOk := by
  simp [State.askPeer]

@[simp] theorem askAbsent_nearOk_iff (s : State) (team : TKey) (t : Tensor) (origin : List Int) (need : Need) :
    (s.askAbsent team t origin need).NearOk ↔ s.NearOk := by
  unfold State.askAbsent
  dsimp only
  split
  · rfl
  · split <;> simp

@[simp] theorem takeAnswers_nearOk_iff (s : State) (team : TKey) (r : Tensor) (a : EvArg) : (s.takeAnswers team r a).1.NearOk ↔ s.NearOk := by
  unfold State.takeAnswers
  split <;> simp

@[simp] theorem modTile_nearOk_iff (s : State) (t : TKey) (h : Word) (f : Tile → Tile) : (s.modTile t h f).NearOk ↔ s.NearOk := by
  simp [State.modTile]

@[simp] theorem setUcopy_nearOk_iff (s : State) (peer dom off : Nat) (bs : List Byte) (bad : Bool) :
    (s.setUcopy peer dom off bs bad).NearOk ↔ s.NearOk := by
  simp [State.setUcopy]

@[simp] theorem dropSubs_nearOk_iff (s : State) (test : Subscription → Bool) : (s.dropSubs test).NearOk ↔ s.NearOk := by simp [State.dropSubs]

@[simp] theorem serveLane_nearOk_iff (s : State) (dom src : Nat) (kind : RKind) (l : RLane) : (s.serveLane dom src kind l).1.NearOk ↔ s.NearOk := by
  unfold State.serveLane
  dsimp only
  split
  · rfl
  · rfl
  · split
    · simp
    · simp
    · dsimp only; split <;> simp
    · rfl

@[simp] theorem serveRead_nearOk_iff (s : State) (dom src off n : Nat) : (s.serveRead dom src off n).1.NearOk ↔ s.NearOk := by
  unfold State.serveRead
  split <;> simp

@[simp] theorem serveWrite_nearOk_iff (s : State) (dom src off : Nat) (bs : List Byte) (bad : Bool) :
    (s.serveWrite dom src off bs bad).1.NearOk ↔ s.NearOk := by
  unfold State.serveWrite
  split <;> simp

@[simp] theorem askPage_nearOk_iff (s : State) (dom : Nat) (found : Option (Nat × Nat)) : (s.askPage dom found).NearOk ↔ s.NearOk := by
  unfold State.askPage
  split <;> simp

@[simp] theorem serveCopy_nearOk_iff (s : State) (dom src off : Nat) (k : RKind) : (s.serveCopy dom src off k).1.NearOk ↔ s.NearOk := by
  unfold State.serveCopy
  split <;> simp

@[simp] theorem serve_nearOk_iff (s : State) (dom src : Nat) (kind : RKind) (lanes : List RLane) :
    (s.serve dom src kind lanes).1.NearOk ↔ s.NearOk := by
  unfold State.serve
  dsimp only
  rw [askPage_nearOk_iff]
  exact foldl_fst_nearOk_iff (fun a l => by dsimp only; split <;> simp) lanes _

@[simp] theorem passChecks_nearOk_iff (s : State) (k : GKey) (o : RemoteOp) : (s.passChecks k o).NearOk ↔ s.NearOk := by simp [State.passChecks]

@[simp] theorem completeRemote_nearOk_iff (s : State) (k : GKey) (o : RemoteOp) : (s.completeRemote k o).NearOk ↔ s.NearOk := by
  simp [State.completeRemote]

@[simp] theorem noteAnswers_nearOk_iff (s : State) (k : GKey) (id : Nat) (good : List RAnswer) (bad : List RFail) :
    (s.noteAnswers k id good bad).NearOk ↔ s.NearOk := by
  simp [State.noteAnswers]

@[simp] theorem serveOwn_nearOk_iff (k : GKey) (s : State) (r : Request) : (State.serveOwn k s r).NearOk ↔ s.NearOk := by simp [State.serveOwn]

@[simp] theorem settleRemote_nearOk_iff (s : State) (k : GKey) : (s.settleRemote k).NearOk ↔ s.NearOk := by
  have served (rs : List Request) : (rs.foldl (State.serveOwn k) s).NearOk ↔ s.NearOk := foldl_nearOk_iff (fun s r => serveOwn_nearOk_iff k s r) rs s
  unfold State.settleRemote
  split
  · rfl
  · dsimp only
    split
    · rfl
    · split
      · split <;> simp
      · split
        · simp
        · split
          · split <;> simp [served]
          · exact served _

@[simp] theorem ackFlits_nearOk_iff (s : State) (r : Request) : (s.ackFlits r).NearOk ↔ s.NearOk := by simp [State.ackFlits]

@[simp] theorem respond_nearOk_iff (s : State) (id : Nat) (answers : List RAnswer) (line : List Byte) :
    (s.respond id answers line).NearOk ↔ s.NearOk := by
  unfold State.respond; split
  · simp
  · split <;> simp

@[simp] theorem failRequest_nearOk_iff (s : State) (id reason : Nat) : (s.failRequest id reason).NearOk ↔ s.NearOk := by
  unfold State.failRequest
  split <;> simp

@[simp] theorem ask_nearOk_iff (s : State) (dom peer : Nat) (kind : RKind) (lanes : List RLane) (asker : Asker) :
    (s.ask dom peer kind lanes asker).NearOk ↔ s.NearOk := by
  simp [State.ask]

@[simp] theorem sendHeldOne_nearOk_iff (s : State) (p : HeldPacket) : (s.sendHeldOne p).NearOk ↔ s.NearOk := by
  unfold State.sendHeldOne
  split <;> simp

@[simp] theorem sendHeld_nearOk_iff (s : State) : (s.sendHeld).NearOk ↔ s.NearOk := by simp [State.sendHeld]

@[simp] theorem askWhenFree_nearOk_iff (s : State) (dom peer off : Nat) (kind : RKind) : (s.askWhenFree dom peer off kind).NearOk ↔ s.NearOk := by
  simp [State.askWhenFree]

@[simp] theorem serveSelf_nearOk_iff (s : State) (id : Nat) : (s.serveSelf id).NearOk ↔ s.NearOk := by unfold State.serveSelf; split <;> simp

@[simp] theorem serveSubscribe_nearOk_iff (s : State) (dom src off : Nat) (on : Bool) : (s.serveSubscribe dom src off on).1.NearOk ↔ s.NearOk := by
  unfold State.serveSubscribe
  dsimp only
  (repeat' split) <;> simp

@[simp] theorem payOwed_nearOk_iff (s : State) : (s.payOwed).NearOk ↔ s.NearOk := by simp [State.payOwed]
@[simp] theorem endPushes_nearOk_iff (s : State) (test : PushOut → Bool) : (s.endPushes test).NearOk ↔ s.NearOk := by simp [State.endPushes]

@[simp] theorem tellParts_nearOk_iff (s : State) (dom off : Nat) (parts : List Nat) (b : Nat → Option Body) :
    (s.tellParts dom off parts b).NearOk ↔ s.NearOk :=
  foldl_nearOk_iff (fun s p => by split <;> simp) _ s

@[simp] theorem View.startColl_nearOk_iff (v : View) (s : State) (d n : Nat) (rec_ : Nat) (ps : List Nat) :
    (v.startColl s d n rec_ ps).NearOk ↔ s.NearOk := by
  simp [View.startColl]

@[simp] theorem writeHeapChunk_nearOk_iff (dom off : Nat) (bs : List (Byte × Bool)) (acc : State × Bool × List Nat) (c : Nat × Nat) :
    (writeHeapChunk dom off bs acc c).1.NearOk ↔ acc.1.NearOk := by
  unfold writeHeapChunk
  dsimp only
  split <;> simp

@[simp] theorem heapWrite_nearOk_iff (s : State) (dom off : Nat) (bs : List (Byte × Bool)) : (s.heapWrite dom off bs).1.NearOk ↔ s.NearOk := by
  simp [State.heapWrite]

@[simp] theorem clearRecv_nearOk_iff (s : State) (q : CollRun) : (s.clearRecv q).NearOk ↔ s.NearOk := by simp [State.clearRecv]

@[simp] theorem collDone_nearOk_iff (s : State) (c : Coll) (a : DWord) : (s.collDone c a).NearOk ↔ s.NearOk := by
  unfold State.collDone; split
  · simp
  · split <;> simp

@[simp] theorem settleHeap_nearOk_iff (s : State) (dom off len : Nat) : (s.settleHeap dom off len).NearOk ↔ s.NearOk :=
  foldl_nearOk_iff (fun s c => by split <;> simp) _ s

@[simp] theorem releaseBuffers_nearOk_iff (s : State) (q : CollRun) : (s.releaseBuffers q).NearOk ↔ s.NearOk := by simp [State.releaseBuffers]

@[simp] theorem finishColl_nearOk_iff (s : State) (n : Nat) (c : Coll) (q : CollRun) (status : Nat) :
    (s.finishColl n c q status).NearOk ↔ s.NearOk := by
  simp [State.finishColl]

@[simp] theorem sendElems_nearOk_iff (s : State) (q : CollRun) (own : List (Byte × Bool × Bool)) : (s.sendElems q own).NearOk ↔ s.NearOk := by
  simp [State.sendElems]

@[simp] theorem View.setPath_nearOk_iff (v : View) (s : State) (p : Path) : (v.setPath s p).NearOk ↔ s.NearOk := by simp [View.setPath]

@[simp] theorem askCarry_nearOk_iff (s : State) (core part : Nat) (g : GangId) : (s.askCarry core part g).NearOk ↔ s.NearOk := by
  simp [State.askCarry]

@[simp] theorem askLicence_nearOk_iff (s : State) (core : Nat) : (s.askLicence core).NearOk ↔ s.NearOk := by simp [State.askLicence]
@[simp] theorem giveUp_nearOk_iff (s : State) (core : Nat) : (s.giveUp core).NearOk ↔ s.NearOk := by simp [State.giveUp]

@[simp] theorem arrive_nearOk_iff (s : State) (core part : Nat) (l : Latch) (a : Arrival) : (s.arrive core part l a).NearOk ↔ s.NearOk := by
  simp [State.arrive]

@[simp] theorem issueMember_nearOk_iff (s : State) (l : Latch) (k : Nat) (a : Arrival) : (s.issueMember l k a).NearOk ↔ s.NearOk := by
  simp [State.issueMember]

@[simp] theorem askForA_nearOk_iff (s : State) (mv : Mover) (o : MatOp) : (s.askForA mv o).NearOk ↔ s.NearOk := by simp [State.askForA]
@[simp] theorem View.arrive_nearOk_iff (v : View) (s : State) (which : Nat) : (v.arrive s which).NearOk ↔ s.NearOk := by simp [View.arrive]
@[simp] theorem monEvent_nearOk_iff (s : State) (k : GKey) (r : BitVec 2) : (s.monEvent k r).NearOk ↔ s.NearOk := by simp [State.monEvent]

@[simp] theorem View.writeLoadedAll_nearOk_iff (v : View) (s : State) (d n : Nat) (absent : Bool) (bs : List Byte) :
    (v.writeLoadedAll s d n absent bs).NearOk ↔ s.NearOk := by
  simp [View.writeLoadedAll]

@[simp] theorem View.linkCells_nearOk_iff (v : View) (s : State) (fs : List Frame) : (v.linkCells s fs).NearOk ↔ s.NearOk := by simp [View.linkCells]

@[simp] theorem View.fillCell_nearOk_iff (v : View) (s : State) (f : Frame) (value : DWord) (st : Word) :
    (v.fillCell s f value st).1.NearOk ↔ s.NearOk := by
  unfold View.fillCell
  dsimp only
  split <;> simp

@[simp] theorem setBound_nearOk_iff (s : State) (t : TKey) (n : Nat) (b : Bound) : (s.setBound t n b).NearOk ↔ s.NearOk := by simp [State.setBound]
@[simp] theorem View.publish_nearOk_iff (v : View) (n fn : Nat) (x : DWord) : (v.publish n fn x).NearOk ↔ v.s.NearOk := by simp [View.publish]
@[simp] theorem intoStore_nearOk_iff (s : State) (core : Nat) (p : Packet) : (s.intoStore core p).NearOk ↔ s.NearOk := by simp [State.intoStore]

theorem acceptPacket_nearOk_iff {s t : State} {p : Packet} (h : s.acceptPacket p = some t) : t.NearOk ↔ s.NearOk := by
  unfold State.acceptPacket at h
  grind [endTask_nearOk_iff, intoStore_nearOk_iff, modGrid_nearOk_iff]

@[simp] theorem takeGrid_nearOk_iff (s : State) (n : Nat) (r : LaunchRec) (m : Mode) : (s.takeGrid n r m).NearOk ↔ s.NearOk := by
  simp [State.takeGrid]

@[simp] theorem newSlice_nearOk_iff (s : State) (t : TKey) : (s.newSlice t).NearOk ↔ s.NearOk := by simp [State.newSlice]

theorem keepRoom_nearOk_iff {s t : State} {u : TKey} (h : s.keepRoom u = some t) : t.NearOk ↔ s.NearOk := by
  obtain ⟨r, -, rfl⟩ := Option.map_eq_some_iff.1 h
  simp

@[simp] theorem settleFences_nearOk_iff (s : State) (t : TKey) : (s.settleFences t).NearOk ↔ s.NearOk := by simp [State.settleFences]
@[simp] theorem rebuiltBounds_nearOk_iff (s : State) (x : Saved) : (s.rebuiltBounds x).NearOk ↔ s.NearOk := by simp [State.rebuiltBounds]

@[simp] theorem rebuiltFifos_nearOk_iff (s : State) (x : Saved) (im : ImageRead) (core : Nat) : (s.rebuiltFifos x im core).NearOk ↔ s.NearOk := by
  simp [State.rebuiltFifos]

@[simp] theorem returnImage_nearOk_iff (s : State) (x : Saved) : (s.returnImage x).NearOk ↔ s.NearOk := by simp [State.returnImage]
@[simp] theorem endParked_nearOk_iff (s : State) (p : Parked) : (s.endParked p).NearOk ↔ s.NearOk := by simp [State.endParked]

@[simp] theorem countKill_nearOk_iff (s : State) (core : Nat) (record : Bool) : (s.countKill core record).NearOk ↔ s.NearOk := by
  simp [State.countKill]

@[simp] theorem mailWrite_nearOk_iff (s : State) (core o : Nat) (bs : List Byte) : (s.mailWrite core o bs).NearOk ↔ s.NearOk := by
  simp [State.mailWrite]

@[simp] theorem acknowledge_nearOk_iff (s : State) (core : Nat) (m : Mail) (status : Nat) : (s.acknowledge core m status).NearOk ↔ s.NearOk := by
  simp [State.acknowledge]

@[simp] theorem setPort_nearOk_iff (s : State) (n : Nat) (f : Port → Port) : (s.setPort n f).NearOk ↔ s.NearOk := by simp [State.setPort]
@[simp] theorem countReplay_nearOk_iff (s : State) : (s.countReplay).NearOk ↔ s.NearOk := by simp [State.countReplay]
@[simp] theorem trained_nearOk_iff (s : State) : (s.trained).NearOk ↔ s.NearOk := by simp [State.trained]
@[simp] theorem modDomain_nearOk_iff (s : State) (n : Nat) (f : Domain → Domain) : (s.modDomain n f).NearOk ↔ s.NearOk := by simp [State.modDomain]

@[simp] theorem depart_nearOk_iff (s : State) (dom : Nat) (gone : Nat → Bool) (lost : Bool) : (s.depart dom gone lost).NearOk ↔ s.NearOk := by
  simp [State.depart]

@[simp] theorem setSensor_nearOk_iff (s : State) (block t : Nat) : (s.setSensor block t).NearOk ↔ s.NearOk := by simp [State.setSensor]
@[simp] theorem pinStack_nearOk_iff (s : State) (d : Nat) : (s.pinStack d).NearOk ↔ s.NearOk := by simp [State.pinStack]
@[simp] theorem settled_nearOk_iff (s : State) : (s.settled).NearOk ↔ s.NearOk := by simp [State.settled]
@[simp] theorem booted_nearOk_iff (s : State) (fails : Bool) : (s.booted fails).NearOk ↔ s.NearOk := by simp [State.booted]
@[simp] theorem settleKill_nearOk_iff (s : State) : (s.settleKill).NearOk ↔ s.NearOk := by simp [State.settleKill]
@[simp] theorem serve1_nearOk_iff (s : State) (slot core : Nat) : (s.serve1 slot core).NearOk ↔ s.NearOk := by simp [State.serve1]
@[simp] theorem noteWaiting_nearOk_iff (s : State) : (s.noteWaiting).NearOk ↔ s.NearOk := by simp [State.noteWaiting]

@[simp] theorem gridDoneCount_nearOk_iff (s : State) (gr : Grid) : (s.gridDoneCount gr).NearOk ↔ s.NearOk := by
  unfold State.gridDoneCount; split
  · simp
  · split <;> simp

@[simp] theorem endSubs_nearOk_iff (s : State) (slot : Nat) : (s.endSubs slot).NearOk ↔ s.NearOk := by simp [State.endSubs]
@[simp] theorem noteUnready_nearOk_iff (s : State) : (s.noteUnready).NearOk ↔ s.NearOk := by simp [State.noteUnready]
@[simp] theorem delay_nearOk_iff (s : State) (d : Due) : (s.delay d).NearOk ↔ s.NearOk := by simp [State.delay]

end Sys2Proof.Machine

/-! The functions that write near memory, or make and drop teams, keep the form (O59); then what an issued instruction keeps, said once of `issue`. -/

namespace Sys2Proof.Machine

@[simp] theorem nearForm_kdel {m : KMap TKey Team} {saved : List Saved} {cores : KMap Nat Core} (t : TKey) (h : NearForm m saved cores) :
    NearForm (kdel m t) saved cores :=
  ⟨fun x hx => h.1 x (List.mem_of_mem_filter hx), h.2⟩

theorem overLanes_nearOk_iff {f : State → Fin 32 → Frame → State} (h : ∀ s L fr, (f s L fr).NearOk ↔ s.NearOk) (ls : List (Fin 32 × Xlat)) (s : State)
    :
    (overLanes ls f s).NearOk ↔ s.NearOk :=
  foldl_nearOk_iff (fun s p => by split <;> simp [h]) ls s

theorem foldl_nearOk {α : Type} {f : State → α → State} (h : ∀ s x, s.NearOk → (f s x).NearOk) (l : List α) {s : State} (hs : s.NearOk) :
    (l.foldl f s).NearOk := by
  induction l generalizing s with
  | nil => exact hs
  | cons x l ih => exact ih (h s x hs)

theorem foldl_fst_nearOk {α β : Type} {f : State × β → α → State × β} (h : ∀ a x, a.1.NearOk → (f a x).1.NearOk) (l : List α) {a : State × β}
    (ha : a.1.NearOk) :
    (l.foldl f a).1.NearOk := by
  induction l generalizing a with
  | nil => exact ha
  | cons x l ih => exact ih (h a x ha)

theorem team_spad_wf {s : State} (h : s.NearOk) (t : TKey) : Memory.wf (s.team t).spad = true := by
  unfold State.team
  cases e : kfind s.teams t with
  | none => rfl
  | some x => exact h.1 _ (mem_of_kfind e)

theorem kput_nearForm {s : State} (h : s.NearOk) (t : TKey) {x : Team} (hx : Memory.wf x.spad = true) : NearForm (kput s.teams t x) s.saved s.cores :=
  setTeam_nearOk h t hx

theorem releaseTeam_nearOk {s : State} (h : s.NearOk) (t : TKey) : (s.releaseTeam t).NearOk := by
  have left : (s.leaveTeam t).NearOk := (leaveTeam_nearOk_iff s t).2 h
  unfold State.releaseTeam
  simp [h, left]

theorem ite_nearOk {c : Prop} [Decidable c] {s t : State} (hs : s.NearOk) (ht : t.NearOk) : (if c then s else t).NearOk := by split <;> assumption

@[simp] theorem ite_fst_nearOk {β : Type} {c : Prop} [Decidable c] (x y : State × β) :
    (if c then x else y).1.NearOk ↔ if c then x.1.NearOk else y.1.NearOk := by
  split <;> rfl

theorem endTeamIfDone_nearOk {s : State} (h : s.NearOk) (t : TKey) : (s.endTeamIfDone t).NearOk := by
  unfold State.endTeamIfDone
  extract_lets s1 s2
  have h1 : s1.NearOk := ite_nearOk h (by simp [h])
  have h2 : s2.NearOk := ite_nearOk h1 ((modTeam_nearOk_iff _ _ _ (by exact fun _ => rfl)).2 h1)
  exact ite_nearOk (ite_nearOk h2 (releaseTeam_nearOk h2 t)) h

theorem retireGroup_nearOk {s : State} (h : s.NearOk) (k : GKey) : (s.retireGroup k).NearOk := endTeamIfDone_nearOk (by simp [h]) _

theorem leaveQueue_nearOk {s : State} (h : s.NearOk) (core part : Nat) (o : MatOp) (st : Nat) : (s.leaveQueue core part o st).NearOk :=
  endTeamIfDone_nearOk (by simp [h]) _

theorem setCell_nearOk {s : State} (h : s.NearOk) (t : TKey) (a : Nat) (c : Cell) : (s.setCell t a c).NearOk := nearWrite_nearOk h _ _

theorem signalCell_nearOk {s : State} (h : s.NearOk) (c : Copy) : (s.signalCell c).NearOk := by
  unfold State.signalCell
  split
  · exact h
  · exact setCell_nearOk h _ _ _

theorem ringMove_nearOk {s : State} (h : s.NearOk) (src dst : RingStep) : (s.ringMove src dst).NearOk := by
  unfold State.ringMove
  split
  · exact h
  · exact (modTeam_nearOk_iff _ _ _ fun x => by split <;> rfl).2 (nearWrite_nearOk h _ _)

theorem rewriteSpad_nearOk {s : State} (h : s.NearOk) (t : TKey) (o : Nat) (bs : List Byte) : (s.rewriteSpad t o bs).NearOk :=
  (modTeam_nearOk_iff _ _ _ fun x => by split <;> rfl).2 (nearWrite_nearOk h _ _)

theorem nearAtomics_nearOk {s : State} (h : s.NearOk) (k : GKey) (ok : List (Fin 32 × NearAt)) (n : Nat) (f : Fin 32 → DWord → Option DWord) :
    (s.nearAtomics k ok n f).1.NearOk :=
  foldl_fst_nearOk (fun a q ha => by
    dsimp only
    split
    · exact nearWrite_nearOk ha _ _ _
    · exact ha) ok h

theorem writeChunk_nearOk {s : State} (h : s.NearOk) (mv : Mover) (layer scope a : Nat) (bs : List Byte) (bad : Bool) :
    (s.writeChunk mv layer scope a bs bad).1.NearOk := by
  have column (y : NearAt) := nearWrite_nearOk h y bs
  unfold State.writeChunk
  split
  · cases s.copyXlat mv a .write <;> simp [h]
  · cases s.copyXlat mv a .write <;> simp [h]
  · cases s.columnAt mv.team a bs.length <;> simp [h, column]
  · simp [h]

theorem writeUnit_nearOk {s : State} (h : s.NearOk) (mv : Mover) (mode : Mode) (x : DWord) (i : Nat) (got : List (Byte × Nat)) :
    (s.writeUnit mv mode x i got).1.NearOk := by
  have unit (y : NearAt) (bs : List Byte) := nearWrite_nearOk h y bs
  have spad (t : TKey) (o : Nat) (bs : List Byte) := rewriteSpad_nearOk h t o bs
  unfold State.writeUnit
  dsimp only
  split
  · split <;> simp [h, writeChunk_nearOk]
  · split
    · exact h
    · next y _ => cases y <;> simp [h, unit, spad]
  · split <;> simp [h, writeChunk_nearOk]
  · exact h

theorem writeImage_nearOk {s : State} (h : s.NearOk) (core : Nat) (ovf : Bool) (addr key : Nat) (bs : List Byte) :
    (s.writeImage core ovf addr key bs).NearOk := by
  unfold State.writeImage
  split
  · simp [h]
  · exact writeColumn_nearOk h _ _ _

theorem imageWrite_nearOk {s : State} (h : s.NearOk) (x : Saved) (o : Nat) (bs : List Byte) : (s.imageWrite x o bs).NearOk :=
  writeImage_nearOk h _ _ _ _ _

theorem moveColumn_nearOk {s : State} (h : s.NearOk) (x : Saved) (core unit : Nat) : (s.moveColumn x core unit).NearOk := by
  unfold State.moveColumn
  refine ite_nearOk h (writeColumn_nearOk ?_ _ _ _)
  simp [writeColumn_nearOk, h]

/-- What is put for a core and has its column leaves the form as it is. -/
@[simp] theorem nearForm_kput_core {s : State} {c : Nat} {x : Core} (h : x.column = (s.core c).column) :
    NearForm s.teams s.saved (kput s.cores c x) ↔ s.NearOk :=
  modCore_nearOk_iff s c (fun y => { x with column := y.column }) (fun _ => rfl) |>.symm.trans (by rw [State.modCore, ← h]; rfl) |>.symm

@[simp] theorem stopTeam_nearOk_iff (s : State) (rotate : Bool) (t : TKey) : (s.stopTeam rotate t).NearOk ↔ s.NearOk := by
  unfold State.stopTeam
  simp

theorem clusterRoom_nearOk_iff {s s' : State} {t : TKey} (h : s.clusterRoom t = some s') : s'.NearOk ↔ s.NearOk := by
  have kept (us : List TKey) : ∀ o : Option State, us.foldl (fun acc u => acc.bind fun s => s.keepRoom u) o = some s' →
      ∃ r, o = some r ∧ (s'.NearOk ↔ r.NearOk) := by
    induction us with
    | nil => exact fun o ho => ⟨s', ho, Iff.rfl⟩
    | cons u us ih =>
      intro o ho
      obtain ⟨r, hr, hs⟩ := ih _ ho
      obtain ⟨q, rfl, hq⟩ := Option.bind_eq_some_iff.1 hr
      exact ⟨q, rfl, hs.trans (keepRoom_nearOk_iff hq)⟩
  obtain ⟨r, hr, hs⟩ := kept _ _ h
  rwa [Option.some.inj hr]

theorem releaseSaved_nearOk {s : State} (h : s.NearOk) (t : TKey) : (s.releaseSaved t).NearOk := by
  unfold State.releaseSaved
  simp [h]

theorem saveTeam_nearOk {s : State} (h : s.NearOk) (t : TKey) (i : Nat) (ovf : Bool) (a : Nat) : (s.saveTeam t i ovf a).NearOk := by
  unfold State.saveTeam
  extract_lets c s0 x n s1 s2 gr mine room keep kept s3
  have h0 : s0.NearOk := by simp [s0, h]
  have h3 : s3.NearOk := by simp [s3, s2, s1, writeImage_nearOk, setDirEntry_nearOk, h0]
  have h4 : NearForm s3.teams (s3.saved ++ [kept]) s3.cores :=
    ⟨h3.1, List.forall_mem_append.2 ⟨h3.2.1, by simpa [kept, keep, x] using team_spad_wf h0 t⟩, h3.2.2⟩
  exact releaseSaved_nearOk (nearOk_mk.2 h4) t

theorem dropSaved_nearOk {s : State} (h : s.NearOk) (x : Saved) : (s.dropSaved x).NearOk :=
  setDirEntry_nearOk (s := { s with saved := s.saved.filter fun y => y.team ≠ x.team })
    ⟨h.1, fun y hy => h.2.1 y (List.mem_of_mem_filter hy), h.2.2⟩ _ _ _

theorem rebuilt_spad_wf (s : State) (x : Saved) (core base unit : Nat) : Memory.wf (s.rebuilt x core base unit).spad = true := cellsFrom_wf _ _

theorem restoreTeam_nearOk {s : State} (h : s.NearOk) (x : Saved) (core base unit : Nat) : (s.restoreTeam x core base unit).NearOk := by
  unfold State.restoreTeam
  extract_lets x' t im s0 s1 s2 s3 s4
  have h1 : s1.NearOk := dropSaved_nearOk (moveColumn_nearOk (by simp [s0, h]) _ _ _) _
  have h2 : s2.NearOk := kput_nearForm h1 t (rebuilt_spad_wf s x' core base unit)
  simp [s4, s3, h2]

theorem finishKill_nearOk {s : State} (h : s.NearOk) (t : TKey) (parks : List Parked) (packets : List Packet) :
    (s.finishKill t parks packets).NearOk :=
  endTeamIfDone_nearOk (foldl_nearOk (fun _ k hs => retireGroup_nearOk hs k) _ (by simp [h])) t

theorem killSaved_nearOk {s : State} (h : s.NearOk) {x : Saved} (hx : Memory.wf x.keep.spad = true) : (s.killSaved x).NearOk := by
  have kept := kput_nearForm (dropSaved_nearOk h x) x.team (x := { x.keep with core := x.core, stop := true, killed := true }) hx
  exact finishKill_nearOk (by simp [kept]) _ _ _

theorem resume_nearOk {s : State} (h : s.NearOk) (x : Saved) : (s.resume x).NearOk := setDirEntry_nearOk h _ _ _

theorem postHold_nearOk {s : State} (h : s.NearOk) (core : Nat) (t : TKey) : (s.postHold core t).NearOk := by
  unfold State.postHold
  cases s.freeEntry core <;> simp [h, setDirEntry_nearOk]

theorem restarted_nearOk {s : State} (h : s.NearOk) : s.restarted.NearOk := by
  have columns : NearForm [] [] (s.cores.map fun c => (c.1, { column := c.2.column, colBad := c.2.colBad, fenced := c.2.fenced })) :=
    ⟨by simp, by simp, List.forall_mem_map.2 h.2.2⟩
  unfold State.restarted
  simpa [State.reset] using columns

theorem shutDown_nearOk {s : State} (h : s.NearOk) : s.shutDown.NearOk := by
  unfold State.shutDown
  simp [restarted_nearOk, h]

theorem readSensor_nearOk {s : State} (h : s.NearOk) (block t : Nat) : (s.readSensor block t).NearOk := by
  unfold State.readSensor
  simp [shutDown_nearOk, h]

theorem clearDirectories_nearOk {s : State} (h : s.NearOk) : s.clearDirectories.NearOk := foldl_nearOk (fun _ _ h => writeColumn_nearOk h _ _ _) _ h

theorem placeTeam_nearOk {s : State} (h : s.NearOk) (t : TKey) (core : Nat) : (s.placeTeam t core).NearOk := by
  unfold State.placeTeam
  extract_lets r unit x s1 s2
  have h1 : s1.NearOk := (modCore_nearOk_iff _ _ _ (by exact fun _ => rfl)).2 (setTeam_nearOk h t rfl)
  have h2 : s2.NearOk := ite_nearOk h1 (writeColumn_nearOk h1 _ _ _)
  simp [h2]

/-- An outcome's next state has the form when the state before has it. -/
def NearKept (s : State) : Host.Outcome State Fault Refusal → Prop
  | .next t => s.NearOk → t.NearOk
  | _ => True

/-- What an effect leaves has the form when the state before has it; an arrival that is recorded keeps it in every state. -/
def Res.NearKept (s : State) : Res → Prop
  | .ok t | .went t _ | .trap _ t => s.NearOk → t.NearOk
  | .hold _ => True
  | .await f => ∀ t, t.NearOk → (f t).NearOk

section
variable {s t : State} {v : View} {r : TrapReq}

@[simp] theorem nearKept_next : NearKept s (.next t) ↔ (s.NearOk → t.NearOk) := Iff.rfl
@[simp] theorem nearKept_fault (f : Fault) : NearKept s (.fault f) := trivial
@[simp] theorem nearKept_refused (f : Refusal) : NearKept s (.refused f) := trivial

@[simp] theorem nearKept_ite {c : Prop} [Decidable c] (x y : Host.Outcome State Fault Refusal) :
    NearKept s (if c then x else y) ↔ if c then NearKept s x else NearKept s y := by
  split <;> rfl

@[simp] theorem Res.nearKept_ok : (Res.ok t).NearKept s ↔ (s.NearOk → t.NearOk) := Iff.rfl
@[simp] theorem Res.nearKept_went (e : Bool) : (Res.went t e).NearKept s ↔ (s.NearOk → t.NearOk) := Iff.rfl
@[simp] theorem Res.nearKept_trap : (Res.trap r t).NearKept s ↔ (s.NearOk → t.NearOk) := Iff.rfl
@[simp] theorem Res.nearKept_hold (ds : List Due) : (Res.hold ds).NearKept s := trivial
@[simp] theorem Res.nearKept_await (f : State → State) : (Res.await f).NearKept s ↔ ∀ t : State, t.NearOk → (f t).NearOk := Iff.rfl

@[simp] theorem Res.nearKept_ite {c : Prop} [Decidable c] (x y : Res) :
    (if c then x else y).NearKept s ↔ if c then x.NearKept s else y.NearKept s := by
  split <;> rfl

@[simp] theorem View.whole_nearKept (c : Cause) : (v.whole c).NearKept v.s := id
@[simp] theorem View.nearWhole_nearKept (c : Cause) (a : Option Word) : (v.nearWhole c a).NearKept v.s := id
@[simp] theorem View.faultAt_nearKept (c : Cause) (a : DWord) : (v.faultAt c a).NearKept v.s := id
@[simp] theorem View.layerFault_nearKept (c : Cause) (x : DWord) : (v.layerFault c x).NearKept v.s := by unfold View.layerFault; split <;> simp
@[simp] theorem View.endingRun_nearKept : (v.endingRun t).NearKept s ↔ (s.NearOk → t.NearOk) := by simp [View.endingRun]

@[simp] theorem View.suspend_nearKept (resume : Word) (w : Wait) (h : s.NearOk → v.s.NearOk ∧ t.NearOk) : (v.suspend t resume w).NearKept s := by
  simp +contextual [View.suspend, h]

@[simp] theorem laneOutcome_nearKept (fs : List LaneFault) (near : Bool) : (laneOutcome fs near t).NearKept s ↔ (s.NearOk → t.NearOk) := by
  simp [laneOutcome]

@[simp] theorem View.readNrm_nearKept (d : Nat) : (v.readNrm d).NearKept v.s := by simp [View.readNrm]

@[simp] theorem View.reportBatch_nearKept (d : Nat) (b : Batch) (clear : Group → Group) : (v.reportBatch d b clear).NearKept v.s := by
  simp [View.reportBatch]

@[simp] theorem View.grantTiles_nearKept (d n : Nat) : (v.grantTiles d n).NearKept v.s := by
  have same (x : Team) (b : Nat) : (x.fillTiles b n).spad = x.spad := rfl
  have core (c : Core) : (c.granted v.k).column = c.column := rfl
  unfold View.grantTiles; split <;> simp [same, core]

@[simp] theorem View.loadRecord_nearKept (d slot : Nat) (bs : List Byte) : (v.loadRecord d slot bs).NearKept v.s := by
  unfold View.loadRecord
  dsimp only
  split <;> simp

@[simp] theorem View.nearAccess_nearKept (addr : Lanes Word) (n : Nat) (bad : NearAt → Bool) (effect : List (Fin 32 × NearAt) → State)
    (h : ∀ ok, v.s.NearOk → (effect ok).NearOk) :
    (v.nearAccess addr n bad effect).NearKept v.s := by
  simp +contextual [View.nearAccess, h]

@[simp] theorem View.remote_nearKept (kind : RKind) (d words a b : Nat) (regs : List Nat) (op exp : Lanes DWord) :
    (v.remote kind d words a b regs op exp).NearKept v.s := by
  simp [View.remote]

@[simp] theorem View.goOn_nearKept (p : Path) (dest : Word) (rotates : Bool) (more : Nat) :
    (v.goOn t p dest rotates more).NearKept s ↔ (s.NearOk → t.NearOk) := by
  simp [View.goOn]

@[simp] theorem View.goTo_nearKept (p : Path) (dest : Word) (rotates : Bool) : (v.goTo t p dest rotates).NearKept s ↔ (s.NearOk → t.NearOk) := by
  simp [View.goTo]

@[simp] theorem View.branch_nearKept (taken target : Word) : (v.branch taken target).NearKept v.s := by simp [View.branch]
@[simp] theorem View.branchAll_nearKept (takes : Bool) (target : Word) : (v.branchAll takes target).NearKept v.s := by simp [View.branchAll]

@[simp] theorem View.jump_nearKept (a : Nat) (link : Option Nat) : (v.jump a link).NearKept v.s := by
  unfold View.jump
  dsimp only
  split
  · simp
  · cases rising _ <;> cases link <;> simp

@[simp] theorem View.exit_nearKept (h : s.NearOk → t.NearOk) : (v.exit t).NearKept s := by simp +contextual [View.exit, retireGroup_nearOk, h]

@[simp] theorem View.postedCheck_nearKept (waits : Bool) {body : Unit → Res} (h : (body ()).NearKept v.s) :
    (v.postedCheck waits body).NearKept v.s := by
  unfold View.postedCheck
  split
  · simp
  · split
    · exact h
    · simp

@[simp] theorem View.flagsSettled_nearKept {body : Unit → Res} (h : (body ()).NearKept v.s) : (v.flagsSettled body).NearKept v.s := by
  simp [View.flagsSettled, h]

@[simp] theorem View.checked_nearKept (f : Form) {body : View → Res} (h : (body v).NearKept v.s) : (v.checked f body).NearKept v.s := by
  simp [View.checked, h]

theorem Res.after_nearKept {pre : State → State} (h : ∀ s, (pre s).NearOk ↔ s.NearOk) {x : Res} (hx : x.NearKept (pre s)) :
    (x.after pre).NearKept s := by
  cases x <;> simp_all [Res.after, Res.NearKept]

@[simp] theorem View.fenced_nearKept (m : MemKind) {body : View → Res} (h : ∀ w : View, (body w).NearKept w.s) : (v.fenced m body).NearKept v.s := by
  unfold View.fenced
  extract_lets mine left pre
  have same (s : State) : (pre s).NearOk ↔ s.NearOk := by simp [pre]
  simp [h, Res.after_nearKept same (h { v with s := pre v.s, g := left v.g })]

@[simp] theorem View.ending_nearKept {body : View → Res} (h : ∀ w : View, (body w).NearKept w.s) : (v.ending body).NearKept v.s := by
  simp [View.ending, h]

theorem issue_nearKept (form : View → Form) {body : View → Res} (h : ∀ w : View, (body w).NearKept w.s) : NearKept s (issue form body s) := by
  unfold issue
  split
  · trivial
  next k _ =>
  split
  · trivial
  next g _ =>
  split
  · trivial
  next p _ =>
  extract_lets f npc srcs s0 s1 v
  split
  · simp
  have same : v.s.NearOk ↔ s.NearOk := by simp [v, s1, s0]
  have kept := View.checked_nearKept f (h v)
  split
  case h_1 t hc => simpa [hc, same] using kept
  case h_2 t e hc => simpa [hc, same] using kept
  case h_3 r t hc =>
    have ht : s.NearOk → t.NearOk := by simpa [hc, same] using kept
    have h1 : s.NearOk → s1.NearOk := same.2
    split <;> simp_all [s1, s0]
  case h_4 => simp
  case h_5 f hc => simpa [hc] using fun hs : s.NearOk => (hc ▸ kept : (Res.await f).NearKept v.s) _ ((holdIssue_nearOk_iff s k []).2 hs)

end

end Sys2Proof.Machine

/-! The shared forms of instructions, and the steps of the device that only make case distinctions, keep the form (O59). -/

namespace Sys2Proof.Machine

@[simp] theorem floatOp_nearKept (regs : List Nat) (d : Reg) (factor : Nat) (latency : Option Nat) (f : Word → List Word → Word × Flags) (s : State) :
    NearKept s (floatOp regs d factor latency f s) :=
  issue_nearKept _ fun v => by (repeat' split) <;> simp

@[simp] theorem float2_nearKept (f : Word → Word → Word × Flags) (d a b : Reg) (s : State) : NearKept s (float2 f d a b s) := by simp [float2]

@[simp] theorem float3_nearKept (latency : Option Nat) (f : Word → Word → Word → Word × Flags) (d a b : Reg) (s : State) :
    NearKept s (float3 latency f d a b s) := by
  simp [float3]

@[simp] theorem float1_nearKept (factor : Nat) (latency : Option Nat) (f : Word → Word × Flags) (d a : Reg) (s : State) :
    NearKept s (float1 factor latency f d a s) := by
  simp [float1]

@[simp] theorem convert_nearKept (f : Word → Word → Word × Flags) (d a : Reg) (s : State) : NearKept s (convert f d a s) :=
  issue_nearKept _ fun v => by simp

@[simp] theorem globalAtomic_nearKept (p : Pfx) (d a : Reg) (scope : BitVec 3) (b : BitVec 4) (wide readsD ret : Bool)
    (op : View → Fin 32 → DWord → Option DWord × Flags) (s : State) :
    NearKept s (globalAtomic p d a scope b wide readsD ret op s) := by
  simp [globalAtomic, issue_nearKept]

@[simp] theorem integerAtomic_nearKept (p : Pfx) (d a : Reg) (scope : BitVec 3) (b : BitVec 4) (f : Bool → DWord → DWord → DWord) (s : State) :
    NearKept s (integerAtomic p d a scope b f s) := by
  simp [integerAtomic]

@[simp] theorem fencePush_nearKept (kind : Nat) (scope : BitVec 3) (s : State) : NearKept s (fencePush kind scope s) :=
  issue_nearKept _ fun v => by simp

theorem cmaint_nearKept (a : Reg) (waits : View → Nat → Bool) {f : View → State → Nat × Nat → State} (h : ∀ v s b, (f v s b).NearOk ↔ s.NearOk)
    (s : State) :
    NearKept s (cmaint a waits f s) :=
  issue_nearKept _ fun v => by simp [h]

@[simp] theorem execTlbInvalidationArrival_nearKept (s : State) : NearKept s (execTlbInvalidationArrival s) := by
  unfold execTlbInvalidationArrival
  (repeat' split) <;> simp

@[simp] theorem execTlbInvalidationAck_nearKept (s : State) : NearKept s (execTlbInvalidationAck s) := by
  unfold execTlbInvalidationAck
  (repeat' split) <;> simp

@[simp] theorem execTableWalk_nearKept (s : State) : NearKept s (execTableWalk s) := by unfold execTableWalk; dsimp only; split <;> simp

@[simp] theorem execWalkAheadFetch_nearKept (s : State) : NearKept s (execWalkAheadFetch s) := by
  unfold execWalkAheadFetch
  dsimp only
  split <;> simp

@[simp] theorem execWritePerformed_nearKept (s : State) : NearKept s (execWritePerformed s) := by unfold execWritePerformed; split <;> simp
@[simp] theorem execWritePropagation_nearKept (s : State) : NearKept s (execWritePropagation s) := by unfold execWritePropagation; split <;> simp

@[simp] theorem execCacheUncorrectableError_nearKept (s : State) : NearKept s (execCacheUncorrectableError s) := by
  unfold execCacheUncorrectableError
  split <;> simp

theorem beam_nearKept (names reads : List Nat) (one : Bool) {body : View → Res} (h : ∀ v, (body v).NearKept v.s) (s : State) :
    NearKept s (beam names reads one body s) :=
  issue_nearKept _ fun v => by simp [h]

@[simp] theorem execBeamEntryArrival_nearKept (s : State) : NearKept s (execBeamEntryArrival s) := by
  unfold execBeamEntryArrival
  dsimp only
  split <;> simp

@[simp] theorem nearAtomic_nearKept (p : Pfx) (d a : Reg) (n : Nat) (sources : List Nat) (ret : Bool) (f : View → Fin 32 → DWord → Option DWord)
    (s : State) :
    NearKept s (nearAtomic p d a n sources ret f s) :=
  issue_nearKept _ fun v => View.fenced_nearKept _ fun v => View.nearAccess_nearKept _ _ _ _ fun ok h => by simp [nearAtomics_nearOk, h]

@[simp] theorem atn_nearKept (p : Pfx) (d a : Reg) (b : BitVec 4) (f : Bool → DWord → DWord → DWord) (s : State) : NearKept s (atn p d a b f s) := by
  simp [atn]

@[simp] theorem View.queueCopy_nearKept (v : View) (kind : CopyKind) (bar : Word) : (v.queueCopy kind bar).NearKept v.s := by simp [View.queueCopy]

theorem cbar_nearKept (kind : MemKind) (reads : List Nat) (d a : Reg) {body : View → Nat → Word → Res} (h : ∀ v n w, (body v n w).NearKept v.s)
    (s : State) :
    NearKept s (cbar kind reads d a body s) :=
  issue_nearKept _ fun v => View.fenced_nearKept _ fun v => by simp [h]

theorem onTile_nearKept (p : Pfx) (a : Reg) (names reads : List Nat) (illegal : View → Bool) {body : View → Word → Res}
    (h : ∀ v w, (body v w).NearKept v.s) (s : State) :
    NearKept s (onTile p a names reads illegal body s) :=
  issue_nearKept _ fun v => by simp [h]

@[simp] theorem execAccStn_nearKept (p : Pfx) (d a : Reg) (s : State) : NearKept s (execAccStn p d a s) := by simp [execAccStn, issue_nearKept]

theorem execAccStnComplete_nearKept (s : State) : NearKept s (execAccStnComplete s) := by
  unfold execAccStnComplete
  split
  · exact id
  · split
    · exact id
    · simp +contextual [leaveQueue_nearOk, rewriteSpad_nearOk]

@[simp] theorem execRst_nearKept (d a b : Reg) (s : State) : NearKept s (execRst d a b s) := by simp [execRst, issue_nearKept]
@[simp] theorem execRatom_nearKept (p : Pfx) (d a b : Reg) (s : State) : NearKept s (execRatom p d a b s) := by simp [execRatom, issue_nearKept]
@[simp] theorem rsubs_nearKept (on : Bool) (d a : Reg) (s : State) : NearKept s (rsubs on d a s) := issue_nearKept _ fun v => by simp

theorem execRemoteRequestReceive_nearKept (s : State) : NearKept s (execRemoteRequestReceive s) := by
  unfold execRemoteRequestReceive
  split
  · exact id
  · split
    · exact id
    · dsimp only; split <;> simp [acceptFrom_nearOk_iff ‹_›]

theorem execRemoteResponseReceive_nearKept (s : State) : NearKept s (execRemoteResponseReceive s) := by
  unfold execRemoteResponseReceive
  split
  · exact id
  · split
    · exact id
    · next s1 h => cases s1.pushes.find? _ <;> simp [acceptFrom_nearOk_iff h]

theorem execNackReceive_nearKept (s : State) : NearKept s (execNackReceive s) := by
  unfold execNackReceive
  split
  · exact id
  · split
    · exact id
    · split <;> simp [acceptFrom_nearOk_iff ‹_›]

theorem execSubscriptionPush_nearKept (s : State) : NearKept s (execSubscriptionPush s) := by
  unfold execSubscriptionPush
  split
  · exact id
  · split
    · exact id
    · simp [acceptFrom_nearOk_iff ‹_›]

@[simp] theorem collStatus_nearKept (test : Bool) (d a : Reg) (s : State) : NearKept s (collStatus test d a s) := issue_nearKept _ fun v => by simp

@[simp] theorem execCollectiveComplete_nearKept (s : State) : NearKept s (execCollectiveComplete s) := by
  unfold execCollectiveComplete
  dsimp only
  split <;> simp

@[simp] theorem execCollectiveTimeout_nearKept (s : State) : NearKept s (execCollectiveTimeout s) := by unfold execCollectiveTimeout; split <;> simp
@[simp] theorem vote_nearKept (d a : Reg) (f : Word → Word → Word) (s : State) : NearKept s (vote d a f s) := issue_nearKept _ fun v => by simp

theorem gangForm_nearKept (regs : List Nat) {body : View → Res} (h : ∀ v, (body v).NearKept v.s) (s : State) : NearKept s (gangForm regs body s) :=
  issue_nearKept _ fun v => by simp [h]

@[simp] theorem execRendezvousComplete_nearKept (s : State) : NearKept s (execRendezvousComplete s) := by
  unfold execRendezvousComplete
  dsimp only
  split <;> simp

@[simp] theorem execMatrixOperationStart_nearKept (s : State) : NearKept s (execMatrixOperationStart s) := by
  unfold execMatrixOperationStart
  dsimp only
  split <;> simp

@[simp] theorem barrier_nearKept (which : Nat) (s : State) : NearKept s (barrier which s) := issue_nearKept _ fun v => by simp
@[simp] theorem join_nearKept (test : Bool) (d a : Reg) (s : State) : NearKept s (join test d a s) := issue_nearKept _ fun v => by simp

theorem execTaskPacketArrival_nearKept (s : State) : NearKept s (execTaskPacketArrival s) := by
  unfold execTaskPacketArrival
  split
  · exact id
  · split
    · exact id
    · dsimp only
      split
      · next h => simp [acceptPacket_nearOk_iff h]
      · simp

@[simp] theorem execOverflowPacketReturn_nearKept (s : State) : NearKept s (execOverflowPacketReturn s) := by
  unfold execOverflowPacketReturn
  dsimp only
  (repeat' split) <;> simp

@[simp] theorem execWaveFormation_nearKept (s : State) : NearKept s (execWaveFormation s) := by unfold execWaveFormation; (repeat' split) <;> simp

@[simp] theorem execParkedContextResume_nearKept (s : State) : NearKept s (execParkedContextResume s) := by
  unfold execParkedContextResume
  (repeat' split) <;> simp

@[simp] theorem execPlaneRemap_nearKept (s : State) : NearKept s (execPlaneRemap s) := by unfold execPlaneRemap; dsimp only; (repeat' split) <;> simp
@[simp] theorem execPlaneRecovery_nearKept (s : State) : NearKept s (execPlaneRecovery s) := by unfold execPlaneRecovery; (repeat' split) <;> simp
@[simp] theorem alu2_nearKept (f : Word → Word → Word) (d a b : Reg) (s : State) : NearKept s (alu2 f d a b s) := issue_nearKept _ fun v => by simp

@[simp] theorem alu3_nearKept (f : Word → Word → Word → Word) (d a b : Reg) (s : State) : NearKept s (alu3 f d a b s) :=
  issue_nearKept _ fun v => by simp

@[simp] theorem alu1_nearKept (p : Pfx) (f : Word → Word) (d a : Reg) (s : State) : NearKept s (alu1 p f d a s) := issue_nearKept _ fun v => by simp

@[simp] theorem mulPair_nearKept (f : Word → Word → DWord) (d a b : Reg) (s : State) : NearKept s (mulPair f d a b s) :=
  issue_nearKept _ fun v => by simp

@[simp] theorem execIssueArbitration_nearKept (s : State) : NearKept s (execIssueArbitration s) := by unfold execIssueArbitration; split <;> simp

@[simp] theorem execActiveSetEntry_nearKept (s : State) : NearKept s (execActiveSetEntry s) := by
  unfold execActiveSetEntry
  dsimp only
  split <;> simp

@[simp] theorem execQuantumExpiry_nearKept (s : State) : NearKept s (execQuantumExpiry s) := by
  unfold execQuantumExpiry
  dsimp only
  (repeat' split) <;> simp

@[simp] theorem execInterlockedWriteComplete_nearKept (s : State) : NearKept s (execInterlockedWriteComplete s) := by
  unfold execInterlockedWriteComplete
  dsimp only
  split <;> simp

@[simp] theorem execBreakpointTrap_nearKept (s : State) : NearKept s (execBreakpointTrap s) := by
  unfold execBreakpointTrap
  dsimp only
  (repeat' split) <;> simp

@[simp] theorem execSingleStepTrap_nearKept (s : State) : NearKept s (execSingleStepTrap s) := by
  unfold execSingleStepTrap
  dsimp only
  (repeat' split) <;> simp

@[simp] theorem setWindow_nearKept (f : Nat → Int) (s : State) : NearKept s (setWindow f s) := issue_nearKept _ fun v => by simp

@[simp] theorem shuffle_nearKept (src : Fin 32 → Word → Nat) (d a b : Reg) (s : State) : NearKept s (shuffle src d a b s) :=
  issue_nearKept _ fun v => by simp

@[simp] theorem execSliceEnd_nearKept (s : State) : NearKept s (execSliceEnd s) := by unfold execSliceEnd; dsimp only; split <;> simp

theorem unlessCrossing_nearKept {s : State} (s0 : State) {wait : State} (actor : Nat) {o : Host.Outcome State Fault Refusal}
    (hw : s.NearOk → wait.NearOk) (h : NearKept s o) :
    NearKept s (s0.unlessCrossing wait actor o) := by
  unfold State.unlessCrossing
  split
  · split <;> assumption
  · exact h

end Sys2Proof.Machine

/-! The instructions and steps that write near memory themselves keep the form, and so does every other one (O59). -/

namespace Sys2Proof.Machine

theorem execLd_nearKept (p : Pfx) (d a : Reg) (sc : BitVec 3) (z : BitVec 2) (pol : BitVec 2) (s : State) : NearKept s (execLd p d a sc z pol s) := by
  unfold execLd
  exact issue_nearKept _ fun v => View.fenced_nearKept _ fun v => by simp [overLanes_nearOk_iff]

theorem execSt_nearKept (p : Pfx) (d a : Reg) (sc : BitVec 3) (z : BitVec 2) (pol : BitVec 2) (s : State) : NearKept s (execSt p d a sc z pol s) := by
  unfold execSt
  exact issue_nearKept _ fun v => View.fenced_nearKept _ fun v => by simp [overLanes_nearOk_iff]

theorem execUpperDeckGate_nearKept (s : State) : NearKept s (execUpperDeckGate s) := by
  unfold execUpperDeckGate
  dsimp only
  split
  · exact id
  · split
    · intro h
      have flushed := (flushCaches_nearOk_iff s fun c => c / 256 == s.ev.k).2 h
      exact ⟨flushed.1, List.forall_mem_map.2 fun x hx => by split <;> exact h.2.1 x hx, flushed.2.2⟩
    · simp

theorem execLdn_nearKept (p : Pfx) (d a : Reg) (z : BitVec 2) (s : State) : NearKept s (execLdn p d a z s) := by
  unfold execLdn
  exact issue_nearKept _ fun v => View.fenced_nearKept _ fun v => View.nearAccess_nearKept _ _ _ _ fun ok h => by simp [h]

theorem execStn_nearKept (p : Pfx) (d a : Reg) (z : BitVec 2) (s : State) : NearKept s (execStn p d a z s) := by
  unfold execStn
  exact issue_nearKept _ fun v => View.fenced_nearKept _ fun v => View.nearAccess_nearKept _ _ _ _ fun ok h =>
    foldl_nearOk (fun s q hs => by simp [nearWrite_nearOk, hs]) ok h

theorem execRingStepComplete_nearKept (s : State) : NearKept s (execRingStepComplete s) := by
  unfold execRingStepComplete
  extract_lets t steps here finish s1 s2
  have ended (u : State) (code : Word) (h : u.NearOk) : (finish u code).NearOk :=
    foldl_nearOk (fun s v hs => endTeamIfDone_nearOk hs v) _ (by simp [h])
  have h1 (h : s.NearOk) : s1.NearOk := by simp [s1, h]
  have h2 (h : s.NearOk) : s2.NearOk := foldl_nearOk (fun s p hs => ringMove_nearOk hs p.1 p.2) _ (h1 h)
  simp +contextual [ended, h2]

theorem execTrec_nearKept (d a : Reg) (slot : BitVec 4) (s : State) : NearKept s (execTrec d a slot s) :=
  issue_nearKept _ fun v => View.fenced_nearKept _ fun v => by
    have loaded (f : Frame) (n : Nat) (bs : List Byte) : (View.loadRecord { v with s := v.s.loaded v.core f 128 0 } d.toNat n bs).NearKept v.s := by
      simpa [Res.NearKept] using View.loadRecord_nearKept (v := { v with s := v.s.loaded v.core f 128 0 }) d.toNat n bs
    extract_lets x
    cases v.s.translate v.core v.space x.toNat .read <;> simp [loaded]

theorem execTrecN_nearKept (d a : Reg) (slot : BitVec 4) (s : State) : NearKept s (execTrecN d a slot s) :=
  issue_nearKept _ fun v => View.fenced_nearKept _ fun v => by
    extract_lets x
    cases v.s.nearDecode v.k.tkey v.g.mode x.toNat 128 <;> simp

theorem tileCopy_nearKept (store : Bool) (d a b : Reg) (s : State) : NearKept s (tileCopy store d a b s) := by
  unfold tileCopy
  exact issue_nearKept _ fun v => by simp

theorem onHeader_nearKept (kind : MemKind) (names reads : List Nat) (a : Reg) {body : View → Frame → Res} (h : ∀ v f, (body v f).NearKept v.s)
    (s : State) :
    NearKept s (onHeader kind names reads a body s) :=
  issue_nearKept _ fun v => View.fenced_nearKept _ fun v => by
    extract_lets x bad
    cases v.s.access v.core v.space x 64 .both <;> simp [h, bad]

theorem execMona_nearKept (p : Pfx) (d a : Reg) (sc : BitVec 3) (z : BitVec 2) (pol : BitVec 2) (s : State) :
    NearKept s (execMona p d a sc z pol s) := by
  unfold execMona
  exact issue_nearKept _ fun v => View.fenced_nearKept _ fun v => by dsimp only; split <;> simp

@[simp] theorem note_state (p : Progress) (i st : Nat) : (p.note i st).s = p.s := by unfold Progress.note; split <;> rfl

@[simp] theorem noteRow_state (p : Progress) (i0 : Nat) (sts : List Nat) : (p.noteRow i0 sts).s = p.s := by
  unfold Progress.noteRow
  generalize sts.zipIdx = es
  induction es generalizing p with
  | nil => rfl
  | cons e es ih => rw [List.foldl_cons, ih, note_state]

theorem foldl_progress_nearOk {α : Type} {f : Progress → α → Progress} (h : ∀ p x, p.s.NearOk → (f p x).s.NearOk) (l : List α) {p : Progress}
    (hp : p.s.NearOk) :
    (l.foldl f p).s.NearOk := by
  induction l generalizing p with
  | nil => exact hp
  | cons x l ih => exact ih (h p x hp)

theorem runTcopy_nearOk {s : State} (h : s.NearOk) (mv : Mover) (t : Tensor) (spad : Nat) (origin : List Int) :
    (s.runTcopy mv t spad origin).s.NearOk :=
  foldl_progress_nearOk (fun p row hp => by simp [rewriteSpad_nearOk, hp]) _ h

theorem runTstore_nearOk {s : State} (h : s.NearOk) (mv : Mover) (t : Tensor) (spad : Nat) (origin : List Int) :
    (s.runTstore mv t spad origin).s.NearOk :=
  foldl_progress_nearOk (fun p row hp => by
    dsimp only
    split
    · exact hp
    · exact foldl_progress_nearOk (fun q c hq => by simp [writeChunk_nearOk, hq]) _ hp) _ h

theorem runLcopy_nearOk {s : State} (h : s.NearOk) (mv : Mover) (mode : Mode) (src dst : DWord) (len : Nat) :
    (s.runLcopy mv mode src dst len).s.NearOk := by
  unfold State.runLcopy
  split
  · exact h
  · exact foldl_progress_nearOk (fun p u hp => by simp [writeUnit_nearOk, hp]) _ h

theorem runCopy_nearOk {s : State} (h : s.NearOk) (c : Copy) (a : EvArg) : (s.runCopy c a).s.NearOk := by
  unfold State.runCopy
  dsimp only
  split
  · exact runTcopy_nearOk (by simp [h]) _ _ _ _
  · exact runTstore_nearOk (by simp [h]) _ _ _ _
  · exact runLcopy_nearOk h _ _ _ _ _

theorem execCopyComplete_nearKept (s : State) : NearKept s (execCopyComplete s) := by
  unfold execCopyComplete
  split
  · exact id
  next c _ =>
  extract_lets came p s0 s1 s2
  have same : came.1.NearOk ↔ s.NearOk := by dsimp only [came]; split <;> simp
  have h1 (h : s.NearOk) : s1.NearOk := runCopy_nearOk (same.2 h) c s.ev
  have h2 (h : s.NearOk) : s2.NearOk := ite_nearOk (h1 h) (by simp [h1 h])
  have ended (h : s.NearOk) (ds : List Due) : (((s2.signalCell c).later ds).endTeamIfDone c.key.tkey).NearOk :=
    endTeamIfDone_nearOk (by simp [signalCell_nearOk, h2 h]) _
  simp +contextual [same, ended]

theorem execMma_nearKept (p : Pfx) (d a b : Reg) (s : State) : NearKept s (execMma p d a b s) :=
  issue_nearKept _ fun v => by
    extract_lets x h fmt r k
    cases v.g.gangId v.k with
    | none => simp
    | some gang =>
      cases mmaFault (Tensor.ofRecord r) v.g.cursor fmt k v.team.spBytes with
      | some y => simp
      | none =>
        dsimp only
        split
        · simp
        · exact View.fenced_nearKept _ fun v => by
            cases (v.s.part v.core (partOf v.k)).latches.find? fun y => y.gang = gang <;> simp

theorem execMatrixOperationComplete_nearKept (s : State) : NearKept s (execMatrixOperationComplete s) := by
  unfold execMatrixOperationComplete
  extract_lets core
  split
  · exact id
  next o _ _ =>
  extract_lets came mv r s1
  have same : came.1.NearOk ↔ s.NearOk := by dsimp only [came]; split <;> simp
  have h1 (h : s.NearOk) : s1.NearOk := by simp [s1, same, h]
  simp +contextual [same, h1, leaveQueue_nearOk]

theorem execCollStart_nearKept (d a : Reg) (s : State) : NearKept s (execCollStart d a s) :=
  issue_nearKept _ fun v => by
    extract_lets x
    split
    · simp
    refine View.fenced_nearKept _ fun v => View.fenced_nearKept _ fun v => ?_
    cases v.s.access v.core v.space x 64 .read with
    | bad n c => simp
    | absent n | ok f =>
      dsimp only
      split
      · simp
      · split
        · simp
        · cases v.maskBytes _ with
          | error e => simp
          | ok bs => 
            dsimp only
            split
            · cases v.s.freeColl <;> simp
            · simp

theorem serveMail_nearKept (cmd : Nat) {body : State → Mail → Option (State × Nat)} (h : ∀ s m x, body s m = some x → s.NearOk → x.1.NearOk)
    (s : State) :
    NearKept s (serveMail cmd body s) := by
  unfold serveMail
  extract_lets c m
  split
  · exact id
  · split
    · simp
    · split
      · simp
      · split
        · exact id
        · next s1 st e => simpa using h s m _ e

theorem accRead_nearKept (p : Pfx) (d a : Reg) (f : Word → Tile → Fin 32 → Nat × Flags) (s : State) : NearKept s (accRead p d a f s) :=
  onTile_nearKept _ _ _ _ _ (fun v h => by simp) s

theorem execLaunch_nearKept (d a : Reg) (s : State) : NearKept s (execLaunch d a s) :=
  issue_nearKept _ fun v => View.fenced_nearKept _ fun v => by
    extract_lets x bad
    cases v.s.access v.core v.space x 256 .read with
    | bad n c => simp [bad]
    | absent n => simp [bad]
    | ok f =>
      dsimp only
      generalize v.s.refusal v.core v.k.tkey v.g.mode _ = code
      cases code with
      | zero => cases (List.range 256).find? fun n => (kfind v.s.grids n).isNone <;> simp [bad]
      | succ c => simp [bad]

theorem execPreemptionStop_nearKept (s : State) : NearKept s (execPreemptionStop s) := by
  unfold execPreemptionStop
  extract_lets t here hold wait
  have held (u : State) : (hold u).NearOk ↔ u.NearOk := by simp [hold]
  have waited (u : State) : (wait u).NearOk ↔ u.NearOk := by simp [wait, held]
  cases e : s.clusterRoom t with
  | none => simp [held, waited]
  | some s1 => simp [held, waited, clusterRoom_nearOk_iff e]

theorem execContextSave_nearKept (s : State) : NearKept s (execContextSave s) := by
  unfold execContextSave
  dsimp only
  split
  · split
    · exact id
    · exact fun h => saveTeam_nearOk h _ _ _ _
  · exact id

theorem execTeamKill_nearKept (s : State) : NearKept s (execTeamKill s) := by
  unfold execTeamKill
  extract_lets t gr s1 s2
  cases kfind s.teams t with
  | some x => simp +contextual [finishKill_nearOk]
  | none =>
    cases e : s.saved.find? fun x => x.team = t with
    | none => simp [s2, s1]
    | some x => 
      have kill (h : s.NearOk) : ((s.countKill x.core s.ev.flag).killSaved x).NearOk :=
        killSaved_nearOk (by simp [h]) (h.2.1 x (List.mem_of_find?_eq_some e))
      simp +contextual [kill]

theorem execHoldRequest_nearKept (s : State) : NearKept s (execHoldRequest s) := by
  unfold execHoldRequest
  split
  · exact id
  · dsimp only
    split <;> simp +contextual [setDirEntry_nearOk]

theorem execCtxbaseTakeEffect_nearKept (s : State) : NearKept s (execCtxbaseTakeEffect s) := by
  unfold execCtxbaseTakeEffect
  dsimp only
  split
  · exact id
  · split
    · intro h
      refine foldl_nearOk (fun _ e hs => setDirEntry_nearOk hs _ _ _) _ (writeColumn_nearOk ?_ _ _ _)
      refine (modCore_nearOk_iff _ _ _ (by exact fun _ => rfl)).2 ⟨List.forall_mem_map.2 fun x hx => ?_, h.2⟩
      split <;> exact h.1 x hx
    · exact id

theorem onHeld_nearKept (cmd : Nat) {body : State → Mail → Saved → State × Nat} (h : ∀ s m x, s.NearOk → (body s m x).1.NearOk) (s : State) :
    NearKept s (onHeld cmd body s) :=
  serveMail_nearKept _ (fun s m x e hs => by
    cases ht : s.target s.ev.core m <;> simp only [ht, Option.some.injEq] at e <;> subst e
    · exact hs
    · exact h _ _ _ hs) s

theorem execDebugHalt_nearKept (s : State) : NearKept s (execDebugHalt s) := by
  have served (st : Nat) : NearKept s (serveMail 1 (fun s _ => some (s, st)) s) := serveMail_nearKept _ (fun s m x e hs => by cases e; exact hs) s
  unfold execDebugHalt
  dsimp only
  split
  · split
    · exact served _
    · exact fun h => postHold_nearOk h _ _
  · exact served _
  · exact served _

theorem execDebugList_nearKept (s : State) : NearKept s (execDebugList s) := serveMail_nearKept _ (fun s m x e hs => by cases e; simp [hs]) s

theorem imageWrite_map_nearOk {s t : State} {x : Saved} {o : Option Nat} {f : Nat → Nat} {bs : List Byte} (h : s.NearOk)
    (e : o.map (fun i => s.imageWrite x (f i) bs) = some t) :
    t.NearOk := by
  obtain ⟨i, -, rfl⟩ := Option.map_eq_some_iff.1 e
  exact imageWrite_nearOk h _ _ _

theorem writeItem_nearOk {s t : State} {x : Saved} {g sel : Nat} {bs : List Byte} (h : s.NearOk) (e : s.writeItem x g sel bs = some t) :
    t.NearOk := by
  have written (o : Nat) (bs : List Byte) := imageWrite_nearOk h x o bs
  unfold State.writeItem at e
  extract_lets at_ mode word at e
  split at e
  · cases e
  · split at e
    · exact imageWrite_map_nearOk (f := id) h e
    · split at e
      · cases e; exact written _ _
      · split at e
        · exact imageWrite_map_nearOk h e
        · split at e <;> cases e
          exact written _ _

theorem execDebugWrreg_nearKept (s : State) : NearKept s (execDebugWrreg s) :=
 onHeld_nearKept _ (fun s m x h => by
  split
  · exact writeItem_nearOk h ‹_›
  · exact h) s

theorem execDebugRdmem_nearKept (s : State) : NearKept s (execDebugRdmem s) :=
 serveMail_nearKept _ (fun s m x e hs => by
  split at e
  · cases e; exact hs
  · split at e <;> cases e
    · exact hs
    · simp [hs]) s

theorem execDebugWrmem_nearKept (s : State) : NearKept s (execDebugWrmem s) :=
 serveMail_nearKept _ (fun s m x e hs => by
  split at e
  · cases e; exact hs
  · split at e <;> cases e
    · exact hs
    · simp [hs]) s

theorem execTarUpdate_nearKept (s : State) : NearKept s (execTarUpdate s) := by simp +contextual [execTarUpdate, readSensor_nearOk]

theorem execColumnRefreshRateChange_nearKept (s : State) : NearKept s (execColumnRefreshRateChange s) := by
  simp +contextual [execColumnRefreshRateChange, shutDown_nearOk]

theorem execWarmReset_nearKept (s : State) : NearKept s (execWarmReset s) := by
  have reset (h : s.NearOk) : s.settled.restarted.clearDirectories.NearOk := clearDirectories_nearOk (restarted_nearOk (by simp [h]))
  simp +contextual [execWarmReset, reset]

theorem reset_nearOk : State.reset.NearOk := ⟨by simp [State.reset], by simp [State.reset], by simp [State.reset]⟩
theorem execColdReset_nearKept (s : State) : NearKept s (execColdReset s) := by simp [execColdReset, reset_nearOk]

theorem execTeamPlacement_nearKept (s : State) : NearKept s (execTeamPlacement s) := by
  unfold execTeamPlacement
  split
  · intro h
    have placed (l : List (TKey × Nat)) : (l.foldl (fun s p => s.placeTeam p.1 p.2) s).NearOk := foldl_nearOk (fun s p hs => placeTeam_nearOk hs p.1 p.2) l h
    simp [placed]
  · exact id

theorem execContextRestore_nearKept (s : State) : NearKept s (execContextRestore s) := by
  unfold execContextRestore
  split
  · dsimp only
    split
    · simp
    · intro h
      simp only [checkGridBarrier_nearOk_iff, checkClusterBarrier_nearOk_iff, serve1_nearOk_iff]
      exact foldl_nearOk (fun s p hs => restoreTeam_nearOk hs _ _ _ _) _ h
  · exact id

theorem execGridEnd_nearKept (s : State) : NearKept s (execGridEnd s) := by
  unfold execGridEnd
  extract_lets n gr s1 s2 s3 s4
  have h1 (h : s.NearOk) : s1.NearOk := by simp [s1, h]
  have h2 (h : s.NearOk) : s2.NearOk := foldl_nearOk (fun s t hs => releaseTeam_nearOk hs t) _ (h1 h)
  have h3 (h : s.NearOk) : s3.NearOk := foldl_nearOk (fun s x hs => by simp [dropSaved_nearOk, hs]) _ (h2 h)
  have h4 (h : s.NearOk) : s4.NearOk := by simp [s4, h3 h]
  simp +contextual [h4]

theorem dqLane_nearOk_iff (v : View) (fn : DqFn) (f : Frame) (value : Lanes DWord) (r : DqRun) (L : Fin 32) :
    (v.dqLane fn f value r L).s.NearOk ↔ r.s.NearOk := by
  unfold View.dqLane
  extract_lets q give i fault setIdx
  split
  · rfl
  · split
    · rfl
    · split
      · rfl
      · split
        · rfl
        · rfl
        · cases fn <;> simp [give, setIdx]

theorem foldl_dqLane_nearOk_iff (v : View) (fn : DqFn) (f : Frame) (value : Lanes DWord) (Ls : List (Fin 32)) (r : DqRun) :
    (Ls.foldl (v.dqLane fn f value) r).s.NearOk ↔ r.s.NearOk := by
  induction Ls generalizing r with
  | nil => rfl
  | cons L Ls ih => rw [List.foldl_cons, ih, dqLane_nearOk_iff]

theorem dq_nearKept (fn : DqFn) (d a : Reg) (s : State) : NearKept s (dq fn d a s) :=
  onHeader_nearKept _ _ _ _ (fun v f => by simp [foldl_dqLane_nearOk_iff]) s

theorem exec_nearKept (i : Instr) (s : State) : NearKept s (exec i s) := by
  cases i <;> dsimp only [exec]
  case sysc | bra | call | jmp | jmpl | brz | brnz | brany | brall | mark | barArrive | barWait | fget | fput | spawn | mov64 | movi | fmtSet |
      fmtGet | bndPubmin | bndPubmax | bndGet | bndReset | rld | add64 | addz64 | cvtF32S64 | cvtS64F32 | cvtp | fenceAcq | touch | cmaintTlb |
      tcommit | twaitb | twaitbTest | gangSet | mfence | mwaitb | lstat | nop | yield | exit | tfence | brk | hvc | texit | halt | gangClr | lrel =>
    exact issue_nearKept _ fun v => by simp
  case voteAny | voteAll | voteBallot | voteCount | voteFirst => exact vote_nearKept ..
  case monw | sget | sset | tret | tretSkip | ctake => exact issue_nearKept _ fun v => by (repeat' split) <;> simp
  case mov | movhi | addi | andi | ori | xori | shli | shri | sari | roti | clz | popc | brev | abs | neg | not | sextb | sexth | zextb | zexth |
      ctz =>
    exact alu1_nearKept ..
  case wbase | wbaseRel => exact setWindow_nearKept ..
  case shfl | shflx => exact shuffle_nearKept ..
  case csel | mad | bfi => exact alu3_nearKept ..
  case tjoin | tjoinTest => exact join_nearKept ..
  case add | sub | mul | mulhs | mulhu | min | max | minu | maxu | and | or | xor | shl | shr | sar | rot | bfx | seq | slt | sltu =>
    exact alu2_nearKept ..
  case mulws | mulwz => exact mulPair_nearKept ..
  case fadd | fsub | fmul | fmin | fmax | fseq | fslt | fsle | badd2 | bmul2 => exact float2_nearKept ..
  case ffma | bfma2 | hfma2 | dot4i | dot8i | dot4f | dot8f | dot2b => exact float3_nearKept ..
  case collWait | collTest => exact collStatus_nearKept ..
  case fabs | fneg | frndn | frndz | frndp | frndm | fclass | frcp | frsq | fsqrt | fex2 | flg2 | fsin | fcos => exact float1_nearKept ..
  case rsubs | rsubsOff => exact rsubs_nearKept ..
  case cvtF32F16 | cvtF32Bf16 | cvtF16F32 | cvtBf16F32 | cvtF32S32 | cvtF32Z32 | cvtS32F32 | cvtZ32F32 | cvtF32E4m3 | cvtF32E5m2 | cvtF32E3m2 |
      cvtF32E2m3 | cvtF32E2m1 | cvtE4m3F32 | cvtE5m2F32 | cvtE3m2F32 | cvtE2m3F32 | cvtE2m1F32 | cvtF32E8m0 | cvtE8m0F32 | cvtS16S32 | cvtS8S32 |
      cvtZ16Z32 | cvtZ8Z32 =>
    exact convert_nearKept ..
  case atnAdd | atnMin | atnMax | atnMinu | atnMaxu | atnAnd | atnOr | atnXch => exact atn_nearKept ..
  case casn => exact nearAtomic_nearKept ..
  case rrot | accAlloc | cpass | join => exact issue_nearKept _ fun v => by dsimp only; (repeat' split) <;> simp
  case aadd | amin | amax | aminu | amaxu | aand | aor | axor | axch => exact integerAtomic_nearKept ..
  case acas | afadd => exact globalAtomic_nearKept ..
  case fenceRel | fenceAcqrel | fenceSc | fenceAsync => exact fencePush_nearKept ..
  case barTeam | barClu | barGrid => exact barrier_nearKept ..
  case nrmRead | cycloRead | aflagsRead | rspeekWrite | ctxbaseWrite | runLimit | activeSetEviction | fixedLatencyWriteback =>
    simp [execNrmRead, execCycloRead, execAflagsRead, execRspeekWrite, execCtxbaseWrite, execRunLimit, execActiveSetEviction,
      execFixedLatencyWriteback]
  case ringStepStart | beamCreditReturn | beamRealignmentDue | beamRealignmentStart | beamRealignmentComplete | upperDeckUngate | refreshWindowStart
      | refreshWindowEnd =>
    simp [execRingStepStart, execBeamCreditReturn, execBeamRealignmentDue, execBeamRealignmentStart, execBeamRealignmentComplete,
      execUpperDeckUngate, execRefreshWindowStart, execRefreshWindowEnd]
  case residencyRequest | shootdownComplete | dieLoss | directoryRebuildComplete | hostSnoop | hostMemoryAccess =>
    simp [execResidencyRequest, execShootdownComplete, execDieLoss, execDirectoryRebuildComplete, execHostSnoop, execHostMemoryAccess]
  case allocGrant | carryGrant | licenceGrant | licenceIdleRelease | licenceRelease | powerSample =>
    simp [execAllocGrant, execCarryGrant, execLicenceGrant, execLicenceIdleRelease, execLicenceRelease, execPowerSample]
  case boundPublishArrival | pathReady | monitorWriteWake | monitorLineLoss | monwTimeout | waitCounterCheck | priorityAging =>
    simp [execBoundPublishArrival, execPathReady, execMonitorWriteWake, execMonitorLineLoss, execMonwTimeout, execWaitCounterCheck,
      execPriorityAging]
  case requestTimeout | sequenceGap | flitReplay | portDown | portWidthChange | spdmSession | domainKeyLoad | memberMaskUpdate | rekeyBarrierSend |
      rekeySwitch | rekeyTimeout | peerNumberAssignment =>
    simp [execRequestTimeout, execSequenceGap, execFlitReplay, execPortDown, execPortWidthChange, execSpdmSession, execDomainKeyLoad,
      execMemberMaskUpdate, execRekeyBarrierSend, execRekeySwitch, execRekeyTimeout, execPeerNumberAssignment]
  case hostLinkTrain | kill | healthCounterRead | managementRegisterWrite | coreFence | blockFence | ownerKeyAssign | ownerKeyRelease =>
    simp [execHostLinkTrain, execKill, execHealthCounterRead, execManagementRegisterWrite, execCoreFence, execBlockFence, execOwnerKeyAssign,
      execOwnerKeyRelease]
  case cmaintWb | cmaintInv | cmaintWbinv => exact cmaint_nearKept _ _ (by simp) s
  case vput | twxWr | twxRd => exact beam_nearKept _ _ _ (fun v => by simp) s
  case vputNb => exact beam_nearKept _ _ _ (fun v => View.fenced_nearKept _ fun v => by simp) s
  case vget | vgetNb => exact beam_nearKept _ _ _ (fun v => by split <;> simp [View.claim]) s
  case cbarInit | cbarExpect | cbarArrive => exact cbar_nearKept _ _ _ _ (fun v x m => by simp +contextual [setCell_nearOk]) s
  case cbarWait | cbarTest => exact cbar_nearKept _ _ _ _ (fun v x m => by simp) s
  case accFree | accZero | accStat | accWrf32 => exact onTile_nearKept _ _ _ _ _ (fun v h => by simp) s
  case accRdf32 | accRdbf2 | accRdi32 => exact accRead_nearKept ..
  case gangCur | gangNear | gangScl => exact gangForm_nearKept _ (fun v => by simp) s
  case dqSize => exact onHeader_nearKept _ _ _ _ (fun v f => by simp) s
  case dqPush | dqPop | dqSteal => exact dq_nearKept ..
  case tcopy | tstore => exact tileCopy_nearKept ..
  case lcopy => exact issue_nearKept _ fun v => by simp
  case debugResume => exact onHeld_nearKept _ (fun s m x h => resume_nearOk h x) s
  case debugStep | debugSetbp | debugClrbp => exact onHeld_nearKept _ (fun s m x h => by simp [resume_nearOk, imageWrite_nearOk, h]) s
  case debugRdreg => exact onHeld_nearKept _ (fun s m x h => by split <;> simp [h]) s
  case thermalTrip => exact fun h => readSensor_nearOk h _ _
  case thermalShutdown => exact fun h => ite_nearOk h (shutDown_nearOk h)
  case mona => exact execMona_nearKept ..
  case launch => exact execLaunch_nearKept ..
  case rst => exact execRst_nearKept ..
  case collStart => exact execCollStart_nearKept ..
  case ratom => exact execRatom_nearKept ..
  case ldn => exact execLdn_nearKept ..
  case stn => exact execStn_nearKept ..
  case ld => exact execLd_nearKept ..
  case st => exact execSt_nearKept ..
  case trec => exact execTrec_nearKept ..
  case trecN => exact execTrecN_nearKept ..
  case mma => exact execMma_nearKept ..
  case accStn => exact execAccStn_nearKept ..
  case ctxbaseTakeEffect => exact execCtxbaseTakeEffect_nearKept s
  case ringStepComplete => exact execRingStepComplete_nearKept s
  case beamEntryArrival => exact execBeamEntryArrival_nearKept s
  case upperDeckGate => exact execUpperDeckGate_nearKept s
  case columnRefreshRateChange => exact execColumnRefreshRateChange_nearKept s
  case tlbInvalidationArrival => exact execTlbInvalidationArrival_nearKept s
  case tlbInvalidationAck => exact execTlbInvalidationAck_nearKept s
  case tableWalk => exact execTableWalk_nearKept s
  case walkAheadFetch => exact execWalkAheadFetch_nearKept s
  case copyComplete => exact execCopyComplete_nearKept s
  case rendezvousComplete => exact execRendezvousComplete_nearKept s
  case matrixOperationStart => exact execMatrixOperationStart_nearKept s
  case matrixOperationComplete => exact execMatrixOperationComplete_nearKept s
  case accStnComplete => exact execAccStnComplete_nearKept s
  case issueArbitration => exact execIssueArbitration_nearKept s
  case activeSetEntry => exact execActiveSetEntry_nearKept s
  case quantumExpiry => exact execQuantumExpiry_nearKept s
  case interlockedWriteComplete => exact execInterlockedWriteComplete_nearKept s
  case breakpointTrap => exact execBreakpointTrap_nearKept s
  case singleStepTrap => exact execSingleStepTrap_nearKept s
  case taskPacketArrival => exact execTaskPacketArrival_nearKept s
  case overflowPacketReturn => exact execOverflowPacketReturn_nearKept s
  case waveFormation => exact execWaveFormation_nearKept s
  case parkedContextResume => exact execParkedContextResume_nearKept s
  case teamPlacement => exact execTeamPlacement_nearKept s
  case sliceEnd => exact execSliceEnd_nearKept s
  case preemptionStop => exact execPreemptionStop_nearKept s
  case contextSave => exact execContextSave_nearKept s
  case contextRestore => exact execContextRestore_nearKept s
  case teamKill => exact execTeamKill_nearKept s
  case gridEnd => exact execGridEnd_nearKept s
  case holdRequest => simp [execHoldRequest_nearKept]
  case debugHalt => exact execDebugHalt_nearKept s
  case debugWrreg => exact execDebugWrreg_nearKept s
  case debugRdmem => exact execDebugRdmem_nearKept s
  case debugWrmem => exact execDebugWrmem_nearKept s
  case debugList => exact execDebugList_nearKept s
  case writePropagation => exact execWritePropagation_nearKept s
  case cacheUncorrectableError => exact execCacheUncorrectableError_nearKept s
  case remoteRequestReceive => exact execRemoteRequestReceive_nearKept s
  case remoteResponseReceive => exact execRemoteResponseReceive_nearKept s
  case nackReceive => exact execNackReceive_nearKept s
  case planeRemap => exact execPlaneRemap_nearKept s
  case planeRecovery => exact execPlaneRecovery_nearKept s
  case subscriptionPush => exact execSubscriptionPush_nearKept s
  case collectiveComplete => exact execCollectiveComplete_nearKept s
  case collectiveTimeout => exact execCollectiveTimeout_nearKept s
  case tarUpdate => exact execTarUpdate_nearKept s
  case coldReset => simp [execColdReset_nearKept]
  case warmReset => exact execWarmReset_nearKept s
  case writePerformed => exact execWritePerformed_nearKept s

end Sys2Proof.Machine

/-! One step keeps the form (O59). -/

namespace Sys2Proof.Machine

theorem runDue_nearKept (s : State) (d : Due) (rest : List Due) : NearKept s (s.runDue d rest) := by
  unfold State.runDue
  extract_lets s0
  have ran : NearKept s (exec d.op s0) := exec_nearKept d.op s0
  split
  · exact ran
  · exact unlessCrossing_nearKept _ _ (fun h => by simpa [s0] using h) ran

theorem stepGroup_nearKept (s : State) (k : GKey) (g : Group) (p : Path) : NearKept s (s.stepGroup k g p) := by
  unfold State.stepGroup
  split
  · exact exec_nearKept .singleStepTrap { s with ev := { key := k } }
  split
  · exact exec_nearKept .breakpointTrap _
  split
  · next d _ => exact unlessCrossing_nearKept _ _ (by simp) (exec_nearKept d.i { s with slotE := d.e, slotW := d.w })
  · simp

theorem lookAt_nearOk {s : State} (h : s.NearOk) (k : GKey) : (s.lookAt k).NearOk := by
  unfold State.lookAt
  extract_lets s0
  split
  · exact h
  next g _ =>
  split
  · exact h
  next p _ =>
  have kept := stepGroup_nearKept s0 k g p
  split
  · next t e => exact ite_nearOk ((e ▸ kept : NearKept s0 (.next t)) h) h
  · exact h

theorem lookOutside_nearOk {s : State} (h : s.NearOk) : s.lookOutside.NearOk := foldl_nearOk (fun _ k hs => lookAt_nearOk hs k) _ h
@[simp] theorem chosen_nearOk_iff (s : State) (c : Choice) : (s.chosen c).NearOk ↔ s.NearOk := by cases c <;> simp [State.chosen]

@[simp] theorem plan_nearOk_iff (s : State) : s.plan.NearOk ↔ s.NearOk := by
  unfold State.plan
  extract_lets s1 s2 cs
  have same : s2.NearOk ↔ s.NearOk := by simp [s2, s1]
  split
  · simp [same]
  · split <;> simp [same]

theorem next_nearOk {s : State} (h : s.NearOk) : s.next.NearOk := ite_nearOk ((plan_nearOk_iff _).2 (lookOutside_nearOk h)) (lookOutside_nearOk h)

theorem afterInstr_nearKept {s : State} {o : Host.Outcome State Fault Refusal} (h : NearKept s o) : NearKept s (afterInstr o) := by
  cases o <;> exact h

theorem step_nearKept (s : State) : NearKept s (step s) := by
  unfold step
  split
  · exact runDue_nearKept s _ _
  split
  · exact next_nearOk
  split
  · exact id
  split
  · exact id
  · exact afterInstr_nearKept (stepGroup_nearKept s _ _ _)

/-- Settles O59: every instruction and every step of the device keeps the form. -/
theorem nearMemoryFormIsKept : Obligations.NearMemoryFormIsKept := by
  unfold Obligations.NearMemoryFormIsKept
  intro s t h e
  exact (e ▸ step_nearKept s : NearKept s (.next t)) h

end Sys2Proof.Machine

/-! A VPUT.NB without the beam on a path without active lanes (R64, R156). -/

namespace Sys2Proof.Machine

theorem issuing_idle : Issuing idleState ⟨0, 0, 0⟩ idleGroup idlePath := ⟨rfl, rfl, rfl⟩

theorem ready_idle : Ready idleState ⟨0, 0, 0⟩ idleGroup idlePath [0, 0] [0] := ⟨rfl, by decide, fun _ => rfl⟩

/-- A VPUT.NB that reads, in no lane, a register that is not uniform takes no beat: without the beam it traps with the cycle counter at 0. -/
theorem idle_vputNb_cycle : ∃ t, exec (.vputNb 0#7 0#7) idleState = .next t ∧ t.cycle = 0 := by
  rw [exec_vputNb, execVputNb, beam]
  refine ⟨_, issue_trap issuing_idle _ rfl rfl { cause := .nearRange, lanes := 0#32 } rfl rfl, ?_⟩
  rw [State.stepped_cycle, State.trap_cycle_of_parts_nil rfl]
  decide

/-- Refutes O28: `Traps` asks for at least one beat, but on a path without active lanes, which `Issuing` admits, a VPUT.NB without the beam whose
source is not uniform takes none, as `beats` counts the active lanes. -/
theorem not_beamTransfers : ¬ Obligations.BeamTransfers := by
  intro transfers
  have htraps := (transfers _ _ _ _ issuing_idle rfl 0#7 0#7 0#3).2 rfl (.vputNb 0#7 0#7, [0, 0], [0]) (by simp) ready_idle
  obtain ⟨t, ht, hcycle⟩ := idle_vputNb_cycle
  exact absurd (htraps.cycle_lt rfl ht) (by omega)

end Sys2Proof.Machine

/-! What traffic in memory, caches and the fabric leaves alone beyond the resident groups, teams and partitions: the pairs of cores and the ring
steps. -/

namespace Sys2Proof.Machine

/-- The records of pairs, and the ring steps. -/
def State.tracks (s : State) : KMap Nat Pair × List RingStep := (s.pairs, s.rings)

theorem pairs_of_tracks {s t : State} (h : t.tracks = s.tracks) : t.pairs = s.pairs := congrArg (·.1) h
theorem rings_of_tracks {s t : State} (h : t.tracks = s.tracks) : t.rings = s.rings := congrArg (·.2) h

@[simp] theorem later_tracks (s : State) (ds : List Due) : (s.later ds).tracks = s.tracks := rfl

@[simp] theorem send_tracks (s : State) (peer dom home o : Nat) (b : Body) : (s.send peer dom home o b).tracks = s.tracks := by
  have asked (u : State) : (u.askRekey dom).tracks = u.tracks := by unfold State.askRekey; split <;> rfl
  unfold State.send State.sendNow
  dsimp only
  split
  · rfl
  · split
    · rfl
    · split
      · exact asked _
      · rfl

@[simp] theorem pushLine_tracks (s : State) (pa : Nat) : (s.pushLine pa).tracks = s.tracks := by
  refine foldl_keeps (fun s r => ?_) _ _
  split
  · rfl
  · refine foldl_keeps (fun s q => ?_) _ _
    exact send_tracks s q _ _ _ _

@[simp] theorem noteWrite_tracks (s : State) (pa core : Nat) (b a : Option Nat) (self : Option GKey) :
    (s.noteWrite pa core b a self).tracks = s.tracks := by
  unfold State.noteWrite
  dsimp only
  rw [later_tracks]
  split
  · exact pushLine_tracks s pa
  · rfl

@[simp] theorem reachCopies_tracks (s : State) (core base before after : Nat) : (s.reachCopies core base before after).tracks = s.tracks := by
  unfold State.reachCopies
  dsimp only
  split <;> rfl

@[simp] theorem recallHost_tracks (s : State) (pa : Nat) : (s.recallHost pa).tracks = s.tracks := by
  unfold State.recallHost
  split <;> rfl

@[simp] theorem homeWrite_tracks (s : State) (pa : Nat) (bs : List Byte) : (s.homeWrite pa bs).tracks = s.tracks := rfl
@[simp] theorem cleanCopies_tracks (s : State) (base : Nat) : (s.cleanCopies base).tracks = s.tracks := rfl
@[simp] theorem noteOwn_tracks (s : State) (self : Option GKey) (pa : Nat) (bs : List Byte) : (s.noteOwn self pa bs).tracks = s.tracks := rfl

@[simp] theorem propagate_tracks (s : State) (test : PWrite → Bool) : (s.propagate test).tracks = s.tracks :=
  foldl_keeps (fun s w => by simp [State.arriveHome]) _ _

@[simp] theorem widen_tracks (s : State) (id reach : Nat) : (s.widen id reach).tracks = s.tracks := by
  unfold State.widen
  split
  · rfl
  · split
    · rfl
    · split
      · exact propagate_tracks s _
      · rw [reachCopies_tracks, noteWrite_tracks]
        rfl

theorem release_tracks (s : State) (core scope : Nat) : (s.release core scope).tracks = s.tracks := by
  unfold State.release
  split
  · exact propagate_tracks s _
  · exact foldl_keeps (π := State.tracks) (fun s w => widen_tracks s _ _) _ _

theorem healthRecord_tracks (s : State) (kind addr core : Nat) : (s.healthRecord kind addr core).tracks = s.tracks := by
  have written (u : State) (pa : Nat) (bs : List Byte) : (u.deviceWrite pa bs).tracks = u.tracks := by
    simp [State.deviceWrite, State.writeHome, State.settleRange]
  have logged (u : State) (n : Word) : ({ u with hlogt := n } : State).tracks = u.tracks := rfl
  unfold State.healthRecord
  dsimp only
  rw [logged]
  split
  · rfl
  · exact written _ _ _

end Sys2Proof.Machine

/-! The steps of the beam and of the column region (R148, R156, R159, R160, R162, R163, R359). -/

namespace Sys2Proof.Machine

-- ## Partitions and pairs of a state

theorem part_modPart (s : State) (c q : Nat) (f : Part → Part) : (s.modPart c q f).part c q = f (s.part c q) := by
  simp [State.part, State.modPart]

theorem part_modPart_ne (s : State) {c c' q q' : Nat} (f : Part → Part) (h : 4 * c' + q' ≠ 4 * c + q) : (s.modPart c q f).part c' q' = s.part c' q' := by
  simp [State.part, State.modPart, kfind_kput_ne _ _ h]

theorem kfind_modPart_ne (s : State) {c q j : Nat} (f : Part → Part) (h : j ≠ 4 * c + q) : kfind (s.modPart c q f).parts j = kfind s.parts j :=
  kfind_kput_ne _ _ h

theorem modPart_modPart (s : State) (c q : Nat) (f f' : Part → Part) : (s.modPart c q f).modPart c q f' = s.modPart c q fun x => f' (f x) := by
  simp [State.modPart, State.part, kput_kput]

theorem pair_modPair (s : State) (c : Nat) (f : Pair → Pair) : (s.modPair c f).pair c = f (s.pair c) := by
  simp [State.pair, State.modPair]

theorem twinOf_ne (c : Nat) : twinOf c ≠ c := by
  unfold twinOf
  split <;> omega

/-- A step that changes the record of a core's pair to `x`, and nothing else. -/
theorem modPair_changes (s : State) {c : Nat} {f : Pair → Pair} {x : Pair} (h : f (s.pair c) = x) :
    { s.modPair c f with pairs := [] } = { s with pairs := [] } ∧ (s.modPair c f).pair c = x ∧
      ∀ j, j ≠ pairOf c → kfind (s.modPair c f).pairs j = kfind s.pairs j :=
  ⟨rfl, (pair_modPair s c f).trans h, fun _ hj => kfind_kput_ne _ _ hj⟩

-- ## A shutdown keeps what the column-region sensors read

/-- The reading of a pair that has a record, and whether its column is refreshed at twice the rate. -/
def State.reading (s : State) (c : Nat) : Option (Nat × Bool) := (kfind s.pairs (pairOf c)).map fun p => (p.temp, p.doubled)

theorem pair_of_reading {s : State} {c : Nat} {x : Nat × Bool} (h : s.reading c = some x) : ((s.pair c).temp, (s.pair c).doubled) = x := by
  obtain ⟨p, hp, rfl⟩ := Option.map_eq_some_iff.1 h
  simp [State.pair, hp]

theorem reading_of_tracks {s t : State} (h : t.tracks = s.tracks) (c : Nat) : t.reading c = s.reading c := by
  rw [State.reading, pairs_of_tracks h, State.reading]

/-- A change of every pair's record in its place that keeps its reading. -/
theorem reading_map {s t : State} {f : Nat × Pair → Nat × Pair} (ht : t.pairs = s.pairs.map f) (hkey : ∀ x, (f x).1 = x.1)
    (hread : ∀ x, ((f x).2.temp, (f x).2.doubled) = (x.2.temp, x.2.doubled)) (c : Nat) : t.reading c = s.reading c := by
  unfold State.reading
  rw [ht]
  induction s.pairs with
  | nil => rfl
  | cons x m ih =>
    obtain ⟨j, y⟩ := x
    have hj : (f (j, y)).1 = j := hkey (j, y)
    rw [List.map_cons, show f (j, y) = (j, (f (j, y)).2) from Prod.ext hj rfl]
    by_cases e : j = pairOf c
    · simpa [kfind, e] using hread (j, y)
    · simpa [kfind, e] using ih

theorem modPair_reading {s : State} {c : Nat} {x : Nat × Bool} (h : s.reading c = some x) (c' : Nat) {f : Pair → Pair}
    (hf : ∀ p, ((f p).temp, (f p).doubled) = (p.temp, p.doubled)) : (s.modPair c' f).reading c = some x := by
  by_cases e : pairOf c = pairOf c'
  · have hp := pair_of_reading h
    simp only [State.reading, State.modPair, e, kfind_kput_self, Option.map_some, hf]
    rw [← hp, State.pair, State.pair, e]
  · simpa [State.reading, State.modPair, kfind_kput_ne _ _ e] using h

theorem foldl_reading {α : Type} {f : State → α → State} {c : Nat} {x : Nat × Bool}
    (hf : ∀ s y, State.reading s c = some x → (f s y).reading c = some x) (l : List α) {s : State} (h : s.reading c = some x) :
    (l.foldl f s).reading c = some x := by
  induction l generalizing s with
  | nil => exact h
  | cons y l ih => exact ih (hf s y h)

theorem fenceCore_reading (s : State) (c' c : Nat) : (s.fenceCore c').reading c = s.reading c := by
  unfold State.fenceCore
  split
  · rfl
  · refine reading_map rfl (fun x => ?_) (fun x => ?_) c <;> split <;> rfl

theorem endRebuild_reading (s : State) (d c : Nat) : (s.endRebuild d).reading c = s.reading c := by
  have poisoned (u : State) (l : Nat) : (u.poisonLine l).tracks = u.tracks := by
    unfold State.poisonLine
    split
    · rfl
    · exact pushLine_tracks _ _
  unfold State.endRebuild
  refine (foldl_keeps (π := fun s => s.reading c) (fun s i => fenceCore_reading s _ c) _ _).trans ?_
  exact reading_of_tracks (foldl_keeps (π := State.tracks) (fun s l => (healthRecord_tracks _ _ _ _).trans (poisoned s _)) _ _) c

theorem flushCaches_tracks (s : State) (mine : Nat → Bool) : (s.flushCaches mine).tracks = s.tracks :=
  propagate_tracks _ _

theorem settled_reading (s : State) (c : Nat) : s.settled.reading c = s.reading c := by
  rw [State.settled, reading_of_tracks (flushCaches_tracks _ _)]
  exact foldl_keeps (π := fun s => s.reading c) (fun s d => endRebuild_reading s d c) _ _

theorem pinStack_reading {s : State} {c : Nat} {x : Nat × Bool} (h : s.reading c = some x) (d : Nat) : (s.pinStack d).reading c = some x := by
  unfold State.pinStack
  generalize List.range 256 = l
  exact foldl_reading (f := fun s i => s.modPair (d / 2 * 512 + i) fun p => p.setTar lowTar) (fun s i hs => modPair_reading hs _ fun _ => rfl) l h

theorem pinStack_groups (s : State) (d : Nat) : (s.pinStack d).groups = s.groups := by
  unfold State.pinStack
  generalize List.range 256 = l
  exact foldl_keeps (π := State.groups) (f := fun s i => s.modPair (d / 2 * 512 + i) fun p => p.setTar lowTar) (fun _ _ => rfl) l s

theorem pinStack_teams (s : State) (d : Nat) : (s.pinStack d).teams = s.teams := by
  unfold State.pinStack
  generalize List.range 256 = l
  exact foldl_keeps (π := State.teams) (f := fun s i => s.modPair (d / 2 * 512 + i) fun p => p.setTar lowTar) (fun _ _ => rfl) l s

theorem restarted_reading {s : State} {c : Nat} {x : Nat × Bool} (h : s.reading c = some x) : s.restarted.reading c = some x := by
  unfold State.restarted
  refine foldl_reading (fun s d hs => pinStack_reading hs d) s.hotDecks ?_
  exact (reading_map (f := fun p => (p.1, { temp := p.2.temp, doubled := p.2.doubled })) rfl (fun _ => rfl) (fun _ => rfl) c).trans h

theorem shutDown_reading {s : State} {c : Nat} {x : Nat × Bool} (h : s.reading c = some x) : s.shutDown.reading c = some x :=
  restarted_reading ((settled_reading s c).trans h)

theorem restarted_empties (s : State) : s.restarted.groups = [] ∧ s.restarted.teams = [] := by
  unfold State.restarted
  rw [foldl_keeps (π := State.groups) pinStack_groups, foldl_keeps (π := State.teams) pinStack_teams]
  exact ⟨rfl, rfl⟩

theorem shutDown_empties (s : State) : s.shutDown.groups = [] ∧ s.shutDown.teams = [] :=
  restarted_empties s.settled

-- ## The steps

section
variable (s : State)

theorem beamEntryArrival_lands {e : Lanes Word} {rest : List (Lanes Word)} (he : (s.part s.ev.core s.ev.part).transit = e :: rest)
    (hr : s.realigning s.ev.core = false) (hin : s.hasBeamTeam s.ev.core = true ∧ (s.part s.ev.core s.ev.part).doomed = 0) :
    exec .beamEntryArrival s = .next (s.modPart s.ev.core s.ev.part fun x => { x with transit := rest, doomed := x.doomed - 1, fifo := x.fifo ++ [e] }) := by
  rw [exec_beamEntryArrival]
  simp [execBeamEntryArrival, he, hr, hin, modPart_modPart]

theorem beamEntryArrival_returns {e : Lanes Word} {rest : List (Lanes Word)} (he : (s.part s.ev.core s.ev.part).transit = e :: rest)
    (hr : s.realigning s.ev.core = false) (hout : s.hasBeamTeam s.ev.core = false ∨ 0 < (s.part s.ev.core s.ev.part).doomed) :
    exec .beamEntryArrival s = .next ((s.modPart s.ev.core s.ev.part fun x => { x with transit := rest, doomed := x.doomed - 1 }).modPart
      (twinOf s.ev.core) s.ev.part fun x => { x with returning := x.returning + 1 }) := by
  have hnot : (s.hasBeamTeam s.ev.core && decide ((s.part s.ev.core s.ev.part).doomed = 0)) = false := by
    rcases hout with h | h
    · simp [h]
    · simp [Nat.pos_iff_ne_zero.1 h]
  rw [exec_beamEntryArrival]
  simp [execBeamEntryArrival, he, hr, hnot]

theorem beamEntryArrival_step {e : Lanes Word} {rest : List (Lanes Word)} (he : (s.part s.ev.core s.ev.part).transit = e :: rest)
    (hr : s.realigning s.ev.core = false) : ∃ t, exec .beamEntryArrival s = .next t ∧ { t with parts := [] } = { s with parts := [] } ∧
      (s.hasBeamTeam s.ev.core = true ∧ (s.part s.ev.core s.ev.part).doomed = 0 →
        t.part s.ev.core s.ev.part =
          { s.part s.ev.core s.ev.part with transit := rest, fifo := (s.part s.ev.core s.ev.part).fifo ++ [e] } ∧
        ∀ j, j ≠ 4 * s.ev.core + s.ev.part → kfind t.parts j = kfind s.parts j) ∧
      (s.hasBeamTeam s.ev.core = false ∨ 0 < (s.part s.ev.core s.ev.part).doomed →
        t.part s.ev.core s.ev.part =
          { s.part s.ev.core s.ev.part with transit := rest, doomed := (s.part s.ev.core s.ev.part).doomed - 1 } ∧
        t.part (twinOf s.ev.core) s.ev.part =
          { s.part (twinOf s.ev.core) s.ev.part with returning := (s.part (twinOf s.ev.core) s.ev.part).returning + 1 } ∧
        ∀ j, j ≠ 4 * s.ev.core + s.ev.part → j ≠ 4 * twinOf s.ev.core + s.ev.part → kfind t.parts j = kfind s.parts j) := by
  have hkeys : 4 * s.ev.core + s.ev.part ≠ 4 * twinOf s.ev.core + s.ev.part := by have := twinOf_ne s.ev.core; omega
  by_cases hin : s.hasBeamTeam s.ev.core = true ∧ (s.part s.ev.core s.ev.part).doomed = 0
  · refine ⟨_, beamEntryArrival_lands s he hr hin, rfl, fun _ => ⟨?_, fun j hj => kfind_modPart_ne _ _ hj⟩, fun hout => ?_⟩
    · simp [part_modPart, hin.2]
    · rcases hout with h | h
      · simp [h] at hin
      · omega
  · have hout : s.hasBeamTeam s.ev.core = false ∨ 0 < (s.part s.ev.core s.ev.part).doomed := by
      rcases Bool.eq_false_or_eq_true (s.hasBeamTeam s.ev.core) with h | h
      · exact .inr (Nat.pos_of_ne_zero fun h0 => hin ⟨h, h0⟩)
      · exact .inl h
    refine ⟨_, beamEntryArrival_returns s he hr hout, rfl, fun h => absurd h hin, fun _ => ⟨?_, ?_, fun j hj hj' => ?_⟩⟩
    · rw [part_modPart_ne _ _ hkeys, part_modPart]
    · rw [part_modPart, part_modPart_ne _ _ hkeys.symm]
    · rw [kfind_modPart_ne _ _ hj', kfind_modPart_ne _ _ hj]

theorem beamCreditReturn_step : ∃ t, exec .beamCreditReturn s = .next t ∧ { t with parts := [] } = { s with parts := [] } ∧
    (0 < (s.part s.ev.core s.ev.part).returning → t.part s.ev.core s.ev.part =
      { s.part s.ev.core s.ev.part with
        returning := (s.part s.ev.core s.ev.part).returning - 1, credits := min 16 ((s.part s.ev.core s.ev.part).credits + 1) }) := by
  refine ⟨_, exec_beamCreditReturn s, rfl, fun h => ?_⟩
  rw [part_modPart, if_neg (by omega)]

theorem beamRealignmentDue_step (h : (s.pair s.ev.core).realign = .idle) :
    ∃ t, exec .beamRealignmentDue s = .next t ∧ { t with pairs := [] } = { s with pairs := [] } ∧
      t.pair s.ev.core = { s.pair s.ev.core with realign := if s.beamBusy s.ev.core = true then .deferred else .running } ∧
      ∀ j, j ≠ pairOf s.ev.core → kfind t.pairs j = kfind s.pairs j :=
  ⟨_, exec_beamRealignmentDue s, modPair_changes s (if_pos h)⟩

theorem beamRealignmentStart_starts (h : (s.pair s.ev.core).realign = .deferred) (hdue : s.ev.flag = true ∨ s.beamBusy s.ev.core = false) :
    ∃ t, exec .beamRealignmentStart s = .next t ∧ { t with pairs := [] } = { s with pairs := [] } ∧
      t.pair s.ev.core = { s.pair s.ev.core with realign := .running } ∧ ∀ j, j ≠ pairOf s.ev.core → kfind t.pairs j = kfind s.pairs j :=
  ⟨_, exec_beamRealignmentStart s, modPair_changes s (if_pos (by simpa [h] using hdue))⟩

theorem beamRealignmentStart_waits (h : (s.pair s.ev.core).realign = .deferred) (hflag : s.ev.flag = false) (hbusy : s.beamBusy s.ev.core = true) :
    ∃ t, exec .beamRealignmentStart s = .next t ∧ { t with pairs := [] } = { s with pairs := [] } ∧
      t.pair s.ev.core = { s.pair s.ev.core with realign := .deferred } ∧ ∀ j, j ≠ pairOf s.ev.core → kfind t.pairs j = kfind s.pairs j :=
  ⟨_, exec_beamRealignmentStart s, modPair_changes s ((if_neg (by simp [hflag, hbusy])).trans (by rw [← h]))⟩

theorem beamRealignmentComplete_step (h : (s.pair s.ev.core).realign = .running) :
    ∃ t, exec .beamRealignmentComplete s = .next t ∧ { t with pairs := [] } = { s with pairs := [] } ∧
      t.pair s.ev.core = { s.pair s.ev.core with realign := .idle } ∧ ∀ j, j ≠ pairOf s.ev.core → kfind t.pairs j = kfind s.pairs j :=
  ⟨_, exec_beamRealignmentComplete s, modPair_changes s (if_pos h)⟩

theorem upperDeckGate_gates (hodd : s.ev.k % 2 = 1) (hon : s.ev.k ∉ s.gated) (hempty : ∀ y ∈ s.teams, y.2.core / 256 ≠ s.ev.k) :
    ∃ t, exec .upperDeckGate s = .next t ∧ t.gated = s.ev.k :: s.gated ∧ s.ev.k ∉ t.gating ∧ t.teams = s.teams ∧
      ∀ x ∈ s.saved, x.core / 256 = s.ev.k → (s.record x.team).beam = true → { x with gatedOff := true } ∈ t.saved := by
  have hhere : (s.teams.filter fun t => t.2.core / 256 = s.ev.k).isEmpty = true := by simpa [List.filter_eq_nil_iff] using hempty
  rw [exec_upperDeckGate]
  simp only [execUpperDeckGate, hhere, hodd, hon, List.contains_eq_mem, Nat.one_ne_zero, decide_false, Bool.or_self, Bool.false_eq_true, if_false,
    if_true]
  refine ⟨_, rfl, rfl, by simp, (residents_eq (propagate_residents _ _)).2.1, fun x hx hcore hbeam => ?_⟩
  exact List.mem_map.2 ⟨x, hx, by simp [hcore, hbeam]⟩

theorem upperDeckGate_asks (hodd : s.ev.k % 2 = 1) (hon : s.ev.k ∉ s.gated) (hteam : ∃ y ∈ s.teams, y.2.core / 256 = s.ev.k) :
    ∃ t, exec .upperDeckGate s = .next t ∧ t.gated = s.gated ∧ s.ev.k ∈ t.gating ∧
      ∀ y ∈ s.teams, y.2.core / 256 = s.ev.k → y.2.stop = false →
        ∃ due ∈ t.agenda, due.op = .preemptionStop ∧ due.arg.key.tkey = y.1 ∧ due.arg.n = 1 := by
  have hhere : (s.teams.filter fun t => t.2.core / 256 = s.ev.k).isEmpty = false := by simpa using hteam
  rw [exec_upperDeckGate]
  simp only [execUpperDeckGate, hhere, hodd, hon, List.contains_eq_mem, Nat.one_ne_zero, decide_false, Bool.or_self, Bool.false_eq_true, if_false]
  refine ⟨_, rfl, rfl, List.mem_cons_self, fun y hy hcore hstop => ?_⟩
  refine ⟨_, List.mem_append_right _ (List.mem_map.2 ⟨y, ?_, rfl⟩), rfl, rfl, rfl⟩
  simp [hy, hcore, hstop]

theorem kfind_map_snd {α β γ : Type} [DecidableEq α] (f : α → β → γ) (m : KMap α β) (j : α) :
    kfind (m.map fun x => (x.1, f x.1 x.2)) j = (kfind m j).map (f j) := by
  induction m with
  | nil => rfl
  | cons x m ih =>
    obtain ⟨i, y⟩ := x
    by_cases e : i = j
    · simp [kfind, e]
    · simpa [kfind, e] using ih

theorem upperDeckUngate_step (h : s.ev.k ∈ s.gated) : ∃ t, exec .upperDeckUngate s = .next t ∧ s.ev.k ∉ t.gated ∧
    (∀ j ∈ s.gated, j ≠ s.ev.k → j ∈ t.gated) ∧ { t with gated := [], parts := [] } = { s with gated := [], parts := [] } ∧
    ∀ j x, kfind s.parts j = some x → kfind t.parts j = some (if twinOf (j / 4) / 256 = s.ev.k then
      { x with credits := min 16 (x.credits + x.returning), returning := 0 } else x) := by
  refine ⟨_, (exec_upperDeckUngate s).trans (if_pos (by simpa using h)), by simp, fun j hj hne => by simp [hj, hne], rfl, fun j x hx => ?_⟩
  exact (kfind_map_snd (fun j x => if twinOf (j / 4) / 256 = s.ev.k then Part.ungated x else x) s.parts j).trans (by rw [hx]; rfl)

theorem refreshWindowStart_step : ∃ t, exec .refreshWindowStart s = .next t ∧ t.pair s.ev.core = { s.pair s.ev.core with refresh := true } ∧
    (∀ j, j ≠ pairOf s.ev.core → kfind t.pairs j = kfind s.pairs j) ∧ { t with pairs := [], stalled := [] } = { s with pairs := [], stalled := [] } :=
  ⟨_, exec_refreshWindowStart s, pair_modPair s _ _, fun _ hj => kfind_kput_ne _ _ hj, rfl⟩

theorem refreshWindowEnd_step : ∃ t, exec .refreshWindowEnd s = .next t ∧ t.pair s.ev.core = { s.pair s.ev.core with refresh := false } ∧
    (∀ j, j ≠ pairOf s.ev.core → kfind t.pairs j = kfind s.pairs j) ∧ { t with pairs := [], stalled := [] } = { s with pairs := [], stalled := [] } :=
  ⟨_, exec_refreshWindowEnd s, pair_modPair s s.ev.core fun p => { p with refresh := false }, fun _ hj => kfind_kput_ne _ _ hj, rfl⟩

/-- What a reading of `n` °C makes of a pair's record. -/
def Pair.measured (p : Pair) (n : Nat) : Pair :=
  { p with temp := min 255 n, doubled := if 85 < n then true else if n < 83 then false else p.doubled }

theorem exec_columnRefreshRateChange_below (h : s.off = true ∨ s.ev.n < 115) :
    exec .columnRefreshRateChange s = .next (s.modPair s.ev.core fun p => p.measured s.ev.n) := by
  rw [exec_columnRefreshRateChange, execColumnRefreshRateChange, if_pos (by simpa using h)]
  rfl

theorem exec_columnRefreshRateChange_above (hoff : s.off = false) (hn : 115 ≤ s.ev.n) :
    exec .columnRefreshRateChange s = .next (s.modPair s.ev.core fun p => p.measured s.ev.n).shutDown := by
  rw [exec_columnRefreshRateChange, execColumnRefreshRateChange, if_neg (by simp [hoff, hn])]
  rfl

theorem columnRefreshRateChange_step (hn : s.ev.n < 115) {x : Pair} (hx : (s.pair s.ev.core).measured s.ev.n = x) :
    ∃ t, exec .columnRefreshRateChange s = .next t ∧ t.pair s.ev.core = x ∧
      (∀ j, j ≠ pairOf s.ev.core → kfind t.pairs j = kfind s.pairs j) ∧
      { t with pairs := [], stalled := [] } = { s with pairs := [], stalled := [] } :=
  ⟨_, exec_columnRefreshRateChange_below s (.inr hn), (pair_modPair s s.ev.core _).trans hx, fun _ hj => kfind_kput_ne _ _ hj, rfl⟩

theorem columnRefreshRateChange_shuts (hn : 115 ≤ s.ev.n) : ∃ t, exec .columnRefreshRateChange s = .next t ∧ t.off = true ∧
    (s.off = false → t.groups = [] ∧ t.teams = [] ∧ (t.pair s.ev.core).temp = min 255 s.ev.n ∧ (t.pair s.ev.core).doubled = true) := by
  cases hoff : s.off with
  | true => exact ⟨_, exec_columnRefreshRateChange_below s (.inl hoff), hoff, fun h => nomatch h⟩
  | false =>
    have hread : (s.modPair s.ev.core fun p => p.measured s.ev.n).reading s.ev.core = some (min 255 s.ev.n, true) := by
      simp [State.reading, State.modPair, Pair.measured]
      omega
    obtain ⟨htemp, hdoubled⟩ := Prod.ext_iff.1 (pair_of_reading (shutDown_reading hread))
    obtain ⟨hgroups, hteams⟩ := shutDown_empties (s.modPair s.ev.core fun p => p.measured s.ev.n)
    exact ⟨_, exec_columnRefreshRateChange_above s hoff hn, rfl, fun _ => ⟨hgroups, hteams, htemp, hdoubled⟩⟩

end

/-- Settles O29: each step by its own equation; a shutdown keeps the sensors' readings, as each of its parts does. -/
theorem beamSteps : Obligations.BeamSteps := by
  unfold Obligations.BeamSteps
  intro s c q d becomes becomesC
  refine ⟨fun e rest he hr => beamEntryArrival_step s he hr, beamCreditReturn_step s, beamRealignmentDue_step s, beamRealignmentStart_starts s,
    beamRealignmentStart_waits s, beamRealignmentComplete_step s, fun hodd hon => ⟨upperDeckGate_gates s hodd hon, upperDeckGate_asks s hodd hon⟩,
    upperDeckUngate_step s, refreshWindowStart_step s, refreshWindowEnd_step s, fun hlo hhi => ?_, fun hlo => ?_, fun hlo hhi => ?_,
    columnRefreshRateChange_shuts s⟩
  · exact columnRefreshRateChange_step s hhi (by rw [Pair.measured, if_pos hlo])
  · exact columnRefreshRateChange_step s (by omega) (by rw [Pair.measured, if_neg (by omega), if_pos hlo])
  · exact columnRefreshRateChange_step s (by omega) (by rw [Pair.measured, if_neg (by omega), if_neg (by omega)])

end Sys2Proof.Machine

/-! Near memory as bytes at places: what an access at a place reads, and what it leaves at every other place (R141, R145, R146). -/

namespace Sys2Proof.Machine

-- ## Places

/-- The offset of a place in its scratchpad or column. -/
def NearAt.off : NearAt → Nat
  | .spad _ o => o
  | .column _ o => o

/-- The places of `n` bytes at two different multiples of `n` are different. -/
theorem plus_ne_plus {q r : NearAt} {n i j : Nat} (hq : q.off % n = 0) (hr : r.off % n = 0) (hne : q ≠ r) (hi : i < n) (hj : j < n) :
    q.plus i ≠ r.plus j := by
  have hoff : q.off + i = r.off + j → q.off = r.off := fun h => by
    have hdiv (o l : Nat) (ho : o % n = 0) (hl : l < n) : (o + l) / n = o / n := by
      rw [Nat.add_div_of_dvd_right (Nat.dvd_of_mod_eq_zero ho), Nat.div_eq_of_lt hl, add_zero]
    have hquot : q.off / n = r.off / n := by rw [← hdiv _ _ hq hi, ← hdiv _ _ hr hj, h]
    rw [← Nat.div_add_mod q.off n, ← Nat.div_add_mod r.off n, hquot, hq, hr]
  cases q <;> cases r <;> simp only [NearAt.plus, NearAt.off, ne_eq, NearAt.spad.injEq, NearAt.column.injEq, reduceCtorEq, not_false_eq_true] at *
  · exact fun h => hne ⟨h.1, hoff h.2⟩
  · exact fun h => hne ⟨h.1, hoff h.2⟩

theorem plus_inj {q : NearAt} {i j : Nat} : q.plus i = q.plus j ↔ i = j := by
  cases q <;> simp [NearAt.plus]

theorem hasPlace_plus (s : State) (q : NearAt) (i : Nat) : s.hasPlace (q.plus i) = s.hasPlace q := by
  cases q <;> rfl

theorem nearByte_spad {s : State} {u : TKey} {x : Team} (h : kfind s.teams u = some x) (o : Nat) : s.nearByte (.spad u o) = cellGet x.spad o := by
  have hget := cellRead_getElem (m := x.spad) (a := o) (n := 1) (i := 0) one_pos
  simp only [State.nearByte, State.nearRead, h]
  rw [List.headD_eq_head?_getD, List.head?_eq_getElem?, List.getElem?_eq_getElem (by simp), hget]
  rfl

theorem nearByte_column (s : State) (c o : Nat) : s.nearByte (.column c o) = cellGet (s.core c).column o := by
  have hget := cellRead_getElem (m := (s.core c).column) (a := o) (n := 1) (i := 0) one_pos
  simp only [State.nearByte, State.nearRead]
  rw [List.headD_eq_head?_getD, List.head?_eq_getElem?, List.getElem?_eq_getElem (by simp), hget]
  rfl

theorem spad_resident {s : State} {u : TKey} {o : Nat} (h : s.hasPlace (.spad u o) = true) : ∃ x, kfind s.teams u = some x :=
  Option.isSome_iff_exists.1 h

/-- What `n` bytes at a place read is the byte at each place. -/
theorem nearRead_eq {s : State} {q : NearAt} (h : s.hasPlace q = true) (n : Nat) : s.nearRead q n = (List.range n).map fun i => s.nearByte (q.plus i) := by
  refine List.ext_getElem ?_ fun i hi _ => ?_
  · cases q with
    | spad u o =>
      obtain ⟨x, hx⟩ := spad_resident h
      simp [State.nearRead, hx]
    | column c o => simp [State.nearRead]
  · cases q with
    | spad u o =>
      obtain ⟨x, hx⟩ := spad_resident h
      have hn : i < n := by simpa [State.nearRead, hx] using hi
      simp only [State.nearRead, hx, List.getElem_map, List.getElem_range, NearAt.plus, nearByte_spad hx]
      exact cellRead_getElem hn
    | column c o =>
      have hn : i < n := by simpa [State.nearRead] using hi
      simp only [State.nearRead, List.getElem_map, List.getElem_range, NearAt.plus, nearByte_column]
      exact cellRead_getElem hn

theorem nearRead_length {s : State} {q : NearAt} (h : s.hasPlace q = true) (n : Nat) : (s.nearRead q n).length = n := by
  simp [nearRead_eq h]

/-- Where the bytes at each place are the same, so is what an access reads. -/
theorem nearRead_congr {s t : State} {q : NearAt} {n : Nat} (hs : s.hasPlace q = true) (ht : t.hasPlace q = true)
    (h : ∀ i < n, t.nearByte (q.plus i) = s.nearByte (q.plus i)) : t.nearRead q n = s.nearRead q n := by
  rw [nearRead_eq hs, nearRead_eq ht]
  exact List.map_congr_left fun i hi => h i (List.mem_range.1 hi)

theorem nearByte_of_nearRead {s : State} {q : NearAt} {n i : Nat} {bs : List Byte} (h : s.hasPlace q = true) (hr : s.nearRead q n = bs) (hi : i < n) :
    some (s.nearByte (q.plus i)) = bs[i]? := by
  rw [← hr, nearRead_eq h]
  simp [hi]

-- ## What changes near memory changes nothing else

/-- From `s` to `t` only bytes and errors of near memory change. -/
structure NearFrame (s t : State) : Prop where
  beside : { t with teams := [], cores := [], notes := [] } = { s with teams := [], cores := [], notes := [] }
  teams  : ∀ u, (kfind t.teams u).map (fun x => { x with spad := [], spadBad := [] }) = (kfind s.teams u).map fun x => { x with spad := [], spadBad := [] }
  cores  : ∀ c, { t.core c with column := [], colBad := [] } = { s.core c with column := [], colBad := [] }

/-- The same units of near memory are in error. -/
structure SameErrors (s t : State) : Prop where
  teams : ∀ u, (kfind t.teams u).map Team.spadBad = (kfind s.teams u).map Team.spadBad
  cores : ∀ c, (t.core c).colBad = (s.core c).colBad

theorem NearFrame.refl (s : State) : NearFrame s s := ⟨rfl, fun _ => rfl, fun _ => rfl⟩

theorem NearFrame.trans {s t u : State} (a : NearFrame s t) (b : NearFrame t u) : NearFrame s u :=
  ⟨b.beside.trans a.beside, fun v => (b.teams v).trans (a.teams v), fun c => (b.cores c).trans (a.cores c)⟩

theorem SameErrors.refl (s : State) : SameErrors s s := ⟨fun _ => rfl, fun _ => rfl⟩

theorem SameErrors.trans {s t u : State} (a : SameErrors s t) (b : SameErrors t u) : SameErrors s u :=
  ⟨fun v => (b.teams v).trans (a.teams v), fun c => (b.cores c).trans (a.cores c)⟩

theorem NearFrame.hasPlace {s t : State} (a : NearFrame s t) (q : NearAt) : t.hasPlace q = s.hasPlace q := by
  cases q with
  | column => rfl
  | spad u o => simpa [State.hasPlace] using congrArg Option.isSome (a.teams u)

theorem NearFrame.groups {s t : State} (a : NearFrame s t) : t.groups = s.groups := (congrArg State.groups a.beside :)

/-- A change of a resident team's scratchpad and its errors. -/
theorem setTeam_nearFrame {s : State} {u : TKey} {x y : Team} (hx : kfind s.teams u = some x)
    (h : { y with spad := [], spadBad := [] } = { x with spad := [], spadBad := [] }) : NearFrame s (s.setTeam u y) := by
  refine ⟨rfl, fun v => ?_, fun _ => rfl⟩
  by_cases e : v = u
  · simp [State.setTeam, e, hx, h]
  · simp [State.setTeam, kfind_kput_ne _ _ e]

theorem setTeam_sameErrors {s : State} {u : TKey} {x y : Team} (hx : kfind s.teams u = some x) (h : y.spadBad = x.spadBad) :
    SameErrors s (s.setTeam u y) := by
  refine ⟨fun v => ?_, fun _ => rfl⟩
  by_cases e : v = u
  · simp [State.setTeam, e, hx, h]
  · simp [State.setTeam, kfind_kput_ne _ _ e]

theorem core_modCore (s : State) (c : Nat) (f : Core → Core) (c' : Nat) : (s.modCore c f).core c' = if c' = c then f (s.core c) else s.core c' := by
  by_cases e : c' = c
  · simp [State.modCore, State.core, e]
  · simp [State.modCore, State.core, e, kfind_kput_ne _ _ e]

theorem modCore_nearFrame (s : State) (c : Nat) {f : Core → Core}
    (h : { f (s.core c) with column := [], colBad := [] } = { s.core c with column := [], colBad := [] }) : NearFrame s (s.modCore c f) := by
  refine ⟨rfl, fun _ => rfl, fun c' => ?_⟩
  rw [core_modCore]
  split
  next e => rw [e]; exact h
  next => rfl

theorem modCore_sameErrors (s : State) (c : Nat) {f : Core → Core} (h : (f (s.core c)).colBad = (s.core c).colBad) : SameErrors s (s.modCore c f) := by
  refine ⟨fun _ => rfl, fun c' => ?_⟩
  rw [core_modCore]
  split
  next e => rw [e]; exact h
  next => rfl

theorem noteAt_nearFrame (s : State) (self : Option GKey) (f : Nat → Place) (old : List Byte) : NearFrame s (s.noteAt self f old) :=
  ⟨rfl, fun _ => rfl, fun _ => rfl⟩

theorem noteAt_sameErrors (s : State) (self : Option GKey) (f : Nat → Place) (old : List Byte) : SameErrors s (s.noteAt self f old) :=
  ⟨fun _ => rfl, fun _ => rfl⟩

-- ## Writes

theorem nearWrite_frame (s : State) (q : NearAt) (bs : List Byte) (self : Option GKey) :
    NearFrame s (s.nearWrite q bs self) ∧ SameErrors s (s.nearWrite q bs self) := by
  have hnote := noteAt_nearFrame s self q.place (s.nearRead q bs.length)
  have herr := noteAt_sameErrors s self q.place (s.nearRead q bs.length)
  unfold State.nearWrite
  cases q with
  | column c o => exact ⟨hnote.trans (modCore_nearFrame _ c rfl), herr.trans (modCore_sameErrors _ c rfl)⟩
  | spad u o =>
    dsimp only
    cases hx : kfind s.teams u with
    | none =>
      have hsame : (s.noteAt self (NearAt.spad u o).place (s.nearRead (.spad u o) bs.length)).modTeam u (fun x => { x with spad := cellWrite x.spad o bs }) =
          s.noteAt self (NearAt.spad u o).place (s.nearRead (.spad u o) bs.length) := by simp [State.modTeam, State.noteAt, hx]
      rw [hsame]
      exact ⟨hnote, herr⟩
    | some x =>
      have hx' : kfind (s.noteAt self (NearAt.spad u o).place (s.nearRead (.spad u o) bs.length)).teams u = some x := hx
      rw [modTeam_found hx']
      exact ⟨hnote.trans (setTeam_nearFrame hx' rfl), herr.trans (setTeam_sameErrors hx' rfl)⟩

/-- After a write the bytes of its range are those written, and every other one is what it was. -/
theorem nearByte_nearWrite {s : State} {q y : NearAt} (hq : s.hasPlace q = true) (hy : s.hasPlace y = true) (bs : List Byte) (self : Option GKey) :
    (∀ i (h : i < bs.length), y = q.plus i → (s.nearWrite q bs self).nearByte y = bs[i]) ∧
      ((∀ i < bs.length, q.plus i ≠ y) → (s.nearWrite q bs self).nearByte y = s.nearByte y) := by
  cases q with
  | column c o =>
    cases y with
    | spad v o' =>
      refine ⟨fun i h e => (nomatch e), fun _ => ?_⟩
      obtain ⟨x, hx⟩ := spad_resident hy
      exact (nearByte_spad (s := s.nearWrite (.column c o) bs self) hx o').trans (nearByte_spad hx o').symm
    | column c' o' =>
      have hcore : ((s.nearWrite (.column c o) bs self).core c').column =
          if c' = c then cellWrite (s.core c).column o bs else (s.core c').column := by
        rw [State.nearWrite, core_modCore]
        split <;> rfl
      rw [nearByte_column, nearByte_column, hcore]
      simp only [NearAt.plus, ne_eq, NearAt.column.injEq]
      refine ⟨fun i h e => ?_, fun h => ?_⟩
      · obtain ⟨rfl, rfl⟩ := e
        rw [if_pos rfl, cellGet_cellWrite, dif_pos ⟨by omega, by omega⟩]
        simp
      · split
        next e =>
          subst e
          refine (cellGet_cellWrite _ _ _).trans (dif_neg fun hin => h (o' - o) hin.2 ⟨rfl, by omega⟩)
        next => rfl
  | spad u o =>
    obtain ⟨x, hx⟩ := spad_resident hq
    have hx' : kfind (s.noteAt self (NearAt.spad u o).place (s.nearRead (.spad u o) bs.length)).teams u = some x := hx
    have heq : s.nearWrite (.spad u o) bs self =
        (s.noteAt self (NearAt.spad u o).place (s.nearRead (.spad u o) bs.length)).setTeam u { x with spad := cellWrite x.spad o bs } :=
      modTeam_found hx' _
    rw [heq]
    cases y with
    | column c' o' =>
      refine ⟨fun i h e => (nomatch e), fun _ => ?_⟩
      rw [nearByte_column, nearByte_column]
      rfl
    | spad v o' =>
      by_cases e : v = u
      · subst e
        have hnew : kfind ((s.noteAt self (NearAt.spad v o).place (s.nearRead (.spad v o) bs.length)).setTeam v
            { x with spad := cellWrite x.spad o bs }).teams v = some { x with spad := cellWrite x.spad o bs } := kfind_kput_self _ _ _
        rw [nearByte_spad hnew, nearByte_spad hx]
        simp only [NearAt.plus, ne_eq, NearAt.spad.injEq, true_and]
        refine ⟨fun i h e => ?_, fun h => ?_⟩
        · subst e
          rw [cellGet_cellWrite, dif_pos ⟨by omega, by omega⟩]
          simp
        · exact (cellGet_cellWrite _ _ _).trans (dif_neg fun hin => h (o' - o) hin.2 (by omega))
      · obtain ⟨z, hz⟩ := spad_resident hy
        have hold : kfind ((s.noteAt self (NearAt.spad u o).place (s.nearRead (.spad u o) bs.length)).setTeam u
            { x with spad := cellWrite x.spad o bs }).teams v = some z := (kfind_kput_ne _ _ e).trans hz
        rw [nearByte_spad hold, nearByte_spad hz]
        refine ⟨fun i h e' => ?_, fun _ => rfl⟩
        simp only [NearAt.plus, NearAt.spad.injEq] at e'
        exact absurd e'.1 e

end Sys2Proof.Machine

/-! What the lanes of a near instruction make of near memory one after the other, in ascending lane order (R15, R145). -/

namespace Sys2Proof.Machine

-- ## Lanes in ascending order

/-- The lanes of a list below a lane. -/
def lanesBelow (ls : List (Fin 32)) (L : Fin 32) : List (Fin 32) := ls.filter (· < L)

theorem mem_lanesBelow {ls : List (Fin 32)} {L M : Fin 32} : M ∈ lanesBelow ls L ↔ M ∈ ls ∧ M < L := by simp [lanesBelow]

theorem maskLanes_rising (m : Word) : (maskLanes m).Pairwise (· < ·) := (List.pairwise_lt_finRange 32).filter _

theorem lanesBelow_rising {ls : List (Fin 32)} (h : ls.Pairwise (· < ·)) (L : Fin 32) : (lanesBelow ls L).Pairwise (· < ·) := h.filter _

/-- A lane of a rising list parts it into the lanes below and above. -/
theorem rising_parts {ls : List (Fin 32)} (h : ls.Pairwise (· < ·)) {L : Fin 32} (hL : L ∈ ls) : ls = lanesBelow ls L ++ L :: ls.filter (L < ·) := by
  induction ls with
  | nil => simp at hL
  | cons M ls ih =>
    obtain ⟨hM, hrest⟩ := List.pairwise_cons.1 h
    rcases List.mem_cons.1 hL with rfl | hin
    · have hbelow : lanesBelow (L :: ls) L = [] := by
        simp only [lanesBelow, List.filter_eq_nil_iff, List.mem_cons, decide_eq_true_eq]
        rintro N (rfl | hN)
        · exact lt_irrefl _
        · exact (hM N hN).asymm
      have habove : ls.filter (L < ·) = ls := List.filter_eq_self.2 fun N hN => decide_eq_true (hM N hN)
      simp [hbelow, habove]
    · have hlt := hM L hin
      have hbelow : lanesBelow (M :: ls) L = M :: lanesBelow ls L := List.filter_cons_of_pos (decide_eq_true hlt)
      have habove : (M :: ls).filter (L < ·) = ls.filter (L < ·) := List.filter_cons_of_neg (by simpa using hlt.le)
      rw [hbelow, habove, List.cons_append, ← ih hrest hin]

theorem lanesBelow_lanesBelow (ls : List (Fin 32)) {L M : Fin 32} (h : M < L) : lanesBelow (lanesBelow ls L) M = lanesBelow ls M := by
  rw [lanesBelow, lanesBelow, lanesBelow, List.filter_filter]
  refine List.filter_congr fun N _ => ?_
  rw [Bool.eq_iff_iff, Bool.and_eq_true, decide_eq_true_eq, decide_eq_true_eq]
  exact ⟨And.left, fun hN => ⟨hN, hN.trans h⟩⟩

/-- The last lane of a rising list that satisfies a test. -/
theorem getLast?_filter_rising {ls : List (Fin 32)} (h : ls.Pairwise (· < ·)) {test : Fin 32 → Bool} {M : Fin 32}
    (hM : (ls.filter test).getLast? = some M) : (M ∈ ls ∧ test M = true) ∧ ∀ N ∈ ls, test N = true → N ≤ M := by
  obtain ⟨init, hinit⟩ := List.getLast?_eq_some_iff.1 hM
  have hin : M ∈ ls.filter test := by rw [hinit]; simp
  refine ⟨List.mem_filter.1 hin, fun N hN ht => ?_⟩
  have hN' : N ∈ init ++ [M] := hinit ▸ List.mem_filter.2 ⟨hN, ht⟩
  rcases List.mem_append.1 hN' with hi | hi
  · have hrise := h.filter test
    rw [hinit] at hrise
    exact ((List.pairwise_append.1 hrise).2.2 N hi M (by simp)).le
  · exact (List.mem_singleton.1 hi).le

-- ## One lane after the other

/-- From `s` to `t` a lane makes `w` of the `n` bytes at a place, and no other byte changes. -/
structure LaneStep (n : Nat) (q : NearAt) (w : List Byte → List Byte) (s t : State) : Prop where
  frame : NearFrame s t
  here  : t.nearRead q n = w (s.nearRead q n)
  other : ∀ y, s.hasPlace y = true → (∀ i < n, q.plus i ≠ y) → t.nearByte y = s.nearByte y

section
variable {s : State} {n : Nat} {G : Fin 32 → NearAt} {w : Fin 32 → List Byte → List Byte} {f : State → Fin 32 → State}

/-- What a lane finds at its place when the lanes of the list below it are done. -/
def laneOld (s : State) (n : Nat) (G : Fin 32 → NearAt) (f : State → Fin 32 → State) (ls : List (Fin 32)) (L : Fin 32) : List Byte :=
  ((lanesBelow ls L).foldl f s).nearRead (G L) n

variable {ls : List (Fin 32)} (hf : ∀ L ∈ ls, ∀ t, NearFrame s t → LaneStep n (G L) (w L) t (f t L))

include hf

/-- The lanes of a list change the bytes at their places, and no other one. -/
theorem foldl_lanes : NearFrame s (ls.foldl f s) ∧
    ∀ y, s.hasPlace y = true → (∀ L ∈ ls, ∀ i < n, (G L).plus i ≠ y) → (ls.foldl f s).nearByte y = s.nearByte y := by
  suffices h : ∀ ms ⊆ ls, ∀ t, NearFrame s t → NearFrame s (ms.foldl f t) ∧
      ∀ y, s.hasPlace y = true → (∀ L ∈ ms, ∀ i < n, (G L).plus i ≠ y) → (ms.foldl f t).nearByte y = t.nearByte y from
    h ls (List.Subset.refl _) s (.refl s)
  intro ms
  induction ms with
  | nil => exact fun _ t ht => ⟨ht, fun _ _ _ => rfl⟩
  | cons L ms ih =>
    intro hsub t ht
    have hstep := hf L (hsub (by simp)) t ht
    obtain ⟨hframe, hbytes⟩ := ih (fun _ h => hsub (List.mem_cons_of_mem _ h)) (f t L) (ht.trans hstep.frame)
    refine ⟨hframe, fun y hy hne => (hbytes y hy fun M hM => hne M (List.mem_cons_of_mem _ hM)).trans ?_⟩
    exact hstep.other y (ht.hasPlace y ▸ hy) (hne L (by simp))

/-- What every lane's step keeps, all of them keep. -/
theorem foldl_lanes_keep {R : State → State → Prop} (hrefl : ∀ t, R t t) (htrans : ∀ t u v, R t u → R u v → R t v)
    (hR : ∀ L ∈ ls, ∀ t, NearFrame s t → R t (f t L)) : R s (ls.foldl f s) := by
  suffices h : ∀ ms ⊆ ls, ∀ t, NearFrame s t → R t (ms.foldl f t) from h ls (List.Subset.refl _) s (.refl s)
  intro ms
  induction ms with
  | nil => exact fun _ t _ => hrefl t
  | cons L ms ih =>
    intro hsub t ht
    have hL : L ∈ ls := hsub List.mem_cons_self
    exact htrans _ _ _ (hR L hL t ht) (ih (fun _ h => hsub (List.mem_cons_of_mem _ h)) _ (ht.trans (hf L hL t ht).frame))

variable (hG : ∀ L ∈ ls, s.hasPlace (G L) = true ∧ (G L).off % n = 0)

include hG

/-- Lanes at other places leave the bytes at a lane's place as they are. -/
theorem foldl_lanes_apart {L : Fin 32} (hL : L ∈ ls) {ms : List (Fin 32)} (hsub : ms ⊆ ls) (hne : ∀ M ∈ ms, G M ≠ G L) {t : State}
    (ht : NearFrame s t) : NearFrame s (ms.foldl f t) ∧ (ms.foldl f t).nearRead (G L) n = t.nearRead (G L) n := by
  have hf' : ∀ M ∈ ms, ∀ t', NearFrame t t' → LaneStep n (G M) (w M) t' (f t' M) := fun M hM t' ht' => hf M (hsub hM) t' (ht.trans ht')
  obtain ⟨hframe, hbytes⟩ := foldl_lanes hf'
  obtain ⟨hplace, hoff⟩ := hG L hL
  have htplace : t.hasPlace (G L) = true := ht.hasPlace _ ▸ hplace
  refine ⟨ht.trans hframe, nearRead_congr htplace (hframe.hasPlace _ ▸ htplace) fun i hi => ?_⟩
  refine hbytes _ (hasPlace_plus t (G L) i ▸ htplace) fun M hM j hj => ?_
  exact plus_ne_plus (hG M (hsub hM)).2 hoff (hne M hM) hj hi

/-- The first lane at a place finds what was there. -/
theorem laneOld_first {L : Fin 32} (hL : L ∈ ls) (h : ∀ M ∈ ls, M < L → G M ≠ G L) : laneOld s n G f ls L = s.nearRead (G L) n :=
  (foldl_lanes_apart hf hG hL (List.filter_subset_self _) (fun M hM => h M (mem_lanesBelow.1 hM).1 (mem_lanesBelow.1 hM).2) (.refl s)).2

variable (hls : ls.Pairwise (· < ·))

include hls

/-- What the last lane at a place has left stays there. -/
theorem foldl_lanes_last {L : Fin 32} (hL : L ∈ ls) (h : ∀ M ∈ ls, L < M → G M ≠ G L) :
    (ls.foldl f s).nearRead (G L) n = w L (laneOld s n G f ls L) := by
  have hbelow : NearFrame s ((lanesBelow ls L).foldl f s) :=
    (foldl_lanes (ls := lanesBelow ls L) fun M hM => hf M (mem_lanesBelow.1 hM).1).1
  have hstep := hf L hL _ hbelow
  have hafter := (foldl_lanes_apart hf hG hL (ms := ls.filter (L < ·)) (List.filter_subset_self _)
    (fun M hM => h M (List.mem_filter.1 hM).1 (of_decide_eq_true (List.mem_filter.1 hM).2)) (hbelow.trans hstep.frame)).2
  calc (ls.foldl f s).nearRead (G L) n
      = ((lanesBelow ls L ++ L :: ls.filter (L < ·)).foldl f s).nearRead (G L) n := by rw [← rising_parts hls hL]
    _ = w L (laneOld s n G f ls L) := by rw [List.foldl_append, List.foldl_cons, hafter]; exact hstep.here

/-- A lane finds what the nearest lane below at the same place has left. -/
theorem laneOld_next {L M : Fin 32} (hM : M ∈ ls) (hlt : M < L) (hsame : G M = G L) (h : ∀ N ∈ ls, N < L → G N = G L → N ≤ M) :
    laneOld s n G f ls L = w M (laneOld s n G f ls M) := by
  have hsub : ∀ N ∈ lanesBelow ls L, N ∈ ls := fun N hN => (mem_lanesBelow.1 hN).1
  have hlast := foldl_lanes_last (ls := lanesBelow ls L) (fun N hN => hf N (hsub N hN)) (fun N hN => hG N (hsub N hN)) (lanesBelow_rising hls L)
    (mem_lanesBelow.2 ⟨hM, hlt⟩) fun N hN hMN hNM =>
      absurd (h N (hsub N hN) (mem_lanesBelow.1 hN).2 (hNM.trans hsame)) (not_le.2 hMN)
  rw [laneOld, ← hsame, hlast, laneOld, lanesBelow_lanesBelow ls hlt, ← laneOld]

end

end Sys2Proof.Machine

/-! A near instruction's lanes: those that take effect, and those that fault (R150, R330). -/

namespace Sys2Proof.Machine

theorem filterMap_eq_map_filter {α β : Type} {f : α → Option β} {test : α → Bool} {h : α → β} {l : List α}
    (hf : ∀ x ∈ l, f x = if test x then some (h x) else none) : l.filterMap f = (l.filter test).map h := by
  induction l with
  | nil => rfl
  | cons x l ih =>
    have hx := hf x (by simp)
    have hrest := ih fun y hy => hf y (by simp [hy])
    cases ht : test x <;> simp [ht, hx, hrest]

-- ## Lanes that fail

/-- The number of the first check that a lane fails: ALIGN, NEAR_RANGE, POISON. -/
def nearRank (n : Nat) (va : Fin 32 → Word) (F : Fin 32 → Option NearAt) (L : Fin 32) : Nat :=
  if (va L).toNat % n ≠ 0 then 1 else if F L = none then 2 else 3

/-- The cause that goes with the number of a check. -/
def rankCause (r : Nat) : Cause := if r = 1 then .align else if r = 2 then .nearRange else .poison

def nearFault (n : Nat) (va : Fin 32 → Word) (F : Fin 32 → Option NearAt) (L : Fin 32) : LaneFault :=
  ⟨L, nearRank n va F L, rankCause (nearRank n va F L), (va L).setWidth 64⟩

/-- The trap of the lanes of a list that fail, `L0` being the lowest of those that fail the earliest check. -/
def nearReq (n : Nat) (va : Fin 32 → Word) (F : Fin 32 → Option NearAt) (ls : List (Fin 32)) (L0 : Fin 32) : TrapReq :=
  { cause := rankCause (nearRank n va F L0), lanes := lanesMask ls, split := true, addr := (va L0).setWidth 64, detail := 1 }

/-- The lanes that fail, and those that do not. -/
def nearFails (F : Fin 32 → Option NearAt) (err : Fin 32 → Bool) (L : Fin 32) : Bool := (F L).isNone || err L
def badLanes (m : Word) (F : Fin 32 → Option NearAt) (err : Fin 32 → Bool) : List (Fin 32) := (maskLanes m).filter (nearFails F err)
def goodLanes (m : Word) (F : Fin 32 → Option NearAt) (err : Fin 32 → Bool) : List (Fin 32) := (maskLanes m).filter fun L => !nearFails F err L

/-- The place of a lane whose address leads to one. -/
def placeOf (F : Fin 32 → Option NearAt) (L : Fin 32) : NearAt := (F L).getD (.column 0 0)

theorem placeOf_eq {F : Fin 32 → Option NearAt} {L : Fin 32} {q : NearAt} (h : F L = some q) : placeOf F L = q := by simp [placeOf, h]

theorem maskLanes_good (m : Word) (F : Fin 32 → Option NearAt) (err : Fin 32 → Bool) :
    maskLanes (m &&& ~~~lanesMask (badLanes m F err)) = goodLanes m F err := by
  rw [badLanes, and_not_lanesMask_filter, maskLanes_lanesMask_filter]
  rfl

theorem lanesMask_good (m : Word) (F : Fin 32 → Option NearAt) (err : Fin 32 → Bool) :
    lanesMask (goodLanes m F err) = m &&& ~~~lanesMask (badLanes m F err) := by
  rw [← maskLanes_good, lanesMask_maskLanes]

theorem mem_goodLanes {m : Word} {F : Fin 32 → Option NearAt} {err : Fin 32 → Bool} {L : Fin 32} :
    L ∈ goodLanes m F err ↔ m.getLsbD L.val = true ∧ F L = some (placeOf F L) ∧ err L = false := by
  rw [goodLanes, List.mem_filter, mem_maskLanes, nearFails, placeOf]
  cases F L <;> simp

/-- With rising numbers of lanes, the report of the lanes that fail names the lowest lane of the earliest check. -/
theorem faultReq_nearFaults {n : Nat} {va : Fin 32 → Word} {F : Fin 32 → Option NearAt} {ls : List (Fin 32)} (hls : ls.Pairwise (· < ·)) {L0 : Fin 32}
    (h0 : L0 ∈ ls) (hmin : ∀ L ∈ ls, nearRank n va F L0 ≤ nearRank n va F L ∧ (nearRank n va F L = nearRank n va F L0 → L0.val ≤ L.val)) :
    faultReq (ls.map (nearFault n va F)) true true = nearReq n va F ls L0 := by
  have first (fs : List LaneFault) (b : LaneFault) : let x := fs.foldl (fun b f => if f.check < b.check then f else b) b
      x ∈ b :: fs ∧ ∀ f ∈ b :: fs, x.check ≤ f.check := by
    induction fs generalizing b with
    | nil => simp
    | cons f fs ih =>
      obtain ⟨hin, hle⟩ := ih (if f.check < b.check then f else b)
      refine ⟨?_, fun y hy => ?_⟩
      · rcases List.mem_cons.1 hin with h | h
        · rw [List.foldl_cons, h]
          split <;> simp
        · exact List.mem_cons_of_mem _ (List.mem_cons_of_mem _ h)
      · have hhead := hle _ (List.mem_cons_self)
        rcases List.mem_cons.1 hy with rfl | hy'
        · refine hhead.trans ?_
          split <;> omega
        · rcases List.mem_cons.1 hy' with rfl | hy''
          · refine hhead.trans ?_
            split <;> omega
          · exact hle y (List.mem_cons_of_mem _ hy'')
  have cause_inj (L : Fin 32) (h : rankCause (nearRank n va F L) = rankCause (nearRank n va F L0)) : nearRank n va F L = nearRank n va F L0 := by
    unfold rankCause nearRank at *
    split_ifs at h ⊢ <;> simp_all
  obtain ⟨M, ms, rfl⟩ := List.exists_cons_of_ne_nil (List.ne_nil_of_mem h0)
  obtain ⟨hin, hle⟩ := first (ms.map (nearFault n va F)) (nearFault n va F M)
  rw [← List.map_cons] at hin hle
  obtain ⟨N, hN, hNeq⟩ := List.mem_map.1 hin
  have hrank : nearRank n va F N = nearRank n va F L0 := by
    have hN0 := hle _ (List.mem_map.2 ⟨L0, h0, rfl⟩)
    rw [← hNeq] at hN0
    exact le_antisymm hN0 (hmin N hN).1
  have hfind : ((M :: ms).map (nearFault n va F)).find? (fun f => f.cause == rankCause (nearRank n va F L0)) = some (nearFault n va F L0) := by
    rw [rising_parts hls h0, List.map_append, List.find?_append, List.map_cons, List.find?_cons_of_pos (by simp [nearFault])]
    refine Option.or_eq_some_iff.2 (.inr ⟨List.find?_eq_none.2 fun f hf hc => ?_, rfl⟩)
    obtain ⟨L, hL, rfl⟩ := List.mem_map.1 hf
    obtain ⟨hLin, hlt⟩ := mem_lanesBelow.1 hL
    exact absurd ((hmin L hLin).2 (cause_inj L (by simpa [nearFault] using hc))) (not_le.2 hlt)
  have hfault : (nearFault n va F N).cause = rankCause (nearRank n va F L0) := congrArg rankCause hrank
  rw [List.map_cons, faultReq]
  simp only
  rw [← hNeq, hfault, ← List.map_cons, hfind, List.map_map, show LaneFault.lane ∘ nearFault n va F = id from rfl, List.map_id]
  rfl

-- ## What the shared form of near instructions does

section
variable {v : View} {addr : Lanes Word} {va : Fin 32 → Word} {n : Nat} {F : Fin 32 → Option NearAt} {err : Fin 32 → Bool} {bad : NearAt → Bool}
  (haddr : ∀ L : Fin 32, addr[L] = va L)
  (hF : ∀ L : Fin 32, v.ex.getLsbD L = true →
    F L = if (va L).toNat % n = 0 then v.s.nearDecode v.k.tkey v.g.mode (va L).toNat n else none)

include haddr hF

/-- A lane's checks, in terms of where its address leads. -/
theorem nearLane_eq {L : Fin 32} (hL : v.ex.getLsbD L = true) : (∀ q, F L = some q → v.nearLane addr[L] n = .ok q) ∧
    (F L = none → v.nearLane addr[L] n = .error (nearRank n va F L, rankCause (nearRank n va F L))) := by
  have h := hF L hL
  rw [View.nearLane, haddr L]
  by_cases halign : (va L).toNat % n = 0
  · rw [if_pos halign] at h
    rw [if_neg (not_not.2 halign), ← h]
    refine ⟨fun q hq => by rw [hq], fun hnone => ?_⟩
    have hrank : nearRank n va F L = 2 := by rw [nearRank, if_neg (not_not.2 halign), if_pos hnone]
    rw [hnone, hrank]
    rfl
  · rw [if_neg halign] at h
    rw [if_pos halign]
    refine ⟨fun q hq => by simp [h] at hq, fun _ => ?_⟩
    have hrank : nearRank n va F L = 1 := if_pos halign
    rw [hrank]
    rfl

theorem nearPlaces_eq : v.nearPlaces addr n = ((maskLanes v.ex).filter fun L => (F L).isSome).map fun L => (L, placeOf F L) := by
  refine filterMap_eq_map_filter fun L hL => ?_
  obtain ⟨hok, herror⟩ := nearLane_eq haddr hF (mem_maskLanes.1 hL)
  cases hq : F L with
  | none => rw [herror hq]; rfl
  | some q => rw [hok q hq, placeOf, hq]; rfl

variable (hbad : ∀ L : Fin 32, v.ex.getLsbD L = true → ∀ q, F L = some q → bad q = err L)

include hbad

theorem nearFaults_eq : v.nearFaults addr n bad = (badLanes v.ex F err).map (nearFault n va F) := by
  refine filterMap_eq_map_filter fun L hL => ?_
  obtain ⟨hok, herror⟩ := nearLane_eq haddr hF (mem_maskLanes.1 hL)
  cases hq : F L with
  | none =>
    rw [herror hq]
    simp only [haddr L]
    simp [nearFails, hq, nearFault]
  | some q =>
    have halign : (va L).toNat % n = 0 := by
      by_contra hne
      have := hF L (mem_maskLanes.1 hL)
      rw [if_neg hne, hq] at this
      cases this
    have hrank : nearRank n va F L = 3 := by simp [nearRank, halign, hq]
    have herr := hbad L (mem_maskLanes.1 hL) q hq
    rw [hok q hq, nearFault, hrank]
    cases he : err L <;> simp [nearFails, hq, herr, he, rankCause, ← haddr L]

theorem nearPlaces_good : (v.nearPlaces addr n).filter (fun q => !bad q.2) = (goodLanes v.ex F err).map fun L => (L, placeOf F L) := by
  rw [nearPlaces_eq haddr hF, List.filter_map, List.filter_filter, goodLanes]
  refine congrArg _ (List.filter_congr fun L hL => ?_)
  cases hq : F L with
  | none => simp [nearFails, hq]
  | some q => simp [nearFails, hq, placeOf, hbad L (mem_maskLanes.1 hL) q hq]

/-- The lanes that pass take effect, and the others fault. -/
theorem nearAccess_eq (hstall : ∀ L ∈ goodLanes v.ex F err, v.s.nearStalled (placeOf F L) = false) (effect : List (Fin 32 × NearAt) → State) :
    v.nearAccess addr n bad effect = laneOutcome ((badLanes v.ex F err).map (nearFault n va F)) true
      (effect ((goodLanes v.ex F err).map fun L => (L, placeOf F L))) := by
  have hgo : ((goodLanes v.ex F err).map fun L => (L, placeOf F L)).any (fun q => v.s.nearStalled q.2) = false := by
    simpa [List.any_eq_false] using hstall
  unfold View.nearAccess
  simp only [nearFaults_eq haddr hF hbad, nearPlaces_good haddr hF hbad, hgo, Bool.false_eq_true, if_false]

end

end Sys2Proof.Machine

/-! Near atomics (R152, R153), near stores (R146, R151) and near loads, as changes of near memory. -/

namespace Sys2Proof.Machine

theorem nearWrite_step {s : State} {q : NearAt} {bs : List Byte} (hq : s.hasPlace q = true) (self : Option GKey) :
    LaneStep bs.length q (fun _ => bs) s (s.nearWrite q bs self) := by
  have hframe := (nearWrite_frame s q bs self).1
  refine ⟨hframe, ?_, fun y hy hne => (nearByte_nearWrite hq hy bs self).2 hne⟩
  rw [nearRead_eq (hframe.hasPlace q ▸ hq)]
  refine List.ext_getElem (by simp) fun i hi hi' => ?_
  have hbyte := (nearByte_nearWrite hq (y := q.plus i) (hasPlace_plus s q i ▸ hq) bs self).1 i hi' rfl
  simpa using hbyte

-- ## Atomics

/-- The number that `n` bytes of near memory hold. -/
def wordOf (bs : List Byte) : DWord := BitVec.ofNat 64 (ofBytes bs)

/-- What an operation of a lane makes of the `n` bytes that it finds. -/
def atomBytes (n : Nat) (op : LaneOp) (L : Fin 32) (bs : List Byte) : List Byte := ((op L (wordOf bs)).map fun x => bytesOf n x.toNat).getD bs

/-- One lane's operation. -/
def atomStep (k : GKey) (n : Nat) (G : Fin 32 → NearAt) (op : LaneOp) (s : State) (L : Fin 32) : State :=
  ((op L (wordOf (s.nearRead (G L) n))).map fun x => s.nearWrite (G L) (bytesOf n x.toNat) (some k)).getD s

theorem atomStep_step {s : State} {k : GKey} {n : Nat} {G : Fin 32 → NearAt} {op : LaneOp} {L : Fin 32} (h : s.hasPlace (G L) = true) :
    LaneStep n (G L) (atomBytes n op L) s (atomStep k n G op s L) ∧ SameErrors s (atomStep k n G op s L) := by
  unfold atomStep
  cases hop : op L (wordOf (s.nearRead (G L) n)) with
  | none => exact ⟨⟨.refl s, by simp [atomBytes, hop], fun _ _ _ => rfl⟩, .refl s⟩
  | some x =>
    have hstep := nearWrite_step h (bs := bytesOf n x.toNat) (some k)
    rw [bytesOf_length] at hstep
    exact ⟨⟨hstep.frame, by simpa [atomBytes, hop] using hstep.here, hstep.other⟩, (nearWrite_frame s _ _ _).2⟩

section
variable {s : State} {k : GKey} {n : Nat} {G : Fin 32 → NearAt} {op : LaneOp} {ls : List (Fin 32)}

/-- The atomics of lanes in rising order, one lane after the other, with what each finds. -/
theorem nearAtomics_eq (hls : ls.Pairwise (· < ·)) : s.nearAtomics k (ls.map fun L => (L, G L)) n op =
    (ls.foldl (atomStep k n G op) s, ls.map fun L => (L, wordOf (laneOld s n G (atomStep k n G op) ls L))) := by
  induction ls using List.reverseRecOn with
  | nil => rfl
  | append_singleton ls N ih =>
    obtain ⟨hrise, -, hN⟩ := List.pairwise_append.1 hls
    have hbelow : lanesBelow (ls ++ [N]) N = ls := by
      simpa [lanesBelow] using fun L hL => hN L hL N (by simp)
    have hsame : ∀ L ∈ ls, lanesBelow (ls ++ [N]) L = lanesBelow ls L := fun L hL => by
      simp [lanesBelow, (hN L hL N (by simp)).le]
    have holds : ls.map (fun L => (L, wordOf (laneOld s n G (atomStep k n G op) (ls ++ [N]) L))) =
        ls.map fun L => (L, wordOf (laneOld s n G (atomStep k n G op) ls L)) := List.map_congr_left fun L hL => by
      rw [laneOld, hsame L hL, ← laneOld]
    have hlast : laneOld s n G (atomStep k n G op) (ls ++ [N]) N = (ls.foldl (atomStep k n G op) s).nearRead (G N) n := by rw [laneOld, hbelow]
    unfold State.nearAtomics at ih ⊢
    rw [List.map_append, List.foldl_append, ih hrise, List.foldl_append, List.map_append, holds, List.map_singleton, List.map_singleton, hlast]
    refine Prod.ext ?_ rfl
    simp only [List.foldl_cons, List.foldl_nil, atomStep, wordOf]
    cases op N (BitVec.ofNat 64 (ofBytes ((ls.foldl (atomStep k n G op) s).nearRead (G N) n))) <;> rfl

theorem kfind_map_lanes {β : Type} (f : Fin 32 → β) (ls : List (Fin 32)) (L : Fin 32) :
    kfind (ls.map fun M => (M, f M)) L = if L ∈ ls then some (f L) else none := by
  induction ls with
  | nil => rfl
  | cons M ls ih =>
    by_cases e : M = L
    · simp [kfind, e]
    · simp [kfind, e, Ne.symm e, ih]

variable (hls : ls.Pairwise (· < ·)) (hG : ∀ L ∈ ls, s.hasPlace (G L) = true ∧ (G L).off % n = 0)

/-- What the lanes of near atomics find. -/
def atomOld (s : State) (k : GKey) (n : Nat) (G : Fin 32 → NearAt) (op : LaneOp) (ls : List (Fin 32)) (L : Fin 32) : DWord :=
  if L ∈ ls then wordOf (laneOld s n G (atomStep k n G op) ls L) else 0#64

/-- What they leave. -/
def atomNew (s : State) (k : GKey) (n : Nat) (G : Fin 32 → NearAt) (op : LaneOp) (ls : List (Fin 32)) (L : Fin 32) : DWord :=
  wordOf (atomBytes n op L (laneOld s n G (atomStep k n G op) ls L))

include hG

theorem atomStep_steps : ∀ L ∈ ls, ∀ t, NearFrame s t → LaneStep n (G L) (atomBytes n op L) t (atomStep k n G op t L) :=
  fun L hL _ ht => (atomStep_step (ht.hasPlace _ ▸ (hG L hL).1)).1

theorem atomSteps_sameErrors : SameErrors s (ls.foldl (atomStep k n G op) s) :=
  foldl_lanes_keep (atomStep_steps (k := k) (op := op) hG) .refl (fun _ _ _ => .trans) fun L hL _ ht =>
    (atomStep_step (ht.hasPlace _ ▸ (hG L hL).1)).2

theorem laneOld_length {L : Fin 32} (hL : L ∈ ls) : (laneOld s n G (atomStep k n G op) ls L).length = n := by
  have hframe := (foldl_lanes (ls := lanesBelow ls L) fun M hM => atomStep_steps (k := k) (op := op) hG M (mem_lanesBelow.1 hM).1).1
  exact nearRead_length (hframe.hasPlace _ ▸ (hG L hL).1) n

theorem atomBytes_length {L : Fin 32} (hL : L ∈ ls) : (atomBytes n op L (laneOld s n G (atomStep k n G op) ls L)).length = n := by
  unfold atomBytes
  cases op L (wordOf (laneOld s n G (atomStep k n G op) ls L))
  · exact laneOld_length hG hL
  · exact bytesOf_length _ _

end

theorem pow_256 (n : Nat) : 256 ^ n = 2 ^ (8 * n) := by rw [show 256 = 2 ^ 8 from rfl, ← pow_mul]

theorem wordOf_bytesOf (n : Nat) (x : DWord) : wordOf (bytesOf n x.toNat) = (x.setWidth (8 * n)).setWidth 64 := by
  have hlt : x.toNat % 256 ^ n < 2 ^ 64 := (Nat.mod_le _ _).trans_lt x.isLt
  apply BitVec.eq_of_toNat_eq
  rw [wordOf, BitVec.toNat_ofNat, ofBytes_bytesOf, BitVec.toNat_setWidth, BitVec.toNat_setWidth, pow_256]

theorem wordOf_low {n : Nat} (hn : n ≤ 8) {bs : List Byte} (h : bs.length = n) : ((wordOf bs).setWidth (8 * n)).setWidth 64 = wordOf bs := by
  have hlt : ofBytes bs < 2 ^ (8 * n) := by
    rw [← pow_256, ← h]
    exact ofBytes_lt bs
  have hpow : 2 ^ (8 * n) ≤ 2 ^ 64 := Nat.pow_le_pow_right (by omega) (by omega)
  apply BitVec.eq_of_toNat_eq
  rw [BitVec.toNat_setWidth, BitVec.toNat_setWidth, wordOf, BitVec.toNat_ofNat, Nat.mod_eq_of_lt (hlt.trans_le hpow), Nat.mod_eq_of_lt hlt,
    Nat.mod_eq_of_lt (hlt.trans_le hpow)]

theorem ofBytes_digit (bs : List Byte) {i : Nat} (h : i < bs.length) : ofBytes bs / 256 ^ i % 256 = bs[i].toNat := by
  have hsplit : ofBytes bs = ofBytes (bs.take i) + 256 ^ i * (bs[i].toNat + 256 * ofBytes (bs.drop (i + 1))) := by
    conv_lhs => rw [← List.take_append_drop i bs, List.drop_eq_getElem_cons h, ofBytes_append, ofBytes, List.length_take_of_le h.le]
  have hlow : ofBytes (bs.take i) < 256 ^ i := by
    have := ofBytes_lt (bs.take i)
    rwa [List.length_take_of_le h.le] at this
  have hb := bs[i].isLt
  rw [hsplit, Nat.add_mul_div_left _ _ (by positivity), Nat.div_eq_of_lt hlow]
  omega

/-- Byte `i` of a number of at most eight bytes. -/
theorem wordOf_byte {bs : List Byte} (hn : bs.length ≤ 8) {i : Nat} (h : i < bs.length) : bs[i] = (wordOf bs).extractLsb' (8 * i) 8 := by
  have hlt : ofBytes bs < 2 ^ 64 := (ofBytes_lt bs).trans_le ((Nat.pow_le_pow_right (by omega) hn).trans_eq (by rfl))
  apply BitVec.eq_of_toNat_eq
  rw [BitVec.extractLsb'_toNat, wordOf, BitVec.toNat_ofNat, Nat.mod_eq_of_lt hlt, Nat.shiftRight_eq_div_pow, ← pow_256]
  exact (ofBytes_digit bs h).symm

/-- The nearest active lane below at the same place: a lane of the mask. -/
theorem placeBefore_some {m : Word} {G : Fin 32 → NearAt} {L M : Fin 32} (h : placeBefore m G L = some M) :
    M ∈ maskLanes m ∧ M < L ∧ G M = G L ∧ ∀ N ∈ maskLanes m, N < L → G N = G L → N ≤ M := by
  obtain ⟨⟨hM, htest⟩, hlast⟩ := getLast?_filter_rising (maskLanes_rising m) h
  obtain ⟨hlt, hsame⟩ : M.val < L.val ∧ G M = G L := by simpa using htest
  exact ⟨hM, hlt, hsame, fun N hN hlt' hsame' => hlast N hN (by simpa using ⟨hlt', hsame'⟩)⟩

theorem placeBefore_none {m : Word} {G : Fin 32 → NearAt} {L : Fin 32} (h : placeBefore m G L = none) :
    ∀ M ∈ maskLanes m, M < L → G M ≠ G L := by
  intro M hM hlt hsame
  have hnil := List.filter_eq_nil_iff.1 (List.getLast?_eq_none_iff.1 h) M hM
  exact hnil (by simpa using ⟨hlt, hsame⟩)

theorem lastPlace_iff {m : Word} {G : Fin 32 → NearAt} {L : Fin 32} : lastPlace m G L = true ↔ ∀ M ∈ maskLanes m, L < M → G M ≠ G L := by
  rw [lastPlace, List.all_eq_true]
  refine forall₂_congr fun M _ => ?_
  rw [Bool.or_eq_true, decide_eq_true_eq, bne_iff_ne, Fin.lt_def]
  exact ⟨fun h hlt => h.resolve_left (by omega), fun h => (le_or_gt M.val L.val).imp_right h⟩

section
variable {s : State} {k : GKey} {n : Nat} {G : Fin 32 → NearAt} {op : LaneOp} {m : Word}
  (hG : ∀ L ∈ maskLanes m, s.hasPlace (G L) = true ∧ (G L).off % n = 0)

include hG

/-- The atomics of the lanes of a mask are a chain (R15, R152). -/
theorem atoms_chain (hn : n ≤ 8) : Chain m n (placeBefore m G) (fun L => BitVec.ofNat 64 (ofBytes (s.nearRead (G L) n))) op
    (atomOld s k n G op (maskLanes m)) (atomNew s k n G op (maskLanes m)) := by
  have hsteps := atomStep_steps (k := k) (op := op) hG
  refine ⟨fun L hL hnone => ?_, fun L M hL hsome => ?_, fun L hL => ?_, fun L hL => ?_⟩
  · rw [atomOld, if_pos (mem_maskLanes.2 hL), laneOld_first hsteps hG (mem_maskLanes.2 hL) (placeBefore_none hnone)]
    rfl
  · obtain ⟨hM, hlt, hsame, hnearest⟩ := placeBefore_some hsome
    rw [atomOld, if_pos (mem_maskLanes.2 hL), laneOld_next hsteps hG (maskLanes_rising m) hM hlt hsame hnearest, atomNew]
  · have hlen := laneOld_length (k := k) (op := op) hG (mem_maskLanes.2 hL)
    rw [atomNew, atomOld, if_pos (mem_maskLanes.2 hL), atomBytes]
    cases op L (wordOf (laneOld s n G (atomStep k n G op) (maskLanes m) L)) with
    | none => exact (wordOf_low hn hlen).symm
    | some x => exact wordOf_bytesOf n x
  · rw [atomOld, if_neg fun h => Bool.false_ne_true (hL.symm.trans (mem_maskLanes.1 h))]

/-- The bytes that the last lane at a place leaves there. -/
theorem atoms_byte (hn : n ≤ 8) {L : Fin 32} (hL : L ∈ maskLanes m) (hlast : lastPlace m G L = true) {i : Nat} (hi : i < n) :
    ((maskLanes m).foldl (atomStep k n G op) s).nearByte ((G L).plus i) = (atomNew s k n G op (maskLanes m) L).extractLsb' (8 * i) 8 := by
  have hsteps := atomStep_steps (k := k) (op := op) hG
  have hread := foldl_lanes_last hsteps hG (maskLanes_rising m) hL (lastPlace_iff.1 hlast)
  have hlen := atomBytes_length (k := k) (op := op) hG hL
  have hplace := (foldl_lanes hsteps).1.hasPlace (G L) ▸ (hG L hL).1
  have hbyte := nearByte_of_nearRead hplace hread hi
  rw [List.getElem?_eq_getElem (by omega), Option.some.injEq] at hbyte
  rw [hbyte]
  exact wordOf_byte (by omega) _

end

end Sys2Proof.Machine

/-! Near stores: the bytes of the lanes' registers, and the errors that they end (R146, R151). -/

namespace Sys2Proof.Machine

-- ## Addresses

theorem off_column (c o : Nat) : (NearAt.column c o).off = o := rfl

theorem nearDecode_aligned {s : State} {u : TKey} {m : Mode} {a n : Nat} {q : NearAt} (hn : n ∣ 65536) (ha : a % n = 0)
    (h : s.nearDecode u m a n = some q) : q.off % n = 0 := by
  have hdvd : n ∣ a := Nat.dvd_of_mod_eq_zero ha
  have hbase : n ∣ a - 0x400000 := Nat.dvd_sub hdvd (hn.trans (by norm_num))
  have hunit (u : Nat) : n ∣ u * 65536 + (a - 0x400000) := Nat.dvd_add (hn.mul_left u) hbase
  have hlow : n ∣ natBits a 22 0 := by
    have hbits : natBits a 22 0 = a % 2 ^ 23 := by simp [natBits]
    exact hbits ▸ (Nat.dvd_mod_iff (hn.trans (by norm_num))).2 hdvd
  refine Nat.mod_eq_zero_of_dvd ?_
  unfold State.nearDecode at h
  dsimp only at h
  split_ifs at h <;> cases h
  · exact hdvd
  · rw [off_column]
    exact hbase
  · rw [off_column]
    exact hunit _
  · exact hlow

theorem accessBytes_dvd (x : Pfx) (z : BitVec 2) : accessBytes x z ∣ 65536 := by
  have hz := z.isLt
  unfold accessBytes
  split
  · norm_num
  · exact pow_dvd_pow 2 (show z.toNat ≤ 16 by omega)

theorem accessBytes_words (x : Pfx) (z : BitVec 2) : accessBytes x z ≤ 4 ∨ 4 ∣ accessBytes x z := by
  have hz := z.isLt
  unfold accessBytes
  split
  · exact .inr (by norm_num)
  · interval_cases z.toNat <;> simp

-- ## The bytes of registers

theorem bytesOf_getElem {n x i : Nat} (h : i < (bytesOf n x).length) : (bytesOf n x)[i] = BitVec.ofNat 8 (x / 256 ^ i) := by
  induction n generalizing x i with
  | zero => simp at h
  | succ n ih =>
    cases i with
    | zero => simp [bytesOf]
    | succ i =>
      have h' : i < (bytesOf n (x / 256)).length := by simpa using h
      rw [pow_succ', ← Nat.div_div_eq_div_mul, ← ih h']
      rfl

theorem bytesOf_word {n : Nat} (x : Word) {i : Nat} (h : i < n) : (bytesOf n x.toNat)[i]? = some (x.extractLsb' (8 * i) 8) := by
  rw [List.getElem?_eq_getElem (by simpa using h), bytesOf_getElem, Option.some.injEq]
  apply BitVec.eq_of_toNat_eq
  rw [BitVec.toNat_ofNat, BitVec.extractLsb'_toNat, Nat.shiftRight_eq_div_pow, pow_256]

theorem dataBytes_getElem? (v : View) (d : Nat) {n : Nat} (L : Fin 32) {i : Nat} (h : i < n) :
    (v.dataBytes d n L)[i]? = some ((v.rd (d + i / 4))[L].extractLsb' (8 * (i % 4)) 8) := by
  unfold View.dataBytes
  split
  next hsmall =>
    rw [bytesOf_word _ h, show i / 4 = 0 by omega, show i % 4 = i by omega]
    rfl
  next hbig =>
    have hword : i / 4 < (n + 3) / 4 := by omega
    have hget := flatMap_getElem? (f := fun r => bytesOf 4 ((v.rd r)[L]).toNat) (w := 4) (fun r => bytesOf_length 4 _) (l := dataRegs d n) (j := i / 4)
      (Nat.mod_lt i four_pos)
    rw [Nat.div_add_mod] at hget
    rw [← List.flatMap_def, hget, dataRegs, List.getElem?_map, List.getElem?_range hword]
    exact bytesOf_word _ (Nat.mod_lt i four_pos)

theorem dataBytes_length (v : View) (d : Nat) {n : Nat} (hn : n ≤ 4 ∨ 4 ∣ n) (L : Fin 32) : (v.dataBytes d n L).length = n := by
  unfold View.dataBytes
  split
  · exact bytesOf_length _ _
  next hbig =>
    have hfour : ((dataRegs d n).map fun r => bytesOf 4 ((v.rd r)[L]).toNat).flatten.length = 4 * (dataRegs d n).length := by
      induction dataRegs d n with
      | nil => rfl
      | cons r rs ih => simp only [List.map_cons, List.flatten_cons, List.length_append, bytesOf_length, ih, List.length_cons]; omega
    rw [hfour, dataRegs, List.length_map, List.length_range]
    omega

-- ## Errors

theorem mem_wholeUnits {places : List NearAt} {n : Nat} {q : NearAt} {u : Nat} :
    u ∈ wholeUnits places n q ↔ u ∈ q.units n ∧ ∀ e ∈ q.unitBytes u, ∃ r ∈ places, ∃ i < n, r.plus i = e := by
  simp [wholeUnits]

theorem nearPoisoned_iff {s : State} {q : NearAt} {n : Nat} : s.nearPoisoned q n = true ↔ ∃ u ∈ q.units n, s.nearBad q u = true := List.any_eq_true

/-- A team, and a core, some units of whose near memory are no longer in error. -/
def Team.mended (x : Team) (us : List Nat) : Team := { x with spadBad := x.spadBad.filter (!us.contains ·) }
def Core.mended (x : Core) (us : List Nat) : Core := { x with colBad := x.colBad.filter (!us.contains ·) }

theorem nearClear_spad {s : State} {u : TKey} {x : Team} (hx : kfind s.teams u = some x) (o : Nat) (us : List Nat) :
    s.nearClear (.spad u o) us = s.setTeam u (x.mended us) := by
  rw [State.nearClear, modTeam_found hx]
  cases hbad : x.spadBad with
  | nil => cases x; simp_all [Team.mended]
  | cons => simp [Team.mended, hbad]

theorem nearClear_column (s : State) (c o : Nat) (us : List Nat) : s.nearClear (.column c o) us = s.modCore c (·.mended us) := by
  unfold State.nearClear
  refine congrArg (s.modCore c) (funext fun x => ?_)
  cases hbad : x.colBad with
  | nil => cases x; simp_all [Core.mended]
  | cons => simp [Core.mended, hbad]

theorem kfind_setTeam (s : State) (u : TKey) (y : Team) (v : TKey) : kfind (s.setTeam u y).teams v = if v = u then some y else kfind s.teams v := by
  by_cases e : v = u
  · simp [State.setTeam, e]
  · simp [State.setTeam, e, kfind_kput_ne _ _ e]

theorem team_setTeam (s : State) (u : TKey) (y : Team) (v : TKey) : (s.setTeam u y).team v = if v = u then y else s.team v := by
  rw [State.team, kfind_setTeam]
  split <;> rfl

/-- The end of errors changes no byte, makes no error, and leaves none of the units at the place. -/
theorem nearClear_spec {s : State} {q : NearAt} (hq : s.hasPlace q = true) (us : List Nat) : NearFrame s (s.nearClear q us) ∧
    (∀ y, s.hasPlace y = true → (s.nearClear q us).nearByte y = s.nearByte y) ∧
    (∀ r u, (s.nearClear q us).nearBad r u = true → s.nearBad r u = true) ∧ ∀ u ∈ us, (s.nearClear q us).nearBad q u = false := by
  have hkept (l us : List Nat) (u : Nat) (h : (l.filter (!us.contains ·)).contains u = true) : l.contains u = true :=
    List.contains_iff_mem.2 (List.mem_filter.1 (List.contains_iff_mem.1 h)).1
  cases q with
  | column c o =>
    rw [nearClear_column]
    refine ⟨modCore_nearFrame s c rfl, fun y hy => ?_, fun r u hr => ?_, fun u hu => ?_⟩
    · cases y with
      | spad v o' =>
        obtain ⟨x, hx⟩ := spad_resident hy
        exact (nearByte_spad (s := s.modCore c _) hx o').trans (nearByte_spad hx o').symm
      | column c' o' =>
        rw [nearByte_column, nearByte_column, core_modCore]
        split
        next e => rw [e]; rfl
        next => rfl
    · cases r with
      | spad => exact hr
      | column c' o' =>
        simp only [State.nearBad, core_modCore] at hr ⊢
        split at hr
        next e => rw [e]; exact hkept _ us u hr
        next => exact hr
    · simp [State.nearBad, core_modCore, Core.mended, hu]
  | spad t o =>
    obtain ⟨x, hx⟩ := spad_resident hq
    rw [nearClear_spad hx]
    refine ⟨setTeam_nearFrame hx rfl, fun y hy => ?_, fun r u hr => ?_, fun u hu => ?_⟩
    · cases y with
      | column c o' => rw [nearByte_column, nearByte_column]; rfl
      | spad v o' =>
        obtain ⟨z, hz⟩ := spad_resident hy
        rw [nearByte_spad hz]
        by_cases e : v = t
        · subst e
          rw [hx, Option.some.injEq] at hz
          exact (nearByte_spad ((kfind_setTeam s v _ v).trans (if_pos rfl)) o').trans (by rw [← hz]; rfl)
        · exact nearByte_spad ((kfind_setTeam s t _ v).trans ((if_neg e).trans hz)) o'
    · cases r with
      | column => exact hr
      | spad v o' =>
        simp only [State.nearBad, team_setTeam] at hr ⊢
        split at hr
        next e => rw [e, team_found hx]; exact hkept _ us u hr
        next => exact hr
    · simp [State.nearBad, team_setTeam, Team.mended, hu]

theorem SameErrors.nearBad {s t : State} (h : SameErrors s t) (q : NearAt) (u : Nat) : t.nearBad q u = s.nearBad q u := by
  cases q with
  | column c o => simp only [State.nearBad, h.cores]
  | spad v o =>
    have hv := h.teams v
    simp only [State.nearBad, State.team]
    cases hs : kfind s.teams v <;> cases ht : kfind t.teams v <;> simp_all

-- ## Stores

/-- One lane's store: where its place was in error, it ends the errors of the units that the lanes overwrite as a whole. -/
def stnStep (v : View) (d n : Nat) (places : List NearAt) (G : Fin 32 → NearAt) (s : State) (L : Fin 32) : State :=
  let t := s.nearWrite (G L) (v.dataBytes d n L) (some v.k)
  if v.s.nearPoisoned (G L) n then t.nearClear (G L) (wholeUnits places n (G L)) else t

/-- No unit is in error in `t` that is not in `s`. -/
def NoNewErrors (s t : State) : Prop := ∀ r u, t.nearBad r u = true → s.nearBad r u = true

theorem NoNewErrors.trans {s t u : State} (a : NoNewErrors s t) (b : NoNewErrors t u) : NoNewErrors s u := fun r x h => a r x (b r x h)

section
variable {s : State} {v : View} {d n : Nat} {places : List NearAt} {G : Fin 32 → NearAt}

theorem stnStep_spec {t : State} {L : Fin 32} (hn : n ≤ 4 ∨ 4 ∣ n) (h : t.hasPlace (G L) = true) :
    LaneStep n (G L) (fun _ => v.dataBytes d n L) t (stnStep v d n places G t L) ∧ NoNewErrors t (stnStep v d n places G t L) ∧
      (v.s.nearPoisoned (G L) n = true → ∀ u ∈ wholeUnits places n (G L), (stnStep v d n places G t L).nearBad (G L) u = false) ∧
      (v.s.nearPoisoned (G L) n = false → SameErrors t (stnStep v d n places G t L)) := by
  have hwrite := nearWrite_step h (bs := v.dataBytes d n L) (some v.k)
  rw [dataBytes_length v d hn] at hwrite
  have herr := (nearWrite_frame t (G L) (v.dataBytes d n L) (some v.k)).2
  have hsame : NoNewErrors t (t.nearWrite (G L) (v.dataBytes d n L) (some v.k)) := fun r u hr => (herr.nearBad r u).symm.trans hr
  unfold stnStep
  cases hp : v.s.nearPoisoned (G L) n with
  | false => exact ⟨hwrite, hsame, nofun, fun _ => herr⟩
  | true =>
    obtain ⟨hframe, hbytes, hfewer, hnone⟩ :=
      nearClear_spec (s := t.nearWrite (G L) (v.dataBytes d n L) (some v.k)) (hwrite.frame.hasPlace (G L) ▸ h) (wholeUnits places n (G L))
    have hread : ∀ y, t.hasPlace y = true →
        (State.nearClear (t.nearWrite (G L) (v.dataBytes d n L) (some v.k)) (G L) (wholeUnits places n (G L))).nearByte y =
          (t.nearWrite (G L) (v.dataBytes d n L) (some v.k)).nearByte y := fun y hy => hbytes y (hwrite.frame.hasPlace y ▸ hy)
    have hplace := hwrite.frame.hasPlace (G L) ▸ h
    refine ⟨⟨hwrite.frame.trans hframe, (nearRead_congr hplace (hframe.hasPlace _ ▸ hplace) fun i _ => ?_).trans hwrite.here,
      fun y hy hne => (hread y hy).trans (hwrite.other y hy hne)⟩, hsame.trans hfewer, fun _ => hnone, nofun⟩
    exact hread _ (hasPlace_plus t (G L) i ▸ h)

variable {ls : List (Fin 32)} (hn : n ≤ 4 ∨ 4 ∣ n) (hG : ∀ L ∈ ls, s.hasPlace (G L) = true ∧ (G L).off % n = 0)

include hn hG

theorem stnStep_steps : ∀ L ∈ ls, ∀ t, NearFrame s t → LaneStep n (G L) (fun _ => v.dataBytes d n L) t (stnStep v d n places G t L) :=
  fun L hL _ ht => (stnStep_spec hn (ht.hasPlace _ ▸ (hG L hL).1)).1

theorem stnSteps_noNewErrors : NoNewErrors s (ls.foldl (stnStep v d n places G) s) :=
  foldl_lanes_keep (stnStep_steps hn hG) (fun _ _ _ h => h) (fun _ _ _ => .trans) fun L hL _ ht =>
    (stnStep_spec hn (ht.hasPlace _ ▸ (hG L hL).1)).2.1

theorem stnSteps_sameErrors (h : ∀ L ∈ ls, v.s.nearPoisoned (G L) n = false) : SameErrors s (ls.foldl (stnStep v d n places G) s) :=
  foldl_lanes_keep (stnStep_steps hn hG) .refl (fun _ _ _ => .trans) fun L hL _ ht =>
    (stnStep_spec hn (ht.hasPlace _ ▸ (hG L hL).1)).2.2.2 (h L hL)

variable (hls : ls.Pairwise (· < ·))

include hls

/-- Where every unit in error of a lane's place is overwritten as a whole, none is in error when the store is done. -/
theorem stnSteps_mends (hsv : NoNewErrors v.s s) {L : Fin 32} (hL : L ∈ ls)
    (hwhole : ∀ u ∈ (G L).units n, v.s.nearBad (G L) u = true → u ∈ wholeUnits places n (G L)) :
    ∀ u ∈ (G L).units n, (ls.foldl (stnStep v d n places G) s).nearBad (G L) u = false := by
  intro u hu
  have hnoNew {ms : List (Fin 32)} (hsub : ms ⊆ ls) {t : State} (ht : NearFrame s t) : NoNewErrors t (ms.foldl (stnStep v d n places G) t) :=
    stnSteps_noNewErrors (s := t) hn fun M hM => ⟨ht.hasPlace _ ▸ (hG M (hsub hM)).1, (hG M (hsub hM)).2⟩
  rw [Bool.eq_false_iff]
  intro hbad
  cases hu0 : v.s.nearBad (G L) u with
  | false => exact Bool.false_ne_true (hu0.symm.trans (hsv _ _ (stnSteps_noNewErrors hn hG _ _ hbad)))
  | true =>
    have hbelow : NearFrame s ((lanesBelow ls L).foldl (stnStep v d n places G) s) :=
      (foldl_lanes fun M hM => stnStep_steps hn hG M (mem_lanesBelow.1 hM).1).1
    obtain ⟨hstep, -, hmend, -⟩ := stnStep_spec (v := v) (d := d) (places := places) hn (hbelow.hasPlace _ ▸ (hG L hL).1)
    have hcleared := hmend (nearPoisoned_iff.2 ⟨u, hu, hu0⟩) u (hwhole u hu hu0)
    rw [rising_parts hls hL, List.foldl_append, List.foldl_cons] at hbad
    exact Bool.false_ne_true (hcleared.symm.trans (hnoNew (List.filter_subset_self _) (hbelow.trans hstep.frame) _ _ hbad))

/-- The bytes that the last lane at a place leaves there. -/
theorem stnSteps_byte {L : Fin 32} (hL : L ∈ ls) (hlast : ∀ M ∈ ls, L < M → G M ≠ G L) {i : Nat} (hi : i < n) :
    (ls.foldl (stnStep v d n places G) s).nearByte ((G L).plus i) = (v.rd (d + i / 4))[L].extractLsb' (8 * (i % 4)) 8 := by
  have hsteps := stnStep_steps (v := v) (d := d) (places := places) hn hG
  have hplace := (foldl_lanes hsteps).1.hasPlace (G L) ▸ (hG L hL).1
  have hbyte := nearByte_of_nearRead hplace (foldl_lanes_last hsteps hG hls hL hlast) hi
  rw [dataBytes_getElem? v d L hi, Option.some.injEq] at hbyte
  exact hbyte

end

end Sys2Proof.Machine

/-! How a near instruction completes or traps once its effect on near memory is known (R150, R330). -/

namespace Sys2Proof.Machine

section
variable {form : View → Form} {body : View → Res} {s t : State} {k : GKey} {g : Group} {p : Path} {f : Form} {r : TrapReq}

/-- Where a trap would split the path and the stack is full, it is RS_OVERFLOW, with no effect (R330). -/
theorem issue_overflow (hi : Issuing s k g p) (hf : form ⟨s, k, g, p, p.pc + 4#32⟩ = f)
    (hw : g.waits (f.reads.map (g.wbasev + ·)) p.ex = false) (hsplit : r.split = true) (hlanes : r.lanes ≠ p.ex) (hfull : 24 ≤ g.used)
    (hc : (s.view k g p f.pfx).checked f body = .trap r t) : issue form body s =
      .next ((((s.view k g p f.pfx).s.spend (beats g f p.ex)).trap k p (p.pc + BitVec.ofNat 32 (pfxLen f.pfx))
        { cause := .rsOverflow, lanes := p.ex }).stepped k g true) := by
  have hfit : (r.split && decide (r.lanes ≠ p.ex) && g.full) = true := by simp [hsplit, hlanes, Group.full, hfull]
  simp only [issue, hi.focus, hi.found, hi.path, hf, hw, Bool.false_and, Bool.false_eq_true, if_false]
  simp only [State.view] at hc ⊢
  simp only [hc, hfit, if_true]

end

/-- An instruction's effect on near memory in `E`, of which `t` is left with the writes `new` on their way, before its beats pass. -/
structure NearEffect (s E t : State) (k : GKey) (g : Group) (p : Path) (x : Pfx) (new : List PendWrite) : Prop where
  frame : NearFrame (s.view k g p x).s E
  sets  : Sets E t k { g.counted s.issued with pend := g.pend ++ new }
  cycle : t.cycle = s.cycle

section
variable {s E t u : State} {k : GKey} {g : Group} {p : Path} {x : Pfx} {new : List PendWrite}

/-- An effect that sends no write on its way. -/
theorem NearEffect.of_frame (h : NearFrame (s.view k g p x).s E) : NearEffect s E E k g p x [] := by
  refine ⟨h, ⟨?_, rfl, fun _ _ => rfl⟩, (congrArg State.cycle h.beside :)⟩
  rw [h.groups, view_found, List.append_nil]
  rfl

/-- A write that goes on its way. -/
theorem NearEffect.wrLater {v : View} (hv : v = s.view k g p x) (h : NearEffect s E t k g p x new) (r : Nat) (m : Word) (vals : Lanes Word) :
    NearEffect s E (v.wrLater t r m vals) k g p x (new ++ [{ reg := g.wbasev + r, mask := m, vals := vals, left := none }]) := by
  subst hv
  refine ⟨h.frame, ?_, ?_⟩
  · rw [← List.append_assoc]
    exact h.sets.modGroup _
  · exact (State.modGroup_cycle _ _ _).trans h.cycle

/-- Several writes, one after the other. -/
theorem NearEffect.foldl_wrLater {α : Type} {v : View} (hv : v = s.view k g p x) (h : NearEffect s E t k g p x new) (r : α → Nat) (m : Word)
    (vals : α → Lanes Word) (l : List α) : NearEffect s E (l.foldl (fun t i => v.wrLater t (r i) m (vals i)) t) k g p x
      (new ++ l.map fun i => { reg := g.wbasev + r i, mask := m, vals := vals i, left := none }) := by
  induction l generalizing t new with
  | nil => simpa using h
  | cons i l ih =>
    rw [List.foldl_cons, List.map_cons, List.append_cons]
    exact ih (h.wrLater hv (r i) m (vals i))

-- ## What stays, in a state `u` that differs from `t` in groups and clocks only

theorem nearByte_of_rest (h : u.rest = E.rest) {y : NearAt} (hy : E.hasPlace y = true) : u.nearByte y = E.nearByte y := by
  have hteams : u.teams = E.teams := (congrArg State.teams h :)
  have hcores : u.cores = E.cores := (congrArg State.cores h :)
  cases y with
  | column c o => rw [nearByte_column, nearByte_column, State.core, hcores, ← State.core]
  | spad v o =>
    obtain ⟨z, hz⟩ := spad_resident hy
    rw [nearByte_spad hz, nearByte_spad (hteams ▸ hz)]

theorem nearBad_of_rest (h : u.rest = E.rest) (q : NearAt) (x : Nat) : u.nearBad q x = E.nearBad q x := by
  have hteams : u.teams = E.teams := (congrArg State.teams h :)
  have hcores : u.cores = E.cores := (congrArg State.cores h :)
  cases q with
  | column c o => rw [State.nearBad, State.core, hcores]; rfl
  | spad v o => rw [State.nearBad, State.team, hteams]; rfl

theorem nearByte_view {y : NearAt} (hy : s.hasPlace y = true) : (s.view k g p x).s.nearByte y = s.nearByte y := nearByte_of_rest (view_rest x) hy

theorem nearRead_view {q : NearAt} (hq : s.hasPlace q = true) (n : Nat) : (s.view k g p x).s.nearRead q n = s.nearRead q n :=
  nearRead_congr hq hq fun i _ => nearByte_view (hasPlace_plus s q i ▸ hq)

/-- Only group `k` and near memory differ. -/
structure NearApart (s u : State) (k : GKey) : Prop where
  beside : { u.rest with teams := [], cores := [], notes := [] } = { s.rest with teams := [], cores := [], notes := [] }
  others : ∀ j, j ≠ k → kfind u.groups j = kfind s.groups j
  teams  : ∀ v, (kfind u.teams v).map (fun x => { x with spad := [], spadBad := [] }) = (kfind s.teams v).map fun x => { x with spad := [], spadBad := [] }
  cores  : ∀ c, { u.core c with column := [], colBad := [] } = { s.core c with column := [], colBad := [] }

theorem NearEffect.apart (h : NearEffect s E t k g p x new) (hrest : u.rest = t.rest) (hoth : ∀ j, j ≠ k → kfind u.groups j = kfind t.groups j) :
    NearApart s u k := by
  have hr : u.rest = E.rest := hrest.trans h.sets.rest
  have hteams : u.teams = E.teams := (congrArg State.teams hr :)
  have hcores : u.cores = E.cores := (congrArg State.cores hr :)
  refine ⟨?_, fun j hj => ?_, fun v => ?_, fun c => ?_⟩
  · rw [hr]
    exact (congrArg State.rest h.frame.beside :)
  · rw [hoth j hj, h.sets.others j hj, h.frame.groups, view_others x hj]
  · rw [hteams]
    exact h.frame.teams v
  · rw [State.core, hcores]
    exact h.frame.cores c

-- ## Completion and traps

/-- The form of near instructions: registers that they name and read, and nothing else that they demand. -/
def nearForm (x : Pfx) (names reads : List Nat) : Form := { pfx := x, names := names, reads := reads }

section
variable {names reads : List Nat} {body : View → Res} {n : Nat} {va : Fin 32 → Word} {F : Fin 32 → Option NearAt} {err : Fin 32 → Bool}
  (hi : Issuing s k g p) (hr : Ready s k g p names reads)
  (hb : body (s.view k g p x) = laneOutcome ((badLanes p.ex F err).map (nearFault n va F)) true t)

theorem near_beats {L0 : Fin 32} (h0 : L0 ∈ badLanes p.ex F err) : 1 ≤ beats g (nearForm x names reads) p.ex := by
  refine beats_pos (fun hz => ?_) rfl
  have hL0 := mem_maskLanes.1 (List.mem_filter.1 h0).1
  simp [hz] at hL0

include hr hb

theorem near_checked : (s.view k g p x).checked (nearForm x names reads) body = laneOutcome ((badLanes p.ex F err).map (nearFault n va F)) true t :=
  (checked_ok (f := nearForm x names reads) hr rfl rfl rfl (by simp [nearForm, Uniform]) (by simp [nearForm])).trans hb

variable {L0 : Fin 32} (h0 : L0 ∈ badLanes p.ex F err)
  (hmin : ∀ L ∈ badLanes p.ex F err, nearRank n va F L0 ≤ nearRank n va F L ∧ (nearRank n va F L = nearRank n va F L0 → L0.val ≤ L.val))

include h0 hmin in
theorem near_checked_traps : (s.view k g p x).checked (nearForm x names reads) body =
    .trap (nearReq n va F (badLanes p.ex F err) L0) t := by
  have hrise : (badLanes p.ex F err).Pairwise (· < ·) := (maskLanes_rising p.ex).filter _
  rw [near_checked hr hb, laneOutcome, if_neg (by simpa using List.ne_nil_of_mem h0), faultReq_nearFaults hrise h0 hmin]

include hi

theorem near_completes (he : NearEffect s E t k g p x new) (hbad : badLanes p.ex F err = []) :
    ∃ u h, issue (fun _ => nearForm x names reads) body s = .next u ∧ Becomes t u k (g.onWith p x new) h := by
  refine ok_becomes hi (nearForm x names reads) rfl hr rfl rfl rfl (by simp [nearForm, Uniform]) (by simp [nearForm]) (s1 := t) (hb.trans ?_)
    ⟨he.sets.found, rfl, fun _ _ => rfl⟩ (q := { g with pend := g.pend ++ new }) rfl
  rw [hbad]
  rfl

include h0 hmin

theorem near_overflows (hsome : lanesMask (badLanes p.ex F err) ≠ p.ex) (hfull : 24 ≤ g.used) {i : Instr}
    (hexec : exec i s = issue (fun _ => nearForm x names reads) body s) : Traps i s k g p x { cause := .rsOverflow, lanes := p.ex } :=
  ⟨_, near_beats h0, hexec.trans (issue_overflow (f := nearForm x names reads) hi rfl hr.waits rfl hsome hfull (near_checked_traps hr hb h0 hmin))⟩

theorem near_traps (hfit : lanesMask (badLanes p.ex F err) = p.ex ∨ g.used < 24) :
    ∃ m, 1 ≤ m ∧ issue (fun _ => nearForm x names reads) body s =
      .next (((t.spend m).trap k p (p.pc + BitVec.ofNat 32 (pfxLen x)) (nearReq n va F (badLanes p.ex F err) L0)).stepped k g true) := by
  refine ⟨_, near_beats h0, issue_trap hi (nearForm x names reads) rfl hr.waits _ ?_ (near_checked_traps hr hb h0 hmin)⟩
  rcases hfit with h | h
  · simp [nearReq, h]
  · simp [Group.full, h]

end

end

end Sys2Proof.Machine

/-! LDN, STN and the near atomics as effects on near memory (R151 to R153). -/

namespace Sys2Proof.Machine

/-- An instruction whose failing lanes fault, and whose others have the effect `E` on near memory and send `new` on its way. -/
def NearActs (i : Instr) (s : State) (k : GKey) (g : Group) (p : Path) (x : Pfx) (names reads : List Nat) (n : Nat) (va : Fin 32 → Word)
    (F : Fin 32 → Option NearAt) (err : Fin 32 → Bool) (E : State) (new : List PendWrite) : Prop :=
  ∃ body t, exec i s = issue (fun _ => nearForm x names reads) body s ∧
    body (s.view k g p x) = laneOutcome ((badLanes p.ex F err).map (nearFault n va F)) true t ∧ NearEffect s E t k g p x new

/-- Where the active lanes' addresses lead; the lanes that do not fail can be served now. -/
structure NearLanes (s : State) (k : GKey) (g : Group) (p : Path) (n : Nat) (va : Fin 32 → Word) (F : Fin 32 → Option NearAt)
    (err : Fin 32 → Bool) : Prop where
  leads : ∀ L : Fin 32, p.ex.getLsbD L = true → F L = if (va L).toNat % n = 0 then s.nearDecode k.tkey g.mode (va L).toNat n else none
  there : ∀ L : Fin 32, p.ex.getLsbD L = true → ∀ q, F L = some q → s.hasPlace q = true
  ready : ∀ L ∈ goodLanes p.ex F err, s.nearStalled (placeOf F L) = false

section
variable {i : Instr} {s E : State} {k : GKey} {g : Group} {p : Path} {x : Pfx} {names reads : List Nat} {n : Nat} {va : Fin 32 → Word}
  {F : Fin 32 → Option NearAt} {err : Fin 32 → Bool} {new : List PendWrite}

theorem NearLanes.good (h : NearLanes s k g p n va F err) (hn : n ∣ 65536) :
    ∀ L ∈ goodLanes p.ex F err, s.hasPlace (placeOf F L) = true ∧ (placeOf F L).off % n = 0 := by
  intro L hL
  obtain ⟨hact, hplace, -⟩ := mem_goodLanes.1 hL
  refine ⟨h.there L hact _ hplace, ?_⟩
  have hlead := h.leads L hact
  rw [hplace] at hlead
  by_cases ha : (va L).toNat % n = 0
  · rw [if_pos ha] at hlead
    exact nearDecode_aligned hn ha hlead.symm
  · rw [if_neg ha] at hlead
    cases hlead

theorem goodLanes_rising (m : Word) (F : Fin 32 → Option NearAt) (err : Fin 32 → Bool) : (goodLanes m F err).Pairwise (· < ·) :=
  (maskLanes_rising m).filter _

-- ## What comes of an instruction that acts

theorem NearActs.completes (hi : Issuing s k g p) (hr : Ready s k g p names reads) (h : NearActs i s k g p x names reads n va F err E new)
    (hbad : badLanes p.ex F err = []) : ∃ t u h, exec i s = .next u ∧ NearEffect s E t k g p x new ∧ Becomes t u k (g.onWith p x new) h := by
  obtain ⟨body, t, hexec, hb, he⟩ := h
  obtain ⟨u, h, hu, hbecomes⟩ := near_completes hi hr hb he hbad
  exact ⟨t, u, h, hexec.trans hu, he, hbecomes⟩

variable {L0 : Fin 32} (h0 : L0 ∈ badLanes p.ex F err)
  (hmin : ∀ L ∈ badLanes p.ex F err, nearRank n va F L0 ≤ nearRank n va F L ∧ (nearRank n va F L = nearRank n va F L0 → L0.val ≤ L.val))

include h0 hmin

theorem NearActs.overflows (hi : Issuing s k g p) (hr : Ready s k g p names reads) (h : NearActs i s k g p x names reads n va F err E new)
    (hsome : lanesMask (badLanes p.ex F err) ≠ p.ex) (hfull : 24 ≤ g.used) : Traps i s k g p x { cause := .rsOverflow, lanes := p.ex } := by
  obtain ⟨body, t, hexec, hb, -⟩ := h
  exact near_overflows hi hr hb h0 hmin hsome hfull hexec

/-- The state in which the group takes the trap: its effect is made, and its beats have passed. -/
theorem NearActs.traps (hi : Issuing s k g p) (hr : Ready s k g p names reads) (h : NearActs i s k g p x names reads n va F err E new)
    (hfit : lanesMask (badLanes p.ex F err) = p.ex ∨ g.used < 24) : ∃ u h,
      exec i s = .next ((u.trap k p (p.pc + BitVec.ofNat 32 (pfxLen x)) (nearReq n va F (badLanes p.ex F err) L0)).stepped k g true) ∧
      s.cycle + 1 + s.slotW.toNat ≤ u.cycle ∧ u.rest = E.rest ∧ NearApart s u k ∧ kfind u.groups k = some h ∧
      h.rest = g.rest ∧ h.cur = some p ∧ h.regs = g.regs ∧ h.aflags = g.aflags ∧ h.pend = g.pend ++ new := by
  obtain ⟨body, t, hexec, hb, he⟩ := h
  obtain ⟨m, hm, hnext⟩ := near_traps hi hr hb h0 hmin hfit
  have hslot : t.slotW = s.slotW := (congrArg State.slotW ((he.apart rfl fun _ _ => rfl).beside) :)
  refine ⟨t.spend m, _, hexec.trans hnext, ?_, he.sets.rest, he.apart rfl fun _ _ => rfl, he.sets.found, rfl, hi.path, rfl, rfl, rfl⟩
  have hcycle : (t.spend m).cycle = s.cycle + m + s.slotW.toNat := by rw [← he.cycle, ← hslot]; rfl
  omega

end

-- ## The three kinds of near instructions

theorem find?_map_lanes {β : Type} (G : Fin 32 → β) (ls : List (Fin 32)) (L : Fin 32) :
    (ls.map fun M => (M, G M)).find? (fun q => q.1 == L) = if L ∈ ls then some (L, G L) else none := by
  induction ls with
  | nil => rfl
  | cons M ls ih =>
    by_cases e : M = L
    · simp [e]
    · simp [e, Ne.symm e, ih]

theorem map_lanes_fst {β : Type} (G : Fin 32 → β) (ls : List (Fin 32)) : (ls.map fun M => (M, G M)).map (·.1) = ls := by
  rw [List.map_map]
  exact List.map_id ls

section
variable {s : State} {k : GKey} {g : Group} {p : Path} {F : Fin 32 → Option NearAt} {err : Fin 32 → Bool} {d a : Reg} {x : Pfx}

theorem view_naddr (L : Fin 32) : ((s.view k g p x).naddr a.toNat x)[L] = g.seen a.toNat L + offset32 x := lanesOf_get _ L

theorem writeLoaded_eq (v : View) (t : State) (d n : Nat) (m : Word) (bs : Fin 32 → List Byte) : v.writeLoaded t d n m 0#32 (lanesOf bs) =
    (List.range ((n + 3) / 4)).foldl (fun t i => v.wrLater t (d + i) m (lanesOf fun L => loadedWord (bs L) i)) t := by
  simp only [View.writeLoaded, ite_self]
  have hwords (i : Nat) : (lanesOf fun L => loadedWord (lanesOf bs)[L] i) = lanesOf fun L => loadedWord (bs L) i :=
    congrArg lanesOf (funext fun L => by rw [lanesOf_get])
  simp only [hwords]

/-- What a lane of an LDN reads. -/
def loadedBytes (s : State) (m : Word) (n : Nat) (F : Fin 32 → Option NearAt) (err : Fin 32 → Bool) (L : Fin 32) : List Byte :=
  if L ∈ goodLanes m F err then s.nearRead (placeOf F L) n else []

theorem ldn_acts {z : BitVec 2} (hf : g.fences = []) (h : NearLanes s k g p (accessBytes x z) (fun L => g.seen a.toNat L + offset32 x) F err)
    (hbad : ∀ L : Fin 32, p.ex.getLsbD L = true → ∀ q, F L = some q → s.nearPoisoned q (accessBytes x z) = err L) :
    NearActs (.ldn x d a z) s k g p x (a.toNat :: dataRegs d.toNat (accessBytes x z)) [a.toNat] (accessBytes x z)
      (fun L => g.seen a.toNat L + offset32 x) F err (s.view k g p x).s ((List.range ((accessBytes x z + 3) / 4)).map fun i =>
        { reg := g.wbasev + (d.toNat + i), mask := lanesMask (goodLanes p.ex F err)
          vals := lanesOf fun L => loadedWord (loadedBytes s p.ex (accessBytes x z) F err L) i, left := none }) := by
  have hbytes : (lanesOf fun L => match ((goodLanes p.ex F err).map fun L => (L, placeOf F L)).find? fun q => q.1 == L with
      | some (_, q) => (s.view k g p x).s.nearRead q (accessBytes x z)
      | none => []) = lanesOf (loadedBytes s p.ex (accessBytes x z) F err) := by
    refine congrArg lanesOf (funext fun L => ?_)
    rw [find?_map_lanes, loadedBytes]
    by_cases hL : L ∈ goodLanes p.ex F err
    · rw [if_pos hL, if_pos hL]
      exact nearRead_view (h.good (accessBytes_dvd x z) L hL).1 _
    · rw [if_neg hL, if_neg hL]
  refine ⟨_, _, exec_ldn x d a z s,
    (fenced_unheld (v := s.view k g p x) hf .read _).trans (nearAccess_eq (v := s.view k g p x) view_naddr h.leads hbad h.ready _), ?_⟩
  have hwrites := (NearEffect.of_frame (.refl (s.view k g p x).s)).foldl_wrLater rfl (d.toNat + ·) (lanesMask (goodLanes p.ex F err))
    (fun i => lanesOf fun L => loadedWord (loadedBytes s p.ex (accessBytes x z) F err L) i) (List.range ((accessBytes x z + 3) / 4))
  rw [← writeLoaded_eq, ← hbytes] at hwrites
  rw [map_lanes_fst]
  exact hwrites

/-- The places to which the active lanes' addresses lead. -/
def activePlaces (m : Word) (F : Fin 32 → Option NearAt) : List NearAt := ((maskLanes m).filter fun L => (F L).isSome).map (placeOf F)

theorem mem_activePlaces {m : Word} {q : NearAt} : q ∈ activePlaces m F ↔ ∃ L : Fin 32, m.getLsbD L.val = true ∧ F L = some q := by
  simp only [activePlaces, List.mem_map, List.mem_filter, mem_maskLanes]
  refine exists_congr fun L => ⟨fun ⟨⟨hL, hsome⟩, hq⟩ => ⟨hL, ?_⟩, fun ⟨hL, hq⟩ => ⟨⟨hL, by simp [hq]⟩, placeOf_eq hq⟩⟩
  obtain ⟨r, hr⟩ := Option.isSome_iff_exists.1 hsome
  rw [← hq, placeOf_eq hr, hr]

/-- A unit stays in error where the store does not overwrite it as a whole. -/
theorem stn_bad_iff {s : State} {places : List NearAt} {n : Nat} {q : NearAt} :
    (s.nearPoisoned q n && ((q.units n).filter fun u => s.nearBad q u).any fun u => !(wholeUnits places n q).contains u) = true ↔
      ∃ u ∈ q.units n, s.nearBad q u = true ∧ u ∉ wholeUnits places n q := by
  simp only [Bool.and_eq_true, nearPoisoned_iff, List.any_eq_true, List.mem_filter, Bool.not_eq_true', List.contains_eq_mem, decide_eq_false_iff_not]
  exact ⟨fun ⟨_, u, ⟨hu, hbad⟩, hpart⟩ => ⟨u, hu, hbad, hpart⟩, fun ⟨u, hu, hbad, hpart⟩ => ⟨⟨u, hu, hbad⟩, u, ⟨hu, hbad⟩, hpart⟩⟩

/-- Near memory when the lanes of an STN that do not fail are done. -/
def stnEffect (v : View) (d n : Nat) (F : Fin 32 → Option NearAt) (err : Fin 32 → Bool) : State :=
  (goodLanes v.ex F err).foldl (stnStep v d n (activePlaces v.ex F) (placeOf F)) v.s

theorem stn_acts {z : BitVec 2} (hf : g.fences = []) (h : NearLanes s k g p (accessBytes x z) (fun L => g.seen a.toNat L + offset32 x) F err)
    (hbad : ∀ L : Fin 32, p.ex.getLsbD L = true → ∀ q, F L = some q → (err L = true ↔
      ∃ u ∈ q.units (accessBytes x z), s.nearBad q u = true ∧ u ∉ wholeUnits (activePlaces p.ex F) (accessBytes x z) q)) :
    NearActs (.stn x d a z) s k g p x (a.toNat :: dataRegs d.toNat (accessBytes x z)) (a.toNat :: dataRegs d.toNat (accessBytes x z))
      (accessBytes x z) (fun L => g.seen a.toNat L + offset32 x) F err (stnEffect (s.view k g p x) d.toNat (accessBytes x z) F err) [] := by
  have hplaces : ((s.view k g p x).nearPlaces ((s.view k g p x).naddr a.toNat x) (accessBytes x z)).map (·.2) = activePlaces p.ex F := by
    rw [nearPlaces_eq (v := s.view k g p x) view_naddr h.leads, List.map_map]
    rfl
  have hgood := h.good (accessBytes_dvd x z)
  have hframe := (foldl_lanes (stnStep_steps (v := s.view k g p x) (d := d.toNat) (places := activePlaces p.ex F) (s := (s.view k g p x).s)
    (accessBytes_words x z) hgood)).1
  refine ⟨_, _, exec_stn x d a z s, (fenced_unheld (v := s.view k g p x) hf .write _).trans ?_, .of_frame hframe⟩
  dsimp only
  rw [hplaces]
  refine (nearAccess_eq (v := s.view k g p x) view_naddr h.leads (fun L hL q hq => ?_) h.ready _).trans ?_
  · rw [Bool.eq_iff_iff, hbad L hL q hq]
    exact stn_bad_iff
  · rw [List.foldl_map]
    rfl

-- ## Atomics

/-- A near atomic of a view of the group is the shared form with the lanes' operation that the table gives (R152, R153). -/
theorem nearAtomics_exec {b' : Reg} {b : BitVec 4} {y : Instr × Pfx × Bool × Bool × List Nat × LaneOp} (hy : y ∈ g.nearAtomics x d a b' b) :
    ∃ f : View → LaneOp, exec y.1 s = nearAtomic y.2.1 d a (if y.2.2.1 then 8 else 4) y.2.2.2.2.1 y.2.2.2.1 f s ∧
      f (s.view k g p y.2.1) = y.2.2.2.2.2 := by
  have hoperand (w : Bool) (L : Fin 32) : ((s.view k g p x).operand w b.toNat)[L] = g.operand w b.toNat L := by
    cases w
    · exact lanesOf_get _ L
    · exact view_rd2 s k g p x b.toNat L
  have integer (f : Bool → DWord → DWord → DWord) (f' : DWord → DWord → DWord) (hf : ∀ o e, f (wideOp x) o e = f' o e) :
      (fun (L : Fin 32) (o : DWord) => some (f (wideOp x) o ((s.view k g p x).operand (wideOp x) b.toNat)[L])) =
        fun L o => some (f' o (g.operand (wideOp x) b.toNat L)) := by
    funext L o
    rw [hoperand, hf]
  have hsigned (o : DWord) : signedOperand (wideOp x) o = if wideOp x = true then o.toInt else (o.setWidth 32).toInt := by
    rw [signedOperand, loWord_eq_setWidth]
  rcases List.mem_append.1 hy with hint | hcas
  · simp only [integerOps, List.zip_cons_cons, List.zip_nil_left, List.map_cons, List.map_nil, List.mem_cons, List.not_mem_nil, or_false] at hint
    rcases hint with rfl | rfl | rfl | rfl | rfl | rfl | rfl | rfl
    · exact ⟨_, exec_atnAdd x d a b s, integer atomAdd _ fun _ _ => rfl⟩
    · exact ⟨_, exec_atnMin x d a b s, integer atomMin _ fun o e => by rw [atomMin, hsigned, hsigned]⟩
    · exact ⟨_, exec_atnMax x d a b s, integer atomMax _ fun o e => by rw [atomMax, hsigned, hsigned]⟩
    · exact ⟨_, exec_atnMinu x d a b s, integer atomMinu _ fun _ _ => rfl⟩
    · exact ⟨_, exec_atnMaxu x d a b s, integer atomMaxu _ fun _ _ => rfl⟩
    · exact ⟨_, exec_atnAnd x d a b s, integer atomAnd _ fun _ _ => rfl⟩
    · exact ⟨_, exec_atnOr x d a b s, integer atomOr _ fun _ _ => rfl⟩
    · exact ⟨_, exec_atnXch x d a b s, integer atomXch _ fun _ _ => rfl⟩
  · obtain rfl := List.mem_singleton.1 hcas
    refine ⟨_, exec_casn d a b' s, ?_⟩
    funext L o
    rw [loWord_eq_setWidth]
    rfl

theorem dataRegs_eq (w : Bool) (r : Nat) : dataRegs r (if w then 8 else 4) = wordOrPair w r := by cases w <;> rfl

/-- Near memory when the lanes of a near atomic that do not fail are done. -/
def atomEffect (v : View) (n : Nat) (op : LaneOp) (F : Fin 32 → Option NearAt) (err : Fin 32 → Bool) : State :=
  (goodLanes v.ex F err).foldl (atomStep v.k n (placeOf F) op) v.s

/-- The old values that its lanes find. -/
def atomOlds (v : View) (n : Nat) (op : LaneOp) (F : Fin 32 → Option NearAt) (err : Fin 32 → Bool) : Fin 32 → DWord :=
  atomOld v.s v.k n (placeOf F) op (goodLanes v.ex F err)

/-- The writes of the old values to D. -/
theorem returns_effect {v : View} (hv : v = s.view k g p x) {E : State} (h : NearEffect s E E k g p x []) (w : Bool) (m : Word) (old : Fin 32 → DWord) :
    NearEffect s E (if (if w then 8 else 4) = 8 then v.wrLater (v.wrLater E d.toNat m (lanesOf fun L => loWord (lanesOf old)[L])) (d.toNat + 1) m
        (lanesOf fun L => hiWord (lanesOf old)[L]) else v.wrLater E d.toNat m (lanesOf fun L => loWord (lanesOf old)[L]))
      k g p x (g.returns d.toNat w m old (uniformLanes 0#5)) := by
  have hlo : (lanesOf fun L => loWord (lanesOf old)[L]) = lanesOf fun L => (old L).setWidth 32 :=
    congrArg lanesOf (funext fun L => by rw [lanesOf_get, loWord_eq_setWidth])
  have hhi : (lanesOf fun L => hiWord (lanesOf old)[L]) = lanesOf fun L => (old L).extractLsb' 32 32 :=
    congrArg lanesOf (funext fun L => by rw [lanesOf_get]; rfl)
  rw [hlo, hhi]
  cases w
  · exact h.wrLater hv _ m _
  · exact (h.wrLater hv _ m _).wrLater hv _ m _

theorem atom_acts {b' : Reg} {b : BitVec 4} {i : Instr} {px : Pfx} {w ret : Bool} {src : List Nat} {op : LaneOp}
    (hy : (i, px, w, ret, src, op) ∈ g.nearAtomics x d a b' b) (hf : g.fences = [])
    (h : NearLanes s k g p (if w then 8 else 4) (fun L => g.seen a.toNat L + offset32 px) F err)
    (hbad : ∀ L : Fin 32, p.ex.getLsbD L = true → ∀ q, F L = some q → s.nearPoisoned q (if w then 8 else 4) = err L) :
    NearActs i s k g p px (a.toNat :: (src ++ if ret then wordOrPair w d.toNat else [])) (a.toNat :: src) (if w then 8 else 4)
      (fun L => g.seen a.toNat L + offset32 px) F err (atomEffect (s.view k g p px) (if w then 8 else 4) op F err)
      (if ret then g.returns d.toNat w (lanesMask (goodLanes p.ex F err)) (atomOlds (s.view k g p px) (if w then 8 else 4) op F err)
        (uniformLanes 0#5) else []) := by
  have hn : (if w then 8 else 4) ∣ 65536 := by cases w <;> norm_num
  obtain ⟨f, hexec, hop⟩ := nearAtomics_exec (s := s) (k := k) (p := p) hy
  have hgood := h.good hn
  have hframe := (foldl_lanes (atomStep_steps (s := (s.view k g p px).s) (k := k) (op := op) hgood)).1
  have holds : (lanesOf fun L => (kfind ((goodLanes p.ex F err).map fun L => (L, wordOf (laneOld (s.view k g p px).s (if w then 8 else 4) (placeOf F)
      (atomStep k (if w then 8 else 4) (placeOf F) op) (goodLanes p.ex F err) L))) L).getD 0#64) =
      lanesOf (atomOlds (s.view k g p px) (if w then 8 else 4) op F err) := by
    refine congrArg lanesOf (funext fun L => ?_)
    rw [kfind_map_lanes, atomOlds, atomOld]
    by_cases hL : L ∈ goodLanes p.ex F err
    · rw [if_pos hL]
      exact (if_pos hL).symm
    · rw [if_neg hL]
      exact (if_neg hL).symm
  have heffect := returns_effect (d := d) rfl (.of_frame hframe) w (lanesMask (goodLanes p.ex F err))
    (atomOlds (s.view k g p px) (if w then 8 else 4) op F err)
  rw [← dataRegs_eq]
  refine ⟨_, _, hexec, (fenced_unheld (v := s.view k g p px) hf .write _).trans (nearAccess_eq (v := s.view k g p px) view_naddr h.leads hbad h.ready _), ?_⟩
  dsimp only at hop ⊢
  rw [hop, map_lanes_fst]
  have hatoms := nearAtomics_eq (s := (s.view k g p px).s) (k := k) (n := if w then 8 else 4) (G := placeOf F) (op := op) (goodLanes_rising p.ex F err)
  have hk : (s.view k g p px).k = k := rfl
  have hx : (s.view k g p px).ex = p.ex := rfl
  rw [hk, hx, hatoms, ← hx]
  cases ret
  · exact .of_frame hframe
  · rw [if_pos rfl, if_pos rfl, hx, holds]
    exact heffect

end

end Sys2Proof.Machine

/-! Near atomics, loads and stores of lanes that all pass (O26, and the first half of O25). -/

namespace Sys2Proof.Machine

/-- Teams, and cores, that agree but for their bytes and errors, and whose errors are the same, agree but for their bytes. -/
theorem team_but_bytes {a b : Option Team}
    (h : a.map (fun x => { x with spad := [], spadBad := [] }) = b.map fun x => { x with spad := [], spadBad := [] })
    (hbad : a.map Team.spadBad = b.map Team.spadBad) : a.map (fun x => { x with spad := [] }) = b.map fun x => { x with spad := [] } := by
  cases a <;> cases b <;> simp only [Option.map_none, Option.map_some, Option.some.injEq, reduceCtorEq] at h hbad ⊢
  next x y => exact (congrArg (fun z : Team => { z with spadBad := x.spadBad }) h).trans (by rw [hbad])

theorem core_but_bytes {x y : Core} (h : { x with column := [], colBad := [] } = { y with column := [], colBad := [] }) (hbad : x.colBad = y.colBad) :
    { x with column := [] } = { y with column := [] } :=
  (congrArg (fun z : Core => { z with colBad := x.colBad }) h).trans (by rw [hbad])

section
variable {s E t u : State} {k : GKey} {g h : Group} {p : Path} {x : Pfx} {new : List PendWrite}

theorem NearEffect.rest_of_becomes {q : Group} (he : NearEffect s E t k g p x new) (hb : Becomes t u k q h) : u.rest = E.rest :=
  hb.rest.trans he.sets.rest

/-- After an effect without changes of errors, only group `k` and bytes of near memory are different. -/
theorem nearOnly_of_becomes (he : NearEffect s E t k g p x new) (herr : SameErrors (s.view k g p x).s E) (hb : Becomes t u k (g.onWith p x new) h) :
    NearOnly s u k g h p x new := by
  have hrest := he.rest_of_becomes hb
  have hteams : u.teams = E.teams := (congrArg State.teams hrest :)
  have hcores : u.cores = E.cores := (congrArg State.cores hrest :)
  obtain ⟨hbeside, hothers, hspads, hcolumns⟩ := he.apart hb.rest hb.others
  have hslot : t.slotW = s.slotW := (congrArg State.slotW (he.apart rfl fun _ _ => rfl).beside :)
  refine ⟨hb.found, hbeside, fun v => ?_, fun c => ?_, hothers, hb.group, hb.regs, hb.aflags, hb.cur, hslot ▸ hb.pend⟩
  · refine team_but_bytes (hspads v) ?_
    rw [hteams]
    exact herr.teams v
  · refine core_but_bytes (hcolumns c) ?_
    rw [State.core, hcores]
    exact herr.cores c

end

section
variable {s : State} {k : GKey} {g : Group} {p : Path} {a : Nat} {off : Word} {n : Nat} {F : Fin 32 → NearAt}

/-- No lane fails. -/
def allGood : Fin 32 → Bool := fun _ => false

theorem goodLanes_all (m : Word) : goodLanes m (some ∘ F) allGood = maskLanes m := List.filter_eq_self.2 fun _ _ => rfl

theorem badLanes_all (m : Word) : badLanes m (some ∘ F) allGood = [] := List.filter_eq_nil_iff.2 fun _ _ => Bool.false_ne_true

theorem placed_lanes (h : s.placed k g p a off n F) : NearLanes s k g p n (fun L => g.seen a L + off) (some ∘ F) allGood := by
  refine ⟨fun L hL => ?_, fun L hL q hq => ?_, fun L hL => ?_⟩
  · obtain ⟨halign, hplace, -⟩ := h L hL
    rw [if_pos halign, hplace]
    rfl
  · obtain ⟨-, -, -, -, hthere⟩ := h L hL
    exact Option.some.inj hq ▸ hthere
  · obtain ⟨-, -, -, hopen, -⟩ := h L (mem_goodLanes.1 hL).1
    exact hopen

theorem placed_sound (h : s.placed k g p a off n F) : ∀ L : Fin 32, p.ex.getLsbD L = true → ∀ q, (some ∘ F) L = some q →
    s.nearPoisoned q n = allGood L := by
  intro L hL q hq
  obtain ⟨-, -, hsound, -⟩ := h L hL
  exact Option.some.inj hq ▸ hsound

/-- In the state in which the instruction is counted, every lane's place is there and aligned. -/
theorem placed_good (h : s.placed k g p a off n F) (hn : n ∣ 65536) (x : Pfx) :
    ∀ L ∈ maskLanes p.ex, (s.view k g p x).s.hasPlace (F L) = true ∧ (F L).off % n = 0 :=
  fun L hL => (placed_lanes h).good hn L (by rwa [goodLanes_all])

/-- The bytes that no lane's place covers. -/
theorem foldl_lanes_elsewhere {x : Pfx} {u : State} {ls : List (Fin 32)} {G : Fin 32 → NearAt} {w : Fin 32 → List Byte → List Byte}
    {f : State → Fin 32 → State} (hf : ∀ L ∈ ls, ∀ t, NearFrame (s.view k g p x).s t → LaneStep n (G L) (w L) t (f t L))
    (hu : u.rest = (ls.foldl f (s.view k g p x).s).rest) {y : NearAt} (hy : s.hasPlace y = true) (hne : ∀ L ∈ ls, ∀ i < n, (G L).plus i ≠ y) :
    u.nearByte y = s.nearByte y := by
  obtain ⟨hframe, hbytes⟩ := foldl_lanes hf
  rw [nearByte_of_rest hu (hframe.hasPlace y ▸ hy), hbytes y hy hne]
  exact nearByte_view hy

theorem Chain.congr {m : Word} {before before' : Fin 32 → Option (Fin 32)} {there there' : Fin 32 → DWord} {op : LaneOp} {old new : Fin 32 → DWord}
    (h : Chain m n before there op old new) (hb : ∀ L : Fin 32, m.getLsbD L = true → before' L = before L)
    (ht : ∀ L : Fin 32, m.getLsbD L = true → there' L = there L) : Chain m n before' there' op old new :=
  ⟨fun L hL hnone => (h.first L hL (hb L hL ▸ hnone)).trans (ht L hL).symm, fun L M hL hsome => h.next L M hL (hb L hL ▸ hsome), h.made, h.idle⟩

end

/-- Settles O26: the operations one after the other are a chain, and near memory holds what the last lane at each place has left. -/
theorem nearAtomicsReadModifyWrite : Obligations.NearAtomicsReadModifyWrite := by
  unfold Obligations.NearAtomicsReadModifyWrite
  rintro s k g p hi hf x d a b' b ⟨i, px, w, ret, src, op⟩ hy
  dsimp only
  intro hr F hplaced
  have hn : (if w = true then 8 else 4) ≤ 8 := by cases w <;> decide
  have hdvd : (if w = true then 8 else 4) ∣ 65536 := by cases w <;> norm_num
  have hgood := placed_good hplaced hdvd px
  have hacts := atom_acts hy hf (placed_lanes hplaced) (placed_sound hplaced)
  obtain ⟨t, u, h, hu, he, hb⟩ := hacts.completes hi hr (badLanes_all p.ex)
  generalize (if w = true then 8 else 4) = n at hn hgood hplaced he hb ⊢
  have hE : atomEffect (s.view k g p px) n op (some ∘ F) allGood = (maskLanes p.ex).foldl (atomStep k n F op) (s.view k g p px).s := by
    rw [atomEffect, goodLanes_all]
    rfl
  have holds : atomOlds (s.view k g p px) n op (some ∘ F) allGood = atomOld (s.view k g p px).s k n F op (maskLanes p.ex) := by
    rw [atomOlds, goodLanes_all]
    rfl
  rw [hE, holds, goodLanes_all, lanesMask_maskLanes] at he
  rw [holds, goodLanes_all, lanesMask_maskLanes] at hb
  have hplace (L : Fin 32) (hL : p.ex.getLsbD L = true) : s.hasPlace (F L) = true := (hgood L (mem_maskLanes.2 hL)).1
  have hsteps := atomStep_steps (k := k) (op := op) hgood
  have hrest := he.rest_of_becomes hb
  have hchain := (atoms_chain (k := k) (op := op) hgood hn).congr (there' := fun L => BitVec.ofNat 64 (ofBytes (s.nearRead (F L) n)))
    (fun _ _ => rfl) fun L hL => by rw [nearRead_view (hplace L hL)]
  refine ⟨_, _, hchain, u, h, hu, nearOnly_of_becomes he (atomSteps_sameErrors hgood) hb, fun L hL hlast i hin => ?_, fun y hy hne => ?_⟩
  · rw [nearByte_of_rest hrest ((foldl_lanes hsteps).1.hasPlace _ ▸ (hasPlace_plus s (F L) i).trans (hplace L hL))]
    exact atoms_byte hgood hn (mem_maskLanes.2 hL) hlast hin
  · exact foldl_lanes_elsewhere hsteps hrest hy fun L hL => hne L (mem_maskLanes.1 hL)

end Sys2Proof.Machine

/-! Near loads and stores, and near accesses of which some lanes fail (O25). -/

namespace Sys2Proof.Machine

section
variable {s E t u : State} {k : GKey} {g h : Group} {p : Path} {x : Pfx}

/-- An effect that leaves the rest of the machine as it was is the group's alone. -/
theorem Becomes.of_rest {q : Group} (hb : Becomes t u k q h) (hrest : t.rest = s.rest) (hoth : ∀ j, j ≠ k → kfind t.groups j = kfind s.groups j) :
    Becomes s u k q h := by
  have hslot : t.slotW = s.slotW := (congrArg State.slotW hrest :)
  exact ⟨hb.found, hb.rest.trans hrest, fun j hj => (hb.others j hj).trans (hoth j hj), hb.group, hb.cur, hb.regs, hb.aflags, hslot ▸ hb.pend⟩

-- ## All lanes pass

theorem ldn_placed {d a : Reg} {z : BitVec 2} {F : Fin 32 → NearAt} (hi : Issuing s k g p) (hf : g.fences = [])
    (hplaced : s.placed k g p a.toNat (offset32 x) (accessBytes x z) F)
    (hr : Ready s k g p (a.toNat :: dataRegs d.toNat (accessBytes x z)) [a.toNat]) :
    ∃ t h, exec (.ldn x d a z) s = .next t ∧ Becomes s t k (g.onWith p x ((List.range ((accessBytes x z + 3) / 4)).map fun i =>
      { reg := g.wbasev + (d.toNat + i), mask := p.ex
        vals := lanesOf fun L => loadedWord (if p.ex.getLsbD L then s.nearRead (F L) (accessBytes x z) else []) i, left := none })) h := by
  obtain ⟨t, u, h, hu, he, hb⟩ := (ldn_acts hf (placed_lanes hplaced) (placed_sound hplaced)).completes hi hr (badLanes_all p.ex)
  have hbytes : loadedBytes s p.ex (accessBytes x z) (some ∘ F) allGood =
      fun L : Fin 32 => if p.ex.getLsbD L then s.nearRead (F L) (accessBytes x z) else [] := by
    funext L
    rw [loadedBytes, goodLanes_all]
    exact if_congr mem_maskLanes rfl rfl
  rw [hbytes, goodLanes_all, lanesMask_maskLanes] at hb
  exact ⟨u, h, hu, hb.of_rest he.sets.rest fun j hj => (he.sets.others j hj).trans (view_others x hj)⟩

theorem stn_placed {d a : Reg} {z : BitVec 2} {F : Fin 32 → NearAt} (hi : Issuing s k g p) (hf : g.fences = [])
    (hplaced : s.placed k g p a.toNat (offset32 x) (accessBytes x z) F)
    (hr : Ready s k g p (a.toNat :: dataRegs d.toNat (accessBytes x z)) (a.toNat :: dataRegs d.toNat (accessBytes x z))) :
    ∃ t h, exec (.stn x d a z) s = .next t ∧ NearOnly s t k g h p x [] ∧
      (∀ L : Fin 32, p.ex.getLsbD L = true → lastPlace p.ex F L = true → ∀ i < accessBytes x z,
        t.nearByte ((F L).plus i) = (g.seen (d.toNat + i / 4) L).extractLsb' (8 * (i % 4)) 8) ∧
      ∀ y : NearAt, s.hasPlace y = true → (∀ L : Fin 32, p.ex.getLsbD L = true → ∀ i < accessBytes x z, (F L).plus i ≠ y) →
        t.nearByte y = s.nearByte y := by
  have hsound := placed_sound hplaced
  have hbad : ∀ L : Fin 32, p.ex.getLsbD L = true → ∀ q, (some ∘ F) L = some q → (allGood L = true ↔
      ∃ u ∈ q.units (accessBytes x z), s.nearBad q u = true ∧ u ∉ wholeUnits (activePlaces p.ex (some ∘ F)) (accessBytes x z) q) := by
    refine fun L hL q hq => ⟨fun h => (nomatch h), fun ⟨u, hu, hb, _⟩ => ?_⟩
    exact hsound L hL q hq ▸ nearPoisoned_iff.2 ⟨u, hu, hb⟩
  have hgood := placed_good hplaced (accessBytes_dvd x z) x
  have hwords := accessBytes_words x z
  obtain ⟨t, u, h, hu, he, hb⟩ := (stn_acts (d := d) hf (placed_lanes hplaced) hbad).completes hi hr (badLanes_all p.ex)
  have hE : stnEffect (s.view k g p x) d.toNat (accessBytes x z) (some ∘ F) allGood = (maskLanes p.ex).foldl
      (stnStep (s.view k g p x) d.toNat (accessBytes x z) (activePlaces p.ex (some ∘ F)) F) (s.view k g p x).s := by
    rw [stnEffect, goodLanes_all]
    rfl
  rw [hE] at he
  have hsteps := stnStep_steps (v := s.view k g p x) (d := d.toNat) (places := activePlaces p.ex (some ∘ F)) hwords hgood
  have herr := stnSteps_sameErrors (v := s.view k g p x) (d := d.toNat) (places := activePlaces p.ex (some ∘ F)) hwords hgood
    fun L hL => hsound L (mem_maskLanes.1 hL) _ rfl
  have hrest := he.rest_of_becomes hb
  refine ⟨u, h, hu, nearOnly_of_becomes he herr hb, fun L hL hlast i hin => ?_, fun y hy hne => ?_⟩
  · rw [nearByte_of_rest hrest ((foldl_lanes hsteps).1.hasPlace _ ▸ (hasPlace_plus s (F L) i).trans (hgood L (mem_maskLanes.2 hL)).1)]
    exact stnSteps_byte hwords hgood (maskLanes_rising p.ex) (mem_maskLanes.2 hL) (lastPlace_iff.1 hlast) hin
  · exact foldl_lanes_elsewhere hsteps hrest hy fun L hL => hne L (mem_maskLanes.1 hL)

-- ## Some lanes fail

variable {n : Nat} {va : Fin 32 → Word} {F : Fin 32 → Option NearAt} {err : Fin 32 → Bool}

theorem getLsbD_good {m : Word} {L : Fin 32} : (m &&& ~~~lanesMask (badLanes m F err)).getLsbD L.val = true ↔ L ∈ goodLanes m F err := by
  rw [← mem_maskLanes, maskLanes_good]

/-- What an STN leaves when its failing lanes fault: no error in the others' units, the bytes of the last of them at each place, and every other byte. -/
theorem stn_effect {d : Nat} {z : BitVec 2} (hl : NearLanes s k g p (accessBytes x z) va F err)
    (hbad : ∀ L : Fin 32, p.ex.getLsbD L = true → ∀ q, F L = some q → (err L = true ↔
      ∃ u ∈ q.units (accessBytes x z), s.nearBad q u = true ∧ u ∉ wholeUnits (activePlaces p.ex F) (accessBytes x z) q))
    (hu : u.rest = (stnEffect (s.view k g p x) d (accessBytes x z) F err).rest) :
    (∀ (L : Fin 32) (q : NearAt), (p.ex &&& ~~~lanesMask (badLanes p.ex F err)).getLsbD L = true → F L = some q →
      (∀ v ∈ q.units (accessBytes x z), u.nearBad q v = false) ∧
      ((∀ M : Fin 32, L.val < M.val → (p.ex &&& ~~~lanesMask (badLanes p.ex F err)).getLsbD M = true → F M ≠ some q) →
        ∀ i < accessBytes x z, u.nearByte (q.plus i) = (g.seen (d + i / 4) L).extractLsb' (8 * (i % 4)) 8)) ∧
    ∀ y : NearAt, s.hasPlace y = true → (∀ (L : Fin 32) (r : NearAt), (p.ex &&& ~~~lanesMask (badLanes p.ex F err)).getLsbD L = true →
      F L = some r → ∀ i < accessBytes x z, r.plus i ≠ y) → u.nearByte y = s.nearByte y := by
  have hwords := accessBytes_words x z
  have hgood : ∀ L ∈ goodLanes p.ex F err, (s.view k g p x).s.hasPlace (placeOf F L) = true ∧ (placeOf F L).off % accessBytes x z = 0 :=
    hl.good (accessBytes_dvd x z)
  have hrise := goodLanes_rising p.ex F err
  have hsteps := stnStep_steps (v := s.view k g p x) (d := d) (places := activePlaces p.ex F) hwords hgood
  refine ⟨fun L q hL hq => ?_, fun y hy hne => ?_⟩
  · have hin := getLsbD_good.1 hL
    obtain ⟨hact, hplace, herr⟩ := mem_goodLanes.1 hin
    obtain rfl : placeOf F L = q := placeOf_eq hq
    refine ⟨fun v hv => ?_, fun hlast i hi => ?_⟩
    · rw [nearBad_of_rest hu]
      refine stnSteps_mends hwords hgood hrise (fun _ _ h => h) hin (fun v hv hb => ?_) v hv
      by_contra hpart
      exact Bool.false_ne_true (herr.symm.trans ((hbad L hact _ hplace).2 ⟨v, hv, hb, hpart⟩))
    · rw [nearByte_of_rest hu ((foldl_lanes hsteps).1.hasPlace _ ▸ (hasPlace_plus s _ i).trans (hgood L hin).1)]
      refine stnSteps_byte hwords hgood hrise hin (fun M hM hlt hsame => hlast M hlt (getLsbD_good.2 hM) ?_) hi
      rw [← hsame]
      exact (mem_goodLanes.1 hM).2.1
  · exact foldl_lanes_elsewhere hsteps hu hy fun L hL => hne L _ (getLsbD_good.2 hL) (mem_goodLanes.1 hL).2.1

theorem placeBefore_congr {m : Word} {G G' : Fin 32 → NearAt} (h : ∀ L : Fin 32, m.getLsbD L = true → G L = G' L) {L : Fin 32}
    (hL : m.getLsbD L = true) : placeBefore m G L = placeBefore m G' L := by
  unfold placeBefore
  refine congrArg _ (List.filter_congr fun M hM => ?_)
  rw [h L hL, h M (mem_maskLanes.1 hM)]

/-- What a near atomic leaves when its failing lanes fault: a chain of the others' operations, what the last of them at each place has left, and every
other byte. -/
theorem atom_effect {op : LaneOp} (hl : NearLanes s k g p n va F err) (hn : n ≤ 8) (hdvd : n ∣ 65536)
    (hu : u.rest = (atomEffect (s.view k g p x) n op F err).rest) :
    (∀ G : Fin 32 → NearAt, (∀ L : Fin 32, (p.ex &&& ~~~lanesMask (badLanes p.ex F err)).getLsbD L = true → F L = some (G L)) →
      ∃ post : Fin 32 → DWord,
        Chain (p.ex &&& ~~~lanesMask (badLanes p.ex F err)) n (placeBefore (p.ex &&& ~~~lanesMask (badLanes p.ex F err)) G)
          (fun L => BitVec.ofNat 64 (ofBytes (s.nearRead (G L) n))) op (atomOlds (s.view k g p x) n op F err) post ∧
        ∀ L : Fin 32, (p.ex &&& ~~~lanesMask (badLanes p.ex F err)).getLsbD L = true →
          lastPlace (p.ex &&& ~~~lanesMask (badLanes p.ex F err)) G L = true → ∀ i < n,
            u.nearByte ((G L).plus i) = (post L).extractLsb' (8 * i) 8) ∧
    ∀ y : NearAt, s.hasPlace y = true → (∀ (L : Fin 32) (r : NearAt), (p.ex &&& ~~~lanesMask (badLanes p.ex F err)).getLsbD L = true →
      F L = some r → ∀ i < n, r.plus i ≠ y) → u.nearByte y = s.nearByte y := by
  have hgood : ∀ L ∈ goodLanes p.ex F err, (s.view k g p x).s.hasPlace (placeOf F L) = true ∧ (placeOf F L).off % n = 0 := hl.good hdvd
  have hsteps := atomStep_steps (k := k) (op := op) hgood
  refine ⟨fun G hG => ?_, fun y hy hne => foldl_lanes_elsewhere hsteps hu hy fun L hL => hne L _ (getLsbD_good.2 hL) (mem_goodLanes.1 hL).2.1⟩
  have hsame : ∀ L : Fin 32, (p.ex &&& ~~~lanesMask (badLanes p.ex F err)).getLsbD L = true → placeOf F L = G L := fun L hL => placeOf_eq (hG L hL)
  have hE : atomEffect (s.view k g p x) n op F err = (maskLanes (p.ex &&& ~~~lanesMask (badLanes p.ex F err))).foldl
      (atomStep k n (placeOf F) op) (s.view k g p x).s := by
    rw [maskLanes_good]
    rfl
  have holds : atomOlds (s.view k g p x) n op F err =
      atomOld (s.view k g p x).s k n (placeOf F) op (maskLanes (p.ex &&& ~~~lanesMask (badLanes p.ex F err))) := by
    rw [maskLanes_good]
    rfl
  rw [hE] at hu
  rw [holds]
  rw [← maskLanes_good] at hgood hsteps
  generalize p.ex &&& ~~~lanesMask (badLanes p.ex F err) = m at *
  have hthere (L : Fin 32) (hL : m.getLsbD L = true) : s.hasPlace (G L) = true := hsame L hL ▸ (hgood L (mem_maskLanes.2 hL)).1
  refine ⟨_, (atoms_chain (k := k) (op := op) hgood hn).congr (fun L hL => (placeBefore_congr hsame hL).symm) fun L hL => ?_,
    fun L hL hlast i hi => ?_⟩
  · rw [hsame L hL, nearRead_view (hthere L hL)]
  · have hlast' : lastPlace m (placeOf F) L = true := by
      refine lastPlace_iff.2 fun M hM hlt => ?_
      rw [hsame L hL, hsame M (mem_maskLanes.1 hM)]
      exact lastPlace_iff.1 hlast M hM hlt
    rw [nearByte_of_rest hu ((foldl_lanes hsteps).1.hasPlace _ ▸ (hasPlace_plus s _ i).trans (hthere L hL)), ← hsame L hL]
    exact atoms_byte hgood hn (mem_maskLanes.2 hL) hlast' hi

/-- What a claim `does` about near memory says of every state that the effect leads to, it says of the state in which the failing lanes trap. -/
theorem NearActs.faults {i : Instr} {names reads : List Nat} {new : List PendWrite} (hi : Issuing s k g p) (hr : Ready s k g p names reads)
    (h : NearActs i s k g p x names reads n va F err E new) {does : State → List PendWrite → Prop}
    (hdoes : ∀ u, u.rest = E.rest → NearApart s u k → does u new) : ∀ L0 ∈ badLanes p.ex F err,
    (∀ L ∈ badLanes p.ex F err, nearRank n va F L0 ≤ nearRank n va F L ∧ (nearRank n va F L = nearRank n va F L0 → L0.val ≤ L.val)) →
    (lanesMask (badLanes p.ex F err) ≠ p.ex → 24 ≤ g.used → Traps i s k g p x { cause := .rsOverflow, lanes := p.ex }) ∧
    (lanesMask (badLanes p.ex F err) = p.ex ∨ g.used < 24 → ∃ (s2 : State) (h : Group) (new : List PendWrite),
      exec i s = .next ((s2.trap k p (p.pc + BitVec.ofNat 32 (pfxLen x)) (nearReq n va F (badLanes p.ex F err) L0)).stepped k g true) ∧
      s.cycle + 1 + s.slotW.toNat ≤ s2.cycle ∧ does s2 new ∧ kfind s2.groups k = some h ∧
      h.rest = g.rest ∧ h.cur = some p ∧ h.regs = g.regs ∧ h.aflags = g.aflags ∧ h.pend = g.pend ++ new) := by
  refine fun L0 h0 hmin => ⟨h.overflows h0 hmin hi hr, fun hfit => ?_⟩
  obtain ⟨u, q, hu, hcycle, hrest, hapart, hfound, hfacts⟩ := h.traps h0 hmin hi hr hfit
  exact ⟨u, q, new, hu, hcycle, hdoes u hrest hapart, hfound, hfacts⟩

/-- Without failing lanes the instruction goes on. -/
theorem NearActs.goes_on {i : Instr} {names reads : List Nat} (hi : Issuing s k g p) (hr : Ready s k g p names reads)
    (h : NearActs i s k g p x names reads n va F err E []) {does : State → List PendWrite → Prop}
    (hdoes : ∀ u, u.rest = E.rest → NearApart s u k → does u []) (hbad : badLanes p.ex F err = []) :
    ∃ t h, exec i s = .next t ∧ does t [] ∧ kfind t.groups k = some h ∧ h.rest = g.rest ∧ GoesOn h p (p.pc + BitVec.ofNat 32 (pfxLen x)) ∧
      h.regs = g.regs ∧ h.aflags = g.aflags ∧ h.pend = g.pend.map fun q => q.aged (1 + s.slotW.toNat) := by
  obtain ⟨t, u, q, hu, he, hb⟩ := h.completes hi hr hbad
  have hslot : t.slotW = s.slotW := (congrArg State.slotW (he.apart rfl fun _ _ => rfl).beside :)
  have hpend := hb.pend
  rw [hslot, Group.onWith, List.append_nil] at hpend
  exact ⟨u, q, hu, hdoes u (he.rest_of_becomes hb) (he.apart hb.rest hb.others), hb.found, hb.group, hb.cur, hb.regs, hb.aflags, hpend⟩

theorem nearAtomics_nodup (g : Group) (x : Pfx) (d a b' : Reg) (b : BitVec 4) : ((g.nearAtomics x d a b' b).map (·.1)).Nodup := by
  simp [Group.nearAtomics, integerOps]

theorem nearAtomics_not_ldn_stn {d a b' : Reg} {b : BitVec 4} {z : BitVec 2} : ∀ q ∈ g.nearAtomics x d a b' b,
    q.1 ≠ .ldn x d a z ∧ q.1 ≠ .stn x d a z := by
  simp [Group.nearAtomics, integerOps]

theorem NearApart.memory (h : NearApart s u k) : u.mem = s.mem ∧ u.writes = s.writes ∧ (∀ j, j ≠ k → kfind u.groups j = kfind s.groups j) ∧
    (∀ v, (kfind u.teams v).map (fun x => { x with spad := [], spadBad := [] }) = (kfind s.teams v).map fun x => { x with spad := [], spadBad := [] }) ∧
    ∀ c, { u.core c with column := [], colBad := [] } = { s.core c with column := [], colBad := [] } :=
  ⟨(congrArg State.mem h.beside :), (congrArg State.writes h.beside :), h.others, h.teams, h.cores⟩

end

/-- A unit is not overwritten as a whole where some byte of it is no active lane's. -/
theorem not_mem_wholeUnits {m : Word} {F : Fin 32 → Option NearAt} {n : Nat} {q : NearAt} {u : Nat} (hu : u ∈ q.units n) :
    u ∉ wholeUnits (activePlaces m F) n q ↔
      ∃ e ∈ q.unitBytes u, ∀ M : Fin 32, m.getLsbD M = true → ∀ r, F M = some r → ∀ i < n, r.plus i ≠ e := by
  rw [mem_wholeUnits, not_and]
  simp only [hu, true_imp_iff, not_forall, not_exists, not_and, mem_activePlaces, forall_exists_index, and_imp, exists_prop]
  exact exists_congr fun e => and_congr_right fun _ => forall_comm.trans (forall_congr' fun M => forall_comm)

/-- What an LDN sends whose lanes have read some bytes. -/
def ldnWrites (g : Group) (d n : Nat) (m : Word) (f : Fin 32 → List Byte) : List PendWrite :=
  (List.range ((n + 3) / 4)).map fun i =>
    { reg := g.wbasev + (d + i), mask := m, vals := lanesOf fun L => loadedWord (f L) i, left := none }

theorem ldnWrites_good {s : State} {g : Group} {m : Word} {d n : Nat} {F : Fin 32 → Option NearAt} {err : Fin 32 → Bool} {f : Fin 32 → List Byte}
    (hgood : ∀ L ∈ goodLanes m F err, f L = s.nearRead (placeOf F L) n) (hrest : ∀ L ∉ goodLanes m F err, f L = []) :
    ldnWrites g d n (lanesMask (goodLanes m F err)) (loadedBytes s m n F err) = ldnWrites g d n (m &&& ~~~lanesMask (badLanes m F err)) f := by
  have hf : loadedBytes s m n F err = f := by
    funext L
    rw [loadedBytes]
    split
    next hL => exact (hgood L hL).symm
    next hL => exact (hrest L hL).symm
  rw [hf, lanesMask_good]

section
variable {s : State} {k : GKey} {g : Group} {p : Path} {n : Nat} {va : Fin 32 → Word} {F : Fin 32 → Option NearAt} {err : Fin 32 → Bool}
  {bad : NearAt → Nat → Prop}
  (hl : ∀ L : Fin 32, p.ex.getLsbD L = true → ∀ q, F L = some q → s.hasPlace q = true ∧ (err L = false → s.nearStalled q = false) ∧
    (err L = true ↔ ∃ u ∈ q.units n, s.nearBad q u = true ∧ bad q u))

include hl

theorem nearLanes_of_checks
    (hleads : ∀ L : Fin 32, p.ex.getLsbD L = true → F L = if (va L).toNat % n = 0 then s.nearDecode k.tkey g.mode (va L).toNat n else none) :
    NearLanes s k g p n va F err := by
  refine ⟨hleads, fun L hL q hq => (hl L hL q hq).1, fun L hL => ?_⟩
  obtain ⟨hact, hplace, herr⟩ := mem_goodLanes.1 hL
  obtain ⟨-, hready, -⟩ := hl L hact _ hplace
  exact hready herr

/-- Where every error counts, a lane fails that meets one. -/
theorem nearPoisoned_of_checks (hany : ∀ q u, bad q u) :
    ∀ L : Fin 32, p.ex.getLsbD L = true → ∀ q, F L = some q → s.nearPoisoned q n = err L := by
  intro L hL q hq
  obtain ⟨-, -, herr⟩ := hl L hL q hq
  rw [Bool.eq_iff_iff, nearPoisoned_iff, herr]
  exact exists_congr fun u => and_congr_right fun _ => (and_iff_left (hany q u)).symm

end

/-- Settles O25: the lanes that do not fail make their accesses one after the other; the others fault, or the trap finds the stack full. -/
theorem nearLoadsAndStores : Obligations.NearLoadsAndStores := by
  unfold Obligations.NearLoadsAndStores
  refine ⟨?_, ?_⟩
  · intro s k g p hi hf x d a z n F hplaced
    exact ⟨ldn_placed hi hf hplaced, stn_placed hi hf hplaced⟩
  · intro s k g p hi hf x d a b' b z n y hy
    rcases List.mem_append.1 hy with hy | hy
    · simp only [List.mem_cons, List.not_mem_nil, or_false] at hy
      rcases hy with rfl | rfl
      · intro n px va hr F err hleads kept hl rank bad m does
        have hacts := ldn_acts (d := d) hf (nearLanes_of_checks hl hleads) (nearPoisoned_of_checks hl fun q u h => nomatch h)
        have hdoes : ∀ u, u.rest = (s.view k g p x).s.rest → NearApart s u k →
            does u (ldnWrites g d.toNat n (lanesMask (goodLanes p.ex F err)) (loadedBytes s p.ex n F err)) := by
          intro u hu hapart
          refine ⟨fun _ => ldnWrites_good (fun L hL => ?_) fun L hL => ?_, fun h => (nomatch h),
            fun q hq h => absurd h.symm (nearAtomics_not_ldn_stn q hq).1, fun q hq _ => (nearByte_of_rest hu hq).trans (nearByte_view hq),
            hapart.memory⟩
          · rw [show m.getLsbD L = true from getLsbD_good.2 hL, (mem_goodLanes.1 hL).2.1]
          · rw [show m.getLsbD L = false from Bool.eq_false_iff.2 fun h => hL (getLsbD_good.1 h)]
        clear_value does
        exact ⟨fun _ h => (nomatch h), hacts.faults hi hr hdoes⟩
      · intro n px va hr F err hleads kept hl rank bad m does
        have hbad : ∀ L : Fin 32, p.ex.getLsbD L = true → ∀ q, F L = some q → (err L = true ↔
            ∃ u ∈ q.units (accessBytes x z), s.nearBad q u = true ∧ u ∉ wholeUnits (activePlaces p.ex F) (accessBytes x z) q) :=
          fun L hL q hq => (hl L hL q hq).2.2.trans (exists_congr fun u => and_congr_right fun hu => and_congr_right fun _ =>
            (forall_prop_of_true rfl).trans (not_mem_wholeUnits hu).symm)
        have hacts := stn_acts (d := d) hf (nearLanes_of_checks hl hleads) hbad
        have hdoes : ∀ u, u.rest = (stnEffect (s.view k g p x) d.toNat (accessBytes x z) F err).rest → NearApart s u k → does u [] := by
          intro u hu hapart
          obtain ⟨hwritten, hother⟩ := stn_effect (nearLanes_of_checks hl hleads) hbad hu
          exact ⟨fun h => (nomatch h), fun _ => ⟨rfl, hwritten⟩, fun q hq h => absurd h.symm (nearAtomics_not_ldn_stn q hq).2,
            fun q hq hne => hother q hq (hne.resolve_left fun h => (nomatch h)), hapart.memory⟩
        clear_value does
        exact ⟨fun hnone _ => hacts.goes_on hi hr hdoes hnone, hacts.faults hi hr hdoes⟩
    · obtain ⟨⟨i, px, w, ret, src, op⟩, hin, rfl⟩ := List.mem_map.1 hy
      intro n px va hr F err hleads kept hl rank bad m does
      have hne := nearAtomics_not_ldn_stn (z := z) _ hin
      have hacts := atom_acts hin hf (nearLanes_of_checks hl hleads) (nearPoisoned_of_checks hl fun q u h => absurd h hne.2)
      have hdoes : ∀ u, u.rest = (atomEffect (s.view k g p px) n op F err).rest → NearApart s u k → does u
          (if ret then g.returns d.toNat w (lanesMask (goodLanes p.ex F err)) (atomOlds (s.view k g p px) n op F err) (uniformLanes 0#5) else []) := by
        intro u hu hapart
        obtain ⟨hchain, hother⟩ := atom_effect (nearLanes_of_checks hl hleads) (show n ≤ 8 by simp only [n]; split <;> omega)
          (show n ∣ 65536 by simp only [n]; split <;> norm_num) hu
        refine ⟨fun h => absurd h hne.1, fun h => absurd h hne.2, fun q hq h G hG => ?_,
          fun q hq hnone => hother q hq (hnone.resolve_left hne.1), hapart.memory⟩
        obtain rfl := List.inj_on_of_nodup_map (nearAtomics_nodup g x d a b' b) hin hq h
        obtain ⟨post, hpost, hbytes⟩ := hchain G hG
        refine ⟨_, post, hpost, ?_, hbytes⟩
        rw [lanesMask_good]
        rfl
      clear_value does
      exact ⟨fun _ h => absurd h hne.2, hacts.faults hi hr hdoes⟩

end Sys2Proof.Machine

/-! Ring steps: what a step's moves, answers and ends leave (R154, R155). -/

namespace Sys2Proof.Machine

-- ## What the end of a team leaves of the others

/-- From `s` to `t` the ring steps and every group's writes on their way stay, and the teams that are left keep their scratchpads. -/
structure RingKeeps (s t : State) : Prop where
  rings : t.rings = s.rings
  pend  : ∀ k, (kfind t.groups k).map Group.pend = (kfind s.groups k).map Group.pend
  spad  : ∀ u x, kfind t.teams u = some x → ∃ y, kfind s.teams u = some y ∧ y.spad = x.spad

theorem RingKeeps.refl (s : State) : RingKeeps s s := ⟨rfl, fun _ => rfl, fun _ x h => ⟨x, h, rfl⟩⟩

theorem RingKeeps.trans {s t u : State} (a : RingKeeps s t) (b : RingKeeps t u) : RingKeeps s u := by
  refine ⟨b.rings.trans a.rings, fun k => (b.pend k).trans (a.pend k), fun v x h => ?_⟩
  obtain ⟨y, hy, hxy⟩ := b.spad v x h
  obtain ⟨z, hz, hyz⟩ := a.spad v y hy
  exact ⟨z, hz, hyz.trans hxy⟩

theorem RingKeeps.foldl {α : Type} {f : State → α → State} (h : ∀ s x, RingKeeps s (f s x)) (l : List α) (s : State) : RingKeeps s (l.foldl f s) := by
  induction l generalizing s with
  | nil => exact .refl s
  | cons x l ih => exact (h s x).trans (ih _)

/-- A state with the same ring steps, groups and teams. -/
theorem RingKeeps.of_eq {s t : State} (hr : t.rings = s.rings) (hg : t.groups = s.groups) (ht : t.teams = s.teams) : RingKeeps s t :=
  ⟨hr, fun _ => by rw [hg], fun _ x h => ⟨x, ht ▸ h, rfl⟩⟩

theorem modTeam_ringKeeps (s : State) (t : TKey) {f : Team → Team} (hf : ∀ x, (f x).spad = x.spad) : RingKeeps s (s.modTeam t f) := by
  cases ht : kfind s.teams t with
  | none =>
    rw [State.modTeam, ht]
    exact .refl s
  | some y =>
    rw [modTeam_found ht]
    refine ⟨rfl, fun _ => rfl, fun u x hx => ?_⟩
    rw [kfind_setTeam] at hx
    split at hx
    next e =>
      cases hx
      exact ⟨y, e ▸ ht, (hf y).symm⟩
    next => exact ⟨x, hx, rfl⟩

theorem modGrid_ringKeeps (s : State) (n : Nat) (f : Grid → Grid) : RingKeeps s (s.modGrid n f) := by
  unfold State.modGrid
  split
  · exact .refl s
  · exact .of_eq rfl rfl rfl

/-- A change of groups in their places that keeps the writes on their way. -/
theorem kfind_map_pend {f : GKey × Group → GKey × Group} (hkey : ∀ x, (f x).1 = x.1) (hpend : ∀ x, (f x).2.pend = x.2.pend) (m : KMap GKey Group)
    (k : GKey) : (kfind (m.map f) k).map Group.pend = (kfind m k).map Group.pend := by
  induction m with
  | nil => rfl
  | cons x m ih =>
    obtain ⟨j, g⟩ := x
    have hj : (f (j, g)).1 = j := hkey _
    simp only [List.map_cons, kfind, hj]
    split
    · exact congrArg some (hpend _)
    · exact ih

theorem openBarrier_ringKeeps (s : State) (t : TKey) (which : Nat) : RingKeeps s (s.openBarrier t which) := by
  refine ⟨rfl, kfind_map_pend (fun x => ?_) (fun x => ?_) s.groups, fun u x h => ⟨x, h, rfl⟩⟩
  · split <;> rfl
  · split
    · simp only [Group.endWaits, Group.setArrived]
      split <;> rfl
    · rfl

theorem checkClusterBarrier_ringKeeps (s : State) (t : TKey) : RingKeeps s (s.checkClusterBarrier t) := by
  unfold State.checkClusterBarrier
  dsimp only
  split
  · refine .foldl (fun s u => ?_) _ s
    refine RingKeeps.trans ?_ (openBarrier_ringKeeps _ u 1)
    exact modTeam_ringKeeps s u fun _ => rfl
  · exact .refl s

theorem checkGridBarrier_ringKeeps (s : State) (slot : Nat) : RingKeeps s (s.checkGridBarrier slot) := by
  unfold State.checkGridBarrier
  dsimp only
  split
  · exact .refl s
  · split
    · exact (modGrid_ringKeeps s slot _).trans (.foldl (fun s u => openBarrier_ringKeeps s _ 2) _ _)
    · exact .refl s

theorem leaveTeam_ringKeeps (s : State) (t : TKey) : RingKeeps s (s.leaveTeam t) := by
  have hcarry (u : State) (c : Nat) : RingKeeps u ((List.range 4).foldl (fun s p => s.dropCarry c p) u) := by
    refine .foldl (fun s p => ?_) _ u
    exact .of_eq rfl rfl rfl
  have hbeam (u : State) (c : Nat) : RingKeeps u (u.releaseBeam c) := by
    unfold State.releaseBeam
    dsimp only
    split
    · exact .refl u
    · have hparts : RingKeeps u ((List.range 4).foldl (fun s p => (s.modPart c p fun x => { x with fifo := [], doomed := x.transit.length }).modPart
          (twinOf c) p fun x => { x with returning := x.returning + (s.part c p).fifo.length }) u) := by
        refine .foldl (fun s p => ?_) _ u
        exact .of_eq rfl rfl rfl
      split
      · exact hparts
      · exact hparts.trans (.of_eq rfl rfl rfl)
  have hlicence (u : State) (c : Nat) (x : Team) : RingKeeps u (u.dropLicence c x) := by
    unfold State.dropLicence
    split
    · exact .refl u
    · exact .of_eq rfl rfl rfl
  unfold State.leaveTeam
  refine RingKeeps.trans ?_ (hlicence _ _ _)
  refine RingKeeps.trans ?_ (hbeam _ _)
  refine RingKeeps.trans ?_ (hcarry _ _)
  exact modTeam_ringKeeps s t fun _ => rfl

theorem ite_ringKeeps {s a b : State} {c : Prop} [Decidable c] (ha : RingKeeps s a) (hb : RingKeeps s b) : RingKeeps s (if c then a else b) := by
  split
  · exact ha
  · exact hb

theorem bounds_ringKeeps {s t : State} (h : RingKeeps s t) (b : KMap (Nat × Nat × Nat) Bound) : RingKeeps s { t with bounds := b } :=
  ⟨h.rings, h.pend, h.spad⟩

theorem unlisted_ringKeeps {s u : State} (h : RingKeeps s u) (t : TKey) : RingKeeps s { u with teams := kdel u.teams t } := by
  refine h.trans ⟨rfl, fun _ => rfl, fun v x hx => ⟨x, ?_, rfl⟩⟩
  rw [kfind_kdel] at hx
  split at hx
  · cases hx
  · exact hx

theorem releaseTeam_ringKeeps (s : State) (t : TKey) : RingKeeps s (s.releaseTeam t) := by
  unfold State.releaseTeam
  dsimp only
  refine RingKeeps.trans ?_ (checkGridBarrier_ringKeeps _ t.slot)
  refine RingKeeps.trans ?_ (checkClusterBarrier_ringKeeps _ t)
  refine ite_ringKeeps (bounds_ringKeeps ?_ _) ?_
  · refine RingKeeps.trans ?_ (modGrid_ringKeeps _ t.slot _)
    exact ite_ringKeeps (unlisted_ringKeeps (.refl s) t) (unlisted_ringKeeps (leaveTeam_ringKeeps s t) t)
  · refine RingKeeps.trans ?_ (modGrid_ringKeeps _ t.slot _)
    exact ite_ringKeeps (unlisted_ringKeeps (.refl s) t) (unlisted_ringKeeps (leaveTeam_ringKeeps s t) t)

theorem endTeamIfDone_ringKeeps (s : State) (t : TKey) : RingKeeps s (s.endTeamIfDone t) := by
  have hleft : RingKeeps s (if (s.team t).gone then s else s.leaveTeam t) := ite_ringKeeps (.refl s) (leaveTeam_ringKeeps s t)
  unfold State.endTeamIfDone
  dsimp only
  refine ite_ringKeeps (ite_ringKeeps ?_ (RingKeeps.trans ?_ (releaseTeam_ringKeeps _ t))) (.refl s)
  · refine ite_ringKeeps hleft (RingKeeps.trans hleft ?_)
    exact modTeam_ringKeeps _ t fun _ => rfl
  · refine ite_ringKeeps hleft (RingKeeps.trans hleft ?_)
    exact modTeam_ringKeeps _ t fun _ => rfl

end Sys2Proof.Machine

/-! RROT and the ring steps (R154, R155). -/

namespace Sys2Proof.Machine

-- ## RROT

section
variable {s : State} {k : GKey} {g : Group} {p : Path} {d a b : Reg} {x : Team}

/-- Only a FENCE.ASYNC holds an asynchronous operation (R233). -/
theorem fenced_async {v : View} (h : ∀ f ∈ v.g.fences, f.kind ≠ 4) (body : View → Res) : v.fenced .async body = body v := by
  have hacquire : (v.g.fences.any (·.acquires .async)) = false := List.any_eq_false.2 fun f _ => by simp [FenceRec.acquires]
  have hhold : v.g.fences.filter (·.holds .async) = [] := List.filter_eq_nil_iff.2 fun f hf => by simpa [FenceRec.holds] using h f hf
  simp [View.fenced, hacquire, hhold]

/-- The faults of RROT leave no others. -/
theorem rrotFault_none {src dst len : Word} {n : Nat} (hsrc : src.toNat % 128 = 0) (hdst : dst.toNat % 128 = 0) (hlen : len.toNat % 128 = 0)
    (hpos : 0 < len.toNat) (hmax : len.toNat ≤ 65536) (hs : src.toNat < 2 ^ 31) (hd : dst.toNat < 2 ^ 31) (hsn : src.toNat + len.toNat ≤ n)
    (hdn : dst.toNat + len.toNat ≤ n) : rrotFault src dst len n = none := by
  have hbit (w : Word) (h : w.toNat < 2 ^ 31) : w.getLsbD 31 = false := by
    rw [BitVec.getLsbD, Nat.testBit_lt_two_pow h]
  have hzero : len ≠ 0#32 := fun h => by simp [h] at hpos
  simp only [rrotFault, hsrc, hdst, hlen, hzero, hbit _ hs, hbit _ hd, Nat.not_lt.2 hmax, Nat.not_lt.2 hsn, Nat.not_lt.2 hdn, ne_eq, not_true_eq_false,
    decide_false, Bool.or_self, Bool.false_eq_true, if_false]

/-- The step that RROT issues. -/
def ringIssued (s : State) (k : GKey) (g : Group) (p : Path) (a b : Nat) (x : Team) : RingStep :=
  { team := k.tkey, step := x.ringN, src := (g.seen a (lowestLane p.ex)).toNat, dst := (g.seen (a + 1) (lowestLane p.ex)).toNat
    len := (g.seen b (lowestLane p.ex)).toNat, key := k, token := s.fresh, sent := none }

/-- The machine with one more ring step, of a team whose count of them rises. -/
def State.addRing (s : State) (t : TKey) (x : Team) (r : RingStep) : State :=
  { s with fresh := s.fresh + 1, rings := s.rings ++ [r], teams := kput s.teams t { x with ringN := x.ringN + 1#32 } }

theorem addRing_sets (p : Path) (t : TKey) (r : RingStep) : Sets (s.addRing t x r) ((s.view k g p none).s.addRing t x r) k (g.counted s.issued) :=
  ⟨view_found (p := p) none, rfl, fun _ hj => view_others (g := g) (p := p) none hj⟩

/-- The write of its status that RROT sends, which waits for the step's end. -/
def ringWrite (s : State) (g : Group) (p : Path) (d : Nat) : PendWrite :=
  { reg := g.wbasev + d, mask := p.ex, vals := uniformLanes 0#32, left := none, await := some (s.fresh, p.ex) }

theorem wrAwait_sets {v : View} {E t : State} {q : Group} (h : Sets E t v.k q) (r : Nat) (m : Word) (token : Nat) :
    Sets E (v.wrAwait t r m token) v.k (q.writeLater
      { reg := v.g.wbasev + r, mask := m, vals := uniformLanes 0#32, left := none, await := some (token, m) }) := h.modGroup _

theorem sooner_sets {E t : State} {q : Group} (h : Sets E t k q) (ds : List Due) : Sets E (t.sooner ds) k q := ⟨h.found, h.rest, h.others⟩

theorem rrot_issues (hi : Issuing s k g p)
    (hr : Ready s k g p (d.toNat :: b.toNat :: pairRegs a.toNat) (b.toNat :: pairRegs a.toNat)) (hf : ∀ f ∈ g.fences, f.kind ≠ 4)
    (hx : kfind s.teams k.tkey = some x) (hfault : rrotFault (g.seen a.toNat (lowestLane p.ex)) (g.seen (a.toNat + 1) (lowestLane p.ex))
      (g.seen b.toNat (lowestLane p.ex)) x.spBytes = none) :
    ∃ t h, exec (.rrot d a b) s = .next t ∧ Becomes (s.addRing k.tkey x (ringIssued s k g p a.toNat b.toNat x)) t k
      (g.onWith p none [ringWrite s g p d.toNat]) h := by
  have hteam : (s.view k g p none).team = x := team_found hx
  have hmod : ({ (s.view k g p none).s with
      fresh := s.fresh + 1, rings := s.rings ++ [ringIssued s k g p a.toNat b.toNat x] } : State).modTeam k.tkey
        (fun x => { x with ringN := x.ringN + 1#32 }) = (s.view k g p none).s.addRing k.tkey x (ringIssued s k g p a.toNat b.toNat x) :=
    modTeam_found (s := { (s.view k g p none).s with
      fresh := s.fresh + 1, rings := s.rings ++ [ringIssued s k g p a.toNat b.toNat x] }) hx _
  have hsets := wrAwait_sets (v := s.view k g p none) (addRing_sets (s := s) (k := k) (g := g) (x := x) p k.tkey
    (ringIssued s k g p a.toNat b.toNat x)) d.toNat p.ex s.fresh
  have hfault' : rrotFault ((s.view k g p none).rd a.toNat)[(s.view k g p none).f] ((s.view k g p none).rd (a.toNat + 1))[(s.view k g p none).f]
      ((s.view k g p none).rd b.toNat)[(s.view k g p none).f] (s.view k g p none).team.spBytes = none := by
    rw [hteam]
    exact hfault
  rw [exec_rrot, execRrot]
  have hdone : Sets (s.addRing k.tkey x (ringIssued s k g p a.toNat b.toNat x))
      (if (s.record k.tkey).clusterSize = 1 then
        ((s.view k g p none).wrAwait ((s.view k g p none).s.addRing k.tkey x (ringIssued s k g p a.toNat b.toNat x)) d.toNat p.ex s.fresh).sooner
          [⟨.ringStepStart, { key := k, n := x.ringN.toNat }⟩, ⟨.ringStepComplete, { key := k, n := x.ringN.toNat }⟩]
      else (s.view k g p none).wrAwait ((s.view k g p none).s.addRing k.tkey x (ringIssued s k g p a.toNat b.toNat x)) d.toNat p.ex s.fresh) k
      ((g.counted s.issued).writeLater (ringWrite s g p d.toNat)) := by
    split
    · exact sooner_sets hsets _
    · exact hsets
  refine ok_becomes (q := g.writeLater (ringWrite s g p d.toNat)) hi
    { names := d.toNat :: b.toNat :: pairRegs a.toNat, reads := b.toNat :: pairRegs a.toNat, oneBeat := true } rfl hr rfl rfl rfl
    (by simp [Uniform]) (by simp) ?_ hdone rfl
  dsimp only
  simp only [hfault']
  rw [fenced_async hf, ← hmod]
  simp only [hteam]
  by_cases hone : (s.record k.tkey).clusterSize = 1
  · rw [if_pos hone]
    exact if_pos hone
  · rw [if_neg hone]
    exact if_neg hone

end

-- ## The start of a step (R155)

theorem find?_step {rings : List RingStep} {u : TKey} {n : Nat} {r : RingStep} (h : rings.find? (fun r => r.team = u && r.step.toNat = n) = some r) :
    r.team = u ∧ r.step.toNat = n := by
  simpa using List.find?_some h

theorem ringStepStart_step (s : State)
    (hall : ∀ u ∈ s.clusterTeams s.ev.key.tkey, s.isResident u = true ∧ ∃ r ∈ s.rings, r.team = u ∧ r.step.toNat = s.ev.n) :
    ∃ t, exec .ringStepStart s = .next t ∧ { t with rings := [] } = { s with rings := [] } ∧
      ∀ r ∈ s.rings, r.team ∈ s.clusterTeams s.ev.key.tkey → r.step.toNat = s.ev.n → r.sent = none →
        ∃ bad, { r with sent := some (s.nearRead (.spad r.team r.src) r.len, bad) } ∈ t.rings := by
  have hissued : ((s.ringSteps s.ev.key.tkey s.ev.n).all (·.isSome) && (s.clusterTeams s.ev.key.tkey).all s.isResident) = true := by
    simp only [State.ringSteps, Bool.and_eq_true, List.all_eq_true, List.mem_map, forall_exists_index, and_imp, forall_apply_eq_imp_iff₂,
      List.find?_isSome]
    exact ⟨fun u hu => (hall u hu).2.imp fun r hr => by simpa using hr, fun u hu => (hall u hu).1⟩
  refine ⟨_, (if_pos hissued : execRingStepStart s = _), rfl, fun r hr hteam hstep hsent =>
    ⟨(s.team r.team).spadBad.filterMap fun u => if r.src ≤ 4 * u && 4 * u < r.src + r.len then some (u - r.src / 4) else none,
      List.mem_map.2 ⟨r, hr, ?_⟩⟩⟩
  exact if_pos (by simp [hteam, hstep, hsent])

-- ## Answers

/-- A result that waits, answered in every lane. -/
def PendWrite.answered (q : PendWrite) (code : Word) : PendWrite := { q with vals := uniformLanes code, await := none }

theorem answer_waiting {q : PendWrite} {token : Nat} {m code : Word} (h : q.await = some (token, m)) :
    q.answer token 0xFFFFFFFF#32 (uniformLanes code) = q.answered code := by
  have hmerge : mergeLanes 0xFFFFFFFF#32 (uniformLanes code) q.vals = uniformLanes code := by
    refine Vector.ext fun i hi => ?_
    have hlane : (0xFFFFFFFF#32).getLsbD i = true := by interval_cases i <;> rfl
    simp [mergeLanes, uniformLanes, hlane]
  simp [PendWrite.answer, h, hmerge, PendWrite.answered]

theorem answer_other {q : PendWrite} {token token' : Nat} {m : Word} (h : q.await = some (token', m)) (hne : token' ≠ token) (lanes : Word)
    (vals : Lanes Word) : q.answer token lanes vals = q := by
  simp [PendWrite.answer, h, hne]

theorem answer_answered (q : PendWrite) (code : Word) (token : Nat) (lanes : Word) (vals : Lanes Word) :
    (q.answered code).answer token lanes vals = q.answered code := rfl

theorem answerAll_pend (s : State) (k j : GKey) (token : Nat) (code : Word) : (kfind (s.answerAll k token code).groups j).map Group.pend =
    if j = k then (kfind s.groups j).map fun g => g.pend.map (PendWrite.answer token 0xFFFFFFFF#32 (uniformLanes code))
    else (kfind s.groups j).map Group.pend := by
  unfold State.answerAll
  split
  next e =>
    subst e
    cases hk : kfind s.groups j with
    | none => simp [State.modGroup, hk]
    | some g => simp [modGroup_found hk, Group.answer]
  next e => rw [modGroup_others _ e]

/-- A group's list of writes on their way holds one of them. -/
def Sending (s : State) (k : GKey) (q : PendWrite) : Prop := ∃ l, (kfind s.groups k).map Group.pend = some l ∧ q ∈ l

theorem Sending.answerAll {s : State} {j : GKey} {q : PendWrite} (h : Sending s j q) (k : GKey) (token : Nat) (code : Word) :
    Sending (s.answerAll k token code) j (if j = k then q.answer token 0xFFFFFFFF#32 (uniformLanes code) else q) := by
  obtain ⟨l, hl, hq⟩ := h
  obtain ⟨g, hg, rfl⟩ := Option.map_eq_some_iff.1 hl
  rw [Sending, answerAll_pend, hg]
  split
  · exact ⟨_, rfl, List.mem_map_of_mem hq⟩
  · exact ⟨_, rfl, hq⟩

/-- A step's answers, all with one code, reach every result that waits for one of them. -/
theorem answers_sending {code : Word} {q : PendWrite} {token : Nat} {m : Word} {k : GKey} (hq : q.await = some (token, m)) (rs : List RingStep)
    {s : State} (h : Sending s k q) {r : RingStep} (hr : r ∈ rs) (hk : r.key = k) (ht : r.token = token) :
    Sending (rs.foldl (fun s r => s.answerAll r.key r.token code) s) k (q.answered code) := by
  have later : ∀ (rs : List RingStep) (s : State), Sending s k (q.answered code) →
      Sending (rs.foldl (fun s r => s.answerAll r.key r.token code) s) k (q.answered code) := by
    intro rs
    induction rs with
    | nil => exact fun _ h => h
    | cons r rs ih =>
      intro s h
      have hstep := h.answerAll r.key r.token code
      rw [answer_answered, ite_self] at hstep
      exact ih _ hstep
  induction rs generalizing s with
  | nil => simp at hr
  | cons r' rs ih =>
    have hstep := h.answerAll r'.key r'.token code
    by_cases hhit : k = r'.key ∧ token = r'.token
    · rw [if_pos hhit.1, answer_waiting (hhit.2 ▸ hq)] at hstep
      exact later rs _ hstep
    · have hsame : (if k = r'.key then q.answer r'.token 0xFFFFFFFF#32 (uniformLanes code) else q) = q := by
        split
        next e => exact answer_other hq (fun e' => hhit ⟨e, e'⟩) _ _
        next => rfl
      rw [hsame] at hstep
      refine ih hstep ((List.mem_cons.1 hr).resolve_left fun e => hhit ?_)
      rw [← e]
      exact ⟨hk.symm, ht.symm⟩

-- ## The end of a step

/-- What the end of a step does once its bytes have moved: it takes the steps away, answers with the code, and ends teams that are done. -/
def State.ringEnds (s : State) (t : TKey) (here : List RingStep) (code : Word) : State :=
  (s.clusterTeams t).foldl (fun s u => s.endTeamIfDone u)
    (here.foldl (fun s r => s.answerAll r.key r.token code) { s with rings := s.rings.filter fun r => !here.contains r })

section
variable {s : State} {t : TKey} {here : List RingStep} {code : Word}

theorem answers_keep (rs : List RingStep) (s : State) : (rs.foldl (fun s r => s.answerAll r.key r.token code) s).rings = s.rings ∧
    (rs.foldl (fun s r => s.answerAll r.key r.token code) s).teams = s.teams := by
  have hrings (s : State) (r : RingStep) : (s.answerAll r.key r.token code).rings = s.rings := by
    unfold State.answerAll State.modGroup
    split <;> rfl
  have hteams (s : State) (r : RingStep) : (s.answerAll r.key r.token code).teams = s.teams := by
    unfold State.answerAll State.modGroup
    split <;> rfl
  exact ⟨foldl_keeps (π := State.rings) hrings rs s, foldl_keeps (π := State.teams) hteams rs s⟩

theorem ringEnds_keeps (s : State) (t : TKey) (here : List RingStep) (code : Word) :
    RingKeeps (here.foldl (fun s r => s.answerAll r.key r.token code) { s with rings := s.rings.filter fun r => !here.contains r })
      (s.ringEnds t here code) :=
  .foldl endTeamIfDone_ringKeeps _ _

theorem ringEnds_rings {r : RingStep} (hr : r ∈ here) : r ∉ (s.ringEnds t here code).rings := by
  rw [(ringEnds_keeps s t here code).rings, (answers_keep here _).1]
  simp [hr]

theorem ringEnds_spad {v : TKey} {x : Team} (h : kfind (s.ringEnds t here code).teams v = some x) :
    ∃ y, kfind s.teams v = some y ∧ y.spad = x.spad := by
  obtain ⟨y, hy, hxy⟩ := (ringEnds_keeps s t here code).spad v x h
  rw [(answers_keep here _).2] at hy
  exact ⟨y, hy, hxy⟩

theorem ringEnds_answers {r : RingStep} (hr : r ∈ here) {g h : Group} (hg : kfind s.groups r.key = some g)
    (hh : kfind (s.ringEnds t here code).groups r.key = some h) {q : PendWrite} (hq : q ∈ g.pend) {m : Word} (hm : q.await = some (r.token, m)) :
    q.answered code ∈ h.pend := by
  have hsend : Sending { s with rings := s.rings.filter fun r => !here.contains r } r.key q := ⟨g.pend, congrArg (Option.map Group.pend) hg, hq⟩
  obtain ⟨l, hl, hin⟩ := answers_sending (code := code) hm here hsend hr rfl rfl
  have hpend := (ringEnds_keeps s t here code).pend r.key
  rw [hl, hh] at hpend
  obtain rfl : h.pend = l := Option.some.inj hpend
  exact hin

-- ## Moves

theorem ringMove_unsent (s : State) {a b : RingStep} (h : a.sent = none) : s.ringMove a b = s := by simp [State.ringMove, h]

/-- A move writes to the scratchpad of the next rank and nowhere else. -/
theorem ringMove_spec (s : State) (a b : RingStep) : (s.ringMove a b).groups = s.groups ∧ (s.ringMove a b).rings = s.rings ∧
    (∀ v, v ≠ b.team → kfind (s.ringMove a b).teams v = kfind s.teams v) ∧
    ∀ bs bad y, a.sent = some (bs, bad) → kfind s.teams b.team = some y →
      ∃ x, kfind (s.ringMove a b).teams b.team = some x ∧ x.spad = cellWrite y.spad b.dst (bs.take (min a.len b.len)) := by
  have hmod (u : State) (v : TKey) (f : Team → Team) : (u.modTeam v f).groups = u.groups ∧ (u.modTeam v f).rings = u.rings ∧
      ∀ w, w ≠ v → kfind (u.modTeam v f).teams w = kfind u.teams w := by
    cases hv : kfind u.teams v with
    | none => simp [State.modTeam, hv]
    | some y =>
      rw [modTeam_found hv]
      exact ⟨rfl, rfl, fun w hw => kfind_kput_ne _ _ hw⟩
  cases hs : a.sent with
  | none =>
    rw [ringMove_unsent s hs]
    exact ⟨rfl, rfl, fun _ _ => rfl, fun _ _ _ h => nomatch h⟩
  | some sent =>
    obtain ⟨bs, bad⟩ := sent
    unfold State.ringMove
    rw [hs]
    dsimp only
    obtain ⟨hg1, hr1, ht1⟩ := hmod (s.nearWrite (.spad b.team b.dst) (bs.take (min a.len b.len))) b.team _
    obtain ⟨hg2, hr2, ht2⟩ := hmod (s.noteAt none (NearAt.spad b.team b.dst).place
      (s.nearRead (.spad b.team b.dst) (bs.take (min a.len b.len)).length)) b.team _
    refine ⟨hg1.trans hg2, hr1.trans hr2, fun v hv => (ht1 v hv).trans (ht2 v hv), fun bs' bad' y hsent hy => ?_⟩
    cases hsent
    have hnote : kfind (s.noteAt none (NearAt.spad b.team b.dst).place
      (s.nearRead (.spad b.team b.dst) (bs.take (min a.len b.len)).length)).teams b.team = some y := hy
    have hwrite : kfind (s.nearWrite (.spad b.team b.dst) (bs.take (min a.len b.len))).teams b.team =
        some { y with spad := cellWrite y.spad b.dst (bs.take (min a.len b.len)) } := by
      rw [State.nearWrite, modTeam_found hnote]
      exact kfind_kput_self _ _ _
    rw [modTeam_found hwrite]
    refine ⟨_, kfind_kput_self _ _ _, ?_⟩
    split <;> rfl

/-- Moves to different teams: each scratchpad holds what has moved to it. -/
theorem ringMoves_spec (ps : List (RingStep × RingStep)) (hne : (ps.map fun p => p.2.team).Nodup) (s : State) :
    (ps.foldl (fun s p => s.ringMove p.1 p.2) s).groups = s.groups ∧ (ps.foldl (fun s p => s.ringMove p.1 p.2) s).rings = s.rings ∧
    (∀ v, v ∉ ps.map (fun p => p.2.team) → kfind (ps.foldl (fun s p => s.ringMove p.1 p.2) s).teams v = kfind s.teams v) ∧
    ∀ a b bs bad y, (a, b) ∈ ps → a.sent = some (bs, bad) → kfind s.teams b.team = some y →
      ∃ x, kfind (ps.foldl (fun s p => s.ringMove p.1 p.2) s).teams b.team = some x ∧
        x.spad = cellWrite y.spad b.dst (bs.take (min a.len b.len)) := by
  induction ps generalizing s with
  | nil => exact ⟨rfl, rfl, fun _ _ => rfl, fun _ _ _ _ _ h => by simp at h⟩
  | cons p ps ih =>
    obtain ⟨hnot, hrest⟩ := List.nodup_cons.1 (by simpa using hne : (p.2.team :: ps.map fun p => p.2.team).Nodup)
    obtain ⟨hg, hr, ht, hw⟩ := ringMove_spec s p.1 p.2
    obtain ⟨hg', hr', ht', hw'⟩ := ih hrest (s.ringMove p.1 p.2)
    refine ⟨hg'.trans hg, hr'.trans hr, fun v hv => ?_, fun a b bs bad y hin hsent hy => ?_⟩
    · rw [List.map_cons, List.mem_cons, not_or] at hv
      exact (ht' v hv.2).trans (ht v hv.1)
    · rcases List.mem_cons.1 hin with rfl | hin
      · obtain ⟨x, hx, hspad⟩ := hw bs bad y hsent hy
        exact ⟨x, (ht' b.team hnot).trans hx, hspad⟩
      · have hb : b.team ≠ p.2.team := fun e => hnot (e ▸ List.mem_map.2 ⟨(a, b), hin, rfl⟩)
        exact hw' a b bs bad y hin hsent ((ht b.team hb).trans hy)

end

-- ## The completion of a step (R155)

section
variable {s : State} {rs : List RingStep}

theorem filterMap_some_id (rs : List RingStep) : (rs.map some).filterMap id = rs := by simp [List.filterMap_map]

theorem clusterTeams_nodup (s : State) (t : TKey) : (s.clusterTeams t).Nodup := by
  refine (List.nodup_range).map fun i j h => ?_
  simpa [State.atRank] using h

/-- The steps of a cluster's ranks are those of its teams, in rank order. -/
theorem ringSteps_teams {t : TKey} {n : Nat} (h : s.ringSteps t n = rs.map some) : rs.map (·.team) = s.clusterTeams t := by
  refine List.map_injective_iff.2 (Option.some_injective _) ?_
  calc (rs.map (·.team)).map some = (rs.map some).map (Option.map (·.team)) := by simp
    _ = (s.clusterTeams t).map some := ?_
  rw [← h, State.ringSteps, List.map_map]
  refine List.map_congr_left fun u hu => ?_
  have hin : s.rings.find? (fun r => r.team = u && r.step.toNat = n) ∈ rs.map some := h ▸ List.mem_map.2 ⟨u, hu, rfl⟩
  obtain ⟨r, -, hr⟩ := List.mem_map.1 hin
  rw [Function.comp_apply, ← hr]
  exact congrArg some (find?_step hr.symm).1

/-- The code of a step that every rank has issued: whether their lengths are the same. -/
def ringCode (rs : List RingStep) : Word := if rs.all fun r => rs.all fun q => r.len = q.len then 0#32 else 1#32

theorem ringCode_eq {r : RingStep} (hr : r ∈ rs) : ringCode rs = if ∀ q ∈ rs, q.len = r.len then 0#32 else 1#32 := by
  refine if_congr ?_ rfl rfl
  simp only [List.all_eq_true, decide_eq_true_eq]
  exact ⟨fun h q hq => h q hq r hr, fun h a ha b hb => (h a ha).trans (h b hb).symm⟩

/-- The machine when every sender has released its writes and the bytes have moved. -/
def ringMoved (s : State) (rs : List RingStep) : State :=
  (rs.zip (rs.tail ++ rs.take 1)).foldl (fun s p => s.ringMove p.1 p.2) (rs.foldl (fun s r => s.release (s.team r.team).core 3) s)

theorem ringStepComplete_moves (hne : rs ≠ []) (hsteps : s.ringSteps s.ev.key.tkey s.ev.n = rs.map some) (hsent : ∀ r ∈ rs, r.sent.isSome = true)
    (hall : ∀ u ∈ s.clusterTeams s.ev.key.tkey, s.isResident u = true) (hreb : s.rebuild = []) :
    exec .ringStepComplete s = .next ((ringMoved s rs).ringEnds s.ev.key.tkey rs (ringCode rs)) := by
  have hready : (!(rs.map some).isEmpty && decide (rs.length = (rs.map some).length) && rs.all (·.sent.isSome) &&
      (s.clusterTeams s.ev.key.tkey).all s.isResident) = true := by
    simpa [hne] using ⟨hsent, hall⟩
  have hidle : (rs.any fun r => s.releaseBusy (s.team r.team).core 3) = false :=
    List.any_eq_false.2 fun r _ => by simp [releaseBusy_of_no_rebuild hreb]
  rw [exec_ringStepComplete]
  unfold execRingStepComplete
  simp only [hsteps, filterMap_some_id, hready, hidle, if_true, Bool.false_eq_true, if_false]
  rfl

theorem ringStepComplete_breaks (hbroken : ∃ u ∈ s.clusterTeams s.ev.key.tkey, s.isResident u = false ∧ s.hasEnded u = true ∧
      ((kfind (s.grid u.slot).ringEnd u.team).getD 0#32).toNat ≤ s.ev.n)
    (hthere : ∀ u r, s.rings.find? (fun r => r.team = u && r.step.toNat = s.ev.n) = some r → u ∈ s.clusterTeams s.ev.key.tkey →
      s.isResident u = true) :
    exec .ringStepComplete s = .next (s.ringEnds s.ev.key.tkey ((s.ringSteps s.ev.key.tkey s.ev.n).filterMap id) 2#32) := by
  obtain ⟨u, hu, haway, hended, hlast⟩ := hbroken
  have hnone : kfind s.teams u = none := by simpa [State.isResident] using haway
  have hnot : (s.clusterTeams s.ev.key.tkey).all s.isResident = false := List.all_eq_false.2 ⟨u, hu, by simp [haway]⟩
  have hbreak : s.ringBroken s.ev.key.tkey s.ev.n = true := by
    refine List.any_eq_true.2 ⟨u, hu, ?_⟩
    simp only [hnone]
    simp [hended, hlast]
  have hhere : (((s.ringSteps s.ev.key.tkey s.ev.n).filterMap id).all fun r => s.isResident r.team) = true := by
    refine List.all_eq_true.2 fun r hr => ?_
    obtain ⟨o, ho, rfl⟩ := List.mem_filterMap.1 hr
    obtain ⟨v, hv, hfind⟩ := List.mem_map.1 ho
    rw [(find?_step hfind).1]
    exact hthere v r hfind hv
  rw [exec_ringStepComplete]
  unfold execRingStepComplete
  simp only [hnot, hbreak, hhere, Bool.and_false, Bool.and_self, Bool.false_eq_true, if_true, if_false]
  rfl

/-- The steps as they lie in pairs, each with the next rank's. -/
theorem ring_pairs {i : Nat} {r q : RingStep} (hr : rs[i]? = some r) (hq : rs[(i + 1) % rs.length]? = some q) : (r, q) ∈ rs.zip (rs.tail ++ rs.take 1) := by
  have hi : i < rs.length := (List.getElem?_eq_some_iff.1 hr).1
  have hnext : (rs.tail ++ rs.take 1)[i]? = some q := by
    have hrot : rs.tail ++ rs.take 1 = rs.rotate 1 := by rw [List.rotate_eq_drop_append_take (by omega), List.drop_one]
    rw [hrot, List.getElem?_rotate hi]
    exact hq
  exact List.mem_of_getElem? (i := i) (List.getElem?_zip_eq_some.2 ⟨hr, hnext⟩)

theorem ring_targets_nodup (h : (rs.map (·.team)).Nodup) : ((rs.zip (rs.tail ++ rs.take 1)).map fun p => p.2.team).Nodup := by
  have hrot : rs.tail ++ rs.take 1 = rs.rotate 1 := by
    cases rs with
    | nil => rfl
    | cons r rs => simp
  have hsnd : (rs.zip (rs.rotate 1)).map (fun p => p.2.team) = (rs.map (·.team)).rotate 1 := by
    calc (rs.zip (rs.rotate 1)).map (fun p => p.2.team) = ((rs.zip (rs.rotate 1)).map Prod.snd).map (·.team) := by rw [List.map_map]; rfl
      _ = (rs.rotate 1).map (·.team) := by rw [List.map_snd_zip (by simp)]
      _ = (rs.map (·.team)).rotate 1 := List.map_rotate _ _ _
  rw [hrot, hsnd]
  exact List.nodup_rotate.2 h

theorem releases_keep (rs : List RingStep) (s : State) : (rs.foldl (fun s r => s.release (s.team r.team).core 3) s).groups = s.groups ∧
    (rs.foldl (fun s r => s.release (s.team r.team).core 3) s).teams = s.teams := by
  have hkeep (s : State) (r : RingStep) : (s.release (s.team r.team).core 3).residents = s.residents := by
    unfold State.release
    split
    · exact propagate_residents _ _
    · exact foldl_residents (fun s _ => widen_residents s _ _) _ _
  obtain ⟨hgroups, hteams, -⟩ := residents_eq (foldl_residents hkeep rs s)
  exact ⟨hgroups, hteams⟩

/-- What the next rank's scratchpad holds when the bytes of a rank have moved there. -/
theorem ringMoved_spad (hsteps : s.ringSteps s.ev.key.tkey s.ev.n = rs.map some) {i : Nat} {r q : RingStep} (hr : rs[i]? = some r)
    (hq : rs[(i + 1) % rs.length]? = some q) {bs : List Byte} {bad : List Nat} (hsent : r.sent = some (bs, bad)) {y : Team}
    (hy : kfind s.teams q.team = some y) :
    ∃ x, kfind (ringMoved s rs).teams q.team = some x ∧ x.spad = cellWrite y.spad q.dst (bs.take (min r.len q.len)) := by
  have hnodup : (rs.map (·.team)).Nodup := ringSteps_teams hsteps ▸ clusterTeams_nodup s s.ev.key.tkey
  obtain ⟨-, -, -, hmoves⟩ := ringMoves_spec _ (ring_targets_nodup hnodup) (rs.foldl (fun s r => s.release (s.team r.team).core 3) s)
  exact hmoves r q bs bad y (ring_pairs hr hq) hsent ((releases_keep rs s).2 ▸ hy)

theorem ringMoved_groups (hsteps : s.ringSteps s.ev.key.tkey s.ev.n = rs.map some) : (ringMoved s rs).groups = s.groups := by
  have hnodup : (rs.map (·.team)).Nodup := ringSteps_teams hsteps ▸ clusterTeams_nodup s s.ev.key.tkey
  obtain ⟨hgroups, -⟩ := ringMoves_spec _ (ring_targets_nodup hnodup) (rs.foldl (fun s r => s.release (s.team r.team).core 3) s)
  exact hgroups.trans (releases_keep rs s).1

/-- The bytes of a scratchpad after a move of `n` bytes to it. -/
theorem cellGet_moved {m : List Host.Cell} {dst n : Nat} {bs : List Byte} (hn : n ≤ bs.length) :
    (∀ j < n, cellGet (cellWrite m dst (bs.take n)) (dst + j) = bs.getD j 0#8) ∧
      ∀ j, j < dst ∨ dst + n ≤ j → cellGet (cellWrite m dst (bs.take n)) j = cellGet m j := by
  have hlen : (bs.take n).length = n := List.length_take_of_le hn
  refine ⟨fun j hj => ?_, fun j hj => ?_⟩
  · have hj' : j < bs.length := by omega
    rw [cellGet_cellWrite, dif_pos ⟨by omega, by omega⟩]
    simp [List.getD_eq_getElem?_getD, List.getElem?_eq_getElem hj']
  · rw [cellGet_cellWrite, dif_neg (by omega)]

end

/-- Settles O27: a step's bytes move to different teams, its answers reach the results that wait for them, and the ends of teams keep both. -/
theorem ringStepsMoveBytes : Obligations.RingStepsMoveBytes := by
  unfold Obligations.RingStepsMoveBytes
  refine ⟨?_, ringStepStart_step, ?_⟩
  · intro s k g p hi d a b hr hf x hx src dst len hsrc hdst hlen hpos hmax hs hd hsn hdn
    have hbytes : x.spBytes = 1024 * x.spRows := Nat.mul_comm _ _
    exact rrot_issues hi hr hf hx (rrotFault_none hsrc hdst hlen hpos hmax hs hd (hbytes ▸ hsn) (hbytes ▸ hdn))
  · intro answered
    refine ⟨fun s rs hne hsteps hsent hall hreb => ?_, fun s hbroken hthere => ?_⟩
    · refine ⟨_, ringStepComplete_moves hne hsteps hsent hall hreb, fun r hr => ⟨ringEnds_rings hr, fun g h hg hh q hq m hm => ?_⟩,
        fun i r q bs bad hr hq hbs hlen x y hx hy => ?_⟩
      · rw [← ringCode_eq hr]
        exact ringEnds_answers hr (ringMoved_groups hsteps ▸ hg) hh hq hm
      · obtain ⟨z, hz, hzx⟩ := ringEnds_spad hx
        obtain ⟨w, hw, hspad⟩ := ringMoved_spad hsteps hr hq hbs hy
        rw [hw, Option.some.injEq] at hz
        rw [← hzx, ← hz, hspad]
        exact cellGet_moved (hlen ▸ min_le_left _ _)
    · refine ⟨_, ringStepComplete_breaks hbroken hthere, fun u x y hx hy => ?_, fun r hr => ?_⟩
      · obtain ⟨z, hz, hzx⟩ := ringEnds_spad hx
        rw [hy, Option.some.injEq] at hz
        rw [← hzx, hz]
      · have hin : r ∈ (s.ringSteps s.ev.key.tkey s.ev.n).filterMap id := List.mem_filterMap.2 ⟨_, hr, rfl⟩
        exact ⟨ringEnds_rings hin, fun g h hg hh q hq m hm => ringEnds_answers hin hg hh hq hm⟩

end Sys2Proof.Machine

/-! The end of a grid against its done counter (R297, R367). -/

namespace Sys2Proof.Machine

/-- A state in which grid 0, with its done counter at 8, ends, and an exhausted request of it takes the number of an older one: a posted instruction's
of a retired group, whose failure is then recorded in the health log, at 8 too. -/
def doneUnderLog : State :=
  { tlb := [⟨.l1 noCore, 0, 0#16, 3, 0, 0x5D#64⟩]
    hlogb := 8#64
    hlogn := 1#16
    ports := [(1, { up := true })]
    seqOut := [((0, 1), 2 ^ 48)]
    requests := [⟨0, 0, 0, 0, 0, 0, .load, [⟨0, 0, 0#64, 0#64⟩], .retired 0 0, 0⟩]
    subs := [⟨0, 1, 0, 0⟩]
    grids := [(0, { lr := { done := 8#64 }, nextTeam := 1 })] }

/-- The record of the failed request, as HLOG holds it (R367). -/
def doneUnderLogRecord : Nat :=
  4 + 256 * (Config.healthDetail 4 0 % 2 ^ 120) + 2 ^ 128 * 0 + 2 ^ 160 * 0 + 2 ^ 192 * (0 % 2 ^ 64)

theorem gridDone_doneUnderLog : doneUnderLog.gridDone 0 = true := by decide

theorem access_done_doneUnderLog : (doneUnderLog.propagate fun _ => true).access noCore
    ((doneUnderLog.grid 0).lr.space ((doneUnderLog.grid 0).launcher == .user)) 8#64 8 .both = .ok ⟨8, false, 0⟩ := by rfl

/-- GRID_END adds 1 to the counter, and then writes the record over it. -/
theorem gridEnd_doneUnderLog : ∃ t, exec .gridEnd doneUnderLog = .next t ∧ t.writes = [] ∧
    t.mem = cellWrite (cellWrite [] 8 (bytesOf 8 1)) 8 (bytesOf 32 doneUnderLogRecord) :=
  ⟨_, rfl, rfl, rfl⟩

/-- The record's first byte is its kind, 4: the counter does not hold 1. -/
theorem newestRead_doneUnderLog {t : State} (hw : t.writes = [])
    (hm : t.mem = cellWrite (cellWrite [] 8 (bytesOf 8 1)) 8 (bytesOf 32 doneUnderLogRecord)) : ofBytes (t.newestRead 8 8) % 256 = 4 := by
  have hread : t.newestRead 8 8 = cellRead t.mem 8 8 := by rw [State.newestRead, hw]; rfl
  have hlen : 0 < (cellRead t.mem 8 8).length := by simp
  have hbyte : (cellRead t.mem 8 8)[0] = BitVec.ofNat 8 doneUnderLogRecord := by
    rw [cellRead_getElem (by omega), hm, cellGet_cellWrite, dif_pos ⟨by omega, by simp⟩, bytesOf_getElem]
    simp
  have hdigit := ofBytes_digit (cellRead t.mem 8 8) hlen
  rw [hbyte, BitVec.toNat_ofNat] at hdigit
  rw [hread]
  unfold doneUnderLogRecord at hdigit
  omega

/-- Refutes O51: the end of a grid does not always leave its done counter increased. The statement holds of every state, and so also of one that names
two requests by one number: there the EXHAUSTED of the grid's UNSUB (R305, R318) answers an older request, a posted one of a retired group, and its
fault record (R315, R367) is written over the counter when the health log lies there. -/
theorem not_schedulerSteps : ¬ Obligations.SchedulerSteps := by
  unfold Obligations.SchedulerSteps
  intro h
  obtain ⟨hgrids, -⟩ := h doneUnderLog
  obtain ⟨-, -, hend⟩ := hgrids _ rfl
  obtain ⟨t, ht, -, -, -, -, -, -, hcount⟩ := hend gridDone_doneUnderLog
  obtain ⟨t', ht', hw, hm⟩ := gridEnd_doneUnderLog
  obtain rfl : t = t' := Host.Outcome.next.inj (ht.symm.trans ht')
  have hone : ofBytes (t.newestRead 8 8) = (ofBytes (doneUnderLog.newestRead 8 8) + 1) % 2 ^ 64 :=
    hcount ⟨8, false, 0⟩ rfl (by decide) access_done_doneUnderLog rfl
  have hold : ofBytes (doneUnderLog.newestRead 8 8) = 0 := by decide
  have hkind := newestRead_doneUnderLog hw hm
  rw [hone, hold] at hkind
  exact absurd hkind (by decide)

end Sys2Proof.Machine

/-! A tile in the own heap, named as a peer's, whose base lies within a page (R168, R299, R300). -/

namespace Sys2Proof.Machine

/-- A record of 16 bytes at offset 0 of the heap of peer 0, in one dimension, with a box of 16. -/
@[irreducible] def heapRecord : BitVec 1024 := 2#1024 <<< 64 ||| 15#1024 <<< 68 ||| 1#1024 <<< 72 ||| 3#1024 <<< 76 ||| 16#1024 <<< 192 ||| 15#1024 <<< 704

/-- A TCOPY of that tile to the start of its team's scratchpad. -/
def heapCopy : Copy :=
  { id := 0, key := ⟨0, 0, 0⟩, core := 0, kind := .tile false heapRecord 0 [0], bar := none, mode := .user, batch := 0#32, idx := 0 }

/-- Device 0 with that copy in its queue. Its own heap begins 8 bytes below the end of a page of 64 KiB. A table at 0x2000, whose entry 0 names the
table itself, maps that page to 0x30000 and the next one to 0x50000, where the only byte of the heap that is not zero lies. -/
@[irreducible] def unalignedHeap : State :=
  { mem := [(0x2000, 0x01#8), (0x2001, 0x20#8), (0x2008, 0x4D#8), (0x200A, 0x03#8), (0x2010, 0x4D#8), (0x2012, 0x05#8), (0x50000, 0x01#8)]
    selfPeer := 0x80000000#32
    domains := [(0, { heapb := 0x1FFF8#64, heapsz := 0x10000#64, ptb := 0x2000#64, valid := true, members := [0] })]
    teams := [(⟨0, 0⟩, {})]
    copies := [heapCopy] }

/-- Where the byte at an offset of the tile lies. -/
def heapFrame (a : Nat) : Frame := ⟨if a < 8 then 0x3FFF8 + a else 0x4FFF8 + a, false, 0⟩

/-- The byte at an offset of the tile. -/
def heapByte (a : Nat) : Byte := if a = 8 then 1#8 else 0#8

theorem heapRecord_tensor : Tensor.ofRecord heapRecord =
    { base := 0, ew := 2, ef := 15, ndim := 1, layer := 3, peer := 0, scope := 0, pol := 0, skw := 0, oobf := 0, exp := 0, mxb := 0, trav := 0
      fill := 0, size := [16, 0, 0, 0, 0, 0], str := [0, 0, 0, 0, 0, 0], box := [16, 1, 1, 1, 1, 1], sc := 0, zp := 0 } := by
  decide +kernel

/-- Each byte of the tile has its place, on one page or on the next, and is read there. -/
theorem heapFrame_reads : ∀ a < 16, unalignedHeap.resolve 0 0 a 1 .read = .ok (heapFrame a) ∧
    unalignedHeap.rmwRead (heapFrame a) 1 = [heapByte a] := by
  decide +kernel

theorem heapByte_tileReads {s : State} (hs : s = unalignedHeap) {a : Nat} (ha : a < 16) :
    s.tileReads (s.mover heapCopy unalignedHeap.ev) (Tensor.ofRecord heapRecord) a (heapByte a) := by
  subst hs
  obtain ⟨hframe, hbyte⟩ := heapFrame_reads a ha
  have hreach : (unalignedHeap.mover heapCopy unalignedHeap.ev).reach = true := by decide +kernel
  have hdest : (unalignedHeap.mover heapCopy unalignedHeap.ev).dest = unalignedHeap.selfNum := by decide +kernel
  have hdom : (unalignedHeap.team (unalignedHeap.mover heapCopy unalignedHeap.ev).team).tdom.toNat = 0 := by decide +kernel
  have hself : unalignedHeap.selfNum = 0 := by decide +kernel
  rw [State.tileReads, heapRecord_tensor]
  refine ⟨hreach, ?_⟩
  rw [if_pos hdest, hdest, hdom, hself]
  exact ⟨heapFrame a, hframe, hbyte, fun _ h => nomatch h⟩

/-- The tile takes the bytes at the offsets 0 to 15. -/
theorem heapRecord_takes {row j a : Nat}
    (h : (Tensor.ofRecord heapRecord).takes ((Tensor.ofRecord heapRecord).nearest ((Tensor.ofRecord heapRecord).coord [0] row j)) a) : a < 16 := by
  have hlast : (Tensor.ofRecord heapRecord).nearest ((Tensor.ofRecord heapRecord).coord [0] row j) 0 < 16 := by
    rw [heapRecord_tensor]
    simp only [Tensor.nearest, Tensor.coord, zero_lt_one, if_true, List.getD_cons_zero]
    omega
  generalize (Tensor.ofRecord heapRecord).nearest ((Tensor.ofRecord heapRecord).coord [0] row j) = y at h hlast
  rw [heapRecord_tensor] at h
  rcases h with ⟨b, hb, rfl⟩ | ⟨hexp, -⟩ | ⟨hexp, -⟩
  · have hw : b < 8 := hb
    show (0 + (y 1 * 0 + y 2 * 0 + y 3 * 0 + y 4 * 0 + y 5 * 0)) % 2 ^ 64 + (y 0 * 8 + b) / 8 < 16
    omega
  · cases hexp
  · cases hexp

/-- Refutes O36: a TCOPY does not always put each element of its tile at its place. The statement holds of every state, and so also of one whose own
heap (R299) does not begin on a page of 64 KiB: there a chunk of 16 bytes of the heap lies on two pages, whose frames need not follow one another. -/
theorem not_copiesMoveTheirBytes : ¬ Obligations.CopiesMoveTheirBytes := by
  unfold Obligations.CopiesMoveTheirBytes
  intro h
  obtain ⟨-, hcame⟩ := h unalignedHeap heapCopy (by decide +kernel) (by decide +kernel) (by decide +kernel)
  obtain ⟨-, htile, -⟩ := hcame (by decide +kernel) (by decide +kernel)
  obtain ⟨hbits, -, -⟩ := htile heapRecord 0 [0] rfl (by decide +kernel) heapByte fun row _ j _ _ a ha =>
    heapByte_tileReads (by decide +kernel) (heapRecord_takes ha)
  have hbit := hbits 0 (by decide +kernel) 8 (by decide +kernel) 0 (by decide +kernel)
  -- The copy translates the chunk once, at its first byte, and so takes byte 8 from behind the end of the first page.
  exact absurd hbit (by decide +kernel)

end Sys2Proof.Machine

/-! What traffic in memory, caches and the fabric leaves: everything that `State.beside` holds, and, of what `State.rest` leaves out, nothing has a part in
what it does to the rest (R214 to R241, R304, R320). -/

namespace Sys2Proof.Machine

-- ## The parts of the state that `beside` holds

@[simp] theorem later_beside (s : State) (ds : List Due) : (s.later ds).beside = s.beside := rfl

@[simp] theorem askRekey_beside (s : State) (dom : Nat) : (s.askRekey dom).beside = s.beside := by
  unfold State.askRekey
  split <;> rfl

@[simp] theorem sendNow_beside (s : State) (peer dom home o : Nat) (b : Body) : (s.sendNow peer dom home o b).beside = s.beside := by
  unfold State.sendNow
  dsimp only
  split
  · rfl
  · split
    · exact askRekey_beside _ dom
    · rfl

@[simp] theorem send_beside (s : State) (peer dom home o : Nat) (b : Body) : (s.send peer dom home o b).beside = s.beside := by
  unfold State.send
  split
  · rfl
  · exact sendNow_beside s peer dom home o b

/-- A push that has gone out and waits for its acknowledgement (R320). -/
def State.awaitsAck (s : State) (peer dom o : Nat) : State := { s with fresh := s.fresh + 1, pushes := s.pushes ++ [⟨s.fresh, peer, dom, o⟩] }

theorem awaitsAck_beside (s : State) (peer dom o : Nat) : (s.awaitsAck peer dom o).beside = s.beside := rfl

@[simp] theorem pushLine_beside (s : State) (pa : Nat) : (s.pushLine pa).beside = s.beside := by
  refine foldl_keeps (fun s r => ?_) _ _
  split
  · rfl
  · dsimp only
    exact foldl_keeps (fun s q => (awaitsAck_beside _ q _ _).trans (send_beside s q _ _ _ _)) _ _

@[simp] theorem noteWrite_beside (s : State) (pa core : Nat) (b a : Option Nat) (self : Option GKey) :
    (s.noteWrite pa core b a self).beside = s.beside := by
  unfold State.noteWrite
  dsimp only
  rw [later_beside]
  split
  · exact pushLine_beside s pa
  · rfl

@[simp] theorem dropIf_beside (s : State) (test : CacheLine → Bool) : (s.dropIf test).beside = s.beside := rfl
@[simp] theorem cleanCopies_beside (s : State) (base : Nat) : (s.cleanCopies base).beside = s.beside := rfl
@[simp] theorem homeWrite_beside (s : State) (pa : Nat) (bs : List Byte) : (s.homeWrite pa bs).beside = s.beside := rfl
@[simp] theorem noteOwn_beside (s : State) (self : Option GKey) (pa : Nat) (bs : List Byte) : (s.noteOwn self pa bs).beside = s.beside := rfl

@[simp] theorem reachCopies_beside (s : State) (core base before after : Nat) : (s.reachCopies core base before after).beside = s.beside := by
  unfold State.reachCopies
  dsimp only
  split <;> rfl

@[simp] theorem recallHost_beside (s : State) (pa : Nat) : (s.recallHost pa).beside = s.beside := by
  unfold State.recallHost
  split <;> rfl

@[simp] theorem arriveHome_beside (s : State) (w : PWrite) : (s.arriveHome w).beside = s.beside := by simp [State.arriveHome]

@[simp] theorem propagate_beside (s : State) (test : PWrite → Bool) : (s.propagate test).beside = s.beside :=
  foldl_keeps arriveHome_beside _ _

@[simp] theorem widen_beside (s : State) (id reach : Nat) : (s.widen id reach).beside = s.beside := by
  unfold State.widen
  split
  · rfl
  · split
    · rfl
    · split
      · exact propagate_beside s _
      · rw [reachCopies_beside, noteWrite_beside]
        rfl

@[simp] theorem observe_beside (s : State) (core pa n : Nat) : (s.observe core pa n).beside = s.beside :=
  foldl_keeps (fun s _ => widen_beside s _ _) _ _

@[simp] theorem release_beside (s : State) (core scope : Nat) : (s.release core scope).beside = s.beside := by
  unfold State.release
  split
  · exact propagate_beside s _
  · exact foldl_keeps (fun s _ => widen_beside s _ _) _ _

@[simp] theorem makeRoom_beside (s : State) (u : CacheUnit) (set : Nat) : (s.makeRoom u set).beside = s.beside := by
  unfold State.makeRoom
  split
  · rfl
  · cases u <;> rfl

@[simp] theorem filterRoom_beside (s : State) (base : Nat) : (s.filterRoom base).beside = s.beside := by
  unfold State.filterRoom
  dsimp only
  split <;> rfl

@[simp] theorem addCopy_beside (s : State) (u : CacheUnit) (base : Nat) (st : LineState) (pol : Nat) :
    (s.addCopy u base st pol).beside = s.beside := by
  have placed (t : State) (cs : List CacheLine) : ({ t with caches := cs } : State).beside = t.beside := rfl
  unfold State.addCopy
  split
  · rfl
  · dsimp only
    rw [placed]
    split <;> simp

@[simp] theorem fillCopy_beside (s : State) (core base pol : Nat) : (s.fillCopy core base pol).beside = s.beside := by
  have shared (cs : List CacheLine) : ({ s with caches := cs } : State).beside = s.beside := rfl
  unfold State.fillCopy
  dsimp only
  split
  · rw [addCopy_beside, shared]
  · rw [addCopy_beside, addCopy_beside, shared]

@[simp] theorem loaded_beside (s : State) (core : Nat) (f : Frame) (n pol : Nat) : (s.loaded core f n pol).beside = s.beside := by
  unfold State.loaded
  rw [fillCopy_beside]
  split
  · exact observe_beside s core f.pa n
  · rfl

theorem release_groups (s : State) (core scope : Nat) : (s.release core scope).groups = s.groups := by
  have h : (s.release core scope).residents = s.residents := by
    unfold State.release
    split
    · exact propagate_residents s _
    · exact foldl_residents (fun s _ => widen_residents s _ _) _ _
  exact (residents_eq h).1

-- ## What depends on `rest` alone

/-- What the function makes of a state depends on its groups, clocks and order of steps only there. -/
def RestOnly (f : State → State) : Prop := ∀ s, (f s.rest).rest = (f s).rest

theorem RestOnly.congr {f : State → State} (h : RestOnly f) {s t : State} (e : s.rest = t.rest) : (f s).rest = (f t).rest := by
  rw [← h s, e, h t]

theorem RestOnly.comp {f f' : State → State} (h : RestOnly f) (h' : RestOnly f') : RestOnly fun s => f (f' s) := fun s => h.congr (h' s)

theorem RestOnly.foldl {α : Type} {f : State → α → State} (h : ∀ x, RestOnly fun s => f s x) (l : List α) : RestOnly fun s => l.foldl f s := by
  have fold : ∀ {s t : State}, s.rest = t.rest → (l.foldl f s).rest = (l.foldl f t).rest := by
    induction l with
    | nil => exact id
    | cons x l ih => exact fun e => ih ((h x).congr e)
  exact fun s => fold rfl

theorem walkFrom_rest (s : State) (va : Nat) (lvls : List Nat) (base : Nat) : s.rest.walkFrom va lvls base = s.walkFrom va lvls base := by
  induction lvls generalizing base with
  | nil => rfl
  | cons lvl rest ih =>
    have hpoison (a : Nat) : s.rest.isPoisoned a = s.isPoisoned a := rfl
    have hread (a : Nat) : s.rest.engineNat a 8 = s.engineNat a 8 := rfl
    simp only [State.walkFrom, hpoison, hread, ih]

theorem translate_rest (s : State) (core : Nat) (sp : Space) (va : Nat) (need : Need) (ahead : Bool) :
    s.rest.translate core sp va need ahead = s.translate core sp va need ahead := by
  have hleaf : s.rest.findLeaf core sp va ahead = s.findLeaf core sp va ahead := by
    have htlb : s.rest.tlb = s.tlb := rfl
    simp only [State.findLeaf, State.walk, walkFrom_rest, htlb]
  have hkey (e : Nat) : s.rest.keyRefuses sp e = s.keyRefuses sp e := rfl
  simp only [State.translate, hleaf, hkey]

theorem translate_of_rest {s t : State} (h : t.rest = s.rest) (core : Nat) (sp : Space) (va : Nat) (need : Need) (ahead : Bool) :
    t.translate core sp va need ahead = s.translate core sp va need ahead := by
  rw [← translate_rest, h, translate_rest]

theorem inRegion_rest (s : State) (r : HomeRegion) (pa : Nat) : s.rest.inRegion r pa = s.inRegion r pa := by
  have hdomains : s.rest.domains = s.domains := rfl
  simp only [State.inRegion, State.resolveFrame, translate_rest, hdomains]

theorem askRekey_restOnly (dom : Nat) : RestOnly fun s => s.askRekey dom := by
  intro s
  have hasks : s.rest.rekeyAsks = s.rekeyAsks := rfl
  simp only [State.askRekey, hasks]
  split <;> rfl

theorem sendNow_restOnly (peer dom home o : Nat) (b : Body) : RestOnly fun s => s.sendNow peer dom home o b := by
  intro s
  have hseq : s.rest.seqOut = s.seqOut := rfl
  unfold State.sendNow
  dsimp only
  rw [hseq]
  split
  · rfl
  · split
    · exact (askRekey_restOnly dom).congr rfl
    · rfl

theorem send_restOnly (peer dom home o : Nat) (b : Body) : RestOnly fun s => s.send peer dom home o b := by
  intro s
  have hheld : s.rest.planeHeld (planeEntry home o) = s.planeHeld (planeEntry home o) := rfl
  simp only [State.send, hheld]
  split
  · rfl
  · exact sendNow_restOnly peer dom home o b s

theorem awaitsAck_restOnly (peer dom o : Nat) : RestOnly fun s => s.awaitsAck peer dom o := fun _ => rfl

theorem pushLine_restOnly (pa : Nat) : RestOnly fun s => s.pushLine pa := by
  intro s
  refine (RestOnly.foldl (fun r t => ?_) s.homes) s
  dsimp only
  rw [inRegion_rest]
  split
  · rfl
  · next o key _ =>
    have pushed (q : Nat) (bs : List Byte) :
        RestOnly fun t => (t.send q r.dom t.selfNum o (.push o bs (t.isPoisoned pa))).awaitsAck q r.dom o := fun t =>
      (awaitsAck_restOnly q r.dom o).congr (send_restOnly q r.dom t.selfNum o (.push o bs (t.isPoisoned pa)) t)
    exact RestOnly.foldl (fun q => pushed q _) r.subs t

theorem noteWrite_restOnly (pa core : Nat) (b a : Option Nat) (self : Option GKey) : RestOnly fun s => s.noteWrite pa core b a self := by
  intro s
  have told (t : State) (ds : List Due) : (t.later ds).rest = t.rest := rfl
  unfold State.noteWrite
  dsimp only
  rw [told, told]
  split
  · exact pushLine_restOnly pa s
  · rfl

theorem reachCopies_restOnly (core base before after : Nat) : RestOnly fun s => s.reachCopies core base before after := by
  intro s
  have hcaches : (s.rest.dropCopies after core base fun u => u.servesCore core || u.within before core).caches =
      (s.dropCopies after core base fun u => u.servesCore core || u.within before core).caches := rfl
  unfold State.reachCopies
  dsimp only
  rw [hcaches]
  split <;> rfl

theorem recallHost_restOnly (pa : Nat) : RestOnly fun s => s.recallHost pa := by
  intro s
  have hcached : s.rest.hostCached = s.hostCached := rfl
  simp only [State.recallHost, hcached]
  split <;> rfl

theorem arriveHome_restOnly (w : PWrite) : RestOnly fun s => s.arriveHome w := by
  have hclean : RestOnly fun s => s.cleanCopies (copyBase w.pa) := fun _ => rfl
  have hwrite : RestOnly fun s => s.homeWrite w.pa w.bytes := fun _ => rfl
  exact hclean.comp ((reachCopies_restOnly w.core (copyBase w.pa) w.reach 6).comp ((noteWrite_restOnly w.pa w.core (some w.reach) none none).comp
    (hwrite.comp (recallHost_restOnly w.pa))))

theorem propagate_restOnly (test : PWrite → Bool) : RestOnly fun s => s.propagate test :=
  fun s => (RestOnly.foldl arriveHome_restOnly (homeBound test s.writes).1).congr rfl

theorem widen_restOnly (id reach : Nat) : RestOnly fun s => s.widen id reach := by
  intro s
  have hwrites : s.rest.writes = s.writes := rfl
  unfold State.widen
  dsimp only
  rw [hwrites]
  split
  · rfl
  · next w _ =>
    split
    · rfl
    · split
      · exact propagate_restOnly _ s
      · exact ((reachCopies_restOnly w.core (copyBase w.pa) w.reach reach).comp (noteWrite_restOnly w.pa w.core (some w.reach) (some reach) none)).congr rfl

theorem observe_restOnly (core pa n : Nat) : RestOnly fun s => s.observe core pa n :=
  fun s => RestOnly.foldl (fun w : PWrite => widen_restOnly w.id (commonScope w.core core))
    (s.writes.filter fun w => overlaps pa n w.pa w.bytes.length && !w.seenBy core) s

theorem release_restOnly (core scope : Nat) : RestOnly fun s => s.release core scope := by
  intro s
  unfold State.release
  split
  · exact propagate_restOnly _ s
  · exact RestOnly.foldl (fun w => widen_restOnly w.id (w.releaseScope core scope)) (s.releaseSet core) s

theorem makeRoom_restOnly (u : CacheUnit) (set : Nat) : RestOnly fun s => s.makeRoom u set := by
  intro s
  have hvictim : s.rest.victim u set = s.victim u set := rfl
  simp only [State.makeRoom, hvictim]
  split
  · rfl
  · cases u <;> rfl

theorem filterRoom_restOnly (base : Nat) : RestOnly fun s => s.filterRoom base := by
  intro s
  have hcaches : s.rest.caches = s.caches := rfl
  simp only [State.filterRoom, hcaches]
  split <;> rfl

theorem addCopy_restOnly (u : CacheUnit) (base : Nat) (st : LineState) (pol : Nat) : RestOnly fun s => s.addCopy u base st pol := by
  intro s
  have hcopy : s.rest.hasCopy u base = s.hasCopy u base := rfl
  have hput : RestOnly fun t => { t with caches := t.caches ++ [⟨u, base, st, pol⟩] } := fun _ => rfl
  have hroom : RestOnly fun t => if t.caches.any fun c => c.cache == u && c.base / 128 == base / 128 then t else t.makeRoom u (u.setOf base) := by
    intro t
    have hcaches : t.rest.caches = t.caches := rfl
    dsimp only
    rw [hcaches]
    split
    · rfl
    · exact makeRoom_restOnly u _ t
  unfold State.addCopy
  dsimp only
  rw [hcopy]
  split
  · rfl
  · exact hput.comp (hroom.comp (filterRoom_restOnly base)) s

theorem fillCopy_restOnly (core base pol : Nat) : RestOnly fun s => s.fillCopy core base pol := by
  intro s
  have hcaches : s.rest.caches = s.caches := rfl
  unfold State.fillCopy
  dsimp only
  rw [hcaches]
  split
  · exact (addCopy_restOnly _ base _ pol).congr rfl
  · exact ((addCopy_restOnly _ base _ pol).comp (addCopy_restOnly _ base _ pol)).congr rfl

theorem loaded_restOnly (core : Nat) (f : Frame) (n pol : Nat) : RestOnly fun s => s.loaded core f n pol := by
  intro s
  unfold State.loaded
  refine (fillCopy_restOnly core (copyBase f.pa) pol).congr ?_
  split
  · exact observe_restOnly core f.pa n s
  · rfl

end Sys2Proof.Machine

/-! Count barriers (R174, R175, R183). -/

namespace Sys2Proof.Machine

-- ## Cells as doublewords

/-- The fields of a cell lie in their ranges; the arrivals may exceed theirs by the one that has just come. -/
structure Cell.Fits (c : Cell) : Prop where
  gen    : c.gen < 256
  target : c.target < 4096
  low    : -2 ^ 27 ≤ c.bytes
  high   : c.bytes < 2 ^ 27

theorem Cell.ofNat_fits (x : Nat) : (Cell.ofNat x).Fits := by
  have hsigned : -2 ^ 27 ≤ signedOf 28 x ∧ signedOf 28 x < 2 ^ 27 := by
    unfold signedOf
    split <;> omega
  exact ⟨Nat.mod_lt _ (by decide), Nat.mod_lt _ (by decide), hsigned.1, hsigned.2⟩

theorem Cell.ofNat_arrived_lt (x : Nat) : (Cell.ofNat x).arrived < 4096 := Nat.mod_lt _ (by decide)

/-- A cell reads back as it was written, its arrivals modulo their range. -/
theorem Cell.ofNat_toNat {c : Cell} (h : c.Fits) : Cell.ofNat c.toNat = { c with arrived := c.arrived % 4096 } := by
  obtain ⟨hgen, htarget, hlow, hhigh⟩ := h
  obtain ⟨gen, err, target, arrived, bytes⟩ := c
  dsimp only at hgen htarget hlow hhigh
  have hbytes : signedOf 28 (2 ^ 56 * (gen % 256) + (if err then 2 ^ 55 else 0) + 2 ^ 40 * (target % 4096) + 2 ^ 28 * (arrived % 4096) +
      (bytes % 2 ^ 28).toNat) = bytes := by
    unfold signedOf
    cases err <;> simp only [Bool.false_eq_true, if_true, if_false] <;> split <;> omega
  have herr : (natBits (2 ^ 56 * (gen % 256) + (if err then 2 ^ 55 else 0) + 2 ^ 40 * (target % 4096) + 2 ^ 28 * (arrived % 4096) +
      (bytes % 2 ^ 28).toNat) 55 55 == 1) = err := by
    cases err <;> simp only [natBits, Bool.false_eq_true, if_true, if_false, beq_eq_false_iff_ne, beq_iff_eq] <;> omega
  have hflag : (if err then 2 ^ 55 else 0) < 2 ^ 56 ∧ (if err then 2 ^ 55 else 0) % 2 ^ 55 = 0 := by cases err <;> decide
  simp only [Cell.ofNat, Cell.toNat, hbytes, herr, Cell.mk.injEq, and_true, true_and]
  generalize (if err then 2 ^ 55 else 0) = e at hflag
  simp only [natBits]
  omega

-- ## What the functions do to a cell

/-- The condition of R174 under which a cell completes its generation. -/
def Cell.turned (c : Cell) : Cell :=
  if c.target ≠ 0 ∧ c.arrived = c.target ∧ c.bytes = 0 then { c with gen := (c.gen + 1) % 256, arrived := 0 } else c

theorem Cell.check_eq (c : Cell) : c.check = c.turned := by
  unfold Cell.check Cell.turned
  refine if_congr ?_ rfl rfl
  simp [and_assoc]

theorem Cell.check_fits {c : Cell} (h : c.Fits) : c.check.Fits := by
  unfold Cell.check
  split
  · exact ⟨Nat.mod_lt _ (by decide), h.target, h.low, h.high⟩
  · exact h

theorem Cell.addBytes_eq (c : Cell) (n : Int) :
    c.addBytes n = if -2 ^ 27 ≤ c.bytes + n ∧ c.bytes + n < 2 ^ 27 then { c with bytes := c.bytes + n } else { c with err := true } := by
  unfold Cell.addBytes
  rw [← ite_not]
  refine if_congr ?_ rfl rfl
  simp only [Bool.or_eq_true, decide_eq_true_eq]
  omega

theorem Cell.addBytes_fits {c : Cell} (h : c.Fits) (n : Int) : (c.addBytes n).Fits := by
  rw [Cell.addBytes_eq]
  split
  next hin => exact ⟨h.gen, h.target, hin.1, hin.2⟩
  next => exact ⟨h.gen, h.target, h.low, h.high⟩

/-- An arrival beyond the range of the count is one too many for a target, which lies in it. -/
theorem Cell.arrive_check {c : Cell} (h : c.Fits) (harr : c.arrived < 4096) :
    { ({ c with arrived := c.arrived + 1 } : Cell).check with arrived := ({ c with arrived := c.arrived + 1 } : Cell).check.arrived % 4096 } =
      ({ c with arrived := (c.arrived + 1) % 4096 } : Cell).turned := by
  have htarget := h.target
  rw [Cell.check_eq]
  unfold Cell.turned
  dsimp only
  by_cases hdone : c.target ≠ 0 ∧ c.arrived + 1 = c.target ∧ c.bytes = 0
  · obtain ⟨hne, hall, hzero⟩ := hdone
    rw [if_pos ⟨hne, hall, hzero⟩, if_pos ⟨hne, by omega, hzero⟩]
    rfl
  · rw [if_neg hdone, if_neg (by omega)]

theorem Cell.turned_arrived {c : Cell} (h : c.arrived < 4096) : { c.turned with arrived := c.turned.arrived % 4096 } = c.turned := by
  unfold Cell.turned
  split
  · rfl
  · rw [Nat.mod_eq_of_lt h]

/-- A generation is passed where the cell's is 1 to 128 past it. -/
theorem Cell.passed_iff (c : Cell) (t : Nat) : c.passed t = true ↔ (c.gen + 511 - t % 256) % 256 < 128 := decide_eq_true_iff

-- ## The cell in its scratchpad

section
variable {s base E t u : State} {k : GKey} {g h : Group} {p : Path} {new : List PendWrite}

theorem bytesOf_eight_toNat (c : Cell) : ofBytes (bytesOf 8 c.toNat) = c.toNat := by
  rw [ofBytes_bytesOf]
  refine Nat.mod_eq_of_lt ?_
  have herr : (if c.err then 2 ^ 55 else 0) ≤ 2 ^ 55 := by split <;> omega
  unfold Cell.toNat
  omega

/-- What a cell's place reads after the cell is written. -/
theorem cellAt_setCell {v : TKey} {a : Nat} {c : Cell} (hv : (kfind s.teams v).isSome = true) (hc : c.Fits) :
    (s.setCell v a c).cellAt v a = { c.check with arrived := c.check.arrived % 4096 } := by
  have hthere (i : Nat) : s.hasPlace ((NearAt.spad v a).plus i) = true := hv
  have hplace : (s.setCell v a c).hasPlace (.spad v a) = true := ((nearWrite_frame s (.spad v a) _ none).1.hasPlace _).trans hv
  have hread : (s.setCell v a c).nearRead (.spad v a) 8 = bytesOf 8 c.check.toNat := by
    rw [nearRead_eq hplace]
    refine List.ext_getElem (by simp) fun i hi hlen => ?_
    rw [List.getElem_map, List.getElem_range]
    exact (nearByte_nearWrite (hthere 0) (hthere i) (bytesOf 8 c.check.toNat) none).1 i hlen rfl
  rw [State.cellAt, hread, bytesOf_eight_toNat, Cell.ofNat_toNat (Cell.check_fits hc)]

/-- Every byte but the cell's stays. -/
theorem nearByte_setCell {v : TKey} {a : Nat} {c : Cell} {y : NearAt} (hv : (kfind s.teams v).isSome = true) (hy : s.hasPlace y = true)
    (hne : ∀ i < 8, y ≠ .spad v (a + i)) : (s.setCell v a c).nearByte y = s.nearByte y :=
  (nearByte_nearWrite (q := .spad v a) hv hy _ none).2 fun i hi e => hne i (by simpa using hi) e.symm

-- ## The instructions

/-- An instruction that changes bytes of near memory, on top of a change of the machine to `s'` that the group's own part has no share in. -/
theorem nearOnly_after {s' : State} (hrest : base.rest = s'.rest) (hothers : ∀ j, j ≠ k → kfind base.groups j = kfind s'.groups j)
    (hframe : NearFrame base E) (herr : SameErrors base E) {q : Group} (hsets : Sets E t k q) (hb : Becomes t u k (g.onWith p none new) h) :
    NearOnly s' u k g h p none new := by
  have hu : u.rest = E.rest := hb.rest.trans hsets.rest
  have hteams : u.teams = E.teams := (congrArg State.teams hu :)
  have hcores : u.cores = E.cores := (congrArg State.cores hu :)
  have hteams' : base.teams = s'.teams := (congrArg State.teams hrest :)
  have hcores' : base.cores = s'.cores := (congrArg State.cores hrest :)
  have hslot : t.slotW = s'.slotW :=
    ((congrArg State.slotW hsets.rest :).trans (congrArg State.slotW hframe.beside :)).trans (congrArg State.slotW hrest :)
  refine ⟨hb.found, ?_, fun v => ?_, fun c => ?_, fun j hj => ?_, hb.group, hb.regs, hb.aflags, hb.cur, hslot ▸ hb.pend⟩
  · refine (congrArg (fun z : State => { z with teams := [], cores := [], notes := [] }) hu).trans ?_
    refine Eq.trans (congrArg State.rest hframe.beside :) ?_
    exact congrArg (fun z : State => { z with teams := [], cores := [], notes := [] }) hrest
  · rw [hteams, ← hteams']
    exact team_but_bytes (hframe.teams v) (herr.teams v)
  · refine (core_but_bytes (x := u.core c) (y := base.core c) ?_ ?_).trans (by rw [State.core, hcores', ← State.core])
    · rw [State.core, hcores]
      exact hframe.cores c
    · rw [State.core, hcores]
      exact herr.cores c
  · rw [hb.others j hj, hsets.others j hj, hframe.groups, hothers j hj]

def cbarForm (d a : Reg) (reads : List Nat) : Form := { names := [d.toNat, a.toNat], reads := a.toNat :: reads, oneBeat := true }

variable {kind : MemKind} {reads : List Nat} {d a : Reg} {body : View → Nat → Word → Res}

/-- The address of a cell, in a register of the lowest lane, is aligned and in the team's scratchpad. -/
structure CellAddress (s : State) (k : GKey) (g : Group) (p : Path) (a : Reg) : Prop where
  team    : (kfind s.teams k.tkey).isSome = true
  aligned : (g.seen a.toNat (lowestLane p.ex)).toNat % 8 = 0
  low     : (g.seen a.toNat (lowestLane p.ex)).toNat < 2 ^ 31
  inside  : (g.seen a.toNat (lowestLane p.ex)).toNat + 8 ≤ 1024 * (s.team k.tkey).spRows

/-- A CBAR function without a fence before it and with a good address is its body. -/
theorem cbar_eq (hi : Issuing s k g p) (hf : g.fences = []) (ha : CellAddress s k g p a) :
    cbar kind reads d a body s = issue (fun _ => cbarForm d a reads) (fun v => body v (v.rd a.toNat)[v.f].toNat (v.rd d.toNat)[v.f]) s := by
  have hx : ((s.view k g p none).rd a.toNat)[(s.view k g p none).f] = g.seen a.toNat (lowestLane p.ex) := view_rd s k g p none a.toNat _
  have htop : (g.seen a.toNat (lowestLane p.ex)).getLsbD 31 = false := Nat.testBit_lt_two_pow ha.low
  have hsp : (s.view k g p none).team.spBytes = 1024 * (s.team k.tkey).spRows := Nat.mul_comm _ _
  refine issue_congr hi (cbarForm d a reads) rfl ?_
  refine (fenced_unheld (v := s.view k g p none) hf kind _).trans ?_
  dsimp only
  rw [hx, if_neg (not_not.2 ha.aligned), htop, hsp, Bool.false_or, if_neg (by simpa using ha.inside)]
  rfl

/-- States whose teams and cores are the same have the same bytes of near memory. -/
theorem nearByte_of_near (hteams : t.teams = s.teams) (hcores : t.cores = s.cores) {y : NearAt} (hy : s.hasPlace y = true) :
    t.nearByte y = s.nearByte y := by
  cases y with
  | column c o => rw [nearByte_column, nearByte_column, State.core, hcores, ← State.core]
  | spad v o =>
    obtain ⟨z, hz⟩ := spad_resident hy
    rw [nearByte_spad hz, nearByte_spad (hteams ▸ hz)]

theorem cellAt_of_near (hteams : t.teams = s.teams) (hcores : t.cores = s.cores) {v : TKey} (hv : (kfind s.teams v).isSome = true) (a : Nat) :
    t.cellAt v a = s.cellAt v a := by
  have hread : t.nearRead (.spad v a) 8 = s.nearRead (.spad v a) 8 :=
    nearRead_congr hv (by simpa [State.hasPlace, hteams] using hv) fun i _ => nearByte_of_near hteams hcores hv
  rw [State.cellAt, hread, ← State.cellAt]

/-- A CBAR function that writes its cell, after a change of the machine to `base` that leaves near memory and the groups alone. -/
theorem cbar_sets {i : Instr} {s' : State} {c : Cell} {x : Nat} (hexec : exec i s = cbar kind reads d a body s) (hi : Issuing s k g p)
    (hf : g.fences = []) (ha : CellAddress s k g p a) (hr : Ready s k g p [d.toNat, a.toNat] (a.toNat :: reads))
    (hx : (g.seen a.toNat (lowestLane p.ex)).toNat = x)
    (hbody : body (s.view k g p none) x (g.seen d.toNat (lowestLane p.ex)) = .ok t) (hc : c.Fits)
    (hrest : base.rest = s'.rest) (hgroups : base.groups = (s.view k g p none).s.groups) (hothers : s'.groups = s.groups)
    (hteams : base.teams = s.teams) (hcores : base.cores = s.cores)
    (hsets : Sets (base.setCell k.tkey x c) t k { g.counted s.issued with pend := g.pend ++ new }) :
    ∃ t h, exec i s = .next t ∧ NearOnly s' t k g h p none new ∧ t.cellAt k.tkey x = { c.check with arrived := c.check.arrived % 4096 } ∧
      ∀ y : NearAt, s.hasPlace y = true → (∀ i < 8, y ≠ .spad k.tkey (x + i)) → t.nearByte y = s.nearByte y := by
  have hteam : (kfind base.teams k.tkey).isSome = true := hteams ▸ ha.team
  obtain ⟨hframe, herr⟩ := nearWrite_frame base (.spad k.tkey x) (bytesOf 8 c.check.toNat) none
  have hcell := cellAt_setCell (a := x) hteam hc
  obtain ⟨u, h, hu, hb⟩ := ok_becomes (form := fun _ => cbarForm d a reads)
    (body := fun v => body v (v.rd a.toNat)[v.f].toNat (v.rd d.toNat)[v.f]) (s' := t)
    (g1 := { g.counted s.issued with pend := g.pend ++ new })
    (q := { g with pend := g.pend ++ new }) hi (cbarForm d a reads) rfl hr rfl rfl rfl (by simp [cbarForm, Uniform]) (by simp [cbarForm])
    (by rw [view_rd, view_rd]; exact hx ▸ hbody) ⟨hsets.found, rfl, fun _ _ => rfl⟩ rfl
  have hrestu := hb.rest.trans hsets.rest
  refine ⟨u, h, (hexec.trans (cbar_eq hi hf ha)).trans hu, nearOnly_after hrest (fun j hj => ?_) hframe herr hsets hb, ?_, fun y hy hne => ?_⟩
  · rw [hgroups, hothers, view_others none hj]
  · rw [cellAt_of_near (s := base.setCell k.tkey x c) (t := u) (congrArg State.teams hrestu :) (congrArg State.cores hrestu :) ?_, hcell]
    exact (hframe.hasPlace (.spad k.tkey 0)).trans hteam
  · have hy' : base.hasPlace y = true := by
      cases y with
      | spad v o =>
        rw [State.hasPlace, hteams]
        exact hy
      | column v o => rfl
    rw [nearByte_of_rest hrestu ((hframe.hasPlace y).trans hy'), nearByte_setCell hteam hy' hne, nearByte_of_near hteams hcores hy]

/-- A CBAR function that writes no cell and completes. -/
theorem cbar_completes {i : Instr} {g1 : Group} (hexec : exec i s = cbar kind reads d a body s) (hi : Issuing s k g p)
    (hf : g.fences = []) (ha : CellAddress s k g p a) (hr : Ready s k g p [d.toNat, a.toNat] (a.toNat :: reads))
    (hbody : body (s.view k g p none) (g.seen a.toNat (lowestLane p.ex)).toNat (g.seen d.toNat (lowestLane p.ex)) = .ok t)
    (hsets : Sets s t k g1) (hg : g1.Alike { g with pend := g.pend ++ new }) :
    ∃ t h, exec i s = .next t ∧ Becomes s t k (g.onWith p none new) h := by
  obtain ⟨u, h, hu, hb⟩ := ok_becomes (form := fun _ => cbarForm d a reads) (body := fun v => body v (v.rd a.toNat)[v.f].toNat (v.rd d.toNat)[v.f])
    hi (cbarForm d a reads) rfl hr rfl rfl rfl (by simp [cbarForm, Uniform]) (by simp [cbarForm]) (by rw [view_rd, view_rd]; exact hbody) hsets hg
  exact ⟨u, h, (hexec.trans (cbar_eq hi hf ha)).trans hu, hb⟩

/-- A CBAR function that waits. -/
theorem cbar_holds {i : Instr} (hexec : exec i s = cbar kind reads d a body s) (hi : Issuing s k g p)
    (hf : g.fences = []) (ha : CellAddress s k g p a) (hr : Ready s k g p [d.toNat, a.toNat] (a.toNat :: reads))
    (hbody : body (s.view k g p none) (g.seen a.toNat (lowestLane p.ex)).toNat (g.seen d.toNat (lowestLane p.ex)) = .hold []) :
    exec i s = .next (s.holdIssue k []) := by
  refine (hexec.trans (cbar_eq hi hf ha)).trans (issue_hold hi (cbarForm d a reads) rfl hr.waits [] ?_)
  refine (checked_ok (f := cbarForm d a reads) hr rfl rfl rfl (by simp [cbarForm, Uniform]) (by simp [cbarForm])).trans ?_
  rw [view_rd, view_rd]
  exact hbody

theorem testWord_eq (passed err : Bool) :
    (if passed then 1#32 else 0#32) ||| (if err then 2#32 else 0#32) = BitVec.ofNat 32 ((if passed then 1 else 0) + if err then 2 else 0) := by
  cases passed <;> cases err <;> rfl

theorem cellAt_view {v : TKey} (hv : (kfind s.teams v).isSome = true) (x : Nat) : (s.view k g p none).s.cellAt v x = s.cellAt v x :=
  cellAt_of_near (s := s) (t := (s.view k g p none).s) rfl rfl hv x

theorem cellAt_fits (s : State) (v : TKey) (x : Nat) : (s.cellAt v x).Fits := Cell.ofNat_fits _

theorem cellAt_arrived_lt (s : State) (v : TKey) (x : Nat) : (s.cellAt v x).arrived < 4096 := Cell.ofNat_arrived_lt _

/-- INIT, EXPECT: the cell is written and nothing else happens. -/
theorem cbar_writes {i : Instr} {c c' : Cell} {x : Nat} {reads : List Nat} (hexec : exec i s = cbar kind reads d a body s) (hi : Issuing s k g p)
    (hf : g.fences = []) (ha : CellAddress s k g p a) (hr : Ready s k g p [d.toNat, a.toNat] (a.toNat :: reads))
    (hx : (g.seen a.toNat (lowestLane p.ex)).toNat = x)
    (hbody : body (s.view k g p none) x (g.seen d.toNat (lowestLane p.ex)) = .ok ((s.view k g p none).s.setCell k.tkey x c)) (hc : c.Fits)
    (hc' : { c.check with arrived := c.check.arrived % 4096 } = c') :
    ∃ t h, exec i s = .next t ∧ NearOnly s t k g h p none [] ∧ t.cellAt k.tkey x = c' ∧
      ∀ y : NearAt, s.hasPlace y = true → (∀ i < 8, y ≠ .spad k.tkey (x + i)) → t.nearByte y = s.nearByte y := by
  have hframe := (nearWrite_frame (s.view k g p none).s (.spad k.tkey x) (bytesOf 8 c.check.toNat) none).1
  refine hc' ▸ cbar_sets hexec hi hf ha hr hx hbody hc (view_rest none) rfl rfl rfl rfl ⟨?_, rfl, fun _ _ => rfl⟩
  rw [List.append_nil, State.setCell, hframe.groups]
  exact view_found none

/-- ARRIVE: a release at core scope, the cell, and the generation that it had. -/
theorem cbar_arrives (hi : Issuing s k g p) (hf : g.fences = []) (ha : CellAddress s k g p a) (hr : Ready s k g p [d.toNat, a.toNat] [a.toNat])
    {x : Nat} (hx : (g.seen a.toNat (lowestLane p.ex)).toNat = x) {c : Cell} (hc : s.cellAt k.tkey x = c) :
    ∃ t h, exec (.cbarArrive d a) s = .next t ∧ NearOnly (s.release (s.coreOf k) 1) t k g h p none
        [{ reg := g.wbasev + d.toNat, mask := p.ex, vals := uniformLanes (BitVec.ofNat 32 c.gen), left := none }] ∧
      t.cellAt k.tkey x = (if c.target = 0 ∨ c.arrived = c.target then { c with err := true } else { c with arrived := (c.arrived + 1) % 4096 }).turned ∧
      ∀ y : NearAt, s.hasPlace y = true → (∀ i < 8, y ≠ .spad k.tkey (x + i)) → t.nearByte y = s.nearByte y := by
  have hfits : c.Fits := hc ▸ cellAt_fits s k.tkey x
  have harr : c.arrived < 4096 := hc ▸ cellAt_arrived_lt s k.tkey x
  have hview : (s.view k g p none).s.cellAt k.tkey x = c := (cellAt_view ha.team x).trans hc
  have hbeside := release_beside (s.view k g p none).s (s.coreOf k) 1
  have hgroups := release_groups (s.view k g p none).s (s.coreOf k) 1
  generalize hnew : (if c.target = 0 || c.arrived = c.target then { c with err := true } else { c with arrived := c.arrived + 1 } : Cell) = c1
  have hc1 : c1.Fits := by
    rw [← hnew]
    split
    · exact ⟨hfits.gen, hfits.target, hfits.low, hfits.high⟩
    · exact ⟨hfits.gen, hfits.target, hfits.low, hfits.high⟩
  have hturned : { c1.check with arrived := c1.check.arrived % 4096 } =
      (if c.target = 0 ∨ c.arrived = c.target then { c with err := true } else { c with arrived := (c.arrived + 1) % 4096 } : Cell).turned := by
    rw [← hnew]
    by_cases hfull : c.target = 0 ∨ c.arrived = c.target
    · rw [if_pos (by simpa using hfull), if_pos hfull, Cell.check_eq]
      exact Cell.turned_arrived harr
    · rw [if_neg (by simpa using hfull), if_neg hfull]
      exact Cell.arrive_check hfits harr
  have hframe := (nearWrite_frame ((s.view k g p none).s.release (s.coreOf k) 1) (.spad k.tkey x) (bytesOf 8 c1.check.toNat) none).1
  rw [← hturned]
  refine cbar_sets (base := (s.view k g p none).s.release (s.coreOf k) 1)
    (t := (s.view k g p none).wrLaterAll (((s.view k g p none).s.release (s.coreOf k) 1).setCell k.tkey x c1) d.toNat (BitVec.ofNat 32 c.gen))
    (exec_cbarArrive d a s) hi hf ha hr hx ?_ hc1
    ((release_restOnly (s.coreOf k) 1).congr (view_rest none)) hgroups (release_groups s _ 1) (congrArg State.teams hbeside :)
    (congrArg State.cores hbeside :) ?_
  · exact congrArg (fun e : Cell => Res.ok ((s.view k g p none).wrLaterAll (((s.view k g p none).s.release (s.coreOf k) 1).setCell k.tkey x
      (if e.target = 0 || e.arrived = e.target then { e with err := true } else { e with arrived := e.arrived + 1 })) d.toNat (BitVec.ofNat 32 e.gen)))
      hview |>.trans (by rw [hnew])
  · refine Sets.modGroup (q := g.counted s.issued) ⟨?_, rfl, fun _ _ => rfl⟩ _
    rw [State.setCell, hframe.groups, hgroups]
    exact view_found none

end

/-- The cell that INIT writes for a target. -/
def initCell (m : Word) : Cell := if 1 ≤ m.toNat ∧ m.toNat ≤ 4095 then ⟨0, false, m.toNat, 0, 0⟩ else ⟨0, true, 0, 0, 0⟩

theorem initCell_eq (m : Word) : (⟨0, m = 0#32 || decide (4095 < m.toNat), if m = 0#32 || decide (4095 < m.toNat) then 0 else m.toNat, 0, 0⟩ : Cell) =
    initCell m := by
  have hbad : (m = 0#32 || decide (4095 < m.toNat)) = !decide (1 ≤ m.toNat ∧ m.toNat ≤ 4095) := by
    rw [Bool.eq_iff_iff]
    simp only [Bool.or_eq_true, decide_eq_true_eq, Bool.not_eq_true', decide_eq_false_iff_not, ← BitVec.toNat_inj, BitVec.toNat_zero]
    omega
  rw [hbad, initCell]
  by_cases hin : 1 ≤ m.toNat ∧ m.toNat ≤ 4095 <;> simp [hin]

theorem initCell_fits (m : Word) : (initCell m).Fits := by
  unfold initCell
  split
  · exact ⟨by norm_num, by dsimp only; omega, by norm_num, by norm_num⟩
  · exact ⟨by decide, by decide, by decide, by decide⟩

/-- A target that is not 0 has not arrived yet. -/
theorem initCell_check (m : Word) : { (initCell m).check with arrived := (initCell m).check.arrived % 4096 } = initCell m := by
  have hstays : (initCell m).check = initCell m := by
    rw [Cell.check_eq, Cell.turned, if_neg]
    unfold initCell
    split
    · rintro ⟨hne, harr, -⟩
      exact hne harr.symm
    · rintro ⟨hne, -⟩
      exact hne rfl
  rw [hstays]
  unfold initCell
  split <;> rfl

/-- Settles O34: a cell reads back as it is written, and its functions are the changes of R174. -/
theorem countBarriers : Obligations.CountBarriers := by
  unfold Obligations.CountBarriers
  intro s k g p hi hf d a hteam
  dsimp only
  intro halign hlow hinside
  have ha : CellAddress s k g p a := ⟨hteam, halign, hlow, hinside⟩
  have hfits := cellAt_fits s k.tkey (g.seen a.toNat (lowestLane p.ex)).toNat
  have harr := cellAt_arrived_lt s k.tkey (g.seen a.toNat (lowestLane p.ex)).toNat
  have hview := cellAt_view (k := k) (g := g) (p := p) hteam (g.seen a.toNat (lowestLane p.ex)).toNat
  refine ⟨fun hr => ⟨?_, ?_, ⟨fun n h1 h128 hgen => ?_, fun n hn hgen hn' => ?_⟩, ?_⟩, fun hr => cbar_arrives hi hf ha hr rfl rfl⟩
  · refine cbar_writes (exec_cbarInit d a s) hi hf ha hr rfl rfl ?_ ?_
    · rw [initCell_eq]
      exact initCell_fits _
    · rw [initCell_eq]
      exact initCell_check _
  · refine cbar_writes (exec_cbarExpect d a s) hi hf ha hr rfl
      (congrArg (fun c : Cell => Res.ok ((s.view k g p none).s.setCell k.tkey _ (c.addBytes _))) hview) (Cell.addBytes_fits hfits _) ?_
    rw [Cell.check_eq, Cell.addBytes_eq]
    refine Cell.turned_arrived ?_
    split <;> exact harr
  · refine cbar_completes (exec_cbarWait d a s) hi hf ha hr (if_pos ?_) (sets_view s k g p none) (by rw [List.append_nil]; rfl)
    refine (congrArg (Cell.passed · _) hview).trans ((Cell.passed_iff _ _).2 ?_)
    rw [hgen]
    omega
  · refine cbar_holds (exec_cbarWait d a s) hi hf ha hr (if_neg fun hpassed => ?_)
    have hwindow := (Cell.passed_iff _ _).1 ((congrArg (Cell.passed · _) hview).symm.trans hpassed)
    omega
  · refine cbar_completes (t := (s.view k g p none).wrLaterAll (s.view k g p none).s d.toNat _) (exec_cbarTest d a s) hi hf ha hr ?_
      ((sets_view s k g p none).modGroup _) rfl
    refine (congrArg (fun c : Cell => Res.ok ((s.view k g p none).wrLaterAll (s.view k g p none).s d.toNat
      ((if c.passed _ then 1#32 else 0#32) ||| (if c.err then 2#32 else 0#32)))) hview).trans ?_
    rw [testWord_eq]
    simp only [Cell.passed_iff]

end Sys2Proof.Machine

/-! Copies enter their queue (R168, R172, R178, R180, R181). -/

namespace Sys2Proof.Machine

section
variable {s : State} {k : GKey} {g : Group} {p : Path} {d a b : Reg} {kind : CopyKind} {bar : Word}

-- ## The queue

/-- The copies of a group's partition in its core's queue (R168). -/
def State.queueOf (s : State) (k : GKey) : List Copy := s.copies.filter fun c => c.core = s.coreOf k && partOf c.key = partOf k

/-- The copy that a group puts into the queue. -/
def newCopy (s : State) (k : GKey) (g : Group) (kind : CopyKind) (bar : Word) : Copy :=
  { id := s.fresh, key := k, core := s.coreOf k, kind := kind, bar := if bar.toNat = 0xFFFFFFFF then none else some bar.toNat
    mode := g.mode, batch := g.tb.committed + 1#32, idx := min g.tb.opened 0xFFFF }

/-- The machine with one more copy. -/
def State.addToQueue (s : State) (c : Copy) : State := { s with fresh := s.fresh + 1, copies := s.copies ++ [c] }

/-- The group with one more operation in its open batch. -/
def Group.opensOne (g : Group) : Group := { g with tb := { g.tb with opened := g.tb.opened + 1 } }

theorem queueCopy_full (h : 64 ≤ (s.queueOf k).length) : (s.view k g p none).queueCopy kind bar = .hold [] := if_pos h

theorem queueCopy_room (h : (s.queueOf k).length < 64) (hf : ∀ f ∈ g.fences, f.kind ≠ 4) :
    ∃ t, (s.view k g p none).queueCopy kind bar = .ok t ∧ Sets (s.addToQueue (newCopy s k g kind bar)) t k (g.opensOne.counted s.issued) := by
  have hbar : (bar = 0xFFFFFFFF#32) = (bar.toNat = 0xFFFFFFFF) := propext (BitVec.toNat_inj (y := 0xFFFFFFFF#32)).symm
  have hview : Sets (s.addToQueue (newCopy s k g kind bar)) ((s.view k g p none).s.addToQueue (newCopy s k g kind bar)) k (g.counted s.issued) :=
    ⟨view_found (p := p) none, rfl, fun _ hj => view_others (g := g) (p := p) none hj⟩
  refine ⟨_, ((if_neg (Nat.not_le.2 h)).trans (fenced_async (v := s.view k g p none) hf _)).trans ?_, hview.modGroup Group.opensOne⟩
  dsimp only
  simp only [hbar]
  rfl

/-- What an instruction does that ends in the queue. -/
theorem enters_queue {i : Instr} {form : View → Form} {body : View → Res} (hi : Issuing s k g p) (hf : ∀ f ∈ g.fences, f.kind ≠ 4)
    (hexec : exec i s = issue form body s) (f : Form) (hform : form ⟨s, k, g, p, p.pc + 4#32⟩ = f) (hpfx : f.pfx = none)
    (hr : Ready s k g p f.names f.reads) (hill : f.illegal = false) (hpriv : f.priv = false) (hlate : f.late = []) (hu : Uniform g p f.unif)
    (hch : f.check = false) (hbody : body (s.view k g p none) = (s.view k g p none).queueCopy kind bar) :
    ((s.queueOf k).length < 64 → ∃ t h, exec i s = .next t ∧ Becomes (s.addToQueue (newCopy s k g kind bar)) t k (g.opensOne.onWith p none []) h) ∧
    (64 ≤ (s.queueOf k).length → exec i s = .next (s.holdIssue k [])) := by
  have hno : f.check = true → NoPosted g := fun h => absurd (hch.symm.trans h) Bool.false_ne_true
  refine ⟨fun hroom => ?_, fun hfull => ?_⟩
  · obtain ⟨t, ht, hsets⟩ := queueCopy_room (p := p) (kind := kind) (bar := bar) hroom hf
    obtain ⟨u, h, hissue, hb⟩ := ok_becomes hi f hform hr hill hpriv hlate hu hno (hpfx ▸ hbody.trans ht) hsets (q := g.opensOne) rfl
    refine ⟨u, h, hexec.trans hissue, ?_⟩
    rw [Group.onWith, List.append_nil]
    exact hpfx ▸ hb
  · refine hexec.trans (issue_hold hi f hform hr.waits [] ((checked_ok hr hill hpriv hlate hu hno).trans ?_))
    rw [hpfx, hbody]
    exact queueCopy_full hfull

-- ## Checks that pass

/-- The operand of a copy's cell is none, or the address of one. -/
def goodCell (s : State) (k : GKey) (bar : Word) : Prop :=
  bar.toNat = 0xFFFFFFFF ∨ (bar.toNat % 8 = 0 ∧ bar.toNat < 2 ^ 31 ∧ bar.toNat + 8 ≤ 1024 * (s.team k.tkey).spRows)

theorem goodCell_align (h : goodCell s k bar) : badCellAlign bar = false := by
  have hbar : bar = 0xFFFFFFFF#32 ↔ bar.toNat = 0xFFFFFFFF := (BitVec.toNat_inj (y := 0xFFFFFFFF#32)).symm
  rcases h with hnone | ⟨halign, -⟩
  · simp [badCellAlign, hbar.2 hnone]
  · simp [badCellAlign, halign]

theorem top_clear {w : Word} (h : w.toNat < 2 ^ 31) : w.getLsbD 31 = false := Nat.testBit_lt_two_pow h

theorem goodCell_range (h : goodCell s k bar) : badCellRange bar (s.team k.tkey).spBytes = false := by
  have hbar : bar = 0xFFFFFFFF#32 ↔ bar.toNat = 0xFFFFFFFF := (BitVec.toNat_inj (y := 0xFFFFFFFF#32)).symm
  rcases h with hnone | ⟨-, hlow, hin⟩
  · simp [badCellRange, hbar.2 hnone]
  · rw [Nat.mul_comm] at hin
    simp only [badCellRange, top_clear hlow, Bool.false_or, Bool.and_eq_false_iff, decide_eq_false_iff_not]
    exact .inr (Nat.not_lt.2 hin)

-- ## TCOPY and TSTORE

def coordRegs (b : Reg) : List Nat := (List.range 6).map (b.toNat + ·)

/-- The record that the lowest lane's handle names, as a copy's tensor. -/
def recordOf (s : State) (k : GKey) (g : Group) (p : Path) (a : Reg) : BitVec 1024 := (s.team k.tkey).handleRecord (g.seen a.toNat (lowestLane p.ex))

def originOf (g : Group) (p : Path) (b : Reg) : List Int := (coordRegs b).map fun i => (g.seen i (lowestLane p.ex)).toInt

theorem tileCopy_queues {i : Instr} {store : Bool} {o cell : Word} (hexec : exec i s = tileCopy store d a b s) (hi : Issuing s k g p)
    (hf : ∀ f ∈ g.fences, f.kind ≠ 4) (hr : Ready s k g p (a.toNat :: (pairRegs d.toNat ++ coordRegs b)) (a.toNat :: (pairRegs d.toNat ++ coordRegs b)))
    (hu : Uniform g p [a.toNat]) (hvalid : ∀ L : Fin 32, p.ex.getLsbD L = true → (s.team k.tkey).handleValid (g.seen a.toNat L) = true)
    (ho : g.seen d.toNat (lowestLane p.ex) = o) (hcell : g.seen (d.toNat + 1) (lowestLane p.ex) = cell) (halign : o.toNat % 128 = 0)
    (hskew : (originOf g p b).headD 0 * (Tensor.ofRecord (recordOf s k g p a)).w % 128 = 0) (hlow : o.toNat < 2 ^ 31)
    (hin : o.toNat + (Tensor.ofRecord (recordOf s k g p a)).tileBytes ≤ 1024 * (s.team k.tkey).spRows) (hgood : goodCell s k cell)
    (hexp : (Tensor.ofRecord (recordOf s k g p a)).exp = 0 ∨ store = false ∧ fmtReserved p.fmt = false) :
    ((s.queueOf k).length < 64 → ∃ t h, exec i s = .next t ∧
      Becomes (s.addToQueue (newCopy s k g (.tile store (recordOf s k g p a) o.toNat (originOf g p b)) cell)) t k (g.opensOne.onWith p none []) h) ∧
    (64 ≤ (s.queueOf k).length → exec i s = .next (s.holdIssue k [])) := by
  have hbad : View.badHandle ⟨s, k, g, p, p.pc + 4#32⟩ a.toNat = false := by
    rw [View.badHandle, Bool.and_eq_false_iff]
    refine .inr (List.any_eq_false.2 fun L hL => ?_)
    rw [Bool.not_eq_true', Bool.not_eq_false]
    exact hvalid L (mem_maskLanes.1 hL)
  have hsp : (s.team k.tkey).spBytes = 1024 * (s.team k.tkey).spRows := Nat.mul_comm _ _
  have hcellAlign := goodCell_align hgood
  have hcellRange := goodCell_range hgood
  have hrange : (o.getLsbD 31 || decide ((s.team k.tkey).spBytes < o.toNat + (Tensor.ofRecord (recordOf s k g p a)).tileBytes)) = false := by
    rw [top_clear hlow, hsp, Bool.false_or, decide_eq_false_iff_not, Nat.not_lt]
    exact hin
  have hrd (r : Nat) : ((s.view k g p none).rd r)[(s.view k g p none).f] = g.seen r (lowestLane p.ex) := view_rd s k g p none r _
  have htensor : (s.view k g p none).tensor a.toNat = recordOf s k g p a := rfl
  have hteam : (s.view k g p none).team = s.team k.tkey := rfl
  have horigin : ((List.range 6).map (b.toNat + ·)).map (fun i => (g.seen i (lowestLane p.ex)).toInt) = originOf g p b := rfl
  rw [tileCopy] at hexec
  refine enters_queue hi hf hexec _ rfl rfl hr ?_ rfl rfl hu rfl ?_
  · dsimp only
    rw [hbad, Bool.false_or, Bool.and_eq_false_iff, Bool.and_eq_false_iff]
    rcases hexp with hzero | ⟨rfl, hreserved⟩
    · exact .inl (.inr (decide_eq_false (not_not.2 hzero)))
    · exact .inr hreserved
  · dsimp only
    simp only [hrd, htensor, hteam, horigin, ho, hcell]
    rw [if_neg (not_not.2 halign), if_neg (not_not.2 hskew), hcellAlign, if_neg Bool.false_ne_true, hrange, if_neg Bool.false_ne_true, hcellRange,
      if_neg Bool.false_ne_true]

-- ## LCOPY

/-- A layer address of an LCOPY passes its own checks (R181). -/
def goodLayer (s : State) (k : GKey) (g : Group) (n : Nat) (y : DWord) : Prop :=
  y.toNat % 16 = 0 ∧ match layerOf y with
    | .global _ => True
    | .near o => ∃ z, s.nearDecode k.tkey g.mode o n = some z
    | .twin _ => (s.record k.tkey).beam = true
    | .bad => False

variable {n : Nat} {y : DWord}

theorem goodLayer_ne_bad (h : goodLayer s k g n y) : layerOf y ≠ .bad := by
  intro hbad
  obtain ⟨-, hy⟩ := h
  rw [hbad] at hy
  exact hy

theorem goodLayer_near (h : goodLayer s k g n y) : (s.view k g p none).badNearLayer y n = false := by
  obtain ⟨-, hy⟩ := h
  unfold View.badNearLayer
  split
  next o ho =>
    rw [ho] at hy
    obtain ⟨z, hz⟩ := hy
    rw [show (s.view k g p none).s.nearDecode (s.view k g p none).k.tkey (s.view k g p none).g.mode o n = some z from hz]
    rfl
  next => rfl

theorem goodLayer_twin (h : goodLayer s k g n y) : (isTwinLayer y && !(s.view k g p none).holdsBeam) = false := by
  obtain ⟨-, hy⟩ := h
  unfold isTwinLayer
  split
  next o ho =>
    rw [ho] at hy
    rw [show (s.view k g p none).holdsBeam = true from hy]
    rfl
  next => rfl

def lcopyRegs (d a b : Reg) : List Nat := pairRegs d.toNat ++ pairRegs a.toNat ++ pairRegs b.toNat

theorem lcopy_queues {dst src : DWord} {len cell : Word} (hi : Issuing s k g p) (hf : ∀ f ∈ g.fences, f.kind ≠ 4)
    (hr : Ready s k g p (lcopyRegs d a b) (lcopyRegs d a b)) (hd : g.seen2 d.toNat (lowestLane p.ex) = dst)
    (hs : g.seen2 a.toNat (lowestLane p.ex) = src) (hlen : g.seen b.toNat (lowestLane p.ex) = len)
    (hcell : g.seen (b.toNat + 1) (lowestLane p.ex) = cell) (hdst : goodLayer s k g len.toNat dst) (hsrc : goodLayer s k g len.toNat src)
    (htwin : isTwinLayer src = false ∨ isTwinLayer dst = false) (halign : len.toNat % 16 = 0) (hpos : 0 < len.toNat) (hmax : len.toNat ≤ 16777216)
    (hgood : goodCell s k cell) :
    ((s.queueOf k).length < 64 → ∃ t h, exec (.lcopy d a b) s = .next t ∧
      Becomes (s.addToQueue (newCopy s k g (.layer src dst len.toNat) cell)) t k (g.opensOne.onWith p none []) h) ∧
    (64 ≤ (s.queueOf k).length → exec (.lcopy d a b) s = .next (s.holdIssue k [])) := by
  have hrd (r : Nat) : ((s.view k g p none).rd r)[(s.view k g p none).f] = g.seen r (lowestLane p.ex) := view_rd s k g p none r _
  have hrd2 (r : Nat) : ((s.view k g p none).rd2 r)[(s.view k g p none).f] = g.seen2 r (lowestLane p.ex) := view_rd2 s k g p none r _
  have hrange : badCellRange cell (s.view k g p none).team.spBytes = false := goodCell_range hgood
  have hsize : (len.toNat = 0 || decide (16777216 < len.toNat)) = false := by
    simp only [Bool.or_eq_false_iff, decide_eq_false_iff_not]
    omega
  have htwins : (isTwinLayer src && isTwinLayer dst) = false := by rwa [Bool.and_eq_false_iff]
  refine enters_queue hi hf (exec_lcopy d a b s) { names := lcopyRegs d a b, reads := lcopyRegs d a b, oneBeat := true } rfl rfl hr rfl rfl rfl
    (by simp [Uniform]) rfl ?_
  dsimp only
  simp only [hrd, hrd2, hd, hs, hlen, hcell]
  rw [if_neg (goodLayer_ne_bad hsrc), if_neg (goodLayer_ne_bad hdst), if_neg (not_not.2 hsrc.1), if_neg (not_not.2 hdst.1), if_neg (not_not.2 halign)]
  simp only [goodCell_align hgood, hsize, goodLayer_near hsrc, goodLayer_near hdst, htwins, goodLayer_twin hsrc, goodLayer_twin hdst, hrange,
    Bool.false_eq_true, if_false]

end

/-- Settles O35: the checks passed, all three end in the queue, which holds them where it is full. -/
theorem copiesEnterTheirQueue : Obligations.CopiesEnterTheirQueue := by
  unfold Obligations.CopiesEnterTheirQueue
  intro s k g p hi hf d a b
  dsimp only
  refine ⟨fun hr hu hvalid halign hskew hin hgood => ⟨fun hexp => ?_, fun hexp => ?_⟩, fun hr hdst hsrc htwin halign hpos hmax hgood => ?_⟩
  · exact tileCopy_queues (exec_tcopy d a b s) hi hf hr hu hvalid rfl rfl halign hskew hin.1 hin.2 hgood (hexp.imp id fun h => ⟨rfl, h⟩)
  · exact tileCopy_queues (exec_tstore d a b s) hi hf hr hu hvalid rfl rfl halign hskew hin.1 hin.2 hgood (.inl hexp)
  · exact lcopy_queues hi hf hr rfl rfl rfl rfl hdst hsrc htwin halign hpos hmax hgood

end Sys2Proof.Machine

/-! Tile records and batches (R166, R167, R172, R173, R179, R182). -/

namespace Sys2Proof.Machine

section
variable {s s' E t : State} {k : GKey} {g : Group} {p : Path} {d a : Reg} {x : Team} {new : List PendWrite}

-- ## A record that is read

theorem loaded_groups (s : State) (core : Nat) (f : Frame) (n pol : Nat) : (s.loaded core f n pol).groups = s.groups :=
  (residents_eq (loaded_residents s core f n pol)).1

/-- The group with writes on their way, its instruction counted. -/
def Group.sending (g : Group) (n : Nat) (new : List PendWrite) : Group := { g.counted n with pend := g.pend ++ new }

/-- A word to D of every active lane. -/
def wordWrite (g : Group) (p : Path) (r : Nat) (w : Word) : PendWrite := { reg := g.wbasev + r, mask := p.ex, vals := uniformLanes w, left := none }

/-- The view of the group, before a machine that has changed. -/
def viewIn (s : State) (k : GKey) (g : Group) (p : Path) (E : State) : View := { s.view k g p none with s := E }

theorem wrLaterAll_sets {v : View} {n : Nat} (hv : v.k = k ∧ v.g.wbasev = g.wbasev ∧ v.ex = p.ex) (h : Sets E t k (g.sending n new)) (r : Nat) (w : Word) :
    Sets E (v.wrLaterAll t r w) k (g.sending n (new ++ [wordWrite g p r w])) := by
  obtain ⟨hk, hbase, hex⟩ := hv
  have hsets := h.modGroup fun q => q.writeLater { reg := v.g.wbasev + r, mask := v.ex, vals := uniformLanes w, left := none }
  rw [hbase, hex] at hsets
  rw [Group.sending, ← List.append_assoc]
  rw [View.wrLaterAll, View.wrLater, hk, hbase, hex]
  exact hsets

/-- The team with a record in a slot, under the slot's next generation. -/
def Team.loadSlot (x : Team) (slot : Nat) (r : BitVec 1024) : Team :=
  { x with handles := kput x.handles slot { gen := ((kfind x.handles slot).map (·.gen)).getD 0#8 + 1#8, tr := some r } }

/-- What a TREC does with the bytes that it has read, in a machine `E` like `s'`. -/
theorem loadRecord_sets {slot : Nat} {bs : List Byte} {d : Nat} (hx : kfind E.teams k.tkey = some x) (hslot : slot < 32)
    (hE : Sets s' E k (g.sending s.issued [])) (hpeer : E.selfPeer = s.selfPeer) :
    (recordStatus (BitVec.ofNat 1024 (ofBytes bs)) (s.selfPeer.getLsbD 31) = 0 → ∃ t, (viewIn s k g p E).loadRecord d slot bs = .ok t ∧
      Sets (s'.setTeam k.tkey (x.loadSlot slot (BitVec.ofNat 1024 (ofBytes bs)))) t k (g.sending s.issued
        [wordWrite g p d (BitVec.ofNat 32 (2 ^ 31 + 2 ^ 8 * (((kfind x.handles slot).map (·.gen)).getD 0#8 + 1#8).toNat + slot))])) ∧
    (recordStatus (BitVec.ofNat 1024 (ofBytes bs)) (s.selfPeer.getLsbD 31) ≠ 0 → ∃ t, (viewIn s k g p E).loadRecord d slot bs = .ok t ∧
      Sets s' t k (g.sending s.issued
        [wordWrite g p d (BitVec.ofNat 32 (recordStatus (BitVec.ofNat 1024 (ofBytes bs)) (s.selfPeer.getLsbD 31)))])) := by
  have hv : (viewIn s k g p E).k = k ∧ (viewIn s k g p E).g.wbasev = g.wbasev ∧ (viewIn s k g p E).ex = p.ex := ⟨rfl, rfl, rfl⟩
  have hteam : (viewIn s k g p E).team = x := team_found (s := E) hx
  have hp : (viewIn s k g p E).s.selfPeer = s.selfPeer := hpeer
  have hs : (viewIn s k g p E).s = E := rfl
  refine ⟨fun hst => ?_, fun hst => ?_⟩
  · have hloaded : Sets (s'.setTeam k.tkey (x.loadSlot slot (BitVec.ofNat 1024 (ofBytes bs))))
        (E.setTeam k.tkey (x.loadSlot slot (BitVec.ofNat 1024 (ofBytes bs)))) k (g.sending s.issued []) :=
      ⟨hE.found, by rw [setTeam_rest, hE.rest, ← setTeam_rest], hE.others⟩
    refine ⟨_, ?_, wrLaterAll_sets hv hloaded d _⟩
    rw [View.loadRecord, hp, hst]
    dsimp only
    rw [hs, hteam, hv.1, modTeam_found hx, handle_eq _ hslot]
    rfl
  · refine ⟨_, ?_, wrLaterAll_sets hv hE d _⟩
    obtain ⟨c, hc⟩ := Nat.exists_eq_succ_of_ne_zero hst
    rw [View.loadRecord, hp, hc]
    rfl

/-- An instruction that sends words to registers, and leaves the machine around its group as in `s'`. -/
theorem sending_becomes {form : View → Form} {body : View → Res} (hi : Issuing s k g p) (f : Form) (hf : form ⟨s, k, g, p, p.pc + 4#32⟩ = f)
    (hpfx : f.pfx = none) (hr : Ready s k g p f.names f.reads) (hill : f.illegal = false) (hpriv : f.priv = false) (hlate : f.late = [])
    (hu : f.unif = []) (hch : f.check = false) (hb : body (s.view k g p none) = .ok t) (hs : Sets s' t k (g.sending s.issued new)) :
    ∃ t h, issue form body s = .next t ∧ Becomes s' t k (g.onWith p none new) h := by
  obtain ⟨t, h, ht, hbecomes⟩ := ok_becomes (q := { g with pend := g.pend ++ new }) hi f hf hr hill hpriv hlate (by simp [hu, Uniform])
    (by simp [hch]) (hpfx ▸ hb) hs rfl
  exact ⟨t, h, ht, hpfx ▸ hbecomes⟩

/-- What a TREC comes to that has read the bytes `bs` and left the machine as in `s'` (R166, R167). -/
def Loads (s s' : State) (k : GKey) (g : Group) (p : Path) (x : Team) (i : Instr) (d slot : Nat) (bs : List Byte) : Prop :=
  ∃ t h, exec i s = .next t ∧
    (recordStatus (BitVec.ofNat 1024 (ofBytes bs)) (s.selfPeer.getLsbD 31) = 0 →
      Becomes (s'.setTeam k.tkey (x.loadSlot slot (BitVec.ofNat 1024 (ofBytes bs)))) t k (g.onWith p none
        [wordWrite g p d (BitVec.ofNat 32 (2 ^ 31 + 2 ^ 8 * (((kfind x.handles slot).map (·.gen)).getD 0#8 + 1#8).toNat + slot))]) h) ∧
    (recordStatus (BitVec.ofNat 1024 (ofBytes bs)) (s.selfPeer.getLsbD 31) ≠ 0 →
      Becomes s' t k (g.onWith p none
        [wordWrite g p d (BitVec.ofNat 32 (recordStatus (BitVec.ofNat 1024 (ofBytes bs)) (s.selfPeer.getLsbD 31)))]) h)

theorem loads_of_body {i : Instr} {form : View → Form} {body : View → Res} {d slot : Nat} {bs : List Byte} (hi : Issuing s k g p)
    (hexec : exec i s = issue form body s) (f : Form) (hf : form ⟨s, k, g, p, p.pc + 4#32⟩ = f)
    (hpfx : f.pfx = none) (hr : Ready s k g p f.names f.reads) (hill : f.illegal = false) (hpriv : f.priv = false) (hlate : f.late = [])
    (hu : f.unif = []) (hch : f.check = false) (hb : body (s.view k g p none) = (viewIn s k g p E).loadRecord d slot bs)
    (hx : kfind E.teams k.tkey = some x) (hslot : slot < 32) (hE : Sets s' E k (g.sending s.issued [])) (hpeer : E.selfPeer = s.selfPeer) :
    Loads s s' k g p x i d slot bs := by
  obtain ⟨hpass, hfail⟩ := loadRecord_sets (p := p) (bs := bs) (d := d) hx hslot hE hpeer
  by_cases hst : recordStatus (BitVec.ofNat 1024 (ofBytes bs)) (s.selfPeer.getLsbD 31) = 0
  · obtain ⟨t1, ht1, hsets⟩ := hpass hst
    obtain ⟨t, h, ht, hbecomes⟩ := sending_becomes hi f hf hpfx hr hill hpriv hlate hu hch (hb.trans ht1) hsets
    exact ⟨t, h, hexec.trans ht, fun _ => hbecomes, fun hne => absurd hst hne⟩
  · obtain ⟨t1, ht1, hsets⟩ := hfail hst
    obtain ⟨t, h, ht, hbecomes⟩ := sending_becomes hi f hf hpfx hr hill hpriv hlate hu hch (hb.trans ht1) hsets
    exact ⟨t, h, hexec.trans ht, fun h0 => absurd h0 hst, fun _ => hbecomes⟩

-- ## TREC

theorem dirBusy_of_no_rebuild (h : s.rebuild = []) (core scope : Nat) : s.dirBusy core scope = false := by simp [State.dirBusy, h]

theorem farBusy_of_no_rebuild (h : s.rebuild = []) (core scope : Nat) (held : Nat → Bool) : s.farBusy core scope held = false := by
  simp [State.farBusy, h]

theorem mustAsk_of_no_rebuild (h : s.rebuild = []) (core scope : Nat) (f : Frame) : s.mustAsk core scope f = false := by
  simp [State.mustAsk, dirBusy_of_no_rebuild h, farBusy_of_no_rebuild h]

def trecForm (d : Nat) (as : List Nat) : Form := { names := d :: as, reads := as, oneBeat := true }

theorem sending_nil (g : Group) (n : Nat) : g.sending n [] = g.counted n := by
  rw [Group.sending, List.append_nil]
  rfl

theorem view_sending : Sets s (s.view k g p none).s k (g.sending s.issued []) := sending_nil g _ ▸ sets_view s k g p none

/-- What a load in the view of the group leaves. -/
theorem loaded_sets (core : Nat) (f : Frame) (n pol : Nat) :
    Sets (s.loaded core f n pol) ((s.view k g p none).s.loaded core f n pol) k (g.sending s.issued []) := by
  refine ⟨?_, (loaded_restOnly core f n pol).congr (view_rest none), fun j hj => ?_⟩
  · rw [loaded_groups, view_found none, sending_nil]
  · rw [loaded_groups, loaded_groups, view_others none hj]

/-- The address of a TREC passes: its top bits tell nothing else. -/
theorem high_clear {va : Nat} (h : va < 2 ^ 57) : natBits va 63 57 = 0 := by
  unfold natBits
  omega

/-- What a TREC does with its translation, once its address has passed. -/
def View.trecFrame (v : View) (d slot va : Nat) : Xlat → Res
  | .bad _ c => v.faultAt c (BitVec.ofNat 64 va)
  | .absent _ => .ok (v.wrLaterAll v.s d 0x05#32)
  | .ok f =>
    if v.s.isPoisoned f.pa then v.faultAt .poison (BitVec.ofNat 64 va)
    else if v.s.mustAsk v.core 1 f then .hold []
    else View.loadRecord { v with s := v.s.loaded v.core f 128 0 } d slot (v.s.loadBytes v.core f 128)

theorem trec_eq (hi : Issuing s k g p) (hf : g.fences = []) (hx : kfind s.teams k.tkey = some x) {slot : BitVec 4} {va : Nat}
    (hva : (g.seen2 a.toNat (lowestLane p.ex)).toNat = va) (halign : va % 128 = 0) (hlow : va < 2 ^ 57) :
    exec (.trec d a slot) s = issue (fun _ => trecForm d.toNat (pairRegs a.toNat))
      (fun v => v.trecFrame d.toNat slot.toNat va (s.translate (s.coreOf k) (x.space g.mode) va .read)) s := by
  have hrd : ((s.view k g p none).rd2 a.toNat)[(s.view k g p none).f] = g.seen2 a.toNat (lowestLane p.ex) := view_rd2 s k g p none _ _
  have hword : g.seen2 a.toNat (lowestLane p.ex) = BitVec.ofNat 64 va := by
    rw [← hva]
    exact (BitVec.ofNat_toNat _ _).symm ▸ (BitVec.setWidth_eq _).symm
  have hteam : (s.view k g p none).team = x := team_found hx
  have hxlat : (s.view k g p none).s.translate (s.view k g p none).core (s.view k g p none).space va .read =
      s.translate (s.coreOf k) (x.space g.mode) va .read := by
    rw [translate_of_rest (view_rest none), View.space, hteam]
    rfl
  rw [exec_trec]
  refine issue_congr hi (trecForm d.toNat (pairRegs a.toNat)) rfl ?_
  refine (fenced_unheld (v := s.view k g p none) hf .read _).trans ?_
  dsimp only
  rw [hrd, hva, if_neg (not_not.2 halign), if_neg (not_not.2 (high_clear hlow)), hxlat, hword]
  cases s.translate (s.coreOf k) (x.space g.mode) va .read <;> rfl

section
variable {slot : BitVec 4} {va : Nat} (hi : Issuing s k g p) (hr : Ready s k g p (d.toNat :: pairRegs a.toNat) (pairRegs a.toNat)) (hun : Unheld s g)
  (hx : kfind s.teams k.tkey = some x) (hva : (g.seen2 a.toNat (lowestLane p.ex)).toNat = va) (halign : va % 128 = 0) (hlow : va < 2 ^ 57)
include hi hr hun hx hva halign hlow

theorem trec_loads {fr : Frame} (hframe : s.translate (s.coreOf k) (x.space g.mode) va .read = .ok fr) (hpoison : s.isPoisoned fr.pa = false) :
    Loads s (s.loaded (s.coreOf k) fr 128 0) k g p x (.trec d a slot) d.toNat slot.toNat (s.loadBytes (s.coreOf k) fr 128) := by
  have hteams := (residents_eq (loaded_residents (s.view k g p none).s (s.coreOf k) fr 128 0)).2.1
  have hpeer := loaded_beside (s.view k g p none).s (s.coreOf k) fr 128 0
  refine loads_of_body (E := (s.view k g p none).s.loaded (s.coreOf k) fr 128 0) hi (hframe ▸ trec_eq hi hun.1 hx hva halign hlow)
    (trecForm d.toNat (pairRegs a.toNat)) rfl rfl hr
    rfl rfl rfl rfl rfl ?_ (hteams ▸ hx) (slot.isLt.trans (by decide)) (loaded_sets _ _ _ _) (congrArg State.selfPeer hpeer :)
  dsimp only [View.trecFrame]
  rw [if_neg (by rw [show (s.view k g p none).s.isPoisoned fr.pa = false from hpoison]; exact Bool.false_ne_true),
    mustAsk_of_no_rebuild (s := (s.view k g p none).s) hun.2, if_neg Bool.false_ne_true]
  rfl

theorem trec_absent {lvl : Nat} (habsent : s.translate (s.coreOf k) (x.space g.mode) va .read = .absent lvl) :
    ∃ t h, exec (.trec d a slot) s = .next t ∧ Becomes s t k (g.onWith p none [wordWrite g p d.toNat 5#32]) h := by
  rw [trec_eq hi hun.1 hx hva halign hlow, habsent]
  refine sending_becomes hi (trecForm d.toNat (pairRegs a.toNat)) rfl rfl hr rfl rfl rfl rfl rfl rfl
    (wrLaterAll_sets (v := s.view k g p none) (k := k) (g := g) (p := p) ⟨rfl, rfl, rfl⟩ view_sending d.toNat 5#32)

end

-- ## TREC.N

theorem trecN_loads {slot : BitVec 4} {y : NearAt} (hi : Issuing s k g p) (hr : Ready s k g p [d.toNat, a.toNat] [a.toNat]) (hf : g.fences = [])
    (hx : kfind s.teams k.tkey = some x) (halign : (g.seen a.toNat (lowestLane p.ex)).toNat % 128 = 0)
    (hplace : s.nearDecode k.tkey g.mode (g.seen a.toNat (lowestLane p.ex)).toNat 128 = some y) (hpoison : s.nearPoisoned y 128 = false)
    (hopen : s.nearStalled y = false) (hthere : s.hasPlace y = true) :
    Loads s s k g p x (.trecN d a slot) d.toNat slot.toNat (s.nearRead y 128) := by
  have hrd : ((s.view k g p none).rd a.toNat)[(s.view k g p none).f] = g.seen a.toNat (lowestLane p.ex) := view_rd s k g p none _ _
  have hdecode : (s.view k g p none).s.nearDecode (s.view k g p none).k.tkey (s.view k g p none).g.mode
      (g.seen a.toNat (lowestLane p.ex)).toNat 128 = some y := hplace
  have hpoison' : (s.view k g p none).s.nearPoisoned y 128 = false := hpoison
  have hopen' : (s.view k g p none).s.nearStalled y = false := hopen
  refine loads_of_body (E := (s.view k g p none).s) hi (exec_trecN d a slot s) (trecForm d.toNat [a.toNat]) rfl rfl hr
    rfl rfl rfl rfl rfl ?_ hx (slot.isLt.trans (by decide)) view_sending rfl
  refine (fenced_unheld (v := s.view k g p none) hf .read _).trans ?_
  dsimp only
  rw [hrd, if_neg (not_not.2 halign), hdecode]
  dsimp only
  rw [hpoison', if_neg Bool.false_ne_true, hopen', if_neg Bool.false_ne_true, nearRead_view hthere]
  rfl

-- ## Batches

/-- The group with its open batch closed. -/
def Group.commits (g : Group) : Group := { g with tb := { g.tb with committed := g.tb.committed + 1#32, opened := 0 } }

theorem tcommit_closes (hi : Issuing s k g p) (hr : Ready s k g p [d.toNat] []) :
    ∃ t h, exec (.tcommit d) s = .next t ∧ OnlyRegs s t k g.commits h [g.wbasev + d.toNat] ∧ h.aflags = g.aflags ∧ GoesOn h p (p.pc + 4#32) ∧
      Writes g h p.ex (g.wbasev + d.toNat) fun _ => g.tb.committed + 1#32 := by
  have hcommit : (s.view k g p none).s.modGroup k Group.commits = (s.view k g p none).s.setGroup k (g.commits.counted s.issued) :=
    modGroup_found (view_found none) _
  have hview (w : Lanes Word) : (s.view k g p none).wr ((s.view k g p none).s.modGroup k fun q =>
      { q with tb := { q.tb with committed := g.tb.committed + 1#32, opened := 0 } }) d.toNat w =
        (s.view k g p none).wr ((s.view k g p none).s.modGroup k Group.commits) d.toNat w := by
    rw [modGroup_found (view_found none), modGroup_found (view_found none)]
    rfl
  have hwritten : (s.view k g p none).wr ((s.view k g p none).s.modGroup k Group.commits) d.toNat (uniformLanes (g.tb.committed + 1#32)) =
      (s.view k g p none).s.setGroup k ((g.commits.counted s.issued).write (g.wbasev + d.toNat) p.ex (uniformLanes (g.tb.committed + 1#32))) := by
    rw [hcommit]
    exact modGroup_setGroup _ k _ _
  obtain ⟨t, h, ht, honly, hflags, hon, hwrites⟩ := wr_in_spec (form := fun _ => { names := [d.toNat], oneBeat := true })
    (body := fun v => .ok (v.wr (v.s.modGroup v.k fun g => { g with tb := { g.tb with committed := v.g.tb.committed + 1#32, opened := 0 } }) d.toNat
      (uniformLanes (v.g.tb.committed + 1#32)))) hi _ rfl hr rfl rfl rfl (by simp [Uniform]) (by simp) g.commits (g.wbasev + d.toNat)
    (uniformLanes (g.tb.committed + 1#32)) (congrArg Res.ok ((hview _).trans hwritten))
  exact ⟨t, h, (exec_tcommit d s).trans ht, honly, hflags, hon, hwrites.congr fun L => by simp [uniformLanes]⟩

section
variable (hi : Issuing s k g p) (hr : Ready s k g p (a.toNat :: dataRegs d.toNat 16) [a.toNat])

/-- Every batch of copies up to the number that the lowest lane names is complete. -/
def batchesDone (s : State) (k : GKey) (g : Group) (p : Path) (a : Reg) : Bool :=
  batchLe (g.seen a.toNat (lowestLane p.ex)) (batchDone g.tb.committed (s.copyBatches k))

def twaitForm (d a : Reg) : Form := { names := a.toNat :: dataRegs d.toNat 16, reads := [a.toNat], oneBeat := true }

/-- The words of a report (R173, R182). -/
def reportWrites (g : Group) (p : Path) (d : Nat) : List PendWrite :=
  let w := g.tb.fault.getD (0#32, 0#32, 0#32)
  [wordWrite g p d g.tb.status, wordWrite g p (d + 1) w.1, wordWrite g p (d + 2) w.2.1, wordWrite g p (d + 3) w.2.2]

/-- The group with its report taken. -/
def Group.reported (g : Group) : Group := { g with tb := g.tb.cleared }

theorem report_sets (s : State) (k : GKey) (g : Group) (p : Path) (d : Nat) :
    ∃ t, (s.view k g p none).reportBatch d g.tb Group.reported = .ok t ∧ Sets s t k (g.reported.sending s.issued (reportWrites g p d)) := by
  have hclear : Sets s ((s.view k g p none).s.modGroup k Group.reported) k (g.reported.sending s.issued []) := view_sending.modGroup Group.reported
  have hv : (s.view k g p none).k = k ∧ (s.view k g p none).g.wbasev = g.reported.wbasev ∧ (s.view k g p none).ex = p.ex := ⟨rfl, rfl, rfl⟩
  exact ⟨_, rfl, wrLaterAll_sets hv (wrLaterAll_sets hv (wrLaterAll_sets hv (wrLaterAll_sets hv hclear d _) _ _) _ _) _ _⟩

theorem batchesDone_view (s : State) (k : GKey) (g : Group) (p : Path) (a : Reg) :
    (s.view k g p none).tileBatchDone ((s.view k g p none).rd a.toNat)[(s.view k g p none).f] = batchesDone s k g p a := by
  rw [view_rd]
  rfl

include hi hr

theorem twaitb_reports (hdone : batchesDone s k g p a = true) : ∀ i ∈ [Instr.twaitb d a, .twaitbTest d a], ∃ t h, exec i s = .next t ∧
    Becomes s t k (g.reported.onWith p none (reportWrites g p d.toNat)) h := by
  obtain ⟨t, ht, hsets⟩ := report_sets s k g p d.toNat
  have hview := (batchesDone_view s k g p a).trans hdone
  have reports {i : Instr} {form : View → Form} {body : View → Res} (hexec : exec i s = issue form body s)
      (hform : form ⟨s, k, g, p, p.pc + 4#32⟩ = twaitForm d a) (hbody : body (s.view k g p none) = .ok t) :
      ∃ t h, exec i s = .next t ∧ Becomes s t k (g.reported.onWith p none (reportWrites g p d.toNat)) h := by
    obtain ⟨u, h, hu, hb⟩ := ok_becomes (q := { g.reported with pend := g.pend ++ reportWrites g p d.toNat }) hi (twaitForm d a) hform hr rfl rfl rfl
      (by simp [twaitForm, Uniform]) (by simp [twaitForm]) hbody hsets rfl
    exact ⟨u, h, hexec.trans hu, hb⟩
  simp only [List.forall_mem_cons]
  exact ⟨reports (exec_twaitb d a s) rfl ((if_pos hview).trans ht), reports (exec_twaitbTest d a s) rfl ((if_pos hview).trans ht),
    List.forall_mem_nil _⟩

theorem twaitb_waits (hdone : batchesDone s k g p a = false) : exec (.twaitb d a) s = .next (s.holdIssue k []) ∧
    ∃ t h, exec (.twaitbTest d a) s = .next t ∧ Becomes s t k (g.onWith p none [wordWrite g p d.toNat 0x80000000#32]) h := by
  have hview : ¬ (s.view k g p none).tileBatchDone ((s.view k g p none).rd a.toNat)[(s.view k g p none).f] = true := by
    rw [batchesDone_view, hdone]
    exact Bool.false_ne_true
  refine ⟨?_, ?_⟩
  · refine (exec_twaitb d a s).trans (issue_hold hi (twaitForm d a) rfl hr.waits [] ?_)
    exact (checked_ok (f := twaitForm d a) hr rfl rfl rfl (by simp [twaitForm, Uniform]) (by simp [twaitForm])).trans (if_neg hview)
  · rw [exec_twaitbTest]
    exact sending_becomes hi (twaitForm d a) rfl rfl hr rfl rfl rfl rfl rfl (if_neg hview)
      (wrLaterAll_sets (v := s.view k g p none) (k := k) (g := g) (p := p) ⟨rfl, rfl, rfl⟩ view_sending d.toNat _)

end

end

end Sys2Proof.Machine

/-! The checks of a record, field by field (R164, R166). -/

namespace Sys2Proof.Machine

-- ## The fields

/-- SIZE, STR and BOX of a dimension (R164). -/
def sizeAt (x i : Nat) : Nat := natBits x (223 + 32 * i) (192 + 32 * i)
def strideAt (x i : Nat) : Nat := natBits x (383 + 64 * i) (320 + 64 * i)
def boxAt (x i : Nat) : Nat := natBits x (713 + 10 * i) (704 + 10 * i)
/-- The element width that EW encodes, and the width in the scratchpad image. -/
def widthAt (x : Nat) : Nat := [4, 6, 8, 16, 32, 64].getD (natBits x 67 64) 0
def imageWidthAt (x : Nat) : Nat := if natBits x 103 102 = 0 then widthAt x else 16

-- ## The rows of R166's table

/-- Status 1: reserved bits, strides beyond their range, and fields of unused dimensions that are not 0. -/
def ReservedSet (x : Nat) : Prop :=
  (∃ z ∈ [(1023, 896), (767, 764), (191, 160), (127, 109), (95, 95), (91, 89), (79, 78), (75, 75)], natBits x z.1 z.2 ≠ 0) ∨
    (∃ i, 1 ≤ i ∧ i ≤ 5 ∧ 2 ^ 48 ≤ strideAt x i) ∨ ∃ i < 6, natBits x 74 72 ≤ i ∧ (sizeAt x i ≠ 0 ∨ boxAt x i ≠ 0 ∨ 1 ≤ i ∧ strideAt x i ≠ 0)

/-- Status 2: a count of dimensions out of range. -/
def DimsOut (x : Nat) : Prop := natBits x 74 72 = 0 ∨ 6 < natBits x 74 72

/-- Status 3: encodings that are reserved or do not go together. -/
def EncodingBad (x : Nat) (joined : Bool) : Prop :=
  6 ≤ natBits x 67 64 ∨ 12 ≤ natBits x 71 68 ∧ natBits x 71 68 ≤ 14 ∨ natBits x 103 102 = 3 ∨ natBits x 94 92 = 7 ∨
    (natBits x 71 68 ≤ 11 ∧ [16, 16, 8, 8, 6, 6, 4, 8, 8, 4, 4, 4].getD (natBits x 71 68) 0 ≠ widthAt x) ∨
    ((natBits x 67 64 = 4 ∨ natBits x 67 64 = 5) ∧ natBits x 71 68 ≠ 15) ∨ (natBits x 77 76 = 3 ∧ (natBits x 103 102 ≠ 0 ∨ joined = false)) ∨
    (natBits x 103 102 = 1 ∧ ¬ (natBits x 67 64 = 0 ∧ natBits x 71 68 = 6 ∧ natBits x 77 76 = 2)) ∨
    (natBits x 103 102 = 2 ∧ ¬ (natBits x 67 64 = 0 ∧ natBits x 71 68 = 11)) ∨ (natBits x 101 100 = 2 ∧ natBits x 67 64 ≤ 1) ∨
    (natBits x 88 80 ≠ 0 ∧ natBits x 77 76 ≠ 3) ∨ natBits x 105 104 ≠ 0 ∧ natBits x 103 102 = 0

/-- Status 4: addresses, strides and extents that the copies cannot move. -/
def LayoutBad (x : Nat) : Prop :=
  natBits x 63 0 % 32 ≠ 0 ∨ (∃ i, 1 ≤ i ∧ i < natBits x 74 72 ∧ strideAt x i % 32 ≠ 0) ∨
    (if natBits x 103 102 = 0 then natBits x 831 768 ≠ 0 else natBits x 831 768 % 32 ≠ 0) ∨
    (if natBits x 103 102 = 2 then natBits x 895 832 % 32 ≠ 0 else natBits x 895 832 ≠ 0) ∨
    (∃ i < natBits x 74 72, sizeAt x i = 0) ∨ sizeAt x 0 * widthAt x % 8 ≠ 0 ∨ (widthAt x = 6 ∧ sizeAt x 0 % 16 ≠ 0) ∨
    (boxAt x 0 + 1) * imageWidthAt x % 128 ≠ 0 ∨
    65536 < (boxAt x 0 + 1) * imageWidthAt x / 8 * ((boxAt x 1 + 1) * (boxAt x 2 + 1) * (boxAt x 3 + 1) * (boxAt x 4 + 1) * (boxAt x 5 + 1))

-- ## The same in the model's terms

/-- The checks of the model, one per status. -/
def Tensor.reservedSet (t : Tensor) (x : Nat) : Bool :=
  recordReserved x || t.str.any (fun x => decide (2 ^ 48 ≤ x)) ||
    ((List.range 6).drop t.ndim).any (fun i => t.size.getD i 0 ≠ 0 || t.str.getD i 0 ≠ 0 || t.box.getD i 1 ≠ 1)
def Tensor.dimsOut (t : Tensor) : Bool := t.ndim = 0 || decide (6 < t.ndim)
def Tensor.encodingBad (t : Tensor) (joined : Bool) : Bool :=
  decide (5 < t.ew) || (decide (12 ≤ t.ef) && t.ef ≠ 15) || t.exp = 3 || t.scope = 7 ||
    (decide (t.ef ≤ 11) && codeBits t.ef ≠ t.w) || (decide (4 ≤ t.ew) && t.ef ≠ 15) ||
    (t.layer = 3 && (t.exp ≠ 0 || !joined)) || (t.exp = 1 && !(t.ew = 0 && t.ef = 6 && t.layer = 2)) ||
    (t.exp = 2 && !(t.ew = 0 && t.ef = 11)) || (t.oobf = 2 && decide (t.ew ≤ 1)) || (t.peer ≠ 0 && t.layer ≠ 3) ||
    (t.mxb ≠ 0 && t.exp = 0)
def Tensor.layoutBad (t : Tensor) : Bool :=
  t.base % 32 ≠ 0 || (t.str.take t.ndim).any (fun x => x % 32 ≠ 0) ||
    (if t.exp = 0 then t.sc ≠ 0 else t.sc % 32 ≠ 0) || (if t.exp = 2 then t.zp % 32 ≠ 0 else t.zp ≠ 0) ||
    (t.size.take t.ndim).any (fun x => x = 0) || t.size.headD 0 * t.w % 8 ≠ 0 || (t.w = 6 && t.size.headD 0 % 16 ≠ 0) ||
    t.box.headD 1 * t.w' % 128 ≠ 0 || decide (65536 < t.tileBytes)

theorem recordStatus_eq (r : BitVec 1024) (joined : Bool) : recordStatus r joined =
    if (Tensor.ofRecord r).reservedSet r.toNat then 1 else if (Tensor.ofRecord r).dimsOut then 2
    else if (Tensor.ofRecord r).encodingBad joined then 3 else if (Tensor.ofRecord r).layoutBad then 4 else 0 := rfl

section
variable {r : BitVec 1024} {joined : Bool}

theorem recordReserved_iff (x : Nat) : recordReserved x = true ↔
    ∃ z ∈ [(1023, 896), (767, 764), (191, 160), (127, 109), (95, 95), (91, 89), (79, 78), (75, 75)], natBits x z.1 z.2 ≠ 0 := by
  simp [recordReserved, or_assoc]

theorem stride_succ (x i : Nat) : natBits x (447 + 64 * i) (384 + 64 * i) = strideAt x (i + 1) := by
  rw [strideAt, show 383 + 64 * (i + 1) = 447 + 64 * i by omega, show 320 + 64 * (i + 1) = 384 + 64 * i by omega]

theorem str_eq (r : BitVec 1024) : (Tensor.ofRecord r).str = 0 :: (List.range 5).map fun i => strideAt r.toNat (i + 1) :=
  congrArg (0 :: ·) (List.map_congr_left fun i _ => stride_succ r.toNat i)

theorem size_eq (r : BitVec 1024) : (Tensor.ofRecord r).size = (List.range 6).map (sizeAt r.toNat) := rfl

theorem box_eq (r : BitVec 1024) : (Tensor.ofRecord r).box = (List.range 6).map fun i => boxAt r.toNat i + 1 := rfl

theorem getD_map_range {f : Nat → Nat} {n i d : Nat} (h : i < n) : ((List.range n).map f).getD i d = f i := by simp [h]

theorem str_any (r : BitVec 1024) : (Tensor.ofRecord r).str.any (fun x => decide (2 ^ 48 ≤ x)) = true ↔
    ∃ i, 1 ≤ i ∧ i ≤ 5 ∧ 2 ^ 48 ≤ strideAt r.toNat i := by
  simp only [str_eq, List.any_cons, List.any_map, Bool.or_eq_true, decide_eq_true_eq, List.any_eq_true, List.mem_range, Function.comp_apply]
  constructor
  · rintro (h | ⟨i, hi, h⟩)
    · omega
    · exact ⟨i + 1, by omega, by omega, h⟩
  · rintro ⟨i, h1, h5, h⟩
    exact .inr ⟨i - 1, by omega, by rwa [Nat.sub_add_cancel h1]⟩

/-- The fields of a dimension that is not used are 0. -/
theorem dim_set {i : Nat} (h : i < 6) : ((Tensor.ofRecord r).size.getD i 0 ≠ 0 ∨ (Tensor.ofRecord r).str.getD i 0 ≠ 0) ∨
    (Tensor.ofRecord r).box.getD i 1 ≠ 1 ↔ sizeAt r.toNat i ≠ 0 ∨ boxAt r.toNat i ≠ 0 ∨ 1 ≤ i ∧ strideAt r.toNat i ≠ 0 := by
  rw [size_eq, box_eq, str_eq, getD_map_range h, getD_map_range h]
  cases i with
  | zero => simp
  | succ i =>
    rw [List.getD_cons_succ, getD_map_range (by omega)]
    simp only [ne_eq, Nat.add_eq_right, Nat.le_add_left, true_and]
    exact or_assoc.trans (or_congr_right or_comm)

theorem reservedSet_iff : (Tensor.ofRecord r).reservedSet r.toNat = true ↔ ReservedSet r.toNat := by
  have hunused : ((List.range 6).drop (Tensor.ofRecord r).ndim).any (fun i => (Tensor.ofRecord r).size.getD i 0 ≠ 0 ||
      (Tensor.ofRecord r).str.getD i 0 ≠ 0 || (Tensor.ofRecord r).box.getD i 1 ≠ 1) = true ↔
      ∃ i < 6, natBits r.toNat 74 72 ≤ i ∧ (sizeAt r.toNat i ≠ 0 ∨ boxAt r.toNat i ≠ 0 ∨ 1 ≤ i ∧ strideAt r.toNat i ≠ 0) := by
    have hdim : (Tensor.ofRecord r).ndim = natBits r.toNat 74 72 := rfl
    simp only [List.any_eq_true, List.range_eq_range', List.drop_range', List.mem_range'_1, Bool.or_eq_true, decide_eq_true_eq, hdim]
    constructor
    · rintro ⟨i, hi, h⟩
      exact ⟨i, by omega, by omega, (dim_set (by omega)).1 h⟩
    · rintro ⟨i, hi, hle, h⟩
      exact ⟨i, by omega, (dim_set hi).2 h⟩
  rw [Tensor.reservedSet, Bool.or_eq_true, Bool.or_eq_true, recordReserved_iff, str_any, hunused, or_assoc]
  exact Iff.rfl

theorem dimsOut_iff : (Tensor.ofRecord r).dimsOut = true ↔ DimsOut r.toNat := by
  rw [Tensor.dimsOut, Bool.or_eq_true, decide_eq_true_eq, decide_eq_true_eq]
  rfl

theorem width_eq (h : natBits r.toNat 67 64 < 6) : (Tensor.ofRecord r).w = widthAt r.toNat := by
  have hew : (Tensor.ofRecord r).ew = natBits r.toNat 67 64 := rfl
  rw [Tensor.w, hew, widthAt]
  generalize natBits r.toNat 67 64 = e at h
  interval_cases e <;> rfl

theorem codeBits_eq {e : Nat} (h : e ≤ 11) : codeBits e = [16, 16, 8, 8, 6, 6, 4, 8, 8, 4, 4, 4].getD e 0 := by
  interval_cases e <;> rfl

theorem encodingBad_iff : (Tensor.ofRecord r).encodingBad joined = true ↔ EncodingBad r.toNat joined := by
  have hw := @width_eq r
  have hcode := @codeBits_eq (natBits r.toNat 71 68)
  have hef : natBits r.toNat 71 68 < 16 := Nat.mod_lt _ (by decide)
  simp only [Tensor.encodingBad, EncodingBad, Bool.or_eq_true, Bool.and_eq_true, decide_eq_true_eq, Bool.not_eq_true', Bool.and_eq_false_iff,
    decide_eq_false_iff_not]
  generalize (Tensor.ofRecord r).w = w at *
  simp only [Tensor.ofRecord]
  generalize widthAt r.toNat = w' at *
  generalize codeBits (natBits r.toNat 71 68) = c at *
  generalize List.getD _ (natBits r.toNat 71 68) 0 = c' at *
  cases joined <;> simp only [or_false, or_true, and_true, reduceCtorEq]
  all_goals omega

theorem str_take {n : Nat} (h : 0 < n) (h6 : n ≤ 6) : ((Tensor.ofRecord r).str.take n).any (fun x => x % 32 ≠ 0) = true ↔
    ∃ i, 1 ≤ i ∧ i < n ∧ strideAt r.toNat i % 32 ≠ 0 := by
  obtain ⟨n, rfl⟩ := Nat.exists_eq_add_one_of_ne_zero h.ne'
  rw [str_eq, List.take_succ_cons, ← List.map_take, List.take_range]
  simp only [List.any_cons, List.any_map, Bool.or_eq_true, decide_eq_true_eq, List.any_eq_true, List.mem_range, Function.comp_apply]
  constructor
  · rintro (h0 | ⟨i, hi, h⟩)
    · exact absurd rfl h0
    · exact ⟨i + 1, by omega, by omega, h⟩
  · rintro ⟨i, h1, hi, h⟩
    exact .inr ⟨i - 1, by omega, by rwa [Nat.sub_add_cancel h1]⟩

theorem size_take {n : Nat} (h6 : n ≤ 6) : ((Tensor.ofRecord r).size.take n).any (fun x => x = 0) = true ↔ ∃ i < n, sizeAt r.toNat i = 0 := by
  rw [size_eq, ← List.map_take, List.take_range, Nat.min_eq_left h6]
  simp only [List.any_map, List.any_eq_true, List.mem_range, Function.comp_apply, decide_eq_true_eq]

theorem tileBytes_eq {w : Nat} (hw : (Tensor.ofRecord r).w' = w) : (Tensor.ofRecord r).tileBytes = (boxAt r.toNat 0 + 1) * w / 8 *
    ((boxAt r.toNat 1 + 1) * (boxAt r.toNat 2 + 1) * (boxAt r.toNat 3 + 1) * (boxAt r.toNat 4 + 1) * (boxAt r.toNat 5 + 1)) := by
  have hrow : (Tensor.ofRecord r).rowB = (boxAt r.toNat 0 + 1) * (Tensor.ofRecord r).w' / 8 := rfl
  have hrows : (Tensor.ofRecord r).rows = 1 * (boxAt r.toNat 1 + 1) * (boxAt r.toNat 2 + 1) * (boxAt r.toNat 3 + 1) * (boxAt r.toNat 4 + 1) *
      (boxAt r.toNat 5 + 1) := rfl
  rw [Tensor.tileBytes, hrow, hrows, hw, Nat.one_mul]

/-- The width of the image where the widths of the record are encoded. -/
theorem imageWidth_eq (h : natBits r.toNat 67 64 < 6) : (Tensor.ofRecord r).w' = imageWidthAt r.toNat :=
  (congrArg (fun w => if natBits r.toNat 103 102 = 0 then w else 16) (width_eq h) :)

theorem layoutBad_iff (hdims : ¬ DimsOut r.toNat) (henc : ¬ EncodingBad r.toNat joined) : (Tensor.ofRecord r).layoutBad = true ↔ LayoutBad r.toNat := by
  have hwidth : natBits r.toNat 67 64 < 6 := Nat.not_le.1 fun h => henc (.inl h)
  have hpos : 0 < natBits r.toNat 74 72 := Nat.pos_of_ne_zero fun h => hdims (.inl h)
  have hsix : natBits r.toNat 74 72 ≤ 6 := Nat.not_lt.1 fun h => hdims (.inr h)
  have hsize : (Tensor.ofRecord r).size.headD 0 = sizeAt r.toNat 0 := rfl
  have hbox : (Tensor.ofRecord r).box.headD 1 = boxAt r.toNat 0 + 1 := rfl
  have hdim : (Tensor.ofRecord r).ndim = natBits r.toNat 74 72 := rfl
  rw [Tensor.layoutBad, hdim, hsize, hbox, width_eq hwidth, imageWidth_eq hwidth, tileBytes_eq (imageWidth_eq hwidth)]
  simp only [Bool.or_eq_true, str_take hpos hsix, size_take hsix, Bool.and_eq_true, Bool.ite_eq_true_distrib, decide_eq_true_eq, or_assoc]
  exact Iff.rfl

end

/-- The checks run in the order of the table. -/
theorem recordStatus_table (r : BitVec 1024) (joined : Bool) :
    (ReservedSet r.toNat → recordStatus r joined = 1) ∧
    (¬ ReservedSet r.toNat → DimsOut r.toNat → recordStatus r joined = 2) ∧
    (¬ ReservedSet r.toNat → ¬ DimsOut r.toNat → EncodingBad r.toNat joined → recordStatus r joined = 3) ∧
    (¬ ReservedSet r.toNat → ¬ DimsOut r.toNat → ¬ EncodingBad r.toNat joined → LayoutBad r.toNat → recordStatus r joined = 4) ∧
    (¬ ReservedSet r.toNat → ¬ DimsOut r.toNat → ¬ EncodingBad r.toNat joined → ¬ LayoutBad r.toNat → recordStatus r joined = 0) := by
  rw [recordStatus_eq]
  refine ⟨fun h1 => ?_, fun h1 h2 => ?_, fun h1 h2 h3 => ?_, fun h1 h2 h3 h4 => ?_, fun h1 h2 h3 h4 => ?_⟩
  · rw [if_pos (reservedSet_iff.2 h1)]
  · rw [if_neg (mt reservedSet_iff.1 h1), if_pos (dimsOut_iff.2 h2)]
  · rw [if_neg (mt reservedSet_iff.1 h1), if_neg (mt dimsOut_iff.1 h2), if_pos (encodingBad_iff.2 h3)]
  · rw [if_neg (mt reservedSet_iff.1 h1), if_neg (mt dimsOut_iff.1 h2), if_neg (mt encodingBad_iff.1 h3), if_pos ((layoutBad_iff h2 h3).2 h4)]
  · rw [if_neg (mt reservedSet_iff.1 h1), if_neg (mt dimsOut_iff.1 h2), if_neg (mt encodingBad_iff.1 h3), if_neg (mt (layoutBad_iff h2 h3).1 h4)]

/-- Settles O33: TREC ends with the status of its record, batches close and report, and the checks are the table's. -/
theorem tileRecordsAndBatches : Obligations.TileRecordsAndBatches := by
  unfold Obligations.TileRecordsAndBatches
  refine ⟨fun s k g p hi d a slot x hx => ?_, fun r joined => recordStatus_table r joined⟩
  dsimp only
  refine ⟨fun hr hun halign hlow => ⟨fun fr hframe hpoison => ?_, fun lvl habsent => ?_⟩, fun hr hf y halign hplace hpoison hopen hthere => ?_,
    fun hr => tcommit_closes hi hr, fun hr => ⟨fun hdone => ?_, fun hdone => ?_⟩⟩
  · exact trec_loads hi hr hun hx rfl halign hlow hframe hpoison
  · exact trec_absent hi hr hun hx rfl halign hlow habsent
  · exact trecN_loads hi hr hf hx halign hplace hpoison hopen hthere
  · exact twaitb_reports hi hr hdone
  · exact twaitb_waits hi hr hdone

end Sys2Proof.Machine

/-! Shootdowns, walks, fetches ahead and residency requests (R169, R251, R254 to R259). -/

namespace Sys2Proof.Machine

section
variable {s : State} {sh : Shootdown} {u : TlbUnit}

-- ## Shootdowns

theorem find?_shoot {n : Nat} (h : s.shoots.find? (fun x => x.id == n) = some sh) : sh ∈ s.shoots ∧ sh.id = n :=
  ⟨List.mem_of_find?_eq_some h, by simpa using List.find?_some h⟩

theorem mem_modShoot {f : Shootdown → Shootdown} (h : sh ∈ s.shoots) : f sh ∈ (s.modShoot sh.id f).shoots :=
  List.mem_map.2 ⟨sh, h, if_pos (beq_self_eq_true _)⟩

/-- The list without an element, in the model's terms and the statement's. -/
theorem filter_bne (l : List TlbUnit) (u : TlbUnit) : l.filter (· != u) = l.filter (· ≠ u) :=
  List.filter_congr fun x _ => by simp [bne, beq_eq_decide]

/-- What an invalidation makes of a walk that its unit fills a TLB for. -/
def WalkRec.struck (w : WalkRec) (u : TlbUnit) (sh : Shootdown) : WalkRec := if u.reaches w.tlb && w.inShoot sh then { w with stale := true } else w

theorem struck_stale (w : WalkRec) (h1 : u.reaches (w.struck u sh).tlb = true) (h2 : (w.struck u sh).inShoot sh = true) :
    (w.struck u sh).stale = true := by
  unfold WalkRec.struck at *
  split at h1
  next hhit => rw [if_pos hhit]
  next hmiss =>
    rw [if_neg hmiss] at h2
    exact absurd (by rw [h1, h2]; rfl) hmiss

/-- The machine when an invalidation has reached a unit. -/
def State.invalidated (s : State) (sh : Shootdown) (u : TlbUnit) : State :=
  { s with
    tlb := s.tlb.filter fun e => !(u.reaches e.tlb && e.inShoot sh)
    tables := s.tables.filter fun e => !(u == .l2 e.block && e.inShoot sh)
    walks := s.walks.map (·.struck u sh) }

theorem arrival_eq (h : s.shoots.find? (fun x => x.id == s.ev.n) = some sh) (hu : sh.unreached[s.ev.m]? = some u) :
    exec .tlbInvalidationArrival s = .next ((s.invalidated sh u).modShoot sh.id fun x =>
      { x with unreached := x.unreached.filter (· != u), unacked := x.unacked ++ [u] }) := by
  rw [exec_tlbInvalidationArrival, execTlbInvalidationArrival, h]
  dsimp only
  rw [hu]
  rfl

theorem arrival_step (h : s.shoots.find? (fun x => x.id == s.ev.n) = some sh) (hu : sh.unreached[s.ev.m]? = some u) :
    ∃ t, exec .tlbInvalidationArrival s = .next t ∧ (∀ e, e ∈ t.tlb ↔ e ∈ s.tlb ∧ ¬ (u.reaches e.tlb = true ∧ e.inShoot sh = true)) ∧
      (∀ e, e ∈ t.tables ↔ e ∈ s.tables ∧ ¬ (u = .l2 e.block ∧ e.inShoot sh = true)) ∧
      (∀ w ∈ t.walks, u.reaches w.tlb = true → w.inShoot sh = true → w.stale = true) ∧ t.walks.length = s.walks.length ∧
      { t with tlb := [], tables := [], walks := [], shoots := [] } = { s with tlb := [], tables := [], walks := [], shoots := [] } ∧
      { sh with unreached := sh.unreached.filter (· ≠ u), unacked := sh.unacked ++ [u] } ∈ t.shoots := by
  refine ⟨_, arrival_eq h hu, fun e => ?_, fun e => ?_, fun w hw hreach hin => ?_, List.length_map .., rfl, ?_⟩
  · refine List.mem_filter.trans (and_congr_right fun _ => ?_)
    rw [Bool.not_eq_true', ← Bool.not_eq_true, Bool.and_eq_true]
  · refine List.mem_filter.trans (and_congr_right fun _ => ?_)
    rw [Bool.not_eq_true', ← Bool.not_eq_true, Bool.and_eq_true, beq_iff_eq]
  · obtain ⟨v, -, rfl⟩ := List.mem_map.1 hw
    exact struck_stale v hreach hin
  · rw [← filter_bne]
    exact mem_modShoot (s := s.invalidated sh u) (find?_shoot h).1

-- ## Acknowledgements

/-- Every write on its way of a number has come to a scope. -/
def Reached (id scope : Nat) (t : State) : Prop := ∀ x ∈ t.writes, x.id = id → scope ≤ x.reach

theorem widen_reaches (t : State) (id scope : Nat) : Reached id scope (t.widen id scope) := by
  intro x hx hid
  unfold State.widen at hx
  split at hx
  next hnone =>
    exact absurd hid (by simpa using List.find?_eq_none.1 hnone x hx)
  next w hw =>
    split at hx
    next hall => simpa [hid] using List.all_eq_true.1 hall x hx
    next =>
      split at hx
      next =>
        rw [propagate_writes] at hx
        exact absurd hid (by simpa using homeBound_stays _ _ x hx)
      next =>
        rw [reachCopies_writes, noteWrite_writes] at hx
        obtain ⟨y, hy, rfl⟩ := List.mem_map.1 hx
        by_cases he : y.id = id
        · rw [if_pos (by simpa using he)]
          exact le_max_right _ _
        · rw [if_neg (by simpa using he)] at hid
          exact absurd hid he

theorem widen_keeps_reached {t : State} {id scope : Nat} (h : Reached id scope t) (id' scope' : Nat) : Reached id scope (t.widen id' scope') := by
  intro x hx hid
  unfold State.widen at hx
  split at hx
  next => exact h x hx hid
  next w hw =>
    split at hx
    next => exact h x hx hid
    next =>
      split at hx
      next =>
        rw [propagate_writes] at hx
        exact h x ((mem_homeBound _ _ x).2 (.inr hx)) hid
      next =>
        rw [reachCopies_writes, noteWrite_writes] at hx
        obtain ⟨y, hy, rfl⟩ := List.mem_map.1 hx
        split at hid
        next he =>
          rw [if_pos he]
          exact (h y hy hid).trans (le_max_left _ _)
        next he =>
          rw [if_neg he]
          exact h y hy hid

/-- The machine when some writes have come to their scopes. -/
def State.performAll (s : State) (ws : List PWrite) : State := ws.foldl (fun s w => s.widen w.id w.scope) s

theorem performAll_keeps {ws : List PWrite} {t : State} {id scope : Nat} (h : Reached id scope t) : Reached id scope (t.performAll ws) := by
  induction ws generalizing t with
  | nil => exact h
  | cons w ws ih => exact ih (widen_keeps_reached h _ _)

theorem performAll_reaches {ws : List PWrite} {t : State} {w : PWrite} (h : w ∈ ws) : Reached w.id w.scope (t.performAll ws) := by
  induction ws generalizing t with
  | nil => exact absurd h List.not_mem_nil
  | cons v ws ih =>
    rcases List.mem_cons.1 h with rfl | hin
    · exact performAll_keeps (t := t.widen w.id w.scope) (widen_reaches t w.id w.scope)
    · exact ih hin

theorem performAll_newest (ws : List PWrite) (t : State) (pa : Nat) : (t.performAll ws).newest pa = t.newest pa :=
  foldl_keeps (π := fun s => s.newest pa) (fun s _ => widen_newest s _ _ pa) _ _

theorem performAll_beside (ws : List PWrite) (t : State) : (t.performAll ws).beside = t.beside :=
  foldl_keeps (fun s _ => widen_beside s _ _) _ _

theorem goBusy_of_no_rebuild (h : s.rebuild = []) (w : PWrite) (reach : Nat) : s.goBusy w reach = false := by
  have hway (w : PWrite) (reach : Nat) : s.wayBusy w reach = false := by
    rw [State.wayBusy, dirBusy_of_no_rebuild h, farBusy_of_no_rebuild h]
    exact Bool.and_false _
  unfold State.goBusy
  split
  · exact List.any_eq_false.2 fun x _ => by simp [hway]
  · exact hway w reach

/-- The machine without the stale walks of a unit that no team waits for. -/
def State.dropLapsed (s : State) (u : TlbUnit) : State := { s with walks := s.walks.filter fun w => !(u.reaches w.tlb && w.stale && s.walkLapsed w) }

/-- The accesses that a unit translated. -/
def State.writesThrough (s : State) (u : TlbUnit) : List PWrite := s.writes.filter fun w => u.within 1 w.core

theorem ack_eq (h : s.shoots.find? (fun x => x.id == s.ev.n) = some sh) (hu : sh.unacked[s.ev.m]? = some u)
    (hlapsed : ∀ w ∈ s.walks, u.reaches w.tlb = true → w.stale = true → s.walkLapsed w = true) (hreb : s.rebuild = []) :
    exec .tlbInvalidationAck s = .next (((s.dropLapsed u).performAll (s.writesThrough u)).modShoot sh.id fun x =>
      { x with unacked := x.unacked.filter (· != u) }) := by
  have hclear : ((s.dropLapsed u).walks.any fun w => u.reaches w.tlb && w.stale) = false := by
    refine List.any_eq_false.2 fun w hw hstale => ?_
    obtain ⟨hin, hkeep⟩ := List.mem_filter.1 hw
    obtain ⟨hreach, hst⟩ := Bool.and_eq_true_iff.1 hstale
    rw [hreach, hst, hlapsed w hin hreach hst] at hkeep
    exact Bool.false_ne_true hkeep
  have hfree : ((s.writesThrough u).any fun w => (s.dropLapsed u).goBusy w w.scope) = false :=
    List.any_eq_false.2 fun w _ => by simp [goBusy_of_no_rebuild (s := s.dropLapsed u) hreb]
  rw [exec_tlbInvalidationAck, execTlbInvalidationAck, h]
  dsimp only
  rw [hu]
  exact (if_neg (by rw [← Bool.not_eq_false, not_not]; exact hclear)).trans (if_neg (by rw [← Bool.not_eq_false, not_not]; exact hfree))

theorem mem_ack_shoots (h : sh ∈ s.shoots) (ws : List PWrite) : { sh with unacked := sh.unacked.filter (· ≠ u) } ∈
    (((s.dropLapsed u).performAll ws).modShoot sh.id fun x => { x with unacked := x.unacked.filter (· != u) }).shoots := by
  have hshoots : ((s.dropLapsed u).performAll ws).shoots = s.shoots := (congrArg State.shoots (performAll_beside ws (s.dropLapsed u)) :)
  rw [← filter_bne]
  exact mem_modShoot (f := fun x => { x with unacked := x.unacked.filter (· != u) }) (hshoots ▸ h)

theorem ack_performs (h : s.shoots.find? (fun x => x.id == s.ev.n) = some sh) (hu : sh.unacked[s.ev.m]? = some u)
    (hfresh : ∀ w ∈ s.walks, u.reaches w.tlb = true → w.stale = false) (hreb : s.rebuild = []) :
    ∃ t, exec .tlbInvalidationAck s = .next t ∧ { sh with unacked := sh.unacked.filter (· ≠ u) } ∈ t.shoots ∧
      (∀ pa, t.newest pa = s.newest pa) ∧ ∀ w ∈ s.writes, u.within 1 w.core = true → ∀ x ∈ t.writes, x.id = w.id → w.scope ≤ x.reach := by
  refine ⟨_, ack_eq h hu (fun w hw hreach hst => absurd hst (by simp [hfresh w hw hreach])) hreb, mem_ack_shoots (find?_shoot h).1 _,
    fun pa => ?_, fun w hw hin => ?_⟩
  · exact performAll_newest (s.writesThrough u) (s.dropLapsed u) pa
  · exact performAll_reaches (t := s.dropLapsed u) (List.mem_filter.2 ⟨hw, hin⟩)

theorem ack_drops (h : s.shoots.find? (fun x => x.id == s.ev.n) = some sh) (hu : sh.unacked[s.ev.m]? = some u)
    (hlapsed : ∀ w ∈ s.walks, u.reaches w.tlb = true → w.stale = true → s.walkLapsed w = true) (hreb : s.rebuild = []) :
    ∃ t, exec .tlbInvalidationAck s = .next t ∧ { sh with unacked := sh.unacked.filter (· ≠ u) } ∈ t.shoots ∧
      ∀ w, w ∈ t.walks ↔ w ∈ s.walks ∧ ¬ (u.reaches w.tlb = true ∧ w.stale = true) := by
  refine ⟨_, ack_eq h hu hlapsed hreb, mem_ack_shoots (find?_shoot h).1 _, fun w => ?_⟩
  have hwalks : ((s.dropLapsed u).performAll (s.writesThrough u)).walks = (s.dropLapsed u).walks :=
    (congrArg State.walks (performAll_beside _ (s.dropLapsed u)) :)
  refine (show _ ↔ w ∈ ((s.dropLapsed u).performAll (s.writesThrough u)).walks from Iff.rfl).trans ?_
  rw [hwalks]
  refine List.mem_filter.trans (and_congr_right fun hw => ?_)
  rw [Bool.not_eq_true', ← Bool.not_eq_true, Bool.and_eq_true, Bool.and_eq_true]
  exact not_congr ⟨fun h => h.1, fun h => ⟨h, hlapsed w hw h.1 h.2⟩⟩

theorem complete_step (s : State) : ∃ t, exec .shootdownComplete s = .next t ∧ { t with shoots := [] } = { s with shoots := [] } ∧
    ∀ x, x ∈ t.shoots ↔ x ∈ s.shoots ∧ ¬ (x.id = s.ev.n ∧ x.unreached = [] ∧ x.unacked = []) := by
  refine ⟨_, exec_shootdownComplete s, rfl, fun x => List.mem_filter.trans (and_congr_right fun _ => ?_)⟩
  rw [Bool.not_eq_true', ← Bool.not_eq_true, Bool.and_eq_true, Bool.and_eq_true, beq_iff_eq, List.isEmpty_iff, List.isEmpty_iff, and_assoc]

end

-- ## Walks

section
variable {s : State} {u : TlbUnit} {x : Team} {va : Nat}

/-- The walk translates an address for a team in the L1 TLB of its core. -/
def WalkRec.isFor (w : WalkRec) (x : Team) (va : Nat) : Prop := w.tlb = .l1 x.core ∧ w.asid = x.asid ∧ w.va = va

/-- The same as the model asks it. -/
def WalkRec.isMine (w : WalkRec) (x : Team) (va : Nat) : Bool := w.tlb == .l1 x.core && w.asid == x.asid && w.va == va

theorem isMine_iff (w : WalkRec) (x : Team) (va : Nat) : w.isMine x va = true ↔ w.isFor x va := by
  simp [WalkRec.isMine, WalkRec.isFor, and_assoc]

/-- The walk that begins with a leaf, if there is one. -/
def begunWalk (x : Team) (va : Nat) (r : Option (Nat × Nat)) : List WalkRec :=
  (r.map fun r => (⟨.l1 x.core, x.asid, va, r.1, BitVec.ofNat 64 r.2, false⟩ : WalkRec)).toList

theorem begunWalk_fresh {r : Option (Nat × Nat)} {w : WalkRec} (h : w ∈ begunWalk x va r) : w.stale = false := by
  cases r with
  | none => exact absurd h List.not_mem_nil
  | some r => rw [List.mem_singleton.1 h]

/-- The team and the address of a walk's step. -/
def State.walker (s : State) : Team := s.team s.ev.key.tkey
def State.walkVa (s : State) : Nat := s.ev.n % 2 ^ 57

/-- The walks for other addresses. -/
def State.otherWalks (s : State) : List WalkRec := s.walks.filter fun w => !w.isMine s.walker s.walkVa

theorem mem_otherWalks {w : WalkRec} : w ∈ s.otherWalks ↔ w ∈ s.walks ∧ ¬ w.isFor s.walker s.walkVa := by
  refine List.mem_filter.trans (and_congr_right fun _ => ?_)
  rw [Bool.not_eq_true', ← Bool.not_eq_true, isMine_iff]

/-- The tables that the walker caches on its way. -/
def State.walkCached (s : State) (w : List Nat × Nat) : State := s.cacheTables (s.walker.core / 16) (s.walker.space .supervisor) s.walkVa w

theorem mem_walkCached {w : List Nat × Nat} {e : TableEntry} (h : e ∈ s.tables) : e ∈ (s.walkCached w).tables := List.mem_append_left _ h

/-- A walk's step by what it finds of the walk. -/
theorem tableWalk_eq (s : State) : exec .tableWalk s = match s.walks.find? (·.isMine s.walker s.walkVa) with
    | none => if (s.walks.filter fun w => w.tlb.block == s.walker.core / 16).length < 8 then
        .next { s.walkCached (s.walkStart (s.walker.core / 16) (s.walker.space .supervisor) s.walkVa) with
          walks := s.walks ++ begunWalk s.walker s.walkVa (s.fillable (s.walker.core / 16) (s.walker.space .supervisor) s.walkVa none) } else .next s
    | some w => if w.stale then
        .next { s.walkCached ([0, 1, 2, 3], (s.walker.space .supervisor).ptb) with
          walks := s.otherWalks ++ begunWalk s.walker s.walkVa
            (s.fillLeaf (s.walker.space .supervisor) none (s.walk (s.walker.space .supervisor).ptb s.walkVa)) }
      else
        .next ((({ s with walks := s.otherWalks } : State).fillFor (.l1 s.walker.core) s.walker s.walkVa w.lvl w.leaf.toNat).fillFor
          (.l2 (s.walker.core / 16)) s.walker s.walkVa w.lvl w.leaf.toNat) := rfl

theorem find?_none_of_no_walk (h : ∀ w ∈ s.walks, ¬ w.isFor x va) : s.walks.find? (·.isMine x va) = none :=
  List.find?_eq_none.2 fun w hw hm => h w hw ((isMine_iff w x va).1 hm)

theorem find?_only_walk {w : WalkRec} (hw : w ∈ s.walks) (hm : w.isFor x va) (honly : ∀ v ∈ s.walks, v.isFor x va → v = w) :
    s.walks.find? (·.isMine x va) = some w := by
  obtain ⟨v, hv⟩ := Option.isSome_iff_exists.1 (List.find?_isSome (p := (·.isMine x va)) |>.2 ⟨w, hw, (isMine_iff w x va).2 hm⟩)
  rw [hv, honly v (List.mem_of_find?_eq_some hv) ((isMine_iff v x va).1 (List.find?_some (p := fun v : WalkRec => v.isMine x va) hv))]

theorem walk_begins (hnone : ∀ w ∈ s.walks, ¬ w.isFor s.walker s.walkVa) (hroom : (s.walks.filter fun w => w.tlb.block == s.walker.core / 16).length < 8) :
    ∃ t, exec .tableWalk s = .next t ∧ { t with walks := [], tables := [] } = { s with walks := [], tables := [] } ∧ (∀ e ∈ s.tables, e ∈ t.tables) ∧
      (∀ lvl e, s.fillable (s.walker.core / 16) (s.walker.space .supervisor) s.walkVa none = some (lvl, e) →
        t.walks = s.walks ++ [⟨.l1 s.walker.core, s.walker.asid, s.walkVa, lvl, BitVec.ofNat 64 e, false⟩]) ∧
      (s.fillable (s.walker.core / 16) (s.walker.space .supervisor) s.walkVa none = none → t.walks = s.walks) := by
  rw [tableWalk_eq, find?_none_of_no_walk hnone]
  refine ⟨_, if_pos hroom, rfl, fun e he => mem_walkCached he, fun lvl e hfound => ?_, fun hfound => ?_⟩
  · dsimp only
    rw [hfound]
    rfl
  · dsimp only
    rw [hfound]
    exact List.append_nil _

theorem walk_waits (hnone : ∀ w ∈ s.walks, ¬ w.isFor s.walker s.walkVa)
    (hfull : 8 ≤ (s.walks.filter fun w => w.tlb.block == s.walker.core / 16).length) : exec .tableWalk s = .next s := by
  rw [tableWalk_eq, find?_none_of_no_walk hnone]
  exact if_neg (Nat.not_lt.2 hfull)

-- ## Entries that a walk fills

/-- The entry of a page in a TLB, in a set. -/
def pageEntry (u : TlbUnit) (set : Nat) (asid : BitVec 16) (va lvl leaf : Nat) : TlbEntry :=
  ⟨u, set, asid, lvl, va / 2 ^ levelShift lvl, BitVec.ofNat 64 leaf⟩

theorem mem_fillTlb (s : State) (u : TlbUnit) (set : Nat) (asid : BitVec 16) (va lvl leaf : Nat) :
    pageEntry u set asid va lvl leaf ∈ (s.fillTlb u set asid va lvl leaf).tlb := List.mem_append_right _ List.mem_cons_self

/-- Filling one TLB leaves the entries of every other. -/
theorem mem_fillTlb_other {e : TlbEntry} (he : e ∈ s.tlb) {set : Nat} {asid : BitVec 16} {lvl leaf : Nat} (hne : e.tlb ≠ u) :
    e ∈ (s.fillTlb u set asid va lvl leaf).tlb := by
  have hother : e ∈ s.tlb.filter fun x => !(x.tlb == u && x.asid == asid && x.lvl == lvl && x.page == va / 2 ^ levelShift lvl) :=
    List.mem_filter.2 ⟨he, by simp [hne]⟩
  refine List.mem_append_left _ ?_
  dsimp only
  split
  · exact hother
  · refine List.mem_filter.2 ⟨hother, ?_⟩
    rw [bne_iff_ne]
    intro hhead
    have hhere := (List.mem_filter.1 (List.mem_of_head? hhead.symm)).2
    exact hne (by simpa using (Bool.and_eq_true_iff.1 hhere).1)

theorem fillTlb_frame (s : State) (u : TlbUnit) (set : Nat) (asid : BitVec 16) (va lvl leaf : Nat) :
    { s.fillTlb u set asid va lvl leaf with tlb := [] } = { s with tlb := [] } := rfl

theorem fillFor_frame (s : State) (u : TlbUnit) (x : Team) (va lvl leaf : Nat) :
    { s.fillFor u x va lvl leaf with walks := [], tlb := [], tables := [] } = { s with walks := [], tlb := [], tables := [] } := rfl

theorem walk_ends {w : WalkRec} (hw : w ∈ s.walks) (hm : w.isFor s.walker s.walkVa) (honly : ∀ v ∈ s.walks, v.isFor s.walker s.walkVa → v = w) :
    ∃ t, exec .tableWalk s = .next t ∧
      { t with walks := [], tlb := [], tables := [] } = { s with walks := [], tlb := [], tables := [] } ∧
      (w.stale = true → t.tlb = s.tlb ∧ ∀ v ∈ t.walks, v.isFor s.walker s.walkVa → v.stale = false) ∧
      (w.stale = false → (∀ v ∈ t.walks, ¬ v.isFor s.walker s.walkVa) ∧
        ∀ u ∈ [TlbUnit.l1 s.walker.core, .l2 (s.walker.core / 16)],
          TlbEntry.mk u (u.setFor s.walker (s.walkVa / 2 ^ levelShift w.lvl)) s.walker.asid w.lvl (s.walkVa / 2 ^ levelShift w.lvl) w.leaf ∈ t.tlb) := by
  have hleaf : BitVec.ofNat 64 w.leaf.toNat = w.leaf := by simp
  rw [tableWalk_eq, find?_only_walk hw hm honly]
  by_cases hst : w.stale = true
  · refine ⟨_, if_pos hst, rfl, fun _ => ⟨rfl, fun v hv hmine => ?_⟩, fun h => absurd (h.symm.trans hst) Bool.false_ne_true⟩
    rcases List.mem_append.1 hv with hother | hbegun
    · exact absurd hmine (mem_otherWalks.1 hother).2
    · exact begunWalk_fresh hbegun
  · refine ⟨_, if_neg hst, (fillFor_frame ..).trans (fillFor_frame ..), fun h => absurd h hst, fun _ => ⟨fun v hv => (mem_otherWalks.1 hv).2, ?_⟩⟩
    have hfirst := mem_fillTlb ({ s with walks := s.otherWalks }) (.l1 s.walker.core)
      ((TlbUnit.l1 s.walker.core).setFor s.walker (s.walkVa / 2 ^ levelShift w.lvl)) s.walker.asid s.walkVa w.lvl w.leaf.toNat
    have hsecond := mem_fillTlb (({ s with walks := s.otherWalks } : State).fillFor (.l1 s.walker.core) s.walker s.walkVa w.lvl w.leaf.toNat)
      (.l2 (s.walker.core / 16)) ((TlbUnit.l2 (s.walker.core / 16)).setFor s.walker (s.walkVa / 2 ^ levelShift w.lvl)) s.walker.asid s.walkVa w.lvl
      w.leaf.toNat
    rw [pageEntry, hleaf] at hfirst hsecond
    simp only [List.forall_mem_cons]
    exact ⟨mem_fillTlb_other hfirst (by simp), hsecond, List.forall_mem_nil _⟩

-- ## Fetches ahead

theorem ahead_fills {lvl e : Nat} (h : s.fillable (s.ev.core / 16) s.ev.space s.walkVa (some (if s.ev.flag then .write else .read)) = some (lvl, e)) :
    ∃ t, exec .walkAheadFetch s = .next t ∧ pageEntry (.ahead s.ev.core) 0 s.ev.space.asid s.walkVa lvl e ∈ t.tlb ∧
      { t with tlb := [] } = { s with tlb := [] } := by
  refine ⟨s.fillTlb (.ahead s.ev.core) 0 s.ev.space.asid s.walkVa lvl e, ?_, mem_fillTlb .., fillTlb_frame ..⟩
  rw [exec_walkAheadFetch, execWalkAheadFetch]
  rw [← State.walkVa, h]

theorem ahead_finds_none (h : s.fillable (s.ev.core / 16) s.ev.space s.walkVa (some (if s.ev.flag then .write else .read)) = none) :
    exec .walkAheadFetch s = .next s := by
  rw [exec_walkAheadFetch, execWalkAheadFetch]
  rw [← State.walkVa, h]

end

end Sys2Proof.Machine

/-! Residency requests (R254, R255). -/

namespace Sys2Proof.Machine

section
variable {s : State} {pa : Nat} {bs : List Byte}

-- ## Writes of the device

theorem deviceWrite_newest (s : State) (pa : Nat) (bs : List Byte) (x : Nat) :
    (s.deviceWrite pa bs).newest x = if h : pa ≤ x ∧ x - pa < bs.length then bs[x - pa]'h.2 else s.newest x := by
  rw [State.deviceWrite, writeHome_newest, newest_of_store (s := s) (t := s.noteOwn none pa bs) rfl]

theorem deviceWrite_newest_outside {x : Nat} (h : x < pa ∨ pa + bs.length ≤ x) : (s.deviceWrite pa bs).newest x = s.newest x := by
  rw [deviceWrite_newest, dif_neg (by omega)]

theorem deviceWrite_writes (s : State) (pa : Nat) (bs : List Byte) :
    (s.deviceWrite pa bs).writes = ((s.noteOwn none pa bs).settleRange pa bs.length).writes := by
  simp [State.deviceWrite, State.writeHome, State.cleanCopies]

/-- No write on its way covers a byte of the range. -/
def Settled (t : State) (pa n : Nat) : Prop := ∀ i < n, ∀ w ∈ t.writes, ¬ w.covers (pa + i)

theorem deviceWrite_settles (s : State) (pa : Nat) (bs : List Byte) : Settled (s.deviceWrite pa bs) pa bs.length := by
  intro i hi w hw
  rw [deviceWrite_writes] at hw
  exact settleRange_no_cover (s.noteOwn none pa bs) (by omega) w hw

theorem Settled.deviceWrite {n base : Nat} (h : Settled s base n) (pa : Nat) (bs : List Byte) : Settled (s.deviceWrite pa bs) base n := by
  intro i hi w hw
  rw [deviceWrite_writes, State.settleRange, propagate_writes] at hw
  exact h i hi w ((mem_homeBound _ _ w).2 (.inr hw))

/-- Where no write is on its way, the bytes at the home are the newest. -/
theorem homeRead_settled {n : Nat} (h : Settled s pa n) : s.homeRead pa n = s.newestRead pa n := by
  rw [newestRead_eq]
  refine List.ext_getElem (by simp [State.homeRead]) fun i hi _ => ?_
  have hn : i < n := by simpa [State.homeRead] using hi
  rw [List.getElem_map, List.getElem_range, newest_of_no_cover (h i hn)]
  exact cellRead_getElem hn

/-- What is written stands at its home, after writes elsewhere too. -/
theorem homeRead_written {t : State} (hs : Settled t pa bs.length)
    (h : ∀ x, pa ≤ x → x < pa + bs.length → t.newest x = (s.deviceWrite pa bs).newest x) :
    t.homeRead pa bs.length = bs := by
  rw [homeRead_settled hs, newestRead_eq]
  refine List.ext_getElem (by simp) fun i hi hlen => ?_
  rw [List.getElem_map, List.getElem_range, h _ (Nat.le_add_right _ _) (by omega), deviceWrite_newest, dif_pos (by omega)]
  simp

-- ## The ring

/-- The descriptor page of the address space of a request, and its header line. -/
def State.ringHeader (s : State) : Nat := ofBytes s.ev.data + 0x4000
def State.ringFields (s : State) : Nat := s.engineNat s.ringHeader 64

/-- The ring is absent or full (R255). -/
def State.ringFull (s : State) : Prop :=
  natBits s.ringFields 68 64 = 0 ∨ 2 ^ natBits s.ringFields 68 64 ≤ (natBits s.ringFields 159 128 + 2 ^ 32 - natBits s.ringFields 223 192) % 2 ^ 32

/-- Where the next entry lies, and the entry (R254, R255). -/
def State.ringSlot (s : State) : Nat :=
  natBits s.ringFields 51 0 + 16 * (natBits s.ringFields 159 128 % 2 ^ natBits s.ringFields 68 64)
def State.ringEntry (s : State) : Nat :=
  s.ev.n + 2 ^ 64 * (s.ev.k % 2 ^ 16) + 2 ^ 80 * s.ev.core + 2 ^ 91 * s.ev.m + 2 ^ 96 * natBits s.ringFields 159 128

theorem residency_full (h : s.ringFull) : exec .residencyRequest s =
    .next (s.deviceWrite (s.ringHeader + 20) (bytesOf 4 (natBits s.ringFields 191 160 / 2 * 2 + 1))) := by
  refine if_pos ?_
  rw [Bool.or_eq_true, decide_eq_true_eq, decide_eq_true_eq]
  exact h

theorem residency_room (h : ¬ s.ringFull) : exec .residencyRequest s =
    .next ((s.deviceWrite s.ringSlot (bytesOf 16 s.ringEntry)).deviceWrite (s.ringHeader + 16) (bytesOf 4 (natBits s.ringFields 159 128 + 1))) := by
  refine if_neg ?_
  rw [Bool.or_eq_true, decide_eq_true_eq, decide_eq_true_eq]
  exact h

theorem residency_overflows (h : s.ringFull) : ∃ t, exec .residencyRequest s = .next t ∧
    t.homeRead (s.ringHeader + 20) 4 = bytesOf 4 (natBits s.ringFields 191 160 / 2 * 2 + 1) ∧
    ∀ pa, pa < s.ringHeader + 20 ∨ s.ringHeader + 24 ≤ pa → t.newest pa = s.newest pa :=
  ⟨_, residency_full h, homeRead_written (s := s) (deviceWrite_settles s _ (bytesOf 4 _)) fun _ _ _ => rfl, fun _ hpa => deviceWrite_newest_outside hpa⟩

theorem residency_enters (h : ¬ s.ringFull) (hapart : overlaps s.ringSlot 16 (s.ringHeader + 16) 4 = false) :
    ∃ t, exec .residencyRequest s = .next t ∧ t.homeRead (s.ringHeader + 16) 4 = bytesOf 4 (natBits s.ringFields 159 128 + 1) ∧
      t.homeRead s.ringSlot 16 = bytesOf 16 s.ringEntry ∧
      ∀ pa, (pa < s.ringSlot ∨ s.ringSlot + 16 ≤ pa) → (pa < s.ringHeader + 16 ∨ s.ringHeader + 20 ≤ pa) → t.newest pa = s.newest pa := by
  have hdisjoint : s.ringSlot + 16 ≤ s.ringHeader + 16 ∨ s.ringHeader + 20 ≤ s.ringSlot := by
    simp only [overlaps, Bool.and_eq_false_iff, decide_eq_false_iff_not] at hapart
    omega
  refine ⟨_, residency_room h, homeRead_written (deviceWrite_settles _ _ (bytesOf 4 _)) fun _ _ _ => rfl, ?_, fun pa hslot htail => ?_⟩
  · refine homeRead_written (s := s) ((deviceWrite_settles s _ (bytesOf 16 s.ringEntry)).deviceWrite _ _) fun x hlo hhi => ?_
    rw [bytesOf_length] at hhi
    refine deviceWrite_newest_outside ?_
    rw [bytesOf_length]
    omega
  · exact (deviceWrite_newest_outside htail).trans (deviceWrite_newest_outside hslot)

end

/-- Settles O31: each step is what the model's equation for it says, and a request's writes are the newest bytes where they lie. -/
theorem translationSteps : Obligations.TranslationSteps := by
  unfold Obligations.TranslationSteps
  intro s
  refine ⟨fun sh u hsh => ⟨arrival_step hsh, ack_performs hsh, ack_drops hsh⟩, complete_step s, ?_, ?_⟩
  · refine ⟨fun hnone => ⟨walk_begins hnone, walk_waits hnone⟩, fun w hw hm honly => ?_, fun lvl e => ahead_fills, ahead_finds_none⟩
    obtain ⟨t, ht, hframe, hstale, hfills⟩ := walk_ends hw hm honly
    refine ⟨t, ht, hframe, hstale, fun hfresh => ?_⟩
    obtain ⟨hgone, hentries⟩ := hfills hfresh
    exact ⟨hgone, hentries _ List.mem_cons_self, hentries _ (List.mem_cons_of_mem _ List.mem_cons_self)⟩
  · exact ⟨residency_overflows, residency_enters⟩

end Sys2Proof.Machine
